-- ==== Sys2Proof/Word.lean ====
section
/-! DEFINITION. Word: the machine words of the manual (R11) as fixed-width bit vectors. -/

namespace Sys2Proof

/-- A byte. -/
abbrev Byte := BitVec 8
/-- A 16-bit field. -/
abbrev W16 := BitVec 16
/-- A 32-bit word, the unit of the command layout (R71) and of the records (R345). -/
abbrev W32 := BitVec 32
/-- A 64-bit word, a scalar register (R102) or a 64-bit BAR0 register (R19). -/
abbrev W64 := BitVec 64
/-- A Nordon instruction (R105). -/
abbrev W128 := BitVec 128
/-- A command slot (R71). -/
abbrev W512 := BitVec 512

end Sys2Proof
end

