-- ==== Sys2Proof/Machine/Base.lean ====
section
/-! DEFINITION. Base: bit fields, tables of like units and byte memories, the plain data of which the state is
made. -/

namespace Sys2Proof.Machine

/-- The field of `len` bits of `w` that starts at bit `lo`. -/
def fld {n : Nat} (w : BitVec n) (lo len : Nat) : Nat := w.toNat / 2 ^ lo % 2 ^ len

/-- Bit `i` of `w`. -/
def bit {n : Nat} (w : BitVec n) (i : Nat) : Bool := w.getLsbD i

/-- A bit as a number. -/
def b2n (b : Bool) : Nat := if b then 1 else 0

/-- The value `v` placed at bit `lo` of a register of `len` bits, bits above the field dropped. -/
def at_ (v lo len : Nat) : Nat := v % 2 ^ len * 2 ^ lo

/-- A count that saturates at `top`. -/
def satInc (top n : Nat) : Nat := if n < top then n + 1 else top

/-- The signed value of the low `w` bits of `n`. -/
def signedOf (w n : Nat) : Int :=
  let m := n % 2 ^ w
  if m < 2 ^ (w - 1) then (m : Int) else (m : Int) - 2 ^ w

/-! ### Tables -/

/-- A table of like units by number, keys rising; a number not listed has the unit's reset value. -/
abbrev Tab (α : Type) := List (Nat × α)

/-- The entry of unit `k`, `d` when it is not listed. -/
def Tab.get {α : Type} (d : α) : Tab α → Nat → α
  | [], _ => d
  | (k, v) :: t, j => if j = k then v else Tab.get d t j

/-- The table with unit `j` set to `v`. -/
def Tab.put {α : Type} : Tab α → Nat → α → Tab α
  | [], j, v => [(j, v)]
  | (k, x) :: t, j, v =>
    if j = k then (j, v) :: t
    else if j < k then (j, v) :: (k, x) :: t
    else (k, x) :: Tab.put t j v

/-- The table without unit `j`. -/
def Tab.del {α : Type} (t : Tab α) (j : Nat) : Tab α := t.filter (fun p => p.1 ≠ j)

/-- Every listed unit changed by `f`. -/
def Tab.mapV {α : Type} (f : α → α) (t : Tab α) : Tab α := List.map (fun p => (p.1, f p.2)) t

/-- The entry of unit `k`, when it is listed. -/
def Tab.find {α : Type} : Tab α → Nat → Option α
  | [], _ => none
  | (k, v) :: t, j => if j = k then some v else Tab.find t j

/-! ### Memories -/

/-- A byte memory: the bytes that are not zero, addresses strictly rising (log 4). -/
abbrev Mem := List Host.Cell

/-- What a byte that is not listed reads as (log 4). -/
def Mem.unlisted : Byte := 0

/-- The canonical form: addresses strictly rising, and no listed byte equal to what an unlisted one reads as. -/
def Mem.wf : Mem → Bool
  | [] => true
  | [c] => c.2 != Mem.unlisted
  | c :: c' :: m => c.2 != Mem.unlisted && decide (c.1 < c'.1) && Mem.wf (c' :: m)

/-- The byte at address `a`. -/
def Mem.read : Mem → Nat → Byte
  | [], _ => Mem.unlisted
  | c :: m, a => if a = c.1 then c.2 else Mem.read m a

/-- `b` put in front of `m` at address `a`, unless it is what an unlisted byte reads as. -/
def Mem.consCell (a : Nat) (b : Byte) (m : Mem) : Mem := if b = Mem.unlisted then m else (a, b) :: m

/-- The memory with byte `a` set to `b`. -/
def Mem.write : Mem → Nat → Byte → Mem
  | [], a, b => Mem.consCell a b []
  | c :: m, a, b =>
    if a = c.1 then Mem.consCell a b m
    else if a < c.1 then Mem.consCell a b (c :: m)
    else c :: Mem.write m a b

/-- The `n` bytes from address `a` on. -/
def Mem.bytes (m : Mem) (a n : Nat) : List Byte := (List.range n).map (fun i => m.read (a + i))

/-- Consecutive bytes written from address `a` on. -/
def Mem.writes : Mem → Nat → List Byte → Mem
  | m, _, [] => m
  | m, a, b :: bs => Mem.writes (m.write a b) (a + 1) bs

/-- The memory with every byte of `[lo, hi)` set to zero. -/
def Mem.clear (m : Mem) (lo hi : Nat) : Mem := m.filter (fun c => decide (c.1 < lo) || decide (hi ≤ c.1))

/-- The little-endian number of a byte list (R11). -/
def leNat : List Byte → Nat
  | [] => 0
  | b :: bs => b.toNat + 256 * leNat bs

/-- The `n` little-endian bytes of a number (R11). -/
def leBytes : Nat → Nat → List Byte
  | 0, _ => []
  | n + 1, v => BitVec.ofNat 8 v :: leBytes n (v / 256)

/-- The little-endian number of the `n` bytes at `a`. -/
def Mem.nat (m : Mem) (a n : Nat) : Nat := leNat (m.bytes a n)

/-! ### Checks of stored data -/

/-- One bit step of the reflected CRC-32C with polynomial 0x1EDC6F41 (R291). -/
def crcStep (c : W32) : W32 := if c.getLsbD 0 then (c >>> 1) ^^^ 0x82F63B78#32 else c >>> 1

/-- The register after one more byte. -/
def crcByte (c : W32) (b : Byte) : W32 :=
  crcStep (crcStep (crcStep (crcStep (crcStep (crcStep (crcStep (crcStep (c ^^^ b.zeroExtend 32))))))))

/-- The CRC-32C of a byte list under the conventions of R291. -/
def crc32c (bs : List Byte) : W32 := (bs.foldl crcByte 0xFFFFFFFF#32) ^^^ 0xFFFFFFFF#32

/-- CHECK of a die identity (Table 12.1). -/
def idCheck (w : W128) : W32 := crc32c (leBytes 12 (fld w 0 96))

/-- Every die as shipped carries STEPPING 1 (R449); fuses whose CHECK fails may read as anything. -/
def steppingOk (w : W128) : Bool := decide (fld w 4 4 = 1 ∨ BitVec.ofNat 32 (fld w 96 32) ≠ idCheck w)

/-- The line code of a 64-byte line and its scale tag (R316). -/
def lineCode (bs : List Byte) (tag : Nat) : W32 := crc32c (bs ++ [BitVec.ofNat 8 (tag % 8)])

/-! ### What an event of a unit brings with it -/

/-- A datapath fault: the byte at an offset of the result's byte list, XORed with a mask; a matrix result's bytes are
those of its tile operations in turn. -/
structure Flt where
  off : Nat
  mask : Byte
deriving DecidableEq, Repr

/-- Damage of a stored HBM sector that an access meets: the byte at an offset, 0-63 of the data and 64-71 of the check
word, XORed with a mask, and what the stack's on-die ECC does: 0 nothing, 1 it flags the next read uncorrectable (R293),
2 it has corrected the sector, which the stack counts and which alters nothing (R294). -/
structure Hit where
  sector : Nat
  off : Nat
  mask : Byte
  ecc : Nat
deriving DecidableEq, Repr

/-- A namespace that Identify lists as active (R309, R310): its size in blocks and its LBA format. -/
structure NvSpace where
  id : Nat
  blocks : Nat
  blockBytes : Nat
  metaBytes : Nat
deriving DecidableEq, Repr

/-- A controller on a downstream port of the storage switch, as the engine finds it (R309, R310): what it reports of
itself, its largest transfer in blocks (0 none), and the step of the initialisation that it fails, if any. -/
structure NvFound where
  port : Nat
  conforms : Bool
  prp : Bool
  mqes : Nat
  pairs : Nat
  mdts : Nat
  failed : Option Nat
  spaces : List NvSpace
deriving DecidableEq, Repr

/-- The update datapath fault an event brings (R324): the group, the element within it and the role of its
output word, and the masks that the main datapath, the duplicate, the repeat and the arbiter put on that word. -/
structure UpdFlt where
  group : Nat
  elem : Nat
  role : Nat
  mainX : W32
  dupX : W32
  repX : W32
  arbX : W32
deriving DecidableEq, Repr

/-- A frame received on a domain plane in a calibration (R44): the link, the line that its local oscillator takes, and the
frame's source id. -/
structure Frame where
  link : Nat
  line : Nat
  src : Nat
deriving DecidableEq, Repr

/-- A cell: the fields of Table 10.2 but for the CRC, which is formed when the cell is sent, and its payload lines. -/
structure Cell where
  src : Nat
  dst : Nat
  plane : Nat
  typ : Nat
  epoch : Nat
  flow : Nat
  seq : Nat
  off : Nat
  lines : List (List Byte)
  tags : List Nat
deriving DecidableEq, Repr

end Sys2Proof.Machine
end

