-- ==== Sys2Proof/Syntax.lean ====
section
/-! DEFINITION. Syntax: the commands of the block, one constructor for each row of the table of operations and events
(spec/opcode_table.json). A command dispatched from a stream carries the stream and the streams whose head commands are not
yet decoded (R62, R64); an instruction carries its cluster (number 8d + c); an event carries what arrives. -/

namespace Sys2Proof

open Sys2Proof.Machine

/-- The commands. -/
inductive Instr where
  /-- STREAM_SLOT_WRITE (R58). -/
  | streamSlotWrite (st : Nat) (off : Nat) (data : List Byte)
  /-- INGEST_READ_SLOT (R62). -/
  | ingestReadSlot (st : Nat)
  /-- UNKNOWN_COMMAND (R81). -/
  | unknownCommand (st : Nat) (late : List Nat)
  /-- NOP (R80). -/
  | nop (st : Nat) (late : List Nat)
  /-- FENCE (R65). -/
  | fence (st : Nat) (late : List Nat)
  /-- FENCE_COMPLETE (R65). -/
  | fenceComplete (no : Nat)
  /-- TOKEN_SET (R80). -/
  | tokenSet (st : Nat) (late : List Nat)
  /-- TOKEN_RELEASE (R77). -/
  | tokenRelease (st : Nat) (late : List Nat)
  /-- SET_PROFILE (R509). -/
  | setProfile (st : Nat) (late : List Nat)
  /-- JOB_OPEN (R83). -/
  | jobOpen (st : Nat) (late : List Nat)
  /-- JOB_CLOSE (R83). -/
  | jobClose (st : Nat) (late : List Nat)
  /-- JOB_CLOSE_ZEROING (R267). -/
  | jobCloseZeroing (no : Nat)
  /-- JOB_CLOSE_DONE (R595). -/
  | jobCloseDone (no : Nat)
  /-- SET_RECIPE (R222). -/
  | setRecipe (st : Nat) (late : List Nat) (hs : List Hit)
  /-- LOAD_PROGRAM (R135). -/
  | loadProgram (st : Nat) (late : List Nat) (hs : List Hit)
  /-- LOAD_PROGRAM_PAGE_WRITE (R135). -/
  | loadProgramPageWrite (no : Nat) (cl : Nat) (page : Nat)
  /-- GROUP_DEFINE (R84). -/
  | groupDefine (st : Nat) (late : List Nat)
  /-- GROUP_START (R84). -/
  | groupStart (st : Nat) (late : List Nat)
  /-- GROUP_STOP (R87). -/
  | groupStop (st : Nat) (late : List Nat)
  /-- BATCH_ADMIT (R88). -/
  | batchAdmit (st : Nat) (late : List Nat)
  /-- EPH_LOAD (R261). -/
  | ephLoad (st : Nat) (late : List Nat) (hs : List Hit)
  /-- TILE_MOVE (R257). -/
  | tileMove (st : Nat) (late : List Nat) (hs : List Hit)
  /-- STORAGE_XFER (R312). -/
  | storageXfer (st : Nat) (late : List Nat) (hs : List Hit)
  /-- HOST_COPY (R474). -/
  | hostCopy (st : Nat) (late : List Nat)
  /-- HOST_READ_COMPLETION (R474). -/
  | hostReadCompletion (tag : Nat) (status : Nat) (data : List Byte)
  /-- HOST_READ_TIMEOUT (R474). -/
  | hostReadTimeout (tag : Nat)
  /-- LEASE_LOAD (R377). -/
  | leaseLoad (st : Nat) (late : List Nat) (hs : List Hit)
  /-- ROUTE_LOAD (R390). -/
  | routeLoad (st : Nat) (late : List Nat) (hs : List Hit)
  /-- FLOW_LOAD (R406). -/
  | flowLoad (st : Nat) (late : List Nat) (hs : List Hit)
  /-- EPOCH_SET (R438). -/
  | epochSet (st : Nat) (late : List Nat)
  /-- EPOCH_FENCE_END (R438). -/
  | epochFenceEnd
  /-- REBLOCK (R441). -/
  | reblock (st : Nat) (late : List Nat) (hs : List Hit)
  /-- STREAM_ENABLE (R70). -/
  | streamEnable (st : Nat) (on : Bool)
  /-- STREAM_RESET (R69). -/
  | streamReset (st : Nat)
  /-- STREAM_PAUSE (R65). -/
  | streamPause (st : Nat) (on : Bool)
  /-- CLEAR_MISPLACED (R61). -/
  | clearMisplaced (st : Nat)
  /-- SKIP_SELECT (R92). -/
  | skipSelect (st : Nat) (idx : Nat)
  /-- UNKNOWN_INSTRUCTION (R95). -/
  | unknownInstruction (cl : Nat)
  /-- ADD (R103). -/
  | add (cl : Nat) (mm : Bool)
  /-- SUB (R103). -/
  | sub (cl : Nat) (mm : Bool)
  /-- AND (R103). -/
  | and (cl : Nat) (mm : Bool)
  /-- OR (R103). -/
  | or (cl : Nat) (mm : Bool)
  /-- XOR (R103). -/
  | xor (cl : Nat) (mm : Bool)
  /-- SHL (R103). -/
  | shl (cl : Nat) (mm : Bool)
  /-- SHR (R103). -/
  | shr (cl : Nat) (mm : Bool)
  /-- SRA (R103). -/
  | sra (cl : Nat) (mm : Bool)
  /-- MUL (R103). -/
  | mul (cl : Nat) (mm : Bool)
  /-- MIN (R103). -/
  | min (cl : Nat) (mm : Bool)
  /-- MAX (R103). -/
  | max (cl : Nat) (mm : Bool)
  /-- SLT (R103). -/
  | slt (cl : Nat) (mm : Bool)
  /-- SLTU (R103). -/
  | sltu (cl : Nat) (mm : Bool)
  /-- SEQ (R103). -/
  | seq (cl : Nat) (mm : Bool)
  /-- ADDI (R103). -/
  | addi (cl : Nat) (mm : Bool)
  /-- LI (R103). -/
  | li (cl : Nat) (mm : Bool)
  /-- ANDI (R103). -/
  | andi (cl : Nat) (mm : Bool)
  /-- SHLI (R103). -/
  | shli (cl : Nat) (mm : Bool)
  /-- SHRI (R103). -/
  | shri (cl : Nat) (mm : Bool)
  /-- SRD (R104). -/
  | srd (cl : Nat) (mm : Bool)
  /-- SLD (R109). -/
  | sld (cl : Nat) (mm : Bool)
  /-- SST (R109). -/
  | sst (cl : Nat) (mm : Bool)
  /-- FLOW_NOP (R140). -/
  | flowNop (cl : Nat) (mm : Bool)
  /-- J (R115). -/
  | j (cl : Nat) (mm : Bool)
  /-- JAL (R115). -/
  | jal (cl : Nat) (mm : Bool)
  /-- JR (R110). -/
  | jr (cl : Nat) (mm : Bool)
  /-- BEQ (R115). -/
  | beq (cl : Nat) (mm : Bool)
  /-- BNE (R115). -/
  | bne (cl : Nat) (mm : Bool)
  /-- BLT (R115). -/
  | blt (cl : Nat) (mm : Bool)
  /-- BGE (R115). -/
  | bge (cl : Nat) (mm : Bool)
  /-- BLTU (R115). -/
  | bltu (cl : Nat) (mm : Bool)
  /-- BGEU (R115). -/
  | bgeu (cl : Nat) (mm : Bool)
  /-- HALT (R112). -/
  | halt (cl : Nat) (mm : Bool)
  /-- LOOP (R114). -/
  | loop (cl : Nat) (mm : Bool)
  /-- LOOPI (R114). -/
  | loopi (cl : Nat) (mm : Bool)
  /-- LEXIT (R116). -/
  | lexit (cl : Nat) (mm : Bool)
  /-- TLOAD (R167). -/
  | tload (cl : Nat)
  /-- TSTORE (R126). -/
  | tstore (cl : Nat)
  /-- TMOVE (R257). -/
  | tmove (cl : Nat)
  /-- LEVENT (R260). -/
  | levent (cl : Nat)
  /-- UPD (R226). -/
  | upd (cl : Nat)
  /-- MMA (R144). -/
  | mma (cl : Nat)
  /-- MMA2 (R170). -/
  | mma2 (cl : Nat)
  /-- VADD (R199). -/
  | vadd (cl : Nat)
  /-- VSUB (R199). -/
  | vsub (cl : Nat)
  /-- VMUL (R199). -/
  | vmul (cl : Nat)
  /-- VFMA (R199). -/
  | vfma (cl : Nat)
  /-- VMAX (R199). -/
  | vmax (cl : Nat)
  /-- VMIN (R199). -/
  | vmin (cl : Nat)
  /-- VABS (R199). -/
  | vabs (cl : Nat)
  /-- VNEG (R199). -/
  | vneg (cl : Nat)
  /-- VSEL (R199). -/
  | vsel (cl : Nat)
  /-- VCVT (R199). -/
  | vcvt (cl : Nat)
  /-- VRELU (R199). -/
  | vrelu (cl : Nat)
  /-- VLRELU (R199). -/
  | vlrelu (cl : Nat)
  /-- VMOV (R199). -/
  | vmov (cl : Nat)
  /-- VEXP (R200). -/
  | vexp (cl : Nat)
  /-- VLOG (R200). -/
  | vlog (cl : Nat)
  /-- VRCP (R200). -/
  | vrcp (cl : Nat)
  /-- VRSQRT (R200). -/
  | vrsqrt (cl : Nat)
  /-- VTANH (R200). -/
  | vtanh (cl : Nat)
  /-- VSIGM (R200). -/
  | vsigm (cl : Nat)
  /-- VGELU (R200). -/
  | vgelu (cl : Nat)
  /-- VSILU (R200). -/
  | vsilu (cl : Nat)
  /-- VSOFTPLUS (R200). -/
  | vsoftplus (cl : Nat)
  /-- VRSUM (R201). -/
  | vrsum (cl : Nat)
  /-- VRMAX (R201). -/
  | vrmax (cl : Nat)
  /-- VSQSUM (R201). -/
  | vsqsum (cl : Nat)
  /-- VSOFTMAX (R202). -/
  | vsoftmax (cl : Nat)
  /-- VSOFTMAX_BWD (R204). -/
  | vsoftmaxBwd (cl : Nat)
  /-- VLNORM (R206). -/
  | vlnorm (cl : Nat)
  /-- VLNORM_BWD (R207). -/
  | vlnormBwd (cl : Nat)
  /-- VRMSNORM (R206). -/
  | vrmsnorm (cl : Nat)
  /-- VRMSNORM_BWD (R207). -/
  | vrmsnormBwd (cl : Nat)
  /-- VDERIV (R208). -/
  | vderiv (cl : Nat)
  /-- VCFG (R195). -/
  | vcfg (cl : Nat)
  /-- FPUT (R418). -/
  | fput (cl : Nat)
  /-- FCOLL (R409). -/
  | fcoll (cl : Nat)
  /-- FBAR (R430). -/
  | fbar (cl : Nat)
  /-- FABORT (R432). -/
  | fabort (cl : Nat)
  /-- TWAIT (R132). -/
  | twait (cl : Nat)
  /-- TARM (R132). -/
  | tarm (cl : Nat)
  /-- TPOST (R132). -/
  | tpost (cl : Nat)
  /-- TREL (R132). -/
  | trel (cl : Nat)
  /-- QFENCE (R132). -/
  | qfence (cl : Nat)
  /-- PFENCE (R100). -/
  | pfence (cl : Nat)
  /-- LANE_INSTRUCTION_START (R123). -/
  | laneInstructionStart (core : Nat) (port : Nat) (upset : Option Flt)
  /-- OVERFLOW_REPLAY (R162). -/
  | overflowReplay (core : Nat) (array : Nat) (falsely : Option (Nat × Nat))
  /-- LANE_INSTRUCTION_COMPLETE (R99). -/
  | laneInstructionComplete (core : Nat) (port : Nat) (flt : Option Flt) (bad : List Nat) (missed : Bool)
  /-- PROOF_VERDICT (R320). -/
  | proofVerdict (core : Nat) (pos : Nat) (checker : Bool)
  /-- ENTRY_RELEASE (R328). -/
  | entryRelease (core : Nat)
  /-- ARBITRATION_REPEAT_DONE (R334). -/
  | arbitrationRepeatDone (core : Nat) (flt : Option Flt) (checker : Bool)
  /-- SPARE_EXECUTION_DONE (R335). -/
  | spareExecutionDone (core : Nat) (flt : Option Flt) (checker : Bool)
  /-- PROOF_BOUNDARY (R100). -/
  | proofBoundary (cl : Nat)
  /-- UPD_START (R229). -/
  | updStart (cl : Nat) (upset : Option Flt) (flts : List UpdFlt)
  /-- UPD_COMPLETE (R235). -/
  | updComplete (cl : Nat)
  /-- ROTATION_DUE (R340). -/
  | rotationDue (cl : Nat)
  /-- ROTATION_POSTPONED (R341). -/
  | rotationPostponed (cl : Nat)
  /-- CLUSTER_IDLE_POINT (R341). -/
  | clusterIdlePoint (cl : Nat)
  /-- SELF_TEST_END (R343). -/
  | selfTestEnd (core : Nat) (items : List (Nat × Nat × Nat × W32 × W32))
  /-- OCC_TEST_RUN (R342). -/
  | occTestRun (core : Nat)
  /-- SUSPECT_LAPSE (R338). -/
  | suspectLapse (unit : Nat) (key : Nat)
  /-- LEVENT_RECEIVE (R262). -/
  | leventReceive (cl : Nat)
  /-- EVENT_FIRE (R262). -/
  | eventFire (d : Nat) (ev : Nat) (ph : Nat)
  /-- ENTRY_ISSUE (R263). -/
  | entryIssue (d : Nat) (hs : List Hit)
  /-- LEVENT_RELEASE (R264). -/
  | leventRelease (cl : Nat) (iid : Nat)
  /-- EPHEMERIS_TAKE (R261). -/
  | ephemerisTake (d : Nat)
  /-- LEDGER_ACCEPT (R255). -/
  | ledgerAccept (d : Nat) (late : List Nat) (hs : List Hit)
  /-- FILL_END (R272). -/
  | fillEnd (d : Nat) (i : Nat) (bad : List Nat)
  /-- SOURCE_READ_END (R271). -/
  | sourceReadEnd (d : Nat) (i : Nat) (hs : List Hit)
  /-- DRAIN_END (R272). -/
  | drainEnd (d : Nat) (i : Nat) (bad : List Nat)
  /-- SOURCE_ERROR (R274). -/
  | sourceError (d : Nat) (i : Nat) (issued : Nat) (hs : List Hit)
  /-- RECOVERY_END (R274). -/
  | recoveryEnd (d : Nat) (i : Nat) (hs : List Hit)
  /-- LDG_RESUPPLY (R276). -/
  | ldgResupply (d : Nat) (entry : Nat) (supplied : Bool)
  /-- RESUPPLY_TIMEOUT (R276). -/
  | resupplyTimeout (d : Nat) (i : Nat)
  /-- BAR2_READ (R304). -/
  | bar2Read (off : Nat) (len : Nat) (hs : List Hit)
  /-- BAR2_WRITE (R304). -/
  | bar2Write (off : Nat) (data : List Byte) (hs : List Hit)
  /-- HBM_PARITY_ERROR (R296). -/
  | hbmParityError (k : Nat) (sector : Nat) (replays : Nat) (write : Bool) (lost : Bool)
  /-- STACK_TEMPERATURE (R297). -/
  | stackTemperature (k : Nat) (t : Int)
  /-- SELF_REFRESH_TIMEOUT (R301). -/
  | selfRefreshTimeout (kind : Nat) (no : Nat)
  /-- NVME_COMPLETION (R313). -/
  | nvmeCompletion (ctrl : Nat) (id : Nat) (status : Nat) (data : List Byte)
  /-- NVME_TIMEOUT (R313). -/
  | nvmeTimeout (ctrl : Nat) (id : Nat)
  /-- NVME_ABORT_TIMEOUT (R313). -/
  | nvmeAbortTimeout (ctrl : Nat) (id : Nat)
  /-- STAGING_VIOLATION (R311). -/
  | stagingViolation (ctrl : Nat)
  /-- HBM_XFER_CTRL_WRITE (R305). -/
  | hbmXferCtrlWrite (half : Nat) (v : W64)
  /-- ADDRESS_SLOT (R367). -/
  | addressSlot
  /-- SUPERFRAME_BOUNDARY (R369). -/
  | superframeBoundary
  /-- LEASED_BLOCK (R379). -/
  | leasedBlock (p : Nat)
  /-- PERIOD_LOST (R384). -/
  | periodLost (p : Nat) (count : Nat)
  /-- DATA_CELL (R415). -/
  | dataCell (p : Nat) (c : Cell) (aux : Nat)
  /-- BARRIER_CELL (R430). -/
  | barrierCell (p : Nat) (c : Cell)
  /-- ABORT_CELL (R433). -/
  | abortCell (p : Nat) (c : Cell)
  /-- TEST_CELL (R354). -/
  | testCell (p : Nat) (c : Cell)
  /-- RETURN (R356). -/
  | returnEntries (p : Nat) (c : Cell)
  /-- ACK (R356). -/
  | ack (src : Nat) (e : W64)
  /-- CREDIT (R281). -/
  | credit (src : Nat) (e : W64)
  /-- LOST (R383). -/
  | lost (src : Nat) (e : W64)
  /-- MISROUTE (R383). -/
  | misroute (src : Nat) (e : W64)
  /-- LEASE_OFFER (R377). -/
  | leaseOffer (p : Nat) (c : Cell)
  /-- LEASE_ACCEPT (R377). -/
  | leaseAccept (p : Nat) (c : Cell)
  /-- LEASE_REFUSE (R377). -/
  | leaseRefuse (p : Nat) (c : Cell)
  /-- LEASE_END (R377). -/
  | leaseEnd (p : Nat) (c : Cell)
  /-- CAL_NOTICE (R396). -/
  | calNotice (p : Nat) (c : Cell)
  /-- SHUTTER (R399). -/
  | shutter (p : Nat) (c : Cell)
  /-- ADDR_REPORT (R369). -/
  | addrReport (p : Nat) (c : Cell)
  /-- ADDR_SET (R369). -/
  | addrSet (p : Nat) (c : Cell)
  /-- TIMING (R366). -/
  | timing (p : Nat) (c : Cell) (off : Nat)
  /-- BEACON (R366). -/
  | beacon (p : Nat) (c : Cell)
  /-- COORDINATOR_TIMEOUT (R366). -/
  | coordinatorTimeout (heard : List Nat)
  /-- PUT_END (R419). -/
  | putEnd (p : Nat) (c : Cell)
  /-- STATS_CHAIN (R426). -/
  | statsChain (p : Nat) (c : Cell)
  /-- STATS_RESULT (R426). -/
  | statsResult (p : Nat) (c : Cell)
  /-- FETCH_REQ (R447). -/
  | fetchReq (p : Nat) (c : Cell)
  /-- FETCH_NACK (R447). -/
  | fetchNack (p : Nat) (c : Cell)
  /-- FETCH_TIMEOUT (R447). -/
  | fetchTimeout (d : Nat) (i : Nat)
  /-- STREAM_TOTAL (R441). -/
  | streamTotal (p : Nat) (c : Cell)
  /-- STRIPE_REQ (R446). -/
  | stripeReq (p : Nat) (c : Cell)
  /-- STRIPE_P_TIMEOUT (R446). -/
  | stripePTimeout (d : Nat) (i : Nat)
  /-- ABORT_REWRITE_DONE (R434). -/
  | abortRewriteDone (id : Nat)
  /-- QUIET_PERIOD_END (R437). -/
  | quietPeriodEnd (id : Nat)
  /-- FAB_ABORT_RAISE (R432). -/
  | fabAbortRaise (d : Nat) (group : Nat)
  /-- FAB_CLEAR_DROP (R416). -/
  | fabClearDrop (d : Nat)
  /-- CLEAR_SAT (R422). -/
  | clearSat (d : Nat)
  /-- LINK_FAILURE (R386). -/
  | linkFailure (p : Nat) (cond : Nat) (peer : Nat)
  /-- LINK_RETRY (R387). -/
  | linkRetry (p : Nat)
  /-- MISLOCK_DETECTED (R389). -/
  | mislockDetected (p : Nat) (how : Nat)
  /-- RETUNE_SETTLED (R362). -/
  | retuneSettled (p : Nat) (tx : Bool)
  /-- LEASE_OFFER_REPEAT (R377). -/
  | leaseOfferRepeat (p : Nat)
  /-- LEASE_RX_HOLD_TIMEOUT (R377). -/
  | leaseRxHoldTimeout (p : Nat)
  /-- LEASE_TIMEOUT (R377). -/
  | leaseTimeout (p : Nat)
  /-- LEASED_CALIBRATION (R396). -/
  | leasedCalibration
  /-- ADDR_PLANE_CALIBRATION (R397). -/
  | addrPlaneCalibration
  /-- CALIBRATION_END (R395). -/
  | calibrationEnd (p : Nat) (ok : Bool) (rt : Nat) (fs : List Frame)
  /-- SHUTTER_TRIGGER (R398). -/
  | shutterTrigger (p : Nat)
  /-- SILENCE_MUTE (R399). -/
  | silenceMute (plane : Nat) (dev : Nat)
  /-- MUTE_RESUME (R400). -/
  | muteResume (plane : Nat) (dev : Nat)
  /-- SHUTTER_PROBE (R400). -/
  | shutterProbe (p : Nat)
  /-- SHUTTER_PROBE_END (R400). -/
  | shutterProbeEnd (p : Nat) (received : Bool)
  /-- COMB_FIBRE_DROP (R401). -/
  | combFibreDrop (f : Nat) (power : Nat)
  /-- COMB_PROBE (R401). -/
  | combProbe (f : Nat) (good : Bool) (power : Nat)
  /-- COMB_LOCK (R359). -/
  | combLock (high : Bool) (dither : Bool)
  /-- COMB_ALARM_N (R361). -/
  | combAlarmN (low : Bool)
  /-- MER_CLEAR_DROP (R355). -/
  | merClearDrop (d : Nat)
  /-- CLEAR_LINKS (R386). -/
  | clearLinks (d : Nat)
  /-- MER_LINK_CLEAR (R386). -/
  | merLinkClear (p : Nat)
  /-- PORT_TRAINED (R462). -/
  | portTrained (d : Nat) (p : Nat) (mine : List Nat) (peer : List Nat)
  /-- FLIT_CRC_ERROR (R459). -/
  | flitCrcError (d : Nat) (p : Nat) (m : Nat) (nth : Nat)
  /-- D2D_PORT_CLEAR (R459). -/
  | d2dPortClear (d : Nat) (p : Nat)
  /-- REG_RD (R467). -/
  | regRd (y : Nat) (size : Nat)
  /-- REG_WR (R467). -/
  | regWr (y : Nat) (size : Nat) (v : W64)
  /-- COMPANION_REG_TIMEOUT (R467). -/
  | companionRegTimeout (tag : Nat)
  /-- COMPANION_COMPLETION (R466). -/
  | companionCompletion (tag : Nat) (status : Nat) (data : List Byte)
  /-- MEM_RD (R468). -/
  | memRd (tag : Nat) (len : Nat) (addr : Nat) (hs : List Hit)
  /-- MEM_WR (R468). -/
  | memWr (tag : Nat) (len : Nat) (addr : Nat) (data : List Byte)
  /-- COMPANION_EVENT (R466). -/
  | companionEvent (line : List Byte)
  /-- D2D_COMP_APERTURE_WRITE (R468). -/
  | d2dCompApertureWrite (off : Nat) (size : Nat) (v : W64)
  /-- PERST_N (R478). -/
  | perstN
  /-- PERST_N_RELEASE (R490). -/
  | perstNRelease
  /-- FLR (R478). -/
  | flr
  /-- HOT_RESET (R478). -/
  | hotReset
  /-- LINK_DOWN (R478). -/
  | linkDown
  /-- FLR_STOP_TIMEOUT (R478). -/
  | flrStopTimeout
  /-- LINK_TRAINED (R470). -/
  | linkTrained (flit : Bool) (speed : Nat) (width : Nat)
  /-- MEMORY_SPACE_ENABLE (R476). -/
  | memorySpaceEnable (on : Bool)
  /-- BUS_MASTER_ENABLE (R476). -/
  | busMasterEnable (on : Bool)
  /-- D3HOT (R477). -/
  | d3hot (on : Bool)
  /-- BAR2_RESIZE (R473). -/
  | bar2Resize (log2 : Nat)
  /-- IDE_CHECK_FAIL (R488). -/
  | ideCheckFail
  /-- STREAM_BUFFER_READ (R472). -/
  | streamBufferRead (len : Nat)
  /-- DMA_WINDOW_WRITE (R479). -/
  | dmaWindowWrite (off : Nat) (size : Nat) (v : W64)
  /-- EVR_ENABLE (R481). -/
  | evrEnable (size : Nat) (v : W64)
  /-- EVR_DISABLE (R481). -/
  | evrDisable (size : Nat) (v : W64)
  /-- HUB_EVR_BASE_WRITE (R481). -/
  | hubEvrBaseWrite (off : Nat) (size : Nat) (v : W64)
  /-- HUB_EVR_WB_WRITE (R481). -/
  | hubEvrWbWrite (off : Nat) (size : Nat) (v : W64)
  /-- EVR_CONSUMER_WRITE (R480). -/
  | evrConsumerWrite (size : Nat) (v : W64)
  /-- RECORD_DELIVERY (R482). -/
  | recordDelivery
  /-- EVR_COALESCE_TIMEOUT (R484). -/
  | evrCoalesceTimeout
  /-- MSIX_UNMASK (R485). -/
  | msixUnmask (v : Nat)
  /-- TOKEN_WATCH_WRITE (R486). -/
  | tokenWatchWrite (n : Nat) (off : Nat) (size : Nat) (v : W64)
  /-- CLOCK_EVALUATION (R504). -/
  | clockEvaluation (cl : Nat) (need : Nat) (pass : Nat)
  /-- POWER_LOOP (R508). -/
  | powerLoop (watts : Nat) (clusters : List Nat)
  /-- CLUSTER_GATE (R499). -/
  | clusterGate (cl : Nat)
  /-- CLU_CAP_WRITE (R504). -/
  | cluCapWrite (cl : Nat) (v : Nat)
  /-- SENSOR_SAMPLE (R511). -/
  | sensorSample (cl : Nat) (readings : List W16)
  /-- THERMAL_TRIP (R513). -/
  | thermalTrip (d : Nat) (reading : W16)
  /-- RAIL_SAMPLE (R517). -/
  | railSample (mv : List Nat)
  /-- SAG_STAGE_EXIT (R518). -/
  | sagStageExit
  /-- REGULATOR_OVERVOLTAGE (R494). -/
  | regulatorOvervoltage (r : Nat) (mv : Nat)
  /-- VIN_OVERVOLTAGE (R495). -/
  | vinOvervoltage (mv : Nat)
  /-- REGULATOR_FAULT (R496). -/
  | regulatorFault (r : Nat) (setting : Nat) (reading : Nat)
  /-- DROOP (R502). -/
  | droop (cl : Nat) (raised : Nat)
  /-- DROOP_END (R502). -/
  | droopEnd (cl : Nat)
  /-- CLOCK_LOCK_LOSS (R521). -/
  | clockLockLoss (row : Nat) (d : Nat)
  /-- CLEAR_SAG (R517). -/
  | clearSag
  /-- CLEAR_CLAMP (R506). -/
  | clearClamp
  /-- AO_POWER_GOOD (R522). -/
  | aoPowerGood
  /-- AO_POWER_LOSS (R574). -/
  | aoPowerLoss
  /-- AO_CLOCKS (R522). -/
  | aoClocks (ok : Bool)
  /-- ENCLAVE_ROM (R522). -/
  | enclaveRom (ok : Bool)
  /-- FETCH (R539). -/
  | fetch (readable : Bool)
  /-- VERIFY (R540). -/
  | verify
  /-- KAT (R553). -/
  | kat (ok : Bool)
  /-- DISCOVERY (R523). -/
  | discovery (ids : List W128) (dev : Nat) (dom : Nat) (limit : Nat) (pg : Bool) (certOk : Bool)
  /-- RAIL_WAIT_TIMEOUT (R523). -/
  | railWaitTimeout
  /-- DIE_LINKS (R458). -/
  | dieLinks (present : Bool) (width : List Nat) (speed : Nat) (desc : List Byte)
  /-- HBM (R298). -/
  | hbm (res : List (Bool × Nat × Nat)) (bad : List Nat)
  /-- SRAM (R525). -/
  | sram (bad : List (Nat × Nat × Nat))
  /-- OPTICAL (R526). -/
  | optical (up : List Nat) (rts : List Nat) (phase : Option Nat) (fs : List Frame)
  /-- COMB_LOCK_TIMEOUT (R526). -/
  | combLockTimeout
  /-- STORAGE (R309). -/
  | storage (up : Bool) (flit : Bool) (speed : Nat) (width : Nat) (found : List NvFound)
  /-- READY (R522). -/
  | ready
  /-- WARM (R529). -/
  | warm
  /-- WARM_STOP_TIMEOUT (R529). -/
  | warmStopTimeout
  /-- COLD (R532). -/
  | cold
  /-- DIE (R533). -/
  | die (sel : Nat)
  /-- DIE_RESET_COMPLETE (R533). -/
  | dieResetComplete (d : Nat) (ok : Bool) (sts : List (Nat × Nat)) (bad : List (Nat × Nat × Nat)) (up : List Nat) (rts : List Nat)
      (fs : List Frame)
  /-- CLU_RESET (R534). -/
  | cluReset (cl : Nat)
  /-- REQUEST_UPDATE (R545). -/
  | requestUpdate (b : Nat) (maxLen : Nat) (version : W32)
  /-- UPDATE_COMPONENT (R545). -/
  | updateComponent (b : Nat) (size : Nat)
  /-- FIRMWARE_DATA (R545). -/
  | firmwareData (b : Nat) (data : List Byte)
  /-- UPDATE_VERIFY_DONE (R545). -/
  | updateVerifyDone
  /-- ACTIVATE_FIRMWARE (R545). -/
  | activateFirmware (b : Nat)
  /-- GET_FIRMWARE_PARAMETERS (R544). -/
  | getFirmwareParameters (b : Nat)
  /-- QUERY_DEVICE_IDENTIFIERS (R544). -/
  | queryDeviceIdentifiers (b : Nat)
  /-- GET_PDR (R562). -/
  | getPdr (b : Nat) (handle : Nat)
  /-- GET_PDR_REPOSITORY_INFO (R562). -/
  | getPdrRepositoryInfo (b : Nat)
  /-- GET_SENSOR_READING (R562). -/
  | getSensorReading (b : Nat) (id : Nat)
  /-- GET_STATE_SENSOR_READINGS (R562). -/
  | getStateSensorReadings (b : Nat) (id : Nat)
  /-- SET_EVENT_RECEIVER (R563). -/
  | setEventReceiver (b : Nat)
  /-- POLL_FOR_PLATFORM_EVENT_MESSAGE (R563). -/
  | pollForPlatformEventMessage (b : Nat)
  /-- EVENT_MESSAGE_SUPPORTED (R562). -/
  | eventMessageSupported (b : Nat)
  /-- EVENT_MESSAGE_BUFFER_SIZE (R562). -/
  | eventMessageBufferSize (b : Nat)
  /-- PLATFORM_EVENT_RESPONSE (R563). -/
  | platformEventResponse (b : Nat)
  /-- PLATFORM_EVENT_TIMEOUT (R563). -/
  | platformEventTimeout
  /-- SENSOR_REFRESH (R562). -/
  | sensorRefresh
  /-- NEGOTIATE_ALGORITHMS (R550). -/
  | negotiateAlgorithms (b : Nat) (slhDsa : Bool)
  /-- GET_CERTIFICATE (R549). -/
  | getCertificate (b : Nat)
  /-- GET_MEASUREMENTS (R550). -/
  | getMeasurements (b : Nat) (idx : Nat) (sign : Bool)
  /-- CHALLENGE (R550). -/
  | challenge (b : Nat)
  /-- KEY_EXCHANGE (R550). -/
  | keyExchange (b : Nat) (sid : Nat)
  /-- KEY_PROG (R551). -/
  | keyProg (sid : Nat) (strm : Nat) (set : Nat)
  /-- K_SET_GO (R551). -/
  | kSetGo (sid : Nat) (set : Nat)
  /-- K_SET_STOP (R551). -/
  | kSetStop (sid : Nat)
  /-- GET_CHALLENGE (R561). -/
  | getChallenge (b : Nat)
  /-- SUBMIT_TOKEN (R559). -/
  | submitToken (b : Nat) (t : List Byte)
  /-- COLD_START (R561). -/
  | coldStart (b : Nat)
  /-- ZEROISE (R555). -/
  | zeroise (b : Nat)
  /-- ENC_ZEROISE (R555). -/
  | encZeroise
  /-- SELF_TEST (R553). -/
  | selfTest (ok : Bool)
  /-- ALIAS_CERT_ISSUE (R549). -/
  | aliasCertIssue
  /-- I3C_ADDRESS_ASSIGN (R560). -/
  | i3cAddressAssign (addr : Nat)
  /-- I3C_BUS_RESET (R560). -/
  | i3cBusReset
  /-- MAT_REPLAY_CLEAR (R163). -/
  | matReplayClear (core : Nat)
  /-- VEC_SAT_CLEAR (R186). -/
  | vecSatClear (core : Nat)
  /-- CLU_UPD_CLEAR (R233). -/
  | cluUpdClear (cl : Nat)
  /-- HBM_ERR_CLEAR (R293). -/
  | hbmErrClear (k : Nat)
  /-- COUNTER_LOW_READ (R19). -/
  | counterLowRead (off : Nat)
  /-- BAD_WIDTH_ACCESS (R19). -/
  | badWidthAccess (off : Nat) (size : Nat) (write : Bool) (v : W64)
  /-- REGISTER_WRITE (R17). -/
  | registerWrite (off : Nat) (size : Nat) (v : W64)
  /-- END_SESSION (R551). -/
  | endSession (b : Nat) (sid : Nat)
  /-- SET_ENDPOINT_ID (R560). -/
  | setEndpointId (b : Nat) (eid : Nat)
  /-- DEBUG_PORT_ACCESS (R557). -/
  | debugPortAccess (kind : Nat) (unit : Nat) (addr : Nat) (size : Nat) (v : W64) (data : List Byte)
  /-- CONDITIONAL_TEST_FAILURE (R554). -/
  | conditionalTestFailure
  /-- HOST_COPY_WRITTEN (R80). -/
  | hostCopyWritten (no : Nat) (issued : Nat) (reads : Nat) (hs : List Hit)
  /-- CONTROLLER_RESET_END (R313). -/
  | controllerResetEnd (ctrl : Nat) (ok : Bool)
  /-- UNKNOWN_CELL_TYPE (R357). -/
  | unknownCellType (p : Nat)
  /-- BMC_WARM_RESET_REQUEST (R532). -/
  | bmcWarmResetRequest
deriving DecidableEq, Repr

end Sys2Proof
end

