-- ==== Sys2Proof/WellFormed.lean ====
section
/-! DEFINITION. WellFormed: the ranges of the operands of a command. A command out of range names no part of the package,
and leaves the state as it is. -/

namespace Sys2Proof

open Sys2Proof.Machine

/-- Streams 0-63 (R56). -/
def okStream (st : Nat) : Bool := decide (st < 64)
/-- Clusters 8d + c of the four compute dies. -/
def okCluster (cl : Nat) : Bool := decide (cl < 32)
/-- Physical cores, nine to a cluster. -/
def okCore (k : Nat) : Bool := decide (k < 288)
/-- HBM stacks, three to a compute die. -/
def okStack (k : Nat) : Bool := decide (k < 12)
/-- Compute dies. -/
def okCompute (d : Nat) : Bool := decide (d < 4)
/-- Photonic dies. -/
def okPhotonic (d : Nat) : Bool := decide (d = 5 ∨ d = 6)
/-- Optical links. -/
def okLink (p : Nat) : Bool := decide (p < 64)
/-- Ports of a die. -/
def okPort (d p : Nat) : Bool := decide (d < 7 ∧ p < 7)
/-- NVMe controllers. -/
def okController (n : Nat) : Bool := decide (n < 4)
/-- Bindings of the management interface: I3C, SMBus, PCIe. -/
def okBinding (b : Nat) : Bool := decide (1 ≤ b ∧ b ≤ 3)
/-- Widths of a register access (R19). -/
def okSize (n : Nat) : Bool := decide (n = 4 ∨ n = 8)
/-- Damage lies in the 64 data bytes or the check word of a sector. -/
def okHits (hs : List Hit) : Bool := hs.all (fun h => decide (h.off < 72 ∧ h.ecc < 3))
/-- A speed and a width of the storage link (R308, Table 8.11). -/
def okStorageLink (speed width : Nat) : Bool := decide (1 ≤ speed ∧ speed ≤ 6) && [1, 2, 4, 8].contains width
/-- A cell (Table 10.2): fields in range, at most four lines of 64 bytes. -/
def okCell (c : Cell) : Bool :=
  decide (c.src < 1024 ∧ c.dst < 1024 ∧ c.plane < 64 ∧ c.typ < 16 ∧ c.epoch < 256 ∧ c.flow < 65536 ∧ c.seq < 4096 ∧ c.off < 2 ^ 24
    ∧ c.lines.length ≤ 4)
  && c.lines.all (fun l => decide (l.length = 64)) && c.tags.all (fun t => decide (t < 8))

/-- A frame received in a calibration. -/
def okFrame (f : Frame) : Bool := decide (f.link < 64 ∧ f.line < 64 ∧ f.src < 1024)

/-- Whether the operands of a command are in range. -/
def Instr.wellFormed : Instr → Bool
  | .streamSlotWrite st _ _ => okStream st
  | .ingestReadSlot st => okStream st
  | .unknownCommand st late => okStream st && late.all okStream
  | .nop st late => okStream st && late.all okStream
  | .fence st late => okStream st && late.all okStream
  | .fenceComplete _ => true
  | .tokenSet st late => okStream st && late.all okStream
  | .tokenRelease st late => okStream st && late.all okStream
  | .setProfile st late => okStream st && late.all okStream
  | .jobOpen st late => okStream st && late.all okStream
  | .jobClose st late => okStream st && late.all okStream
  | .jobCloseZeroing _ => true
  | .jobCloseDone _ => true
  | .setRecipe st late hs => okStream st && late.all okStream && okHits hs
  | .loadProgram st late hs => okStream st && late.all okStream && okHits hs
  | .loadProgramPageWrite _ cl _ => okCluster cl
  | .groupDefine st late => okStream st && late.all okStream
  | .groupStart st late => okStream st && late.all okStream
  | .groupStop st late => okStream st && late.all okStream
  | .batchAdmit st late => okStream st && late.all okStream
  | .ephLoad st late hs => okStream st && late.all okStream && okHits hs
  | .tileMove st late hs => okStream st && late.all okStream && okHits hs
  | .storageXfer st late hs => okStream st && late.all okStream && okHits hs
  | .hostCopy st late => okStream st && late.all okStream
  | .hostReadCompletion _ _ _ => true
  | .hostReadTimeout _ => true
  | .leaseLoad st late hs => okStream st && late.all okStream && okHits hs
  | .routeLoad st late hs => okStream st && late.all okStream && okHits hs
  | .flowLoad st late hs => okStream st && late.all okStream && okHits hs
  | .epochSet st late => okStream st && late.all okStream
  | .epochFenceEnd => true
  | .reblock st late hs => okStream st && late.all okStream && okHits hs
  | .streamEnable st _ => okStream st
  | .streamReset st => okStream st
  | .streamPause st _ => okStream st
  | .clearMisplaced st => okStream st
  | .skipSelect st _ => okStream st
  | .unknownInstruction cl => okCluster cl
  | .add cl _ => okCluster cl
  | .sub cl _ => okCluster cl
  | .and cl _ => okCluster cl
  | .or cl _ => okCluster cl
  | .xor cl _ => okCluster cl
  | .shl cl _ => okCluster cl
  | .shr cl _ => okCluster cl
  | .sra cl _ => okCluster cl
  | .mul cl _ => okCluster cl
  | .min cl _ => okCluster cl
  | .max cl _ => okCluster cl
  | .slt cl _ => okCluster cl
  | .sltu cl _ => okCluster cl
  | .seq cl _ => okCluster cl
  | .addi cl _ => okCluster cl
  | .li cl _ => okCluster cl
  | .andi cl _ => okCluster cl
  | .shli cl _ => okCluster cl
  | .shri cl _ => okCluster cl
  | .srd cl _ => okCluster cl
  | .sld cl _ => okCluster cl
  | .sst cl _ => okCluster cl
  | .flowNop cl _ => okCluster cl
  | .j cl _ => okCluster cl
  | .jal cl _ => okCluster cl
  | .jr cl _ => okCluster cl
  | .beq cl _ => okCluster cl
  | .bne cl _ => okCluster cl
  | .blt cl _ => okCluster cl
  | .bge cl _ => okCluster cl
  | .bltu cl _ => okCluster cl
  | .bgeu cl _ => okCluster cl
  | .halt cl _ => okCluster cl
  | .loop cl _ => okCluster cl
  | .loopi cl _ => okCluster cl
  | .lexit cl _ => okCluster cl
  | .tload cl => okCluster cl
  | .tstore cl => okCluster cl
  | .tmove cl => okCluster cl
  | .levent cl => okCluster cl
  | .upd cl => okCluster cl
  | .mma cl => okCluster cl
  | .mma2 cl => okCluster cl
  | .vadd cl => okCluster cl
  | .vsub cl => okCluster cl
  | .vmul cl => okCluster cl
  | .vfma cl => okCluster cl
  | .vmax cl => okCluster cl
  | .vmin cl => okCluster cl
  | .vabs cl => okCluster cl
  | .vneg cl => okCluster cl
  | .vsel cl => okCluster cl
  | .vcvt cl => okCluster cl
  | .vrelu cl => okCluster cl
  | .vlrelu cl => okCluster cl
  | .vmov cl => okCluster cl
  | .vexp cl => okCluster cl
  | .vlog cl => okCluster cl
  | .vrcp cl => okCluster cl
  | .vrsqrt cl => okCluster cl
  | .vtanh cl => okCluster cl
  | .vsigm cl => okCluster cl
  | .vgelu cl => okCluster cl
  | .vsilu cl => okCluster cl
  | .vsoftplus cl => okCluster cl
  | .vrsum cl => okCluster cl
  | .vrmax cl => okCluster cl
  | .vsqsum cl => okCluster cl
  | .vsoftmax cl => okCluster cl
  | .vsoftmaxBwd cl => okCluster cl
  | .vlnorm cl => okCluster cl
  | .vlnormBwd cl => okCluster cl
  | .vrmsnorm cl => okCluster cl
  | .vrmsnormBwd cl => okCluster cl
  | .vderiv cl => okCluster cl
  | .vcfg cl => okCluster cl
  | .fput cl => okCluster cl
  | .fcoll cl => okCluster cl
  | .fbar cl => okCluster cl
  | .fabort cl => okCluster cl
  | .twait cl => okCluster cl
  | .tarm cl => okCluster cl
  | .tpost cl => okCluster cl
  | .trel cl => okCluster cl
  | .qfence cl => okCluster cl
  | .pfence cl => okCluster cl
  | .laneInstructionStart core port _ => okCore core && decide (port < 4)
  | .overflowReplay core array falsely => okCore core && decide (array < 2) && falsely.all (fun x => decide (x.1 ≤ 256 ∧ x.2 < 4))
  | .laneInstructionComplete core port _ _ _ => okCore core && decide (port < 4)
  | .proofVerdict core _ _ => okCore core
  | .entryRelease core => okCore core
  | .arbitrationRepeatDone core _ _ => okCore core
  | .spareExecutionDone core _ _ => okCore core
  | .proofBoundary cl => okCluster cl
  | .updStart cl _ _ => okCluster cl
  | .updComplete cl => okCluster cl
  | .rotationDue cl => okCluster cl
  | .rotationPostponed cl => okCluster cl
  | .clusterIdlePoint cl => okCluster cl
  | .selfTestEnd core _ => okCore core
  | .occTestRun core => okCore core
  | .suspectLapse _ _ => true
  | .leventReceive cl => okCluster cl
  | .eventFire d ev ph => okCompute d && decide (ph < 4 ∧ ev < 65536)
  | .entryIssue d hs => okCompute d && okHits hs
  | .leventRelease cl _ => okCluster cl
  | .ephemerisTake d => okCompute d
  | .ledgerAccept d _ hs => okCompute d && okHits hs
  | .fillEnd d _ _ => okCompute d
  | .sourceReadEnd d _ hs => okCompute d && okHits hs
  | .drainEnd d _ _ => okCompute d
  | .sourceError d _ _ hs => okCompute d && okHits hs
  | .recoveryEnd d _ hs => okCompute d && okHits hs
  | .ldgResupply d _ _ => okCompute d
  | .resupplyTimeout d _ => okCompute d
  | .bar2Read _ _ hs => okHits hs
  | .bar2Write _ _ hs => okHits hs
  | .hbmParityError k _ _ _ _ => okStack k
  | .stackTemperature k _ => okStack k
  | .selfRefreshTimeout kind _ => decide (kind < 6)
  | .nvmeCompletion ctrl _ _ _ => okController ctrl
  | .nvmeTimeout ctrl _ => okController ctrl
  | .nvmeAbortTimeout ctrl _ => okController ctrl
  | .stagingViolation ctrl => okController ctrl
  | .hbmXferCtrlWrite _ _ => true
  | .addressSlot => true
  | .superframeBoundary => true
  | .leasedBlock p => okLink p
  | .periodLost p _ => okLink p
  | .dataCell p c _ => okLink p && okCell c
  | .barrierCell p c => okLink p && okCell c
  | .abortCell p c => okLink p && okCell c
  | .testCell p c => okLink p && okCell c
  | .returnEntries p c => okLink p && okCell c
  | .ack src _ => decide (src < 1024)
  | .credit src _ => decide (src < 1024)
  | .lost src _ => decide (src < 1024)
  | .misroute src _ => decide (src < 1024)
  | .leaseOffer p c => okLink p && okCell c
  | .leaseAccept p c => okLink p && okCell c
  | .leaseRefuse p c => okLink p && okCell c
  | .leaseEnd p c => okLink p && okCell c
  | .calNotice p c => okLink p && okCell c
  | .shutter p c => okLink p && okCell c
  | .addrReport p c => okLink p && okCell c
  | .addrSet p c => okLink p && okCell c
  | .timing p c _ => okLink p && okCell c
  | .beacon p c => okLink p && okCell c
  | .coordinatorTimeout _ => true
  | .putEnd p c => okLink p && okCell c
  | .statsChain p c => okLink p && okCell c
  | .statsResult p c => okLink p && okCell c
  | .fetchReq p c => okLink p && okCell c
  | .fetchNack p c => okLink p && okCell c
  | .fetchTimeout d _ => okCompute d
  | .streamTotal p c => okLink p && okCell c
  | .stripeReq p c => okLink p && okCell c
  | .stripePTimeout d _ => okCompute d
  | .abortRewriteDone id => decide (id < 65536)
  | .quietPeriodEnd id => decide (id < 65536)
  | .fabAbortRaise d _ => okPhotonic d
  | .fabClearDrop d => okPhotonic d
  | .clearSat d => okPhotonic d
  | .linkFailure p _ _ => okLink p
  | .linkRetry p => okLink p
  | .mislockDetected p _ => okLink p
  | .retuneSettled p _ => okLink p
  | .leaseOfferRepeat p => okLink p
  | .leaseRxHoldTimeout p => okLink p
  | .leaseTimeout p => okLink p
  | .leasedCalibration => true
  | .addrPlaneCalibration => true
  | .calibrationEnd p _ _ fs => okLink p && fs.all okFrame
  | .shutterTrigger p => okLink p
  | .silenceMute plane dev => decide (plane < 16 ∧ dev < 64)
  | .muteResume plane dev => decide (plane < 16 ∧ dev < 64)
  | .shutterProbe p => okLink p
  | .shutterProbeEnd p _ => okLink p
  | .combFibreDrop f _ => decide (f < 4)
  | .combProbe f _ _ => decide (f < 4)
  | .combLock _ _ => true
  | .combAlarmN _ => true
  | .merClearDrop d => okPhotonic d
  | .clearLinks d => okPhotonic d
  | .merLinkClear p => okLink p
  | .portTrained d p _ _ => okPort d p
  | .flitCrcError d p _ _ => okPort d p
  | .d2dPortClear d p => okPort d p
  | .regRd _ size => okSize size
  | .regWr _ size _ => okSize size
  | .companionRegTimeout _ => true
  | .companionCompletion _ _ _ => true
  | .memRd _ _ _ hs => okHits hs
  | .memWr _ _ _ _ => true
  | .companionEvent _ => true
  | .d2dCompApertureWrite _ size _ => okSize size
  | .perstN => true
  | .perstNRelease => true
  | .flr => true
  | .hotReset => true
  | .linkDown => true
  | .flrStopTimeout => true
  | .linkTrained _ speed width => decide (1 ≤ speed ∧ speed ≤ 6 ∧ (width = 1 ∨ width = 2 ∨ width = 4 ∨ width = 8))
  | .memorySpaceEnable _ => true
  | .busMasterEnable _ => true
  | .d3hot _ => true
  | .bar2Resize log2 => decide (30 ≤ log2 ∧ log2 ≤ 40)
  | .ideCheckFail => true
  | .streamBufferRead _ => true
  | .dmaWindowWrite _ size _ => okSize size
  | .evrEnable size _ => okSize size
  | .evrDisable size _ => okSize size
  | .hubEvrBaseWrite _ size _ => okSize size
  | .hubEvrWbWrite _ size _ => okSize size
  | .evrConsumerWrite size _ => okSize size
  | .recordDelivery => true
  | .evrCoalesceTimeout => true
  | .msixUnmask v => decide (v < 64)
  | .tokenWatchWrite n off size _ => decide (n < 64 ∧ off < 8) && okSize size
  | .clockEvaluation cl _ _ => okCluster cl
  | .powerLoop _ _ => true
  | .clusterGate cl => okCluster cl
  | .cluCapWrite cl _ => okCluster cl
  | .sensorSample cl rs => (okCluster cl || decide (36 ≤ cl ∧ cl < 39)) && decide (rs.length = 4)
  | .thermalTrip d _ => decide (d < 7)
  | .railSample mv => decide (mv.length = 4)
  | .sagStageExit => true
  | .regulatorOvervoltage r _ => decide (r < 36)
  | .vinOvervoltage _ => true
  | .regulatorFault r _ _ => decide (r < 36)
  | .droop cl _ => okCluster cl
  | .droopEnd cl => okCluster cl
  | .clockLockLoss row d => decide (1 ≤ row ∧ row ≤ 7 ∧ d < 7)
  | .clearSag => true
  | .clearClamp => true
  | .aoPowerGood => true
  | .aoPowerLoss => true
  | .aoClocks _ => true
  | .enclaveRom _ => true
  | .fetch _ => true
  | .verify => true
  | .kat _ => true
  | .discovery ids _ _ _ _ _ => ids.all steppingOk
  | .railWaitTimeout => true
  | .dieLinks _ _ speed _ => [4, 8, 16, 32].contains speed
  | .hbm _ _ => true
  | .sram _ => true
  | .optical _ _ phase fs => phase.all (· < 1024) && fs.all okFrame
  | .combLockTimeout => true
  | .storage _ _ speed width found => okStorageLink speed width && found.all (fun c => okController c.port)
  | .ready => true
  | .warm => true
  | .warmStopTimeout => true
  | .cold => true
  | .die sel => decide (sel < 16)
  | .dieResetComplete d _ _ _ _ _ fs => (okCompute d || okPhotonic d) && fs.all okFrame
  | .cluReset cl => okCluster cl
  | .requestUpdate b _ _ => okBinding b
  | .updateComponent b _ => okBinding b
  | .firmwareData b _ => okBinding b
  | .updateVerifyDone => true
  | .activateFirmware b => okBinding b
  | .getFirmwareParameters b => okBinding b
  | .queryDeviceIdentifiers b => okBinding b
  | .getPdr b _ => okBinding b
  | .getPdrRepositoryInfo b => okBinding b
  | .getSensorReading b _ => okBinding b
  | .getStateSensorReadings b _ => okBinding b
  | .setEventReceiver b => okBinding b
  | .pollForPlatformEventMessage b => okBinding b
  | .eventMessageSupported b => okBinding b
  | .eventMessageBufferSize b => okBinding b
  | .platformEventResponse b => okBinding b
  | .platformEventTimeout => true
  | .sensorRefresh => true
  | .negotiateAlgorithms b _ => okBinding b
  | .getCertificate b => okBinding b
  | .getMeasurements b _ _ => okBinding b
  | .challenge b => okBinding b
  | .keyExchange b _ => okBinding b
  | .keyProg _ _ _ => true
  | .kSetGo _ _ => true
  | .kSetStop _ => true
  | .getChallenge b => okBinding b
  | .submitToken b _ => okBinding b
  | .coldStart b => okBinding b
  | .zeroise b => okBinding b
  | .encZeroise => true
  | .selfTest _ => true
  | .aliasCertIssue => true
  | .i3cAddressAssign _ => true
  | .i3cBusReset => true
  | .matReplayClear core => okCore core
  | .vecSatClear core => okCore core
  | .cluUpdClear cl => okCluster cl
  | .hbmErrClear k => okStack k
  | .counterLowRead _ => true
  | .badWidthAccess _ _ _ _ => true
  | .registerWrite _ size _ => okSize size
  | .endSession b _ => okBinding b
  | .setEndpointId b _ => okBinding b
  | .debugPortAccess kind _ _ size _ _ => decide (kind < 10) && (okSize size || !(decide (kind = 1 ∨ kind = 2)))
  | .conditionalTestFailure => true
  | .hostCopyWritten _ _ _ hs => okHits hs
  | .controllerResetEnd ctrl _ => okController ctrl
  | .unknownCellType p => okLink p
  | .bmcWarmResetRequest => true

end Sys2Proof
end

