-- ==== Sys2Proof/Decode.lean ====
section
/-! DEFINITION. Decode: the commands of the table carry no bits, so no word spells one. The words that the package itself
decodes, of commands and of instructions, are read in Machine/Operands.lean and by each meaning. -/

namespace Sys2Proof

/-- The command that a word spells by the table's bits: none, since no row of the table gives any. -/
def decodeTableWord (_nbits _w : Nat) : Option Instr := none

end Sys2Proof
end

