-- ==== Sys2Proof/Config.lean ====
section
/-! DEFINITION. Config: what the manual leaves open. Every constant here is a free value: it has no body, so a
claim about it holds for every value (log 5). -/

namespace Sys2Proof

/-- A fresh 64-bit free value; its argument is the state's counter `free` (log 5). -/
opaque Config.freeWord : Nat → W64

/-- A fresh free byte (log 5). -/
opaque Config.freeByte : Nat → Byte

/-- The bytes of a period's payload beyond the cell's lines, and of an IDLE cell's line: by link, period and place (log 61). -/
opaque Config.padByte : Nat → Nat → Nat → Byte

/-- The value, as an FP32 pattern, that the engine's procedure gives for a special function of an operand. The meaning
takes it where it lies within the error bound that the manual gives (R200, R208, log 14). -/
opaque Config.special : Nat → W32 → W32

/-- Whether an SLH-DSA-SHAKE-256s signature verifies: public key, message, signature (R540). FIPS 205 defines it; the
model takes it as given (log 15). -/
opaque Config.slhVerify : List Byte → List Byte → List Byte → Bool

/-- SHAKE256 of a byte list, so many bytes long. FIPS 202 defines it; the model takes it as given (log 15). -/
opaque Config.shake256 : List Byte → Nat → List Byte

/-- ROOT_PK, the vendor root public key in the enclave ROM (R540, log 13). -/
opaque Config.rootPk : List Byte

end Sys2Proof
end

