-- ==== Sys2Proof/Machine/Fp.lean ====
section
/-! DEFINITION. Fp: exact binary numbers, the storage formats of Table 6.1, rounding, and the arithmetic that the
engines perform on them (R182, R211-R218, R231, R237). -/

namespace Sys2Proof.Machine

/-- A value: NaN, an infinity, or the exact number (-1)^neg * m * 2^e. A zero keeps its sign (R213). -/
inductive Fp where
  | nan
  | inf (neg : Bool)
  | fin (neg : Bool) (m : Nat) (e : Int)
deriving DecidableEq, Repr

/-- Positive zero. -/
def fpZero : Fp := .fin false 0 0

/-- A storage format: code (6 for FP22), exponent and mantissa widths, bias (Table 6.1). -/
structure Fmt where
  code : Nat
  ew : Nat
  mw : Nat
  bias : Nat
deriving DecidableEq, Repr

def fE2M1 : Fmt := ⟨0, 2, 1, 1⟩
def fE4M3 : Fmt := ⟨1, 4, 3, 7⟩
def fE5M2 : Fmt := ⟨2, 5, 2, 15⟩
def fFP16 : Fmt := ⟨3, 5, 10, 15⟩
def fBF16 : Fmt := ⟨4, 8, 7, 127⟩
def fFP32 : Fmt := ⟨5, 8, 23, 127⟩
def fFP22 : Fmt := ⟨6, 6, 15, 31⟩
/-- The binary64 in which STATS entries are formed (R426). -/
def fFP64 : Fmt := ⟨7, 11, 52, 1023⟩

/-- The format of a recipe code 0-5 (Table 6.1). -/
def fmtOf : Nat → Option Fmt
  | 0 => some fE2M1 | 1 => some fE4M3 | 2 => some fE5M2 | 3 => some fFP16 | 4 => some fBF16 | 5 => some fFP32
  | _ => none

/-- Width in bits. -/
def fmtBits (f : Fmt) : Nat := 1 + f.ew + f.mw

/-- Width in half bytes, the unit of FP4 packing (R147). -/
def fmtNibbles (f : Fmt) : Nat := fmtBits f / 4

/-- Whether the format has infinities (Table 6.2). -/
def fmtHasInf (f : Fmt) : Bool := f.code != 0 && f.code != 1

/-- The exponent of the format's smallest subnormal. -/
def fmtEmin (f : Fmt) : Int := 1 - (f.bias : Int) - f.mw

/-- The largest finite value as (mantissa, exponent) (Table 6.2). -/
def fmtMax (f : Fmt) : Nat × Int :=
  match f.code with
  | 0 => (3, 1)
  | 1 => (7, 6)
  | _ => (2 ^ (f.mw + 1) - 1, (2 ^ f.ew - 2 : Nat) - (f.bias : Int) - f.mw)

/-- The number that an encoding stands for (R212, Table 6.2). -/
def fpDecode (f : Fmt) (x : Nat) : Fp :=
  let s := decide (x / 2 ^ (f.ew + f.mw) % 2 = 1)
  let ex := x / 2 ^ f.mw % 2 ^ f.ew
  let ma := x % 2 ^ f.mw
  if f.code = 1 && ex = 15 && ma = 7 then .nan
  else if fmtHasInf f && ex = 2 ^ f.ew - 1 then (if ma = 0 then .inf s else .nan)
  else if ex = 0 then .fin s ma (fmtEmin f)
  else .fin s (2 ^ f.mw + ma) (fmtEmin f + (ex - 1 : Nat))

/-- The canonical NaN of a format (Table 6.2); E2M1 has none and writes +0 (Table 6.5). -/
def fmtNan (f : Fmt) : Nat :=
  match f.code with
  | 0 => 0
  | 1 => 0x7F
  | _ => (2 ^ f.ew - 1) * 2 ^ f.mw + 2 ^ (f.mw - 1)

/-- How a value between two neighbours of a grid is rounded: to nearest even, toward plus infinity, or by 16 random
bits (R237). -/
inductive Rnd where
  | near
  | up
  | stoch (r : Nat)
deriving DecidableEq, Repr

/-- The magnitude m * 2^e taken to the grid of step 2^q: the number of steps. -/
def roundSteps (rd : Rnd) (neg : Bool) (m : Nat) (e q : Int) : Nat :=
  if q ≤ e then m * 2 ^ (e - q).toNat
  else
    let k := (q - e).toNat
    let lo := m / 2 ^ k
    let rem := m % 2 ^ k
    match rd with
    | .near => if 2 * rem > 2 ^ k || (2 * rem = 2 ^ k && lo % 2 = 1) then lo + 1 else lo
    | .up => if rem > 0 && !neg then lo + 1 else lo
    | .stoch r => if rem > 0 && 2 ^ 16 * rem / 2 ^ k + r ≥ 2 ^ 16 then lo + 1 else lo

/-- The grid exponent that precision `f` gives a magnitude m * 2^e: unbounded above, subnormal below (R214). -/
def gridExp (f : Fmt) (m : Nat) (e : Int) : Int := max (e + Nat.log2 m - f.mw) (fmtEmin f)

/-- A finite value rounded to a format's grid, with the exponent range unbounded above (R214). -/
def roundGrid (f : Fmt) (rd : Rnd) (neg : Bool) (m : Nat) (e : Int) : Nat × Int :=
  if m = 0 then (0, fmtEmin f) else
  let q := gridExp f m e
  (roundSteps rd neg m e q, q)

/-- Whether m * 2^e lies above m' * 2^e'. -/
def magGt (m : Nat) (e : Int) (m' : Nat) (e' : Int) : Bool :=
  let b := min e e'
  decide (m * 2 ^ (e - b).toNat > m' * 2 ^ (e' - b).toNat)

/-- The result of a conversion: the value on the grid, and whether a finite value overflowed the format (R214). -/
def fpRound (f : Fmt) (rd : Rnd) : Fp → Fp × Bool
  | .nan => (.nan, false)
  | .inf s => (.inf s, false)
  | .fin s m e =>
    let (m', q) := roundGrid f rd s m e
    (.fin s m' q, magGt m' q (fmtMax f).1 (fmtMax f).2)

/-- IEEE rounding to FP32: an overflow gives an infinity (R218). -/
def rne32 (x : Fp) : Fp :=
  match fpRound fFP32 .near x, x with
  | (_, true), .fin s _ _ => .inf s
  | (y, _), _ => y

/-- Rounding toward plus infinity in FP32, for the magnitude sums of R319 (operands not negative). -/
def rup32 (x : Fp) : Fp :=
  match fpRound fFP32 .up x, x with
  | (_, true), .fin s _ _ => .inf s
  | (y, _), _ => y

/-- The encoding of a value that lies on the format's grid and within its range. -/
def encodeGrid (f : Fmt) (s : Bool) (m : Nat) (q : Int) : Nat :=
  let sg := b2n s * 2 ^ (f.ew + f.mw)
  if m = 0 then sg else
  let k := q - fmtEmin f                 -- q is at least the smallest exponent
  if m < 2 ^ f.mw then sg + m * 2 ^ k.toNat
  else
    let up := if m ≥ 2 ^ (f.mw + 1) then 1 else 0
    sg + (k.toNat + 1 + up) * 2 ^ f.mw + (m / 2 ^ up - 2 ^ f.mw)

/-- The largest finite encoding with a sign. -/
def encodeMax (f : Fmt) (s : Bool) : Nat :=
  encodeGrid f s (if f.code = 0 then 3 else if f.code = 1 then 14 else (fmtMax f).1)
    (if f.code = 0 then 1 else if f.code = 1 then 5 else (fmtMax f).2)

/-- Conversion to a format with saturation (Tables 6.4, 6.5): the encoding, and whether the conversion is counted. -/
def convertSat (f : Fmt) (rd : Rnd) (x : Fp) : Nat × Bool :=
  match x with
  | .nan => (fmtNan f, f.code == 0)
  | .inf s =>
    if f.code = 0 then (encodeMax f s, true)
    else if f.code = 1 then (0x7F, false)
    else (b2n s * 2 ^ (f.ew + f.mw) + (2 ^ f.ew - 1) * 2 ^ f.mw, false)
  | .fin s m e =>
    let (m', q) := roundGrid f rd s m e
    if magGt m' q (fmtMax f).1 (fmtMax f).2 then (encodeMax f s, true) else (encodeGrid f s m' q, false)

/-- The FP32 bit pattern of a value already rounded to FP32. -/
def bits32 (x : Fp) : W32 := BitVec.ofNat 32 (convertSat fFP32 .near x).1

/-- The value of an FP32 bit pattern (R215). -/
def val32 (w : W32) : Fp := fpDecode fFP32 w.toNat

/-- A value times a power of two, exact. -/
def fpScale (x : Fp) (k : Int) : Fp :=
  match x with
  | .fin s m e => .fin s m (e + k)
  | y => y

/-- Negation. -/
def fpNeg : Fp → Fp
  | .nan => .nan
  | .inf s => .inf !s
  | .fin s m e => .fin (!s) m e

/-- Magnitude. -/
def fpAbs : Fp → Fp
  | .nan => .nan
  | .inf _ => .inf false
  | .fin _ m e => .fin false m e

/-- Exact sum; the sign of a zero sum is the one round-to-nearest gives. -/
def fpAdd : Fp → Fp → Fp
  | .nan, _ => .nan
  | _, .nan => .nan
  | .inf a, .inf b => if a = b then .inf a else .nan
  | .inf a, .fin _ _ _ => .inf a
  | .fin _ _ _, .inf b => .inf b
  | .fin a m e, .fin b n g =>
    let q := min e g
    let x := m * 2 ^ (e - q).toNat
    let y := n * 2 ^ (g - q).toNat
    if a = b then .fin a (x + y) q
    else if x = y then .fin false 0 q
    else if y < x then .fin a (x - y) q
    else .fin b (y - x) q

/-- Exact difference. -/
def fpSub (x y : Fp) : Fp := fpAdd x (fpNeg y)

/-- Exact product. -/
def fpMul : Fp → Fp → Fp
  | .nan, _ => .nan
  | _, .nan => .nan
  | .inf a, .inf b => .inf (a != b)
  | .inf a, .fin b m _ => if m = 0 then .nan else .inf (a != b)
  | .fin a m _, .inf b => if m = 0 then .nan else .inf (a != b)
  | .fin a m e, .fin b n g => .fin (a != b) (m * n) (e + g)

/-- Exact quotient to 2^-64 of relative precision, with a sticky bit below it, so that rounding to FP32 is correct. -/
def fpDivSticky : Fp → Fp → Fp
  | .nan, _ => .nan
  | _, .nan => .nan
  | .inf _, .inf _ => .nan
  | .inf a, .fin b _ _ => .inf (a != b)
  | .fin a _ _, .inf b => .fin (a != b) 0 0
  | .fin a m e, .fin b n g =>
    if n = 0 then (if m = 0 then .nan else .inf (a != b))
    else
      let k := 64 + Nat.log2 n
      let x := m * 2 ^ k
      .fin (a != b) (2 * (x / n) + (if x % n = 0 then 0 else 1)) (e - g - k - 1)

/-- Square root with a sticky bit, so that rounding to FP32 is correct. -/
def fpSqrtSticky : Fp → Fp
  | .nan => .nan
  | .inf true => .nan
  | .inf false => .inf false
  | .fin s m e =>
    if m = 0 then .fin s 0 0 else if s then .nan else
    let odd := (e % 2).toNat
    let x := m * 2 ^ (128 + odd)
    let r := Nat.sqrt x
    .fin false (2 * r + (if r * r = x then 0 else 1)) ((e - odd) / 2 - 64 - 1)

/-- Correctly rounded FP32 division (R231). -/
def div32 (x y : Fp) : Fp := rne32 (fpDivSticky x y)

/-- Correctly rounded FP32 square root (R231). -/
def sqrt32 (x : Fp) : Fp := rne32 (fpSqrtSticky x)

/-- Whether a value is NaN, finite, zero. -/
def fpIsNan : Fp → Bool
  | .nan => true
  | _ => false
def fpIsFin : Fp → Bool
  | .fin _ _ _ => true
  | _ => false
def fpIsZero : Fp → Bool
  | .fin _ m _ => m == 0
  | _ => false

/-- x < y for values that are not NaN, with -0 less than +0 (Table 5.3). -/
def fpLt : Fp → Fp → Bool
  | .nan, _ => false
  | _, .nan => false
  | .inf a, .inf b => a && !b
  | .inf a, .fin _ _ _ => a
  | .fin _ _ _, .inf b => !b
  | .fin a m e, .fin b n g =>
    if a && !b then true
    else if !a && b then false
    else if a then magGt m e n g else magGt n g m e

/-- x > 0. -/
def fpPos : Fp → Bool
  | .nan => false
  | .inf s => !s
  | .fin s m _ => !s && m != 0

/-- VMAX and VMIN of Table 5.3. -/
def fpMax (x y : Fp) : Fp := if fpIsNan x || fpIsNan y then .nan else if fpLt x y then y else x
def fpMin (x y : Fp) : Fp := if fpIsNan x || fpIsNan y then .nan else if fpLt y x then y else x

/-- sign(c) of R231. -/
def fpSign : Fp → Fp
  | .nan => .nan
  | .inf s => .fin s 1 0
  | .fin s m _ => if m = 0 then fpZero else .fin s 1 0

/-- Half a unit in the last place of a stored value (R319). -/
def halfUlp (f : Fmt) : Fp → Fp
  | .fin _ m e => .fin false 1 ((if m = 0 then fmtEmin f else gridExp f m e) - 1)
  | y => y

/-- x ≤ y as exact numbers, both finite. -/
def fpLe (x y : Fp) : Bool := !(fpLt y x)

/-! ### The counter-based generator -/

/-- One round of Philox-4x32 (R240). -/
def philoxRound (k0 k1 : W32) (c : W32 × W32 × W32 × W32) : W32 × W32 × W32 × W32 :=
  let (c0, c1, c2, c3) := c
  let p := 0xD2511F53 * c0.toNat
  let q := 0xCD9E8D57 * c2.toNat
  (BitVec.ofNat 32 (q / 2 ^ 32) ^^^ c1 ^^^ k0, BitVec.ofNat 32 q,
   BitVec.ofNat 32 (p / 2 ^ 32) ^^^ c3 ^^^ k1, BitVec.ofNat 32 p)

/-- Ten rounds with the key bumped before rounds 2 to 10 (R240). -/
def philox : Nat → W32 → W32 → W32 × W32 × W32 × W32 → W32 × W32 × W32 × W32
  | 0, _, _, c => c
  | n + 1, k0, k1, c => philox n (k0 + 0x9E3779B9#32) (k1 + 0xBB67AE85#32) (philoxRound k0 k1 c)

/-- The 16 random bits of element `e` in stream `s` (R239). -/
def genBits (seed : W64) (strm : Nat) (tensor step : W32) (e : Nat) : Nat :=
  let k := seed + BitVec.ofNat 64 strm
  let g := e % 2 ^ 64 / 4
  let (y0, y1, y2, y3) := philox 10 (k.setWidth 32) ((k >>> 32).setWidth 32)
    (BitVec.ofNat 32 g, tensor, step, BitVec.ofNat 32 (g / 2 ^ 32))
  let y := if e % 4 = 0 then y0 else if e % 4 = 1 then y1 else if e % 4 = 2 then y2 else y3
  y.toNat / 2 ^ 16

end Sys2Proof.Machine
end

