-- ==== Sys2Proof/Machine/Code.lean ====
section
/-! DEFINITION. Code: arithmetic in the two Galois fields, the concatenated code of a period and its symbols (R350-R352),
and the field of the stripes (R443). -/

namespace Sys2Proof.Machine

/-! ### GF(2^8) with polynomial 0x11D (R352, R443) -/

/-- Multiplication in GF(2^8). -/
def gfMul (a b : Byte) : Byte :=
  ((List.range 8).foldl (fun (p : Byte × Byte) i =>
    let acc := if b.getLsbD i then p.1 ^^^ p.2 else p.1
    let sh := if p.2.getLsbD 7 then (p.2 <<< 1) ^^^ 0x1D#8 else p.2 <<< 1
    (acc, sh)) (0#8, a)).1
/-- Powers of the generator 0x02. -/
def gfPow : Nat → Byte
  | 0 => 1
  | n + 1 => gfMul (gfPow n) 2
/-- The inverse of a non-zero element: its 254th power. -/
def gfInv (a : Byte) : Byte := (List.range 254).foldl (fun p _ => gfMul p a) 1
def xorBytes (a b : List Byte) : List Byte := List.zipWith (fun x y => x ^^^ y) a b
def mulBytes (g : Byte) (a : List Byte) : List Byte := a.map (gfMul g)

/-! ### The outer code (R352) -/

/-- The generator with roots α⁰ to α⁷, its highest coefficient first. -/
def rsGen : List Byte := (List.range 8).foldl (fun g i => xorBytes (g ++ [0]) (0 :: mulBytes (gfPow i) g)) [1]

/-- The 8 parity bytes of a data field. DESIGN CHOICE (log 61): the first byte is the highest coefficient. -/
def rsParity (field : List Byte) : List Byte :=
  field.foldl (fun r b => xorBytes (r.tail ++ [0]) (mulBytes (b ^^^ r.headD 0) rsGen.tail)) (List.replicate 8 0)

/-! ### The inner code (R352) -/

/-- Twice an element of GF(2^12) with polynomial 0x1053. -/
def gf12Twice (x : Nat) : Nat := if 2048 ≤ x then (2 * x) ^^^ 0x1053 else 2 * x

/-- Multiplication in GF(2^12). -/
def gf12Mul (a b : Nat) : Nat :=
  ((List.range 12).foldl (fun (p : Nat × Nat) i => (if b.testBit i then p.1 ^^^ p.2 else p.1, gf12Twice p.2)) (0, a)).1

/-- The conjugates of an element: its twelve successive squares. -/
def conjugates (r : Nat) : List Nat :=
  ((List.range 12).foldl (fun (p : List Nat × Nat) _ => (p.1 ++ [p.2], gf12Mul p.2 p.2)) ([], r)).1

/-- The minimal polynomial of αⁱ over GF(2), for an element of degree 12; bit n is the coefficient of xⁿ. -/
def minPoly (i : Nat) : Nat :=
  let a := (List.range i).foldl (fun x _ => gf12Twice x) 1
  let g := (conjugates a).foldl (fun g r => List.zipWith (fun x y => x ^^^ y) (g ++ [0]) (0 :: g.map (gf12Mul r))) [1]
  g.foldl (fun n c => 2 * n + c) 0

/-- The product of two polynomials over GF(2), of a degree below 385 in the second. -/
def polyMul (a b : Nat) : Nat := (List.range 385).foldl (fun acc i => if b.testBit i then acc ^^^ (a <<< i) else acc) 0

/-- The generator: the minimal polynomials of α¹ to α⁶⁴ are those of the odd powers, each once. -/
def bchGen : Nat := (List.range 32).foldl (fun g i => polyMul g (minPoly (2 * i + 1))) 1

/-- The 384 parity bits of the information bits. DESIGN CHOICE (log 61): the first bit is the highest coefficient. -/
def bchParity (info : List Bool) : List Bool :=
  let g := bchGen % 2 ^ 384
  let r := info.foldl (fun r b => ((2 * r) % 2 ^ 384) ^^^ (if b != r.testBit 383 then g else 0)) 0
  (List.range 384).map (fun i => r.testBit (383 - i))

/-- The coded bits of a period with a data field: bit 0 of each byte first. -/
def codedBits (field : List Byte) : List Bool :=
  let info := ((field ++ rsParity field).map (fun b => (List.range 8).map (fun i => b.getLsbD i))).flatten
  info ++ bchParity info

/-! ### Symbols (R350, R351) -/

/-- A dual-polarisation 16-QAM symbol: I and Q on polarisations X and Y. -/
structure Sym where
  xi : Int
  xq : Int
  yi : Int
  yq : Int
deriving DecidableEq, Repr

/-- The level of two Gray-coded bits. -/
def grayLevel (hi lo : Bool) : Int :=
  match hi, lo with
  | false, false => -3
  | false, true => -1
  | true, true => 1
  | true, false => 3

/-- The symbol of eight coded bits, the first of which is its bit 7. -/
def symOf (b : List Bool) : Sym :=
  let l := fun (i : Nat) => grayLevel (b.getD i false) (b.getD (i + 1) false)
  ⟨l 0, l 2, l 4, l 6⟩

/-- Pilot symbol `m`. -/
def pilot (m : Nat) : Sym := if m % 2 = 0 then ⟨3, 3, 3, -3⟩ else ⟨-3, -3, -3, 3⟩

/-- The data symbols of a period. -/
def dataSyms (field : List Byte) : List Sym :=
  let bs := codedBits field
  (List.range (bs.length / 8)).map (fun i => symOf ((bs.drop (8 * i)).take 8))

/-- The 384 symbols of a period (Table 10.1): an address slot begins with 48 symbols of guard, which carry nothing. -/
def periodSyms (leased : Bool) (field : List Byte) : List (Option Sym) :=
  let ds := (dataSyms field).map some
  if leased then ((List.range 8).map (fun m => some (pilot m) :: (ds.drop (47 * m)).take 47)).flatten
  else List.replicate 48 none ++ (List.range 8).map (fun m => some (pilot m)) ++ ds

end Sys2Proof.Machine
end

