-- ==== Sys2Proof/Machine/StateCluster.lean ====
section
/-! DEFINITION. StateCluster: the state of a cluster, of its sequencer and update engine, and of a core (chapters 01,
03-06 and 09). -/

namespace Sys2Proof.Machine

/-- Token states (Table 2.7). -/
inductive Tok where
  | idle | pending | done | skipped | aborted
deriving DecidableEq, Repr

/-- A token: its state, and whether a command (hub token) or an instruction (cluster token) holds it PENDING
(R80, Table 3.15). -/
structure TokEntry where
  st : Tok
  held : Bool
deriving DecidableEq, Repr

/-- The token after reset (R74). -/
def TokEntry.reset : TokEntry := ⟨.idle, false⟩

/-- An active loop level: the fields of R114's `L`. -/
structure LoopLvl where
  start : Nat
  stop : Nat
  left : Nat
  iter : Nat
deriving DecidableEq, Repr

/-- A lane instruction in a queue: what the broadcast of R97 carries, its registers read at issue (R98). -/
structure QIns where
  iid : Nat            -- issue number
  word : W128
  pc : Nat
  lane : Nat
  skip : List Nat      -- issue numbers that its wait excludes in the lane (WLAST, R123)
  a : W64              -- s[SA]
  b : W64              -- s[SB]
  c : W64              -- s[SC]
  d : W64              -- s[SD]
  iter0 : Bool         -- ITER of the innermost loop was 0, or no loop was active (R128)
  pat : List W64       -- the four words of the pattern in force (R195)
  chain : Nat          -- number of its chain (R190)
deriving DecidableEq, Repr

/-- A line that an instruction writes: line number, tag, and the bytes (offset in the line, value). -/
structure LineWr where
  line : Nat
  tag : Nat
  upd : List (Nat × Byte)
deriving DecidableEq, Repr

/-- Why an attempt overflowed (Table 4.4, MAT_REPLAY_LAST.CAUSE). -/
inductive OvCause where
  | runFp22 | runFp32 | total | output
deriving DecidableEq, Repr

/-- The matrix checker's references of one tile operation (R319): per column and per row the exact reference sum and
the magnitude sum; the exponents of mu and of delta (R320), and the slice count. -/
structure MatRef where
  col : List (Fp × Fp)
  row : List (Fp × Fp)
  muExp : Int
  deltaExp : Int
  slices : Nat
deriving DecidableEq, Repr

/-- A tile operation (R175): its index (dW tile b, 256 for dX, 0 of an MMA), the array that it ran on (0 A, 1 B), its
lowerings (R161), the attempt number, the overflow of the attempt if it overflowed, its output, and the checker's
references. -/
structure TileOp where
  idx : Nat
  unit : Nat
  dA : Nat
  dB : Nat
  o : Nat
  attempt : Nat
  ov : Option OvCause
  out : List LineWr
  ref : MatRef
deriving DecidableEq, Repr

/-- The result of an instruction: tile operations of a matrix instruction, the lines it writes, chain register
writes, and counted conversions by kind (R186). -/
structure Res where
  ops : List TileOp
  lines : List LineWr
  creg : Option (Nat × List W32)
  sat : Nat
  kind : Nat
deriving DecidableEq, Repr

/-- A started lane instruction (R99) and its fault-free result. -/
structure Run where
  ins : QIns
  res : Res
deriving DecidableEq, Repr

/-- A started instruction of a chain, and the chain registers before it (R190). -/
structure ChainIns where
  ins : QIns
  before : Tab (List W32)
deriving DecidableEq, Repr

/-- A saved line (R329): previous data, tag, code and marks. -/
structure Image where
  line : Nat
  data : List Byte
  tag : Nat
  code : W32
  wmark : Option Nat
  rmask : List Nat
deriving DecidableEq, Repr

/-- An entry of the proof window (R325). `got` is what was written; `good` is what a fault-free unit writes. -/
structure Entry where
  ins : QIns
  port : Nat           -- 0 matrix A, 1 matrix B, 2 vector, 3 plate port
  chainIns : List ChainIns -- the instructions of its chain, for a chain-ending entry
  good : Res
  got : Res
  undo : List Image
  proven : Bool
deriving DecidableEq, Repr

/-- An arbitration under way (R334): the failed entry, its first result, the repeat's vote, the round, what the
records of Table 9.5 need. -/
structure Arb where
  entry : Entry
  unit : Nat           -- unit under arbitration
  step : Nat           -- ARB_STEP of Table 9.7
  round : Nat
  vote : Nat           -- repeat vote: 0 passes, 1 equals the first result, 2 neither
  d1 : W32
  d3 : W32
  d4 : W32
  gone : Nat           -- entries discarded
  order : Nat          -- place of its check failure among those of the cluster (R335)
  cut : Nat            -- started instructions cancelled
  time : W64
deriving DecidableEq, Repr

/-- Health marks of a unit (R338): 0 good, 1 suspect, 2 failed, and the time of its last event. -/
structure Mark where
  st : Nat
  time : W64
deriving DecidableEq, Repr

def Mark.reset : Mark := ⟨0, 0⟩

/-- The value of pattern 0, and of patterns 1-7 after reset (R195). -/
def pattern0 : List W64 := [0x0000_0001_0000_700B#64, 0, 0, 0]

/-- A physical core (chapters 04, 05, 09). -/
structure Core where
  mem : Mem                  -- scratchpad, 0x30_0000 bytes (R26)
  tag : Tab Nat              -- scale tag per line (R149)
  code : Tab W32             -- line code per line, where it is not the code of the reset line (R316)
  wmark : Tab Nat            -- write mark: the entry that last wrote the line (R326)
  rmask : Tab (List Nat)     -- read mask (R326)
  lineErr : Tab W64          -- time of the last memory array error per line (R317)
  creg : Tab (List W32)      -- chain registers C0-C3 (R190)
  chain : List ChainIns      -- started instructions of chains whose ending instruction has not completed (R190)
  chainNo : Nat              -- number of the chain now open, and, when none is, the last
  pat : Tab (List W64)       -- patterns 1-7 (R195)
  lastPc : Nat               -- VEC_STATUS.LAST_PC
  sat : Tab Nat              -- VEC_SAT_COUNT by kind
  replay : Tab Nat           -- MAT_REPLAY_COUNT by kind
  replayLast : W64           -- MAT_REPLAY_LAST
  bOff : Bool                -- MAT_STATUS.B_OFF (R25)
  qA : List QIns
  qB : List QIns
  qV : List QIns
  qP : List QIns
  runA : List Run
  runB : List Run
  runV : List Run
  runP : List Run
  carryA : Option (Nat × Nat × List LineWr)   -- address, kind and totals of the last output (R157)
  carryB : Option (Nat × Nat × List LineWr)
  lastIss : Tab Nat          -- the instruction last issued to each port (R123)
  window : List Entry        -- oldest first
  arb : Option Arb
  nTransient : Nat
  nDatapath : Nat
  nChecker : Nat
  nVoid : Nat
  nMoveRepeat : Nat
  dp : Tab Mark              -- datapath of unit 0-3 (Table 9.9)
  ck : Tab Mark              -- checker of unit 0-3
  lastEvent : W32            -- COR_HEALTH.LAST_EVENT
  failed : Bool              -- the core is permanently failed
  spadFailed : Bool          -- its scratchpad is what failed (R317)
  testBusy : Bool            -- COR_OCC_TEST.BUSY
  testResult : Nat
  testItem : Nat
deriving DecidableEq, Repr

def Core.reset : Core where
  mem := []
  tag := []
  code := []
  wmark := []
  rmask := []
  lineErr := []
  creg := []
  chain := []
  chainNo := 0
  pat := []
  lastPc := 0
  sat := []
  replay := []
  replayLast := 0
  bOff := false
  qA := []
  qB := []
  qV := []
  qP := []
  runA := []
  runB := []
  runV := []
  runP := []
  carryA := none
  carryB := none
  lastIss := []
  window := []
  arb := none
  nTransient := 0
  nDatapath := 0
  nChecker := 0
  nVoid := 0
  nMoveRepeat := 0
  dp := []
  ck := []
  lastEvent := 0
  failed := false
  spadFailed := false
  testBusy := false
  testResult := 0
  testItem := 0

/-- An instruction in a unit queue: tile mover, update engine or fabric engine (R97). -/
structure UIns where
  iid : Nat
  word : W128
  pc : Nat
  a : W64
  b : W64
  c : W64
  mask : Nat           -- effective mask
  epoch : Nat          -- layout epoch at issue (R131)
deriving DecidableEq, Repr

/-- An issued instruction that is not yet released (R99): its token, the lanes that still owe their release, whether
it is of the tile class (R109, R229), its chain, and whether it ends that chain (R190). -/
structure Iss where
  iid : Nat
  word : W128
  pc : Nat
  tok : Option Nat
  owed : List Nat
  tile : Bool
  chain : Option Nat
  ends : Bool
deriving DecidableEq, Repr

/-- The program that runs on a cluster (R84, R90). -/
structure Prog where
  cmd : Nat            -- dispatch number of its GROUP_START
  strm : Nat
  tag : Nat
  group : Nat
  failed : Bool        -- it skipped an instruction, was cut or trapped (R85)
  armed : List Nat     -- cluster tokens it armed (R112)
  ending : Nat         -- 0 running, 1 HALT, 2 trap or stop
  trapPc : Nat
  trapLane : Nat
  trapOp : W16
  trapTile : W32
  trapD1 : W32
  trapD2 : W32
  trapD3 : W32
deriving DecidableEq, Repr

/-- A cluster (chapters 01, 03, 06, 09, 14). -/
structure Cluster where
  lanes : List Nat          -- physical core of lanes 0-7, 15 masked (R31)
  spare : Nat               -- 15 none
  retired : Nat             -- first retired core, 15 none
  mapState : Nat            -- CLU_LANE_MAP.STATE
  imem : Mem                -- instruction memory, 0x4_0000 bytes (R105)
  pc : Nat
  seq : Nat                 -- CLU_SEQ_STATUS.STATE
  skipped : Bool
  abortSeen : Bool
  trapped : Bool
  trapCode : Nat
  group : Nat
  sreg : Tab W64            -- s0-s63 (R102)
  loops : List LoopLvl      -- innermost first (R113)
  page : Option Nat         -- page buffer (R133)
  tok : Tab TokEntry        -- 256 tokens
  prog : Option Prog
  seen : List (Nat × Tok)   -- tokens that left PENDING while TWAIT or TARM held (R78)
  heldOn : List Nat         -- tokens that the held TWAIT or TARM waits on
  mover : List UIns
  updQ : List UIns
  fabQ : List UIns
  issued : List Iss
  chainSet : List Nat       -- chain registers written in the current chain (R191)
  chainOpen : Bool
  chainNo : Nat
  chainsDone : List Nat     -- chains whose ending instruction is released while others of the chain are not (R192)
  levents : List (Nat × Nat × Nat × Nat)  -- LEVENTs received and not released: issue number, layer, phase, step (R264)
  plates : Mem              -- 0x180_0000 bytes (R30)
  ptag : Tab Nat
  pcode : Tab W32
  plateErr : Tab W64
  upd : Option UIns         -- the UPD that occupies the update engine (R229)
  updKernel : Nat
  updLayer : Nat
  nonfiniteSeen : Bool
  nonfinite : Nat
  satM1 : Nat
  satM2 : Nat
  satW : Nat
  updMain : Mark
  updDup : Mark
  updArb : Mark
  updReduced : Bool
  updTransient : Nat
  updMinority : Nat
  replaySummary : W16
  occEnable : Bool
  occPeriod : Nat
  occNext : Nat
  occTesting : Nat          -- 15 none
  occPostponed : Nat
  occRotations : W32
  failNo : Nat              -- check failures so far (R335)
  rotDue : Bool             -- a rotation is pending and issue is held (R341)
  removals : List Nat       -- failed cores not yet removed (R33)
  clockMhz : Nat
  voltMv : Nat
  limiter : Nat
  powerW : Nat
  droopStretch : Nat
  cap : Nat                 -- PWR_CLU_CAP
  thermalCap : Nat
  avsCap : Nat
  gated : Bool
  railOff : Bool
  sensors : List W16        -- THM sensors 1-4
  inLimit : Bool            -- thermal limit state (chapter 14)
  throttled : Bool
  stretched : Bool          -- a droop stretch is in force
  lastUp : W64              -- time of the last upward clock step (R504)
  hotPast : List (W64 × W16)   -- hottest readings with their times, newest first, back to 10 µs ago (R511)
  fellAt : Option W64       -- when the thermal cap last fell by a step
  coolSince : Option W64    -- since when the hottest reading is below 92 °C
  dbg : Nat                 -- 1 halted by the debug port, 2 halted after its next instruction (R557)
deriving DecidableEq, Repr

def Cluster.reset : Cluster where
  lanes := [0, 1, 2, 3, 4, 5, 6, 7]
  spare := 8
  retired := 15
  mapState := 0
  imem := []
  pc := 0
  seq := 0
  skipped := false
  abortSeen := false
  trapped := false
  trapCode := 0
  group := 0
  sreg := []
  loops := []
  page := none
  tok := []
  prog := none
  seen := []
  heldOn := []
  mover := []
  updQ := []
  fabQ := []
  issued := []
  chainSet := []
  chainOpen := false
  chainNo := 0
  chainsDone := []
  levents := []
  plates := []
  ptag := []
  pcode := []
  plateErr := []
  upd := none
  updKernel := 0
  updLayer := 0
  nonfiniteSeen := false
  nonfinite := 0
  satM1 := 0
  satM2 := 0
  satW := 0
  updMain := Mark.reset
  updDup := Mark.reset
  updArb := Mark.reset
  updReduced := false
  updTransient := 0
  updMinority := 0
  replaySummary := 0
  occEnable := true
  occPeriod := 2
  occNext := 0
  occTesting := 15
  occPostponed := 0
  occRotations := 0
  failNo := 0
  rotDue := false
  removals := []
  clockMhz := 0
  voltMv := 0
  limiter := 0
  powerW := 0
  droopStretch := 0
  cap := 0x5DC
  thermalCap := 1500
  avsCap := 1500
  gated := true
  railOff := false
  sensors := [0, 0, 0, 0]
  inLimit := false
  throttled := false
  stretched := false
  lastUp := 0
  hotPast := []
  fellAt := none
  coolSince := none
  dbg := 0

end Sys2Proof.Machine
end

