-- ==== Sys2Proof/Machine/StateTiers.lean ====
section
/-! DEFINITION. StateTiers: the state of a compute die's tile mover, ephemeris and ledger (chapter 07), of the HBM
stacks and of the storage port (chapter 08). -/

namespace Sys2Proof.Machine

/-- Who issued a move request (R255, R257). -/
inductive Issuer where
  | eph (die run : Nat)          -- issued ephemeris entry, by its number
  | tmove (cl iid : Nat)         -- a cluster's TMOVE
  | cmd (no : Nat)               -- a TILE_MOVE command, by dispatch number
  | ledger (die idx : Nat)       -- the FILLING entry of another die (R273)
deriving DecidableEq, Repr

/-- A move request: the issuer, the record's index in its list, the descriptor words W0-W7 and the control word of
Table 7.4, and the version tag of R248. -/
structure Req where
  issuer : Issuer
  idx : Nat
  w : List W32
  ctl : W32
  ver : W32
  act : Nat            -- ACTION that applies (R253)
  lanes : Nat          -- lanes that take part (R251)
  before : Nat         -- instructions of smaller issue number must be released before a scratchpad is read (R254)
  stamp : Nat          -- when it reached the entry that it waits on, by the ledger's clock (R275)
  room : Bool          -- it waits for an entry of the ledger (R268)
deriving DecidableEq, Repr

/-- Ledger states of a tracked copy (Table 7.9); a copy with no entry is ABSENT. -/
inductive LState where
  | filling | resident | draining | deferred
deriving DecidableEq, Repr

/-- Where a FILLING entry reads from: nothing yet, plates or HBM through the source entry of a die, or flash. -/
inductive Src where
  | none
  | entry (tier die idx : Nat)
  | flash
deriving DecidableEq, Repr

/-- A ledger entry (R268, R269). -/
structure LEntry where
  idx : Nat
  tile : W32
  tier : Nat
  cl : Nat             -- cluster of a plate or scratchpad copy, 15 for HBM and flash
  lanes : Nat          -- lanes of a scratchpad delivery
  state : LState
  addr : Nat
  ver : W32
  desc : List W32      -- W0-W7 of the request that made it
  pins : Nat
  reads : Nat
  waiters : List Req
  wbs : List Req       -- write-backs that wait or run (R272)
  wbRun : Bool         -- a write-back's target writes are under way
  evict : Option Req   -- drop kind: EVICT, with the request that drains, else DISCARD; also the request of a drain
  fill : Bool          -- a fill is under way
  temp : Bool          -- taken only for the duration of a read or a write-back (R271)
  src : Src
  srcStamp : Nat       -- when its read reached the source entry, by that ledger's clock (R275)
  stage : Bool         -- its move holds staging (R279)
  staged : Option (List (List Byte × Nat))   -- lines read from the source, with their tags
  recov : Nat          -- recovery under way: 0 none, 1 PEER, 3 STRIPE, 4 FLASH, 5 HOST
  holder : Nat         -- member asked by a PEER recovery (R447)
  askedQ : Bool        -- a STRIPE recovery has asked Q (R446)
  fetched : Tab (Tab (List Byte × Nat))   -- lines that arrived for the recovery, by member and line, with their tags
  supplied : Bool      -- LDG_RESUPPLY has reported the copy rewritten (R276)
  recovered : Bool     -- the one recovery of the entry has succeeded (R274)
  wbRec : Nat          -- the oldest so many write-backs waited on it and end RECOVERED
  evRec : Bool         -- so does the drain that is to run or runs
  failTier : Nat
  used : Nat           -- order of last use (R272, least recently used)
deriving DecidableEq, Repr

/-- An ephemeris (R259). -/
structure Eph where
  mask : Nat
  stepStart : Nat
  keep : Nat
  entries : List (List W32)      -- W0-W7 of each entry
deriving DecidableEq, Repr

/-- An issued ephemeris entry: a number of its own, its index (0xFFFF when its ephemeris is not in force any more), its
cluster mask, its need, its records not yet accepted, and how many have not ended DONE or RECOVERED. -/
structure EphRun where
  no : Nat
  idx : Nat
  mask : Nat
  need : Option (Nat × Nat)
  concerns : Nat                 -- clusters that its records concern (R264)
  todo : List (Option (List W32 × W32) × Nat)   -- records (none: its sector failed its read check) and their index
  left : Nat
deriving DecidableEq, Repr

/-- A TMOVE whose records have not all ended (R257). -/
structure TmRun where
  cl : Nat
  iid : Nat
  todo : List (Option (List W32 × W32) × Nat)
  left : Nat
  bad : Bool
deriving DecidableEq, Repr

/-- A compute die (chapters 07, 12, 14). -/
structure Die where
  eph : Option Eph
  ephNext : List (Eph × Nat)     -- checked ephemerides waiting to be taken, oldest first, and their EPH_LOADs
  cursor : Nat
  ephState : Nat                 -- EPH_STATUS.STATE
  step : Nat                     -- die step
  stepNo : Nat                   -- steps begun, to tell the LEVENTs of one step from those of the next (R264)
  held : Nat                     -- clusters held for the step end (R266)
  lastEvent : Nat
  lastPhase : Nat
  failedEntry : Nat
  fired : List (Nat × Nat)
  received : List (Nat × Nat × Nat)  -- cluster, event, phase received in this step
  endIssued : Bool                   -- END was issued with a checked ephemeris waiting (R261)
  runs : List EphRun
  tmoves : List TmRun
  ledger : List LEntry
  waiting : List Req             -- accepted requests that wait (R268, R270, R271)
  xreq : List Nat                -- FILLING entries, as 2048*die + index, whose source read this die must accept (R273)
  rrLast : Nat                   -- source served last (R255)
  ldgClock : Nat                 -- order stamp of the ledger's uses
  resupplyMs : Nat
  resupplyEn : Bool
  lastFail : W64
  recovered : Nat
  lost : Nat
  mover : Mark                   -- health of the tile mover
  moverRepeat : Nat
  railMv : Nat                   -- PWR_DIE
  railOff : Bool
  dieRailMv : Nat
  inReset : Bool
deriving DecidableEq, Repr

def Die.reset : Die where
  eph := none
  ephNext := []
  cursor := 0
  ephState := 0
  step := 0
  stepNo := 0
  held := 0
  lastEvent := 0
  lastPhase := 0
  failedEntry := 0xFFFF
  fired := []
  received := []
  endIssued := false
  runs := []
  tmoves := []
  ledger := []
  waiting := []
  xreq := []
  rrLast := 0
  ldgClock := 0
  resupplyMs := 0x64
  resupplyEn := true
  lastFail := 0
  recovered := 0
  lost := 0
  mover := Mark.reset
  moverRepeat := 0
  railMv := 0
  railOff := false
  dieRailMv := 0
  inReset := false

/-- An HBM stack (Tables 8.6, 8.7). -/
structure Stack where
  state : Nat
  rate : Nat
  temp : Nat           -- signed 8-bit pattern
  refresh2x : Bool
  throttle : Bool
  repaired : Nat
  nData : Nat
  nVersion : Nat
  nParity : Nat
  nOdecc : Nat
  wq : Nat             -- sector writes in its write queue, at most 512 (R278)
deriving DecidableEq, Repr

def Stack.reset : Stack := ⟨0, 0, 0, false, false, 0, 0, 0, 0, 0, 0⟩

/-- A BAR2 access that is held for a stack in self-refresh (R301). -/
structure Held where
  write : Bool
  off : Nat
  len : Nat
  data : List Byte
deriving DecidableEq, Repr

/-- What an NVMe command serves (R311). -/
inductive NvFor where
  | tile (die idx : Nat) (drain : Bool)   -- ledger entry
  | xfer (no : Nat) (write : Bool)        -- STORAGE_XFER, by dispatch number
  | flush (no : Nat)
  | orphan                                -- its entry or command has ended
deriving DecidableEq, Repr

/-- An NVMe I/O command that the engine holds or has outstanding (R312). -/
structure NvCmd where
  id : Nat             -- command identifier, in the order accepted
  ctrl : Nat
  q : Nat              -- I/O queue pair (R311)
  op : Nat             -- 0 Flush, 1 Write, 2 Read
  ns : Nat
  lba : Nat
  blocks : Nat
  off : Nat            -- block offset in the transfer
  use : NvFor
  data : List Byte     -- what a Write carries
  sent : Bool          -- outstanding at the controller
  aborting : Bool      -- it has timed out, and is to be aborted
  abortSent : Bool     -- its Abort is outstanding at the controller
deriving DecidableEq, Repr

/-- An NVMe controller (Table 8.12). -/
structure NvCtrl where
  present : Bool
  spaces : Tab Nat     -- usable namespaces and their size in blocks (R310)
  mdts : Nat           -- largest transfer in blocks
  resets : Nat
  inReset : Bool
  timeoutMs : Nat
  cc : W32             -- CC as the engine last wrote it (R309)
  pairs : Nat          -- I/O queue pairs created
deriving DecidableEq, Repr

def NvCtrl.reset : NvCtrl := ⟨false, [], 32, 0, false, 0x3E8, 0, 0⟩

/-- The storage port and its engine (chapter 08). -/
structure Storage where
  linkUp : Bool
  speed : Nat
  width : Nat
  ctrl : Tab NvCtrl
  cmds : List NvCmd
  nextId : Nat
  staged : Tab (List Byte)   -- data of completed reads of tile images, by 4096 * (2048 * die + entry) + block
deriving DecidableEq, Repr

def Storage.reset : Storage := ⟨false, 0, 0, [], [], 0, []⟩

end Sys2Proof.Machine
end

