-- ==== Sys2Proof/Machine/StateFabric.lean ====
section
/-! DEFINITION. StateFabric: the state of the optical links, address lanes, leases and routing (chapter 10), and of
the flow contexts, runs and reblocking of the fabric engines (chapter 11). -/

namespace Sys2Proof.Machine

/-- A cell that waits to be sent, with its class of R367. -/
structure TxCell where
  cls : Nat
  cell : Cell
  avoid : Option Nat          -- sent again: the link that lost it, which another joined link of its port spares (R383)
  half : Option Nat           -- a copy of an ADDR_SET: the planes that carry it, 0 for 0-7 and 1 for 8-15 (R369)
  relay : Option Nat          -- relayed: the gateway link whose buffer holds it (R394)
deriving DecidableEq, Repr

/-- A cell of the package's own that any link may carry. -/
def TxCell.plain (cls : Nat) (c : Cell) : TxCell := ⟨cls, c, none, none, none⟩

/-- A received cell whose HBM access is held for a stack in self-refresh (R301): the operation, the link and the value
that its sender means (log 21). -/
structure HeldCell where
  op : Nat                    -- 0 landing of a DATA cell, 3 STATS_RESULT, 4 FETCH_REQ, 7 STRIPE_REQ
  link : Nat
  cell : Cell
  aux : Nat
deriving DecidableEq, Repr

/-- A DATA cell sent and not acknowledged (R383). -/
structure Sent where
  cell : Cell
  link : Nat
deriving DecidableEq, Repr

/-- An optical link (Table 10.13 and the tables that follow it). -/
structure Link where
  state : Nat
  txLock : Bool
  rxLock : Bool
  txLine : Nat
  rxLine : Nat
  txPort : Nat
  rxPort : Nat
  lport : Nat
  txEn : Bool                 -- the entry of the plan in force (Table 10.8)
  rxEn : Bool
  txGid : Nat
  rxGid : Nat
  cabling : Nat
  gwPort : Nat
  cabNow : Nat                -- CABLING and GW_PORT as the last LEASE_LOAD read them (Table 10.21)
  gwNow : Nat
  ending : Option Nat         -- the old lease ends: the peer to which LEASE_END is owed (R377, step 1)
  rxHold : Option Nat         -- the old local oscillator is kept until this source sends LEASE_END (R377, step 4)
  changing : Bool             -- its sending side was changed by the plan, and has not joined, been refused or timed out (R378)
  txSettling : Bool           -- a transmit retune is under way
  rxSettling : Bool           -- a local-oscillator retune is under way
  rxEnded : Bool              -- the source heard has sent LEASE_END
  idleUntil : W64             -- the peer calibrates until then (R396)
  parked : Bool               -- stage 4 of a supply sag keeps it out of its port (Table 14.4)
  reason : Nat                -- reason of the last refusal, 5 timeout
  clean : Bool                -- 1 µs of IDLE blocks received with no lost period (R377, step 5)
  period : Nat                -- periods sent
  good : Tab Nat              -- last sent period that a receiver reported good, by its device id (R383)
  hist : List (Nat × Cell)    -- cells of the last 1,023 periods, newest first
  back : Nat                  -- state to which a calibration, probe or relock returns
  lost : Nat
  mislock : Nat
  los : Nat
  shutters : Nat
  failures : Nat
  ber : Nat
  rxPower : Nat
  backRefl : Nat
  reflBase : Nat              -- back-reflection baseline (R395)
  loopRt : Nat
  domOff : Nat
deriving DecidableEq, Repr

def Link.reset : Link where
  state := 0
  txLock := false
  rxLock := false
  txLine := 0
  rxLine := 0
  txPort := 0
  rxPort := 0
  lport := 0
  txEn := false
  rxEn := false
  txGid := 0
  rxGid := 0
  cabling := 0
  gwPort := 0
  cabNow := 0
  gwNow := 0
  ending := none
  rxHold := none
  changing := false
  txSettling := false
  rxSettling := false
  rxEnded := false
  idleUntil := 0
  parked := false
  reason := 0
  clean := false
  period := 0
  good := []
  hist := []
  back := 0
  lost := 0
  mislock := 0
  los := 0
  shutters := 0
  failures := 0
  ber := 0
  rxPower := 0
  backRefl := 0
  reflBase := 0
  loopRt := 0
  domOff := 0

/-- A flow context (R404) and what the engine keeps for it. -/
structure Ctx where
  w : List W32                 -- W0-W47
  runs : Nat                   -- run count (Table 11.12)
  recorded : Option W32        -- RECORDED_TAG (R428)
  puts : Nat                   -- PUT_END lines counted towards the next receive (R419)
  putsSent : Nat               -- FPUTs completed on this context (Table 11.3)
  quiet : Bool                 -- R437
  seq : Tab Nat                -- next SEQ by receiver's device id
  seen : Tab (List Nat)        -- SEQ values landed, by sender's device id (R385)
  credit : Tab Nat             -- landing lines granted to this package, by receiver's device id (R281)
  rounds : List (Nat × Nat × Nat)   -- BARRIER cells arrived: instance, closing round or not, round (R431)
  landed : List Nat            -- PUT: lines landed since the last receive was released (R434)
deriving DecidableEq, Repr

/-- A context just loaded (R407). -/
def Ctx.fresh (w : List W32) : Ctx := ⟨w, 0, none, 0, 0, false, [], [], [], [], []⟩

/-- A DATA cell that arrived before its run had started here: sender's index, offset, lines with tags, and what the
sender means by it (log 21). -/
structure EarlyCell where
  m : Nat
  off : Nat
  lines : List (List Byte × Nat)
  aux : Nat
deriving DecidableEq, Repr

/-- A run of a flow context at this package (R409), a receive on a PUT context included. -/
structure FRun where
  ctx : Nat
  parts : List (Nat × Nat × Nat)   -- cluster, issue number, lanes, in the order joined
  st : Nat                         -- 0 waiting for parts, 1 running, 2 closing, 3 rewriting after an abort
  ver : W32                        -- the run's version tag
  epoch : Nat                      -- epoch of its instructions
  sums : List W32                  -- REDUCE: L of this package, by element (R422)
  left : Nat                       -- lines still to arrive
  landed : List Nat                -- lines of its landing region that have landed (R434)
  win : Nat                        -- ENCODE: windows written (R444)
  folding : Bool                     -- ENCODE: whether a window is granted and being folded (R444)
  fold : Tab (Nat × List Byte)     -- STRIPE: folded contributions by line: how many, and the sum
  shards : Tab (List (Nat × List Byte))   -- rebuild: lines received by member
  q : W64                          -- statistics of this package (R425)
  zPart : Tab W32                  -- final sums S of elements whose chain ends here (R422)
  stats : Nat                      -- 0 none, 1 owed, 2 chain passed on, 3 entry written
  chainIn : Option (W64 × W64)     -- STATS_CHAIN received
  round : Nat                      -- rounds finished
  sentRound : Nat                  -- rounds sent
  early : List EarlyCell
deriving DecidableEq, Repr

/-- An FPUT in progress (R418). -/
structure FPut where
  ctx : Nat
  cl : Nat
  iid : Nat
  seqs : List Nat                  -- SEQ of its cells that are not acknowledged
  ended : Bool                     -- PUT_END is sent
deriving DecidableEq, Repr

/-- A DATA cell that waits for landing credit: its context, the device it goes to, and the FPUT that it belongs to. -/
structure WaitCell where
  ctx : Nat
  dst : Nat
  put : Option Nat
  off : Nat
  lines : List (List Byte)
  tags : List Nat
deriving DecidableEq, Repr

/-- A photonic die's fabric engine and routing (FAB_ and MER_ registers of a die). -/
structure Phot where
  route : Tab W32                  -- slice routing table (R390)
  dropDst : Nat
  dropType : Nat
  dropPermit : Nat
  dropDup : Nat
  calEn : Bool
  calPeriod : Nat
  ctx : Tab Ctx
  runs : List FRun
  puts : List FPut
  wait : List WaitCell             -- oldest first
  fabNo : Nat                      -- FAB_DROP
  fabEpoch : Nat
  fabBad : Nat
  fabQuiet : Nat
  fabSat : W32
  sel : Nat                        -- FAB_CTX_SEL
  planId : W32                     -- MER_PLAN.PLAN_ID
  epoch : Nat                      -- FAB_STATUS.EPOCH (log 60)
  inReset : Bool
deriving DecidableEq, Repr

def Phot.reset : Phot where
  route := []
  dropDst := 0
  dropType := 0
  dropPermit := 0
  dropDup := 0
  calEn := true
  calPeriod := 0x64
  ctx := []
  runs := []
  puts := []
  wait := []
  fabNo := 0
  fabEpoch := 0
  fabBad := 0
  fabQuiet := 0
  fabSat := 0
  sel := 0
  planId := 0
  epoch := 0
  inReset := false

/-- An EPOCH_SET or REBLOCK under way (R438, R441). -/
structure Rebl where
  no : Nat                         -- its dispatch number
  new : Nat
  permute : Bool
  stage : Nat                      -- EPOCH_STATE of Table 11.10
  base : Nat                       -- FLOW_BASE
  count : Nat
  sends : List (Nat × Nat × Nat × Nat × W32)   -- SRC_ADDR, LINES, DST_GID, flow index, SRC_TAG
  recvs : List (Nat × Nat × Nat × Nat)         -- DST_ADDR, LINES, SRC_GID, flow index
  got : Tab Nat                    -- lines received by stream, 1024 * flow index + sender
  total : Tab Nat                  -- STREAM_TOTAL received by stream
  ended : List Nat                 -- streams, 1024 * flow index + device, whose STREAM_TOTAL is sent
  landed : List Nat
  round : Nat
  sentRound : Nat
deriving DecidableEq, Repr

/-- A comb fibre (Table 10.17, R361, R401): power, state, and the K4's outputs for it. -/
structure Fibre where
  power : Nat
  state : Nat
  enHigh : Bool                    -- LASER_EN_N is high
  lowLow : Bool                    -- LASER_LOW_N is low
deriving DecidableEq, Repr

def Fibre.reset : Fibre := ⟨0, 0, true, false⟩

/-- The optical fabric of the package. -/
structure Mer where
  link : Tab Link
  phot : Tab Phot                  -- dies 5 and 6
  fibre : Tab Fibre                -- comb fibres 0-3
  tx : List TxCell                 -- cells that wait to be sent, oldest first
  sent : List Sent                 -- DATA cells not acknowledged, oldest first
  rets : List (Nat × W64)          -- return entries owed: device, entry (R382)
  slot : Nat                       -- S modulo 1,024 (R364)
  superframe : Nat                 -- super-frames modulo 4, which pace the BEACONs (R366)
  combLock : Bool
  combAlarm : Bool                 -- COMB_ALARM_N is low
  dither : Bool                    -- every line's dither is seen
  phaseLock : Bool
  coordinator : Bool
  coordSeen : Bool                 -- some package is known to be the coordinator (R366)
  coordId : Nat
  setDue : Bool                    -- as the coordinator: an ADDR_SET is to be sent (R369)
  setSeen : Bool                   -- an ADDR_SET has come since the last BEACON (R369)
  unsure : Bool                    -- the address planes are not confirmed (R369)
  addrOut : Nat
  addrNext : Option Nat            -- mask of an ADDR_SET, for the next super-frame
  calPlane : Nat                   -- address plane in calibration, 0xFF none
  calWait : Bool                   -- its calibration here waits for another link's (R395)
  calTurn : Nat                    -- address plane calibrated next
  reports : List Nat               -- planes reported down (R369)
  planes16 : Bool                  -- address-plane count 16 in force
  beacon16 : Bool                  -- the count in the coordinator's BEACON is 16 (R371)
  muted : List (Nat × Nat)         -- plane and device to which slots are muted (R399)
  planId : W32
  planState : Nat
  epoch : Nat                      -- layout epoch
  rebl : Option Rebl
  serial : W32                     -- serial of the next abort this package raises
  aborts : List (Nat × W32)        -- aborts received: origin and serial (R432)
  calLink : Nat                    -- leased link calibrated next (R396)
  heldCells : List HeldCell        -- oldest first
  creditHeld : List (Nat × Nat × Nat)   -- credit not granted in stage 5 of supply sag: device, flow, lines (R517)
deriving DecidableEq, Repr

def Mer.reset : Mer where
  link := []
  phot := []
  fibre := []
  tx := []
  sent := []
  rets := []
  slot := 0
  superframe := 0
  combLock := false
  combAlarm := false
  dither := false
  phaseLock := false
  coordinator := false
  coordSeen := false
  coordId := 0
  setDue := false
  setSeen := false
  unsure := false
  addrOut := 0
  addrNext := none
  calPlane := 0xFF
  calWait := false
  calTurn := 0
  reports := []
  planes16 := false
  beacon16 := false
  muted := []
  planId := 0
  planState := 0
  epoch := 0
  rebl := none
  serial := 0
  aborts := []
  calLink := 0
  heldCells := []
  creditHeld := []

end Sys2Proof.Machine
end

