-- ==== Sys2Proof/Machine/StateHub.lean ====
section
/-! DEFINITION. StateHub: the state of the hub die: command streams, job, tokens and groups (chapter 02), records and
the event log (chapter 09), and the host link (chapter 13). -/

namespace Sys2Proof.Machine

/-- A skip-log entry (Table 2.12), and whether software has selected it (R92). -/
structure SkipEntry where
  tag : Nat
  opcode : Nat
  code : Nat
  done : Nat
  cause : Nat
  unit : W32
  loc : Nat
  time : W64
  job : W32
  detail : W32
  read : Bool
deriving DecidableEq, Repr

/-- A command stream (chapter 02). -/
structure Stream where
  e : Nat                  -- expected tag E
  buf : Mem                -- 4,096 slots of 64 bytes (R56)
  occ : List Nat           -- occupied slots
  queue : List W512        -- decode queue (R62)
  lastTag : Nat
  enable : Bool
  pause : Bool
  skipCount : W32
  nextEntry : Nat
  overflow : Bool
  misplaced : Nat
  select : Nat
  log : Tab SkipEntry      -- by index 0-255
  seen : List (Nat × Tok)  -- tokens that left PENDING while the head command waited (R78)
  rested : Bool            -- reset, and no command read nor ENABLE or PAUSE written since (R69, step 5; log 59)
deriving DecidableEq, Repr

def Stream.reset : Stream where
  e := 1
  buf := []
  occ := []
  queue := []
  lastTag := 0
  enable := false
  pause := false
  skipCount := 0
  nextEntry := 0
  overflow := false
  misplaced := 0
  select := 0
  log := []
  seen := []
  rested := false

/-- The open job (R83). -/
structure Job where
  opened : Bool
  id : W32
  matrixOnly : Bool        -- PROOF_LEVEL 1
  planes16 : Bool          -- ADDR_PLANES 1
  run64 : Bool             -- RUN_LENGTH 1
  seed : W64
  maxTokens : W32
  actBudget : W64
deriving DecidableEq, Repr

/-- No job, with the settings of R2. -/
def Job.reset : Job := ⟨false, 0, false, false, false, 0, 0, 0⟩

/-- What a dispatched, incomplete command still has to do (R80). -/
inductive Work where
  | fence (pkg : Bool)
  | jobClose (zeroing : Bool)
  | load (left : List (Nat × Nat × Nat)) (next : Nat) (arrived : Tab (List Byte)) (bad : Bool)
      -- (member, page, source offset) not yet written; source bytes asked for; bytes by source offset; a page was lost
  | start (left : List Nat) (ok : Bool)          -- members not ended
  | stop (left : List Nat)
  | ephLoad (die : Nat)
  | tileMove (die : Nat) (todo : List (Option (List W32 × W32) × Nat)) (left : Nat) (bad : Bool)
  | storage (left : Nat) (flush : Bool) (bad : Bool)   -- NVMe commands not complete
  | hostRead (next left : Nat)                   -- host to HBM: bytes asked for, bytes not yet arrived
  | hostWrite                                    -- HBM to host
  | lease
  | leaseHeld (ws : List W32)              -- a checked plan that waits for a fence (R438)
  | flow (todo : List (Nat × List W32))  -- contexts whose runs must end first (R407)
  | epoch
  | profile (p : Nat)
  | waiting                              -- its effect waits for a fence (R438) or for a stack in self-refresh (R301)
deriving DecidableEq, Repr

/-- A dispatched command that is not complete (R64, R66). -/
structure CmdRec where
  no : Nat
  strm : Nat
  word : W512
  work : Work
deriving DecidableEq, Repr

/-- A record (Table 9.3). -/
structure Rec where
  unit : W32
  cls : W16
  outcome : Byte
  path : Byte
  opcode : W16
  tile : W32
  time : W64
  temp : W16
  volt : W16
  job : W32
  seq : W32
  d0 : W32
  d1 : W32
  d2 : W32
  d3 : W32
  d4 : W32
  d5 : W32
  d6 : W32
deriving DecidableEq, Repr

/-- Records, their numbering and paths (R345, R347, R563). -/
structure Recs where
  seq : W32
  log : List Rec           -- the newest 4,096, oldest first
  inService : Bool         -- the "ready" point is reached and no recovery or field self-test is under way
  ring : List Rec          -- waiting for the host ring
  bmc : List Rec           -- waiting for the board management controller
deriving DecidableEq, Repr

def Recs.reset : Recs := ⟨0, [], false, [], []⟩

/-- The event ring (Tables 13.8-13.11). -/
structure Evr where
  sizeLog2 : Nat
  base : W64
  enable : Bool
  vector : Nat
  irqEn : Bool
  coCount : Nat
  coUs : Nat
  wb : W64
  producer : W32
  consumer : W32
  active : Bool
  error : Bool
  unreported : Nat         -- records delivered and not yet reported by a message (R484)
deriving DecidableEq, Repr

def Evr.reset : Evr := ⟨0, 0, false, 0, false, 0, 0, 0, 0, 0, false, false, 0⟩

/-- A token watch, PCI_TOKEN_IRQn (R486). -/
structure Watch where
  token : Nat
  vector : Nat
  enable : Bool
  fired : Bool
  state : Nat
  waitSeq : Option W32     -- the message waits for this record's delivery
deriving DecidableEq, Repr

def Watch.reset : Watch := ⟨0, 0, false, false, 0, none⟩

/-- An MSI-X table entry (R485). -/
structure Msix where
  addr : W64
  data : W32
  masked : Bool
  pend : Bool
deriving DecidableEq, Repr

/-- A vector after reset: masked, as PCIe gives (log 11). -/
def Msix.reset : Msix := ⟨0, 0, true, false⟩

/-- The capabilities of the host function (Table 13.1). -/
inductive HostCap where
  | pciExpress | powerManagement | msix | aer | resizableBar | serialNumber | dataLinkFeature | physical16 | physical32
  | physical64 | flitLogging | ide
deriving DecidableEq, Repr

/-- What a configuration read of the host function returns (R471, Table 13.1), but for what commands change. -/
structure HostConf where
  vendor : Nat
  device : Nat
  revision : Nat           -- STEPPING of the hub die
  classCode : Nat
  subVendor : Nat          -- of the running firmware image
  subId : Nat
  interruptPin : Nat
  caps : List HostCap
  serial : W64             -- bits 63:0 of CAP_DIE_ID4
deriving DecidableEq, Repr

/-- The header before an image and the identity fuses have been read. -/
def HostConf.reset : HostConf where
  vendor := 0x1F6A
  device := 0x4864
  revision := 0
  classCode := 0x120000
  subVendor := 0
  subId := 0
  interruptPin := 0
  caps := [.pciExpress, .powerManagement, .msix, .aer, .resizableBar, .serialNumber, .dataLinkFeature, .physical16, .physical32,
    .physical64, .flitLogging, .ide]
  serial := 0

/-- The host port (chapter 13). -/
structure Pci where
  conf : HostConf
  perstHigh : Bool         -- level of PERST_N
  ready : Bool             -- configuration readiness (R490)
  linkUp : Bool
  speed : Nat
  width : Nat
  d3hot : Bool
  mse : Bool
  bme : Bool
  bar2Log2 : Nat
  winBase : W64            -- PCI_DMA_WINDOW
  winLimit : W64
  ideState : Nat
  ideRequired : Bool
  ideStream : Nat
  ideFailures : Nat
  ideBlocked : Bool        -- insecure since a failure, until a stream is enabled again (R488)
  msix : Tab Msix
  watch : Tab Watch
  low : Tab W32            -- pending low halves of 64-bit register writes, by offset (R19)
  latch : Tab W32          -- latched high halves of counters, by offset (R19)
  flr : Bool               -- an FLR waits for stopped groups (R478)
deriving DecidableEq, Repr

def Pci.reset : Pci where
  conf := HostConf.reset
  perstHigh := false
  ready := false
  linkUp := false
  speed := 0
  width := 0
  d3hot := false
  mse := false
  bme := false
  bar2Log2 := 34
  winBase := 0
  winLimit := 0
  ideState := 0
  ideRequired := false
  ideStream := 0
  ideFailures := 0
  ideBlocked := false
  msix := []
  watch := []
  low := []
  latch := []
  flr := false

/-- A clamp episode under way (R505): the clamping and the clamped loop, the cluster or link, when it began, what is
requested and what is in force, and whether its start has been recorded. -/
structure Clamp where
  loop : Nat
  clamped : Nat
  key : Nat
  begun : W64
  want : Nat
  got : Nat
  recorded : Bool
deriving DecidableEq, Repr

/-- Package power, thermal and supply-sag state (chapter 14), and the power pins (chapter 17). -/
structure Power where
  profile : Nat
  profPending : Bool
  profCap : Nat
  powerW : Nat
  powerCap : Nat
  sagStage : Nat
  railMv : Nat
  lowestMv : Nat
  sagEntries : Nat
  clampEpisodes : W32
  hottest : W16
  hotDie : Nat
  limitSeen : Bool
  lastTrip : Bool
  hubSensors : List W16
  photSensors : Tab (List W16)
  shdnHigh : Bool             -- level of PWR_SHDN_N (R573)
  tripLow : Bool              -- THERMTRIP_N asserted (R513)
  aoPwrGd : Bool
  deadRails : List Nat        -- regulators switched off for good: cluster number, or 32 + die
  clamps : List Clamp
  clampAt : List (Nat × Nat × Nat × W64)  -- when a record pair of a loop, a clamped loop and a unit was last begun (R506)
  profOld : Nat               -- profile before the SET_PROFILE that is not complete, and when it was dispatched
  profAt : W64
  hotSeen : List Nat          -- hub and photonic dies in an excursion above 95 °C (R514)
  hbmPg : Bool                -- every HBM rail reports power good (R523)
  lowSince : Option W64       -- since when the package power is below 97 % of the limit (R508)
deriving DecidableEq, Repr

def Power.reset : Power where
  profile := 0
  profPending := false
  profCap := 0x5DC
  powerW := 0
  powerCap := 1500
  sagStage := 0
  railMv := 0
  lowestMv := 0
  sagEntries := 0
  clampEpisodes := 0
  hottest := 0
  hotDie := 0
  limitSeen := false
  lastTrip := false
  hubSensors := [0, 0, 0, 0]
  photSensors := []
  shdnHigh := false
  tripLow := false
  aoPwrGd := false
  deadRails := []
  clamps := []
  clampAt := []
  profOld := 0
  profAt := 0
  hotSeen := []
  hbmPg := false
  lowSince := none

/-- What a management message is answered with (R544-R563); the framing of PLDM and SPDM is not the manual's (log 16). -/
inductive Answer where
  | done (data : List Byte)
  | signed (data : List Byte)          -- with a signature by the alias key
  | chain (meas : List (List Byte))    -- the chain of slot 0, whose alias certificate holds these measurements
  | code (n : Nat)                     -- the answer of SUBMIT_TOKEN (R561)
  | unableToInitiate                   -- UNABLE_TO_INITIATE_UPDATE
  | retryUpdate                        -- RETRY_REQUEST_UPDATE
  | busy                               -- the SPDM error Busy
  | unspecified                        -- the SPDM error Unspecified
  | refused                            -- refused, the manual naming no code
deriving DecidableEq, Repr

/-- A message the K4 sends across its boundary (log 9). -/
inductive Out where
  | hostWrite (addr : Nat) (bytes : List Byte)          -- posted write to host memory
  | hostRead (tag addr len : Nat)                       -- read request to host memory
  | regData (value : W64)                               -- completion of a BAR0 read
  | debugData (value : W64)                             -- what a read on the debug port returns
  | memData (bytes : List Byte) (poisoned : Bool)       -- completion of a BAR2 read
  | unsupported                                         -- Unsupported Request completion
  | msix (vector : Nat) (addr : W64) (data : W32)
  | nvme (ctrl q id op ns lba blocks : Nat) (fua : Bool) (data : List Byte)
  | nvmeAdmin (ctrl op arg : Nat)
  | period (link : Nat) (syms : List (Option Sym))      -- what an optical link sends in a period (R350, R351)
  | comp (bytes : List Byte)                            -- a transaction to the companion
  | mctp (binding : Nat) (bytes : List Byte)            -- a PlatformEventMessage: event class and record
  | answer (binding : Nat) (what : Answer)
  | fwData (binding off len : Nat)                      -- RequestFirmwareData
  | fwStep (binding what result : Nat)                  -- 1 TransferComplete, 2 VerifyComplete, 3 ApplyComplete
  | retryStatus                                         -- Request Retry Status of a configuration request (R490)
  | deviceReady (conf : HostConf)                       -- Device Readiness Status message, and what configuration reads return
                                                        -- from now on (R471, R490)
deriving DecidableEq, Repr

end Sys2Proof.Machine
end

