-- ==== Sys2Proof/Machine/StateStart.lean ====
section
/-! DEFINITION. StateStart: the die-link ports and the companion site (chapter 12), the boot flash and the state of
start-up and reset (chapter 15), and of the enclave and the management interface (chapter 16). -/

namespace Sys2Proof.Machine

/-! ### Die links -/

/-- An agreement on width that is under way (R462): retrains that failed, the widths forced, and the narrowest width
that both sides reached so far; the retrain of step 4 is the last. -/
structure Agree where
  failed : Nat
  forced : List Nat
  reached : List Nat
  last : Bool
deriving DecidableEq, Repr

/-- A die-link port as the die at one end has it (Tables 12.8-12.10). Widths are by module: 0 off, 1 half, 2 full. -/
structure Port where
  state : Nat
  degraded : Bool
  cfgStd : Bool               -- D2D_PORT_CFG.MODE, 1 standard
  std : Bool                  -- mode of the last training
  alt : Bool
  altRec : Bool               -- a ROUTE record of this detour has been written
  width : List Nat
  speed : Nat
  crc : Nat
  retrain : Nat
  mismatch : Nat
  persist : Nat
  retries : Tab (List W64)    -- by module: times of its retried flits in the last 100 µs
  holds : Tab (List W64)      -- by module: times of its retrains in the last second
  agree : Option Agree        -- kept at the end of the lower-numbered die
deriving DecidableEq, Repr

/-- A port after a cold reset; `std` is its shipped mode (R453). -/
def Port.reset (std : Bool) : Port where
  state := 0
  degraded := false
  cfgStd := std
  std := std
  alt := false
  altRec := false
  width := []
  speed := 0
  crc := 0
  retrain := 0
  mismatch := 0
  persist := 0
  retries := []
  holds := []
  agree := none

/-- A REG_RD or REG_WR that the companion has not completed (R467). -/
structure CompReq where
  write : Bool
  off : Nat
  size : Nat
  data : W64
  dbg : Bool                  -- made over the debug port (R557), else by the host
deriving DecidableEq, Repr

/-- A companion memory transaction held for a stack in self-refresh (R301). -/
structure CompHeld where
  write : Bool
  tag : Nat
  addr : Nat                  -- HBM address
  data : List Byte            -- of a write; a read's length is in `len`
  len : Nat
deriving DecidableEq, Repr

/-- The companion site (R464-R468, Tables 12.12-12.14). -/
structure Comp where
  state : Nat
  reason : Nat
  desc : List Byte            -- the descriptor read at admission
  maxTags : Nat
  powerW : Nat
  refused : Nat
  limit : Nat                 -- D2D_COMP_LIMIT
  apEn : Bool
  apBase : Nat
  apSize : Nat
  apVtag : W32
  apCheck : Nat
  apStag : Nat
  resetLow : Bool             -- COMP_RESET_N asserted
  reqs : Tab CompReq          -- by tag
  held : List CompHeld        -- oldest first
deriving DecidableEq, Repr

def Comp.reset : Comp where
  state := 0
  reason := 0
  desc := []
  maxTags := 0
  powerW := 0
  refused := 0
  limit := 0
  apEn := false
  apBase := 0
  apSize := 0
  apVtag := 0
  apCheck := 1
  apStag := 0
  resetLow := true
  reqs := []
  held := []

/-- The die-link manager: ports by 16 * die + port, CAP_DIE_ID, the companion. -/
structure D2d where
  ports : Tab Port
  ids : Tab W128              -- CAP_DIE_ID0-7
  comp : Comp
deriving DecidableEq, Repr

def D2d.reset : D2d := ⟨[], [], Comp.reset⟩

/-! ### Boot flash, start-up and reset -/

/-- The boot flash (R537): its bytes (boot records, identity region and image regions), and the retained lists, whose
layout the manual does not give. -/
structure Flash where
  bytes : Mem
  cores : List Nat            -- retired cores, 9 * cluster + core, in order of retirement (R34)
  plates : List Nat           -- clusters offline by failed plates or update engines
  upds : List Nat             -- failed update datapaths: 3 * cluster + (0 main, 1 duplicate, 2 arbiter) (R339)
  movers : List Nat           -- dies whose tile mover is failed (R339)
  widths : Tab (List Nat)     -- degraded width of a die-link port, by 16 * die + port (R460)
  rails : List Nat            -- failed regulators: cluster, or 32 + die (R494)
  sectors : List Nat          -- failed HBM sectors (R525)
deriving DecidableEq, Repr

def Flash.reset : Flash := ⟨[], [], [], [], [], [], [], []⟩

/-- Start-up (chapter 15). -/
structure Boot where
  ready : Bool                -- PCI_READY.READY
  recovery : Bool             -- PCI_READY.RECOVERY
  stage : Nat                 -- lowest stage that is not complete; 0 before AO_CLOCKS completes (R522)
  stored : Bool               -- STORAGE is complete, before OPTICAL is
  starting : Bool             -- a start is under way
  device : Nat                -- HUB_TOPOLOGY_ID
  domain : Nat
  idVerified : Bool
  idConflict : Bool
  kind : Nat                  -- HUB_START_STATUS
  cause : Nat
  failStage : Nat
  warmFails : Nat
  failUnit : W32
  hbmValid : List Nat         -- HUB_RETAINED: compute dies
  d2dValid : List Nat
  optValid : List Nat         -- photonic dies
  optTemp : Tab W16
  begun : W64                 -- always-on counter at START_BEGIN
  warmHeld : Option Nat       -- a warm request held until the start under way ends (R535): its cause
  stopWarm : Option Nat       -- a warm reset waits for stopped groups (R529, step 2): its cause
  nextCause : Nat             -- why the next start is a cold one: 5 trip, 6 stage-6 shutdown, 0 neither
  dieSel : Nat                -- HUB_RESET.DIE_SEL
  dieReset : Option Nat       -- the die whose reset is under way
  dieHeld : List Nat          -- die resets held until it ends (R535)
deriving DecidableEq, Repr

def Boot.reset : Boot where
  ready := false
  recovery := false
  stage := 0
  stored := false
  starting := false
  device := 0
  domain := 0
  idVerified := false
  idConflict := false
  kind := 0
  cause := 0
  failStage := 0
  warmFails := 0
  failUnit := 0
  hbmValid := []
  d2dValid := []
  optValid := []
  optTemp := []
  begun := 0
  warmHeld := none
  stopWarm := none
  nextCause := 0
  dieSel := 0
  dieReset := none
  dieHeld := []

/-! ### The enclave and the management interface -/

/-- The digests of measurements 2-5, from which the alias key derives and which an alias certificate holds (R547-R549). -/
structure Meas where
  header : List Byte
  body : List Byte
  signer : List Byte
  security : List Byte
deriving DecidableEq, Repr

/-- The Relouser enclave (Tables 16.3, 16.10-16.14). -/
structure Encl where
  state : Nat
  debug : Nat
  aliasReady : Bool
  identityBad : Bool
  sessions : List (Nat × Nat)  -- open SPDM sessions: session id, binding (1 I3C, 2 SMBus, 3 PCIe)
  failedTest : Nat
  header : List Byte           -- signed header of the running image
  signerPk : List Byte
  bodyDigest : List Byte
  region : Nat
  fusedSvn : Nat
  revoked : W16
  udsBlown : Bool              -- decommissioned: every UDS bit is one
  uds : List Byte              -- the unique device secret, 32 bytes
  rom : List Byte              -- digest of the enclave ROM (measurement 1)
  lockOpen : Nat               -- ENC_LOCK.OPEN
  challenge : List Byte        -- ENC_CHALLENGE, 32 bytes
  idKey : Bool                 -- the device identity key is derived
  aliasKey : Bool              -- the alias key is derived
  idSeed : List Byte           -- its SK.seed, SK.prf and PK.seed, 96 bytes (R547); empty while not derived
  aliasSeed : List Byte        -- the alias key's, 72 bytes
  certs : List Meas            -- alias certificates cached, older first (R549)
  signing : List Meas          -- measurement sets whose certificates the enclave is signing, oldest first
  committed : Bool             -- the running image has reached READY and is committed (R542)
  blown : Bool                 -- the commit under way has blown a bit
  readyAt : W64
  ideSets : List Nat           -- IDE key sets installed
deriving DecidableEq, Repr

def Encl.reset : Encl where
  state := 0
  debug := 0
  aliasReady := false
  identityBad := false
  sessions := []
  failedTest := 0
  header := []
  signerPk := []
  bodyDigest := []
  region := 0
  fusedSvn := 0
  revoked := 0
  udsBlown := false
  uds := []
  rom := []
  lockOpen := 0
  challenge := []
  idKey := false
  aliasKey := false
  idSeed := []
  aliasSeed := []
  certs := []
  signing := []
  committed := false
  blown := false
  readyAt := 0
  ideSets := []

/-- An update under way (R545): binding, component size, piece size, bytes written, and whether it is verified. -/
structure Upd where
  binding : Nat
  size : Nat
  piece : Nat
  got : Nat
  version : W32                -- the version that RequestUpdate offered
  component : Bool             -- UpdateComponent has been accepted
  verified : Bool
deriving DecidableEq, Repr

/-- The Yuton controller's management interface (Table 16.15, R560-R563). -/
structure Mgt where
  i3c : Bool                   -- I3C target operation (R560)
  addr : Nat                   -- dynamic I3C address
  binding : Nat
  vdm : Bool
  async : Bool
  update : Nat
  eid : Nat
  eidPcie : Nat
  events : Nat                 -- binding that receives events: 0 none, 1 I3C, 2 SMBus, 3 PCIe
  inFlight : Option W32        -- SEQ of the record that waits for its response
  tries : Nat                  -- times it has been sent again
  upd : Option Upd
  readings : Tab Int           -- sensor readings of Table 16.8 as last refreshed
  halted : Bool                -- the Yuton controller is halted by the debug port (R557)
  viaDebug : Bool              -- the access under way is the debug port's; false between commands
deriving DecidableEq, Repr

def Mgt.reset : Mgt := ⟨false, 0, 0, false, false, 0, 0, 0, 0, none, 0, none, [], false, false⟩

end Sys2Proof.Machine
end

