-- ==== Sys2Proof/Machine/State.lean ====
section
/-! DEFINITION. State: the whole state of the block, its queue of waiting commands, the state after reset, and the
reasons a step can stop. -/

namespace Sys2Proof.Machine

/-- The state of the package. A cluster has the number 8d + c, a core the number 9 * cluster + n, a stack 3d + s. -/
structure State where
  pending : List Instr       -- commands waiting, first in, first out
  free : Nat                 -- free values drawn so far (log 5)
  out : List Out             -- messages sent, newest first (log 9)
  aoCount : W64              -- always-on counter, 20 ns ticks (R497)
  seqNo : Nat                -- commands dispatched so far (R66)
  insNo : Nat                -- instructions issued so far
  lastStream : Nat           -- stream served last (R64)
  recs : Recs
  evr : Evr
  pci : Pci
  job : Job
  groups : Tab W32           -- cluster masks; 0 undefined (R84)
  recipe : Tab W32           -- HUB_RECIPE (R219)
  tok : Tab TokEntry         -- hub tokens
  cmds : List CmdRec         -- dispatched, incomplete commands, oldest first
  hreq : Tab (Nat × Nat × Nat)  -- read requests to the host by tag: command, source offset, bytes (R474)
  strm : Tab Stream
  cl : Tab Cluster
  core : Tab Core
  die : Tab Die
  stack : Tab Stack
  hbm : Mem                  -- 0xD8_0000_0000 bytes (R288)
  hbmCk : Tab W64            -- check word by sector number (R291)
  xferVtag : W32             -- HBM_XFER_CTRL
  xferCheck : Nat
  xferStag : Nat
  bar2Base : Nat
  xferPoisoned : Nat         -- HBM_XFER_ERR
  xferDiscarded : Nat
  hbmFlag : Tab Nat          -- sectors whose next read fails: 1 flagged by the on-die ECC (R293), 2 its fourth attempt failed (R296)
  hbmLost : List Nat         -- sectors whose next write is lost (R296)
  bar2Held : List Held       -- oldest first
  hbmHeld : List (Nat × Nat × List Byte)  -- bytes of commands held for a stack in self-refresh: command, first sector, data
  stp : Storage
  pwr : Power
  mer : Mer
  flash : Flash
  d2d : D2d
  boot : Boot
  encl : Encl
  mgt : Mgt
deriving DecidableEq, Repr

/-- The machine right after reset (log 3). -/
def State.reset : State where
  pending := []
  free := 0
  out := []
  aoCount := 0
  seqNo := 0
  insNo := 0
  lastStream := 63
  recs := Recs.reset
  evr := Evr.reset
  pci := Pci.reset
  job := Job.reset
  groups := []
  recipe := []
  tok := []
  cmds := []
  hreq := []
  strm := []
  cl := []
  core := []
  die := []
  stack := []
  hbm := []
  hbmCk := []
  xferVtag := 0
  xferCheck := 1
  xferStag := 0
  bar2Base := 0
  xferPoisoned := 0
  xferDiscarded := 0
  hbmFlag := []
  hbmLost := []
  bar2Held := []
  hbmHeld := []
  stp := Storage.reset
  pwr := Power.reset
  mer := Mer.reset
  flash := Flash.reset
  d2d := D2d.reset
  boot := Boot.reset
  encl := Encl.reset
  mgt := Mgt.reset

/-- Faults: the manual has no event that stops the package without a next state, so there is none. -/
inductive Fault where
deriving DecidableEq, Repr

/-- Refusals. -/
inductive Refusal where
  /-- Raised by the dispatch for a command that has no meaning yet; safe, since the model stops there. -/
  | notModelled (mnemonic : String)
deriving DecidableEq, Repr

end Sys2Proof.Machine
end

