-- ==== Sys2Proof/Machine/Ops.lean ====
section
/-! DEFINITION. Ops: the named operations over the state that every family shares: access to units, free values,
messages, records (chapter 09), MSI-X messages and token watches (chapter 13), tokens (chapter 02). -/

namespace Sys2Proof.Machine

/-! ### Units -/

def strmOf (s : State) (i : Nat) : Stream := s.strm.get Stream.reset i
def setStrm (s : State) (i : Nat) (x : Stream) : State := { s with strm := s.strm.put i x }
def clOf (s : State) (i : Nat) : Cluster := s.cl.get Cluster.reset i
def setCl (s : State) (i : Nat) (x : Cluster) : State := { s with cl := s.cl.put i x }
def coreOf (s : State) (i : Nat) : Core := s.core.get Core.reset i
def setCore (s : State) (i : Nat) (x : Core) : State := { s with core := s.core.put i x }
def dieOf (s : State) (i : Nat) : Die := s.die.get Die.reset i
def setDie (s : State) (i : Nat) (x : Die) : State := { s with die := s.die.put i x }
def stackOf (s : State) (i : Nat) : Stack := s.stack.get Stack.reset i
def setStack (s : State) (i : Nat) (x : Stack) : State := { s with stack := s.stack.put i x }

/-- The list of numbers below `n` that meet `p`. -/
def upto (n : Nat) (p : Nat → Bool) : List Nat := (List.range n).filter p

/-- The physical core, 9 * cluster + n, that serves a lane (R31); none when the lane is masked. -/
def laneCore (c : Cluster) (cl lane : Nat) : Option Nat :=
  let n := c.lanes.getD lane 15
  if n < 9 then some (9 * cl + n) else none

/-- CLU_LANE_MAP.LANE_MASK: no lane is active in an offline cluster (Table 1.3). -/
def laneMask (c : Cluster) : Nat :=
  if c.mapState = 3 then 0
  else ((List.range 8).map (fun l => if c.lanes.getD l 15 < 9 then 2 ^ l else 0)).sum

/-- The lanes of a mask, rising. -/
def maskLanes (m : Nat) : List Nat := upto 8 (fun l => m / 2 ^ l % 2 = 1)

/-- CLU_LANE_MAP.LANE_COUNT. -/
def laneCount (c : Cluster) : Nat := (maskLanes (laneMask c)).length

/-- The lane that a physical core has in the lane map; 15 if none. -/
def coreLane (s : State) (core : Nat) : Nat :=
  ((List.range 8).find? (fun l => (clOf s (core / 9)).lanes.getD l 15 = core % 9)).getD 15

/-! ### Messages and free values -/

/-- The state after the K4 has sent a message (log 9). -/
def emit (o : Out) (s : State) : State := { s with out := o :: s.out }

/-- The next free value, and the state in which it has been drawn (log 5). -/
def drawWord (s : State) : W64 × State := (Config.freeWord s.free, { s with free := s.free + 1 })

/-- `n` free bytes, and the state in which they have been drawn (log 5). -/
def drawBytes (n : Nat) (s : State) : List Byte × State :=
  ((List.range n).map (fun i => Config.freeByte (s.free + i)), { s with free := s.free + n })

/-! ### Records -/

/-- A unit id (Table 1.7). -/
def unitId (die cl core eng inst : Nat) : W32 :=
  BitVec.ofNat 32 (at_ die 28 4 + at_ cl 24 4 + at_ core 20 4 + at_ eng 16 4 + inst % 2 ^ 16)

/-- The ingest of a stream (Table 1.8). -/
def unitIngest (st : Nat) : W32 := unitId 4 15 15 13 st
/-- The sequencer of cluster 8d + c. -/
def unitSeq (cl : Nat) : W32 := unitId (cl / 8) (cl % 8) 15 3 0
/-- An engine of physical core 9 * cluster + n: 0 matrix A, 1 matrix B, 2 vector. -/
def unitCore (core eng inst : Nat) : W32 := unitId (core / 9 / 8) (core / 9 % 8) (core % 9) eng inst
/-- A unit of die level. -/
def unitDie (die eng inst : Nat) : W32 := unitId die 15 15 eng inst

/-- What the writer of a record supplies; the defaults are the common values (R348, R586, R591). -/
structure RecIn where
  unit : W32
  cls : Nat
  outcome : Nat := 0
  opcode : Nat := 0
  tile : W32 := 0xFFFFFFFF#32
  d0 : W32 := 0xF#32
  d1 : W32 := 0
  d2 : W32 := 0
  d3 : W32 := 0
  d4 : W32 := 0
  d5 : W32 := 0
  d6 : W32 := 0

/-- Classes that are also sent to the board management controller in service: the M column of Table 9.4 and of the
owning chapters. -/
def mClass (c : Nat) : Bool :=
  c ∈ [0x0204, 0x0205, 0x0206, 0x0207, 0x0208, 0x0302, 0x0306, 0x0401, 0x0405, 0x0407, 0x0408, 0x0441,
       0x0502, 0x0504, 0x0505, 0x0602, 0x0603, 0x0604, 0x0605, 0x0606, 0x0609]
  || decide (0x0700 ≤ c ∧ c < 0x0900)

/-- PATH of a record of class `c` (Table 9.3, R347). -/
def pathOf (s : State) (c : Nat) : Nat := if s.recs.inService then 1 + (if mClass c then 2 else 0) else 6

/-- The highest of a list of sensor readings in signed 1/16 °C; 0x8000 when there is none. -/
def hotSensor (l : List W16) : W16 :=
  l.foldl (fun m x => if m.toInt < x.toInt then x else m) 0x8000#16

/-- TEMP of a record of a unit (Table 9.3). -/
def tempOf (s : State) (u : W32) : W16 :=
  let die := fld u 28 4
  let c := fld u 24 4
  if die < 4 then
    if c < 8 then hotSensor (clOf s (8 * die + c)).sensors
    else hotSensor ((List.range 8).map (fun c => (clOf s (8 * die + c)).sensors)).flatten
  else if die = 4 then hotSensor s.pwr.hubSensors
  else if die < 7 then hotSensor (s.pwr.photSensors.get [0, 0, 0, 0] die)
  else 0x8000#16

/-- VOLT of a record of a unit (Table 9.3): the cluster's rail, the die's rail, or the intermediate rail. -/
def voltOf (s : State) (u : W32) : W16 :=
  let die := fld u 28 4
  let c := fld u 24 4
  BitVec.ofNat 16
    (if die < 4 then (if c < 8 then (clOf s (8 * die + c)).voltMv else (dieOf s die).dieRailMv) else s.pwr.railMv)

/-- JOB_ID of the open job, or 0 (Table 9.3). -/
def jobId (s : State) : W32 := if s.job.opened then s.job.id else 0

/-- The record that is written (Table 9.3). -/
def mkRec (r : RecIn) (s : State) : Rec where
  unit := r.unit
  cls := BitVec.ofNat 16 r.cls
  outcome := BitVec.ofNat 8 r.outcome
  path := BitVec.ofNat 8 (pathOf s r.cls)
  opcode := BitVec.ofNat 16 r.opcode
  tile := r.tile
  time := s.aoCount
  temp := tempOf s r.unit
  volt := voltOf s r.unit
  job := jobId s
  seq := s.recs.seq
  d0 := r.d0
  d1 := r.d1
  d2 := r.d2
  d3 := r.d3
  d4 := r.d4
  d5 := r.d5
  d6 := r.d6

/-- The newest `n` elements of a list that is oldest first. -/
def newest {α : Type} (n : Nat) (l : List α) : List α := l.drop (l.length - n)

/-- A record enters the event log, which keeps the newest 4,096, and the paths that its PATH names; a record that the
log overwrites is lost to its paths (R347). -/
def Recs.add (x : Rec) (r : Recs) : Recs :=
  let log := newest 4096 (r.log ++ [x])
  let kept := fun (l : List Rec) => l.filter (fun y => log.contains y)
  { r with
    seq := r.seq + 1
    log := log
    ring := kept (if bit x.path 0 then r.ring ++ [x] else r.ring)
    bmc := kept (if bit x.path 1 then r.bmc ++ [x] else r.bmc) }

/-- The state in which a record has been written (R345-R347). -/
def record (r : RecIn) (s : State) : State := { s with recs := s.recs.add (mkRec r s) }

/-- The 64 bytes of a record (Table 9.3). -/
def recBytes (r : Rec) : List Byte :=
  leBytes 4 r.unit.toNat ++ leBytes 2 r.cls.toNat ++ [r.outcome, r.path] ++ leBytes 2 r.opcode.toNat ++ [0, 0]
  ++ leBytes 4 r.tile.toNat ++ leBytes 8 r.time.toNat ++ leBytes 2 r.temp.toNat ++ leBytes 2 r.volt.toNat
  ++ leBytes 4 r.job.toNat ++ leBytes 4 r.seq.toNat ++ leBytes 4 r.d0.toNat ++ leBytes 4 r.d1.toNat
  ++ leBytes 4 r.d2.toNat ++ leBytes 4 r.d3.toNat ++ leBytes 4 r.d4.toNat ++ leBytes 4 r.d5.toNat
  ++ leBytes 4 r.d6.toNat

/-- A REGISTER_ACCESS record of a host or debug-port access (R585, Table 1.14): cause, offset, size, direction and data. -/
def regAccess (cause off size : Nat) (wr : Bool) (data : W64) (s : State) : State :=
  record { unit := if s.mgt.viaDebug then 0x4FFE0001#32 else 0x4FFC0000#32, cls := 0x0103, outcome := cause
           d1 := BitVec.ofNat 32 off, d2 := BitVec.ofNat 32 (off / 2 ^ 32)
           d3 := BitVec.ofNat 32 (size % 256 + 256 * b2n wr)
           d4 := data.setWidth 32, d5 := (data >>> 32).setWidth 32 } s

/-! ### MSI-X and token watches -/

/-- Whether link IDE lets the port work: not insecure after a failure (R488), and secure where policy requires it
(R489). -/
def ideOk (s : State) : Bool := !s.pci.ideBlocked && (!s.pci.ideRequired || decide (s.pci.ideState = 2))

/-- Whether the K4 may issue requests to the host (R476, R477, R488, R489). -/
def mayRequest (s : State) : Bool := s.pci.bme && !s.pci.d3hot && s.pci.linkUp && ideOk s

/-- A host write that reaches the function: it is dropped while the port is insecure (R488), and an Unsupported
Request while Memory Space Enable is clear or acts so (R476, R489). With the link down none arrives. The
debug port's accesses do not come over the link (R557). -/
def hostAccess (f : State → State) (s : State) : State :=
  if s.mgt.viaDebug then f s
  else if s.pci.ideBlocked ∨ !s.pci.linkUp then s
  else if s.pci.mse && ideOk s then f s else emit .unsupported s

/-- A host read that reaches the function (R476, R488, R489). -/
def hostRead (f : State → State) (s : State) : State :=
  if !s.pci.linkUp then s else if s.pci.mse && ideOk s then f s else emit .unsupported s

def setMsix (s : State) (v : Nat) (m : Msix) : State := { s with pci := { s.pci with msix := s.pci.msix.put v m } }

/-- A message on a vector; a masked vector, or one that may not be sent now, sets its pending bit (R476, R485). -/
def sendMsix (v : Nat) (s : State) : State :=
  let m := s.pci.msix.get Msix.reset v
  if m.masked || !(mayRequest s) then setMsix s v { m with pend := true }
  else emit (.msix v m.addr m.data) s

/-- Whether the event ring is full (R483). -/
def evrFull (s : State) : Bool := decide ((s.evr.producer - s.evr.consumer).toNat ≥ 2 ^ s.evr.sizeLog2)

/-- The state code of a token (Table 2.7). -/
def tokCode : Tok → Nat
  | .idle => 0
  | .pending => 1
  | .done => 2
  | .skipped => 3
  | .aborted => 4

/-- The token of a state code 2-4. -/
def tokOfCode (n : Nat) : Tok := if n = 1 then .pending else if n = 2 then .done else if n = 3 then .skipped
  else if n = 4 then .aborted else .idle

/-- A hub token's id carries bit 15 (Table 2.6). -/
def isHubTok (id : Nat) : Bool := decide (0x8000 ≤ id ∧ id < 0x8400)
/-- A cluster token's id (Table 2.6). -/
def isCluTok (id : Nat) : Bool := decide (id < 0x2000)
/-- The cluster, 8d + c, of a cluster token's id. -/
def tokCl (id : Nat) : Nat := id / 256
/-- The id of token `t` of a cluster. -/
def cluTok (cl t : Nat) : Nat := cl * 256 + t % 256

/-- The entry of a token by its id. -/
def tokOf (s : State) (id : Nat) : TokEntry :=
  if isHubTok id then s.tok.get TokEntry.reset (id - 0x8000)
  else (clOf s (tokCl id)).tok.get TokEntry.reset (id % 256)

/-- A token's entry replaced, with nothing else. -/
def putTok (s : State) (id : Nat) (t : TokEntry) : State :=
  if isHubTok id then { s with tok := s.tok.put (id - 0x8000) t }
  else let c := clOf s (tokCl id); setCl s (tokCl id) { c with tok := c.tok.put (id % 256) t }

def setWatch (s : State) (n : Nat) (w : Watch) : State :=
  { s with pci := { s.pci with watch := s.pci.watch.put n w } }

/-- Token watch `n` fires when R486 says so; `wait` is the record that its message must follow. -/
def fireWatch (wait : Option W32) (n : Nat) (s : State) : State :=
  let w := s.pci.watch.get Watch.reset n
  let t := tokCode (tokOf s w.token).st
  if w.enable && !w.fired && decide (2 ≤ t) then
    let s' := setWatch s n { w with fired := true, state := t, waitSeq := none }
    match wait with
    | some q => if s.evr.active && !(evrFull s) then setWatch s n { w with fired := true, state := t, waitSeq := some q }
                else sendMsix w.vector s'
    | none => sendMsix w.vector s'
  else s

/-- Every watch on a token that has changed (R486). -/
def fireWatches (id : Nat) (wait : Option W32) (s : State) : State :=
  (s.pci.watch.filter (fun p => decide (p.2.token = id))).foldl (fun s p => fireWatch wait p.1 s) s

/-! ### Tokens -/

/-- The wait fields of a command word (Table 2.5). -/
def cmdWaits (w : W512) : List Nat := [fld w 48 16, fld w 64 16, fld w 80 16]

/-- Whether the command at the head of a stream waits on a token. -/
def headWaits (x : Stream) (id : Nat) : Bool :=
  match x.queue with
  | [] => false
  | w :: _ => (cmdWaits w).contains id

/-- Every waiter on the token sees the state it leaves PENDING for (R78). -/
def latchTok (id : Nat) (st : Tok) (s : State) : State :=
  { s with
    strm := s.strm.mapV (fun x => if headWaits x id then { x with seen := x.seen ++ [(id, st)] } else x)
    cl := s.cl.mapV (fun c => if c.heldOn.contains id then { c with seen := c.seen ++ [(id, st)] } else c) }

/-- A token is set: waiters see it leave PENDING, and its watches may fire (R78, R486). `wait` is the COMPLETION
record that a watch's message must follow. -/
def setTokW (id : Nat) (t : TokEntry) (wait : Option W32) (s : State) : State :=
  let s := if (tokOf s id).st = .pending ∧ t.st ≠ .pending then latchTok id t.st s else s
  fireWatches id wait (putTok s id t)

/-- A token is set, with no record to wait for. -/
def setTok (id : Nat) (st : Tok) (held : Bool) (s : State) : State := setTokW id ⟨st, held⟩ none s

/-- A token posted by an instruction or a unit: only a PENDING token takes the outcome (R124). -/
def postTok (id : Nat) (st : Tok) (s : State) : State :=
  if (tokOf s id).st = .pending then setTok id st false s else s

/-- Every PENDING token among those listed is set ABORTED (R79). -/
def abortTokens (ids : List Nat) (s : State) : State := ids.foldl (fun s id => postTok id .aborted s) s

/-- The ids of the hub tokens that are listed. -/
def hubIds (s : State) : List Nat := s.tok.map (fun p => 0x8000 + p.1)
/-- The ids of the listed tokens of a cluster. -/
def cluIds (s : State) (cl : Nat) : List Nat := (clOf s cl).tok.map (fun p => cluTok cl p.1)

end Sys2Proof.Machine
end

