-- ==== Sys2Proof/Machine/Operands.lean ====
section
/-! DEFINITION. Operands: the fields of a command (Tables 2.5, 2.6) and of an instruction (Tables 3.3, 3.4), and where
operands lie: the forms of Table 4.1, the pattern schemes of R196, the shard regions of Table 6.10. -/

namespace Sys2Proof.Machine

/-! ### Commands -/

/-- Word Wi of a command (R71). -/
def cw (w : W512) (i : Nat) : Nat := fld w (32 * i) 32
/-- A 64-bit operand in Wi and W(i+1). -/
def cw2 (w : W512) (i : Nat) : Nat := fld w (32 * i) 64
def cmdOp (w : W512) : Nat := fld w 0 8
def cmdNotify (w : W512) : Bool := bit w 8
def cmdNoWait (w : W512) : Bool := bit w 9
def cmdPackage (w : W512) : Bool := bit w 10
def cmdDone (w : W512) : Nat := fld w 32 16
def cmdTag (w : W512) : Nat := fld w 496 16

/-- Whether every bit outside the fields `fs` (first bit, width) is zero. -/
def onlyFields {n : Nat} (w : BitVec n) (fs : List (Nat × Nat)) : Bool :=
  (List.range n).all (fun i => !(bit w i) || fs.any (fun f => decide (f.1 ≤ i ∧ i < f.1 + f.2)))

/-- The fields that every command has: opcode, NOTIFY and NO_WAIT, tokens, tag (Table 2.5, R72). -/
def cmdCommon : List (Nat × Nat) := [(0, 8), (8, 2), (32, 16), (48, 16), (64, 16), (80, 16), (496, 16)]

/-- The operand fields of Table 2.9 by opcode; bits outside them are reserved (R81). -/
def cmdFields : Nat → List (Nat × Nat)
  | 0x02 => [(10, 1)]
  | 0x03 => [(128, 20)]
  | 0x04 => [(128, 10), (144, 10)]
  | 0x08 => [(128, 2)]
  | 0x10 => [(128, 32), (160, 3), (192, 64), (256, 32), (320, 64)]
  | 0x12 => [(128, 64)]
  | 0x20 => [(128, 6), (136, 6), (144, 7), (152, 1), (192, 64)]
  | 0x21 => [(128, 6), (160, 32)]
  | 0x22 => [(128, 6), (136, 6), (144, 8), (192, 256)]
  | 0x23 => [(128, 6)]
  | 0x24 => [(128, 6), (160, 96)]
  | 0x28 => [(128, 2), (192, 96)]
  | 0x29 => [(128, 2), (192, 96)]
  | 0x2A => [(128, 1), (130, 2), (160, 192)]
  | 0x2B => [(128, 1), (192, 192)]
  | 0x30 => [(192, 64)]
  | 0x31 => [(128, 1), (192, 64)]
  | 0x32 => [(128, 16), (160, 16), (192, 64)]
  | 0x33 => [(128, 8)]
  | 0x34 => [(128, 8), (192, 64)]
  | _ => []

/-! ### Instructions -/

def iClass (w : W128) : Nat := fld w 124 4
def iOp (w : W128) : Nat := fld w 116 8
-- Format S
def iRD (w : W128) : Nat := fld w 110 6
def iRA (w : W128) : Nat := fld w 104 6
def iRB (w : W128) : Nat := fld w 98 6
def iImm (w : W128) : Nat := fld w 0 64
-- Format B
def iLmask (w : W128) : Nat := fld w 108 8
def iWeng (w : W128) : Nat := fld w 105 3
def iWlast (w : W128) : Bool := bit w 104
def iMod (w : W128) : Nat := fld w 96 8
def iSA (w : W128) : Nat := fld w 90 6
def iSB (w : W128) : Nat := fld w 84 6
def iSC (w : W128) : Nat := fld w 78 6
def iSD (w : W128) : Nat := fld w 72 6
def iTV (w : W128) : Bool := bit w 71
def iTok (w : W128) : Nat := fld w 63 8
def iX (w : W128) (lo len : Nat) : Nat := fld w lo len      -- X by its bit numbers in the instruction
def iI0 (w : W128) : Nat := fld w 32 16
def iI1 (w : W128) : Nat := fld w 16 16
def iI2 (w : W128) : Nat := fld w 0 16

/-- Class, opcode, LMASK, WENG, WLAST: the fields every Format B instruction has; TOKEN is reserved when TV = 0
(R124). -/
def bCommon (w : W128) : List (Nat × Nat) :=
  [(124, 4), (116, 8), (108, 8), (105, 3), (104, 1), (71, 1)] ++ (if iTV w then [(63, 8)] else [])

/-- OPCODE field of a record for an instruction (Table 9.3). -/
def opRec (w : W128) : Nat := 0x8000 + 256 * iClass w + iOp w

/-- D0 of a record: lane, PC and group (Table 9.3). -/
def d0Of (lane pc group : Nat) : W32 := BitVec.ofNat 32 (at_ lane 0 4 + at_ pc 4 14 + at_ group 18 6)

/-! ### Recipe kinds -/

/-- FORMAT of a kind (Table 6.6); none when the kind is unset. -/
def kindFmt (s : State) (k : Nat) : Option Fmt := fmtOf (fld (s.recipe.get 0xF#32 k) 0 4)
/-- The recipe exponent of a kind (R219). -/
def kindScale (s : State) (k : Nat) : Int := signedOf 8 (fld (s.recipe.get 0xF#32 k) 8 8)
def kindRole (s : State) (k : Nat) : Nat := fld (s.recipe.get 0xF#32 k) 4 4
def kindStoch (s : State) (k : Nat) : Bool := bit (s.recipe.get 0xF#32 k) 16
/-- Whether a kind's recipe entry is loaded. -/
def kindSet (s : State) (k : Nat) : Bool := (kindFmt s k).isSome
/-- The kind of a role (R221). -/
def roleKind (s : State) (r : Nat) : Option Nat := (List.range 16).find? (fun k => kindSet s k && kindRole s k = r)

/-! ### Where elements lie -/

/-- Byte address and shift of the element at offset `e` of an operand of `n` half bytes an element (R147, R196). -/
def elemAddr (base e n : Nat) : Nat × Nat := (base + e * n / 2, if n = 1 then 4 * (e % 2) else 0)

/-- A stored element, `n` half bytes wide. -/
def readElem (m : Mem) (base e n : Nat) : Nat :=
  let (a, sh) := elemAddr base e n
  if n = 1 then (m.read a).toNat / 2 ^ sh % 16 else m.nat a (n / 2)

/-- Offsets of the forms of Table 4.1, in elements. -/
def aForm (i k : Nat) : Nat := k * 128 + i
def bForm (k j : Nat) : Nat := k * 64 + j
def cForm (i j : Nat) : Nat := j * 128 + i
def gForm (t o : Nat) : Nat := o / 64 * 4096 + t * 64 + o % 64

/-- The fields of a pattern (Table 5.2). -/
structure Pat where
  l : Nat × Nat × Nat
  plog : Nat
  altSel : Nat
  flagEn : Bool
  stride : Int × Int × Int
  al : Nat × Nat × Nat
  altKind : Nat
  flagLine : Nat
  astride : Int × Int × Int

def patOf (ws : List W64) : Pat :=
  let w0 := ws.getD 0 0
  let w1 := ws.getD 1 0
  let w2 := ws.getD 2 0
  let w3 := ws.getD 3 0
  { l := (fld w0 0 4, fld w0 4 4, fld w0 8 4)
    plog := fld w0 12 4
    altSel := fld w0 16 4
    flagEn := bit w0 20
    stride := (signedOf 32 (fld w0 32 32), signedOf 32 (fld w1 0 32), signedOf 32 (fld w1 32 32))
    al := (fld w2 0 4, fld w2 4 4, fld w2 8 4)
    altKind := fld w2 12 4
    flagLine := fld w2 16 16
    astride := (signedOf 32 (fld w2 32 32), signedOf 32 (fld w3 0 32), signedOf 32 (fld w3 32 32)) }

/-- Whether a pattern's words break VCFG's rules (R197); PLOG above 11 is out of the range of Table 5.2. -/
def patBad (ws : List W64) : Bool :=
  let p := patOf ws
  decide (p.l.1 + p.l.2.1 + p.l.2.2 ≠ 11) || decide (p.al.1 + p.al.2.1 + p.al.2.2 ≠ 11)
  || decide (0xC000 ≤ p.flagLine) || decide (11 < p.plog) || decide (fld (ws.getD 0 0) 21 11 ≠ 0)

/-- Whether source or destination `i` (bit of ALT_SEL) uses the alternate scheme. -/
def patAlt (p : Pat) (i : Nat) : Bool := p.altSel / 2 ^ i % 2 = 1

/-- The element offset of element `e` (R196). -/
def schemeOff (p : Pat) (alt : Bool) (e : Nat) : Int :=
  let (l0, l1, _) := if alt then p.al else p.l
  let (s0, s1, s2) := if alt then p.astride else p.stride
  let i0 := e % 2 ^ l0
  let i1 := e / 2 ^ l0 % 2 ^ l1
  let i2 := e / 2 ^ (l0 + l1)
  i0 * s0 + i1 * s1 + i2 * s2

/-- The lowest and highest offset that a scheme reaches (R198). -/
def schemeRange (p : Pat) (alt : Bool) : Int × Int :=
  let (l0, l1, l2) := if alt then p.al else p.l
  let (s0, s1, s2) := if alt then p.astride else p.stride
  let t := [(2 ^ l0 - 1 : Int) * s0, (2 ^ l1 - 1 : Int) * s1, (2 ^ l2 - 1 : Int) * s2]
  ((t.map (fun x => min x 0)).sum, (t.map (fun x => max x 0)).sum)

end Sys2Proof.Machine
end

