-- ==== Sys2Proof/Machine/Streams.lean ====
section
/-! DEFINITION. Streams: command streams, dispatch, skips and the completion of commands (chapter 02). -/

namespace Sys2Proof.Machine

/-! ### Stream buffers -/

/-- A misplaced write is counted; a record is written when the count leaves zero (R61, R586). -/
def misplacedWrite (st cause slot tag : Nat) (s : State) : State :=
  let x := strmOf s st
  let s' := setStrm s st { x with misplaced := satInc 0xFFFF x.misplaced }
  if x.misplaced = 0 then
    record { unit := unitIngest st, cls := 0x0102, outcome := cause, d1 := BitVec.ofNat 32 st
             d2 := BitVec.ofNat 32 slot, d3 := BitVec.ofNat 32 (tag + 65536 * x.e) } s'
  else s'

/-- The part of a write request that covers one slot (R58-R60): `off` is the offset in the buffer, `data` the bytes
within the slot, `first` the slot of the request's first byte. DESIGN CHOICE (log 59): a write that its tag misplaces
(causes 1 and 2) leaves its bytes in the slot, which no rule lets the ingest unit read as a command. -/
def slotWrite (st first off : Nat) (data : List Byte) (s : State) : State :=
  let x := strmOf s st
  let slot := off / 64
  let tagged := decide (off % 64 ≤ 62) && decide (64 ≤ off % 64 + data.length)
  let tag := if tagged then leNat ((data.drop (62 - off % 64)).take 2) else 0
  if x.occ.contains slot then misplacedWrite st 3 first tag s
  else
    let s' := setStrm s st { x with buf := x.buf.writes off data }
    if !tagged then s'
    else if (tag + 65536 - x.e) % 65536 ≥ 4096 then misplacedWrite st 1 first tag s'
    else if tag % 4096 ≠ slot then misplacedWrite st 2 first tag s'
    else setStrm s' st { strmOf s' st with occ := slot :: x.occ }

/-- A write request split at the slots' ends, in ascending order (R60); the bound is the number of slots. -/
def slotWrites : Nat → Nat → Nat → Nat → List Byte → State → State
  | 0, _, _, _, _, s => s
  | n + 1, st, first, off, data, s =>
    if data = [] then s else
    let k := 64 - off % 64
    slotWrites n st first (off + k) (data.drop k) (slotWrite st first off (data.take k) s)

/-- STREAM_SLOT_WRITE (R58-R61); before READY the write is discarded (R491). -/
def effStreamSlotWrite (st off : Nat) (data : List Byte) (s : State) : State :=
  hostAccess (fun s =>
    if st ≥ 64 || off + data.length > 0x40000 || !s.boot.ready then s
    else if off % 4 ≠ 0 || data.length % 4 ≠ 0 then misplacedWrite st 4 (off / 64) 0 s
    else slotWrites 4097 st (off / 64) off data s) s

/-- INGEST_READ_SLOT (R62): the slot of tag E, into a decode queue with room. -/
def effIngestReadSlot (st : Nat) (s : State) : State :=
  let x := strmOf s st
  let slot := x.e % 4096
  if x.enable && x.occ.contains slot && decide (x.queue.length < 16) then
    setStrm s st { x with
      occ := x.occ.erase slot
      queue := x.queue ++ [BitVec.ofNat 512 (x.buf.nat (64 * slot) 64)]
      e := (x.e + 1) % 65536
      rested := false }
  else s

/-! ### Skip and log -/

/-- A skip: code, the token that caused it, DETAIL (Table 2.12). -/
structure Skip where
  code : Nat
  cause : Nat := 0xFFFF
  detail : Nat := 0

/-- An entry enters a stream's skip log (R92). -/
def logSkip (st : Nat) (en : SkipEntry) (s : State) : State :=
  let x := strmOf s st
  let lost := match x.log.find x.nextEntry with
    | some old => !old.read
    | none => false
  setStrm s st { x with
    log := x.log.put x.nextEntry en
    nextEntry := (x.nextEntry + 1) % 256
    skipCount := x.skipCount + 1
    overflow := x.overflow || lost }

/-- The COMPLETION record of a command (R72, R586). -/
def completionRec (st : Nat) (w : W512) (outcome : Nat) (s : State) : State :=
  if cmdNotify w then
    record { unit := unitIngest st, cls := 0x0001, outcome := outcome, opcode := cmdOp w
             d1 := BitVec.ofNat 32 (cmdTag w + 65536 * st), d2 := BitVec.ofNat 32 (cmdDone w) } s
  else s

/-- A command's done token takes an outcome; the message of a watch waits for the COMPLETION record that follows
(R75, R486). -/
def postDone (w : W512) (t : Tok) (s : State) : State :=
  if isHubTok (cmdDone w) then
    setTokW (cmdDone w) ⟨t, false⟩ (if cmdNotify w then some s.recs.seq else none) s
  else s

/-- DONE_TOKEN of a skipped command (Table 2.12): the token posted SKIPPED, or 0xFFFF; of BAD_TOKEN the field as written. -/
def doneShown (w : W512) (code : Nat) : Nat := if code = 0x03 ∨ isHubTok (cmdDone w) then cmdDone w else 0xFFFF

/-- A command is skipped: log entry, done token, records (R89, R93, R586). -/
def skipCommand (st : Nat) (w : W512) (k : Skip) (s : State) : State :=
  let s := logSkip st
    { tag := cmdTag w, opcode := cmdOp w, code := k.code, done := doneShown w k.code, cause := k.cause
      unit := unitIngest st, loc := 0, time := s.aoCount, job := jobId s, detail := BitVec.ofNat 32 k.detail
      read := false } s
  let s := if k.code = 0x04 then s else
    record { unit := unitIngest st, cls := 0x0101, outcome := k.code, opcode := cmdOp w
             d1 := BitVec.ofNat 32 (cmdTag w + 65536 * st), d2 := BitVec.ofNat 32 k.detail
             d3 := BitVec.ofNat 32 (doneShown w k.code + 65536 * k.cause) } s
  let s := if k.code = 0x03 then s else postDone w .skipped s
  completionRec st w 3 s

/-! ### Dispatch -/

/-- Whether a wait field holds none or a token id (R81). -/
def waitOk (id : Nat) : Bool := id = 0xFFFF || isHubTok id || isCluTok id

/-- The state of a waited token as the waiter sees it: what it left PENDING for, or its state now (R78). -/
def seenTok (seen : List (Nat × Tok)) (id : Nat) (s : State) : Tok :=
  match seen.find? (fun p => p.1 = id) with
  | some p => p.2
  | none => (tokOf s id).st

/-- Whether a stream holds an incomplete FENCE (R65). -/
def fenceHeld (s : State) (st : Nat) : Bool :=
  s.cmds.any (fun c => decide (c.strm = st) && (match c.work with | .fence _ => true | _ => false))

/-- Whether the head command of a stream is ready (R64); D3hot acts as PAUSE (R477), and stage 5 of a supply sag
dispatches nothing (R517). DESIGN CHOICE (log 59): a head held on two tokens of which one is IDLE, SKIPPED or ABORTED is
skipped only when the other has left PENDING too, since R64 makes it ready only then. -/
def headReady (s : State) (st : Nat) : Bool :=
  let x := strmOf s st
  match x.queue with
  | [] => false
  | w :: _ =>
    x.enable && !x.pause && !s.pci.d3hot && decide (s.pwr.sagStage < 5) && !(fenceHeld s st) && decide (s.cmds.length < 1024)
    && (cmdWaits w).all (fun id => !(isHubTok id || isCluTok id) || decide (seenTok x.seen id s ≠ .pending))
    && (!(isHubTok (cmdDone w)) || decide ((tokOf s (cmdDone w)).st ≠ .pending))

/-- The stream that is served next: round-robin after the stream served last, among those whose head is ready and
decoded; `late` are the streams whose head the decoder has not finished (R62, R64). -/
def pickStream (s : State) (late : List Nat) : Option Nat :=
  ((List.range 64).map (fun i => (s.lastStream + 1 + i) % 64)).find? (fun i => headReady s i && !late.contains i)

/-- The command at the head of a stream. -/
def headCmd (s : State) (st : Nat) : W512 := (strmOf s st).queue.headD 0

/-- What a command checks of its own (R587). -/
structure CmdSpec where
  badOperand : W512 → State → Bool := fun _ _ => false
  needJob : Bool := true
  absent : W512 → State → Bool := fun _ _ => false
  own : W512 → State → Option Skip := fun _ _ => none
  range : W512 → State → Bool := fun _ _ => false

/-- The first wait field, in order, whose token is as `p` says. -/
def waitWith (w : W512) (seen : List (Nat × Tok)) (p : Tok → Bool) (s : State) : Option Nat :=
  (cmdWaits w).find? (fun id => decide (id ≠ 0xFFFF) && p (seenTok seen id s))

/-- The skip of a command, by the order of R587; none when it is executed. -/
def cmdSkip (sp : CmdSpec) (st : Nat) (w : W512) (s : State) : Option Skip :=
  let seen := (strmOf s st).seen
  if !(onlyFields w (cmdCommon ++ cmdFields (cmdOp w))) || sp.badOperand w s then some { code := 0x02 }
  else if !(decide (cmdDone w = 0xFFFF) || isHubTok (cmdDone w)) || !((cmdWaits w).all waitOk) then some { code := 0x03 }
  else match waitWith w seen (fun t => decide (t = .skipped) || decide (t = .aborted)) s with
  | some id => some { code := 0x04, cause := id }
  | none =>
    match waitWith w seen (fun t => decide (t = .idle)) s with
    | some id => some { code := 0x05, cause := id }
    | none =>
      if sp.needJob && !s.job.opened then some { code := 0x06 }
      else if sp.absent w s then some { code := 0x08 }
      else match sp.own w s with
        | some k => some k
        | none => if sp.range w s then some { code := 0x14 } else none

/-- The head command leaves the decode queue (R64, R66). -/
def popCmd (st : Nat) (s : State) : State :=
  let x := strmOf s st
  { setStrm s st { x with queue := x.queue.tail, lastTag := cmdTag (headCmd s st), seen := [] } with
    lastStream := st, seqNo := s.seqNo + 1 }

/-- A command is dispatched: its done token becomes PENDING, and it is incomplete (R75). -/
def startCmd (no st : Nat) (w : W512) (work : Work) (s : State) : State :=
  let s := if isHubTok (cmdDone w) then setTok (cmdDone w) .pending true s else s
  { s with cmds := s.cmds ++ [{ no := no, strm := st, word := w, work := work }] }

/-- The dispatch of the head command of stream `st`, whose opcode is `op`; without effect unless the ingest unit
serves that stream next (log 1). `run no w` is the command's effect. -/
def dispatch (op : Nat) (sp : CmdSpec) (run : Nat → W512 → State → State) (st : Nat) (late : List Nat)
    (s : State) : State :=
  let w := headCmd s st
  if pickStream s late = some st ∧ cmdOp w = op then
    match cmdSkip sp st w s with
    | some k => skipCommand st w k (popCmd st s)
    | none => run s.seqNo w (popCmd st s)
  else s

/-! ### Completion -/

def findCmd (s : State) (no : Nat) : Option CmdRec := s.cmds.find? (fun c => c.no = no)

/-- The work of an incomplete command changed. -/
def setWork (no : Nat) (wk : Work) (s : State) : State :=
  { s with cmds := s.cmds.map (fun c => if c.no = no then { c with work := wk } else c) }

/-- A command completes with an outcome: it leaves the incomplete commands, its done token takes the outcome, and a
NOTIFY command writes its COMPLETION record (R72, R75). -/
def completeCmd (no : Nat) (t : Tok) (s : State) : State :=
  match findCmd s no with
  | none => s
  | some c =>
    completionRec c.strm c.word (tokCode t)
      (postDone c.word t { s with cmds := s.cmds.filter (fun c => decide (c.no ≠ no)) })

/-- The outcome of a command that did all its work or not (R82). -/
def okTok (ok : Bool) : Tok := if ok then .done else .aborted

/-- A command that completes at dispatch (R595). -/
def atOnce (st no : Nat) (w : W512) (f : State → State) (s : State) : State :=
  completeCmd no .done (f (startCmd no st w (.fence false) s))

/-! ### Stream control -/

/-- UNKNOWN_COMMAND (R81): any opcode that is not in Table 2.9. -/
def knownOps : List Nat :=
  [0x01, 0x02, 0x03, 0x04, 0x08, 0x10, 0x11, 0x12, 0x20, 0x21, 0x22, 0x23, 0x24, 0x28, 0x29, 0x2A, 0x2B,
   0x30, 0x31, 0x32, 0x33, 0x34]

def effUnknownCommand (st : Nat) (late : List Nat) (s : State) : State :=
  let w := headCmd s st
  if pickStream s late = some st ∧ cmdOp w ∉ knownOps then skipCommand st w { code := 0x01 } (popCmd st s) else s

/-- STREAM_ENABLE (R70); before READY the write is ignored (R491). -/
def effStreamEnable (st : Nat) (on : Bool) (s : State) : State :=
  hostAccess (fun s =>
    if st < 64 ∧ s.boot.ready then setStrm s st { strmOf s st with enable := on, rested := false } else s) s

/-- STREAM_PAUSE (R65). -/
def effStreamPause (st : Nat) (on : Bool) (s : State) : State :=
  hostAccess (fun s => if st < 64 then setStrm s st { strmOf s st with pause := on, rested := false } else s) s

/-- Stream reset (R69): the decoded commands are skipped, the buffer is cleared, E is set to 0x0001. LAST_TAG names the
last command so skipped (Table 2.1). -/
def resetStream (st : Nat) (s : State) : State :=
  let q := (strmOf s st).queue
  let s := q.foldl (fun s w => skipCommand st w { code := 0x13 } s) s
  let x := strmOf s st
  setStrm s st { x with
    queue := [], seen := [], buf := [], occ := [], e := 1, rested := true
    lastTag := (q.getLast?.map cmdTag).getD x.lastTag }

/-- STREAM_RESET (R69). -/
def effStreamReset (st : Nat) (s : State) : State :=
  hostAccess (fun s => if st < 64 then resetStream st s else s) s

/-- CLEAR_MISPLACED (R61). -/
def effClearMisplaced (st : Nat) (s : State) : State :=
  hostAccess (fun s => if st < 64 then setStrm s st { strmOf s st with misplaced := 0 } else s) s

/-- SKIP_SELECT (R92): the entry shown is marked read. -/
def effSkipSelect (st idx : Nat) (s : State) : State :=
  hostAccess (fun s =>
    if st < 64 then
      let x := strmOf s st
      let i := idx % 256
      setStrm s st { x with
        select := i
        log := match x.log.find i with
          | some en => x.log.put i { en with read := true }
          | none => x.log }
    else s) s

/-! ### NOP, FENCE and the token commands -/

/-- NOP completes at dispatch (R80). -/
def effNop (st : Nat) (late : List Nat) (s : State) : State :=
  dispatch 0x01 { needJob := false } (fun no w s => atOnce st no w id s) st late s

/-- FENCE is dispatched and holds its stream (R65). -/
def effFence (st : Nat) (late : List Nat) (s : State) : State :=
  dispatch 0x02 { needJob := false } (fun no w s => startCmd no st w (.fence (cmdPackage w)) s) st late s

/-- Whether every command that the FENCE `no` orders has completed (R65, Table 2.9). -/
def fenceMet (s : State) (c : CmdRec) (pkg : Bool) : Bool :=
  s.cmds.all (fun x => decide (c.no ≤ x.no) || (!pkg && decide (x.strm ≠ c.strm)))

/-- FENCE_COMPLETE (R65). -/
def effFenceComplete (no : Nat) (s : State) : State :=
  match findCmd s no with
  | some c => match c.work with
    | .fence pkg => if fenceMet s c pkg then completeCmd no .done s else s
    | _ => s
  | none => s

/-- TOKEN_SET (R80). -/
def effTokenSet (st : Nat) (late : List Nat) (s : State) : State :=
  dispatch 0x03
    { needJob := false
      badOperand := fun w _ => !(isHubTok (fld w 128 16)) || decide (fld w 144 4 < 1 ∨ 4 < fld w 144 4)
      own := fun w s =>
        let t := tokOf s (fld w 128 16)
        if t.st = .pending ∧ t.held then some { code := 0x12 } else none }
    (fun no w s => atOnce st no w (setTok (fld w 128 16) (tokOfCode (fld w 144 4)) false) s) st late s

/-- The hub tokens that TOKEN_RELEASE names (Table 2.9). -/
def releaseRange (w : W512) : List Nat :=
  let n := fld w 144 10
  (List.range (if n = 0 then 1024 else n)).map (fun i => 0x8000 + fld w 128 10 + i)

/-- TOKEN_RELEASE (R77, R80). -/
def effTokenRelease (st : Nat) (late : List Nat) (s : State) : State :=
  dispatch 0x04
    { needJob := false
      badOperand := fun w _ => (releaseRange w).any (fun i => decide (0x8400 ≤ i))
      own := fun w s =>
        if (releaseRange w).any (fun i => decide ((tokOf s i).st = .pending) && (tokOf s i).held)
        then some { code := 0x12 } else none }
    (fun no w s => atOnce st no w (fun s => (releaseRange w).foldl (fun s i => setTok i .idle false s) s) s) st late s

end Sys2Proof.Machine
end

