-- ==== Sys2Proof/Machine/Hbm.lean ====
section
/-! DEFINITION. Hbm: sectors and check words, untracked and structure reads, BAR2, stack events (chapter 08). -/

namespace Sys2Proof.Machine

/-! ### Address map and check words -/

/-- The first address beyond HBM (R288). -/
def hbmEnd : Nat := 0xD8_0000_0000

/-- The home compute die of an HBM address (R288). -/
def homeDie (x : Nat) : Nat := x / 2 ^ 31 % 4

/-- The stack, 3d + s, of a sector (R288). -/
def sectorStack (n : Nat) : Nat :=
  let x := 64 * n
  let l := x / 2 ^ 33 * 2 ^ 31 + x % 2 ^ 31
  3 * homeDie x + l / 256 % 3

/-- The data and check word of a sector. -/
def sectorData (s : State) (n : Nat) : List Byte := s.hbm.bytes (64 * n) 64
def sectorCk (s : State) (n : Nat) : W64 := s.hbmCk.get 0 n
/-- STEP and TAG of a stored check word (Table 8.2). -/
def sectorStep (s : State) (n : Nat) : Nat := fld (sectorCk s n) 40 24
def sectorTag (s : State) (n : Nat) : Nat := fld (sectorCk s n) 32 3

/-- The CRC of Table 8.3 for a version tag and check word bits [63:32]. -/
def sectorCrc (n : Nat) (data : List Byte) (v hi : W32) : W32 :=
  crc32c (data ++ leBytes 8 (64 * n) ++ leBytes 4 v.toNat ++ leBytes 4 hi.toNat)

/-- The check word that a writer computes (R291, R292). -/
def checkWord (n : Nat) (data : List Byte) (v : W32) (tag : Nat) : W64 :=
  let hi : W32 := BitVec.ofNat 32 (at_ v.toNat 8 24 + tag % 8)
  BitVec.ofNat 64 (hi.toNat * 2 ^ 32 + (sectorCrc n data v hi).toNat)

/-- A sector write enters the write queue of its stack (R278). A full queue takes it as soon as its oldest write retires,
which DRAM timing alone decides (R280): the model is not timed, so it is at once. -/
def queueWrite (n : Nat) (s : State) : State :=
  let k := sectorStack n
  setStack s k { stackOf s k with wq := min 512 ((stackOf s k).wq + 1) }

/-- Sector writes retire on DRAM timing, as many as a free number says (R280). -/
def retireWrites (s : State) : State :=
  if s.stack.any (fun p => decide (0 < p.2.wq)) then
    let (x, s) := drawWord s
    { s with stack := s.stack.mapV (fun k => { k with wq := k.wq - x.toNat % (k.wq + 1) }) }
  else s

/-- A sector is replaced whole, with its check word (R292); a write whose fourth attempt failed is lost and leaves the
sector as it was (R296). New contents are no longer what the on-die ECC flagged. -/
def writeSector (n : Nat) (data : List Byte) (v : W32) (tag : Nat) (s : State) : State :=
  if s.hbmLost.contains n then queueWrite n { s with hbmLost := s.hbmLost.erase n }
  else
    queueWrite n { s with
      hbm := s.hbm.writes (64 * n) data, hbmCk := s.hbmCk.put n (checkWord n data v tag)
      hbmFlag := if s.hbmFlag.get 0 n = 1 then s.hbmFlag.del n else s.hbmFlag }

/-- The version tag [31:24] of `v` with the stored STEP. -/
def storedVer (s : State) (n : Nat) (v : W32) : W32 := BitVec.ofNat 32 (at_ (fld v 24 8) 24 8 + sectorStep s n)

/-- The outcome of a read with expected version tag `v` (R293): 0 passes, 1 DATA, 2 VERSION. A sector that the on-die ECC
flags uncorrectable, or whose read failed in all its attempts (R296), fails as DATA. -/
def sectorClass (s : State) (n : Nat) (v : W32) : Nat :=
  let ck := sectorCk s n
  let data := sectorData s n
  let hi : W32 := BitVec.ofNat 32 (fld ck 32 32)
  let crc : W32 := BitVec.ofNat 32 (fld ck 0 32)
  if (s.hbmFlag.find n).isSome then 1
  else if sectorCrc n data v hi = crc then 0
  else if sectorStep s n ≠ fld v 0 24 ∧ sectorCrc n data (storedVer s n v) hi = crc then 2
  else 1

/-! ### Damage that an access meets -/

/-- One damaged byte of a stored sector, or a correction of the on-die ECC, which is only counted (R294). -/
def hit1 (s : State) (h : Hit) : State :=
  if h.ecc = 2 then
    let k := sectorStack h.sector
    setStack s k { stackOf s k with nOdecc := satInc 0xFFFF (stackOf s k).nOdecc }
  else
  let s := if h.ecc = 1 then { s with hbmFlag := s.hbmFlag.put h.sector 1 } else s
  if h.off < 64 then { s with hbm := s.hbm.write (64 * h.sector + h.off) (s.hbm.read (64 * h.sector + h.off) ^^^ h.mask) }
  else if h.off < 72 then
    { s with hbmCk := s.hbmCk.put h.sector (sectorCk s h.sector ^^^ (h.mask.zeroExtend 64 <<< (8 * (h.off - 64)))) }
  else s

def hitHbm (hs : List Hit) (s : State) : State := hs.foldl hit1 s

/-! ### Failing sectors -/

/-- A failing sector is counted and recorded, with what the on-die ECC said of the read (R293, R584). -/
def failSector (n cls : Nat) (v : W32) (reader : Nat) (tile : W32) (s : State) : State :=
  let k := sectorStack n
  let x := stackOf s k
  let x' := if cls = 2 then { x with nVersion := satInc 0xFFFF x.nVersion } else { x with nData := satInc 0xFFFF x.nData }
  record { unit := unitId (k / 3) 15 15 9 (k % 3), cls := 0x0305, outcome := cls, tile := tile
           d1 := BitVec.ofNat 32 (64 * n), d2 := BitVec.ofNat 32 (64 * n / 2 ^ 32)
           d3 := (sectorCk s n).setWidth 32, d4 := (sectorCk s n >>> 32).setWidth 32, d5 := v
           d6 := BitVec.ofNat 32 (reader % 256 + 256 * b2n (decide (s.hbmFlag.get 0 n = 1))) }
    (setStack { s with hbmFlag := s.hbmFlag.del n } k x')

/-- Sectors read against one version tag each: the failing ones, and the state with their counts and records. -/
def readSectors (reader : Nat) (tile : W32) : List (Nat × W32) → State → List Nat × State
  | [], s => ([], s)
  | (n, v) :: l, s =>
    let c := sectorClass s n v
    if c = 0 then readSectors reader tile l s
    else
      let r := readSectors reader tile l (failSector n c v reader tile s)
      (n :: r.1, r.2)

/-- The version tag that an untracked read expects (Table 8.4); none under CHECK mode 2. -/
def untrackedVer (s : State) (n : Nat) : Option W32 :=
  if s.xferCheck = 2 then none else if s.xferCheck = 0 then some s.xferVtag else some (storedVer s n s.xferVtag)

/-- An untracked read of sectors (R303). -/
def readUntracked (reader : Nat) (ns : List Nat) (s : State) : List Nat × State :=
  readSectors reader 0xFFFFFFFF#32
    (ns.filterMap (fun n => (untrackedVer s n).map (fun v => (n, v)))) s

/-- The sectors that a byte range covers. -/
def sectorsOf (addr len : Nat) : List Nat :=
  if len = 0 then [] else (List.range ((addr + len - 1) / 64 - addr / 64 + 1)).map (fun i => addr / 64 + i)

/-- Whether some of the sectors lies in a stack in self-refresh (R301). -/
def inSelfRefresh (s : State) (ns : List Nat) : Bool := ns.any (fun n => decide ((stackOf s (sectorStack n)).state = 3))

/-- A structure that the K4 reads from HBM itself (R593). -/
def readStruct (hs : List Hit) (addr len : Nat) (s : State) : List Nat × State :=
  readUntracked 8 (sectorsOf addr len) (hitHbm hs s)

/-- Whether an HBM operand of a command breaks R290. -/
def hbmRangeBad (addr len : Nat) : Bool := decide (addr % 64 ≠ 0) || decide (hbmEnd < addr + len)

/-- STRUCTURE_REJECTED (R592). -/
def structRejected (unit : W32) (reason idx addr off : Nat) (w : W512) (strm : Nat) (s : State) : State :=
  record { unit := unit, cls := 0x0105, outcome := reason
           d1 := if reason = 1 then BitVec.ofNat 32 idx else 0xFFFFFFFF#32
           d2 := BitVec.ofNat 32 addr, d3 := BitVec.ofNat 32 (addr / 2 ^ 32)
           d4 := if reason = 3 then BitVec.ofNat 32 off else 0
           d5 := BitVec.ofNat 32 (cmdTag w + 65536 * strm) } s

/-! ### BAR2 -/

/-- The HBM address of a BAR2 offset (R302). -/
def bar2Addr (s : State) (off : Nat) : Nat :=
  let size := 2 ^ s.pci.bar2Log2
  (if s.pci.bar2Log2 = 40 then 0 else s.bar2Base * 2 ^ 30 / size * size) + off

/-- The completion of a BAR2 read: bytes beyond HBM read zero; a failing sector poisons it (R302, R304, R584). -/
def bar2Return (hs : List Hit) (addr len : Nat) (s : State) : State :=
  let s := hitHbm hs s
  let r := readUntracked 3 (sectorsOf addr (min len (hbmEnd - addr))) s
  let data := (List.range len).map (fun i => if addr + i < hbmEnd then s.hbm.read (addr + i) else 0)
  if r.1 = [] then emit (.memData data false) r.2
  else emit (.memData data true) { r.2 with xferPoisoned := satInc 0xFFFFFFFF r.2.xferPoisoned }

/-- One sector's part of a BAR2 write: whole, or merged after a check (R303, R304). -/
def bar2Sector (addr : Nat) (data : List Byte) (s : State) : State :=
  let n := addr / 64
  if data.length = 64 then writeSector n data s.xferVtag s.xferStag s
  else
    let r := readUntracked 4 [n] s
    if r.1 = [] then writeSector n ((r.2.hbm.writes addr data).bytes (64 * n) 64) s.xferVtag s.xferStag r.2
    else { r.2 with xferDiscarded := satInc 0xFFFFFFFF r.2.xferDiscarded }

/-- A BAR2 write, sector by sector; the bound is the number of sectors. -/
def bar2Sectors : Nat → Nat → List Byte → State → State
  | 0, _, _, s => s
  | k + 1, addr, data, s =>
    if data = [] then s else
    let m := 64 - addr % 64
    bar2Sectors k (addr + m) (data.drop m) (bar2Sector addr (data.take m) s)

/-- The part of a BAR2 write below the end of HBM is stored; a write at or above it is discarded with a record
(R302, R585). DESIGN CHOICE (log 59): D1 and D2 hold the offset of the whole write, D3 its size modulo 256, and D4 and D5
its first 8 bytes. -/
def bar2Store (hs : List Hit) (off : Nat) (data : List Byte) (s : State) : State :=
  let addr := bar2Addr s off
  let s := bar2Sectors (data.length + 1) addr (data.take (hbmEnd - addr)) (hitHbm hs s)
  if addr + data.length ≤ hbmEnd then s
  else regAccess 5 off data.length true (BitVec.ofNat 64 (leNat (data.take 8))) s

/-- BAR2_READ (R302-R304); an access that reaches a stack in self-refresh is held (R301), and before READY a read
returns zero (R491). -/
def effBar2Read (off len : Nat) (hs : List Hit) (s : State) : State :=
  hostRead (fun s =>
    if 2 ^ s.pci.bar2Log2 < off + len then s
    else if !s.boot.ready then emit (.memData (List.replicate len 0) false) s
    else
      let addr := bar2Addr s off
      if inSelfRefresh s (sectorsOf addr (min len (hbmEnd - addr))) then
        { s with bar2Held := s.bar2Held ++ [⟨false, off, len, []⟩] }
      else bar2Return hs addr len s) s

/-- BAR2_WRITE (R302-R304); before READY a write is discarded (R491). -/
def effBar2Write (off : Nat) (data : List Byte) (hs : List Hit) (s : State) : State :=
  hostAccess (fun s =>
    if 2 ^ s.pci.bar2Log2 < off + data.length || !s.boot.ready then s
    else
      let addr := bar2Addr s off
      if inSelfRefresh s (sectorsOf addr (min data.length (hbmEnd - addr))) then
        { s with bar2Held := s.bar2Held ++ [⟨true, off, data.length, data⟩] }
      else bar2Store hs off data s) s

/-- A held BAR2 access proceeds when no stack that it needs is in self-refresh any longer (R301). -/
def bar2Resume (s : State) : State :=
  let h := s.bar2Held
  h.foldl (fun s a =>
    let addr := bar2Addr s a.off
    if inSelfRefresh s (sectorsOf addr (min a.len (hbmEnd - addr))) then { s with bar2Held := s.bar2Held ++ [a] }
    else if a.write then bar2Store [] a.off a.data s else bar2Return [] addr a.len s) { s with bar2Held := [] }

/-- The oldest held BAR2 access has waited 1 ms: a read ends as a failing one, with free data, and a write is
discarded, each partial sector counted (R301, R304). -/
def bar2Timeout (s : State) : State :=
  match s.bar2Held with
  | [] => s
  | a :: rest =>
    let s := { s with bar2Held := rest }
    if a.write then
      let addr := bar2Addr s a.off
      let partials := b2n (addr % 64 ≠ 0 || a.len < 64) + b2n (decide ((addr + a.len) % 64 ≠ 0) && decide (addr / 64 ≠ (addr + a.len) / 64))
      { s with xferDiscarded := min 0xFFFFFFFF (s.xferDiscarded + partials) }
    else
      let (bs, s) := drawBytes a.len s
      emit (.memData bs true) { s with xferPoisoned := satInc 0xFFFFFFFF s.xferPoisoned }

/-! ### Stack events -/

/-- HBM_STACK_FAULT: the fourth attempt failed (R296); the manual gives the class no outcome and no detail. -/
def stackFault (k : Nat) (s : State) : State := record { unit := unitId (k / 3) 15 15 9 (k % 3), cls := 0x0306 } s

/-- HBM_PARITY_ERROR (R296): `replays` attempts were repeated; the fourth attempt fails when `lost`. The access that it
meets is the sector's next write, which is then lost, or its next read, which fails as DATA for the unit that reads. -/
def effHbmParityError (k sector replays : Nat) (write lost : Bool) (s : State) : State :=
  if k < 12 ∧ sectorStack sector = k ∧ 1 ≤ replays ∧ replays ≤ 3 ∧ (!lost || replays = 3) ∧ 64 * sector < hbmEnd then
    let x := stackOf s k
    let s := setStack s k { x with nParity := min 0xFFFF (x.nParity + replays) }
    if lost then
      let s := stackFault k s
      if write then { s with hbmLost := s.hbmLost ++ [sector] } else { s with hbmFlag := s.hbmFlag.put sector 2 }
    else s
  else s

/-- STACK_TEMPERATURE (R297): a signed temperature in °C. -/
def effStackTemperature (k : Nat) (t : Int) (s : State) : State :=
  if k < 12 ∧ -128 ≤ t ∧ t < 128 then
    setStack s k { stackOf s k with temp := (t % 256).toNat, refresh2x := decide (85 < t), throttle := decide (95 < t) }
  else s

/-- HBM_ERR_CLEAR (Table 8.8). -/
def effHbmErrClear (k : Nat) (s : State) : State :=
  hostAccess (fun s =>
    if k < 12 ∧ s.boot.ready then setStack s k { stackOf s k with nData := 0, nVersion := 0, nParity := 0, nOdecc := 0 }
    else s) s

/-- HBM_XFER_CTRL as a register (Table 8.9). -/
def xferCtrl (s : State) : W64 :=
  BitVec.ofNat 64 (s.xferVtag.toNat + at_ s.xferCheck 32 2 + at_ s.xferStag 36 3 + at_ s.bar2Base 40 10)

/-- A value written whole to HBM_XFER_CTRL: one that would set STAG above 4 is discarded (R305). -/
def setXferCtrl (size : Nat) (written v : W64) (s : State) : State :=
  if 4 < fld v 36 3 then regAccess 6 (if size = 8 then 0x300 else 0x304) size true written s
  else { s with xferVtag := v.setWidth 32, xferCheck := fld v 32 2, xferStag := fld v 36 3, bar2Base := fld v 40 10 }

/-- HBM_XFER_CTRL_WRITE: a 64-bit write (`half` 2), or a low (0) or high (1) half under R19. -/
def effHbmXferCtrlWrite (half : Nat) (v : W64) (s : State) : State :=
  hostAccess (fun s =>
    let p := s.pci
    if half = 2 then setXferCtrl 8 v v { s with pci := { p with low := p.low.del 0x300 } }
    else if half = 0 then { s with pci := { p with low := p.low.put 0x300 (v.setWidth 32) } }
    else
      let lo := match p.low.find 0x300 with
        | some x => x
        | none => (xferCtrl s).setWidth 32
      setXferCtrl 4 (BitVec.ofNat 64 (fld v 0 32)) (BitVec.ofNat 64 (lo.toNat + fld v 0 32 * 2 ^ 32)) { s with pci := { p with low := p.low.del 0x300 } }) s

end Sys2Proof.Machine
end

