-- ==== Sys2Proof/Machine/Lines.lean ====
section
/-! DEFINITION. Lines: the lines of scratchpads and plates with their codes (R316), and what lands in them (R254). -/

namespace Sys2Proof.Machine

/-! ### Scratchpad lines -/

def spadTag (k : Core) (line : Nat) : Nat := k.tag.get 0 line
def spadCode (k : Core) (line : Nat) : W32 := k.code.get (lineCode (List.replicate 64 0) 0) line
/-- Whether a scratchpad line fails its code (R316). -/
def spadBad (k : Core) (line : Nat) : Bool :=
  decide (spadCode k line ≠ lineCode (k.mem.bytes (64 * line) 64) (spadTag k line))

/-- A scratchpad line written: bytes, tag and a new code (R316). -/
def spadWrite (k : Core) (l : LineWr) : Core :=
  let m := l.upd.foldl (fun m u => m.write (64 * l.line + u.1) u.2) k.mem
  { k with
    mem := m
    tag := k.tag.put l.line l.tag
    code := k.code.put l.line (lineCode (m.bytes (64 * l.line) 64) l.tag) }

def spadWrites (k : Core) (ls : List LineWr) : Core := ls.foldl spadWrite k

/-! ### Plate lines -/

/-- The code of a plate line as stored (R316). -/
def plateCode (c : Cluster) (line : Nat) : W32 := c.pcode.get (lineCode (List.replicate 64 0) 0) line
def plateTag (c : Cluster) (line : Nat) : Nat := c.ptag.get 0 line
/-- Whether a plate line fails its code (R316). -/
def plateBad (c : Cluster) (line : Nat) : Bool :=
  decide (plateCode c line ≠ lineCode (c.plates.bytes (64 * line) 64) (plateTag c line))

/-- A plate line written: bytes at offsets of the line, its tag and a new code (R316). -/
def plateWrite (c : Cluster) (line tag : Nat) (upd : List (Nat × Byte)) : Cluster :=
  let m := upd.foldl (fun m u => m.write (64 * line + u.1) u.2) c.plates
  { c with
    plates := m
    ptag := c.ptag.put line tag
    pcode := c.pcode.put line (lineCode (m.bytes (64 * line) 64) tag) }

/-- A plate line replaced whole. -/
def plateLine (c : Cluster) (line tag : Nat) (bs : List Byte) : Cluster :=
  plateWrite c line tag ((List.range 64).map (fun i => (i, bs.getD i 0)))

/-! ### Landing -/

/-- Lines written to the plates of a cluster. -/
def landPlates (cl addr : Nat) (ls : List (List Byte × Nat)) (s : State) : State :=
  setCl s cl ((ls.zipIdx).foldl (fun c l => plateLine c (addr / 64 + l.2) l.1.2 l.1.1) { clOf s cl with gated := false })

/-- Lines written to the scratchpad of every lane of a mask (R254). -/
def landSpad (cl mask addr : Nat) (ls : List (List Byte × Nat)) (s : State) : State :=
  (maskLanes mask).foldl (fun s l => match laneCore (clOf s cl) cl l with
    | some k => setCore (setCl s cl { clOf s cl with gated := false }) k ((ls.zipIdx).foldl (fun c l => spadWrite c
        { line := addr / 64 + l.2, tag := l.1.2, upd := (List.range 64).map (fun i => (i, l.1.1.getD i 0)) }) (coreOf s k))
    | none => s) s

end Sys2Proof.Machine
end

