-- ==== Sys2Proof/Machine/Cells.lean ====
section
/-! DEFINITION. Cells: flow contexts, routes and the queueing of cells (chapters 10 and 11). -/

namespace Sys2Proof.Machine

/-- The package's global device id (R13). -/
def ownGid (s : State) : Nat := 64 * s.boot.domain + s.boot.device

def photOf (s : State) (d : Nat) : Phot := s.mer.phot.get Phot.reset d
def setPhot (s : State) (d : Nat) (x : Phot) : State := { s with mer := { s.mer with phot := s.mer.phot.put d x } }
/-- FAB_STATUS.EPOCH and MER_PLAN.PLAN_ID of both photonic dies follow the package's. -/
def setEpoch (n : Nat) (s : State) : State :=
  [5, 6].foldl (fun s d => setPhot s d { photOf s d with epoch := n }) { s with mer := { s.mer with epoch := n } }
def setPlanId (n : W32) (s : State) : State :=
  [5, 6].foldl (fun s d => setPhot s d { photOf s d with planId := n }) { s with mer := { s.mer with planId := n } }
def linkOf (s : State) (p : Nat) : Link := s.mer.link.get Link.reset p
def setLink (s : State) (p : Nat) (x : Link) : State := { s with mer := { s.mer with link := s.mer.link.put p x } }

/-- The photonic die that holds a flow context (R403). -/
def ctxDie (id : Nat) : Nat := if id < 20480 then 5 else 6
/-- The photonic die of a link (R37). -/
def linkDie (p : Nat) : Nat := 5 + p % 2
/-- The fabric engine of a photonic die. -/
def unitFab (d : Nat) : W32 := unitDie d 6 0

def ctxOf (s : State) (id : Nat) : Option Ctx := (photOf s (ctxDie id)).ctx.find id
def setCtx (s : State) (id : Nat) (c : Ctx) : State :=
  let d := photOf s (ctxDie id)
  setPhot s (ctxDie id) { d with ctx := d.ctx.put id c }

/-- A header field of a context (Table 11.1). -/
def cf (c : Ctx) (i lo len : Nat) : Nat := fld (c.w.getD i 0) lo len
def cKind (c : Ctx) : Nat := cf c 0 0 4
def cMode (c : Ctx) : Nat := cf c 0 4 4
def cEpoch (c : Ctx) : Nat := cf c 0 8 8
def cMembers (c : Ctx) : Nat := cf c 0 16 7
def cSelf (c : Ctx) : Nat := cf c 0 24 6
def cParts (c : Ctx) : Nat := cf c 1 0 6
def cSrcTier (c : Ctx) : Nat := cf c 1 6 2
def cDstTier (c : Ctx) : Nat := cf c 1 8 2
def cSplit (c : Ctx) : Bool := cf c 1 10 1 = 1
def cStats (c : Ctx) : Bool := cf c 1 11 1 = 1
def cVerRel (c : Ctx) : Bool := cf c 1 12 1 = 1
def cKindIn (c : Ctx) : Nat := cf c 1 16 4
def cKindOut (c : Ctx) : Nat := cf c 1 20 4
def cRoot (c : Ctx) : Nat := cf c 1 24 6
def cLines (c : Ctx) : Nat := cf c 2 0 24
def cGroup (c : Ctx) : Nat := cf c 3 0 16
def cPuts (c : Ctx) : Nat := cf c 3 16 16
def cSrc (c : Ctx) : Nat := cf c 4 0 32 + 2 ^ 32 * cf c 5 0 32
def cDst (c : Ctx) : Nat := cf c 6 0 32 + 2 ^ 32 * cf c 7 0 32
def cCluster (c : Ctx) : Nat := cf c 8 0 5
def cLmask (c : Ctx) : Nat := cf c 8 8 8
def cStep (c : Ctx) : Nat := cf c 9 0 24
def cLayer (c : Ctx) : Nat := cf c 10 0 8
def cPair (c : Ctx) : Nat := cf c 10 16 16
def cStatsAddr (c : Ctx) : Nat := cf c 12 0 32 + 2 ^ 32 * cf c 13 0 32
def cStatsEntries (c : Ctx) : Nat := cf c 14 0 16
/-- The global device id of member `n`. -/
def cMember (c : Ctx) (n : Nat) : Nat := cf c (16 + n / 2) (16 * (n % 2)) 10
/-- The index of a device in a member list. -/
def cIndex (c : Ctx) (gid : Nat) : Option Nat := (List.range (cMembers c)).find? (fun n => cMember c n = gid)

/-- The slice routing entry of a device at a photonic die (Table 10.12). -/
def routeOf (s : State) (d gid : Nat) : W32 := (photOf s d).route.get 0 gid
def permitted (s : State) (d gid : Nat) : Bool := bit (routeOf s d gid) 0

/-- The devices with PERMIT (R432). -/
def permitSet (s : State) (d : Nat) : List Nat :=
  ((photOf s d).route.filter (fun p => bit p.2 0 && decide (p.1 ≠ ownGid s))).map (fun p => p.1)

/-- A cell waits to be sent. -/
def queueTx (t : TxCell) (s : State) : State := { s with mer := { s.mer with tx := s.mer.tx ++ [t] } }
def queueCell (cls : Nat) (c : Cell) (s : State) : State := queueTx (.plain cls c) s

/-- A DATA cell of a context to a device takes the next SEQ of the flow (R353). -/
def sendData (id dst off : Nat) (lines : List (List Byte)) (tags : List Nat) (s : State) : State :=
  match ctxOf s id with
  | none => s
  | some c =>
    let q := c.seq.get 0 dst
    queueCell 5
      { src := ownGid s, dst := dst, plane := 0, typ := 1, epoch := cEpoch c, flow := id, seq := q, off := off, lines := lines
        tags := tags } (setCtx s id { c with seq := c.seq.put dst ((q + 1) % 4096) })

/-- The offset that marks an engine line (R417). -/
def engineOff : Nat := 0xFFFFFF

/-- A DATA cell joins those that wait for credit. -/
def pushData (id dst : Nat) (put : Option Nat) (off : Nat) (lines : List (List Byte × Nat)) (s : State) : State :=
  let d := photOf s (ctxDie id)
  setPhot s (ctxDie id) { d with wait := d.wait ++
    [{ ctx := id, dst := dst, put := put, off := off, lines := lines.map (fun l => l.1), tags := lines.map (fun l => l.2) }] }

/-- DATA cells of a flow to a device that are sent or queued and not acknowledged. -/
def unacked (s : State) (id dst : Nat) : Nat :=
  let mine := fun (c : Cell) => decide (c.typ = 1 ∧ c.flow = id ∧ c.dst = dst)
  (s.mer.tx.filter (fun t => mine t.cell)).length + (s.mer.sent.filter (fun t => mine t.cell)).length

/-- Whether a waiting cell is an engine line, which lands nowhere (R417). -/
def engineWait (x : WaitCell) : Bool := decide (x.off = engineOff ∧ x.lines.length = 1)

/-- A cell with SEQ `q` of a flow belongs to an FPUT, if any (R418). -/
def noteSent (id : Nat) (put : Option Nat) (q : Nat) (s : State) : State :=
  match put with
  | some iid =>
    let d := photOf s (ctxDie id)
    setPhot s (ctxDie id) { d with puts := d.puts.map (fun p =>
      if p.ctx = id ∧ p.iid = iid then { p with seqs := p.seqs ++ [q] } else p) }
  | none => s

/-- An engine line, padded with zeros (R417); it needs no landing space, but waits where the flow has 2,048 cells that are
not acknowledged (R385). -/
def sendLineFor (put : Option Nat) (id dst : Nat) (bs : List Byte) (s : State) : State :=
  let line := bs ++ List.replicate (64 - bs.length) 0
  if unacked s id dst < 2048
      ∧ (photOf s (ctxDie id)).wait.all (fun x => !(engineWait x) || decide (x.ctx ≠ id ∨ x.dst ≠ dst)) then
    let q := ((ctxOf s id).map (fun c => c.seq.get 0 dst)).getD 0
    noteSent id put q (sendData id dst engineOff [line] [0] s)
  else pushData id dst put engineOff [(line, 0)] s
def sendLine (id dst : Nat) (bs : List Byte) (s : State) : State := sendLineFor none id dst bs s

/-- A control cell of a subtype with the bytes from byte 8 on (Table 10.5). -/
def controlCell (s : State) (dst sub : Nat) (body : List Byte) : Cell :=
  let bs := [BitVec.ofNat 8 sub, 0, 0, 0, 0, 0, 0, 0] ++ body
  let all := bs ++ List.replicate (256 - bs.length) 0
  { src := ownGid s, dst := dst, plane := 0, typ := 2, epoch := 0, flow := 0, seq := 0, off := 0
    lines := (List.range 4).map (fun i => (all.drop (64 * i)).take 64), tags := [0, 0, 0, 0] }

/-- A control cell waits to be sent, in its class of R367. -/
def sendControl (dst sub : Nat) (body : List Byte) (s : State) : State :=
  queueCell (if 6 ≤ sub then 2 else 4) (controlCell s dst sub body) s

/-- A BARRIER (3) or ABORT (4) cell (Table 11.6). -/
def shortCell (s : State) (dst typ epoch flow : Nat) (bs : List Byte) : Cell :=
  { src := ownGid s, dst := dst, plane := 0, typ := typ, epoch := epoch, flow := flow, seq := 0, off := 0
    lines := [bs ++ List.replicate (64 - bs.length) 0], tags := [0] }

/-- A return entry is owed to a device (Table 10.4). -/
def owe (gid kind flow seq count arg : Nat) (s : State) : State :=
  { s with mer := { s.mer with rets := s.mer.rets ++
      [(gid, BitVec.ofNat 64 (kind % 16 + at_ flow 8 16 + at_ seq 24 12 + at_ count 36 12 + at_ arg 48 16))] } }

/-- Landing lines are granted to a device for a flow (R281, R356), but in stage 5 of a supply sag only when it has been left
(R517). -/
def grant (gid flow n : Nat) (s : State) : State :=
  if n = 0 then s
  else if 5 ≤ s.pwr.sagStage then { s with mer := { s.mer with creditHeld := s.mer.creditHeld ++ [(gid, flow, n)] } }
  else
  (List.range ((n + 0xFFFE) / 0xFFFF)).foldl (fun s i => owe gid 2 flow 0 0 (min 0xFFFF (n - 0xFFFF * i)) s) s

/-- The credit that stage 5 of a supply sag held back is granted. -/
def grantHeld (s : State) : State :=
  s.mer.creditHeld.foldl (fun s x => grant x.1 x.2.1 x.2.2 s) { s with mer := { s.mer with creditHeld := [] } }

end Sys2Proof.Machine
end

