-- ==== Sys2Proof/Machine/Aborts.lean ====
section
/-! DEFINITION. Aborts: the end of an issued instruction's parts (R99, R124), and aborts of fabric runs (R432-R437). -/

namespace Sys2Proof.Machine

/-! ### The end of issued instructions -/

/-- Chains whose ending instruction is released, after the release of one: those of which an instruction is not (R192). -/
def doneChains (c : Cluster) (i : Iss) (rest : List Iss) : List Nat :=
  ((if i.ends then i.chain.toList else []) ++ c.chainsDone).filter (fun n => rest.any (fun j => decide (j.chain = some n)))

/-- One lane, or the unit (8), has released its part of an instruction; with the last one the instruction is released
and its token posts DONE (R99, R124). -/
def laneDone (cl iid lane : Nat) (s : State) : State :=
  let c := clOf s cl
  match c.issued.find? (fun i => i.iid = iid) with
  | none => s
  | some i =>
    let owed := i.owed.erase lane
    if owed = [] then
      let rest := c.issued.filter (fun j => decide (j.iid ≠ iid))
      let s := setCl s cl { c with issued := rest, chainsDone := doneChains c i rest }
      match i.tok with
      | some t => postTok (cluTok cl t) .done s
      | none => s
    else setCl s cl { c with issued := c.issued.map (fun j => if j.iid = iid then { j with owed := owed } else j) }

/-- One lane's, or the unit's, part of an instruction is dropped, cut or discarded; its token posts ABORTED (R124). -/
def laneCut (cl iid lane : Nat) (s : State) : State :=
  let c := clOf s cl
  match c.issued.find? (fun i => i.iid = iid) with
  | none => s
  | some i =>
    let owed := i.owed.erase lane
    let s := if owed = [] then setCl s cl { c with issued := c.issued.filter (fun j => decide (j.iid ≠ iid)) }
      else setCl s cl { c with issued := c.issued.map (fun j => if j.iid = iid then { j with owed := owed } else j) }
    match i.tok with
    | some t => postTok (cluTok cl t) .aborted s
    | none => s

/-! ### Landing regions (R414, R415, R434) -/

/-- Whether a context lands in HBM (R443). -/
def landsHbm (c : Ctx) : Bool := decide (cDstTier c = 2 ∨ cKind c = 6)

/-- Where a run lands: DST_ADDR, or SRC_ADDR for the data shard that a rebuild restores (R443, R445). -/
def runBase (c : Ctx) : Nat :=
  if cKind c = 6 ∧ cMode c = 1 ∧ cSelf c + 2 < cMembers c then cSrc c else cDst c

/-- The lanes and the address at which line `o` lands in scratchpads (R415). -/
def landAt (c : Ctx) (o : Nat) : Nat × Nat :=
  if cSplit c then
    let lanes := maskLanes (cLmask c)
    let p := max 1 (cLines c / lanes.length)
    (2 ^ lanes.getD (o / p) 8, cDst c + 64 * (o % p))
  else (cLmask c, cDst c + 64 * o)

/-- Line `o` of a landing region is written. -/
def landLine (c : Ctx) (ver : W32) (o : Nat) (l : List Byte × Nat) (s : State) : State :=
  if landsHbm c then writeSector (runBase c / 64 + o) l.1 ver l.2 s
  else if cDstTier c = 1 then landPlates (cCluster c) (cDst c + 64 * o) [l] s
  else landSpad (cCluster c) (landAt c o).1 (landAt c o).2 [l] s

/-- The bytes of a line that an aborted run landed in plates or scratchpads are free; its tag stays (R434, log 5). -/
def blurLine (c : Ctx) (o : Nat) (s : State) : State :=
  let free := fun (bs : List Byte) => (List.range 64).map (fun i => (i, bs.getD i 0))
  if cDstTier c = 1 then
    let n := cDst c / 64 + o
    let (bs, s) := drawBytes 64 s
    setCl s (cCluster c) (plateWrite (clOf s (cCluster c)) n (plateTag (clOf s (cCluster c)) n) (free bs))
  else
    let n := (landAt c o).2 / 64
    (maskLanes (landAt c o).1).foldl (fun s l => match laneCore (clOf s (cCluster c)) (cCluster c) l with
      | some k =>
        let (bs, s) := drawBytes 64 s
        setCore s k (spadWrite (coreOf s k) { line := n, tag := spadTag (coreOf s k) n, upd := free bs })
      | none => s) s

/-- The lines that a run has landed: those of its receive for a PUT context. -/
def landedOf (c : Ctx) (r : FRun) : List Nat := (if cKind c = 1 then c.landed else r.landed).eraseDups

/-! ### Aborts -/

/-- The next run of a context starts afresh (R411). -/
def Ctx.nextRun (c : Ctx) : Ctx := { c with runs := (c.runs + 1) % 2 ^ 32, seq := [], seen := [], credit := [], landed := [] }

/-- This package's waiting, queued and unacknowledged cells of a flow are dropped (R433). -/
def dropFlow (id : Nat) (s : State) : State :=
  let mine := fun (c : Cell) => decide ((c.typ = 1 ∨ c.typ = 3) ∧ c.flow = id ∧ c.src = ownGid s)
  let d := photOf s (ctxDie id)
  let s := setPhot s (ctxDie id) { d with wait := d.wait.filter (fun x => decide (x.ctx ≠ id)) }
  { s with mer := { s.mer with
      tx := s.mer.tx.filter (fun t => !mine t.cell)
      sent := s.mer.sent.filter (fun t => !mine t.cell)
      creditHeld := s.mer.creditHeld.filter (fun x => decide (x.2.1 ≠ id)) } }

/-- A fabric instruction leaves its queue (R596). -/
def freeFab (cl iid : Nat) (s : State) : State :=
  setCl s cl { clOf s cl with fabQ := (clOf s cl).fabQ.filter (fun u => decide (u.iid ≠ iid)) }

/-- An instruction of an aborted run ends ABORTED, and its cluster notes it (R143). -/
def cutFabric (cl iid : Nat) (s : State) : State :=
  let s := laneCut cl iid 8 (freeFab cl iid s)
  setCl s cl { clOf s cl with abortSeen := true }

/-- Who raised an abort and why (Tables 11.6, 11.7). -/
structure AbortInfo where
  group : Nat
  cause : Nat
  serial : W32
  origin : Nat

/-- COLL_ABORT (Table 11.9). -/
def collAbortRec (id : Nat) (a : AbortInfo) (s : State) : State :=
  record { unit := unitFab (ctxDie id), cls := 0x0440, outcome := a.cause, d1 := BitVec.ofNat 32 id
           d2 := BitVec.ofNat 32 a.group, d3 := BitVec.ofNat 32 a.origin, d4 := a.serial } s

/-- The run of a context, if one is in progress. -/
def runOf (s : State) (id : Nat) : Option FRun := (photOf s (ctxDie id)).runs.find? (fun r => r.ctx = id)

def setRun (r : FRun) (s : State) : State :=
  let d := photOf s (ctxDie r.ctx)
  setPhot s (ctxDie r.ctx) { d with runs := d.runs.map (fun x => if x.ctx = r.ctx then r else x) }

def delRun (id : Nat) (s : State) : State :=
  let d := photOf s (ctxDie id)
  setPhot s (ctxDie id) { d with runs := d.runs.filter (fun x => decide (x.ctx ≠ id)) }

/-- A context enters its quiet period (R437). -/
def quietCtx (id : Nat) (s : State) : State :=
  match ctxOf s id with
  | some c => setCtx s id { c.nextRun with quiet := true }
  | none => s

/-- The instructions of a run end ABORTED (R433). -/
def cutRun (r : FRun) (s : State) : State := r.parts.foldl (fun s p => cutFabric p.1 p.2.1 s) s

/-- The members that a REBUILD restores (Table 11.1, W11). -/
def lostOf (c : Ctx) : List Nat :=
  (if cf c 11 6 1 = 1 then [cf c 11 0 6] else []) ++ (if cf c 11 14 1 = 1 then [cf c 11 8 6] else [])

/-- STRIPE_REBUILD of a replacement (Table 11.9). -/
def rebuildRec (id out n : Nat) (s : State) : State :=
  match ctxOf s id with
  | some c =>
    if cKind c = 6 ∧ cMode c = 1 ∧ (lostOf c).contains (cSelf c) then
      record { unit := unitFab (ctxDie id), cls := 0x0441, outcome := out, d1 := BitVec.ofNat 32 id, d2 := c.w.getD 11 0
               d3 := BitVec.ofNat 32 n } s
    else s
  | none => s

/-- A run is aborted locally; its tokens wait for the rewrite of the sectors that it landed (R433, R434). -/
def abortRun (a : AbortInfo) (r : FRun) (s : State) : State :=
  match ctxOf s r.ctx with
  | none => s
  | some c =>
    if r.st = 3 then s else
    let os := landedOf c r
    let s := rebuildRec r.ctx 2 r.landed.length (collAbortRec r.ctx a (quietCtx r.ctx (dropFlow r.ctx s)))
    if landsHbm c && !os.isEmpty then setRun { r with st := 3, landed := os } s
    else cutRun r (delRun r.ctx (os.foldl (fun s o => blurLine c o s) s))

/-- The FPUTs in progress on a context are aborted (R433). -/
def abortPuts (a : AbortInfo) (id : Nat) (s : State) : State :=
  let d := photOf s (ctxDie id)
  let mine := d.puts.filter (fun p => p.ctx = id)
  if mine = [] then s else
  let s := setPhot s (ctxDie id) { d with puts := d.puts.filter (fun p => decide (p.ctx ≠ id)) }
  mine.foldl (fun s p => cutFabric p.cl p.iid s) (collAbortRec id a (quietCtx id (dropFlow id s)))

/-- A context's run and FPUTs are aborted locally. -/
def abortCtx (a : AbortInfo) (id : Nat) (s : State) : State :=
  let s := match runOf s id with
    | some r => abortRun a r s
    | none => s
  abortPuts a id s

/-- A REBLOCK under way whose contexts are of the group is aborted at this package (R442). -/
def abortRebl (a : AbortInfo) (s : State) : State :=
  match s.mer.rebl with
  | none => s
  | some b =>
    if b.permute ∧ 1 ≤ b.stage ∧ b.stage ≤ 4 ∧ ((ctxOf s b.base).map cGroup).getD 0xFFFF = a.group then
      let s := (List.range b.count).foldl (fun s f => quietCtx (b.base + f) (dropFlow (b.base + f) s)) s
      let s := collAbortRec b.base a s
      { s with mer := { s.mer with rebl := some { b with stage := 5 } } }
    else s

/-- Every context with something in progress. -/
def busyCtxs (s : State) : List Nat :=
  ([5, 6].map (fun d => (photOf s d).runs.map (fun r => r.ctx) ++ (photOf s d).puts.map (fun p => p.ctx))).flatten.eraseDups

/-- The package aborts locally: every run of the group (R433). -/
def abortGroup (a : AbortInfo) (s : State) : State :=
  let ids := (busyCtxs s).filter (fun id => decide (((ctxOf s id).map cGroup).getD 0xFFFF = a.group))
  abortRebl a (ids.foldl (fun s id => abortCtx a id s) s)

/-- The payload of an ABORT cell (Table 11.6). -/
def abortBytes (a : AbortInfo) (flow epoch : Nat) : List Byte :=
  leBytes 2 a.group ++ [BitVec.ofNat 8 a.cause, 0] ++ leBytes 4 a.serial.toNat ++ leBytes 2 a.origin ++ leBytes 2 flow
  ++ [BitVec.ofNat 8 epoch]

/-- An ABORT cell goes to every device with PERMIT (R432). -/
def spreadAbort (a : AbortInfo) (flow epoch : Nat) (s : State) : State :=
  (permitSet s 5).foldl (fun s g => queueCell 1 (shortCell s g 4 0 0 (abortBytes a flow epoch)) s) s

/-- The package raises an abort on a group (R432); `flow` is the flow of the originating run. -/
def raiseAbort (group cause flow : Nat) (s : State) : State :=
  let a : AbortInfo := { group := group, cause := cause, serial := s.mer.serial, origin := ownGid s }
  let s := { s with mer := { s.mer with serial := s.mer.serial + 1, aborts := (ownGid s, s.mer.serial) :: s.mer.aborts } }
  abortGroup a (spreadAbort a flow s.mer.epoch s)

/-- An abort on the group of a context. -/
def raiseOn (id cause : Nat) (s : State) : State :=
  match ctxOf s id with
  | some c => raiseAbort (cGroup c) cause id s
  | none => s

/-- A program that traps or stops aborts the runs that it has joined (R413). -/
def stopRuns (cl : Nat) (s : State) : State :=
  let mine := ([5, 6].map (fun d => (photOf s d).runs.filter (fun r => decide (r.st < 3) && r.parts.any (fun p => p.1 = cl)))).flatten
  mine.foldl (fun s r => if (runOf s r.ctx).isSome then raiseOn r.ctx 7 s else s) s

end Sys2Proof.Machine
end

