-- ==== Sys2Proof/Machine/Seq.lean ====
section
/-! DEFINITION. Seq: the cluster sequencer: issue, loops, skips, traps and the end of a program (chapter 03). -/

namespace Sys2Proof.Machine

/-! ### Fetch and registers -/

/-- The instruction at the PC (R105). -/
def curWord (c : Cluster) : W128 := BitVec.ofNat 128 (c.imem.nat (c.pc / 256 * 0x1000 + c.pc % 256 * 16) 16)

/-- A scalar register; s0 reads zero (R102). -/
def sreg (c : Cluster) (r : Nat) : W64 := if r = 0 then 0 else c.sreg.get 0 r

/-- The cluster with a scalar register written; writes to s0 are discarded (R102). -/
def setReg (c : Cluster) (r : Nat) (v : W64) : Cluster := if r = 0 then c else { c with sreg := c.sreg.put r v }

/-- Whether a program runs and issue is not ended, nor held for a rotation (R341), by stage 5 of a supply sag
(R517) or by the debug port (R557). -/
def running (s : State) (cl : Nat) : Bool :=
  let c := clOf s cl
  match c.prog with
  | some p => decide (p.ending = 0 ∧ s.pwr.sagStage < 5 ∧ c.dbg ≠ 1) && !c.rotDue
  | none => false

/-- Whether the sequencer of a cluster is at an instruction of this class and opcode (R95). -/
def atIns (s : State) (cl cls op : Nat) : Bool :=
  decide (cl < 32) && running s cl && decide (iClass (curWord (clOf s cl)) = cls ∧ iOp (curWord (clOf s cl)) = op)

/-! ### Control flow -/

/-- The levels whose body contains an address (R115). -/
def levelsWith (pc : Nat) (l : List LoopLvl) : List LoopLvl := l.filter (fun x => decide (x.start ≤ pc ∧ pc ≤ x.stop))

/-- `end_of_instruction` of R114: the PC and the levels after an instruction at `pc` that did not transfer control. -/
def endIns (pc : Nat) : List LoopLvl → Nat × List LoopLvl
  | [] => (pc + 1, [])
  | x :: rest =>
    if pc = x.stop then
      if 1 < x.left then (x.start, { x with left := x.left - 1, iter := x.iter + 1 } :: rest)
      else endIns pc rest
    else (pc + 1, x :: rest)

/-- `resume(x)` of R114. -/
def resumeAt (x : Nat) (l : List LoopLvl) : Nat × List LoopLvl :=
  match l with
  | [] => endIns x []
  | y :: _ => if x > y.stop then (x + 1, levelsWith (x + 1) l) else endIns x l

/-- A taken branch or jump (R115). -/
def jumpTo (t : Nat) (l : List LoopLvl) : Nat × List LoopLvl := (t, levelsWith t l)

/-! ### Traps and the end of a program -/

/-- What a TRAP record says beyond its code (R591). -/
structure TrapInfo where
  lane : Nat := 15
  pc : Nat
  op : Nat := 0
  tile : W32 := 0xFFFFFFFF#32
  d1 : W32 := 0
  d2 : W32 := 0
  d3 : W32 := 0

/-- The TRAP record (R591). -/
def trapRec (cl code : Nat) (t : TrapInfo) (s : State) : State :=
  record { unit := unitSeq cl, cls := 0x0104, outcome := code, opcode := t.op, tile := t.tile
           d0 := d0Of t.lane t.pc (clOf s cl).group, d1 := t.d1, d2 := t.d2, d3 := t.d3 } s

/-- The instructions of a core's queues leave them, unstarted (R142). -/
def dropCore (cl lane core : Nat) (s : State) : State :=
  let k := coreOf s core
  let ids := (k.qA ++ k.qB ++ k.qV ++ k.qP).map (fun q => q.iid)
  ids.foldl (fun s i => laneCut cl i lane s) (setCore s core { k with qA := [], qB := [], qV := [], qP := [] })

/-- FPUTs of which no cell has been sent are dropped with the cells that they hold ready (R142, R596). -/
def dropPuts (iids : List Nat) (s : State) : State :=
  [5, 6].foldl (fun s d =>
    let x := photOf s d
    setPhot s d { x with
      puts := x.puts.filter (fun p => !iids.contains p.iid)
      wait := x.wait.filter (fun w => match w.put with
        | some i => !iids.contains i
        | none => true) }) s

/-- The instructions of the unit queues that have not started, and the LEVENTs that are received and not released, are
dropped (R142); `keep` are the TMOVEs of which the ledger has accepted a record that has not ended: they have started
(R257). An FPUT in its queue has not sent a cell: it counts as not started. -/
def dropUnits (cl : Nat) (keep : List Nat) (s : State) : State :=
  let c := clOf s cl
  let gone := (c.mover.filter (fun u => !keep.contains u.iid)).map (fun u => u.iid)
    ++ (c.updQ ++ c.fabQ).map (fun u => u.iid) ++ c.levents.map (fun l => l.1)
  gone.foldl (fun s i => laneCut cl i 8 s)
    (dropPuts (c.fabQ.map (fun u => u.iid)) (setCl s cl { c with mover := [], updQ := [], fabQ := [], levents := [] }))

/-- Every instruction not yet started in any queue of the cluster is dropped (R142, step 1); records of its TMOVEs not
yet accepted are dropped with them, which cuts those TMOVEs (R124, R257), and the fabric runs that the program joined
are aborted (R413). -/
def dropAll (cl : Nat) (s : State) : State :=
  let s := (List.range 8).foldl (fun s l => match laneCore (clOf s cl) cl l with
    | some k => dropCore cl l k s
    | none => s) s
  let d := dieOf s (cl / 8)
  let cut := (d.tmoves.map (fun t =>
    if t.cl = cl then { t with todo := [], left := t.left - t.todo.length, bad := t.bad || !t.todo.isEmpty } else t)).filter
    (fun t => decide (t.left ≠ 0))
  let s := dropUnits cl ((cut.filter (fun t => t.cl = cl)).map (fun t => t.iid)) s
  stopRuns cl (setDie s (cl / 8) { dieOf s (cl / 8) with tmoves := cut })

/-- A trap, a GROUP_STOP or the stop of R33: issue stops and unstarted work is dropped; the program ends at its proof
boundary. While a program is stopping, a further trap of a started instruction writes its own record (R142); so does an
ephemeris halt that reaches it (R265; DESIGN CHOICE, log 59: R142 names only the traps of started instructions). -/
def trap (cl code : Nat) (t : TrapInfo) (s : State) : State :=
  let c := clOf s cl
  match c.prog with
  | none => s
  | some p =>
    if p.ending = 2 then (if code < 5 then trapRec cl code t s else s)
    else
      dropAll cl (setCl s cl { c with
        seq := 5
        trapped := true
        trapCode := code
        heldOn := []
        seen := []
        prog := some { p with
          ending := 2, failed := true, trapPc := t.pc, trapLane := t.lane, trapOp := BitVec.ofNat 16 t.op
          trapTile := t.tile, trapD1 := t.d1, trapD2 := t.d2, trapD3 := t.d3 } })

/-- The GROUP_STARTs and GROUP_STOPs that wait for a member take note of its end (R85, R87). -/
def memberEnded (cl start : Nat) (ok : Bool) (s : State) : State :=
  let step := fun (s : State) (x : CmdRec) =>
    match x.work with
    | .start left o =>
      if x.no = start then
        let left' := left.erase cl
        let o' := o && ok
        if left' = [] then completeCmd x.no (okTok o') s else setWork x.no (.start left' o') s
      else s
    | .stop left =>
      if left.contains cl then
        if left.erase cl = [] then completeCmd x.no .done s else setWork x.no (.stop (left.erase cl)) s
      else s
    | _ => s
  s.cmds.foldl step s

/-- Whether a core holds no instruction, entry or arbitration. -/
def coreQuiet (k : Core) : Bool :=
  k.qA.isEmpty && k.qB.isEmpty && k.qV.isEmpty && k.qP.isEmpty && k.runA.isEmpty && k.runB.isEmpty && k.runV.isEmpty
  && k.runP.isEmpty && k.window.isEmpty && k.arb.isNone

/-- The physical cores of a cluster that serve a lane. -/
def laneCores (s : State) (cl : Nat) : List Nat := (List.range 8).filterMap (fun l => laneCore (clOf s cl) cl l)

/-- Whether everything issued is released, discarded or dropped (R100). -/
def atFence (s : State) (cl : Nat) : Bool :=
  (laneCores s cl).all (fun k => coreQuiet (coreOf s k)) && (clOf s cl).issued.isEmpty

/-- Whether the ending instruction of a chain can no longer be released: it was never issued, or a trap or a stop has
dropped or cut it (R142, R193). -/
def chainDead (c : Cluster) (n : Nat) : Bool :=
  (c.chainOpen && decide (n = c.chainNo))
  || (decide (c.prog.map (fun p => p.ending) = some 2) && !c.chainsDone.contains n
      && c.issued.all (fun i => !(i.ends && decide (i.chain = some n))))

/-- Whether everything issued is released, discarded or dropped, but for the instructions of chains that no ending
instruction will release (R100, R142, R193). -/
def atBoundary (s : State) (cl : Nat) : Bool :=
  let c := clOf s cl
  (laneCores s cl).all (fun k => coreQuiet (coreOf s k))
  && c.issued.all (fun i => match i.chain with
      | some n => chainDead c n
      | none => false)

/-- The instructions that are left at a proof boundary that ends the program are those of chains without an ending
instruction: they are discarded (R193). -/
def dropChain (cl : Nat) (s : State) : State :=
  let c := clOf s cl
  let s := c.issued.foldl (fun s i => i.owed.foldl (fun s l => laneCut cl i.iid l s) s) s
  let s := (laneCores s cl).foldl (fun s k => setCore s k { coreOf s k with chain := [], creg := [] }) s
  setCl s cl { clOf s cl with chainOpen := false, chainSet := [], chainsDone := [] }

/-- The program of a cluster ends: armed tokens still PENDING are ABORTED, a trap writes its record, and the
GROUP_START takes note (R112, R142, R85). The page buffer holds no page in use from then on (DESIGN CHOICE, log 59:
R134 does not say how long the last page stays in use). -/
def endProgram (cl : Nat) (s : State) : State :=
  let c := clOf s cl
  match c.prog with
  | none => s
  | some p =>
    let ok := decide (p.ending = 1) && !p.failed && !c.chainOpen
    let s := if c.chainOpen || !c.issued.isEmpty then dropChain cl s else s
    let s := abortTokens (p.armed.map (cluTok cl)) s
    let s := if p.ending = 2 then
        trapRec cl c.trapCode { lane := p.trapLane, pc := p.trapPc, op := p.trapOp.toNat, tile := p.trapTile
                                d1 := p.trapD1, d2 := p.trapD2, d3 := p.trapD3 } s
      else s
    let s := setCl s cl { clOf s cl with prog := none, seq := 0, page := none, loops := [], heldOn := [], seen := [] }
    memberEnded cl p.cmd ok s

/-- PROOF_BOUNDARY (R100): a halting, trapping or stopping program that has reached its proof boundary ends. -/
def effProofBoundary (cl : Nat) (s : State) : State :=
  match (clOf s cl).prog with
  | some p => if cl < 32 ∧ p.ending ≠ 0 ∧ atBoundary s cl then endProgram cl s else s
  | none => s

/-- The sequencer goes on at a PC with the levels that remain; a fetch beyond page 63, index 255 traps (R111). -/
def goOn (cl : Nat) (r : Nat × List LoopLvl) (s : State) : State :=
  let c := clOf s cl
  if r.1 < 0x4000 then
    setCl s cl { c with
      pc := r.1, loops := r.2, seq := 1, page := some (r.1 / 256), heldOn := [], seen := []
      dbg := if c.dbg = 2 then 1 else c.dbg }
  else trap cl 4 { pc := 0x3FFF } (setCl s cl { c with pc := 0x3FFF, loops := r.2, heldOn := [], seen := [] })

/-- The next instruction in sequence, loops counted (R114). -/
def goNext (cl : Nat) (s : State) : State := goOn cl (endIns (clOf s cl).pc (clOf s cl).loops) s

/-- Issue is held with a STATE of Table 3.20 and the tokens waited on. -/
def hold (cl st : Nat) (toks : List Nat) (s : State) : State :=
  setCl s cl { clOf s cl with seq := st, heldOn := toks }

/-! ### Skips -/

/-- An instruction is skipped: its token, the log entry in the stream of its GROUP_START, the record (R139, R586). The
PC is left to the caller. -/
def skipIns (cl : Nat) (w : W128) (k : Skip) (s : State) : State :=
  let c := clOf s cl
  match c.prog with
  | none => s
  | some p =>
    let posts := decide (3 ≤ iClass w ∧ iClass w < 8) && iTV w && decide (k.code ≠ 0x46)
    let done := if posts then cluTok cl (iTok w) else 0xFFFF
    let s := setCl s cl { c with skipped := true, prog := some { p with failed := true } }
    let s := logSkip p.strm
      { tag := p.tag, opcode := 0xFF, code := k.code, done := done, cause := k.cause, unit := unitSeq cl, loc := c.pc
        time := s.aoCount, job := jobId s, detail := BitVec.ofNat 32 k.detail, read := false } s
    let s := if k.code = 0x44 then s else
      record { unit := unitSeq cl, cls := 0x0101, outcome := k.code, opcode := opRec w, d0 := d0Of 15 c.pc c.group
               d1 := BitVec.ofNat 32 (p.tag + 65536 * p.strm), d2 := BitVec.ofNat 32 k.detail
               d3 := BitVec.ofNat 32 (done + 65536 * k.cause) } s
    if posts then setTok done .skipped false s else s

/-- The first check, in order, that an instruction fails (R588). -/
def firstSkip : List (Bool × Nat) → Option Skip
  | [] => none
  | (true, k) :: _ => some { code := k }
  | (false, _) :: l => firstSkip l

/-- An instruction at issue: skipped with the first check that fails, then execution goes on at the next instruction;
otherwise it acts. -/
def issueWith (cl : Nat) (w : W128) (checks : List (Bool × Nat)) (act : State → State) (s : State) : State :=
  match firstSkip checks with
  | some k => goNext cl (skipIns cl w k s)
  | none => act s

/-! ### Scalar instructions -/

/-- The fields of Format S that an opcode uses besides class and opcode: RD, RA, RB, and the low bits of IMM. -/
def sFields (rd ra rb : Bool) (imm : Nat) : List (Nat × Nat) :=
  [(124, 4), (116, 8)] ++ (if rd then [(110, 6)] else []) ++ (if ra then [(104, 6)] else [])
  ++ (if rb then [(98, 6)] else []) ++ (if imm = 0 then [] else [(0, imm)])

/-- A scalar, flow or loop instruction: the compared pair may disagree (R101), and then nothing else happens. -/
def seqIns (cls op : Nat) (act : Nat → W128 → State → State) (cl : Nat) (mm : Bool) (s : State) : State :=
  if atIns s cl cls op then
    let w := curWord (clOf s cl)
    if mm then trap cl 3 { pc := (clOf s cl).pc, op := opRec w } s else act cl w s
  else s

/-- A scalar instruction that writes s[RD] (Table 3.5). -/
def scalarIns (op : Nat) (fs : List (Nat × Nat)) (val : W64 → W64 → W128 → W64) (cl : Nat) (mm : Bool) (s : State) :
    State :=
  seqIns 0 op (fun cl w s => issueWith cl w [(!(onlyFields w fs), 0x42)] (fun s =>
    let c := clOf s cl
    goNext cl (setCl s cl (setReg c (iRD w) (val (sreg c (iRA w)) (sreg c (iRB w)) w)))) s) cl mm s

/-- A comparison writes 1 if it is true and 0 if it is false (R103). -/
def cmpVal (b : Bool) : W64 := if b then 1 else 0

/-- Fields of the three-register scalar opcodes. -/
def rrr : List (Nat × Nat) := sFields true true true 0

def effAdd (cl : Nat) (mm : Bool) (s : State) : State := scalarIns 0x01 rrr (fun a b _ => a + b) cl mm s
def effSub (cl : Nat) (mm : Bool) (s : State) : State := scalarIns 0x02 rrr (fun a b _ => a - b) cl mm s
def effAnd (cl : Nat) (mm : Bool) (s : State) : State := scalarIns 0x03 rrr (fun a b _ => a &&& b) cl mm s
def effOr (cl : Nat) (mm : Bool) (s : State) : State := scalarIns 0x04 rrr (fun a b _ => a ||| b) cl mm s
def effXor (cl : Nat) (mm : Bool) (s : State) : State := scalarIns 0x05 rrr (fun a b _ => a ^^^ b) cl mm s
def effShl (cl : Nat) (mm : Bool) (s : State) : State := scalarIns 0x06 rrr (fun a b _ => a <<< fld b 0 6) cl mm s
def effShr (cl : Nat) (mm : Bool) (s : State) : State := scalarIns 0x07 rrr (fun a b _ => a >>> fld b 0 6) cl mm s
def effSra (cl : Nat) (mm : Bool) (s : State) : State := scalarIns 0x08 rrr (fun a b _ => a.sshiftRight (fld b 0 6)) cl mm s
def effMul (cl : Nat) (mm : Bool) (s : State) : State := scalarIns 0x09 rrr (fun a b _ => a * b) cl mm s
def effMin (cl : Nat) (mm : Bool) (s : State) : State := scalarIns 0x0A rrr (fun a b _ => if a.slt b then a else b) cl mm s
def effMax (cl : Nat) (mm : Bool) (s : State) : State := scalarIns 0x0B rrr (fun a b _ => if a.slt b then b else a) cl mm s
def effSlt (cl : Nat) (mm : Bool) (s : State) : State := scalarIns 0x0C rrr (fun a b _ => cmpVal (a.slt b)) cl mm s
def effSltu (cl : Nat) (mm : Bool) (s : State) : State := scalarIns 0x0D rrr (fun a b _ => cmpVal (a.ult b)) cl mm s
def effSeq (cl : Nat) (mm : Bool) (s : State) : State := scalarIns 0x0E rrr (fun a b _ => cmpVal (a == b)) cl mm s
def effAddi (cl : Nat) (mm : Bool) (s : State) : State :=
  scalarIns 0x10 (sFields true true false 64) (fun a _ w => a + BitVec.ofNat 64 (iImm w)) cl mm s
def effLi (cl : Nat) (mm : Bool) (s : State) : State :=
  scalarIns 0x11 (sFields true false false 64) (fun _ _ w => BitVec.ofNat 64 (iImm w)) cl mm s
def effAndi (cl : Nat) (mm : Bool) (s : State) : State :=
  scalarIns 0x12 (sFields true true false 64) (fun a _ w => a &&& BitVec.ofNat 64 (iImm w)) cl mm s
def effShli (cl : Nat) (mm : Bool) (s : State) : State :=
  scalarIns 0x13 (sFields true true false 6) (fun a _ w => a <<< fld w 0 6) cl mm s
def effShri (cl : Nat) (mm : Bool) (s : State) : State :=
  scalarIns 0x14 (sFields true true false 6) (fun a _ w => a >>> fld w 0 6) cl mm s

/-- CLU_SEQ_STATUS (Table 3.20). -/
def seqStatus (c : Cluster) : W64 :=
  BitVec.ofNat 64 (at_ c.pc 0 14 + at_ c.seq 16 3 + at_ c.loops.length 20 3 + at_ (b2n c.skipped) 24 1
    + at_ (b2n c.abortSeen) 25 1 + at_ (b2n c.trapped) 26 1 + at_ c.trapCode 32 8 + at_ c.group 40 6)

/-- Completed passes of loop level `n`, level 0 outermost; 0 for an inactive level (Table 3.2). -/
def iterOf (c : Cluster) (n : Nat) : Nat :=
  if n < c.loops.length then (c.loops.getD (c.loops.length - 1 - n) ⟨0, 0, 0, 0⟩).iter else 0

/-- The value of a special register other than CYCLE (Table 3.2); `epoch` is the current layout epoch. -/
def specialReg (s : State) (cl epoch n : Nat) : W64 :=
  let c := clOf s cl
  match n with
  | 0x01 => BitVec.ofNat 64 (laneMask c + 256 * laneCount c)
  | 0x02 => BitVec.ofNat 64 (fld (seqStatus c) 0 32)
  | 0x03 => BitVec.ofNat 64 epoch
  | 0x04 => s.job.id.setWidth 64
  | 0x05 => BitVec.ofNat 64 cl
  | 0x06 => s.job.maxTokens.setWidth 64
  | 0x07 => s.job.actBudget
  | 0x08 => BitVec.ofNat 64 (iterOf c 0)
  | 0x09 => BitVec.ofNat 64 (iterOf c 1)
  | 0x0A => BitVec.ofNat 64 (iterOf c 2)
  | 0x0B => BitVec.ofNat 64 (iterOf c 3)
  | _ => BitVec.ofNat 64 c.loops.length

/-- SRD (R104); CYCLE counts cluster cycles, which the model does not time, so its value is free (log 5). -/
def srdAct (epoch : Nat) (cl : Nat) (w : W128) (s : State) : State :=
  let n := fld w 0 8
  issueWith cl w [(!(onlyFields w (sFields true false false 8)) || decide (0x0C < n), 0x42)] (fun s =>
    if n = 0 then
      let (v, s) := drawWord s
      goNext cl (setCl s cl (setReg (clOf s cl) (iRD w) v))
    else goNext cl (setCl s cl (setReg (clOf s cl) (iRD w) (specialReg s cl epoch n)))) s

/-- Ten seconds of the always-on counter (R317, R338). -/
def tenSeconds : Nat := 500000000

/-- Whether an event at `t` lies no more than 10 seconds before now. -/
def recent (s : State) (t : W64) : Bool := decide ((s.aoCount - t).toNat ≤ tenSeconds)

/-- A cluster is taken offline (R33, R317, R339). -/
def takeOffline (cl : Nat) (s : State) : State :=
  let c := clOf s cl
  let s := setCl s cl { c with mapState := 3 }
  match c.prog with
  | some _ => trap cl 6 { pc := c.pc } s
  | none => s

/-- CLU_LANE_MAP as a register (Table 1.3). Every lane of an offline cluster is masked, and it has no spare (log 22). -/
def laneMapReg (c : Cluster) : W64 :=
  let lane := fun l => if c.mapState = 3 then 15 else c.lanes.getD l 15
  BitVec.ofNat 64 (((List.range 8).map (fun l => lane l * 16 ^ l)).sum + at_ (if c.mapState = 3 then 15 else c.spare) 32 4
    + at_ c.retired 36 4 + at_ (laneMask c) 40 8 + at_ (laneCount c) 48 4 + at_ c.mapState 52 2)

/-- CORE_RETIRED: also lane masking and going offline (Table 9.5); D0 carries the lane. -/
def coreRetiredRec (cl core lane : Nat) (s : State) : State :=
  let c := clOf s cl
  record { unit := unitId (cl / 8) (cl % 8) core 15 0, cls := 0x0206, outcome := c.mapState
           d0 := d0Of lane 0 0, d1 := (laneMapReg c).setWidth 32, d2 := (laneMapReg c >>> 32).setWidth 32 } s

/-- A memory array error of the plates at a line: record, what the reader does (`act`: the trap of a reading
instruction), and a second one within 10 seconds takes the cluster offline for good (R34, R317). -/
def plateError (cl line : Nat) (act : State → State) (s : State) : State :=
  let c := clOf s cl
  let again := match c.plateErr.find line with
    | some t => recent s t
    | none => false
  let s := setCl s cl { c with plateErr := c.plateErr.put line s.aoCount }
  let s := record { unit := unitId (cl / 8) (cl % 8) 15 8 0, cls := 0x0208, outcome := 1, d1 := BitVec.ofNat 32 line
                    d2 := plateCode c line
                    d3 := lineCode (c.plates.bytes (64 * line) 64) (plateTag c line) } s
  let s := act s
  if again then
    let s := { s with flash := { s.flash with plates := if s.flash.plates.contains cl then s.flash.plates else s.flash.plates ++ [cl] } }
    coreRetiredRec cl 15 15 (takeOffline cl s)
  else s

/-- The address of SLD or SST. -/
def plateAddr (c : Cluster) (w : W128) : Nat := (sreg c (iRA w) + BitVec.ofNat 64 (iImm w)).toNat

/-- Whether a tile-class instruction is issued and not released (R109). -/
def tileWaits (c : Cluster) : Bool := c.issued.any (fun i => i.tile)

/-- SLD and SST wait for the earlier tile-class instructions, then act (R109). -/
def plateIns (w : W128) (fs : List (Nat × Nat)) (cl : Nat) (act : State → State) (s : State) : State :=
  let c := clOf s cl
  let a := plateAddr c w
  issueWith cl w [(!(onlyFields w fs), 0x42), (decide (a % 8 ≠ 0 ∨ 0x1800000 ≤ a), 0x47)] (fun s =>
    if tileWaits c then hold cl 4 [] s else act s) s

/-- UNRECOVERABLE with a memory array error of the plates (Table 3.22, cause 1). -/
def plateTrap (cl line op : Nat) (lane pc : Nat) (s : State) : State :=
  plateError cl line
    (trap cl 2 { lane := lane, pc := pc, op := op, d1 := BitVec.ofNat 32 line, d2 := 1, d3 := 1 }) s

/-- SLD: the plate word, checked against its line's code (R109, R316, R317). -/
def effSld (cl : Nat) (mm : Bool) (s : State) : State :=
  seqIns 0 0x20 (fun cl w s => plateIns w (sFields true true false 64) cl (fun s =>
    let c := clOf s cl
    let a := plateAddr c w
    if plateBad c (a / 64) then plateTrap cl (a / 64) (opRec w) 15 c.pc s
    else goNext cl (setCl s cl (setReg c (iRD w) (BitVec.ofNat 64 (c.plates.nat a 8))))) s) cl mm s

/-- SST: the word is stored, and its line takes tag 0 and a new code (R109). -/
def effSst (cl : Nat) (mm : Bool) (s : State) : State :=
  seqIns 0 0x21 (fun cl w s => plateIns w (sFields false true true 64) cl (fun s =>
    let c := clOf s cl
    let a := plateAddr c w
    let bs := leBytes 8 (sreg c (iRB w)).toNat
    goNext cl (setCl s cl (plateWrite c (a / 64) 0 ((List.range 8).map (fun i => (a % 64 + i, bs.getD i 0)))))) s) cl mm s

/-! ### Flow instructions -/

/-- The target of a jump or branch. -/
def iTarget (w : W128) : Nat := fld w 0 14

def effFlowNop (cl : Nat) (mm : Bool) (s : State) : State :=
  seqIns 1 0x00 (fun cl w s => issueWith cl w [(!(onlyFields w (sFields false false false 0)), 0x42)] (goNext cl) s) cl mm s

def effJ (cl : Nat) (mm : Bool) (s : State) : State :=
  seqIns 1 0x01 (fun cl w s => issueWith cl w [(!(onlyFields w (sFields false false false 14)), 0x42)]
    (fun s => goOn cl (jumpTo (iTarget w) (clOf s cl).loops) s) s) cl mm s

def effJal (cl : Nat) (mm : Bool) (s : State) : State :=
  seqIns 1 0x02 (fun cl w s => issueWith cl w [(!(onlyFields w (sFields true false false 14)), 0x42)]
    (fun s =>
      let c := clOf s cl
      goOn cl (jumpTo (iTarget w) c.loops) (setCl s cl (setReg c (iRD w) (BitVec.ofNat 64 (c.pc + 1))))) s) cl mm s

def effJr (cl : Nat) (mm : Bool) (s : State) : State :=
  seqIns 1 0x03 (fun cl w s =>
    let t := (sreg (clOf s cl) (iRA w)).toNat
    issueWith cl w [(!(onlyFields w (sFields false true false 0)) || decide (0x4000 ≤ t), 0x42)]
      (fun s => goOn cl (jumpTo t (clOf s cl).loops) s) s) cl mm s

/-- A branch (Table 3.6). -/
def branchIns (op : Nat) (cond : W64 → W64 → Bool) (cl : Nat) (mm : Bool) (s : State) : State :=
  seqIns 1 op (fun cl w s => issueWith cl w [(!(onlyFields w (sFields false true true 14)), 0x42)] (fun s =>
    let c := clOf s cl
    if cond (sreg c (iRA w)) (sreg c (iRB w)) then goOn cl (jumpTo (iTarget w) c.loops) s else goNext cl s) s) cl mm s

def effBeq (cl : Nat) (mm : Bool) (s : State) : State := branchIns 0x08 (fun a b => a == b) cl mm s
def effBne (cl : Nat) (mm : Bool) (s : State) : State := branchIns 0x09 (fun a b => a != b) cl mm s
def effBlt (cl : Nat) (mm : Bool) (s : State) : State := branchIns 0x0A (fun a b => a.slt b) cl mm s
def effBge (cl : Nat) (mm : Bool) (s : State) : State := branchIns 0x0B (fun a b => !(a.slt b)) cl mm s
def effBltu (cl : Nat) (mm : Bool) (s : State) : State := branchIns 0x0C (fun a b => a.ult b) cl mm s
def effBgeu (cl : Nat) (mm : Bool) (s : State) : State := branchIns 0x0D (fun a b => !(a.ult b)) cl mm s

/-- HALT stops issue and waits for a proof boundary (R112). -/
def haltNow (cl : Nat) (s : State) : State :=
  let c := clOf s cl
  match c.prog with
  | some p => setCl s cl { c with seq := 3, prog := some { p with ending := 1 } }
  | none => s

/-- HALT; a skipped HALT halts as well (R140). -/
def effHalt (cl : Nat) (mm : Bool) (s : State) : State :=
  seqIns 1 0x0F (fun cl w s =>
    haltNow cl (if onlyFields w (sFields false false false 0) then s else skipIns cl w { code := 0x42 } s)) cl mm s

/-! ### Loops -/

/-- A loop instruction with count `n`, end `e`, as the pseudocode of R114. -/
def loopIns (cl : Nat) (w : W128) (rsv : Bool) (n e : Nat) (s : State) : State :=
  let c := clOf s cl
  if e ≤ c.pc || rsv then goOn cl (resumeAt (if c.pc < e then e else c.pc) c.loops) (skipIns cl w { code := 0x42 } s)
  else if c.loops.length = 4 then goOn cl (resumeAt e c.loops) (skipIns cl w { code := 0x48 } s)
  else if (match c.loops with
      | [] => false
      | x :: _ => decide (x.stop < e)) then
    goOn cl (resumeAt e c.loops) (skipIns cl w { code := 0x49 } s)
  else if n = 0 then goOn cl (resumeAt e c.loops) s
  else goOn cl (c.pc + 1, { start := c.pc + 1, stop := e, left := n, iter := 0 } :: c.loops) s

def effLoop (cl : Nat) (mm : Bool) (s : State) : State :=
  seqIns 2 0x01 (fun cl w s =>
    let n := (sreg (clOf s cl) (iRA w)).toNat
    loopIns cl w (!(onlyFields w (sFields false true false 14)) || decide (2 ^ 32 ≤ n)) n (iTarget w) s) cl mm s

def effLoopi (cl : Nat) (mm : Bool) (s : State) : State :=
  seqIns 2 0x02 (fun cl w s =>
    loopIns cl w (!(onlyFields w (sFields false false false 14 ++ [(16, 32)]))) (fld w 16 32) (iTarget w) s) cl mm s

/-- LEXIT (R116). -/
def effLexit (cl : Nat) (mm : Bool) (s : State) : State :=
  seqIns 2 0x03 (fun cl w s =>
    let c := clOf s cl
    match c.loops with
    | x :: rest =>
      if onlyFields w (sFields false false false 0) then goOn cl (resumeAt x.stop rest) s
      else goNext cl (skipIns cl w { code := 0x42 } s)
    | [] => goNext cl (skipIns cl w { code := 0x42 } s)) cl mm s

end Sys2Proof.Machine
end

