-- ==== Sys2Proof/Machine/Matrix.lean ====
section
/-! DEFINITION. Matrix: what one attempt of a tile operation computes (R144-R160), the overflow replay (R161-R163),
and the matrix check (R319-R321). -/

namespace Sys2Proof.Machine

/-! ### Ranges of lines -/

/-- Consecutive bytes from a 64-byte boundary as lines with one tag. -/
def linesOf (base tag : Nat) (bs : List Byte) : List LineWr :=
  (List.range ((bs.length + 63) / 64)).map (fun n =>
    { line := base / 64 + n, tag := tag
      upd := (List.range (min 64 (bs.length - 64 * n))).map (fun i => (i, bs.getD (64 * n + i) 0)) })

/-- The lines of a byte range. -/
def lineRange (base bytes : Nat) : List Nat := (List.range ((base + bytes + 63) / 64 - base / 64)).map (fun n => base / 64 + n)

/-! ### A tile operation -/

/-- What a tile operation multiplies: bases and element offsets of its operands and output, kinds, slice count, run
length, start mode. -/
structure TileJob where
  aBase : Nat
  bBase : Nat
  oBase : Nat
  aOff : Nat → Nat → Nat        -- row, slice
  bOff : Nat → Nat → Nat        -- slice, column
  kA : Nat
  kB : Nat
  kO : Nat
  cOut : Bool                   -- C-form output, else B-form
  slices : Nat
  rl : Nat
  stored : Bool                 -- totals start from the stored tile (R155)

/-- K-slice count of an MMA (R127). -/
def mmaSlices (w : W128) (d : W64) : Nat := if iI0 w = 0 then d.toNat else iI0 w

/-- Whether an ACC code starts from the stored tile (R128). -/
def accStored (acc : Nat) (iter0 : Bool) : Bool := acc = 1 || (acc = 2 && !iter0)

def isMma2 (w : W128) : Bool := iClass w = 4 && iOp w = 2

/-- The index of the dX tile of an MMA2; its dW tiles are 0 to 255 (R127, R170). -/
def dXIdx : Nat := 256

/-- A tile operation as the records and traps name it: 0xFF for dX (Tables 3.22, 9.5). -/
def tileCode (idx : Nat) : Nat := min idx 0xFF

/-- The job's run length (R5, R152). -/
def runLen (s : State) : Nat := if s.job.run64 then 64 else 128

/-- The tile operation `idx` of an instruction: 0 of an MMA; dW tile b, or dX, of an MMA2 (R170, R175). -/
def tileJob (s : State) (q : QIns) (idx : Nat) : TileJob :=
  let w := q.word
  if isMma2 w then
    if idx = dXIdx then
      { aBase := q.b.toNat, bBase := q.a.toNat, oBase := q.d.toNat, aOff := fun i k => aForm i k
        bOff := fun k j => gForm j k, kA := iX w 55 4, kB := iX w 59 4, kO := iX w 51 4, cOut := true
        slices := iI0 w, rl := runLen s, stored := accStored (fld w 97 2) q.iter0 }
    else
      let kO := fld w 4 4
      { aBase := q.c.toNat, bBase := q.a.toNat
        oBase := iI1 w * 64 + idx * (8192 * (match kindFmt s kO with | some f => fmtNibbles f | none => 8) / 2)
        aOff := fun i k => aForm i k, bOff := fun k j => gForm k (64 * idx + j), kA := fld w 0 4, kB := iX w 59 4
        kO := kO, cOut := false, slices := 64, rl := 64, stored := accStored (fld w 99 2) q.iter0 }
  else
    { aBase := q.a.toNat, bBase := q.b.toNat, oBase := q.c.toNat, aOff := fun i k => aForm i k
      bOff := fun k j => bForm k j, kA := iX w 59 4, kB := iX w 55 4, kO := iX w 51 4, cOut := true
      slices := mmaSlices w q.d, rl := runLen s, stored := accStored (fld w 97 2) q.iter0 }

/-- The tile operations of an instruction in the order in which they end: of an MMA2 on two arrays dX last (R175), with
array B switched off dX first (R176). -/
def tileIdx (w : W128) (oneArray : Bool) : List Nat :=
  if !(isMma2 w) then [0]
  else if oneArray then dXIdx :: List.range (iI0 w / 64) else List.range (iI0 w / 64) ++ [dXIdx]

/-- The array that runs a tile operation (R129, R170, R176): B runs the dW tiles and the MMAs that name it, unless it is
switched off. -/
def tileUnit (w : W128) (bOff : Bool) (idx : Nat) : Nat :=
  if bOff then 0 else if isMma2 w then (if idx = dXIdx then 0 else 1) else b2n (bit w 96)

/-- Format of a kind, FP32 where the recipe has none (no instruction issues with an unset kind, R127). -/
def fmtK (s : State) (k : Nat) : Fmt := (kindFmt s k).getD fFP32

/-- A stored element times two to its line's tag (R149, R151). -/
def taggedElem (m : Mem) (tag : Nat → Nat) (base off : Nat) (f : Fmt) : Fp :=
  let n := fmtNibbles f
  fpScale (fpDecode f (readElem m base off n)) (tag ((elemAddr base off n).1 / 64) : Nat)

/-- Whether the pair of inputs runs in FP22 (Table 4.2). -/
def fp22Mode (f : Fmt) : Bool := f.code < 3

/-- The running values of a cell: the total, its compensation, and the first overflow with its time. -/
structure Accu where
  t : Fp
  c : Fp
  ov : Option (Nat × OvCause)

/-- The first overflow stands. -/
def firstOv (o : Option (Nat × OvCause)) (hit : Bool) (time : Nat) (x : OvCause) : Option (Nat × OvCause) :=
  match o with
  | some y => some y
  | none => if hit then some (time, x) else none

/-- One run of a cell from slice `k0` on (R151): the run, and the first overflow. -/
def runCell (acc : Fmt) (cause : OvCause) (prod : Nat → Fp) (k0 n : Nat) (ov : Option (Nat × OvCause)) :
    Fp × Option (Nat × OvCause) :=
  (List.range n).foldl (fun r i =>
    let k := k0 + i
    let p := prod k
    let y := fpRound acc .near (fpAdd r.1 p)
    (y.1, firstOv r.2 ((fpRound acc .near p).2 || y.2) (2 * k + 1) cause)) (fpZero, ov)

/-- A promotion (R153, R154). -/
def promote (fp22 : Bool) (y0 : Fp) (time : Nat) (x : Accu) : Accu :=
  if fp22 then
    let t := fpRound fFP32 .near (fpAdd x.t y0)
    { t := t.1, c := x.c, ov := firstOv x.ov t.2 time .total }
  else
    let y := fpRound fFP32 .near (fpSub y0 x.c)
    let t := fpRound fFP32 .near (fpAdd x.t y.1)
    let d := fpRound fFP32 .near (fpSub t.1 x.t)
    let c := fpRound fFP32 .near (fpSub d.1 y.1)
    { t := t.1, c := c.1, ov := firstOv x.ov (y.2 || t.2 || d.2 || c.2) time .total }

/-- One attempt of one cell (R151): the encoding of its output, and the first overflow. -/
def cellAttempt (fp22 : Bool) (outF : Fmt) (slices rl : Nat) (x : Int) (start : Fp) (prod : Nat → Fp) :
    Nat × Option (Nat × OvCause) :=
  let acc := if fp22 then fFP22 else fFP32
  let cause := if fp22 then OvCause.runFp22 else .runFp32
  let st := fpRound fFP32 .near start
  let z := (List.range ((slices + rl - 1) / rl)).foldl (fun (c : Accu) r =>
    let n := min rl (slices - r * rl)
    let run := runCell acc cause prod (r * rl) n c.ov
    promote fp22 (fpScale run.1 x) (2 * (r * rl + n)) { c with ov := run.2 })
    { t := st.1, c := fpZero, ov := firstOv none st.2 0 .total }
  let fin := if fp22 then (z.t, false) else fpRound fFP32 .near (fpSub z.t z.c)
  let ov := firstOv z.ov fin.2 (2 * slices + 2) .total
  let out := fpRound outF .near fin.1
  ((convertSat outF .near fin.1).1, firstOv ov out.2 (2 * slices + 3) .output)

/-- Row and column of the element at a linear output index. -/
def outIJ (j : TileJob) (e : Nat) : Nat × Nat := if j.cOut then (e % 128, e / 128) else (e / 64, e % 64)

/-- The earliest of the overflows of a tile (R162: an attempt stops at the first overflow). -/
def earliest (l : List (Option (Nat × OvCause))) : Option (Nat × OvCause) :=
  l.foldl (fun a b => match a, b with
    | none, y => y
    | x, none => x
    | some x, some y => if y.1 < x.1 then some y else some x) none

/-- Bytes of elements of 4 half bytes or more, and of FP4 pairs (R147). -/
def packElems (n : Nat) (l : List Nat) : List Byte :=
  if n = 1 then (List.range (l.length / 2)).map (fun i => BitVec.ofNat 8 (l.getD (2 * i) 0 + 16 * l.getD (2 * i + 1) 0))
  else (l.map (leBytes (n / 2))).flatten

/-- The start value of an element in units of 2^(sigmaOut - o) (R155). -/
def startVal (outF : Fmt) (j : TileJob) (o : Nat) (m : Mem) (tag : Nat → Nat) (e : Nat) : Fp :=
  if j.stored then fpScale (taggedElem m tag j.oBase e outF) (-(o : Int)) else fpZero

/-- Sum of a list, exact, in ascending order. -/
def fpSum (l : List Fp) : Fp := l.foldl fpAdd fpZero
/-- Sum with every addition rounded to FP32 toward plus infinity (R319). -/
def fpSumUp (x : Fp) (l : List Fp) : Fp := l.foldl (fun a y => rup32 (fpAdd a y)) x

/-- The relative tolerance of Table 9.2, as an exponent of two. -/
def deltaOf (fp22 : Bool) (rl : Nat) : Int := if fp22 then (if rl = 128 then -8 else -9) else -16

/-- The checker's references (R319), from operand and start values in the value domain. -/
def matRef (fp22 : Bool) (slices rl : Nat) (lowered : Int) (a : Nat → Nat → Fp) (b : Nat → Nat → Fp)
    (start : Nat → Nat → Fp) : MatRef :=
  let ks := List.range slices
  let is := List.range 128
  let js := List.range 64
  let ak := ks.map (fun k => fpSum (is.map (fun i => a i k)))
  let bk := ks.map (fun k => fpSum (js.map (fun j => b k j)))
  let au := ks.map (fun k => fpSumUp fpZero (is.map (fun i => fpAbs (a i k))))
  let bu := ks.map (fun k => fpSumUp fpZero (js.map (fun j => fpAbs (b k j))))
  { col := js.map (fun j =>
      (fpAdd (fpSum (ks.map (fun k => fpMul (ak.getD k fpZero) (b k j)))) (fpSum (is.map (fun i => start i j))),
       fpSumUp (fpSumUp fpZero (is.map (fun i => fpAbs (start i j))))
         (ks.map (fun k => rup32 (fpMul (au.getD k fpZero) (fpAbs (b k j)))))))
    row := is.map (fun i =>
      (fpAdd (fpSum (ks.map (fun k => fpMul (a i k) (bk.getD k fpZero)))) (fpSum (js.map (fun j => start i j))),
       fpSumUp (fpSumUp fpZero (js.map (fun j => fpAbs (start i j))))
         (ks.map (fun k => rup32 (fpMul (fpAbs (a i k)) (bu.getD k fpZero))))))
    muExp := (if fp22 then -45 else -149) + lowered
    deltaExp := deltaOf fp22 rl
    slices := slices }

/-- One attempt of a tile operation with lowerings dA, dB, o (R151-R160): operands from the core's scratchpad, start
values from `st` (a memory and its tags). -/
def attempt (s : State) (k : Core) (j : TileJob) (stM : Mem) (stT : Nat → Nat) (op : TileOp) : TileOp :=
  let fA := fmtK s j.kA
  let fB := fmtK s j.kB
  let fO := fmtK s j.kO
  let fp22 := fp22Mode fA
  let tag := spadTag k
  let a := fun i kk => taggedElem k.mem tag j.aBase (j.aOff i kk) fA
  let b := fun kk jj => taggedElem k.mem tag j.bBase (j.bOff kk jj) fB
  let sA := kindScale s j.kA
  let sB := kindScale s j.kB
  let sO := kindScale s j.kO
  let low : Int := (op.dA : Int) + op.dB
  let cells := (List.range 8192).map (fun e =>
    let (i, jj) := outIJ j e
    cellAttempt fp22 fO j.slices j.rl (low - sA - sB + sO - op.o) (startVal fO j op.o stM stT e)
      (fun kk => fpScale (fpMul (a i kk) (b kk jj)) (-low)))
  let ov := earliest (cells.map (fun c => c.2))
  { op with
    ov := ov.map (fun x => x.2)
    out := linesOf j.oBase op.o (packElems (fmtNibbles fO) (cells.map (fun c => c.1)))
    ref := matRef fp22 j.slices j.rl (low - sA - sB) (fun i kk => fpScale (a i kk) (-sA)) (fun kk jj => fpScale (b kk jj) (-sB))
      (fun i jj => let e := if j.cOut then jj * 128 + i else i * 64 + jj
        if j.stored then fpScale (taggedElem stM stT j.oBase e fO) (-sO) else fpZero) }

/-- A tile operation before its first attempt, on its array. -/
def newOp (idx unit : Nat) : TileOp :=
  { idx := idx, unit := unit, dA := 0, dB := 0, o := 0, attempt := 0, ov := none, out := [],
    ref := { col := [], row := [], muExp := 0, deltaExp := 0, slices := 0 } }

/-- The kind that an overflow lowers, and the operation with that lowering made (R161): the input of the wider
exponent range, operand B when the formats are the same, or the output. -/
def lower (s : State) (j : TileJob) (op : TileOp) (x : OvCause) : Nat × TileOp :=
  let onA := decide ((fmtK s j.kB).ew < (fmtK s j.kA).ew)
  match x with
  | .runFp22 | .runFp32 => if onA then (j.kA, { op with dA := op.dA + 1 }) else (j.kB, { op with dB := op.dB + 1 })
  | .total | .output => (j.kO, { op with o := op.o + 1 })

/-- The code of a cause in MAT_REPLAY_LAST (Table 4.10). -/
def causeCode : OvCause → Nat
  | .runFp22 => 0
  | .runFp32 => 1
  | .total => 2
  | .output => 3

/-! ### The matrix check -/

/-- The failure of a check: column or row, its index, the difference and the bound as FP32 patterns (R589). -/
structure CheckFail where
  row : Bool
  idx : Nat
  d3 : W32
  d4 : W32

/-- The check of one column or row (R320, R321). -/
def checkSum (got ref mag u : Fp) (deltaExp muExp : Int) (n : Nat) : Option (W32 × W32) :=
  if fpIsFin got && fpIsFin ref then
    let diff := fpAbs (fpSub got ref)
    let bound := fpAdd (fpAdd (fpScale mag deltaExp) u) (.fin false n muExp)
    if fpLe diff bound then none else some (bits32 (rne32 diff), bits32 (rne32 bound))
  else if fpIsFin got || fpIsFin ref then some (0x7FC00000#32, 0)
  else none

/-- The value of element `e` of a written output. -/
def outVal (f : Fmt) (scale : Int) (o : Nat) (bs : List Byte) (e : Nat) : Fp :=
  let n := fmtNibbles f
  fpScale (fpDecode f (leNat ((bs.drop (e * n / 2)).take (n / 2)))) ((o : Int) - scale)

/-- The bytes that lines write, in order. -/
def lineBytes (ls : List LineWr) : List Byte := (ls.map (fun l => l.upd.map (fun u => u.2))).flatten

/-- The check of a tile operation on the bytes written (R320): columns 0-63, then rows 0-127. -/
def checkTile (s : State) (j : TileJob) (op : TileOp) : Option CheckFail :=
  let f := fmtK s j.kO
  let sc := kindScale s j.kO
  let bs := lineBytes op.out
  let val := fun i jj => outVal f sc op.o bs (if j.cOut then jj * 128 + i else i * 64 + jj)
  let ulp := fun i jj => fpScale (halfUlp f (fpScale (val i jj) (sc - op.o))) ((op.o : Int) - sc)
  let cols := (List.range 64).map (fun jj =>
    let r := op.ref.col.getD jj (fpZero, fpZero)
    (false, jj, checkSum (fpSum ((List.range 128).map (fun i => val i jj))) r.1 r.2
      (fpSum ((List.range 128).map (fun i => ulp i jj))) op.ref.deltaExp op.ref.muExp (128 * op.ref.slices)))
  let rows := (List.range 128).map (fun i =>
    let r := op.ref.row.getD i (fpZero, fpZero)
    (true, i, checkSum (fpSum ((List.range 64).map (fun jj => val i jj))) r.1 r.2
      (fpSum ((List.range 64).map (fun jj => ulp i jj))) op.ref.deltaExp op.ref.muExp (64 * op.ref.slices)))
  (cols ++ rows).findSome? (fun x => match x.2.2 with
    | some (d3, d4) => some { row := x.1, idx := x.2.1, d3 := d3, d4 := d4 }
    | none => none)

end Sys2Proof.Machine
end

