-- ==== Sys2Proof/Machine/Nvme.lean ====
section
/-! DEFINITION. Nvme: what the storage engine issues (R308-R312). -/

namespace Sys2Proof.Machine

def nvCtrl (s : State) (n : Nat) : NvCtrl := s.stp.ctrl.get NvCtrl.reset n
def setNvCtrl (s : State) (n : Nat) (c : NvCtrl) : State := { s with stp := { s.stp with ctrl := s.stp.ctrl.put n c } }

/-- The size in blocks of a usable namespace of a present controller (R310). -/
def nsBlocks (s : State) (ctrl ns : Nat) : Option Nat :=
  let c := nvCtrl s ctrl
  if c.present && decide (1 ≤ ns ∧ ns ≤ 15) then c.spaces.find ns else none

/-- Whether a block range lies in a usable namespace. -/
def nsHolds (s : State) (ctrl ns lba blocks : Nat) : Bool :=
  match nsBlocks s ctrl ns with
  | some n => decide (lba + blocks ≤ n)
  | none => false

/-- CC as the engine sets it: enabled, the NVM command set, 4 KiB pages, round-robin, entries of 64 and 16 bytes (R309). -/
def nvCc : W32 := 0x00460001#32

/-- The commands that create the queues of a controller, five pairs with interrupts off, after CC (0x102) has been
written: Set Features, then each completion and submission queue (R309, Table 8.5). -/
def nvQueues : List (Nat × Nat) :=
  [(0x102, nvCc.toNat), (0x09, 0x40004)] ++ ([1, 2, 3, 4, 5].map (fun q => [(0x05, q), (0x01, q)])).flatten

/-- The steps of a controller's initialisation: Identify of the controller, its queues, the active namespace list and
each of its namespaces (R309, Table 8.5); an Identify's argument is CNS, with the namespace above it. -/
def nvSteps (c : NvFound) : List (Nat × Nat) :=
  nvQueues.take 1 ++ [(0x06, 0x01)] ++ nvQueues.drop 1 ++ [(0x06, 0x02)] ++ c.spaces.map (fun x => (0x06, 256 * x.id))

/-- Whether a controller meets R310 and passes every step of R309. -/
def nvGood (c : NvFound) : Bool :=
  c.conforms && c.prp && decide (63 ≤ c.mqes) && decide (5 ≤ c.pairs)
  && (match c.failed with
      | some k => decide ((nvSteps c).length ≤ k)
      | none => true)

/-- The usable namespaces that a controller reports (R310). -/
def nvSpaces (c : NvFound) : Tab Nat :=
  (c.spaces.filter (fun x => decide (1 ≤ x.id ∧ x.id ≤ 15 ∧ x.blockBytes = 4096 ∧ x.metaBytes = 0))).foldl
    (fun t x => Tab.put t x.id x.blocks) []

/-- The engine initialises the controller that it finds on a port, as far as the step that fails (R309). -/
def nvInit (c : NvFound) (s : State) : State :=
  let ok := nvGood c
  let steps := match c.failed with
    | some k => (nvSteps c).take (k + 1)
    | none => nvSteps c
  let s := steps.foldl (fun s x => emit (.nvmeAdmin c.port x.1 x.2) s) s
  setNvCtrl s c.port { nvCtrl s c.port with
    present := ok, spaces := if ok then nvSpaces c else []
    mdts := if c.mdts = 0 then 32 else min 32 c.mdts
    cc := nvCc, pairs := if ok then 5 else 0 }

/-- Whether two commands' block ranges meet (R312). -/
def nvOverlap (a b : NvCmd) : Bool :=
  decide (a.ctrl = b.ctrl ∧ a.ns = b.ns ∧ a.lba < b.lba + b.blocks ∧ b.lba < a.lba + a.blocks)

/-- Whether a command reads for a ledger entry's tile image. -/
def nvTileRead (c : NvCmd) : Option Nat := match c.use with
  | .tile d i false => some (2048 * d + i)
  | _ => none

/-- Whether the read of an entry's image has begun: its staging is reserved as a whole (R279, R311). -/
def nvBegun (s : State) (k : Nat) : Bool :=
  s.stp.cmds.any (fun c => c.sent && decide (nvTileRead c = some k)) || s.stp.staged.any (fun p => decide (p.1 / 4096 = k))

/-- Whether a command holds hub staging: it is at its controller, or its image has begun to be read. -/
def nvHolds (s : State) (c : NvCmd) : Bool := c.sent || (match nvTileRead c with
  | some k => nvBegun s k
  | none => false)

/-- Blocks of hub staging in use (R311): what commands hold, and what tile reads have brought that no mover has taken
yet. -/
def stagingBlocks (s : State) : Nat :=
  ((s.stp.cmds.filter (nvHolds s)).map (fun c => c.blocks)).sum
  + (s.stp.staged.map (fun p => (p.2.length + 4095) / 4096)).sum

/-- The blocks of staging that a command has still to be given: a tile image is reserved whole before its first read. -/
def stagingNeed (s : State) (c : NvCmd) : Nat :=
  if nvHolds s c then 0
  else match nvTileRead c with
    | some k => ((s.stp.cmds.filter (fun e => decide (nvTileRead e = some k))).map (fun e => e.blocks)).sum
    | none => c.blocks

/-- Whether a command may be issued: no incomplete earlier command overlaps it, its queue and the staging have room
(R311, R312). -/
def nvMaySend (s : State) (c : NvCmd) : Bool :=
  let k := nvCtrl s c.ctrl
  k.present && !k.inReset
  && s.stp.cmds.all (fun e => decide (c.id ≤ e.id) || !(nvOverlap e c))
  && decide ((s.stp.cmds.filter (fun e => e.sent && decide (e.ctrl = c.ctrl ∧ e.q = c.q))).length < 64)
  && decide (stagingBlocks s + stagingNeed s c ≤ 4096)

/-- Whether a command is a tile drain's write, which sets FUA (Table 8.5). -/
def nvFua (c : NvCmd) : Bool := match c.use with
  | .tile _ _ drain => drain
  | _ => false

/-- A held command is issued if it may be. -/
def nvSend (s : State) (c : NvCmd) : State :=
  if !c.sent && nvMaySend s c then
    emit (.nvme c.ctrl c.q c.id c.op c.ns c.lba c.blocks (nvFua c) c.data)
      { s with stp := { s.stp with cmds := s.stp.cmds.map (fun e => if e.id = c.id then { e with sent := true } else e) } }
  else s

/-- The Abort of a command that has timed out goes to its controller when the admin queue has room for it (R311, R313);
nothing else stays in that queue, since the model lets every other admin command complete at once. -/
def nvAbort (s : State) (c : NvCmd) : State :=
  if c.aborting && !c.abortSent && decide ((s.stp.cmds.filter (fun e => e.abortSent && decide (e.ctrl = c.ctrl))).length < 16) then
    emit (.nvmeAdmin c.ctrl 0x08 c.id) { s with stp := { s.stp with
      cmds := s.stp.cmds.map (fun e => if e.id = c.id then { e with abortSent := true } else e) } }
  else s

/-- Every held Abort and command that may be issued is issued, oldest first (R312). -/
def nvPump (s : State) : State :=
  let s := s.stp.cmds.foldl nvAbort s
  s.stp.cmds.foldl nvSend s

/-- The engine accepts a transfer of `blocks` blocks and splits it into commands of at most min(MDTS, 128 KiB)
(R312); the bound is the number of blocks. -/
def nvAccept : Nat → Nat → Nat → Nat → Nat → Nat → Nat → Nat → NvFor → List Byte → State → State
  | 0, _, _, _, _, _, _, _, _, _, s => s
  | k + 1, ctrl, q, op, ns, lba, blocks, off, use, data, s =>
    if blocks = 0 then s else
    let n := min blocks (max 1 (min 32 (nvCtrl s ctrl).mdts))
    let c : NvCmd := { id := s.stp.nextId, ctrl := ctrl, q := q, op := op, ns := ns, lba := lba, blocks := n, off := off
                       use := use, data := data.take (4096 * n), sent := false, aborting := false, abortSent := false }
    nvAccept k ctrl q op ns (lba + n) (blocks - n) (off + n) use (data.drop (4096 * n))
      { s with stp := { s.stp with cmds := s.stp.cmds ++ [c], nextId := s.stp.nextId + 1 } }

/-- A transfer is accepted and as much of it issued as may be. -/
def nvTransfer (ctrl q op ns lba blocks : Nat) (use : NvFor) (data : List Byte) (s : State) : State :=
  nvPump (nvAccept blocks ctrl q op ns lba blocks 0 use data s)

/-- A command leaves the engine. -/
def nvDone (id : Nat) (s : State) : State :=
  { s with stp := { s.stp with cmds := s.stp.cmds.filter (fun c => decide (c.id ≠ id)) } }

end Sys2Proof.Machine
end

