-- ==== Sys2Proof/Machine/Ledger.lean ====
section
/-! DEFINITION. Ledger: tile descriptors, requests and their outcomes, the ledger's entries and transitions
(R242-R258, R268-R275). -/

namespace Sys2Proof.Machine

/-! ### Descriptors (Tables 7.2, 7.4) -/

/-- A field of a descriptor word. -/
def dw (w : List W32) (i lo len : Nat) : Nat := fld (w.getD i 0) lo len
def dTile (w : List W32) : W32 := w.getD 0 0
/-- Half bytes of an element; 0 for a format that does not exist. -/
def dNib (w : List W32) : Nat := match fmtOf (dw w 2 0 4) with
  | some f => fmtNibbles f
  | none => 0
def dRows (w : List W32) : Nat := dw w 2 8 12
def dCols (w : List W32) : Nat := dw w 2 20 12
/-- `B` of R246. -/
def dBytes (w : List W32) : Nat := (dRows w * dCols w * dNib w + 127) / 128 * 64
def dLines (w : List W32) : Nat := dBytes w / 64
def dRsrc (w : List W32) : Nat := dw w 3 0 3
def dArg (w : List W32) : Nat := dw w 3 8 24
def dLba (w : List W32) : Nat := dw w 6 16 16 + 2 ^ 16 * dw w 7 0 24
def dCtrl (w : List W32) : Nat := dw w 7 24 2
def dNs (w : List W32) : Nat := dw w 7 26 4

/-- The address field of a tier and its none value (R247). -/
def dField (w : List W32) (t : Nat) : Nat :=
  match t with
  | 0 => dw w 6 0 16
  | 1 => dw w 5 2 19
  | 2 => dw w 4 0 32 + 2 ^ 32 * dw w 5 0 2
  | _ => dLba w
def dNone (t : Nat) : Nat :=
  match t with
  | 0 => 0xFFFF
  | 1 => 0x7FFFF
  | 2 => 0x3FFFFFFFF
  | _ => 0xFFFFFFFFFF
def hasTier (w : List W32) (t : Nat) : Bool := decide (dField w t ≠ dNone t)
/-- Byte address of the copy in a tier above flash. -/
def dAddr (w : List W32) (t : Nat) : Nat := 64 * dField w t

/-- The nearest tier below `t` whose address is not none (R252). -/
def tierBelow (w : List W32) (t : Nat) : Option Nat := ([1, 2, 3].filter (fun u => decide (t < u))).find? (hasTier w)

/-- Tag lines, and blocks, of a flash image of `n` data lines (R244). -/
def tagLines (n : Nat) : Nat := (n + 127) / 128
def imageBlocks (n : Nat) : Nat := (n + tagLines n + 1 + 63) / 64

/-- Whether a tier address places the tile within the tier (R247, R289, R310). -/
def addrOk (s : State) (w : List W32) (t : Nat) : Bool :=
  let b := dBytes w
  if t = 3 then
    if hasTier w 3 then nsHolds s (dCtrl w) (dNs w) (dLba w) (imageBlocks (dLines w)) else decide (dCtrl w = 0 ∧ dNs w = 0)
  else if !(hasTier w t) then true
  else match t with
    | 0 => decide (dAddr w 0 + b ≤ 0x300000)
    | 1 => decide (dAddr w 1 + b ≤ 0x1800000)
    | _ => decide (dAddr w 2 + b ≤ hbmEnd ∧ dAddr w 2 / 2 ^ 31 = (dAddr w 2 + b - 1) / 2 ^ 31)

/-- Whether the recovery source and its argument are legal (Table 7.3). -/
def rsrcOk (w : List W32) : Bool :=
  let a := dArg w
  match dRsrc w with
  | 0 => a = 0
  | 1 => a < 65536 && hasTier w 2
  | 2 => a < 256
  | 3 => a < 65536 && hasTier w 2
  | 4 => a = 0 && hasTier w 2 && hasTier w 3
  | 5 => a = 0 && hasTier w 2
  | _ => false

def ctlAction (c : W32) : Nat := fld c 0 4
def ctlTier (c : W32) : Nat := fld c 4 2
def ctlAct (c : W32) : Bool := bit c 6
def ctlCluster (c : W32) : Nat := fld c 8 3
def ctlLanes (c : W32) : Nat := fld c 16 8
def ctlLayer (c : W32) : Nat := fld c 24 8

/-- A move record that passes R255; `mask` is the ephemeris cluster mask for a record of an ephemeris. -/
def recordOk (s : State) (mask : Option Nat) (w : List W32) (c : W32) : Bool :=
  let a := ctlAction c
  let t := ctlTier c
  let fromEph := mask.isSome
  (w.drop 8).all (fun x => x = 0)
  && decide (dw w 3 4 4 = 0 ∧ dw w 5 21 11 = 0 ∧ dw w 7 30 2 = 0 ∧ fld c 7 1 = 0 ∧ fld c 11 5 = 0)
  && decide (dw w 2 0 4 ≤ 5 ∧ 1 ≤ dRows w ∧ 1 ≤ dCols w ∧ dBytes w ≤ 0x40000)
  && [0, 1, 2, 3].all (addrOk s w) && rsrcOk w
  && decide (1 ≤ a ∧ a ≤ 6) && hasTier w t
  && (match mask with
      | some m => decide (m / 2 ^ ctlCluster c % 2 = 1)
      | none => true)
  && (if t = 0 then !fromEph && (decide (a = 1) || (decide (a = 5) && decide ((maskLanes (ctlLanes c)).length = 1)))
      else decide (ctlLanes c = 0))
  && (if a = 3 ∨ a = 6 then true else decide (t < 3) && (tierBelow w t).isSome)

/-- A move record: its descriptor's eight words followed by its reserved words, and its control word (R250). -/
def moveRecord (bs : List Byte) : List W32 × W32 :=
  let word := fun (i : Nat) => BitVec.ofNat 32 (leNat ((bs.drop (4 * i)).take 4))
  (((List.range 16).filter (fun i => decide (i ≠ 8))).map word, word 8)

/-- A descriptor list as it is read (R250, R593): a record in a failing sector, and every record of a list that is
misaligned or leaves HBM, is none. -/
def readList (hs : List Hit) (addr count : Nat) (s : State) : List (Option (List W32 × W32) × Nat) × State :=
  if hbmRangeBad addr (64 * count) then ((List.range count).map (fun i => (none, i)), s)
  else
    let r := readStruct hs addr (64 * count) s
    ((List.range count).map (fun i =>
      (if r.1.contains (addr / 64 + i) then none else some (moveRecord (sectorData r.2 (addr / 64 + i))), i)), r.2)

/-! ### Outcomes (R256, R257, R265) -/

def unitMover (d : Nat) : W32 := unitDie d 5 0
def unitLedger (d : Nat) : W32 := unitDie d 10 0

/-- Whether an outcome is DONE or RECOVERED. -/
def goodOut (o : Nat) : Bool := decide (o < 2)

/-- The ephemeris of a die halts at an entry (R265). -/
def haltEph (d entry out : Nat) (tile : W32) (s : State) : State :=
  let x := dieOf s d
  match x.eph with
  | none => s
  | some e =>
    let s := setDie s d { x with ephState := 3, failedEntry := entry, runs := x.runs.map (fun r => { r with todo := [] }) }
    (maskLanes e.mask).foldl (fun s c =>
      let k := clOf s (8 * d + c)
      if k.prog.isSome then
        trap (8 * d + c) 2 { pc := k.pc, tile := tile, d1 := BitVec.ofNat 32 out, d2 := 3, d3 := BitVec.ofNat 32 entry } s
      else s) s

/-- A record of an issued ephemeris entry has ended; any outcome but DONE or RECOVERED halts its ephemeris (R264,
R265). -/
def ephEnd (d no out : Nat) (tile : W32) (s : State) : State :=
  let x := dieOf s d
  match x.runs.find? (fun r => r.no = no) with
  | none => s
  | some r =>
    if goodOut out then
      setDie s d { x with runs := (x.runs.map (fun q => if q.no = no then { q with left := q.left - 1 } else q)).filter
                            (fun q => decide (q.left ≠ 0)) }
    else if x.ephState = 3 ∨ r.idx = 0xFFFF then s
    else haltEph d r.idx out tile s

/-- A record of a TMOVE has ended (R257). -/
def tmoveEnd (cl iid idx out : Nat) (tile : W32) (s : State) : State :=
  let d := cl / 8
  let x := dieOf s d
  match x.tmoves.find? (fun t => t.cl = cl ∧ t.iid = iid) with
  | none => s
  | some t =>
    let left := t.left - 1
    let bad := t.bad || !(goodOut out)
    let ins := (clOf s cl).issued.find? (fun i => i.iid = iid)
    let s := if left = 0 then
        let s := setDie s d { x with tmoves := x.tmoves.filter (fun u => decide (¬(u.cl = cl ∧ u.iid = iid))) }
        if bad then laneCut cl iid 8 s else laneDone cl iid 8 s
      else setDie s d { x with tmoves := x.tmoves.map (fun u => if u.cl = cl ∧ u.iid = iid then { t with left := left, bad := bad } else u) }
    if goodOut out then s else
    match ins with
    | some i => trap cl 2 { pc := i.pc, op := opRec i.word, tile := tile, d1 := BitVec.ofNat 32 out, d2 := 2
                            d3 := BitVec.ofNat 32 idx } s
    | none => s

/-- A record of a TILE_MOVE has ended: REQUEST_FAILED when it failed, and the command completes with the last one
(R257). -/
def tileMoveEnd (no idx out : Nat) (tile ctl : W32) (s : State) : State :=
  match findCmd s no with
  | none => s
  | some c => match c.work with
    | .tileMove d todo left bad =>
      let s := if goodOut out then s else
        record { unit := unitMover d, cls := 0x0304, outcome := out, tile := tile, d1 := BitVec.ofNat 32 idx
                 d2 := BitVec.ofNat 32 (cmdTag c.word + 65536 * c.strm), d3 := ctl } s
      let bad := bad || !(goodOut out)
      if left ≤ 1 then completeCmd no (okTok (!bad)) s else setWork no (.tileMove d todo (left - 1) bad) s
    | _ => s

/-- A request ends with an outcome (R256, R257). -/
def endReq (r : Req) (out : Nat) (s : State) : State :=
  match r.issuer with
  | .eph d e => ephEnd d e out (dTile r.w) s
  | .tmove cl iid => tmoveEnd cl iid r.idx out (dTile r.w) s
  | .cmd no => tileMoveEnd no r.idx out (dTile r.w) r.ctl s
  | .ledger _ _ => s

def endReqs (rs : List Req) (out : Nat) (s : State) : State := rs.foldl (fun s r => endReq r out s) s

/-- The unit id of a request's issuer (R275). -/
def issuerUnit (s : State) (i : Issuer) : W32 :=
  match i with
  | .eph d _ => unitMover d
  | .tmove cl _ => unitSeq cl
  | .cmd no => unitIngest (((findCmd s no).map (fun c => c.strm)).getD 0)
  | .ledger d _ => unitLedger d

/-! ### Entries -/

def entryOf (s : State) (d i : Nat) : Option LEntry := (dieOf s d).ledger.find? (fun e => e.idx = i)

def setEntry (d : Nat) (e : LEntry) (s : State) : State :=
  let x := dieOf s d
  setDie s d { x with ledger := x.ledger.map (fun y => if y.idx = e.idx then e else y) }

/-- An entry is released: nothing refers to it any more. -/
def delEntry (d i : Nat) (s : State) : State :=
  let x := dieOf s d
  let s := setDie s d { x with ledger := x.ledger.filter (fun y => decide (y.idx ≠ i)) }
  let s := { s with die := s.die.mapV (fun y => { y with xreq := y.xreq.filter (fun k => decide (k ≠ 2048 * d + i)) }) }
  { s with stp := { s.stp with
      cmds := s.stp.cmds.map (fun c => match c.use with
        | .tile d' i' _ => if d' = d ∧ i' = i then { c with use := .orphan } else c
        | _ => c)
      staged := s.stp.staged.filter (fun p => decide (p.1 / 4096 ≠ 2048 * d + i)) } }

/-- The lowest free entry index. -/
def freeIdx (x : Die) : Nat := ((List.range 2048).find? (fun i => x.ledger.all (fun e => decide (e.idx ≠ i)))).getD 2047

/-- A new entry for a copy, with nothing under way. -/
def newEntry (x : Die) (r : Req) (tier : Nat) : LEntry where
  idx := freeIdx x
  tile := dTile r.w
  tier := tier
  cl := if tier = 2 then 15 else ctlCluster r.ctl
  lanes := if tier = 0 then r.lanes else 0
  state := .resident
  addr := dAddr r.w tier
  ver := r.ver
  desc := r.w
  pins := 0
  reads := 0
  waiters := []
  wbs := []
  wbRun := false
  evict := none
  fill := false
  temp := false
  src := .none
  srcStamp := 0
  stage := false
  staged := none
  recov := 0
  holder := 0
  askedQ := false
  fetched := []
  supplied := false
  recovered := false
  wbRec := 0
  evRec := false
  failTier := 0
  used := x.ldgClock

/-- An entry joins the ledger of a die, in index order of use. -/
def addEntry (d : Nat) (e : LEntry) (s : State) : State :=
  let x := dieOf s d
  setDie s d { x with ledger := x.ledger ++ [e], ldgClock := x.ldgClock + 1 }

/-- The entry that tracks a copy (R268); a scratchpad delivery is keyed by its request. -/
def findCopy (x : Die) (tile : W32) (tier cl : Nat) : Option LEntry :=
  if tier = 0 then none
  else x.ledger.find? (fun e => e.tile = tile ∧ e.tier = tier ∧ (tier = 2 ∨ e.cl = cl))

/-- Whether an entry may be released for a new request (Table 7.10). -/
def idleEntry (e : LEntry) : Bool :=
  decide (e.state = .resident ∧ e.pins = 0 ∧ e.reads = 0 ∧ e.waiters = [] ∧ e.wbs = [] ∧ e.recov = 0)

/-- The least recently used releasable entry. -/
def oldestIdle (x : Die) : Option LEntry :=
  (x.ledger.filter idleEntry).foldl (fun m e => match m with
    | none => some e
    | some o => if e.used < o.used then some e else some o) none

/-- Room for `n` more entries below a limit, releasing entries that are not needed (R268, Table 7.10). -/
def makeRoom : Nat → Nat → Nat → Nat → State → Option State
  | 0, d, limit, n, s => if (dieOf s d).ledger.length + n ≤ limit then some s else none
  | k + 1, d, limit, n, s =>
    if (dieOf s d).ledger.length + n ≤ limit then some s
    else match oldestIdle (dieOf s d) with
      | some e => makeRoom k d limit n (delEntry d e.idx s)
      | none => none

def roomFor (d limit n : Nat) (s : State) : Option State := makeRoom (dieOf s d).ledger.length d limit n s

/-- The contents that a failed fill leaves in its destination are undefined: free data, under codes and tags of their own
(Table 7.10; log 5). -/
def scrambleDest (d : Nat) (e : LEntry) (s : State) : State :=
  let (bs, s) := drawBytes (dBytes e.desc) s
  let (ts, s) := drawBytes (dLines e.desc) s
  let line := fun (i : Nat) => (bs.drop (64 * i)).take 64
  let tag := fun (i : Nat) => (ts.getD i 0).toNat % 5
  let ls := List.range (dLines e.desc)
  match e.tier with
  | 0 => (maskLanes e.lanes).foldl (fun s l => match laneCore (clOf s (8 * d + e.cl)) (8 * d + e.cl) l with
    | some k => setCore s k (ls.foldl (fun c i => spadWrite c
        { line := e.addr / 64 + i, tag := tag i, upd := (List.range 64).map (fun b => (b, (line i).getD b 0)) }) (coreOf s k))
    | none => s) s
  | 1 => setCl s (8 * d + e.cl) (ls.foldl (fun c i => plateLine c (e.addr / 64 + i) (tag i) (line i)) (clOf s (8 * d + e.cl)))
  | _ => ls.foldl (fun s i =>
      let (w, s) := drawWord s
      let n := e.addr / 64 + i
      queueWrite n { s with hbm := s.hbm.writes (64 * n) (line i), hbmCk := s.hbmCk.put n w }) s

/-- A source copy is read no longer by one move (R271). -/
def dropRead (d i : Nat) (s : State) : State :=
  match entryOf s d i with
  | some e => setEntry d { e with reads := e.reads - 1 } s
  | none => s

/-- The FILLING entries that read from an entry. -/
def readersOf (s : State) (d i : Nat) : List (Nat × Nat) :=
  ((List.range 4).map (fun k => ((dieOf s k).ledger.filter (fun e => match e.src with
    | .entry _ d' i' => decide (d' = d ∧ i' = i)
    | _ => false)).map (fun e => (k, e.idx)))).flatten

/-- An entry fails: its waiters and write-backs, and every fill that reads from it, take the outcome; pins are dropped, and
the destination range of a fill is undefined unless the request was never taken up (Table 7.10, R274). The bound is the
number of tiers. -/
def failEntry' : Nat → Nat → Nat → Nat → State → State
  | 0, _, _, _, s => s
  | k + 1, d, i, out, s =>
    match entryOf s d i with
    | none => s
    | some e =>
      let rs := readersOf s d i
      let s := match e.src with
        | .entry _ d' i' => dropRead d' i' s
        | _ => s
      let s := if (e.fill || decide (e.state = .filling)) && decide (out ≠ 5) then scrambleDest d e s else s
      let s := endReqs (e.waiters ++ e.wbs) out (delEntry d i s)
      rs.foldl (fun s r => failEntry' k r.1 r.2 out s) s

def failTile (d i out : Nat) (s : State) : State := failEntry' 4 d i out s

/-! ### Requests -/

/-- Whether two byte ranges meet. -/
def meets (a n b m : Nat) : Bool := decide (a < b + m ∧ b < a + n)

/-- The copies of other tiles that a promotion's destination overlaps (R270). -/
def overlapped (x : Die) (r : Req) (t : Nat) : List LEntry :=
  x.ledger.filter (fun e => decide (e.tile ≠ dTile r.w ∧ e.tier = t) && (t = 2 || decide (e.cl = ctlCluster r.ctl))
    && meets (dAddr r.w t) (dBytes r.w) e.addr (dBytes e.desc) && (t ≠ 0 || decide (Nat.land e.lanes r.lanes ≠ 0)))

/-- Whether a copy is FILLING, DRAINING or read (R270). -/
def busyCopy (e : LEntry) : Bool := e.fill || decide (e.recov ≠ 0) || decide (e.state = .draining) || decide (0 < e.reads)

/-- A promotion takes a read on a source copy (R271): the copy's entry, or a new one for the time of the read. The ledger's
clock before it is the read's stamp. -/
def takeSource (d st : Nat) (r : Req) (s : State) : Nat × State :=
  let x := dieOf s d
  match findCopy x (dTile r.w) st (ctlCluster r.ctl) with
  | some e => (e.idx, setEntry d { e with reads := e.reads + 1, used := x.ldgClock } (setDie s d { x with ldgClock := x.ldgClock + 1 }))
  | none =>
    let e := { newEntry x r st with reads := 1, temp := true }
    (e.idx, addEntry d e s)

/-- A pin added, at most 255 (R269). -/
def pinIf (r : Req) (e : LEntry) : LEntry := if r.act = 2 then { e with pins := min 255 (e.pins + 1) } else e

/-- NVMe Reads of a tile's flash image for an entry. -/
def readImage (d i : Nat) (w : List W32) (s : State) : State :=
  nvTransfer (dCtrl w) (d + 1) 2 (dNs w) (dLba w) (imageBlocks (dLines w)) (.tile d i false) [] s

/-- What becomes of a request at a ledger: it takes effect, it waits for a copy, or it waits for an entry (R268, R270). -/
inductive Tried where
  | ok (s : State)
  | wait
  | room

/-- A promotion of an ABSENT copy (R270, R271, Table 7.10). `full`: an earlier promotion waits for an entry, so that this
one waits behind it (R268). -/
def startPromote (d t : Nat) (full : Bool) (r : Req) (s : State) : Tried :=
  let x := dieOf s d
  let ovl := overlapped x r t
  if ovl.any busyCopy then .wait
  else
    let st := (tierBelow r.w t).getD 3
    let home := if st = 2 then homeDie (dAddr r.w 2) else d
    let copy := findCopy x (dTile r.w) st (ctlCluster r.ctl)
    let isLocal := decide (st < 3 ∧ home = d)
    if isLocal && copy.any (fun e => decide (e.addr ≠ dAddr r.w st)) then .ok (endReq r 5 s)
    else if ovl.any (fun e => decide (0 < e.pins)) then .ok (endReq r 6 s)
    else if full then .room
    else
      let s := ovl.foldl (fun s e => delEntry d e.idx s) s
      let s := if isLocal && copy.isSome then (takeSource d st r s).2 else s
      match roomFor d 1792 (1 + b2n (isLocal && copy.isNone)) s with
      | none => .room
      | some s =>
        let p := match copy with
          | some c => (c.idx, s)
          | none => if isLocal then takeSource d st r s else (0, s)
        let s := p.2
        let y := dieOf s d
        let e := pinIf r { newEntry y r t with state := .filling, fill := true, waiters := [{ r with stamp := y.ldgClock }] }
        if st = 3 then .ok (addEntry d { e with src := .flash } s)
        else if isLocal then .ok (addEntry d { e with src := .entry st d p.1, srcStamp := y.ldgClock - 1 } s)
        else
          let s := addEntry d e s
          let y := dieOf s home
          .ok (setDie s home { y with xreq := y.xreq ++ [2048 * d + e.idx] })

/-- A request on an ABSENT copy that takes an entry for its drain or write-back (R254, Table 7.10). -/
def startDrain (d t : Nat) (r : Req) (s : State) : Tried :=
  match roomFor d 2048 1 s with
  | none => .wait
  | some s =>
    let y := dieOf s d
    let r := { r with stamp := y.ldgClock }
    let e := newEntry y r t
    .ok (addEntry d (if t = 0 then { e with temp := true, reads := 1, wbs := [r] }
      else if r.act = 4 then { e with state := .draining, evict := some r, waiters := [r] }
      else { e with reads := 1, wbs := [r] }) s)

/-- Drop requests among waiters. -/
def isDrop (r : Req) : Bool := decide (4 ≤ r.act)

/-- A request on a tracked copy (Table 7.10). -/
def onCopy (d : Nat) (e : LEntry) (r : Req) (s : State) : State :=
  let x := dieOf s d
  let s := setDie s d { x with ldgClock := x.ldgClock + 1 }
  let e := { e with used := x.ldgClock }
  let r := { r with stamp := x.ldgClock }
  if r.act = 3 then
    if e.pins = 0 ∨ e.state = .draining then endReq r 5 s
    else endReq r 0 (setEntry d { e with pins := e.pins - 1 } s)
  else if r.act ≤ 2 then
    let e := pinIf r { e with temp := false }
    match e.state with
    | .filling => setEntry d { e with waiters := e.waiters ++ [r] } s
    | .resident => endReq r 0 (setEntry d e s)
    | .draining =>
      let w := e.waiters
      endReq r 0 (endReqs w 0 (setEntry d { e with
        state := .resident, waiters := [], evict := none, wbRun := false, stage := false, evRec := false } s))
    | .deferred =>
      let w := e.waiters.filter isDrop
      let keep := e.waiters.filter (fun q => !isDrop q)
      if e.fill ∨ e.recov ≠ 0 then
        endReqs w 0 (setEntry d { e with state := .filling, waiters := keep ++ [r], evict := none, evRec := false } s)
      else endReq r 0 (endReqs w 0 (setEntry d { e with state := .resident, waiters := keep, evict := none, evRec := false } s))
  else
    let ev := if r.act = 4 then some r else none
    match e.state with
    | .filling =>
      if r.act = 5 then setEntry d { e with wbs := e.wbs ++ [r], reads := e.reads + 1 } s
      else setEntry d { e with state := .deferred, evict := ev, waiters := e.waiters ++ [r] } s
    | .resident =>
      if r.act = 5 then setEntry d { e with wbs := e.wbs ++ [r], reads := e.reads + 1 } s
      else if e.pins = 0 ∧ e.reads = 0 then
        if r.act = 4 then setEntry d { e with state := .draining, evict := some r, waiters := [r] } s
        else endReq r 0 (delEntry d e.idx s)
      else setEntry d { e with state := .deferred, evict := ev, waiters := [r] } s
    | .draining => setEntry d { e with waiters := e.waiters ++ [r] } s
    | .deferred =>
      setEntry d { e with waiters := e.waiters ++ [r], evict := if r.act = 6 then e.evict else some r } s

/-- A request takes effect at a ledger, or must wait. -/
def tryReq (d : Nat) (full : Bool) (r : Req) (s : State) : Tried :=
  let t := ctlTier r.ctl
  let x := dieOf s d
  if t = 0 then (if r.act = 1 then startPromote d 0 full r s else startDrain d 0 r s)
  else match findCopy x (dTile r.w) t (ctlCluster r.ctl) with
    | some e => .ok (if e.addr = dAddr r.w t then onCopy d e r s else endReq r 5 s)
    | none =>
      if r.act ≤ 2 then startPromote d t full r s
      else if r.act = 3 then .ok (endReq r 5 s)
      else if r.act = 6 ∨ t = 3 then .ok (endReq r 0 s)
      else startDrain d t r s

/-- Whether two requests are on one copy. -/
def sameCopy (a b : Req) : Bool :=
  let t := ctlTier a.ctl
  decide (0 < t ∧ ctlTier b.ctl = t ∧ dTile a.w = dTile b.w) && (t ≠ 1 || decide (ctlCluster a.ctl = ctlCluster b.ctl))

/-- The ledger that tracks the copy of a request: of the home die for an HBM copy (R273). -/
def ledgerOf (d : Nat) (r : Req) : Nat := if ctlTier r.ctl = 2 then homeDie (dAddr r.w 2) else d

/-- A request that has passed its checks reaches its ledger; it waits behind an earlier request on the same copy, and a
promotion behind an earlier one that waits for an entry (R255, R268). -/
def reqArrives (d : Nat) (r : Req) (s : State) : State :=
  let l := ledgerOf d r
  let x := dieOf s l
  if x.waiting.any (sameCopy r) then setDie s l { x with waiting := x.waiting ++ [r] }
  else match tryReq l (x.waiting.any (fun q => q.room)) r s with
    | .ok s => s
    | .wait => setDie s l { x with waiting := x.waiting ++ [r] }
    | .room => setDie s l { x with waiting := x.waiting ++ [{ r with room := true }] }

/-- The version tag of a move (R248). -/
def moveVer (s : State) (d : Nat) (w : List W32) : W32 :=
  let st := if bit (w.getD 3 0) 3 then ((dieOf s d).step + dw w 1 0 24) % 2 ^ 24 else dw w 1 0 24
  BitVec.ofNat 32 (at_ (dw w 1 24 8) 24 8 + st)

/-- Whether a layer is marked keep in the ephemeris in force (R253). -/
def keepLayer (s : State) (d l : Nat) : Bool :=
  match (dieOf s d).eph with
  | some e => decide (e.keep / 2 ^ l % 2 = 1)
  | none => false

/-- The ledger accepts a record as a request (R253-R255). -/
def acceptRecord (d : Nat) (i : Issuer) (mask : Option Nat) (before : Nat) (m : Option (List W32 × W32)) (idx : Nat)
    (s : State) : State :=
  match m with
  | none =>
    endReq { issuer := i, idx := idx, w := [0xFFFFFFFF#32], ctl := 0, ver := 0, act := 0, lanes := 0, before := 0
             stamp := 0, room := false } 5 s
  | some (w, ctl) =>
    let a := ctlAction ctl
    let drop := ctlAct ctl && !(keepLayer s d (ctlLayer ctl))
    let r : Req := { issuer := i, idx := idx, w := w.take 8, ctl := ctl, ver := moveVer s d w
                     act := if drop && a = 4 then 6 else a
                     lanes := Nat.land (ctlLanes ctl) (laneMask (clOf s (8 * d + ctlCluster ctl))), before := before
                     stamp := 0, room := false }
    if !(recordOk s mask w ctl) then endReq r 5 s
    else if (dieOf s d).mover.st = 2 then endReq r 2 s
    else if ctlTier ctl = 0 ∧ r.lanes = 0 then endReq r (if a = 1 then 0 else 5) s
    else if drop && a = 5 then endReq r 0 s
    else reqArrives d r s

/-! ### Staging (R278, R279) -/

/-- The physical core whose scratchpad a TIER 0 WRITEBACK reads (R254). -/
def wbCore (s : State) (d : Nat) (e : LEntry) (r : Req) : Option Nat :=
  laneCore (clOf s (8 * d + e.cl)) (8 * d + e.cl) ((maskLanes r.lanes).headD 15)

/-- Whether a scratchpad may be read for a write-back: earlier instructions of the lane are released and no line
carries a write mark (R254, R327). -/
def wbReady (s : State) (d : Nat) (e : LEntry) (r : Req) : Bool :=
  let lane := (maskLanes r.lanes).headD 15
  (clOf s (8 * d + e.cl)).issued.all (fun i => decide (r.before ≤ i.iid) || !(i.owed.contains lane))
  && (match wbCore s d e r with
      | some k => (lineRange e.addr (dBytes e.desc)).all (fun l => ((coreOf s k).wmark.find l).isNone)
      | none => false)

/-- The drain of an entry that may run: the request whose copy is written to its target (R258, R272). -/
def drainOf (s : State) (d : Nat) (e : LEntry) : Option Req :=
  if e.fill ∨ e.recov ≠ 0 then none
  else match e.state with
    | .draining => e.evict
    | _ => match e.wbs with
      | r :: _ => if e.tier = 0 ∧ !(wbReady s d e r) then none else some r
      | [] => none

/-- The target tier of a request's drain. -/
def drainTo (e : LEntry) (r : Req) : Nat := (tierBelow r.w e.tier).getD 3

/-- Bytes of a die's staging that moves have reserved; a move reserves in the die whose ledger holds its entry. -/
def stagingUsed (x : Die) : Nat := ((x.ledger.filter (fun e => e.stage)).map (fun e => dBytes e.desc)).sum

/-- Whether a source copy may be read: it is not being filled or recovered (R271). -/
def srcReady (s : State) (e : LEntry) : Bool :=
  match e.src with
  | .entry _ d i => match entryOf s d i with
    | some f => !f.fill && decide (f.recov = 0)
    | none => false
  | .flash => true
  | .none => false

/-- Whether a move of an entry is to read its source and has no staging yet: a fill, a recovery from flash, a drain. -/
def wantsStage (s : State) (d : Nat) (e : LEntry) : Bool :=
  !e.stage && (decide (e.recov = 4)
    || (e.fill && e.staged.isNone && decide (e.recov = 0) && srcReady s e)
    || ((drainOf s d e).isSome && (decide (e.state ≠ .draining) || decide (e.reads = 0))))

/-- One entry reserves its staging if no earlier one waits for room; the NVMe Reads of a flash image follow. -/
def stageOne (d : Nat) (a : Bool × State) (i : Nat) : Bool × State :=
  match entryOf a.2 d i with
  | none => a
  | some e =>
    if a.1 || !(wantsStage a.2 d e) then a
    else if stagingUsed (dieOf a.2 d) + dBytes e.desc ≤ 0x400000 then
      let s := setEntry d { e with stage := true } a.2
      (false, if e.recov = 4 ∨ (e.fill ∧ e.src = .flash) then readImage d i e.desc s else s)
    else (true, a.2)

/-- Staging of a die is reserved in the order in which the ledger took the entries (R279). -/
def stageDie (d : Nat) (s : State) : State :=
  (((dieOf s d).ledger.map (fun e => e.idx)).foldl (stageOne d) (false, s)).2

/-! ### What follows a change -/

/-- A deferred drop whose conditions hold proceeds, and an entry taken for one read is released (Table 7.10, R271). -/
def settleEntry (d i : Nat) (s : State) : State :=
  match entryOf s d i with
  | none => s
  | some e =>
    if e.state = .deferred ∧ !e.fill ∧ e.recov = 0 ∧ e.pins = 0 ∧ e.reads = 0 then
      match e.evict with
      | some _ =>
        endReqs (e.waiters.filter (fun r => r.act = 6)) 0
          (setEntry d { e with state := .draining, waiters := e.waiters.filter (fun r => decide (r.act ≠ 6)) } s)
      | none => endReqs e.waiters 0 (delEntry d i s)
    else if e.temp ∧ e.state = .resident ∧ e.pins = 0 ∧ e.reads = 0 ∧ e.waiters = [] ∧ e.recov = 0 then delEntry d i s
    else s

/-- Waiting requests are tried in order of arrival; one behind another on the same copy keeps its place, and so does a
promotion behind one that waits for an entry (R255, R268, R270). -/
def retryWaiting (d : Nat) : List Req → List Req → State → List Req × State
  | [], kept, s => (kept, s)
  | r :: rs, kept, s =>
    if kept.any (sameCopy r) then retryWaiting d rs (kept ++ [r]) s
    else match tryReq d (kept.any (fun q => q.room)) r s with
      | .ok s => retryWaiting d rs kept s
      | .wait => retryWaiting d rs (kept ++ [{ r with room := false }]) s
      | .room => retryWaiting d rs (kept ++ [{ r with room := true }]) s

/-- One pass over a die's ledger. -/
def ledgerPass (s : State) (d : Nat) : State :=
  let s := stageDie d s
  let s := ((dieOf s d).ledger.map (fun e => e.idx)).foldl (fun s i => settleEntry d i s) s
  let w := (dieOf s d).waiting
  let r := retryWaiting d w [] (setDie s d { dieOf s d with waiting := [] })
  setDie r.2 d { dieOf r.2 d with waiting := r.1 ++ (dieOf r.2 d).waiting }

/-- The ledgers after a change: passes over the four dies, one for each thing that may follow. -/
def ledgerGo (s : State) : State :=
  let n := ((List.range 4).map (fun d => (dieOf s d).waiting.length + (dieOf s d).ledger.length)).sum
  (List.range (n + 1)).foldl (fun s _ => (List.range 4).foldl ledgerPass s) s

end Sys2Proof.Machine
end

