-- ==== Sys2Proof/Machine/Special.lean ====
section
/-! DEFINITION. Special: the correctly rounded special functions of Table 5.4 and of VDERIV, and the results that lie
within their error bounds (R200, R208, log 14). Arithmetic is in fixed point with 320 fractional bits. -/

namespace Sys2Proof.Machine

/-- One in fixed point. -/
def fxOne : Int := 2 ^ 320

def fxMul (a b : Int) : Int := a * b / fxOne
def fxDiv (a b : Int) : Int := a * fxOne / b

/-- Sum of c^k / (2k + 1) for k below n, by Horner's rule. -/
def fxOddSum : Nat → Nat → Int → Int
  | 0, _, _ => 0
  | n + 1, k, c => fxOne / (2 * k + 1 : Nat) + fxMul c (fxOddSum n (k + 1) c)

/-- The inverse hyperbolic tangent of |z| ≤ 1/3. -/
def fxAtanh (z : Int) : Int := fxMul z (fxOddSum 110 0 (fxMul z z))

/-- The arc tangent of 1/k. -/
def fxAtanInv (k : Int) : Int := fxMul (fxOne / k) (fxOddSum 110 0 (-(fxOne / (k * k))))

/-- The natural logarithm of 2. -/
def fxLn2 : Int := 2 * fxAtanh (fxOne / 3)

/-- π, by Machin's formula. -/
def fxPi : Int := 16 * fxAtanInv 5 - 4 * fxAtanInv 239

/-- 1/√(2π). -/
def fxInvSqrt2Pi : Int := fxDiv fxOne (Nat.sqrt (2 * fxPi * fxOne).toNat)

/-- Sum of r^k k0! / (k0 + k)! for k up to n, by Horner's rule. -/
def fxExpSum : Nat → Nat → Int → Int
  | 0, _, _ => fxOne
  | n + 1, k, r => fxOne + fxMul r (fxExpSum n (k + 1) r) / (k + 1 : Nat)

/-- The exponential of x as mantissa and exponent. -/
def fxExp (x : Int) : Nat × Int :=
  let k := (x + fxLn2 / 2) / fxLn2
  ((fxExpSum 80 0 (x - k * fxLn2)).toNat, k - 320)

/-- The exponential of x ≤ 0 in fixed point. -/
def fxExpNeg (x : Int) : Int :=
  let (m, e) := fxExp x
  m / 2 ^ (-320 - e).toNat

/-- The logarithm of m * 2^e, for m ≠ 0. -/
def fxLn (m : Nat) (e : Int) : Int :=
  let l := Nat.log2 m
  let y : Int := (m * 2 ^ 320 / 2 ^ l : Nat)
  let half := decide (3 * y > 4 * fxOne)
  let y := if half then y / 2 else y
  2 * fxAtanh (fxDiv (y - fxOne) (y + fxOne)) + (e + l + (if half then 1 else 0)) * fxLn2

/-- The logarithm of 1 + t, for 0 ≤ t ≤ 1. -/
def fxLn1p (t : Int) : Int := 2 * fxAtanh (fxDiv t (2 * fxOne + t))

/-- 1 / (1 + e^(-x)). -/
def fxSigm (x : Int) : Int :=
  let t := fxExpNeg (-(x.natAbs : Int))
  fxDiv (if x < 0 then t else fxOne) (fxOne + t)

/-- Sum of the products c^k / (3 · 5 · … · (2k + 1)), by Horner's rule. -/
def fxErfSum : Nat → Nat → Int → Int
  | 0, _, _ => fxOne
  | n + 1, k, c => fxOne + fxMul c (fxErfSum n (k + 1) c) / (2 * k + 3 : Nat)

/-- The standard normal density and distribution function at |x| ≤ 16. -/
def fxNormal (x : Int) : Int × Int :=
  let c := fxMul x x
  let d := fxMul fxInvSqrt2Pi (fxExpNeg (-(c / 2)))
  (d, fxOne / 2 + fxMul d (fxMul x (fxErfSum (120 + 3 * (c / fxOne).toNat) 0 c)))

/-- A finite value in fixed point; exact for every FP32 value. -/
def fxOf (s : Bool) (m : Nat) (e : Int) : Int :=
  let v : Int := (m * 2 ^ (e + 320).toNat : Nat)
  if s then -v else v

/-- A number in fixed point as a value. -/
def fxVal (x : Int) : Fp := .fin (decide (x < 0)) x.natAbs (-320)

/-- The special functions on a finite operand before rounding: 0 VEXP, 1 VLOG (of a positive operand), 4 VTANH, 5 VSIGM,
6 VGELU, 7 VSILU, 8 VSOFTPLUS; and the factors of VDERIV: 105 softplus, through its output, 106 GELU, 107 SiLU. Beyond
200, or 16 for the normal distribution, the functions have reached their limits in FP32. -/
def specialRaw (n : Nat) (s : Bool) (m : Nat) (e : Int) : Fp :=
  let x := fxOf s m e
  let far := decide (200 * fxOne < (x.natAbs : Int))
  let wide := decide (16 * fxOne < (x.natAbs : Int))
  let a : Fp := .fin s m e
  let one : Fp := .fin false 1 0
  match n with
  | 0 => if far then (if s then fpZero else .inf false) else .fin false (fxExp x).1 (fxExp x).2
  | 1 => fxVal (fxLn m e)
  | 4 =>
    if far then .fin s 1 0 else
    let t := fxExpNeg (-2 * (x.natAbs : Int))
    .fin s (fxDiv (fxOne - t) (fxOne + t)).toNat (-320)
  | 5 => if far then (if s then fpZero else one) else fxVal (fxSigm x)
  | 6 => if wide then (if s then .fin true 0 0 else a) else fpMul a (fxVal (fxNormal x).2)
  | 7 => if far then (if s then .fin true 0 0 else a) else fpMul a (fxVal (fxSigm x))
  | 8 =>
    if far then (if s then fpZero else a)
    else fxVal ((if s then 0 else x) + fxLn1p (fxExpNeg (-(x.natAbs : Int))))
  | 105 =>
    if far then (if s then .inf true else one)
    else fpSub one (.fin false (fxExp (-x)).1 (fxExp (-x)).2)
  | 106 =>
    if wide then (if s then fpZero else one)
    else fxVal ((fxNormal x).2 + fxMul x (fxNormal x).1)
  | _ =>
    if far then (if s then fpZero else one)
    else fxVal (fxMul (fxSigm x) (fxOne + fxMul x (fxOne - fxSigm x)))

/-- The error bound in units in the last place (Table 5.4, Table 5.6). -/
def ulpBound : Nat → Nat
  | 0 => 1 | 1 => 1 | 2 => 1 | 3 => 1 | 4 => 2 | 5 => 2 | 6 => 4 | 7 => 3 | 8 => 2
  | 105 => 2 | 106 => 4 | _ => 3

/-- Whether `y` lies within `n` units in the last place of `x`, of the correctly rounded FP32 result `x`. -/
def withinUlp (n : Nat) (x y : Fp) : Bool :=
  match x, y with
  | .fin _ m e, .fin _ _ _ =>
    let q := if m = 0 then fmtEmin fFP32 else gridExp fFP32 m e
    !(fpLt (.fin false n q) (fpAbs (fpSub y x)))
  | _, _ => false

/-- What the engine's fixed procedure gives for function `n` of the operand `w`: a free value within the error bound of
the correctly rounded result `x` (R200, log 14). -/
def nearRounded (n : Nat) (w : W32) (x : Fp) : Fp :=
  let y := val32 (Config.special n w)
  if withinUlp (ulpBound n) x y then y else x

/-- A special function of a finite operand. -/
def specialFin (n : Nat) (s : Bool) (m : Nat) (e : Int) : Fp :=
  nearRounded n (bits32 (.fin s m e)) (rne32 (specialRaw n s m e))

end Sys2Proof.Machine
end

