-- ==== Sys2Proof/Machine/Vector.lean ====
section
/-! DEFINITION. Vector: what a vector instruction reads, computes and writes (R181-R208), and its issue checks
(R187, R197, R198). -/

namespace Sys2Proof.Machine

/-! ### Arithmetic of one element -/

def vAdd (a b : Fp) : Fp := rne32 (fpAdd a b)
def vSub (a b : Fp) : Fp := rne32 (fpSub a b)
def vMul (a b : Fp) : Fp := rne32 (fpMul a b)
def vFma (a b c : Fp) : Fp := rne32 (fpAdd (fpMul a b) c)

/-- One, as a value. -/
def fpOne : Fp := .fin false 1 0

/-- Whether a finite value is a power of two. -/
def isPow2 : Fp → Bool
  | .fin _ m _ => m != 0 && decide (2 ^ Nat.log2 m = m)
  | _ => false

/-- VRCP: within one unit of the correctly rounded reciprocal, exact at powers of two (Table 5.4). -/
def vRcp (a : Fp) : Fp :=
  let r := div32 fpOne a
  if isPow2 a || !(fpIsFin a) || !(fpIsFin r) then r else nearRounded 2 (bits32 a) r

/-- VRSQRT (Table 5.4). -/
def vRsqrt (a : Fp) : Fp :=
  match a with
  | .nan => .nan
  | .inf s => if s then .nan else fpZero
  | .fin s m _ =>
    if m = 0 then .inf s else if s then .nan
    else nearRounded 3 (bits32 a) (rne32 (fpDivSticky fpOne (fpSqrtSticky a)))

/-- A special function: its special values of Table 5.4, and a result within the error bound elsewhere (log 14). Numbers:
0 VEXP, 1 VLOG, 4 VTANH, 5 VSIGM, 6 VGELU, 7 VSILU, 8 VSOFTPLUS. -/
def vSpecial (n : Nat) (a : Fp) : Fp :=
  match a with
  | .nan => .nan
  | .inf s =>
    match n with
    | 0 => if s then fpZero else .inf false
    | 1 => if s then .nan else .inf false
    | 4 => .fin s 1 0
    | 5 => if s then fpZero else fpOne
    | 6 => if s then .fin true 0 0 else .inf false
    | 7 => if s then .fin true 0 0 else .inf false
    | _ => if s then fpZero else .inf false
  | .fin s m e =>
    if n = 1 && m = 0 then .inf true
    else if n = 1 && s then .nan
    else specialFin n s m e

/-- VSOFTMAX (R202); `r` is none in the weight pass. -/
def vSoftmax (x m : Fp) (r : Option Fp) : Fp :=
  let w := if fpIsNan x || fpIsNan m then Fp.nan
    else if m = .inf false then (if x = .inf false then fpOne else fpZero)
    else if m = .inf true then fpZero
    else vSpecial 0 (vSub x m)
  match r with
  | none => w
  | some r => if r = .inf false && !(fpIsNan w) then fpZero else vMul w r

/-- The factors of VDERIV's codes 5 to 7; at an infinity the manual states none for codes 6 and 7, and the value is free
(log 14). -/
def derivFactor (n : Nat) (x : Fp) : Fp :=
  match x with
  | .fin s m e => specialFin n s m e
  | .inf s => if n = 105 then (if s then .inf true else fpOne) else val32 (Config.special n (bits32 x))
  | .nan => .nan

/-- VDERIV (R208): `c` is s[SC], the function code and the slope. -/
def vDeriv (c : W64) (x dy : Fp) : Fp :=
  if fpIsNan x || fpIsNan dy then .nan else
  match fld c 0 4 with
  | 0 => if fpPos x then dy else fpZero
  | 1 => if fpPos x then dy else vMul (val32 (BitVec.ofNat 32 (fld c 32 32))) dy
  | 2 => vMul dy (vMul x (vSub fpOne x))
  | 3 => vMul dy (rne32 (fpSub fpOne (fpMul x x)))
  | 4 => vMul dy x
  | n => vMul dy (derivFactor (100 + n) x)

/-- The element-wise opcodes on sources a, b, c (Tables 5.3, 5.4; R202, R204, R206-R208); `cv` is VCVT's round trip
through the output kind, `sc` the third source's register, `third` whether source 3 is used. -/
def vElem (op : Nat) (cv : Fp → Fp) (sc : W64) (third : Bool) (a b c : Fp) : Fp :=
  match op with
  | 0x01 => vAdd a b
  | 0x02 => vSub a b
  | 0x03 => vMul a b
  | 0x04 => vFma a b c
  | 0x05 => fpMax a b
  | 0x06 => fpMin a b
  | 0x07 => fpAbs a
  | 0x08 => fpNeg a
  | 0x09 => if fpIsZero a then c else b
  | 0x0A => cv a
  | 0x0B => if fpIsNan a then .nan else if fpPos a then a else fpZero
  | 0x0C => if fpIsNan a then .nan else if fpPos a then a else vMul b a
  | 0x0D => a
  | 0x20 => vSpecial 0 a
  | 0x21 => vSpecial 1 a
  | 0x22 => vRcp a
  | 0x23 => vRsqrt a
  | 0x24 => vSpecial 4 a
  | 0x25 => vSpecial 5 a
  | 0x26 => vSpecial 6 a
  | 0x27 => vSpecial 7 a
  | 0x28 => vSpecial 8 a
  | 0x40 => vSoftmax a b (if third then some c else none)
  | 0x41 => if fpIsZero a then fpZero else vMul a (vSub b c)
  | 0x42 => let d := vSub a b; if fpIsZero d then fpZero else vMul d c
  | 0x43 => if b = .inf false then fpZero else vMul b (vSub a c)
  | 0x44 => if fpIsZero a then fpZero else vMul a b
  | 0x45 => if b = .inf false then fpZero else rne32 (fpSub (fpMul a b) c)
  | _ => vDeriv sc a b

/-- The balanced pairwise tree of R201; the bound is the depth. -/
def pairTree (f : Fp → Fp → Fp) : Nat → List Fp → List Fp
  | 0, l => l
  | n + 1, l => pairTree f n ((List.range (l.length / 2)).map (fun q => f (l.getD (2 * q) fpZero) (l.getD (2 * q + 1) fpZero)))

/-- A row reduction with row period 2^plog (R201): VRSUM 0x30, VRMAX 0x31, VSQSUM 0x32. -/
def vReduce (op plog : Nat) (a : Nat → Fp) (acc : Option (Nat → Fp)) (ctr : Option (Nat → Fp)) : List Fp :=
  let p := 2 ^ plog
  let f := if op = 0x31 then fpMax else vAdd
  let v := fun e => if op = 0x32 then (let d := vSub (a e) ((ctr.map (fun g => g e)).getD fpZero); vMul d d) else a e
  let rows := (List.range p).map (fun r =>
    let t := (pairTree f (11 - plog) ((List.range (2048 / p)).map (fun q => v (r + q * p)))).headD fpZero
    match acc with
    | some g => f (g r) t
    | none => t)
  (List.range 2048).map (fun e => rows.getD (e % p) fpZero)

/-! ### Operands -/

def vCode (w : W128) (i : Nat) : Nat := match i with
  | 0 => iX w 60 3
  | 1 => iX w 57 3
  | _ => iX w 54 3
def vDest (w : W128) : Nat := iX w 51 3
def vPat (w : W128) : Nat := iX w 48 3

/-- The register and the immediate of source i. -/
def vReg (q : QIns) (i : Nat) : W64 := match i with
  | 0 => q.a
  | 1 => q.b
  | _ => q.c
def vImm (w : W128) (i : Nat) : Nat := match i with
  | 0 => iI0 w
  | 1 => iI1 w
  | _ => iI2 w

/-- The kind of streamed source i (R184). -/
def vKind (w : W128) (p : Pat) (i : Nat) : Nat := if patAlt p i then p.altKind else iMod w % 16

/-- The base of streamed source i (R196). -/
def vBase (q : QIns) (i : Nat) : Nat := (vReg q i).toNat + vImm q.word i * 64

/-- Source i of a vector instruction, by element, as the engine reads it (R184, R185). A chain register that the chain
wrote in other lanes only reads as what it last held in this lane (DESIGN CHOICE, log 59: the set of R191 is kept for the
cluster, and the spec says nothing of such a lane). -/
def vSource (s : State) (k : Core) (q : QIns) (i : Nat) : Nat → Fp :=
  let w := q.word
  let p := patOf q.pat
  let c := vCode w i
  if c = 0 then
    let kd := vKind w p i
    let f := fmtK s kd
    let n := fmtNibbles f
    fun e =>
      let o := (schemeOff p (patAlt p i) e).toNat + vBase q i * 2 / n
      let r := if schemeOff p (patAlt p i) e < 0 then
          vBase q i * 2 / n - (- schemeOff p (patAlt p i) e).toNat else o
      rne32 (fpScale (fpDecode f (readElem k.mem 0 r n)) ((spadTag k ((elemAddr 0 r n).1 / 64) : Int) - kindScale s kd))
  else if c < 5 then
    let l := k.creg.get [] (c - 1)
    fun e => val32 (l.getD e 0)
  else fun _ => val32 ((vReg q i).setWidth 32)

/-- The conversion to the output kind (R186): the encoding, and whether it is counted. -/
def vConvert (s : State) (kd : Nat) (v : Fp) : Nat × Bool :=
  convertSat (fmtK s kd) .near (fpScale v (kindScale s kd))

/-- VCVT's round trip (Table 5.3). -/
def vRound (s : State) (kd : Nat) (v : Fp) : Fp :=
  let f := fmtK s kd
  rne32 (fpScale (fpDecode f (vConvert s kd v).1) (-(kindScale s kd)))

/-- The 2,048 results of a vector instruction. VCVT to the scratchpad converts once, as it is stored, so that its bytes
are those of VMOV (R199). -/
def vValues (s : State) (k : Core) (q : QIns) : List Fp :=
  let w := q.word
  let cv := if vDest w = 0 then id else vRound s (iMod w / 16)
  let a := vSource s k q 0
  let b := vSource s k q 1
  let c := vSource s k q 2
  let op := iOp w
  if 0x30 ≤ op && op ≤ 0x32 then
    vReduce op (patOf q.pat).plog a (if vCode w 1 = 6 then none else some b) (if vCode w 2 = 6 then none else some c)
  else
    (List.range 2048).map (fun e => vElem op cv q.c (vCode w 2 ≠ 6) (a e) (b e) (c e))

/-- The byte address and the shift of destination element e. -/
def vDestAddr (s : State) (q : QIns) (e : Nat) : Nat × Nat :=
  let p := patOf q.pat
  let n := fmtNibbles (fmtK s (iMod q.word / 16))
  let o := schemeOff p (patAlt p 3) e
  let b := q.d.toNat * 2 / n
  elemAddr 0 (if o < 0 then b - (-o).toNat else b + o.toNat) n

/-- Byte updates of a line set, gathered by line with one tag (R186). -/
def gatherLines (tag : Nat) (ws : List (Nat × Byte)) : List LineWr :=
  let lines := (ws.map (fun u => u.1 / 64)).eraseDups
  lines.map (fun n => { line := n, tag := tag, upd := (ws.filter (fun u => u.1 / 64 = n)).map (fun u => (u.1 % 64, u.2)) })

/-- The bytes that a scratchpad destination takes; two FP4 elements of one byte are merged with the byte's other
half as stored (R147, R186). -/
def vStore (s : State) (k : Core) (q : QIns) (vs : List Fp) : List (Nat × Byte) :=
  let kd := iMod q.word / 16
  let n := fmtNibbles (fmtK s kd)
  if n = 1 then
    let xs := (List.range 2048).map (fun e => (vDestAddr s q e, (vConvert s kd (vs.getD e fpZero)).1))
    let addrs := (xs.map (fun x => x.1.1)).eraseDups
    addrs.map (fun a =>
      (a, (xs.filter (fun x => x.1.1 = a)).foldl (fun (y : Byte) x =>
        if x.1.2 = 0 then (y &&& 0xF0#8) ||| BitVec.ofNat 8 x.2 else (y &&& 0x0F#8) ||| BitVec.ofNat 8 (x.2 * 16)) (k.mem.read a)))
  else
    ((List.range 2048).map (fun e =>
      let bs := leBytes (n / 2) (vConvert s kd (vs.getD e fpZero)).1
      let a := (vDestAddr s q e).1
      (List.range (n / 2)).map (fun i => (a + i, bs.getD i 0)))).flatten

/-- Whether VSOFTMAX writes the empty-row bitmap (R203). -/
def vFlags (q : QIns) : Bool :=
  iOp q.word = 0x40 && (patOf q.pat).flagEn && vDest q.word = 0 && vCode q.word 2 ≠ 6

/-- The bytes of the bitmap (R203). -/
def flagBytes (q : QIns) : Nat := max 64 (2 ^ (patOf q.pat).plog / 8)

/-- The empty-row bitmap (R203). -/
def vBitmap (s : State) (k : Core) (q : QIns) : List (Nat × Byte) :=
  let p := patOf q.pat
  let m := vSource s k q 1
  (List.range (flagBytes q)).map (fun i =>
    (p.flagLine * 64 + i, BitVec.ofNat 8 (((List.range 8).map (fun b =>
      let r := 8 * i + b
      if r < 2 ^ p.plog && m r = .inf true then 2 ^ b else 0)).sum)))

/-- The result of a vector instruction (R181-R208). -/
def vResult (s : State) (k : Core) (q : QIns) : Res :=
  let vs := vValues s k q
  let d := vDest q.word
  if d = 0 then
    let kd := iMod q.word / 16
    { ops := []
      lines := gatherLines 0 (vStore s k q vs ++ (if vFlags q then vBitmap s k q else []))
      creg := none
      sat := (vs.filter (fun v => (vConvert s kd v).2)).length
      kind := kd }
  else { ops := [], lines := [], creg := some (d - 1, vs.map bits32), sat := 0, kind := 0 }

/-! ### Issue checks -/

/-- Whether sources 1-3 of an opcode are used (2), optional (1) or not used (0) (Table 5.1). -/
def vUse : Nat → Option (Nat × Nat × Nat)
  | 0x01 | 0x02 | 0x03 | 0x05 | 0x06 | 0x0C | 0x44 => some (2, 2, 0)
  | 0x04 | 0x09 | 0x41 | 0x42 | 0x43 | 0x45 | 0x48 => some (2, 2, 2)
  | 0x07 | 0x08 | 0x0A | 0x0B | 0x0D => some (2, 0, 0)
  | 0x20 | 0x21 | 0x22 | 0x23 | 0x24 | 0x25 | 0x26 | 0x27 | 0x28 => some (2, 0, 0)
  | 0x30 | 0x31 => some (2, 1, 0)
  | 0x32 => some (2, 1, 1)
  | 0x40 => some (2, 2, 1)
  | _ => none

/-- Whether source i breaks R187: code, register and immediate. -/
def vSrcBad (w : W128) (use i : Nat) : Bool :=
  let c := vCode w i
  let reg := match i with
    | 0 => iSA w
    | 1 => iSB w
    | _ => iSC w
  decide (c = 7) || (decide (use = 0) && decide (c ≠ 6)) || (decide (use = 2) && decide (c = 6))
  || ((decide (1 ≤ c ∧ c ≤ 4) || decide (c = 6)) && (decide (reg ≠ 0) || decide (vImm w i ≠ 0)))

/-- Whether the third source of VDERIV is bad (R208). -/
def vDerivBad (w : W128) (c : W64) : Bool :=
  let al := val32 (BitVec.ofNat 32 (fld c 32 32))
  decide (vCode w 2 ≠ 5) || decide (iI2 w ≠ 0) || decide (8 ≤ fld c 0 4) || decide (fld c 4 28 ≠ 0)
  || (decide (fld c 0 4 = 1) && !(fpIsFin al && fpPos al))

/-- Whether WENG and WLAST are out of Table 3.9. -/
def wengBad (w : W128) : Bool := decide (5 < iWeng w) || (decide (iWeng w = 0) && iWlast w)

/-- Whether a vector instruction breaks the ranges that the encoding fixes (R588 step 4). -/
def vEncBad (w : W128) (u : Nat × Nat × Nat) (c : W64) : Bool :=
  wengBad w || decide (4 < vDest w) || vSrcBad w u.1 0 || vSrcBad w u.2.1 1 || vSrcBad w u.2.2 2
  || (decide (iOp w = 0x48) && vDerivBad w c) || (!(iTV w) && decide (iTok w ≠ 0))

/-- The kinds that a vector instruction uses: of its streamed sources, of its destination or VCVT (R588 step 6). -/
def vKinds (w : W128) (p : Pat) : List Nat :=
  ((List.range 3).filter (fun i => vCode w i = 0)).map (vKind w p)
  ++ (if vDest w = 0 || iOp w = 0x0A then [iMod w / 16] else [])

/-- Whether a destination scheme puts two elements on one place (R198). -/
def vDestTwice (q : QIns) : Bool :=
  let p := patOf q.pat
  let offs := (List.range 2048).map (schemeOff p (patAlt p 3))
  decide (offs.eraseDups.length ≠ 2048)

/-- Whether a scheme from a base leaves the scratchpad or is not aligned (R198). -/
def vRangeBad (p : Pat) (alt : Bool) (base n : Nat) : Bool :=
  let (lo, hi) := schemeRange p alt
  decide (base % 64 ≠ 0) || decide ((base : Int) * 2 + lo * n < 0)
  || decide (((base : Int) * 2 + (hi + 1) * n + 1) / 2 > 0x300000)

/-- ADDR_RANGE of a vector instruction (R198). -/
def vAddrBad (s : State) (q : QIns) : Bool :=
  let w := q.word
  let p := patOf q.pat
  (List.range 3).any (fun i => decide (vCode w i = 0) &&
    vRangeBad p (patAlt p i) (vBase q i) (fmtNibbles (fmtK s (vKind w p i))))
  || (decide (vDest w = 0) && vRangeBad p (patAlt p 3) q.d.toNat (fmtNibbles (fmtK s (iMod w / 16))))
  || (vFlags q && decide (0x300000 < p.flagLine * 64 + flagBytes q))

/-- CHAIN_EMPTY: a source names a register that the current chain has not written (R130, R191). -/
def vChainEmpty (w : W128) (set : List Nat) : Bool :=
  (List.range 3).any (fun i => decide (1 ≤ vCode w i ∧ vCode w i ≤ 4) && !(set.contains (vCode w i - 1)))

/-- Byte ranges (base, bytes) that a vector instruction reads, line by line. -/
def vReadLines (s : State) (q : QIns) : List Nat :=
  let w := q.word
  let p := patOf q.pat
  (((List.range 3).filter (fun i => vCode w i = 0)).map (fun i =>
    let n := fmtNibbles (fmtK s (vKind w p i))
    (List.range 2048).map (fun e =>
      (((vBase q i : Int) * 2 + schemeOff p (patAlt p i) e * n) / 2).toNat / 64))).flatten.eraseDups

end Sys2Proof.Machine
end

