-- ==== Sys2Proof/Machine/Flags.lean ====
section
/-! DEFINITION. Flags: the conditions that decide whether an instruction issues, is skipped or held: engine waits
(Table 3.9), the issue checks of the tile, matrix and vector classes in the order of R588, and the status fields
computed from the queues (Tables 4.8, 5.8, 9.6, 9.7). -/

namespace Sys2Proof.Machine

/-! ### Engine waits -/

/-- The engines (0 matrix A, 1 matrix B, 2 vector, 3 plate port) whose instruction a word is: those that it names, also
while array B is switched off (R97, R129, R170). -/
def enginesOf (w : W128) : List Nat :=
  match iClass w with
  | 3 => [3]
  | 5 => [2]
  | _ => if isMma2 w then [0, 1] else [b2n (bit w 96)]

/-- The engines that WENG names (Table 3.9). -/
def wengEngines (weng : Nat) : List Nat :=
  match weng with
  | 1 => [0]
  | 2 => [1]
  | 3 => [2]
  | 4 => [3]
  | 5 => [0, 1, 2, 3]
  | _ => []

/-- The instructions of a lane that have not completed, among them those that R330 puts back into their queues. -/
def pendIns (k : Core) : List QIns :=
  (k.runA ++ k.runB ++ k.runV ++ k.runP).map (fun r => r.ins) ++ (k.qA ++ k.qB ++ k.qV ++ k.qP)

/-- The instructions that a wait excludes: with WLAST, the one last issued to each engine that WENG names (R123). -/
def waitSkip (k : Core) (w : W128) : List Nat := if iWlast w then (wengEngines (iWeng w)).filterMap k.lastIss.find else []

/-- The instructions for which an instruction with this word and issue number still waits in a lane (R123). -/
def waitsOf (k : Core) (w : W128) (iid : Nat) (skip : List Nat) : List QIns :=
  (pendIns k).filter (fun q => decide (q.iid < iid) && !skip.contains q.iid
    && (wengEngines (iWeng w)).any (fun e => (enginesOf q.word).contains e))

/-- Whether the waits of an instruction that does not run in lanes are met in every lane of a mask (R123). -/
def waitsMet (s : State) (cl : Nat) (w : W128) (mask : Nat) : Bool :=
  (maskLanes mask).all (fun l => match laneCore (clOf s cl) cl l with
    | some k => (waitsOf (coreOf s k) w s.insNo (waitSkip (coreOf s k) w)).isEmpty
    | none => true)

/-- The effective mask (R119). -/
def effMask (c : Cluster) (w : W128) : Nat := Nat.land (iLmask w) (laneMask c)

/-- The pattern in force in a lane for the next vector instruction (R195). -/
def lanePat (k : Core) (n : Nat) : List W64 :=
  if n = 0 then pattern0 else
  let vs := (k.runV.map (fun r => r.ins) ++ k.qV).filter (fun q => decide (iOp q.word = 0x50 ∧ vPat q.word = n))
  match vs.getLast? with
  | some q => [q.a, q.b, q.c, q.d]
  | none => k.pat.get pattern0 n

/-- The instruction as it enters the queues of a lane, its registers read (R98). -/
def mkQ (s : State) (cl : Nat) (w : W128) (chain : Nat) (lane : Nat) : QIns :=
  let c := clOf s cl
  let k := match laneCore c cl lane with
    | some k => coreOf s k
    | none => Core.reset
  { iid := s.insNo, word := w, pc := c.pc, lane := lane, skip := waitSkip k w
    a := sreg c (iSA w), b := sreg c (iSB w), c := sreg c (iSC w), d := sreg c (iSD w)
    iter0 := match c.loops with
      | [] => true
      | x :: _ => x.iter = 0
    pat := lanePat k (vPat w), chain := chain }

/-- Whether TV = 1 names a PENDING token (R124). -/
def tokBusy (s : State) (cl : Nat) (w : W128) : Bool :=
  iTV w && decide ((tokOf s (cluTok cl (iTok w))).st = .pending)

/-! ### Issue checks by class, each a list of (condition, skip code) in the order of R588 -/

/-- A range of scratchpad bytes that is not aligned or leaves the scratchpad (R125). -/
def spadRangeBad (base bytes : Nat) : Bool := decide (base % 64 ≠ 0) || decide (0x300000 < base + bytes)
/-- A range of plate bytes that is not aligned or leaves the plates (R125). -/
def plateRangeBad (base bytes : Nat) : Bool := decide (base % 64 ≠ 0) || decide (0x1800000 < base + bytes)

/-- TLOAD and TSTORE: destination and source of a lane (Table 3.10). The sum does not wrap: one beyond 2^64 lies outside
its range (DESIGN CHOICE, log 59: the spec does not say whether an address wraps). -/
def nearAddr (q : QIns) : Nat := q.a.toNat + iI1 q.word * 64
def farAddr (q : QIns) : Nat := q.b.toNat + q.lane * iI2 q.word * 64
def isTransposed (w : W128) : Bool := bit w 62
/-- Element width of TLOAD and TSTORE in half bytes. -/
def tileNib (w : W128) : Nat := 2 ^ iX w 59 2

def tloadChecks (s : State) (q : QIns) : List (Bool × Nat) :=
  let w := q.word
  let t := isTransposed w
  let fs := bCommon w ++ [(90, 6), (84, 6), (62, 1), (59, 3), (32, 16), (16, 16), (0, 16)] ++ (if t then [(55, 4)] else [])
  [(!(onlyFields w fs) || wengBad w || decide (3 < iX w 59 3) || decide (iI0 w < 1 ∨ 49152 < iI0 w)
      || (t && decide (iI0 w % (64 * tileNib w) ≠ 0)), 0x42),
   (t && !(kindSet s (iX w 55 4)), 0x4E),
   (t && decide (fmtNibbles (fmtK s (iX w 55 4)) ≠ tileNib w), 0x42),
   (spadRangeBad (nearAddr q) (iI0 w * 64) || plateRangeBad (farAddr q) (iI0 w * 64), 0x47)]

def tstoreChecks (q : QIns) : List (Bool × Nat) :=
  let w := q.word
  let fs := bCommon w ++ [(90, 6), (84, 6), (59, 3), (32, 16), (16, 16), (0, 16)]
  [(!(onlyFields w fs) || wengBad w || decide (3 < iX w 59 3) || decide (iI0 w < 1 ∨ 49152 < iI0 w), 0x42),
   (spadRangeBad (nearAddr q) (iI0 w * 64) || plateRangeBad (farAddr q) (iI0 w * 64), 0x47)]

/-- Whether two input formats form a pair of Table 4.2. -/
def pairOk (a b : Fmt) : Bool :=
  (decide (a.code = 1 ∨ a.code = 2) && decide (b.code = 1 ∨ b.code = 2))
  || (decide (a.code = b.code) && decide (a.code = 0 ∨ a.code = 3 ∨ a.code = 4))
/-- Whether a format may be an output (R146). -/
def outOk (f : Fmt) : Bool := f.code != 0
/-- Bytes of `n` elements of a format, a whole number of lines in FP4 (R148). -/
def extentOf (n : Nat) (f : Fmt) : Nat := if f.code = 0 then (n / 2 + 63) / 64 * 64 else n * fmtNibbles f / 2

def mmaChecks (s : State) (q : QIns) : List (Bool × Nat) :=
  let w := q.word
  let k := mmaSlices w q.d
  let fs := bCommon w ++ [(96, 3), (90, 6), (84, 6), (78, 6), (72, 6), (51, 12), (32, 16)]
  let fA := fmtK s (iX w 59 4)
  let fB := fmtK s (iX w 55 4)
  let fO := fmtK s (iX w 51 4)
  [(!(onlyFields w fs) || wengBad w || decide (fld w 97 2 = 3) || decide (k < 1 ∨ 16384 < k), 0x42),
   (!(kindSet s (iX w 59 4)) || !(kindSet s (iX w 55 4)) || !(kindSet s (iX w 51 4)), 0x4E),
   (!(pairOk fA fB) || !(outOk fO), 0x42),
   (spadRangeBad q.a.toNat (extentOf (k * 128) fA) || spadRangeBad q.b.toNat (extentOf (k * 64) fB)
      || spadRangeBad q.c.toNat (extentOf 8192 fO), 0x47)]

def mma2Checks (s : State) (q : QIns) : List (Bool × Nat) :=
  let w := q.word
  let k := iI0 w
  let n := k / 64
  let fs := bCommon w ++ [(97, 4), (90, 6), (84, 6), (78, 6), (72, 6), (51, 12), (32, 16), (16, 16), (0, 8)]
  let ks := [iX w 59 4, iX w 55 4, iX w 51 4, fld w 0 4, fld w 4 4]
  let f := fun i => fmtK s (ks.getD i 0)
  [(!(onlyFields w fs) || wengBad w || decide (fld w 97 2 = 3) || decide (fld w 99 2 = 3)
      || decide (k % 64 ≠ 0 ∨ k < 64 ∨ 16384 < k), 0x42),
   (ks.any (fun x => !(kindSet s x)), 0x4E),
   (!(pairOk (f 1) (f 0)) || !(pairOk (f 3) (f 0)) || !(outOk (f 2)) || !(outOk (f 4)), 0x42),
   (spadRangeBad q.a.toNat (extentOf (n * 4096) (f 0)) || spadRangeBad q.b.toNat (extentOf (k * 128) (f 1))
      || spadRangeBad q.c.toNat (extentOf 8192 (f 3)) || spadRangeBad q.d.toNat (extentOf 8192 (f 2))
      || spadRangeBad (iI1 w * 64) (extentOf (n * 8192) (f 4)), 0x47)]

def vecChecks (s : State) (set : List Nat) (q : QIns) : List (Bool × Nat) :=
  let w := q.word
  let p := patOf q.pat
  match vUse (iOp w) with
  | none => [(true, 0x41)]
  | some u =>
    [(vEncBad w u q.c, 0x42),
     ((vKinds w p).any (fun x => !(kindSet s x)), 0x4E),
     (decide (vDest w = 0) && vDestTwice q, 0x42),
     (vAddrBad s q, 0x47),
     (vChainEmpty w set, 0x4D)]

def vcfgChecks (q : QIns) : List (Bool × Nat) :=
  let w := q.word
  let fs := bCommon w ++ [(90, 6), (84, 6), (78, 6), (72, 6), (48, 3)]
  [(!(onlyFields w fs) || wengBad w || decide (vPat w = 0), 0x42), (patBad [q.a, q.b, q.c, q.d], 0x42)]

/-- Checks made over the lanes of the effective mask: the instruction fails a check that any lane fails (R122); with
no lane, no address is checked. -/
def overLanes (qs : List QIns) (q0 : QIns) (f : QIns → List (Bool × Nat)) : List (Bool × Nat) :=
  match qs with
  | [] => (f q0).filter (fun c => decide (c.2 ≠ 0x47))
  | q :: _ => (List.range (f q).length).map (fun i =>
      (qs.any (fun q => ((f q).getD i (false, 0)).1), ((f q).getD i (false, 0)).2))

end Sys2Proof.Machine
end

