-- ==== Sys2Proof/Machine/Lanes.lean ====
section
/-! DEFINITION. Lanes: the issue of tile, matrix and vector instructions to the lanes, their start, overflow replay
and completion (chapters 03-05, 09). -/

namespace Sys2Proof.Machine

/-! ### Issue -/

/-- The ports (0 matrix A, 1 matrix B, 2 vector, 3 plate port) of an instruction in a core (R97, R129, R176). -/
def portsOf (w : W128) (k : Core) : List Nat :=
  match iClass w with
  | 3 => [3]
  | 5 => [2]
  | _ => if isMma2 w then (if k.bOff then [0] else [0, 1]) else if bit w 96 && !k.bOff then [1] else [0]

def queueOf (k : Core) : Nat → List QIns
  | 0 => k.qA
  | 1 => k.qB
  | 2 => k.qV
  | _ => k.qP

def setQueue (k : Core) (port : Nat) (l : List QIns) : Core :=
  match port with
  | 0 => { k with qA := l }
  | 1 => { k with qB := l }
  | 2 => { k with qV := l }
  | _ => { k with qP := l }

def runsOf (k : Core) : Nat → List Run
  | 0 => k.runA
  | 1 => k.runB
  | 2 => k.runV
  | _ => k.runP

def setRuns (k : Core) (port : Nat) (l : List Run) : Core :=
  match port with
  | 0 => { k with runA := l }
  | 1 => { k with runB := l }
  | 2 => { k with runV := l }
  | _ => { k with runP := l }

/-- An instruction enters the queues of one lane (R97). -/
def enqueue (cl : Nat) (q : QIns) (s : State) : State :=
  match laneCore (clOf s cl) cl q.lane with
  | none => s
  | some k =>
    let co := coreOf s k
    let co' := { co with lastIss := (enginesOf q.word).foldl (fun t e => t.put e q.iid) co.lastIss }
    setCore s k ((portsOf q.word co).foldl (fun co p => setQueue co p (queueOf co p ++ [q])) co')

/-- Whether a queue that the instruction enters is full in some lane (R97). -/
def anyFull (s : State) (cl : Nat) (w : W128) (lanes : List Nat) : Bool :=
  lanes.any (fun l => match laneCore (clOf s cl) cl l with
    | some k => (portsOf w (coreOf s k)).any (fun p => decide (8 ≤ (queueOf (coreOf s k) p).length))
    | none => false)

/-- TV = 1 arms the instruction's token (R124). -/
def armTV (cl : Nat) (w : W128) (s : State) : State :=
  if iTV w then setTok (cluTok cl (iTok w)) .pending true s else s

/-- The chain state of the sequencer after a vector instruction has been issued (R190, R191). A chain ends for every lane
of the cluster with its ending instruction, also for lanes that LMASK leaves out of it (DESIGN CHOICE, log 59). -/
def chainAfter (c : Cluster) (w : W128) : Cluster :=
  let no := if c.chainOpen then c.chainNo else c.chainNo + 1
  if vDest w = 0 then { c with chainOpen := false, chainSet := [], chainNo := no }
  else { c with chainOpen := true, chainSet := if c.chainSet.contains (vDest w - 1) then c.chainSet else (vDest w - 1) :: c.chainSet,
                chainNo := no }

/-- Whether an instruction belongs to a chain (R191). -/
def inChain (w : W128) : Bool := iClass w = 5 && iOp w ≠ 0x50

/-- The completed instructions of a chain that its ending instruction left out are released with it: those of lanes
outside its LMASK (R192; DESIGN CHOICE, log 59). -/
def freeLeft (cl chain : Nat) (s : State) : State :=
  if (clOf s cl).chainsDone.contains chain then
    (laneCores s cl).foldl (fun s k =>
      let co := coreOf s k
      let pend := (pendIns co).map (fun q => q.iid)
      let mine := fun (x : ChainIns) => decide (x.ins.chain = chain) && !pend.contains x.ins.iid
      let s := setCore s k { co with chain := co.chain.filter (fun x => !(mine x)) }
      (co.chain.filter mine).foldl (fun s x => laneDone cl x.ins.iid x.ins.lane s) s) s
  else s

/-- A chain-ending instruction without a lane is released at issue (R120), and its chain with it. -/
def endsEmpty (cl : Nat) (w : W128) (chain : Nat) (s : State) : State :=
  let c := clOf s cl
  if inChain w && decide (vDest w = 0) && c.issued.any (fun i => decide (i.chain = some chain)) then
    freeLeft cl chain (setCl s cl { c with chainsDone := chain :: c.chainsDone })
  else s

/-- A lane instruction at issue (R97, R119-R124): the checks in the order of R588, the hold on a full queue, the
broadcast to the queues of the effective mask. -/
def issueLanes (cls op : Nat) (tile : Bool) (checks : State → List Nat → QIns → List (Bool × Nat)) (cl : Nat) (s : State) :
    State :=
  if atIns s cl cls op then
    let c := clOf s cl
    let w := curWord c
    let lanes := maskLanes (effMask c w)
    let chain := if c.chainOpen then c.chainNo else c.chainNo + 1
    let qs := lanes.map (mkQ s cl w chain)
    issueWith cl w ((tokBusy s cl w, 0x46) :: overLanes qs (mkQ s cl w chain 0) (checks s c.chainSet)) (fun s =>
      if anyFull s cl w lanes then hold cl 4 [] s
      else
        let c := clOf s cl
        let s := setCl s cl (if inChain w then chainAfter c w else c)
        let s := armTV cl w s
        if lanes = [] then
          goNext cl (endsEmpty cl w chain (if iTV w then postTok (cluTok cl (iTok w)) .done s else s))
        else
          let s := qs.foldl (fun s q => enqueue cl q s) s
          let iss : Iss := { iid := s.insNo, word := w, pc := c.pc, tok := if iTV w then some (iTok w) else none
                             owed := lanes, tile := tile, chain := if inChain w then some chain else none
                             ends := inChain w && decide (vDest w = 0) }
          let c := clOf s cl
          goNext cl { setCl s cl { c with issued := c.issued ++ [iss] } with insNo := s.insNo + 1 }) s
  else s

def effTload (cl : Nat) (s : State) : State := issueLanes 3 0x01 true (fun s _ q => tloadChecks s q) cl s
def effTstore (cl : Nat) (s : State) : State := issueLanes 3 0x02 true (fun _ _ q => tstoreChecks q) cl s
def effMma (cl : Nat) (s : State) : State := issueLanes 4 0x01 false (fun s _ q => mmaChecks s q) cl s
def effMma2 (cl : Nat) (s : State) : State := issueLanes 4 0x02 false (fun s _ q => mma2Checks s q) cl s
def effVcfg (cl : Nat) (s : State) : State := issueLanes 5 0x50 false (fun _ _ q => vcfgChecks q) cl s
/-- A vector instruction of opcode `op`. -/
def effVec (op cl : Nat) (s : State) : State := issueLanes 5 op false vecChecks cl s

/-! ### What an instruction reads and writes -/

/-- Scratchpad lines that an instruction reads, start values included unless carried over. -/
def readLines (s : State) (q : QIns) (carry : Bool) : List Nat :=
  let w := q.word
  match iClass w with
  | 3 => if iOp w = 2 then lineRange (nearAddr q) (iI0 w * 64) else []
  | 5 => if iOp w = 0x50 then [] else vReadLines s q
  | _ =>
    let st := fun i => let j := tileJob s q i
      if j.stored && !(carry && decide (i = dXIdx || !isMma2 w)) then lineRange j.oBase (extentOf 8192 (fmtK s j.kO)) else []
    let starts := ((tileIdx w false).map st).flatten
    if isMma2 w then
      let n := iI0 w / 64
      lineRange q.a.toNat (extentOf (n * 4096) (fmtK s (iX w 59 4)))
      ++ lineRange q.b.toNat (extentOf (iI0 w * 128) (fmtK s (iX w 55 4)))
      ++ lineRange q.c.toNat (extentOf 8192 (fmtK s (fld w 0 4))) ++ starts
    else
      let n := mmaSlices w q.d
      lineRange q.a.toNat (extentOf (n * 128) (fmtK s (iX w 59 4)))
      ++ lineRange q.b.toNat (extentOf (n * 64) (fmtK s (iX w 55 4))) ++ starts

/-- Lines that a vector or plate-port instruction writes in the scratchpad. -/
def writeLines (s : State) (q : QIns) : List Nat :=
  let w := q.word
  if iClass w = 3 then (if iOp w = 1 then lineRange (nearAddr q) (iI0 w * 64) else [])
  else if iClass w = 5 && iOp w ≠ 0x50 && vDest w = 0 then
    ((List.range 2048).map (fun e => (vDestAddr s q e).1 / 64)).eraseDups
    ++ (if vFlags q then lineRange ((patOf q.pat).flagLine * 64) (flagBytes q) else [])
  else []

/-- Element (r, c) of a 128 x 64 source tile lands at c x 128 + r; with tags that differ, it is converted to the
largest (R167, R168). -/
def transposeTile (f : Fmt) (m : Mem) (tag : Nat → Nat) (src dst : Nat) : List LineWr :=
  let n := fmtNibbles f
  let lines := 64 * n
  let tmax := ((List.range lines).map (fun i => tag (src / 64 + i))).foldl max 0
  let el := fun e =>                       -- landed element e = c * 128 + r
    let off := e % 128 * 64 + e / 128
    let t := tag ((elemAddr src off n).1 / 64)
    let x := readElem m src off n
    if t = tmax then x else (convertSat f .near (fpScale (fpDecode f x) ((t : Int) - tmax))).1
  linesOf dst tmax (packElems n ((List.range 8192).map el))

/-- The lines that a TLOAD lands (R126, R167). -/
def tloadLines (s : State) (c : Cluster) (q : QIns) : List LineWr :=
  let w := q.word
  if isTransposed w then
    let f := fmtK s (iX w 55 4)
    let sz := 8192 * fmtNibbles f / 2
    ((List.range (iI0 w * 64 / sz)).map (fun t =>
      transposeTile f c.plates (plateTag c) (farAddr q + t * sz) (nearAddr q + t * sz))).flatten
  else (List.range (iI0 w)).map (fun i =>
    { line := nearAddr q / 64 + i, tag := plateTag c (farAddr q / 64 + i)
      upd := (List.range 64).map (fun b => (b, c.plates.read (farAddr q + 64 * i + b))) })

/-- The plate lines that a TSTORE writes. -/
def tstoreLines (k : Core) (q : QIns) : List LineWr :=
  (List.range (iI0 q.word)).map (fun i =>
    { line := farAddr q / 64 + i, tag := spadTag k (nearAddr q / 64 + i)
      upd := (List.range 64).map (fun b => (b, k.mem.read (nearAddr q + 64 * i + b))) })

/-- The lines that a result writes. -/
def resLines (r : Res) : List LineWr := (r.ops.map (fun o => o.out)).flatten ++ r.lines

/-! ### Memory array errors -/

/-- A core becomes permanently failed and waits for its removal (R33, R339). -/
def failCore (core : Nat) (s : State) : State :=
  let k := coreOf s core
  let cl := core / 9
  let c := clOf s cl
  if k.failed then s else
  let s := setCl (setCore s core { k with failed := true }) cl { c with removals := c.removals ++ [core % 9] }
  if c.spare < 9 then s
  else match c.prog with
    | some _ => trap cl 6 { pc := c.pc } s
    | none => s

/-- A memory array error of a scratchpad: record, what the reader does (`act`), and a second one within 10 seconds fails
the core (R317). -/
def spadError (core line : Nat) (act : State → State) (s : State) : State :=
  let k := coreOf s core
  let again := match k.lineErr.find line with
    | some t => recent s t
    | none => false
  let s := setCore s core { k with lineErr := k.lineErr.put line s.aoCount }
  let s := record { unit := unitCore core 8 0, cls := 0x0208, outcome := 0, d0 := d0Of (coreLane s core) 0 0
                    d1 := BitVec.ofNat 32 line, d2 := spadCode k line
                    d3 := lineCode (k.mem.bytes (64 * line) 64) (spadTag k line) } s
  let s := act s
  if again then failCore core (setCore s core { coreOf s core with spadFailed := true }) else s

/-! ### Start -/

/-- Whether carry-over applies to an array's next instruction (R157): the preceding output had the same address and
kind, in FP32. -/
def carryFor (s : State) (j : TileJob) (prev : Option (Nat × Nat × List LineWr)) : Option (List LineWr) :=
  match prev with
  | some (a, kd, ls) => if j.stored && decide (a = j.oBase ∧ kd = j.kO) && decide ((fmtK s j.kO).code = 5) then some ls else none
  | none => none

/-- A run among runs in issue order. -/
def insRun (r : Run) : List Run → List Run
  | [] => [r]
  | x :: l => if r.ins.iid ≤ x.ins.iid then r :: x :: l else x :: insRun r l

/-- The started instructions that have a tile operation on an array (0 A, 1 B), issued before `iid`, in issue order. -/
def arrayRuns (k : Core) (u iid : Nat) : List Run :=
  ((k.runA ++ k.runB).filter (fun r => decide (r.ins.iid < iid) && r.res.ops.any (fun o => decide (o.unit = u)))).foldr insRun []

/-- The lines that an instruction writes from an array. -/
def arrayLines (u : Nat) (r : Run) : List LineWr := ((r.res.ops.filter (fun o => decide (o.unit = u))).map (fun o => o.out)).flatten

/-- The output of an instruction that the next one on its array may carry over: address, kind and lines of its C-form
tile; the dW tiles that an MMA2 runs on array B are none (R157, R170). -/
def carryOut (s : State) (u : Nat) (r : Run) : Option (Nat × Nat × List LineWr) :=
  match r.res.ops.find? (fun o => decide (o.unit = u ∧ (o.idx = dXIdx ∨ !isMma2 r.ins.word))) with
  | some o => let j := tileJob s r.ins o.idx; some (j.oBase, j.kO, o.out)
  | none => none

/-- What the instruction before `iid` on an array left to carry over: the last one started, or, with none under way, the
last one that completed. -/
def prevOut (s : State) (k : Core) (u iid : Nat) : Option (Nat × Nat × List LineWr) :=
  match (arrayRuns k u iid).getLast? with
  | some r => carryOut s u r
  | none => if u = 1 then k.carryB else k.carryA

/-- Where a tile operation of an instruction takes its start values from: the scratchpad after every earlier instruction of
its array has written its output, or what is carried over (R156, R157). -/
def startSpad (s : State) (k : Core) (q : QIns) (idx u : Nat) : Core :=
  let after := spadWrites k ((arrayRuns k u q.iid).map (arrayLines u)).flatten
  if isMma2 q.word && idx ≠ dXIdx then after else
    match carryFor s (tileJob s q idx) (prevOut s k u q.iid) with
    | some ls => spadWrites k ls
    | none => after

/-- The tile operations of an instruction at their first attempt (R162, R175). -/
def firstAttempts (s : State) (k : Core) (q : QIns) : List TileOp :=
  (tileIdx q.word k.bOff).map (fun i =>
    let u := tileUnit q.word k.bOff i
    let src := startSpad s k q i u
    attempt s k (tileJob s q i) src.mem (spadTag src) (newOp i u))

/-- Whether the start values of a tile operation are carried over (R157). -/
def carried (s : State) (k : Core) (q : QIns) : Bool :=
  (tileIdx q.word k.bOff).any (fun i => decide (i = dXIdx ∨ !isMma2 q.word)
    && (carryFor s (tileJob s q i) (prevOut s k (tileUnit q.word k.bOff i) q.iid)).isSome)

/-- Whether a tile operation that starts from stored values would read an output that still overflows (R156). -/
def startBlocked (s : State) (k : Core) (q : QIns) : Bool :=
  (tileIdx q.word k.bOff).any (fun i => (tileJob s q i).stored
    && (arrayRuns k (tileUnit q.word k.bOff i) q.iid).any (fun r =>
      r.res.ops.any (fun o => decide (o.unit = tileUnit q.word k.bOff i) && o.ov.isSome)))

/-- The proof level in force (R6). -/
def matrixOnly (s : State) : Bool := s.job.matrixOnly

/-- Whether an instruction waits for marks: a TSTORE for released source bytes (R327); under the matrix-only level a
vector or tile instruction for lines it reads with a write mark or writes with any mark (R331). -/
def marksBlock (s : State) (k : Core) (q : QIns) : Bool :=
  let w := q.word
  let wm := fun l => (k.wmark.find l).isSome
  let rm := fun l => decide (k.rmask.get [] l ≠ [])
  if iClass w = 3 && iOp w = 2 then (readLines s q false).any wm
  else if matrixOnly s && decide (iClass w ≠ 4) then
    (readLines s q false).any wm || (writeLines s q).any (fun l => wm l || rm l)
  else false

/-- An upset of a stored byte: the data change, the line code does not (R317). -/
def upsetSpad (k : Core) (u : Option Flt) : Core :=
  match u with
  | some f => { k with mem := k.mem.write f.off (k.mem.read f.off ^^^ f.mask) }
  | none => k

def upsetPlates (c : Cluster) (u : Option Flt) : Cluster :=
  match u with
  | some f => { c with plates := c.plates.write f.off (c.plates.read f.off ^^^ f.mask) }
  | none => c

/-- The instruction leaves the queue of a port; an MMA2 leaves both matrix queues. -/
def takeQ (k : Core) (port : Nat) (q : QIns) : Core :=
  if isMma2 q.word then { k with qA := k.qA.filter (fun x => decide (x.iid ≠ q.iid)), qB := k.qB.filter (fun x => decide (x.iid ≠ q.iid)) }
  else setQueue k port ((queueOf k port).tail)

/-- The instruction at the front of a port that may start: its waits are met, no arbitration holds the lane, and an
MMA2 stands at the front of both matrix queues (R123, R170, R330). -/
def frontReady (k : Core) (port : Nat) : Option QIns :=
  match (queueOf k port).head? with
  | none => none
  | some q =>
    if k.arb.isSome || !(waitsOf k q.word q.iid q.skip).isEmpty then none
    else if isMma2 q.word then
      (if port = 0 && (k.qB.all (fun x => decide (x.iid ≠ q.iid)) || decide (k.qB.head?.map (fun x => x.iid) = some q.iid)) then some q
       else none)
    else some q

/-- The trap of a reading instruction that found a bad scratchpad line (R317, Table 3.22). Its part in the trapping lane
is cut; what it forms in other lanes is released or discarded under the proofing rules (DESIGN CHOICE, log 59: R142 does
not say whether the other lanes' results are the trapping instruction's). -/
def spadTrap (cl core line : Nat) (q : QIns) (s : State) : State :=
  spadError core line (fun (s : State) =>
    trap cl 2 { lane := q.lane, pc := q.pc, op := opRec q.word, d1 := BitVec.ofNat 32 line, d2 := 1, d3 := 0 }
      (laneCut cl q.iid q.lane s)) s

/-- LANE_INSTRUCTION_START (R123, R177, R189): the instruction at the front of a port starts and its lines are
checked; it reads its operands and its results are formed. -/
def effLaneInstructionStart (core port : Nat) (upset : Option Flt) (s : State) : State :=
  let k0 := coreOf s core
  let cl := core / 9
  match frontReady k0 port with
  | none => s
  | some q =>
    let w := q.word
    if marksBlock s k0 q || (decide (iClass w = 4) && startBlocked s k0 q) then s else
    let fromPlates := decide (iClass w = 3 ∧ iOp w = 1)
    let k := takeQ (if fromPlates then k0 else upsetSpad k0 upset) port q
    let s := setCore s core k
    let s := if fromPlates then setCl s cl (upsetPlates (clOf s cl) upset) else s
    let c := clOf s cl
    let carry := decide (iClass w = 4) && carried s k q
    match (if fromPlates then none else (readLines s q carry).find? (spadBad k)) with
    | some line => spadTrap cl core line q s
    | none =>
      match (if fromPlates then (lineRange (farAddr q) (iI0 w * 64)).find? (plateBad c) else none) with
      | some line => plateTrap cl line (opRec w) q.lane q.pc (laneCut cl q.iid q.lane s)
      | none =>
        let res : Res :=
          if iClass w = 4 then { ops := firstAttempts s k q, lines := [], creg := none, sat := 0, kind := 0 }
          else if iClass w = 3 then
            { ops := [], lines := if iOp w = 1 then tloadLines s c q else tstoreLines k q, creg := none, sat := 0, kind := 0 }
          else if iOp w = 0x50 then { ops := [], lines := [], creg := none, sat := 0, kind := 0 }
          else vResult s k q
        let r : Run := { ins := q, res := res }
        let slot := if port = 1 && k.bOff then 0 else port
        let k := setRuns k slot (runsOf k slot ++ [r])
        let k := if inChain w then
            { k with
              lastPc := q.pc
              chain := k.chain ++ [{ ins := q, before := k.creg }]
              creg := match res.creg with
                | some (n, l) => k.creg.put n l
                | none => k.creg }
          else if iClass w = 5 then { k with lastPc := q.pc } else k
        setCore s core k

/-! ### Overflow replay -/

/-- The tile operation of an array that has overflowed: of its oldest instruction that has one, the first (R175). -/
def overflowed (k : Core) (u : Nat) : Option (Run × TileOp) :=
  ((k.runA ++ k.runB).foldr insRun []).findSome? (fun r =>
    match r.res.ops.find? (fun o => o.ov.isSome) with
    | some o => if o.unit = u then some (r, o) else none
    | none => none)

/-- The cause that a code names. -/
def causeOf (n : Nat) : OvCause := if n = 0 then .runFp22 else if n = 1 then .runFp32 else if n = 2 then .total else .output

/-- The operation that OVERFLOW_REPLAY lowers, and why: one that has overflowed; else the one that the overflow logic
falsely reports, its index and cause code, of the oldest instruction on the array that has it (R322). -/
def ovOf (k : Core) (u : Nat) (fo : Option (Nat × Nat)) : Option (Run × TileOp × OvCause) :=
  match overflowed k u, fo with
  | some (r, o), _ => o.ov.map (fun x => (r, o, x))
  | none, some (i, c) =>
    ((k.runA ++ k.runB).foldr insRun []).findSome? (fun r =>
      (r.res.ops.find? (fun o => decide (o.unit = u ∧ o.idx = i))).map (fun o => (r, o, causeOf c)))
  | none, none => none

/-- The matrix instructions of a core under way, one of them changed. -/
def mapRun (k : Core) (iid : Nat) (f : Run → Run) : Core :=
  { k with runA := k.runA.map (fun y => if y.ins.iid = iid then f y else y)
           runB := k.runB.map (fun y => if y.ins.iid = iid then f y else y) }

/-- The matrix instructions of a core under way without one of them. -/
def dropRun (k : Core) (iid : Nat) : Core :=
  { k with runA := k.runA.filter (fun y => decide (y.ins.iid ≠ iid)), runB := k.runB.filter (fun y => decide (y.ins.iid ≠ iid)) }

/-- The tile operations of a run with one replaced. -/
def putOp (r : Run) (o : TileOp) : Run :=
  { r with res := { r.res with ops := r.res.ops.map (fun x => if x.idx = o.idx then o else x) } }

/-- The dW tiles that stand in the scratchpad when an MMA2 traps: their contents are undefined (R175, log 5). -/
def undefTiles (core : Nat) (ops : List TileOp) (s : State) : State :=
  ops.foldl (fun s o =>
    if o.idx = dXIdx then s else
    o.out.foldl (fun s l =>
      let (bs, s) := drawBytes 64 s
      setCore s core (spadWrite (coreOf s core) { l with upd := (List.range 64).map (fun i => (i, bs.getD i 0)) })) s) s

/-- OVERFLOW_REPLAY (R161-R163, R322): an overflowed operation of an array (0 A, 1 B), or one that the overflow logic
falsely reports, is lowered, counted and attempted again; the fifth overflow traps SCALE_EXHAUSTED, whose D1 holds the
tile operation in its low bits (DESIGN CHOICE, log 59: R591 says 'as in D1[31:24] of Table 9.5' and names no bits of this
D1). -/
def effOverflowReplay (core u : Nat) (fo : Option (Nat × Nat)) (s : State) : State :=
  let k := coreOf s core
  let cl := core / 9
  match ovOf k u fo with
  | none => s
  | some (r, o, x) =>
    let q := r.ins
    let j := tileJob s q o.idx
    if o.attempt = 4 then
      let s := undefTiles core ((r.res.ops.takeWhile (fun y => decide (y.idx ≠ o.idx))).filter (fun y => y.ov.isNone))
        (setCore s core (dropRun k q.iid))
      trap cl 1 { lane := q.lane, pc := q.pc, op := opRec q.word
                  d1 := BitVec.ofNat 32 (tileCode o.idx), d2 := k.replayLast.setWidth 32 }
        (laneCut cl q.iid q.lane s)
    else
      let (kd, o') := lower s j o x
      let src := startSpad s k q o.idx u
      let o'' := attempt s k j src.mem (spadTag src) { o' with attempt := o.attempt + 1 }
      let k := mapRun { k with
        replay := k.replay.put kd (satInc 0xFF (k.replay.get 0 kd))
        replayLast := BitVec.ofNat 64 (at_ kd 0 4 + at_ (causeCode x) 4 2 + at_ u 6 1 + at_ o.attempt 8 3
          + at_ q.pc 16 14 + at_ s.aoCount.toNat 32 32) } q.iid (fun y => putOp y o'')
      let c := clOf s cl
      setCl (setCore s core k) cl { c with replaySummary := c.replaySummary ||| BitVec.ofNat 16 (2 ^ kd) }

/-! ### Completion -/

/-- A datapath fault on the bytes that a result writes, counted over its lines in order. -/
def fltLines : Nat → Byte → List LineWr → List LineWr
  | _, _, [] => []
  | off, mask, l :: ls =>
    if off < l.upd.length then
      { l with upd := (List.range l.upd.length).map (fun i =>
          let u := l.upd.getD i (0, 0)
          if i = off then (u.1, u.2 ^^^ mask) else u) } :: ls
    else l :: fltLines (off - l.upd.length) mask ls

def fltOps : Nat → Byte → List TileOp → List TileOp
  | _, _, [] => []
  | off, mask, o :: os =>
    let n := (lineBytes o.out).length
    if off < n then { o with out := fltLines off mask o.out } :: os else o :: fltOps (off - n) mask os

/-- A result as a faulty datapath writes it. -/
def applyFlt (r : Res) (f : Option Flt) : Res :=
  match f with
  | none => r
  | some f => if r.ops = [] then { r with lines := fltLines f.off f.mask r.lines } else { r with ops := fltOps f.off f.mask r.ops }

/-- The image of a line before it is written (R329). -/
def imageOf (k : Core) (line : Nat) : Image :=
  { line := line, data := k.mem.bytes (64 * line) 64, tag := spadTag k line, code := spadCode k line
    wmark := k.wmark.find line, rmask := k.rmask.get [] line }

/-- Bytes of the undo store in use: the images of the oldest entry are freed once it is proven (R329). The tile operations
of an entry get their verdicts together, by one PROOF_VERDICT. -/
def undoBytes (k : Core) : Nat :=
  match k.window with
  | [] => 0
  | e :: rest => (if e.proven then 0 else 64 * e.undo.length) + (rest.map (fun e => 64 * e.undo.length)).sum

/-- A completed instruction enters the proof window: images saved, lines written, marks set (R325, R326, R329). -/
def enterWindow (s : State) (k : Core) (port : Nat) (q : QIns) (chainIns : List ChainIns) (good got : Res) (proven : Bool) : Core :=
  let ls := resLines got
  let lines := ls.map (fun l => l.line)
  let imgs := (lines.eraseDups).map (imageOf k)
  let reads := ((if chainIns = [] then [q] else chainIns.map (fun x => x.ins)).map (fun x => readLines s x false)).flatten.eraseDups
  let k := spadWrites k ls
  { k with
    wmark := lines.foldl (fun t l => t.put l q.iid) k.wmark
    rmask := reads.foldl (fun t l => t.put l (q.iid :: t.get [] l)) k.rmask
    window := k.window ++ [{ ins := q, port := port, chainIns := chainIns, good := good, got := got, undo := imgs, proven := proven }] }

/-- Counted conversions of a released write (R186). -/
def addSat (k : Core) (kd n : Nat) : Core :=
  if n = 0 then k else { k with sat := k.sat.put kd (min 0xFF (k.sat.get 0 kd + n)) }

/-- The instructions of a chain are released with its ending instruction (R192). -/
def releaseIns (cl : Nat) (q : QIns) (chainIns : List ChainIns) (s : State) : State :=
  let s := (((chainIns.map (fun x => x.ins)).filter (fun x => decide (x.iid ≠ q.iid))) ++ [q]).foldl
    (fun s x => laneDone cl x.iid x.lane s) s
  if inChain q.word then freeLeft cl q.chain s else s

/-- A unit's mark after an event at the present time: suspect, or failed at a second event within 10 seconds (R338). -/
def nextMark (s : State) (m : Mark) : Mark :=
  if m.st = 2 then m
  else if m.st = 1 && recent s m.time then { st := 2, time := s.aoCount } else { st := 1, time := s.aoCount }

/-- UNIT_FAILED (R339, Table 9.5). -/
def unitFailedRec (unit : W32) (out : Nat) (lane : Nat) (earlier : W64) (s : State) : State :=
  record { unit := unit, cls := 0x0205, outcome := out, d0 := d0Of lane 0 0, d1 := earlier.setWidth 32 } s

/-- The unit id of unit u of a core: 0 matrix A, 1 matrix B, 2 vector, 3 plate port. -/
def coreUnit (core u : Nat) : W32 := if u = 3 then unitCore core 8 2 else unitCore core u 0

/-- A minority, or three failed landings, of a datapath (or checker) of a core (R338, R339). -/
def markCore (core u : Nat) (checker : Bool) (s : State) : State :=
  let k := coreOf s core
  let old := if checker then k.ck.get Mark.reset u else k.dp.get Mark.reset u
  let m := nextMark s old
  let k := if checker then { k with ck := k.ck.put u m } else { k with dp := k.dp.put u m }
  let s := setCore s core { k with lastEvent := s.aoCount.setWidth 32 }
  if m.st = 2 && old.st ≠ 2 then
    failCore core (unitFailedRec (coreUnit core u) u (coreLane s core) old.time s)
  else s

/-- A line moved three times without success: MOVE_PATH, the port is suspect, the program traps (R318). -/
def landFail (cl core : Nat) (q : QIns) (line : Nat) (s : State) : State :=
  let s := record { unit := coreUnit core 3, cls := 0x0209, outcome := 0, opcode := opRec q.word
                    d0 := d0Of q.lane q.pc (clOf s cl).group, d1 := BitVec.ofNat 32 line
                    d2 := BitVec.ofNat 32 (if iOp q.word = 1 then 1 else 0) } s
  markCore core 3 false
    (trap cl 2 { lane := q.lane, pc := q.pc, op := opRec q.word, d1 := BitVec.ofNat 32 line, d2 := 5
                 d3 := BitVec.ofNat 32 (if iOp q.word = 1 then 1 else 0) } (laneCut cl q.iid q.lane s))

/-- The first of `n` landed lines that failed all three attempts; `bad` counts the failed attempts by line (R318). -/
def lostLine (bad : List Nat) (n : Nat) : Option Nat := (List.range n).find? (fun i => decide (3 ≤ bad.getD i 0))

/-- The failed attempts of the lines that are moved: all `n` of them, or those up to the one that fails. -/
def movedBad (bad : List Nat) (n : Nat) : List Nat :=
  match lostLine bad n with
  | some i => bad.take (i + 1)
  | none => bad.take n

/-- Further moves of lines, at most two for each (R318). -/
def moreMoves (bad : List Nat) : Nat := (bad.map (fun b => min b 2)).sum

/-- Lines that landed on their second or third attempt, each a transient event (R318). -/
def landedLate (bad : List Nat) : Nat := (bad.filter (fun b => decide (0 < b ∧ b < 3))).length

/-- Further moves of a plate port are counted, and the transient events (R318, Table 9.8). -/
def countMoves (core : Nat) (bad : List Nat) (s : State) : State :=
  let k := coreOf s core
  setCore s core { k with nMoveRepeat := min 0xFF (k.nMoveRepeat + moreMoves bad)
                          nTransient := min 0xFFFF (k.nTransient + landedLate bad) }

/-- Completion of a plate-port instruction: `bad` counts, by line, the landings that failed (R318). -/
def completePlate (cl core : Nat) (r : Run) (bad : List Nat) (s : State) : State :=
  let q := r.ins
  let k := coreOf s core
  let k' := { k with runP := k.runP.tail }
  let ls := r.res.lines
  let s := countMoves core (movedBad bad ls.length) (setCore s core k')
  match lostLine bad ls.length with
  | some i => landFail cl core q ((ls.map (fun l => l.line)).getD i 0) s
  | none =>
    if iOp q.word = 2 then
      let c := clOf s cl
      laneDone cl q.iid q.lane (setCl s cl (ls.foldl (fun c l => plateWrite c l.line l.tag l.upd) c))
    else if matrixOnly s then laneDone cl q.iid q.lane (setCore s core (spadWrites (coreOf s core) ls))
    else setCore s core (enterWindow s (coreOf s core) 3 q [] r.res r.res true)

/-- Completion of a vector instruction. -/
def completeVector (cl core : Nat) (r : Run) (f : Option Flt) (s : State) : State :=
  let q := r.ins
  let k := coreOf s core
  let k' := { k with runV := k.runV.tail }
  if iOp q.word = 0x50 then
    laneDone cl q.iid q.lane (setCore s core { k' with pat := k'.pat.put (vPat q.word) [q.a, q.b, q.c, q.d] })
  else if vDest q.word ≠ 0 then freeLeft cl q.chain (setCore s core k')
  else
    let members := k.chain.filter (fun x => decide (x.ins.chain = q.chain))
    let k' := { k' with chain := k.chain.filter (fun x => decide (x.ins.chain ≠ q.chain)) }
    if matrixOnly s then
      releaseIns cl q members (setCore s core (addSat (spadWrites k' (applyFlt r.res f).lines) r.res.kind r.res.sat))
    else setCore s core (enterWindow s k' 2 q members r.res (applyFlt r.res f) false)

/-- Whether an instruction has a tile operation on an array. -/
def onArray (r : Run) (u : Nat) : Bool := r.res.ops.any (fun o => decide (o.unit = u))

/-- A result whose overflows the overflow logic has missed (R322). -/
def missedOv (r : Res) : Res := { r with ops := r.ops.map (fun o => { o with ov := none }) }

/-- Completion of a matrix instruction; what it leaves to carry over is known from here on (R157). -/
def completeMatrix (core port : Nat) (r : Run) (f : Option Flt) (s : State) : State :=
  let q := r.ins
  let k := dropRun (coreOf s core) q.iid
  let k' := { k with carryA := if onArray r 0 then carryOut s 0 r else k.carryA
                     carryB := if onArray r 1 then carryOut s 1 r else k.carryB }
  setCore s core (enterWindow s k' port q [] r.res (applyFlt (missedOv r.res) f) false)

/-- Whether the window and the undo store have room for an entry; the entry of an arbitration keeps its place in both
(R325, R329, R330). -/
def windowRoom (k : Core) (r : Run) : Bool :=
  let n := (k.arb.map (fun a => (resLines a.entry.good).length)).getD 0
  decide (k.window.length + b2n k.arb.isSome < 16)
    && ((k.window.isEmpty && k.arb.isNone) || decide (undoBytes k + 64 * (n + (resLines r.res).length) ≤ 0x100000))

/-- Whether a completed instruction becomes an entry (R325, R331). -/
def isEntry (s : State) (q : QIns) : Bool :=
  decide (iClass q.word = 4) ||
  (!(matrixOnly s) && ((decide (iClass q.word = 3 ∧ iOp q.word = 1)) || (decide (iClass q.word = 5 ∧ iOp q.word ≠ 0x50) && decide (vDest q.word = 0))))

/-- Whether an instruction may write its results: its attempts have ended, unless an overflow is missed (R162, R322);
earlier instructions of its arrays have written theirs (R156); under the matrix-only level no line that a vector or tile
instruction writes carries a mark (R331); and an entry has room (R325, R329). -/
def mayComplete (s : State) (k : Core) (r : Run) (missed : Bool) : Bool :=
  let toSpad := decide (iClass r.ins.word = 5 ∨ iOp r.ins.word = 1)
  (missed || r.res.ops.all (fun o => o.ov.isNone))
  && [0, 1].all (fun u => !(onArray r u) || (arrayRuns k u r.ins.iid).isEmpty)
  && !(matrixOnly s && decide (iClass r.ins.word ≠ 4) && toSpad
        && r.res.lines.any (fun l => (k.wmark.find l.line).isSome || decide (k.rmask.get [] l.line ≠ [])))
  && (!(isEntry s r.ins) || windowRoom k r)

/-- LANE_INSTRUCTION_COMPLETE (R99, R325): the oldest started instruction of a port has formed all of its results, with
the datapath fault it met, the failed landings of its lines (R318), and whether the overflow logic missed an overflow
(R322). -/
def effLaneInstructionComplete (core port : Nat) (f : Option Flt) (bad : List Nat) (missed : Bool) (s : State) : State :=
  let k := coreOf s core
  match (runsOf k port).head? with
  | none => s
  | some r =>
    if !(mayComplete s k r missed) then s
    else match iClass r.ins.word with
      | 3 => completePlate (core / 9) core r bad s
      | 5 => completeVector (core / 9) core r f s
      | _ => completeMatrix core port r f s

end Sys2Proof.Machine
end

