-- ==== Sys2Proof/Machine/Proof.lean ====
section
/-! DEFINITION. Proof: the verdicts of the proof window, undo, arbitration, unit health, lane hand-over, core removal
and occultation (chapter 09). -/

namespace Sys2Proof.Machine

/-! ### Checks -/

/-- What a failed check puts into an arbitration record: D1, D3 and D4 of Table 9.5, and the failing unit. -/
structure Fail where
  d1 : W32
  d3 : W32
  d4 : W32
  unit : Nat

/-- D1 of the arbitration classes: unit, check kind, index, tile operation. -/
def arbD1 (unit kind idx tile : Nat) : W32 := BitVec.ofNat 32 (at_ unit 0 4 + at_ kind 4 4 + at_ idx 8 16 + at_ tile 24 8)


/-- The byte that a list of lines writes at an address. -/
def lineByte (ls : List LineWr) (a : Nat) : Option Byte :=
  ls.findSome? (fun l => if l.line = a / 64 then (l.upd.find? (fun u => u.1 = a % 64)).map (fun u => u.2) else none)

/-- Stored element e of a vector destination in a list of lines. -/
def vecElem (s : State) (q : QIns) (ls : List LineWr) (e : Nat) : Nat :=
  let n := fmtNibbles (fmtK s (iMod q.word / 16))
  let (a, sh) := vDestAddr s q e
  let b := fun i => ((lineByte ls (a + i)).getD 0)
  if n = 1 then (b 0).toNat / 2 ^ sh % 16 else leNat ((List.range (n / 2)).map b)

/-- The first element in which a vector result differs from its duplicate, and the XOR; when only the flag bitmap
differs, the row of the first differing bit, and 1 (R323, Table 9.5). -/
def vecDiff (s : State) (q : QIns) (good got : Res) : Option (Nat × Nat) :=
  if good.lines = got.lines then none
  else match (List.range 2048).find? (fun e => decide (vecElem s q good.lines e ≠ vecElem s q got.lines e)) with
    | some e => some (e, Nat.xor (vecElem s q good.lines e) (vecElem s q got.lines e))
    | none =>
      let base := (patOf q.pat).flagLine * 64
      let bitAt := fun (ls : List LineWr) r => ((lineByte ls (base + r / 8)).getD 0).getLsbD (r % 8)
      ((List.range 2048).find? (fun r => decide (bitAt good.lines r ≠ bitAt got.lines r))).map (fun r => (r, 1))

/-- The check of an entry's written result (R320, R323); none when it passes. -/
def checkEntry (s : State) (e : Entry) (good got : Res) : Option Fail :=
  if iClass e.ins.word = 4 then
    got.ops.findSome? (fun o =>
      if o.ov.isSome then some { d1 := arbD1 o.unit 0 0 (tileCode o.idx), d3 := 0, d4 := 0, unit := o.unit }
      else (checkTile s (tileJob s e.ins o.idx) o).map (fun f =>
        { d1 := arbD1 o.unit (b2n f.row) f.idx (tileCode o.idx), d3 := f.d3, d4 := f.d4, unit := o.unit }))
  else (vecDiff s e.ins good got).map (fun x =>
    { d1 := arbD1 e.port 2 x.1 0, d3 := BitVec.ofNat 32 x.1, d4 := BitVec.ofNat 32 x.2, unit := e.port })

/-- A failure that a faulty checker reports: what it names is not determined (log 5). -/
def falseFail (e : Entry) (s : State) : Fail × State :=
  let (a, s) := drawWord s
  let (b, s) := drawWord s
  let m := decide (iClass e.ins.word = 4)
  let op := e.got.ops[fld a 32 16 % max 1 e.got.ops.length]?
  let u := (op.map (fun o => o.unit)).getD e.port
  ({ d1 := arbD1 u (if m then fld a 0 1 else 2) (if m then (if bit a 0 then fld a 8 7 else fld a 8 6) else fld a 8 11)
             (tileCode ((op.map (fun o => o.idx)).getD 0))
     d3 := if m then b.setWidth 32 else BitVec.ofNat 32 (fld a 8 11), d4 := (b >>> 32).setWidth 32, unit := u }, s)

/-! ### Undo -/

/-- A saved line is restored; marks of entries that no longer stand are not (R326, R330). -/
def restoreImage (live : List Nat) (k : Core) (im : Image) : Core :=
  { k with
    mem := k.mem.writes (64 * im.line) im.data
    tag := k.tag.put im.line im.tag
    code := k.code.put im.line im.code
    wmark := match im.wmark with
      | some i => if live.contains i then k.wmark.put im.line i else k.wmark.del im.line
      | none => k.wmark.del im.line
    rmask := k.rmask.put im.line (im.rmask.filter (fun i => live.contains i)) }

/-- Entries, youngest first, are undone (R330 step 3). -/
def undoEntries (live : List Nat) (k : Core) (es : List Entry) : Core :=
  es.foldl (fun k e => e.undo.foldl (restoreImage live) k) k

/-- Marks of entries that no longer stand are cleared (R326). -/
def clearMarks (live : List Nat) (k : Core) : Core :=
  { k with
    wmark := k.wmark.filter (fun p => live.contains p.2)
    rmask := (k.rmask.mapV (fun l => l.filter (fun i => live.contains i))).filter (fun p => p.2 ≠ []) }

/-- Instructions by issue number, each once. -/
def byAge (l : List QIns) : List QIns :=
  (l.foldl (fun acc q => if acc.any (fun x => x.iid = q.iid) then acc else acc ++ [q]) []).mergeSort (fun a b => decide (a.iid ≤ b.iid))

/-- Instructions put back at the front of their queues in program order (R330 step 5). -/
def requeue (k : Core) (l : List QIns) : Core :=
  [0, 1, 2, 3].foldl (fun k' p => setQueue k' p ((l.filter (fun q => (portsOf q.word k).contains p)) ++ queueOf k' p)) k

/-- Whether a program is stopping after a trap, a GROUP_STOP or the stop of R33 (R333). -/
def stopping (s : State) (cl : Nat) : Bool :=
  match (clOf s cl).prog with
  | some p => p.ending = 2
  | none => true

/-- A list of instructions of one lane is cut. -/
def cutAll (cl : Nat) (l : List QIns) (s : State) : State := l.foldl (fun s q => laneCut cl q.iid q.lane s) s

/-- The instructions of an entry: itself and its chain. -/
def entryIns (e : Entry) : List QIns := byAge (e.chainIns.map (fun c => c.ins) ++ [e.ins])

/-- The check of the entry at position `pos` has failed: R330 steps 1 to 3 and 5, and the start of its arbitration. -/
def failEntry (core pos : Nat) (e : Entry) (f : Fail) (s : State) : State :=
  let k := coreOf s core
  let cl := core / 9
  let older := k.window.take pos
  let younger := k.window.drop (pos + 1)
  let live := older.map (fun x => x.ins.iid)
  let after := fun (q : QIns) => decide (e.ins.iid < q.iid)
  let keep := fun (l : List Run) => l.filter (fun r => !(after r.ins))
  let cancelled := ((k.runA ++ k.runB ++ k.runV ++ k.runP).filter (fun r => after r.ins)).map (fun r => r.ins)
  let chains := (k.chain ++ (younger.map (fun y => y.chainIns)).flatten).mergeSort (fun a b => decide (a.ins.iid ≤ b.ins.iid))
  let redoChain := chains.filter (fun c => after c.ins)
  let again := byAge (cancelled ++ younger.map (fun y => y.ins) ++ redoChain.map (fun c => c.ins))
  let k := clearMarks live (undoEntries live k (younger.reverse ++ [e]))
  let k := { k with
    window := older
    runA := keep k.runA, runB := keep k.runB, runV := keep k.runV, runP := keep k.runP
    carryA := none, carryB := none
    chain := chains.filter (fun c => !(after c.ins))
    creg := match redoChain.head? with
      | some c => c.before
      | none => k.creg
    arb := some { entry := e, unit := f.unit, step := 2, round := 0, vote := 0, d1 := f.d1, d3 := f.d3, d4 := f.d4
                  gone := 1 + younger.length, order := (clOf s cl).failNo, cut := cancelled.length, time := s.aoCount } }
  let s := setCl s cl { clOf s cl with failNo := (clOf s cl).failNo + 1 }
  if stopping s cl then cutAll cl again (setCore s core k) else setCore s core (requeue k again)

/-- PROOF_VERDICT (R320-R323, R328, R330): the check of an entry gives its verdict; `checker` is a faulty verdict. While
an arbitration of the lane is under way a failing verdict has no effect; it comes after it (log 1). -/
def effProofVerdict (core pos : Nat) (checker : Bool) (s : State) : State :=
  let k := coreOf s core
  match k.window[pos]? with
  | none => s
  | some e =>
    if e.proven then s
    else match checkEntry s e e.good e.got, checker with
      | none, false | some _, true => setCore s core { k with window := k.window.set pos { e with proven := true } }
      | some f, false => if k.arb.isSome then s else failEntry core pos e f s
      | none, true => if k.arb.isSome then s else let (f, s) := falseFail e s; failEntry core pos e f s

/-- ENTRY_RELEASE (R326-R328, R124, R186, R192): the oldest entry is proven and is released. -/
def effEntryRelease (core : Nat) (s : State) : State :=
  let k := coreOf s core
  match k.window with
  | [] => s
  | e :: rest =>
    if e.proven then
      let k := clearMarks (rest.map (fun x => x.ins.iid)) { k with window := rest }
      releaseIns (core / 9) e.ins e.chainIns (setCore s core (addSat k e.got.kind e.got.sat))
    else s

/-! ### Arbitration -/

/-- An arbitration record (Table 9.5); the cycles of D6 are not timed by the model, so they are free (log 5). -/
def arbRec (core cls out spare : Nat) (a : Arb) (s : State) : State :=
  let (c, s) := drawWord s
  let q := a.entry.ins
  record { unit := coreUnit core a.unit, cls := cls, outcome := if stopping s (core / 9) then 3 else out
           opcode := opRec q.word, d0 := d0Of q.lane q.pc (clOf s (core / 9)).group, d1 := a.d1
           d2 := BitVec.ofNat 32 (a.vote + 4 * spare), d3 := a.d3, d4 := a.d4
           d5 := BitVec.ofNat 32 (a.gone % 65536 + 65536 * a.cut), d6 := c.setWidth 32 } s

/-- The result of executing an entry again: a matrix entry with the lowerings of its final attempt, start values from the
scratchpad (R334); any other entry, which is deterministic, as before. -/
def repeatRes (s : State) (k : Core) (e : Entry) : Res :=
  if iClass e.ins.word = 4 then
    { e.good with ops := e.good.ops.map (fun o => attempt s k (tileJob s e.ins o.idx) k.mem (spadTag k) { o with ov := none }) }
  else e.good

/-- Bitwise equality of every written byte (R334). -/
def sameBytes (a b : Res) : Bool := decide (resLines a = resLines b)

/-- Whether an execution overflowed: it agrees with nothing (R322). -/
def anyOv (r : Res) : Bool := r.ops.any (fun o => o.ov.isSome)

/-- The entry of an arbitration takes its result; it stands proven behind the older entries (R328). At a stop nothing is
written (R333). -/
def arbRelease (core : Nat) (a : Arb) (r : Res) (s : State) : State :=
  let k := { coreOf s core with arb := none }
  if stopping s (core / 9) then cutAll (core / 9) (entryIns a.entry) (setCore s core k)
  else setCore s core (enterWindow s k a.entry.port a.entry.ins a.entry.chainIns r r true)

/-- The entry of an arbitration is discarded. -/
def arbDiscard (core : Nat) (a : Arb) (s : State) : State :=
  cutAll (core / 9) (entryIns a.entry) (setCore s core { coreOf s core with arb := none })

/-- ARBITRATION_REPEAT_DONE (R334, R337): the repeat of the failed entry ends, with the datapath fault and the checker
fault it met. -/
def effArbitrationRepeatDone (core : Nat) (f : Option Flt) (checker : Bool) (s : State) : State :=
  let k := coreOf s core
  match k.arb with
  | none => s
  | some a =>
    if a.step ≠ 2 then s else
    let clean := repeatRes s k a.entry
    let r := applyFlt clean f
    let ok := !(anyOv r) && ((checkEntry s a.entry clean r).isNone != checker)
    if ok then
      let s := setCore s core { k with nTransient := satInc 0xFFFF k.nTransient }
      arbRelease core a r (arbRec core 0x0201 0 0 a s)
    else
      let a := { a with vote := if !(anyOv r) && sameBytes r a.entry.got then 1 else 2, step := 3 }
      if (clOf s (core / 9)).spare < 9 then setCore s core { k with arb := some a }
      else failCore core (arbDiscard core a (arbRec core 0x0204 3 0 a s))

/-- Whether a core's request for the spare is the next to be served: in the order of the check failures. Those of one
cycle come as verdicts one after the other, the lower lane first (R335). -/
def spareTurn (s : State) (core : Nat) (a : Arb) : Bool :=
  (laneCores s (core / 9)).all (fun c => match (coreOf s c).arb with
    | some b => decide (b.step ≠ 3) || decide (a.order ≤ b.order)
    | none => true)

/-- Whether a lane of a cluster waits for, or runs on, the spare (R335). -/
def spareWanted (s : State) (cl : Nat) : Bool :=
  (laneCores s cl).any (fun c => match (coreOf s c).arb with
    | some b => decide (b.step = 3)
    | none => false)

/-- One more datapath or checker minority of a core. -/
def countMinority (core : Nat) (checker : Bool) (s : State) : State :=
  let k := coreOf s core
  setCore s core (if checker then { k with nChecker := satInc 0xFFFF k.nChecker } else { k with nDatapath := satInc 0xFFFF k.nDatapath })

/-- SPARE_EXECUTION_DONE (R334, R335): the spare's execution of the entry ends, with the datapath fault and the checker
fault that the spare met. -/
def effSpareExecutionDone (core : Nat) (f : Option Flt) (checker : Bool) (s : State) : State :=
  let k := coreOf s core
  match k.arb with
  | none => s
  | some a =>
    let c := clOf s (core / 9)
    if a.step ≠ 3 || !(spareTurn s core a) || decide (9 ≤ c.spare) then s else
    let q := a.entry.ins
    let clean := repeatRes s k a.entry
    let r := applyFlt clean f
    let proven := !(anyOv r) && ((checkEntry s a.entry clean r).isNone != checker)
    if proven && a.vote = 1 && sameBytes r a.entry.got then
      arbRelease core a a.entry.got (arbRec core 0x0203 1 1 a (markCore core a.unit true (countMinority core true s)))
    else if proven then
      arbRelease core a r (arbRec core 0x0202 2 2 a (markCore core a.unit false (countMinority core false s)))
    else
      let sp := core / 9 * 9 + c.spare
      let s := markCore sp a.unit false (countMinority sp false s)
      let s := setCore s core { coreOf s core with nVoid := satInc 0xFF (coreOf s core).nVoid }
      let s := arbRec core 0x0204 3 3 a s
      if a.round = 0 then setCore s core { coreOf s core with arb := some { a with round := 1 } }
      else
        let s := markCore core a.unit true (markCore core a.unit false (arbDiscard core a s))
        trap (core / 9) 2 { lane := q.lane, pc := q.pc, op := opRec q.word, d1 := a.d1, d2 := 6, d3 := 0 } s

/-! ### Hand-over and removal -/

/-- A core's scratchpad holds undefined data under valid line codes and tags (R33, R342; log 5). -/
def scrambleSpad (core : Nat) (s : State) : State :=
  let (bs, s) := drawBytes 0x300000 s
  let (ts, s) := drawBytes 0xC000 s
  let m := Mem.writes [] 0 bs
  let tag := fun i => (ts.getD i 0).toNat % 5
  let lines := List.range 0xC000
  setCore s core { coreOf s core with
    mem := m
    tag := lines.map (fun i => (i, tag i))
    code := lines.map (fun i => (i, lineCode (m.bytes (64 * i) 64) (tag i)))
    wmark := [], rmask := [] }

/-- The contents of a lane move from one core of a cluster to another (R32, R341). -/
def moveLane (src dst : Nat) (s : State) : State :=
  let a := coreOf s src
  let s := setCore s dst { coreOf s dst with
    mem := a.mem, tag := a.tag, code := a.code, wmark := a.wmark, rmask := a.rmask, pat := a.pat, creg := a.creg
    chain := a.chain, chainNo := a.chainNo, lastIss := a.lastIss, carryA := none, carryB := none }
  let s := setCore s src { coreOf s src with chain := [], creg := [], carryA := none, carryB := none, wmark := [], rmask := [] }
  if a.spadFailed then scrambleSpad dst s else s

/-- Physical core `n` of a cluster is retired for good: the register, the list in the boot flash and the record
(R33, R34, Table 9.5). -/
def retired (cl n lane : Nat) (s : State) : State :=
  coreRetiredRec cl n lane { s with flash := { s.flash with cores := s.flash.cores ++ [9 * cl + n] } }

/-- CORE_REMOVAL (R33): the spare takes over the failed core's lane, or the lane is masked, or the cluster goes
offline. -/
def removeCore (cl n : Nat) (s : State) : State :=
  let c := clOf s cl
  let lane := coreLane s (9 * cl + n)
  if c.mapState = 3 then s
  else if n = c.spare then
    retired cl n 15 (setCl s cl { c with spare := 15, retired := if c.retired = 15 then n else c.retired, mapState := max c.mapState 1 })
  else if c.spare < 9 then
    let s := moveLane (9 * cl + n) (9 * cl + c.spare) s
    retired cl n lane (setCl s cl { clOf s cl with
      lanes := c.lanes.set lane c.spare, spare := 15, retired := if c.retired = 15 then n else c.retired, mapState := 1 })
  else if c.mapState < 2 then
    retired cl n lane (trap cl 6 { pc := c.pc } (setCl s cl { c with lanes := c.lanes.set lane 15, mapState := 2 }))
  else retired cl n lane (takeOffline cl s)

/-- The intermediate rail has sagged to the first stage or beyond (R344). -/
def sagHeld (s : State) : Bool := decide (1 ≤ s.pwr.sagStage)

/-- CLU_OCC_STATUS.STOP_CAUSE (R344). -/
def occStop (s : State) (c : Cluster) : Nat :=
  if c.mapState = 3 then 4 else if 9 ≤ c.spare then 1 else if !c.occEnable then 2 else if sagHeld s then 3 else 0

/-- Whether a unit of a core is suspect: its mark is not yet older than 10 seconds (R338). -/
def isSuspect (s : State) (m : Mark) : Bool := m.st = 1 && recent s m.time
def coreSuspect (s : State) (k : Core) : Bool :=
  [0, 1, 2, 3].any (fun u => isSuspect s (k.dp.get Mark.reset u) || isSuspect s (k.ck.get Mark.reset u))

/-- The lane that is handed over next: one whose core is suspect, else the next in turn; a masked lane has no core to
hand over (R340). -/
def dueLane (s : State) (cl : Nat) : Nat :=
  match (List.range 8).find? (fun l => match laneCore (clOf s cl) cl l with
    | some k => coreSuspect s (coreOf s k)
    | none => false) with
  | some l => l
  | none => (clOf s cl).occNext

/-- ROTATION_DUE (R340, R341, R499): issue is held for a hand-over. -/
def effRotationDue (cl : Nat) (s : State) : State :=
  let c := clOf s cl
  if cl < 32 ∧ occStop s c = 0 then setCl s cl { c with rotDue := true, gated := false } else s

/-- ROTATION_POSTPONED (R341). -/
def effRotationPostponed (cl : Nat) (s : State) : State :=
  let c := clOf s cl
  if c.rotDue then setCl s cl { c with rotDue := false, occPostponed := satInc 0xFFFF c.occPostponed } else s

/-- Whether a cluster is at an idle point: no broadcast instruction is outstanding, the windows are empty, no chain is
open (R32, R341). -/
def atIdlePoint (s : State) (cl : Nat) : Bool :=
  (laneCores s cl).all (fun k => coreQuiet (coreOf s k)) && !(clOf s cl).chainOpen

/-- The spare is free for a hand-over: it is not under self-test. -/
def spareFree (s : State) (cl : Nat) : Bool :=
  let c := clOf s cl
  decide (c.spare < 9) && !(coreOf s (9 * cl + c.spare)).testBusy

/-- One rotation at an idle point: the due lane moves to the spare, and the vacated core is tested (R341, R342). -/
def rotate (cl : Nat) (s : State) : State :=
  let c := clOf s cl
  let l := dueLane s cl
  match laneCore c cl l with
  | none => setCl s cl { c with rotDue := false }
  | some old =>
    let s := moveLane old (9 * cl + c.spare) s
    let s := setCl s cl { clOf s cl with
      lanes := c.lanes.set l c.spare, spare := old % 9, rotDue := false, occTesting := old % 9
      occRotations := c.occRotations + 1, occNext := if l = c.occNext then (c.occNext + 1) % 8 else c.occNext }
    setCore s old { coreOf s old with testBusy := true }

/-- CLUSTER_IDLE_POINT (R33, R341): failed cores are removed, then a due hand-over is made. -/
def effClusterIdlePoint (cl : Nat) (s : State) : State :=
  let c := clOf s cl
  if cl < 32 ∧ atIdlePoint s cl then
    let waits := decide (c.spare < 9) && !(spareFree s cl) && c.removals.any (fun n => decide (n ≠ c.spare))
    if waits then s
    else
      let s := c.removals.foldl (fun s n => removeCore cl n s) (setCl s cl { c with removals := [] })
      if c.rotDue && spareFree s cl && decide (occStop s (clOf s cl) = 0) then rotate cl s
      else if c.rotDue && decide (occStop s (clOf s cl) ≠ 0) then setCl s cl { clOf s cl with rotDue := false } else s
  else s

/-! ### Self-test and health -/

/-- OCC_TEST_RUN (Table 9.10, R55): software starts a self-test of the spare. -/
def effOccTestRun (core : Nat) (s : State) : State :=
  hostAccess (fun s =>
    let cl := core / 9
    let c := clOf s cl
    let k := coreOf s core
    if core < 288 ∧ c.spare = core % 9 then
      (if k.testBusy then s
       else setCl (setCore s core { k with testBusy := true }) cl { c with occTesting := core % 9 })
    else s) s

/-- One failed item of a self-test: item number, unit (0-3 a datapath, 4-7 a checker, 8 the scratchpad), 1 failed once or
2 failed twice, the expected and the observed word (R343). -/
def selfTestItem (core : Nat) (x : Nat × Nat × Nat × W32 × W32) (s : State) : State :=
  let (item, u, n, want, have_) := x
  let unit := if u < 8 then coreUnit core (u % 4) else unitCore core 8 0
  let k := coreOf s core
  let s := setCore s core { k with
    lastEvent := s.aoCount.setWidth 32, testItem := item % 256, testResult := if n = 2 then 3 else max k.testResult 2 }
  let s := record { unit := unit, cls := 0x0207, outcome := if n = 2 then 2 else 1, d1 := BitVec.ofNat 32 item, d2 := want
                    d3 := have_ } s
  if n = 2 then
    let k := coreOf s core
    let m : Mark := { st := 2, time := s.aoCount }
    let old := if u < 4 then k.dp.get Mark.reset u else k.ck.get Mark.reset (u % 4)
    let s := if u < 4 then unitFailedRec unit u 15 old.time (setCore s core { k with dp := k.dp.put u m })
      else if u < 8 then unitFailedRec unit (u % 4) 15 old.time (setCore s core { k with ck := k.ck.put (u % 4) m })
      else s
    failCore core s
  else if u < 8 then markCore core (u % 4) (decide (4 ≤ u)) s else s

/-- SELF_TEST_END (R335, R342, R343): the self-test of a core ends with the items that failed; a core that failed is
retired at once. A test on the spare that a spare execution suspends does not end. -/
def effSelfTestEnd (core : Nat) (items : List (Nat × Nat × Nat × W32 × W32)) (s : State) : State :=
  let cl := core / 9
  let k := coreOf s core
  if k.testBusy && !(decide ((clOf s cl).spare = core % 9) && spareWanted s cl) then
    let s := setCore s core { k with testBusy := false, testResult := 1 }
    let s := scrambleSpad core (setCl s cl { clOf s cl with occTesting := 15 })
    let s := items.foldl (fun s x => selfTestItem core x s) s
    let c := clOf s cl
    if (coreOf s core).failed && c.removals.contains (core % 9) then
      removeCore cl (core % 9) (setCl s cl { c with removals := c.removals.erase (core % 9) })
    else s
  else s

/-- A mark lapses once its event is more than 10 seconds old (R338). -/
def lapse (s : State) (m : Mark) : Mark := if m.st = 1 && !(recent s m.time) then { m with st := 0 } else m

/-- SUSPECT_LAPSE (R338): unit kind 0 the datapath and 1 the checker `4 * core + u`, 2 the update datapath
`3 * cluster + d`, 3 the tile mover of a die. -/
def effSuspectLapse (unit key : Nat) (s : State) : State :=
  match unit with
  | 0 => let k := coreOf s (key / 4)
         setCore s (key / 4) { k with dp := k.dp.put (key % 4) (lapse s (k.dp.get Mark.reset (key % 4))) }
  | 1 => let k := coreOf s (key / 4)
         setCore s (key / 4) { k with ck := k.ck.put (key % 4) (lapse s (k.ck.get Mark.reset (key % 4))) }
  | 2 => let c := clOf s (key / 3)
         setCl s (key / 3) (match key % 3 with
          | 0 => { c with updMain := lapse s c.updMain }
          | 1 => { c with updDup := lapse s c.updDup }
          | _ => { c with updArb := lapse s c.updArb })
  | 3 => let d := dieOf s key
         setDie s key { d with mover := lapse s d.mover }
  | _ => s

end Sys2Proof.Machine
end

