-- ==== Sys2Proof/Machine/Sync.lean ====
section
/-! DEFINITION. Sync: unknown instructions, the instructions of the unit queues (TMOVE, LEVENT, UPD) and the sync class
(chapter 03). -/

namespace Sys2Proof.Machine

/-! ### Unknown instructions -/

/-- Whether a class and opcode are listed in Tables 3.5-3.15. -/
def knownIns (cls op : Nat) : Bool :=
  match cls with
  | 0 => (decide (1 ≤ op ∧ op ≤ 0x14) && decide (op ≠ 0x0F)) || decide (op = 0x18 ∨ op = 0x20 ∨ op = 0x21)
  | 1 => decide (op ≤ 3) || decide (8 ≤ op ∧ op ≤ 0x0D) || decide (op = 0x0F)
  | 2 => decide (1 ≤ op ∧ op ≤ 3)
  | 3 => decide (1 ≤ op ∧ op ≤ 4) || decide (op = 8)
  | 4 => decide (op = 1 ∨ op = 2)
  | 5 => (vUse op).isSome || decide (op = 0x50)
  | 6 => decide (1 ≤ op ∧ op ≤ 4)
  | 7 => decide (1 ≤ op ∧ op ≤ 6)
  | _ => false

/-- UNKNOWN_INSTRUCTION (R95, R588): BAD_CLASS, or BAD_OPCODE after the check of the token to be armed. -/
def effUnknownInstruction (cl : Nat) (s : State) : State :=
  let w := curWord (clOf s cl)
  if cl < 32 ∧ running s cl ∧ !(knownIns (iClass w) (iOp w)) then
    issueWith cl w [(decide (8 ≤ iClass w), 0x40), (decide (3 ≤ iClass w) && tokBusy s cl w, 0x46), (true, 0x41)] id s
  else s

/-! ### Unit queues -/

/-- An instruction of a unit queue, its registers read at issue (R98). -/
def mkU (s : State) (cl : Nat) (w : W128) (mask epoch : Nat) : UIns :=
  let c := clOf s cl
  { iid := s.insNo, word := w, pc := c.pc, a := sreg c (iSA w), b := sreg c (iSB w), c := sreg c (iSC w), mask := mask
    epoch := epoch }

/-- The instruction is issued to a unit, which owes its release as 8; its token is armed (R99, R124). -/
def issueU (cl : Nat) (w : W128) (tile : Bool) (push : Cluster → Cluster) (s : State) : State :=
  let s := armTV cl w s
  let c := push (clOf s cl)
  let iss : Iss := { iid := s.insNo, word := w, pc := c.pc, tok := if iTV w then some (iTok w) else none, owed := [8]
                     tile := tile, chain := none, ends := false }
  goNext cl { setCl s cl { c with issued := c.issued ++ [iss] } with insNo := s.insNo + 1 }

/-- TMOVE, LEVENT and UPD at issue: checks, then a hold until the waits are met in every lane and the queue has room
(R97, R121, R123). -/
def issueUnit (op : Nat) (fs : List (Nat × Nat)) (tile : Bool) (checks : State → Cluster → W128 → List (Bool × Nat))
    (queue : Cluster → List UIns) (push : Cluster → UIns → Cluster) (cl : Nat) (s : State) : State :=
  if atIns s cl 3 op then
    let c := clOf s cl
    let w := curWord c
    issueWith cl w
      ([(tokBusy s cl w, 0x46),
        (!(onlyFields w (bCommon w ++ fs)) || wengBad w || decide (iLmask w ≠ 0xFF), 0x42)] ++ checks s c w) (fun s =>
      if !(waitsMet s cl w (effMask c w)) || decide (8 ≤ (queue c).length) then hold cl 4 [] s
      else issueU cl w tile (fun c => push c (mkU s cl w (effMask c w) 0)) s) s
  else s

/-- TMOVE: a descriptor list of I0 records (Table 3.10, R250). -/
def effTmove (cl : Nat) (s : State) : State :=
  issueUnit 3 [(90, 6), (32, 16)] true (fun _ _ w => [(decide (iI0 w < 1 ∨ 4096 < iI0 w), 0x42)])
    (fun c => c.mover) (fun c u => { c with mover := c.mover ++ [u] }) cl s

/-- LEVENT (Table 3.10, R260). -/
def effLevent (cl : Nat) (s : State) : State :=
  issueUnit 4 [(32, 16), (96, 2)] true (fun _ _ _ => []) (fun c => c.mover)
    (fun c u => { c with mover := c.mover ++ [u] }) cl s

/-- The roles that a kernel uses (Table 6.9); none for a number that is no kernel. -/
def kernelRoles (k : Nat) : List Nat :=
  match k with
  | 1 => [1, 2, 3, 4, 5]
  | 2 | 3 | 4 => [1, 2, 4, 5]
  | 5 => [1]
  | _ => []

/-- Half bytes of an element of the kind of a role. -/
def roleNib (s : State) (r : Nat) : Nat :=
  match roleKind s r with
  | some k => fmtNibbles (fmtK s k)
  | none => 0

/-- Byte offset of the region of a role in a shard of `n` elements, and the bytes of the shard (Table 6.10). -/
def shardOff (s : State) (k n r : Nat) : Nat :=
  let g := if k = 1 then 8 * n else 6 * n
  match r with
  | 1 => 0
  | 2 => 4 * n
  | 3 => 6 * n
  | 4 => g
  | _ => g + roleNib s 4 * n / 2
def shardBytes (s : State) (k n : Nat) : Nat := if k = 5 then 4 * n else shardOff s k n 5 + roleNib s 5 * n / 2

/-- The issue checks of UPD (R226). -/
def updChecks (s : State) (c : Cluster) (w : W128) : List (Bool × Nat) :=
  let k := iI0 w
  let n := (sreg c (iSB w)).toNat
  let a := (sreg c (iSA w)).toNat
  let p := (sreg c (iSC w)).toNat
  [(kernelRoles k = [] || decide (255 < iI1 w) || decide (n % 128 ≠ 0 ∨ n < 128 ∨ 1048576 < n), 0x42),
   ((kernelRoles k).any (fun r => (roleKind s r).isNone), 0x4E),
   (plateRangeBad a (shardBytes s k n) || plateRangeBad p 320, 0x47)]

/-- UPD (R226). -/
def effUpd (cl : Nat) (s : State) : State :=
  issueUnit 8 [(90, 6), (84, 6), (78, 6), (32, 16), (16, 16)] true updChecks
    (fun c => c.updQ) (fun c u => { c with updQ := c.updQ ++ [u] }) cl s

/-! ### Sync class -/

/-- A sync instruction takes effect: its own token, if it has one, posts DONE at once (R124). -/
def syncDone (cl : Nat) (w : W128) (s : State) : State :=
  goNext cl (if iTV w then postTok (cluTok cl (iTok w)) .done (armTV cl w s) else s)

/-- A sync instruction at issue, with the fields that its opcode uses (R121, R132). -/
def syncIns (op : Nat) (fs : W128 → List (Nat × Nat)) (range : W128 → Bool) (more : State → W128 → List (Bool × Nat))
    (act : W128 → State → State) (cl : Nat) (s : State) : State :=
  if atIns s cl 7 op then
    let w := curWord (clOf s cl)
    issueWith cl w
      ([(tokBusy s cl w, 0x46),
        (!(onlyFields w ([(124, 4), (116, 8), (108, 8)] ++ fs w)) || decide (iLmask w ≠ 0xFF) || range w, 0x42)] ++ more s w)
      (act w) s
  else s

/-- TV and TOKEN, where an opcode may arm a token. -/
def tvFields (w : W128) : List (Nat × Nat) := (71, 1) :: (if iTV w then [(63, 8)] else [])

/-- The tokens that TWAIT names, in order. -/
def twaitIds (w : W128) : List Nat := [iI0 w, iI1 w, iI2 w].filter (fun i => decide (i ≠ 0xFFFF))

/-- TWAIT (R77, R78, R132): skipped when a token is SKIPPED or ABORTED, or IDLE; held while one is PENDING. A state
once seen stands for the waiter. -/
def effTwait (cl : Nat) (s : State) : State :=
  syncIns 1 (fun _ => [(0, 48)]) (fun _ => false)
    (fun _ w => [((twaitIds w).any (fun i => !(isHubTok i || isCluTok i)), 0x43)])
    (fun w s =>
      let c := clOf s cl
      let st := fun i => seenTok c.seen i s
      let ids := twaitIds w
      match ids.find? (fun i => decide (st i = .skipped ∨ st i = .aborted)) with
      | some i => goNext cl (skipIns cl w { code := 0x44, cause := i } s)
      | none =>
        match ids.find? (fun i => decide (st i = .idle)) with
        | some i => goNext cl (skipIns cl w { code := 0x45, cause := i } s)
        | none =>
          let pend := ids.filter (fun i => decide (st i = .pending))
          if pend = [] then syncDone cl w s
          else
            let met := ids.filter (fun i => decide (st i = .done) && c.seen.all (fun p => p.1 ≠ i))
            setCl s cl { c with seq := 2, heldOn := pend, seen := c.seen ++ met.map (fun i => (i, .done)) }) cl s

/-- The token that TARM and TPOST act on. -/
def actTok (cl : Nat) (w : W128) : Nat := cluTok cl (iI0 w)

/-- TARM (R76, R132). -/
def effTarm (cl : Nat) (s : State) : State :=
  syncIns 2 (fun w => tvFields w ++ [(32, 8)]) (fun _ => false) (fun _ _ => [])
    (fun w s =>
      let c := clOf s cl
      if seenTok c.seen (actTok cl w) s = .pending then hold cl 2 [actTok cl w] s
      else
        let s := match c.prog with
          | some p => setCl s cl { c with prog := some { p with armed := iI0 w :: p.armed.filter (fun t => decide (t ≠ iI0 w)) } }
          | none => s
        syncDone cl w (setTok (actTok cl w) .pending false s)) cl s

/-- TPOST (R76, R132). -/
def effTpost (cl : Nat) (s : State) : State :=
  syncIns 3 (fun w => tvFields w ++ [(32, 8), (16, 3)]) (fun _ => false)
    (fun s w =>
      let t := tokOf s (actTok cl w)
      [(decide (t.st = .pending) && t.held, 0x46),
       (decide (t.st ≠ .pending) || decide (iI1 w < 2 ∨ 4 < iI1 w), 0x43)])
    (fun w s => syncDone cl w (setTok (actTok cl w) (tokOfCode (iI1 w)) false s)) cl s

/-- The tokens that TREL names. -/
def trelIds (cl : Nat) (w : W128) : List Nat := (List.range (iI1 w)).map (fun i => cluTok cl (iI0 w + i))

/-- TREL (R76, R132). -/
def effTrel (cl : Nat) (s : State) : State :=
  syncIns 4 (fun w => tvFields w ++ [(32, 8), (16, 16)]) (fun w => decide (iI1 w < 1 ∨ 256 < iI1 w ∨ 256 < iI0 w + iI1 w))
    (fun s w => [((trelIds cl w).any (fun i => decide ((tokOf s i).st = .pending)), 0x46)])
    (fun w s => syncDone cl w ((trelIds cl w).foldl (fun s i => setTok i .idle false s) s)) cl s

/-- QFENCE holds issue until the waits of Table 3.9 are met in every lane (R132). -/
def effQfence (cl : Nat) (s : State) : State :=
  syncIns 5 (fun w => tvFields w ++ [(105, 3), (104, 1)]) wengBad (fun _ _ => [])
    (fun w s => if waitsMet s cl w (laneMask (clOf s cl)) then syncDone cl w s else hold cl 3 [] s) cl s

/-- PFENCE holds issue until a proof boundary, which the unreleased instructions of an open chain keep away (R100, R132,
R193). -/
def effPfence (cl : Nat) (s : State) : State :=
  syncIns 6 tvFields (fun _ => false) (fun _ _ => [])
    (fun w s => if atFence s cl then syncDone cl w s else hold cl 3 [] s) cl s

end Sys2Proof.Machine
end

