-- ==== Sys2Proof/Machine/Update.lean ====
section
/-! DEFINITION. Update: the update engine: its kernels, stochastic rounding, check and arbitration (chapters 06 and
09). -/

namespace Sys2Proof.Machine

/-! ### The kernels -/

/-- The step parameters that an element uses (Table 6.11). -/
structure UpdPar where
  lr : Fp
  b1 : Fp
  ob1 : Fp
  b2 : Fp
  ob2 : Fp
  eps : Fp
  decay : Fp
  gscale : Fp
  c1 : Fp
  c2 : Fp
  step : W32
  tensor : W32
  base : Nat
  delta : Int
  u : Int

/-- The parameter block as bytes, with the layer's exponent (R228, R230). -/
def updPar (bs : List Byte) (layer : Nat) : UpdPar :=
  let w := fun off => BitVec.ofNat 32 (leNat ((bs.drop off).take 4))
  let f := fun off => val32 (w off)
  let b := fun off => signedOf 8 (bs.getD off 0).toNat
  { lr := f 0, b1 := f 4, ob1 := f 8, b2 := f 12, ob2 := f 16, eps := f 20, decay := f 24, gscale := f 28, c1 := f 32
    c2 := f 36, step := w 40, tensor := w 44, base := leNat ((bs.drop 0x30).take 8), delta := b 0x38, u := b (0x40 + layer) }

/-- The new master, first moment and second moment of an element (R231). -/
def updElem (k : Nat) (p : UpdPar) (m0 m v graw : Fp) : Fp × Fp × Fp :=
  let lrs := rne32 (fpScale p.lr p.u)
  let g := vMul graw p.gscale
  let md := vMul m0 p.decay
  match k with
  | 1 =>
    let m := vFma p.b1 m (vMul p.ob1 g)
    let v := vFma p.b2 v (vMul p.ob2 (vMul g g))
    let den := vAdd (sqrt32 (vMul v p.c2)) p.eps
    let q := div32 (vMul m p.c1) den
    (vFma (fpNeg lrs) q md, m, v)
  | 2 =>
    let c := vFma p.b1 m (vMul p.ob1 g)
    (vFma (fpNeg lrs) (fpSign c) md, vFma p.b2 m (vMul p.ob2 g), v)
  | 3 =>
    let m := vFma p.b1 m (vMul p.ob1 g)
    (vFma (fpNeg lrs) m md, m, v)
  | 4 =>
    let m := vFma p.b1 m (vMul p.ob1 g)
    (vFma (fpNeg lrs) (vFma p.b1 m g) md, m, v)
  | _ => (rne32 (fpScale m0 p.delta), m, v)

/-- The product that stochastic rounding starts from, rounded to FP32; a finite value that leaves the range of FP32 stays
finite, so that it overflows the format (R216, R237). -/
def stochIn (x : Fp) (k : Int) : Fp :=
  match rne32 (fpScale x k) with
  | .inf s => if fpIsFin x then fpScale x k else .inf s
  | y => y

/-- A write of a kind: nearest even, or stochastic with the bits of stream `strm` and element `e` (R232, R237, R238); the
encoding, and whether it is counted. -/
def updConvert (s : State) (kd : Nat) (strm : Nat) (p : UpdPar) (e : Nat) (x : Fp) : Nat × Bool :=
  let f := fmtK s kd
  if kindStoch s kd then
    convertSat f (.stoch (genBits s.job.seed strm p.tensor p.step e)) (stochIn x (kindScale s kd))
  else convertSat f .near (fpScale x (kindScale s kd))

/-- Element `i` of the region of a role, in FP32 (R220, R230). -/
def updRead (s : State) (c : Cluster) (base kd i : Nat) : Fp :=
  let f := fmtK s kd
  let n := fmtNibbles f
  rne32 (fpScale (fpDecode f (readElem c.plates base i n)) ((plateTag c ((elemAddr base i n).1 / 64) : Int) - kindScale s kd))

/-- The result of an element: the encodings of the regions of roles 1, 2, 3 and 5 (those that the kernel writes), the
counted conversions of roles 2, 3 and 5, and whether the new master is not finite. -/
structure UpdOut where
  enc : List (Nat × Nat)
  sat : List Nat
  nonfin : Bool

/-- One element of a shard (R230-R233). -/
def updOne (s : State) (c : Cluster) (u : UIns) (p : UpdPar) (i : Nat) : UpdOut :=
  let k := iI0 u.word
  let n := u.b.toNat
  let rd := fun r => match roleKind s r with
    | some kd => updRead s c (u.a.toNat + shardOff s k n r) kd i
    | none => fpZero
  let (m1, m, v) := updElem k p (rd 1) (rd 2) (if k = 1 then rd 3 else fpZero) (rd 4)
  let e := (p.base + i) % 2 ^ 64
  let master := (1, (bits32 m1).toNat)
  if k = 5 then { enc := [master], sat := [], nonfin := !(fpIsFin m1) }
  else
    let w := rne32 (fpScale m1 (-p.u))
    let cv := fun r strm x => match roleKind s r with
      | some kd => updConvert s kd strm p e x
      | none => (0, false)
    let parts := [(2, cv 2 0 m)] ++ (if k = 1 then [(3, cv 3 1 v)] else []) ++ [(5, cv 5 2 w)]
    { enc := master :: parts.map (fun x => (x.1, x.2.1)), sat := (parts.filter (fun x => x.2.2)).map (fun x => x.1)
      nonfin := !(fpIsFin m1) }

/-- The lines that a group reads (R230): regions of the roles it reads. -/
def updLines (s : State) (u : UIns) (g : Nat) : List Nat :=
  let k := iI0 u.word
  let n := u.b.toNat
  (((kernelRoles k).filter (fun r => decide (r ≠ 5))).map (fun r =>
    let w := roleNib s r
    lineRange (u.a.toNat + shardOff s k n r + 64 * g * w / 2) (64 * w / 2))).flatten

/-- The bytes of one region that a group writes: plate address and value. -/
def updBytes (s : State) (u : UIns) (g r : Nat) (outs : List UpdOut) : List (Nat × Byte) :=
  let k := iI0 u.word
  let w := roleNib s r
  let base := u.a.toNat + shardOff s k u.b.toNat r + 64 * g * w / 2
  let bs := packElems w (outs.map (fun o => ((o.enc.find? (fun x => x.1 = r)).map (fun x => x.2)).getD 0))
  (List.range bs.length).map (fun i => (base + i, bs.getD i 0))

/-- A group written to the plates: every line takes tag 0 and a new code (R232, R316). -/
def updWrite (s : State) (u : UIns) (g : Nat) (outs : List UpdOut) (c : Cluster) : Cluster :=
  let rs := (kernelRoles (iI0 u.word)).filter (fun r => decide (r ≠ 4))
  (gatherLines 0 ((rs.map (fun r => updBytes s u g r outs)).flatten)).foldl (fun c l => plateWrite c l.line 0 l.upd) c

/-! ### The check and its arbitration -/

def unitUpd (cl : Nat) : W32 := unitId (cl / 8) (cl % 8) 15 4 0

/-- An arbitration record of the update engine (R590); D6 is not timed by the model (log 5). -/
def updArbRec (cl cls out votes g el : Nat) (u : UIns) (x : W32) (s : State) : State :=
  let (c, s) := drawWord s
  record { unit := unitUpd cl, cls := cls, outcome := out, opcode := opRec u.word
           d0 := d0Of 15 u.pc (clOf s cl).group, d1 := arbD1 4 2 el 0, d2 := BitVec.ofNat 32 votes
           d3 := BitVec.ofNat 32 (64 * g + el), d4 := x, d5 := 0, d6 := c.setWidth 32 } s

/-- An update datapath (0 main, 1 duplicate, 2 arbiter) has been in the minority (R338, R339). -/
def markUpd (cl d : Nat) (s : State) : State :=
  let c := clOf s cl
  let old := if d = 0 then c.updMain else if d = 1 then c.updDup else c.updArb
  let m := nextMark s old
  let c := if d = 0 then { c with updMain := m } else if d = 1 then { c with updDup := m } else { c with updArb := m }
  let s := setCl s cl c
  if m.st = 2 && old.st ≠ 2 then
    let s := unitFailedRec (unitUpd cl) 4 15 old.time { s with flash := { s.flash with upds := s.flash.upds ++ [3 * cl + d] } }
    let others := (if d = 0 then [c.updDup, c.updArb] else if d = 1 then [c.updMain, c.updArb] else [c.updMain, c.updDup])
    if d = 2 || others.any (fun x => x.st = 2) then coreRetiredRec cl 15 15 (takeOffline cl s)
    else setCl s cl { clOf s cl with updReduced := true }
  else s

/-- The datapaths in the main and in the duplicate position, and the one that gives a third opinion (R324, R339). -/
def updPaths (c : Cluster) : Nat × Nat × Option Nat :=
  let a := if c.updMain.st = 2 then 2 else 0
  let b := if c.updDup.st = 2 then 2 else 1
  (a, b, if a = 2 || b = 2 || c.updArb.st = 2 then none else some 2)

/-- Whether two datapaths give the same outputs of a group: the words that each alters are altered alike (R324). -/
def sameOut (fs : List UpdFlt) (p q : UpdFlt → W32) : Bool := fs.all (fun f => decide (p f = q f))

/-- The words of a group that a datapath alters: element, role and mask. -/
def alters (fs : List UpdFlt) (p : UpdFlt → W32) : List (Nat × Nat × W32) := fs.map (fun f => (f.elem, f.role, p f))

/-- Whether a word stands before another: by element, then by region in role order. -/
def wordBefore (f h : UpdFlt) : Bool := decide (f.elem < h.elem) || (decide (f.elem = h.elem) && decide (f.role ≤ h.role))

/-- The first output word in which main and duplicate differ: its element, and the XOR (R590). -/
def firstDiff (fs : List UpdFlt) : Nat × W32 :=
  match fs.filter (fun f => decide (f.mainX ≠ f.dupX)) with
  | [] => (0, 0)
  | f :: rest => let h := rest.foldl (fun a b => if wordBefore a b then a else b) f; (h.elem, h.mainX ^^^ h.dupX)

/-- How the faulty output words of a group are written, or none when nothing of the group is written (R324, R590). -/
def settleGroup (cl g : Nat) (u : UIns) (fs : List UpdFlt) (s : State) : Option (List (Nat × Nat × W32)) × State :=
  if sameOut fs UpdFlt.mainX UpdFlt.dupX then (some (alters fs UpdFlt.mainX), s) else
  let c := clOf s cl
  let (el, x) := firstDiff fs
  let (a, b, third) := updPaths c
  let vote := if sameOut fs UpdFlt.repX UpdFlt.dupX then 0 else if sameOut fs UpdFlt.repX UpdFlt.mainX then 1 else 2
  if vote = 0 then
    (some (alters fs UpdFlt.repX), updArbRec cl 0x0201 0 0 g el u x (setCl s cl { c with updTransient := satInc 0xFFFF c.updTransient }))
  else if third = none then (none, updArbRec cl 0x0204 3 vote g el u x s)
  else if sameOut fs UpdFlt.arbX UpdFlt.repX || sameOut fs UpdFlt.arbX UpdFlt.dupX then
    let out := if sameOut fs UpdFlt.arbX UpdFlt.repX then 1 else 2
    let s := setCl s cl { c with updMinority := satInc 0xFFFF c.updMinority }
    (some (alters fs UpdFlt.arbX), markUpd cl (if out = 1 then b else a) (updArbRec cl 0x0202 out (vote + 4 * out) g el u x s))
  else (none, updArbRec cl 0x0204 3 (vote + 12) g el u x s)

/-- A fault joins those of its group; two in one output word alter it together. -/
def joinFlt (l : List UpdFlt) (f : UpdFlt) : List UpdFlt :=
  let same := fun (h : UpdFlt) => decide (h.elem = f.elem ∧ h.role = f.role)
  if l.any same then
    l.map (fun h => if same h then
      { h with mainX := h.mainX ^^^ f.mainX, dupX := h.dupX ^^^ f.dupX, repX := h.repX ^^^ f.repX, arbX := h.arbX ^^^ f.arbX } else h)
  else l ++ [f]

/-- The faults that a group meets, one for each output word: of a role that the kernel writes, of one of the group's
elements; bits beyond the word's width are none of it. -/
def fltsOf (s : State) (u : UIns) (g : Nat) (fs : List UpdFlt) : List UpdFlt :=
  ((fs.filter (fun f => decide (f.group = g ∧ f.elem < 64)
      && ((kernelRoles (iI0 u.word)).filter (fun r => decide (r ≠ 4))).contains f.role)).map (fun f =>
    let m := BitVec.ofNat 32 (2 ^ (4 * roleNib s f.role) - 1)
    { f with mainX := f.mainX &&& m, dupX := f.dupX &&& m, repX := f.repX &&& m, arbX := f.arbX &&& m })).foldl joinFlt []

/-- A word XORed into the output of a role of an element of a group. -/
def maskOut (el r : Nat) (x : W32) (outs : List UpdOut) : List UpdOut :=
  match outs.drop el with
  | [] => outs
  | o :: os =>
    let enc := o.enc.map (fun e => if e.1 = r then (r, (BitVec.ofNat 32 e.2 ^^^ x).toNat) else e)
    outs.take el ++ { o with enc := enc, nonfin := enc.any (fun e => decide (e.1 = 1 ∧ e.2 / 2 ^ 23 % 256 = 255)) } :: os

/-- Counts of a group's written results (R233). -/
def countGroup (outs : List UpdOut) (c : Cluster) : Cluster :=
  let n := fun r => ((outs.map (fun o => o.sat)).flatten.filter (fun x => x = r)).length
  let nf := (outs.filter (fun o => o.nonfin)).length
  { c with
    satM1 := min 0xFFFF (c.satM1 + n 2), satM2 := min 0xFFFF (c.satM2 + n 3), satW := min 0xFFFF (c.satW + n 5)
    nonfinite := min 0xFFFFFFFF (c.nonfinite + nf), nonfiniteSeen := c.nonfiniteSeen || decide (0 < nf) }

/-- The program of a UPD traps by the UPD's own fault: D1 the first element not written, D3 the reason (R234). -/
def updTrap (cl : Nat) (u : UIns) (first why : Nat) (s : State) : State :=
  let s := setCl s cl { clOf s cl with upd := none }
  trap cl 2 { lane := 15, pc := u.pc, op := opRec u.word, d1 := BitVec.ofNat 32 first, d2 := 4, d3 := BitVec.ofNat 32 why }
    (laneCut cl u.iid 8 s)

/-- The groups of a UPD from group `g` on, `n` of them (R234). -/
def updGroups : Nat → Nat → UpdPar → UIns → List UpdFlt → Nat → State → State
  | 0, _, _, _, _, _, s => s
  | n + 1, cl, p, u, fs, g, s =>
    let c := clOf s cl
    match (updLines s u g).find? (plateBad c) with
    | some line => plateError cl line (updTrap cl u (64 * g) 1) s
    | none =>
      let outs := (List.range 64).map (fun i => updOne s c u p (64 * g + i))
      match settleGroup cl g u (fltsOf s u g fs) s with
      | (none, s) => updTrap cl u (64 * g) 2 s
      | (some xs, s) =>
        let outs := xs.foldl (fun o x => maskOut x.1 x.2.1 x.2.2 o) outs
        updGroups n cl p u fs (g + 1) (setCl s cl (countGroup outs (updWrite s u g outs (clOf s cl))))

/-- Whether the tile-class instructions issued before a UPD have all been released (R229). -/
def updMayStart (c : Cluster) (u : UIns) : Bool := c.issued.all (fun i => !i.tile || decide (u.iid < i.iid))

/-- UPD_START (R229-R234, R324): the oldest queued UPD starts, reads its parameter block and works through its groups;
`fs` are the datapath faults that it meets, `upset` an upset of a plate byte before it. -/
def effUpdStart (cl : Nat) (upset : Option Flt) (fs : List UpdFlt) (s : State) : State :=
  let c := clOf s cl
  match c.updQ with
  | [] => s
  | u :: rest =>
    if c.upd.isSome || !(updMayStart c u) then s else
    let c := upsetPlates { c with updQ := rest, upd := some u, updKernel := iI0 u.word, updLayer := iI1 u.word % 256 } upset
    let s := setCl s cl c
    let pb := u.c.toNat
    match (lineRange pb 320).find? (plateBad c) with
    | some line => plateError cl line (updTrap cl u 0 1) s
    | none => updGroups (u.b.toNat / 64) cl (updPar (c.plates.bytes pb 320) (iI1 u.word % 256)) u fs 0 s

/-- UPD_COMPLETE (R234, R235): the UPD's occupancy ends, and it is released. -/
def effUpdComplete (cl : Nat) (s : State) : State :=
  let c := clOf s cl
  match c.upd with
  | none => s
  | some u => laneDone cl u.iid 8 (setCl s cl { c with upd := none })

end Sys2Proof.Machine
end

