-- ==== Sys2Proof/Machine/Movers.lean ====
section
/-! DEFINITION. Movers: the ephemeris (R259-R267), acceptance of records, fills, drains and recoveries of the tile
movers (R255, R271-R277). -/

namespace Sys2Proof.Machine

/-! ### Layer events -/

/-- A field of an ephemeris entry (Table 7.8). -/
def ew (e : List W32) (i lo len : Nat) : Nat := fld (e.getD i 0) lo len
def eTrig (e : List W32) : Nat × Nat := (ew e 0 0 16, ew e 0 16 2)
def eEnd (e : List W32) : Bool := ew e 0 18 1 = 1
def eNeed (e : List W32) : Option (Nat × Nat) := if ew e 1 18 1 = 1 then some (ew e 1 0 16, ew e 1 16 2) else none
def eCount (e : List W32) : Nat := ew e 2 0 13
def eAddr (e : List W32) : Nat := ew e 4 0 32 + 2 ^ 32 * ew e 5 0 32

/-- Whether a cluster's queue is held for the step end (R266). -/
def heldCl (x : Die) (cl : Nat) : Bool := decide (x.held / 2 ^ (cl % 8) % 2 = 1)

/-- LEVENT_RECEIVE (R262, R266). -/
def effLeventReceive (cl : Nat) (s : State) : State :=
  let d := cl / 8
  let c := clOf s cl
  let x := dieOf s d
  match c.mover with
  | u :: rest =>
    if cl < 32 ∧ iOp u.word = 4 ∧ !(heldCl x cl) then
      let ev := iI0 u.word
      let ph := iX u.word 96 2
      let s := setCl s cl { c with mover := rest, levents := c.levents ++ [(u.iid, ev, ph, x.stepNo)] }
      match x.eph with
      | some e =>
        if e.mask / 2 ^ (cl % 8) % 2 = 1 then
          let last := eTrig ((e.entries.getLast?).getD [])
          setDie s d { x with
            received := if x.received.contains (cl, ev, ph) then x.received else x.received ++ [(cl, ev, ph)]
            held := if last = (ev, ph) then x.held + 2 ^ (cl % 8) else x.held }
        else s
      | none => s
    else s
  | [] => s

/-- EVENT_FIRE (R262). -/
def effEventFire (d ev ph : Nat) (s : State) : State :=
  let x := dieOf s d
  match x.eph with
  | some e =>
    if d < 4 ∧ !(x.fired.contains (ev, ph)) ∧ (maskLanes e.mask).all (fun c => x.received.contains (8 * d + c, ev, ph)) then
      setDie s d { x with fired := x.fired ++ [(ev, ph)], lastEvent := ev, lastPhase := ph }
    else s
  | none => s

/-- The clusters that a record concerns (R264). -/
def concernsOf (m : Option (List W32 × W32)) : Nat :=
  match m with
  | some (_, c) => if ctlTier c ≤ 1 then 2 ^ ctlCluster c else if ctlTier c = 2 then 0xFF else 0
  | none => 0

/-- Whether stage 1 of a supply sag holds an entry: its records read from flash, and no cluster has raised its need
event (Table 14.4). -/
def prefetchHeld (s : State) (d mask : Nat) (en : List W32) : Bool :=
  decide (1 ≤ s.pwr.sagStage)
  && (match eNeed en with
      | some (ev, ph) => (maskLanes mask).all (fun c => !((dieOf s d).received.contains (8 * d + c, ev, ph)))
      | none => false)
  && (List.range (eCount en)).any (fun i =>
      let m := moveRecord (sectorData s (eAddr en / 64 + i))
      decide (1 ≤ ctlAction m.2 ∧ ctlAction m.2 ≤ 2) && decide (tierBelow m.1 (ctlTier m.2) = some 3))

/-- ENTRY_ISSUE (R263, R266): the mover waits while the list's stack is in self-refresh (R301), and in stage 1 of a
supply sag for an entry that prefetches from flash. -/
def effEntryIssue (d : Nat) (hs : List Hit) (s : State) : State :=
  let x := dieOf s d
  match x.eph with
  | none => s
  | some e =>
    match e.entries[x.cursor]? with
    | none => s
    | some en =>
      let n := eCount en
      if d < 4 ∧ x.ephState ≠ 3 ∧ !x.endIssued ∧ x.fired.contains (eTrig en)
          ∧ !(inSelfRefresh s (sectorsOf (eAddr en) (64 * n))) ∧ !(prefetchHeld s d e.mask en) then
        let r := if n = 0 then ([], s) else readList hs (eAddr en) n s
        let s := r.2
        let x := dieOf s d
        let run : EphRun := { no := x.ldgClock, idx := x.cursor, mask := e.mask, need := eNeed en
                              concerns := (r.1.map (fun m => concernsOf m.1)).foldl Nat.lor 0, todo := r.1, left := n }
        let x := { x with ldgClock := x.ldgClock + 1, runs := if n = 0 then x.runs else x.runs ++ [run], cursor := x.cursor + 1 }
        if eEnd en then
          let wait := !x.ephNext.isEmpty
          setDie s d { x with cursor := 0, fired := [], received := [], step := (x.step + 1) % 2 ^ 24, stepNo := x.stepNo + 1
                              endIssued := wait
                              held := if wait then x.held else 0 }
        else setDie s d x
      else s

/-- Whether a LEVENT received in step `no` waits on a need: of an entry of its step that is not issued yet, or of an issued
one whose records concern the cluster (R264). -/
def needWaits (x : Die) (cl ev ph no : Nat) : Bool :=
  match x.eph with
  | none => false
  | some e =>
    (decide (no = x.stepNo) && (e.entries.drop x.cursor).any (fun en => eNeed en = some (ev, ph)))
    || x.runs.any (fun r => decide (r.need = some (ev, ph)) && decide (r.concerns / 2 ^ (cl % 8) % 2 = 1))

/-- EPH_EVENT.NEED_WAIT (Table 7.13): the clusters of which a LEVENT waits on a need. -/
def needWaitMask (s : State) (d : Nat) : Nat :=
  ((List.range 8).map (fun c =>
    if (clOf s (8 * d + c)).levents.any (fun l => needWaits (dieOf s d) (8 * d + c) l.2.1 l.2.2.1 l.2.2.2) then 2 ^ c else 0)).sum

/-- LEVENT_RELEASE (R264). -/
def effLeventRelease (cl iid : Nat) (s : State) : State :=
  let c := clOf s cl
  match c.levents.find? (fun l => l.1 = iid) with
  | some l =>
    if cl < 32 ∧ !(needWaits (dieOf s (cl / 8)) cl l.2.1 l.2.2.1 l.2.2.2) then
      laneDone cl iid 8 (setCl s cl { c with levents := c.levents.filter (fun k => decide (k.1 ≠ iid)) })
    else s
  | none => s

/-- EPHEMERIS_TAKE (R261): of the checked ephemerides that wait, the oldest (log 20). -/
def effEphemerisTake (d : Nat) (s : State) : State :=
  let x := dieOf s d
  match x.ephNext with
  | (e, no) :: more =>
    if d < 4 ∧ (x.eph.isNone ∨ x.ephState = 3 ∨ x.endIssued) then
      completeCmd no .done (setDie s d { x with
        eph := some e, ephNext := more, cursor := 0, fired := [], received := [], endIssued := false, step := e.stepStart
        stepNo := x.stepNo + 1, held := 0, ephState := 1, failedEntry := 0xFFFF
        runs := x.runs.map (fun r => { r with idx := 0xFFFF, need := none }) })
    else s
  | [] => s

/-! ### Acceptance -/

/-- Whether a source has a record for the ledger (R255): 0 ephemeris, 1-8 TMOVE queues, 9 TILE_MOVE commands, 10-13 the
other dies. -/
def sourceReady (s : State) (d k : Nat) : Bool :=
  let x := dieOf s d
  if k = 0 then x.runs.any (fun r => r.todo ≠ [])
  else if k ≤ 8 then
    let cl := 8 * d + k - 1
    !(heldCl x cl) && (match (clOf s cl).mover with
      | u :: _ => decide (iOp u.word = 3)
          && (x.tmoves.any (fun t => decide (t.cl = cl ∧ t.iid = u.iid))
              || !(inSelfRefresh s (sectorsOf u.a.toNat (64 * iI0 u.word))))
      | [] => false)
  else if k = 9 then s.cmds.any (fun c => match c.work with
    | .tileMove d' todo _ _ => decide (d' = d ∧ todo ≠ [])
    | _ => false)
  else x.xreq.any (fun i => decide (i / 2048 = k - 10))

/-- The source that the ledger serves next: round-robin after the one served last, among those that have a request;
`late` are sources whose request has not reached the ledger yet. -/
def pickSource (s : State) (d : Nat) (late : List Nat) : Option Nat :=
  ((List.range 14).map (fun i => ((dieOf s d).rrLast + 1 + i) % 14)).find? (fun k => sourceReady s d k && !late.contains k)

/-- The next record of the ephemeris (R255). -/
def acceptEph (d : Nat) (s : State) : State :=
  let x := dieOf s d
  match x.runs.find? (fun r => r.todo ≠ []) with
  | some r => match r.todo with
    | (m, i) :: rest =>
      acceptRecord d (.eph d r.no) (some r.mask) 0 m i
        (setDie s d { x with runs := x.runs.map (fun q => if q.no = r.no then { q with todo := rest } else q) })
    | [] => s
  | none => s

/-- The next record of a cluster's TMOVE; its list is read with the first one (R250, R255). -/
def acceptTmove (d cl : Nat) (hs : List Hit) (s : State) : State :=
  match (clOf s cl).mover with
  | [] => s
  | u :: rest =>
    let s := if (dieOf s d).tmoves.any (fun t => decide (t.cl = cl ∧ t.iid = u.iid)) then s
      else
        let r := readList hs u.a.toNat (iI0 u.word) s
        let x := dieOf r.2 d
        setDie r.2 d { x with tmoves := x.tmoves ++ [{ cl := cl, iid := u.iid, todo := r.1, left := r.1.length, bad := false }] }
    let x := dieOf s d
    match x.tmoves.find? (fun t => t.cl = cl ∧ t.iid = u.iid) with
    | none => s
    | some t => match t.todo with
      | [] => s
      | (m, i) :: more =>
        let s := setDie s d { x with tmoves := x.tmoves.map (fun q => if q.cl = cl ∧ q.iid = u.iid then { q with todo := more } else q) }
        let s := if more = [] then setCl s cl { clOf s cl with mover := rest } else s
        acceptRecord d (.tmove cl u.iid) none u.iid m i s

/-- The next record of the TILE_MOVE commands of a die. -/
def acceptCmd (d : Nat) (s : State) : State :=
  match s.cmds.find? (fun c => match c.work with
    | .tileMove d' todo _ _ => decide (d' = d ∧ todo ≠ [])
    | _ => false) with
  | some c => match c.work with
    | .tileMove d' ((m, i) :: rest) left bad =>
      acceptRecord d (.cmd c.no) none s.insNo m i (setWork c.no (.tileMove d' rest left bad) s)
    | _ => s
  | none => s

/-- A source read for a promotion on another die is accepted (R255, R273): it takes a read on the copy, or the
promotion ends BAD_REQUEST when the copy is tracked at another address; without room it waits. -/
def acceptRead (d from_ : Nat) (s : State) : State :=
  let x := dieOf s d
  match x.xreq.find? (fun i => i / 2048 = from_) with
  | none => s
  | some i => match entryOf s from_ (i % 2048) with
    | none => s
    | some e =>
      let s' := setDie s d { x with xreq := x.xreq.erase i }
      let r : Req := { issuer := .ledger from_ e.idx, idx := 0, w := e.desc, ctl := 0x20#32, ver := e.ver, act := 1, lanes := 0, before := 0
                       stamp := 0, room := false }
      let read := fun (s : State) =>
        let p := takeSource d 2 r s
        match entryOf p.2 from_ e.idx with
        | some e => setEntry from_ { e with src := .entry 2 d p.1, srcStamp := (dieOf s d).ldgClock } p.2
        | none => p.2
      match findCopy x e.tile 2 15 with
      | some c =>
        if c.addr ≠ dAddr e.desc 2 then failTile from_ e.idx 5 s' else read s'
      | none =>
        if x.waiting.any (fun q => q.room) then s
        else match roomFor d 1792 1 s' with
          | none => s
          | some s' => read s'

/-- LEDGER_ACCEPT (R255): one request, from the source whose turn it is. -/
def effLedgerAccept (d : Nat) (late : List Nat) (hs : List Hit) (s : State) : State :=
  if 4 ≤ d ∨ 5 ≤ s.pwr.sagStage then s else
  match pickSource s d late with
  | none => s
  | some k =>
    let s := setDie s d { dieOf s d with rrLast := k }
    ledgerGo (if k = 0 then acceptEph d s
      else if k ≤ 8 then acceptTmove d (8 * d + k - 1) hs s
      else if k = 9 then acceptCmd d s
      else acceptRead d (k - 10) s)

/-! ### Reading a copy -/

/-- What a read of a copy gives: its lines with their tags; sectors that fail, with their class; a plate or
scratchpad line that fails its code. -/
inductive ReadRes where
  | lines (l : List (List Byte × Nat))
  | sectors (bad : List (Nat × Nat))
  | plate (cl line : Nat)
  | spad (core line : Nat)

/-- Lines of HBM read against a version tag. -/
def readHbm (s : State) (addr n : Nat) (v : W32) : ReadRes :=
  let ns := (List.range n).map (fun i => addr / 64 + i)
  let bad := (ns.map (fun k => (k, sectorClass s k v))).filter (fun p => decide (p.2 ≠ 0))
  if bad = [] then .lines (ns.map (fun k => (sectorData s k, sectorTag s k))) else .sectors bad

/-- Lines of a cluster's plates. -/
def readPlates (s : State) (cl addr n : Nat) : ReadRes :=
  let c := clOf s cl
  let ls := (List.range n).map (fun i => addr / 64 + i)
  match ls.find? (fun l => plateBad c l) with
  | some l => .plate cl l
  | none => .lines (ls.map (fun l => (c.plates.bytes (64 * l) 64, plateTag c l)))

/-- Lines of a core's scratchpad. -/
def readSpad (s : State) (core addr n : Nat) : ReadRes :=
  let k := coreOf s core
  let ls := (List.range n).map (fun i => addr / 64 + i)
  match ls.find? (fun l => spadBad k l) with
  | some l => .spad core l
  | none => .lines (ls.map (fun l => (k.mem.bytes (64 * l) 64, spadTag k l)))

/-- The copy of an entry read for a request's drain. -/
def readCopy (s : State) (d : Nat) (e : LEntry) (r : Req) : ReadRes :=
  let n := dLines e.desc
  match e.tier with
  | 0 => match wbCore s d e r with
    | some k => readSpad s k e.addr n
    | none => .lines []
  | 1 => readPlates s (8 * d + e.cl) e.addr n
  | _ => readHbm s e.addr n r.ver

/-- The sectors of an HBM copy. -/
def copySectors (e : LEntry) : List Nat := if e.tier = 2 then (List.range (dLines e.desc)).map (fun i => e.addr / 64 + i) else []

/-! ### Flash images (R244) -/

/-- A tag line: the tags of 128 data lines, in nibbles. -/
def tagLine (tags : List Nat) : List Byte :=
  (List.range 64).map (fun i => BitVec.ofNat 8 (tags.getD (2 * i) 0 + 16 * tags.getD (2 * i + 1) 0))

/-- The flash image of a tile. -/
def flashImage (tile v : W32) (ls : List (List Byte × Nat)) : List Byte :=
  let n := ls.length
  let body := (ls.map (fun l => l.1)).flatten
    ++ ((List.range (tagLines n)).map (fun q => tagLine (((ls.drop (128 * q)).take 128).map (fun l => l.2)))).flatten
  let head := leBytes 4 tile.toNat ++ leBytes 4 v.toNat ++ leBytes 4 n
  let check := head ++ leBytes 4 (crc32c (body ++ head)).toNat ++ List.replicate 48 0
  let all := body ++ check
  all ++ List.replicate (4096 * imageBlocks n - all.length) 0

/-- The lines of a flash image whose check line and CRC match; none otherwise. -/
def parseImage (tile v : W32) (n : Nat) (bs : List Byte) : Option (List (List Byte × Nat)) :=
  let body := bs.take (64 * (n + tagLines n))
  let check := (bs.drop (64 * (n + tagLines n))).take 64
  let head := check.take 12
  if head = leBytes 4 tile.toNat ++ leBytes 4 v.toNat ++ leBytes 4 n
      ∧ (check.drop 12).take 4 = leBytes 4 (crc32c (body ++ head)).toNat then
    some ((List.range n).map (fun i =>
      ((body.drop (64 * i)).take 64,
       (leNat ((body.drop (64 * n + 64 * (i / 128) + i % 128 / 2)).take 1)) / 16 ^ (i % 2) % 8)))
  else none

/-- The image read for an entry: its bytes when every Read has completed. -/
def stagedImage (s : State) (d : Nat) (e : LEntry) : Option (List Byte) :=
  if s.stp.cmds.any (fun c => decide (c.use = .tile d e.idx false)) then none
  else
    let k := 2048 * d + e.idx
    let parts := s.stp.staged.filter (fun p => p.1 / 4096 = k)
    let all := (parts.map (fun p => p.2)).flatten
    if all.length = 4096 * imageBlocks (dLines e.desc) then some all else none

/-- The staged image is used up, and what waited for staging is issued (R311). -/
def clearStaged (d i : Nat) (s : State) : State :=
  nvPump { s with stp := { s.stp with staged := s.stp.staged.filter (fun p => decide (p.1 / 4096 ≠ 2048 * d + i)) } }

/-! ### Recovery (R274-R277) -/

/-- The value that arrived first, by its stamp. -/
def firstOf (l : List (Nat × W32)) : Option W32 :=
  (l.foldl (fun (a : Option (Nat × W32)) x => match a with
    | some y => if x.1 < y.1 then some x else some y
    | none => some x) none).map (fun x => x.2)

/-- The record of a recovery (R275), with LDG_COUNTS and LDG_LAST_FAIL. -/
def recoveryRec (d : Nat) (e : LEntry) (out : Nat) (s : State) : State :=
  let first := (firstOf ((e.waiters ++ e.wbs).map (fun r => (r.stamp, issuerUnit s r.issuer))
    ++ (readersOf s d e.idx).map (fun p => match entryOf s p.1 p.2 with
        | some f => (f.srcStamp, if p.1 ≠ d then unitLedger p.1 else
            (firstOf (f.waiters.map (fun r => (r.stamp, issuerUnit s r.issuer)))).getD (unitMover d))
        | none => (0, unitMover d)))).getD (unitMover d)
  let x := dieOf s d
  let s := setDie s d (if out = 1 then { x with recovered := satInc 0xFFFFFFFF x.recovered }
    else { x with lost := satInc 0xFFFFFFFF x.lost
                  lastFail := BitVec.ofNat 64 (e.tile.toNat + at_ out 32 3 + at_ (dRsrc e.desc) 35 3 + at_ e.failTier 38 2 + at_ e.idx 40 11) })
  record { unit := unitLedger d, cls := if out = 1 then 0x0301 else if out = 4 then 0x0303 else 0x0302, outcome := out
           tile := e.tile, d1 := BitVec.ofNat 32 (dRsrc e.desc), d2 := first, d3 := BitVec.ofNat 32 e.failTier
           d4 := BitVec.ofNat 32 e.idx } s

/-- A recovery ends in failure: every waiter takes the outcome (R274, R277). -/
def recoveryFails (d : Nat) (e : LEntry) (out : Nat) (s : State) : State := failTile d e.idx out (recoveryRec d e out s)

/-- FETCH_REQ to the holder of a PEER recovery; after the last member the recovery fails (R447). The bound is the number
of members. -/
def askPeer : Nat → Nat → LEntry → State → State
  | 0, d, e, s => recoveryFails d e 2 s
  | k + 1, d, e, s =>
    let id := dArg e.desc
    match ctxOf s id with
    | none => recoveryFails d e 2 s
    | some c =>
      if cKind c ≠ 7 ∨ cMembers c ≤ e.holder then recoveryFails d e 2 s
      else if e.holder = cSelf c ∨ !(permitted s (ctxDie id) (cMember c e.holder)) then
        askPeer k d { e with holder := e.holder + 1 } s
      else
        let g := cMember c e.holder
        grant g id (dLines e.desc)
          (sendLine id g ([4, 0, 0, 0, 0, 0, 0, 0] ++ leBytes 8 e.addr ++ leBytes 4 (dLines e.desc) ++ leBytes 4 e.ver.toNat)
            (setEntry d { e with fetched := [] } s))

/-- The first line of a tile in the data shard of a STRIPE context's SELF, when it lies within it (R446). -/
def shardLine (c : Ctx) (e : LEntry) : Option Nat :=
  if cKind c = 6 ∧ cSelf c + 2 < cMembers c ∧ cSrc c ≤ e.addr ∧ e.addr + dBytes e.desc ≤ cSrc c + 64 * cLines c
  then some ((e.addr - cSrc c) / 64) else none

/-- STRIPE_REQ to each surviving data member and to P (R446). A data member without PERMIT ends the recovery; without it P
is as one that does not answer (R392). -/
def askStripe (d : Nat) (e : LEntry) (s : State) : State :=
  let id := dArg e.desc
  match ctxOf s id with
  | none => recoveryFails d e 2 s
  | some c => match shardLine c e with
    | none => recoveryFails d e 2 s
    | some l =>
      let k := cMembers c - 2
      let ask := fun (s : State) (m : Nat) =>
        grant (cMember c m) id (dLines e.desc)
          (sendLine id (cMember c m)
            ([7, 0, 0, 0] ++ leBytes 4 l ++ leBytes 4 (dLines e.desc) ++ [BitVec.ofNat 8 (cSelf c)]) s)
      if (List.range k).any (fun m => decide (m ≠ cSelf c) && !(permitted s (ctxDie id) (cMember c m))) then recoveryFails d e 2 s
      else ((List.range (k + 1)).filter (fun m => decide (m ≠ cSelf c) && permitted s (ctxDie id) (cMember c m))).foldl ask s

/-- The one recovery of an entry begins (R274); a second source error of an entry fails it. -/
def recover (d : Nat) (e : LEntry) (tier : Nat) (s : State) : State :=
  if e.recov ≠ 0 then s
  else if e.recovered then failTile d e.idx 2 s
  else
    let e := { e with failTier := tier, recov := dRsrc e.desc, holder := 0, askedQ := false, fetched := [], supplied := false
                      staged := none, stage := false
                      state := if e.state = .resident then .filling else if e.state = .draining then .deferred else e.state }
    let s := (readersOf s d e.idx).foldl (fun s r => match entryOf s r.1 r.2 with
      | some f => setEntry r.1 { f with stage := false } s
      | none => s) (clearStaged d e.idx (setEntry d e s))
    match dRsrc e.desc with
    | 1 => askPeer 65 d e s
    | 3 => askStripe d e s
    | 4 => if tier = 3 then recoveryFails d e 2 s else s
    | 5 =>
      if (dieOf s d).resupplyEn then
        record { unit := unitLedger d, cls := 0x0002, tile := e.tile, d1 := BitVec.ofNat 32 e.idx } s
      else recoveryFails d e 2 s
    | 2 => recoveryFails d e 4 s
    | _ => recoveryFails d e 3 s

/-- The failing sectors among the first `issued` of a tile read are counted and recorded (R584). -/
def recordBad (bad : List (Nat × Nat)) (v : W32) (tile : W32) (s : State) : State :=
  bad.foldl (fun s p => failSector p.1 p.2 v 1 tile s) s

/-! ### The rows of fills and drains -/

/-- The move ends FAILED on a memory array error of a line that it reads (R317). -/
def arrayError (d i : Nat) (r : ReadRes) (s : State) : State :=
  match r with
  | .plate cl line => failTile d i 2 (plateError cl line id s)
  | .spad core line => failTile d i 2 (spadError core line id s)
  | _ => s

/-- The lines that a drain reads, written to a flash target: Writes with FUA of the tile's image (R244, Table 8.5). -/
def drainFlash (d : Nat) (e : LEntry) (r : Req) (ls : List (List Byte × Nat)) (s : State) : State :=
  nvTransfer (dCtrl r.w) (d + 1) 1 (dNs r.w) (dLba r.w) (imageBlocks ls.length) (.tile d e.idx true)
    (flashImage e.tile r.ver ls) (setEntry d { e with wbRun := true } s)

/-- What SOURCE_READ_END and SOURCE_ERROR read: the lines of a fill's source, of a flash image, or of a copy that goes
to flash; with the entry that a source error marks, and the source's tier. -/
def readNow (s : State) (d i : Nat) : Option (ReadRes × (Nat × Nat) × Nat × W32) :=
  match entryOf s d i with
  | none => none
  | some e =>
    if e.fill ∧ e.staged = none ∧ e.recov = 0 then
      match e.src with
      | .entry t d' i' => match entryOf s d' i' with
        | some f =>
          if f.fill ∨ f.recov ≠ 0 ∨ !e.stage then none
          else if t = 2 then some (readHbm s f.addr (dLines e.desc) e.ver, (d', i'), 2, e.ver)
          else some (readPlates s (8 * d' + f.cl) f.addr (dLines e.desc), (d', i'), 1, e.ver)
        | none => none
      | .flash => match stagedImage s d e with
        | some bs => match parseImage e.tile e.ver (dLines e.desc) bs with
          | some ls => some (.lines ls, (d, i), 3, e.ver)
          | none => some (.sectors [], (d, i), 3, e.ver)
        | none => none
      | .none => none
    else match drainOf s d e with
      | some r => if drainTo e r = 3 ∧ !e.wbRun ∧ e.stage then some (readCopy s d e r, (d, i), e.tier, r.ver) else none
      | none => none

/-- Whether a source read waits for a stack in self-refresh (R301). -/
def readHeld (s : State) (d i : Nat) : Bool :=
  match entryOf s d i with
  | some e => match e.src with
    | .entry _ d' i' => match entryOf s d' i' with
      | some f => inSelfRefresh s (copySectors f)
      | none => false
    | _ => inSelfRefresh s (copySectors e)
  | none => false

/-- SOURCE_READ_END (R271, R279): the source of a fill, or a copy that goes to flash, has been read whole into its staging
and passes. -/
def effSourceReadEnd (d i : Nat) (hs : List Hit) (s : State) : State :=
  let s := stageDie d s
  let s' := hitHbm hs s
  if d ≥ 4 ∨ readHeld s d i then s else
  match readNow s' d i, entryOf s' d i with
  | some (.lines ls, (d', i'), t, _), some e =>
    if e.fill then
      let s := setEntry d { e with staged := some ls, src := .none } s'
      ledgerGo (if t = 3 then clearStaged d i s else dropRead d' i' s)
    else match drainOf s' d e with
      | some r => drainFlash d e r ls s'
      | none => s
  | some (r@(.plate _ _), _, _, _), some _ => ledgerGo (arrayError d i r s')
  | some (r@(.spad _ _), _, _, _), some _ => ledgerGo (arrayError d i r s')
  | _, _ => s

/-- SOURCE_ERROR (R274): one of the first `issued` sectors of a source read fails its check, or a flash image does not
match; the entry that holds the source copy runs its recovery. -/
def effSourceError (d i issued : Nat) (hs : List Hit) (s : State) : State :=
  let s := stageDie d s
  let s' := hitHbm hs s
  if d ≥ 4 ∨ readHeld s d i then s else
  match readNow s' d i, entryOf s' d i with
  | some (.sectors bad, (d', i'), t, v), some e =>
    let first := match e.src with
      | .entry _ a b => ((entryOf s' a b).map (fun f => f.addr / 64)).getD 0
      | _ => e.addr / 64
    let bad := bad.filter (fun p => decide (p.1 < first + issued))
    if t ≠ 3 ∧ bad = [] then s
    else
      let s := recordBad bad v e.tile s'
      match entryOf s d' i' with
      | some f => ledgerGo (recover d' f t s)
      | none => s
  | _, _ => s

/-- MOVE_PATH of the tile mover, and its suspect or failed mark; what a failed mover still ends FAILED marks it no
further (R318, R338, R339). -/
def moverFails (d line src : Nat) (s : State) : State :=
  let s := record { unit := unitMover d, cls := 0x0209, outcome := 1, d1 := BitVec.ofNat 32 line, d2 := BitVec.ofNat 32 src } s
  let x := dieOf s d
  let m := nextMark s x.mover
  let s := setDie s d { x with mover := m }
  if m.st = 2 ∧ x.mover.st ≠ 2 then
    let s := unitFailedRec (unitMover d) 5 15 x.mover.time s
    let s := { s with flash := { s.flash with movers := s.flash.movers ++ [d] } }
    if (dieOf s d).ephState = 1 ∨ (dieOf s d).ephState = 2 then haltEph d (dieOf s d).cursor 2 0xFFFFFFFF#32 s else s
  else s

/-- Lines that landed on a later attempt are counted (R318). -/
def countMoverRepeat (d n : Nat) (s : State) : State :=
  let x := dieOf s d
  setDie s d { x with moverRepeat := x.moverRepeat + n }

/-- Lines written to HBM with a version tag. -/
def landHbm (addr : Nat) (v : W32) (ls : List (List Byte × Nat)) (s : State) : State :=
  (ls.zipIdx).foldl (fun s l => writeSector (addr / 64 + l.2) l.1.1 v l.1.2 s) s

/-- A tier's lines land. -/
def landTier (d t cl lanes addr : Nat) (v : W32) (ls : List (List Byte × Nat)) (s : State) : State :=
  match t with
  | 0 => landSpad (8 * d + cl) lanes addr ls s
  | 1 => landPlates (8 * d + cl) addr ls s
  | _ => landHbm addr v ls s

/-- A fill ends well: promotion waiters take DONE, or RECOVERED after a recovery (Table 7.10). -/
def fillDone (d : Nat) (e : LEntry) (out : Nat) (s : State) : State :=
  let ends := e.waiters.filter (fun r => !isDrop r)
  let keep := e.waiters.filter isDrop
  if e.tier = 0 then endReqs ends out (delEntry d e.idx s)
  else
    endReqs ends out (setEntry d { e with fill := false, staged := none, stage := false, src := .none, recov := 0, waiters := keep
                                          state := if e.state = .filling then .resident else e.state } s)

/-- A tile mover's move that lands its lines (`land`), or of which one fails three landings and ends it (`fail`); `bad`
counts the failed landings by line, the destination begins at `addr` (R318). -/
def moverLand (d addr n src : Nat) (bad : List Nat) (land fail : State → State) (s : State) : State :=
  let s := countMoverRepeat d (moreMoves (movedBad bad n)) s
  match lostLine bad n with
  | some i => fail (moverFails d (addr / 64 + i) src s)
  | none => land s

/-- FILL_END (R258, R272, R318): the lines read land in the destination; `bad` counts the failed landings by line. -/
def effFillEnd (d i : Nat) (bad : List Nat) (s : State) : State :=
  match entryOf s d i with
  | none => s
  | some e => match e.staged with
    | none => s
    | some ls =>
      if d ≥ 4 ∨ !e.fill ∨ e.recov ≠ 0 ∨ inSelfRefresh s (copySectors e) then s
      else ledgerGo (moverLand d e.addr ls.length ((tierBelow e.desc e.tier).getD 3) bad
        (fun s => fillDone d e (if e.recovered then 1 else 0) (landTier d e.tier e.cl e.lanes e.addr e.ver ls s))
        (failTile d i 2) s)

/-- A drain or write-back of an entry has reached its target (Table 7.10). -/
def drainDone (d : Nat) (e : LEntry) (out : Nat) (s : State) : State :=
  if e.state = .draining then endReqs e.waiters out (delEntry d e.idx s)
  else match e.wbs with
    | r :: rest => endReq r out (setEntry d { e with
        wbs := rest, wbRun := false, stage := false, reads := e.reads - 1, wbRec := e.wbRec - 1 } s)
    | [] => s

/-- DRAIN_END (R258, R272, R318): the last byte of a drain or write-back has been accepted by its target; `bad` counts the
failed landings by line. It ends RECOVERED when it waited on a recovery of its copy (R274, R277). -/
def effDrainEnd (d i : Nat) (bad : List Nat) (s : State) : State :=
  let s := stageDie d s
  match entryOf s d i with
  | none => s
  | some e => match drainOf s d e with
    | none => s
    | some r =>
      if d ≥ 4 ∨ (e.state = .draining ∧ e.reads ≠ 0) ∨ !e.stage then s
      else
      let out := if (if e.state = .draining then e.evRec else decide (0 < e.wbRec)) then 1 else 0
      let t := drainTo e r
      if t = 3 then
        if e.wbRun ∧ s.stp.cmds.all (fun c => decide (c.use ≠ .tile d i true)) then ledgerGo (drainDone d e out s) else s
      else
        let addr := dAddr r.w t
        if t = 2 ∧ inSelfRefresh s ((List.range (dLines e.desc)).map (fun k => addr / 64 + k)) then s
        else match readCopy s d e r with
          | .lines ls => ledgerGo (moverLand d addr ls.length e.tier bad
              (fun s => drainDone d e out (landTier d t (ctlCluster r.ctl) 0 addr r.ver ls s)) (drainDone d e 2) s)
          | .plate cl line => ledgerGo (drainDone d e 2 (plateError cl line id s))
          | .spad core line => ledgerGo (drainDone d e 2 (spadError core line id s))
          | .sectors _ => s

/-! ### The end of a recovery -/


/-- SELF's lines of a tile rebuilt from the lines received by member (R445, R446): none while some are missing. -/
def stripeLines (c : Ctx) (n : Nat) (got : Tab (Tab (List Byte × Nat))) (askedQ : Bool) : Option (List (List Byte × Nat)) :=
  let k := cMembers c - 2
  let x := cSelf c
  let data := (List.range k).filter (fun m => decide (m ≠ x))
  let par := if askedQ then k + 1 else k
  if (data ++ [par]).all (fun m => (List.range n).all (fun i => (Tab.find (got.get [] m) i).isSome)) then
    let line := fun (m i : Nat) => ((Tab.find (got.get [] m) i).map (fun l => l.1)).getD (List.replicate 64 0)
    some ((List.range n).map (fun i =>
      if askedQ then
        (mulBytes (gfInv (gfPow x)) (data.foldl (fun a m => xorBytes a (mulBytes (gfPow m) (line m i))) (line par i)), 0)
      else (data.foldl (fun a m => xorBytes a (line m i)) (line par i), 0)))
  else none

/-- What a recovery has obtained, with the version tag that it lands with: none while it is not complete (R274, R276,
R446, R447). -/
def obtained (s : State) (d : Nat) (e : LEntry) : Option (Option (List (List Byte × Nat) × W32)) :=
  let n := dLines e.desc
  match e.recov with
  | 1 => match ctxOf s (dArg e.desc) with
    | some c =>
      let l := e.fetched.get [] e.holder
      if cKind c = 7 ∧ (List.range n).all (fun i => (Tab.find l i).isSome) then
        some (some ((List.range n).filterMap (fun i => Tab.find l i), e.ver))
      else none
    | none => none
  | 3 => match ctxOf s (dArg e.desc) with
    | some c => match stripeLines c n e.fetched e.askedQ with
      | some ls =>
        let st := if cVerRel c then ((dieOf s (homeDie (cDst c))).step + cStep c) % 2 ^ 24 else cStep c
        some (some (ls, BitVec.ofNat 32 (at_ (cEpoch c) 24 8 + st)))
      | none => none
    | none => none
  | 4 => match stagedImage s d e with
    | some bs => some ((parseImage e.tile e.ver n bs).map (fun ls => (ls, e.ver)))
    | none => none
  | 5 => if e.supplied then some (some ([], e.ver)) else none
  | _ => none

/-- A recovery ends RECOVERED: the copy is valid again and every waiter takes the outcome; a fill from flash has its copy,
readers of the copy read it again, a drain resumes (R274, R277). -/
def recoverySucceeds (d : Nat) (e : LEntry) (s : State) : State :=
  let s := recoveryRec d e 1 s
  let e : LEntry := { e with recov := 0, recovered := true, fetched := [], supplied := false, stage := false, wbRec := e.wbs.length
                             evRec := decide (e.state = .deferred) && e.evict.isSome }
  let rs := readersOf s d e.idx
  let s := rs.foldl (fun s r => match entryOf s r.1 r.2 with
    | some f => setEntry r.1 { f with recovered := true } s
    | none => s) s
  if e.fill then fillDone d e 1 s
  else
    endReqs (e.waiters.filter (fun r => !isDrop r)) 1
      (setEntry d { e with waiters := e.waiters.filter isDrop, state := if e.state = .filling then .resident else e.state } s)

/-- RECOVERY_END (R274): what the recovery obtained lands in the HBM copy, is reread, and every waiter takes the one
outcome. -/
def effRecoveryEnd (d i : Nat) (hs : List Hit) (s : State) : State :=
  match entryOf s d i with
  | none => s
  | some e =>
    let ns := (List.range (dLines e.desc)).map (fun k => dAddr e.desc 2 / 64 + k)
    if d ≥ 4 ∨ inSelfRefresh s ns then s else
    match obtained s d e with
    | none => s
    | some none => ledgerGo (recoveryFails d e 2 (clearStaged d i s))
    | some (some (ls, v)) =>
      let s := clearStaged d i s
      let s := if e.recov = 5 then s else landHbm (dAddr e.desc 2) v ls s
      let s := hitHbm hs s
      match readHbm s (dAddr e.desc 2) (dLines e.desc) e.ver with
      | .sectors bad => ledgerGo (recoveryFails d e 2 (recordBad bad e.ver e.tile s))
      | _ => ledgerGo (recoverySucceeds d e s)

/-- LDG_RESUPPLY written (R276). -/
def resupplyWrite (d size : Nat) (v : W64) (s : State) : State :=
  match entryOf s d (fld v 0 11) with
  | some e =>
    if e.recov = 5 ∧ !e.supplied then
      if bit v 16 then setEntry d { e with supplied := true } s else ledgerGo (recoveryFails d e 2 s)
    else regAccess 6 (0x2810010 + d * 0x1000000) size true v s
  | none => regAccess 6 (0x2810010 + d * 0x1000000) size true v s

/-- RESUPPLY_TIMEOUT (R276). -/
def effResupplyTimeout (d i : Nat) (s : State) : State :=
  match entryOf s d i with
  | some e => if d < 4 ∧ e.recov = 5 ∧ !e.supplied then ledgerGo (recoveryFails d e 2 s) else s
  | none => s

end Sys2Proof.Machine
end

