-- ==== Sys2Proof/Machine/Storage.lean ====
section
/-! DEFINITION. Storage: NVMe completions, time-outs and controller resets (R311-R314). -/

namespace Sys2Proof.Machine

/-- NVME_FAILURE: a failed I/O command; the detail words copy the controller's log page, whose place in the record the
manual does not give, so they are free (log 5). -/
def nvmeFailure (s : State) : State :=
  let (a, s) := drawWord s
  let (b, s) := drawWord s
  let (c, s) := drawWord s
  record { unit := 0x4FFC0001#32, cls := 0x0307, d1 := a.setWidth 32, d2 := (a >>> 32).setWidth 32, d3 := b.setWidth 32
           d4 := (b >>> 32).setWidth 32, d5 := c.setWidth 32, d6 := (c >>> 32).setWidth 32 } s

/-- Bytes cut or padded with zeros to a length. -/
def padTo (n : Nat) (bs : List Byte) : List Byte := bs.take n ++ List.replicate (n - bs.length) 0

/-- Sectors written by an untracked writer (R303, R307). -/
def landUntracked : Nat → Nat → List Byte → State → State
  | 0, _, _, s => s
  | k + 1, n, bs, s =>
    if bs = [] then s else landUntracked k (n + 1) (bs.drop 64) (writeSector n (padTo 64 (bs.take 64)) s.xferVtag s.xferStag s)

/-- What remains of a command's NVMe commands: those held are dropped, those outstanding serve nothing. -/
def orphanCmds (no : Nat) (s : State) : State :=
  let mine := fun (c : NvCmd) => match c.use with
    | .xfer m _ => decide (m = no)
    | .flush m => decide (m = no)
    | _ => false
  { s with stp := { s.stp with
      cmds := (s.stp.cmds.filter (fun c => c.sent || !mine c)).map (fun c => if mine c then { c with use := .orphan } else c) } }

/-- A STORAGE_XFER ends ABORTED (R304, R313). -/
def xferFails (no : Nat) (s : State) : State :=
  completeCmd no .aborted (orphanCmds no { s with hbmHeld := s.hbmHeld.filter (fun h => decide (h.1 ≠ no)) })

/-- A part of a STORAGE_XFER has ended: the last one ends the command, a transfer to flash with a Flush first (R312,
R595). -/
def xferPart (no : Nat) (s : State) : State :=
  match findCmd s no with
  | some k => match k.work with
    | .storage left flush bad =>
      if 1 < left then setWork no (.storage (left - 1) flush bad) s
      else if flush then
        nvPump { setWork no (.storage 1 false bad) s with stp := { s.stp with
          cmds := s.stp.cmds ++ [{ id := s.stp.nextId, ctrl := fld k.word 130 2, q := 5, op := 0, ns := cw k.word 5, lba := 0
                                   blocks := 0, off := 0, use := .flush no, data := [], sent := false, aborting := false
                                   abortSent := false }]
          nextId := s.stp.nextId + 1 } }
      else completeCmd no .done s
    | _ => s
  | none => s

/-- `n` bytes of a HOST_COPY to HBM have landed (R474). -/
def copyPart (no n : Nat) (s : State) : State :=
  match findCmd s no with
  | some k => match k.work with
    | .hostRead next left => if left ≤ n then completeCmd no .done s else setWork no (.hostRead next (left - n)) s
    | _ => s
  | none => s

/-- Bytes of a command land in HBM, and the command goes on. -/
def landNow (no sector : Nat) (data : List Byte) (s : State) : State :=
  let s := landUntracked (data.length + 1) sector data s
  match findCmd s no with
  | some k => (match k.work with
    | .storage _ _ _ => xferPart no s
    | _ => copyPart no data.length s)
  | none => s

/-- Bytes of a command reach HBM; they are held while one of their stacks is in self-refresh (R301). -/
def landCmd (no sector : Nat) (data : List Byte) (s : State) : State :=
  if inSelfRefresh s ((List.range ((data.length + 63) / 64)).map (fun i => sector + i)) then
    { s with hbmHeld := s.hbmHeld ++ [(no, sector, data)] }
  else landNow no sector data s

/-- The held bytes of commands land when no stack that they need is in self-refresh any longer (R301). -/
def landHeld (s : State) : State :=
  s.hbmHeld.foldl (fun s h => if (findCmd s h.1).isSome then landCmd h.1 h.2.1 h.2.2 s else s) { s with hbmHeld := [] }

/-- An NVMe command has ended well: what it served goes on (R311-R314). -/
def nvmeGood (c : NvCmd) (data : List Byte) (s : State) : State :=
  match c.use with
  | .tile d i false =>
    { s with stp := { s.stp with staged := s.stp.staged.put (4096 * (2048 * d + i) + c.off) (padTo (4096 * c.blocks) data) } }
  | .xfer no true => xferPart no s
  | .xfer no false =>
    match findCmd s no with
    | some k => landCmd no (cw2 k.word 6 / 64 + 64 * c.off) (padTo (4096 * c.blocks) data) s
    | none => s
  | .flush no => completeCmd no .done s
  | _ => s

/-- An NVMe command has failed (R313). -/
def nvmeBad (c : NvCmd) (s : State) : State :=
  let s := nvmeFailure s
  match c.use with
  | .tile d i false =>
    match entryOf s d i with
    | some e => if e.recov = 4 then recoveryFails d e 2 s else recover d e 3 s
    | none => s
  | .tile d i true =>
    match entryOf s d i with
    | some e =>
      let s := { s with stp := { s.stp with cmds := s.stp.cmds.map (fun k =>
        if k.use = .tile d i true then { k with use := .orphan } else k) } }
      drainDone d e 2 s
    | none => s
  | .xfer no _ => xferFails no s
  | .flush no => xferFails no s
  | .orphan => s

/-- NVME_COMPLETION (R313): a command that is being aborted has timed out, whatever its status. -/
def effNvmeCompletion (ctrl id status : Nat) (data : List Byte) (s : State) : State :=
  match s.stp.cmds.find? (fun c => c.ctrl = ctrl ∧ c.id = id ∧ c.sent) with
  | none => s
  | some c =>
    let s := nvDone id s
    let s := if status = 0 ∧ !c.aborting then nvmeGood c data s
      else emit (.nvmeAdmin ctrl 0x02 0) (nvmeBad c s)
    ledgerGo (nvPump s)

/-- NVME_TIMEOUT (R313). -/
def effNvmeTimeout (ctrl id : Nat) (s : State) : State :=
  match s.stp.cmds.find? (fun c => c.ctrl = ctrl ∧ c.id = id ∧ c.sent ∧ !c.aborting) with
  | none => s
  | some _ =>
    nvPump { s with stp := { s.stp with
      cmds := s.stp.cmds.map (fun c => if c.id = id then { c with aborting := true } else c) } }

/-- Every outstanding command of a controller fails. -/
def failOutstanding (ctrl : Nat) (heldToo : Bool) (s : State) : State :=
  let gone := s.stp.cmds.filter (fun c => decide (c.ctrl = ctrl) && (c.sent || heldToo))
  let s := { s with stp := { s.stp with cmds := s.stp.cmds.filter (fun c => !(decide (c.ctrl = ctrl) && (c.sent || heldToo))) } }
  gone.foldl (fun s c => nvmeBad c s) s

/-- NVME_ABORT_TIMEOUT (R313): the controller is reset through CC.EN. -/
def effNvmeAbortTimeout (ctrl id : Nat) (s : State) : State :=
  match s.stp.cmds.find? (fun c => c.ctrl = ctrl ∧ c.id = id ∧ c.sent ∧ c.abortSent) with
  | none => s
  | some _ =>
    let s := emit (.nvmeAdmin ctrl 0x100 0) (setNvCtrl s ctrl { nvCtrl s ctrl with inReset := true, cc := 0, pairs := 0 })
    ledgerGo (failOutstanding ctrl false s)

/-- CONTROLLER_RESET_END (R313): the queues are recreated, or the failure is counted; the third makes the controller
absent until the next start. -/
def effControllerResetEnd (ctrl : Nat) (ok : Bool) (s : State) : State :=
  let k := nvCtrl s ctrl
  if !k.inReset then s
  else if ok then
    let s := nvQueues.foldl (fun s x => emit (.nvmeAdmin ctrl x.1 x.2) s) s
    ledgerGo (nvPump (setNvCtrl s ctrl { k with inReset := false, resets := 0, cc := nvCc, pairs := 5 }))
  else if k.resets < 2 then emit (.nvmeAdmin ctrl 0x100 0) (setNvCtrl s ctrl { k with resets := k.resets + 1 })
  else
    ledgerGo (failOutstanding ctrl true
      (setNvCtrl s ctrl { k with inReset := false, resets := 3, present := false, spaces := [] }))

/-- STAGING_VIOLATION (R311): the device's access completes as Unsupported Request, with an event record. -/
def effStagingViolation (ctrl : Nat) (s : State) : State :=
  if (nvCtrl s ctrl).present then
    emit (.nvmeAdmin ctrl 0x101 0) (record { unit := 0x4FFC0001#32, cls := 0x0307 } s)
  else s

end Sys2Proof.Machine
end

