-- ==== Sys2Proof/Machine/Commands.lean ====
section
/-! DEFINITION. Commands: the job and group commands, the loads of the recipe, programs and ephemerides, tile moves,
storage transfers and host copies (Table 2.9). -/

namespace Sys2Proof.Machine

/-! ### Jobs (R83) -/

/-- Whether a JOB_CLOSE is dispatched and not complete. -/
def jobClosing (s : State) : Bool := s.cmds.any (fun c => match c.work with
  | .jobClose _ => true
  | _ => false)

/-- What JOB_OPEN takes (Table 2.10). -/
def jobOf (w : W512) : Job where
  opened := true
  id := BitVec.ofNat 32 (cw w 4)
  matrixOnly := bit w 160
  planes16 := bit w 161
  run64 := bit w 162
  seed := BitVec.ofNat 64 (cw2 w 6)
  maxTokens := BitVec.ofNat 32 (cw w 8)
  actBudget := BitVec.ofNat 64 (cw2 w 10)

/-- A record of a fabric class that concerns no one link: its unit and D1 are unstated, so D1 is a free value. -/
def fabricRec (cls out d2 : Nat) (s : State) : State :=
  let (v, s) := drawWord s
  record { unit := unitDie 5 15 0, cls := cls, outcome := out, d1 := v.setWidth 32, d2 := BitVec.ofNat 32 d2 } s

/-- The address-plane count in force: 16 when the job and the coordinator's BEACON both say so (R371). Links 8-15 then
join the schedule, and are idle without it. -/
def settlePlanes (s : State) : State :=
  let on := s.job.planes16 && s.mer.beacon16
  let rest := fun (n : Nat) => if n = 1 ∨ n = 9 then (if on then 1 else 9) else n
  let s := { s with mer := { s.mer with planes16 := on } }
  [8, 9, 10, 11, 12, 13, 14, 15].foldl (fun s p =>
    let k := linkOf s p
    if k.txEn || k.rxEn then s else setLink s p { k with state := rest k.state, back := rest k.back }) s

/-- The counts that are kept for a job are cleared when the next one opens. -/
def clearCounts (s : State) : State :=
  { s with
    core := s.core.mapV (fun k => { k with replay := [], replayLast := 0, sat := [] })
    cl := s.cl.mapV (fun c => { c with
      replaySummary := 0, nonfiniteSeen := false, nonfinite := 0, satM1 := 0, satM2 := 0, satW := 0 })
    die := s.die.mapV (fun x => { x with recovered := 0, lost := 0, lastFail := 0 }) }

/-- A job opens (R83, R371). -/
def openJob (w : W512) (s : State) : State :=
  let j := jobOf w
  let s := setEpoch 0 (clearCounts { s with job := j, groups := [], mer := { s.mer with
    beacon16 := if s.mer.coordinator then j.planes16 else s.mer.beacon16 } })
  let s := if j.planes16 ≠ s.mer.beacon16 then fabricRec 0x0406 3 0xFFFF s else s
  settlePlanes s

/-- JOB_OPEN. -/
def effJobOpen (st : Nat) (late : List Nat) (s : State) : State :=
  dispatch 0x10
    { needJob := false
      own := fun _ s => if s.job.opened || jobClosing s then some { code := 0x07 } else none }
    (fun no w s => atOnce st no w (openJob w) s) st late s

/-- The clusters that run a program, rising. -/
def runningCls (s : State) : List Nat := upto 32 (fun c => (clOf s c).prog.isSome)

/-- Whether a collective is in flight: a run, an FPUT or a permute (R80). -/
def collInFlight (s : State) : Bool :=
  s.mer.rebl.isSome || [5, 6].any (fun d => !((photOf s d).runs.isEmpty && (photOf s d).puts.isEmpty))

/-- JOB_CLOSE is dispatched (R83); DETAIL is free where only a collective is in flight (log 5). -/
def effJobClose (st : Nat) (late : List Nat) (s : State) : State :=
  let s' := dispatch 0x11
    { own := fun _ s => match runningCls s with
        | c :: _ => some { code := 0x09, detail := c }
        | [] => if collInFlight s then some { code := 0x09, detail := fld (Config.freeWord s.free) 0 32 } else none }
    (fun no w s => startCmd no st w (.jobClose false) { s with job := { s.job with opened := false } }) st late s
  { s' with free := s'.free + 1 }

/-- The requests of a die's ledger that have not ended have no copy to act on any longer: their commands are cut
(R82). -/
def cutTileMoves (d : Nat) (s : State) : State :=
  s.cmds.foldl (fun s c => match c.work with
    | .tileMove d' _ _ _ => if d' = d then completeCmd c.no .aborted s else s
    | _ => s) s

/-- The ephemeris of a die is removed: the checked ones that wait are not taken (R267). -/
def dropEph (d : Nat) (s : State) : State :=
  let s := (dieOf s d).ephNext.foldl (fun (s : State) p => completeCmd p.2 .aborted s) s
  let x := dieOf s d
  setDie s d { x with
    eph := none, ephNext := [], held := 0, endIssued := false, cursor := 0, ephState := 0, fired := [], received := []
    runs := [], failedEntry := 0xFFFF }

/-- The ledger of a die is released (R267). -/
def dropLedger (d : Nat) (s : State) : State :=
  let s := cutTileMoves d s
  let s := (dieOf s d).ledger.foldl (fun s e => delEntry d e.idx s) s
  let s := { s with die := s.die.mapV (fun y => { y with xreq := y.xreq.filter (fun k => decide (k / 2048 ≠ d)) }) }
  setDie s d { dieOf s d with waiting := [], xreq := [], tmoves := [] }

/-- Every token but the listed one is released (R74). -/
def releaseTokens (keep : Nat) (s : State) : State :=
  let ids := hubIds s ++ ((s.cl.map (fun p => cluIds s p.1)).flatten)
  (ids.filter (fun i => decide (i ≠ keep))).foldl (fun s i => setTok i .idle false s) s

/-- The flow contexts of a photonic die are unloaded (R407). -/
def unloadContexts (d : Nat) (s : State) : State :=
  setPhot s d { photOf s d with ctx := [], runs := [], puts := [] }

/-- Every PERMIT of a photonic die is cleared (R391). -/
def clearPermits (d : Nat) (s : State) : State :=
  let x := photOf s d
  setPhot s d { x with route := Tab.mapV (fun e => e &&& 0xFFFFFFFE#32) x.route }

/-- A leased link goes idle after the LEASE_END of its lease, which goes to the peer that it still aims at; its selectors go
back to line 0 (R380, R381). -/
def endLease (p : Nat) (s : State) : State :=
  let k := linkOf s p
  if k.txEn || k.rxEn || k.ending.isSome then
    let s := if k.txEn || k.ending.isSome then
        sendControl (k.ending.getD k.txGid) 0x05 (leBytes 4 s.mer.planId.toNat ++ [BitVec.ofNat 8 p]) s
      else s
    setLink s p { linkOf s p with
      state := if k.state = 10 ∨ k.state = 5 ∨ k.state = 6 ∨ k.state = 7 then k.state else 9
      back := 9, txEn := false, rxEn := false, ending := none, rxHold := none, changing := false, rxSettling := false
      txSettling := decide (k.txLine ≠ 0) || k.txSettling, txLock := k.txLock && decide (k.txLine = 0)
      txLine := 0, rxLine := 0, txPort := 0, rxPort := 0, txGid := 0, rxGid := 0, clean := false, parked := false, lport := 0 }
  else s

/-- The lease plan is removed on the links of the listed photonic dies (R381). -/
def dropPlan (dies : List Nat) (s : State) : State :=
  let s := (upto 64 (fun p => dies.contains (linkDie p))).foldl (fun s p => endLease p s) s
  let s := dies.foldl (fun s d => setPhot s d { photOf s d with planId := 0 }) s
  if (photOf s 5).planId = 0 ∧ (photOf s 6).planId = 0 then { s with mer := { s.mer with planId := 0, planState := 0 } } else s

/-- The loads that are incomplete, leases, contexts, ephemerides and epochs, are cut (R82). -/
def cutLoads (s : State) : State :=
  s.cmds.foldl (fun s c => match c.work with
    | .lease | .leaseHeld _ | .flow _ | .epoch | .waiting => completeCmd c.no .aborted s
    | _ => s) s

/-- The actions of JOB_CLOSE before the zeroing (R267, R80, R381, R391, R407); `keep` is the token that is kept. -/
def closeJob (keep : Nat) (s : State) : State :=
  let s := [0, 1, 2, 3].foldl (fun s d => dropLedger d (dropEph d s)) s
  let s := releaseTokens keep s
  let s := [5, 6].foldl (fun s d => clearPermits d (unloadContexts d s)) s
  let s := dropPlan [5, 6] (cutLoads s)
  { s with recipe := [] }

/-- Scratchpads, plates and instruction memory of every cluster are zeroed (R80). -/
def zeroMemories (s : State) : State :=
  { s with
    core := s.core.mapV (fun k => { k with mem := [], tag := [], code := [] })
    cl := s.cl.mapV (fun c => { c with plates := [], ptag := [], pcode := [], imem := [] }) }

/-- Whether some ledger entry is FILLING or DRAINING (R267). -/
def ledgerBusy (s : State) : Bool :=
  [0, 1, 2, 3].any (fun d => (dieOf s d).ledger.any (fun e => decide (e.state = .filling ∨ e.state = .draining)))

/-- JOB_CLOSE_ZEROING (R267). -/
def effJobCloseZeroing (no : Nat) (s : State) : State :=
  match findCmd s no with
  | some c => match c.work with
    | .jobClose false =>
      if ledgerBusy s then s else setWork no (.jobClose true) (closeJob (cmdDone c.word) s)
    | _ => s
  | none => s

/-- JOB_CLOSE_DONE (R595). -/
def effJobCloseDone (no : Nat) (s : State) : State :=
  match findCmd s no with
  | some c => match c.work with
    | .jobClose true => completeCmd no .done (zeroMemories s)
    | _ => s
  | none => s

/-! ### The recipe table (R219-R223) -/

/-- Whether a recipe entry breaks R219 or R221; `before` are the entries below it. -/
def recipeBad (before : List W32) (e : W32) : Bool :=
  let f := fld e 0 4
  let role := fld e 4 4
  let sg := signedOf 8 (fld e 8 8)
  if f = 15 then decide (e ≠ 0xF#32)
  else
    decide (fld e 17 15 ≠ 0 ∨ 5 < f ∨ sg < -64 ∨ 63 < sg ∨ 5 < role)
    || (bit e 16 && decide (role = 0 ∨ role = 1 ∨ role = 4))
    || (match role with
        | 0 => false
        | 1 => decide (f ≠ 5 ∨ sg ≠ 0)
        | 2 => decide (f ≠ 4)
        | 3 => decide (f ≠ 3)
        | 4 => decide (f ≠ 5 ∧ f ≠ 4)
        | _ => decide (f = 5))
    || (decide (role ≠ 0) && before.any (fun x => decide (fld x 0 4 ≠ 15 ∧ fld x 4 4 = role)))

/-- The 32-bit words of a byte list. -/
def wordsOf (bs : List Byte) : List W32 :=
  (List.range (bs.length / 4)).map (fun i => BitVec.ofNat 32 (leNat ((bs.drop (4 * i)).take 4)))

/-- A structure's read failed at a sector: the record of R592 and the command's end. -/
def readRejected (unit : W32) (addr n no st : Nat) (w : W512) (s : State) : State :=
  completeCmd no .aborted (structRejected unit 3 0 addr (64 * n - addr) w st s)

/-- A structure read whose stack is in self-refresh is held with its command (R301); the damage that it meets stands. -/
def heldStruct (hs : List Hit) (addr len : Nat) (run : List Hit → State → State) (s : State) : State :=
  if inSelfRefresh s (sectorsOf addr len) then hitHbm hs s else run hs s

/-- The recipe table is read, checked and put in force (R222). -/
def loadRecipe (hs : List Hit) (no st : Nat) (w : W512) (s : State) : State :=
  let a := cw2 w 4
  heldStruct hs a 64 (fun hs s =>
  let r := readStruct hs a 64 s
  match r.1 with
  | n :: _ => readRejected (unitIngest st) a n no st w r.2
  | [] =>
    let es := wordsOf (r.2.hbm.bytes a 64)
    match (List.range 16).find? (fun k => recipeBad (es.take k) (es.getD k 0)) with
    | some k => completeCmd no .aborted (structRejected (unitIngest st) 1 k a 0 w st r.2)
    | none => completeCmd no .done { r.2 with recipe := (List.range 16).map (fun k => (k, es.getD k 0)) }) s

/-- SET_RECIPE. -/
def effSetRecipe (st : Nat) (late : List Nat) (hs : List Hit) (s : State) : State :=
  dispatch 0x12
    { own := fun _ s => if runningCls s = [] then none else some { code := 0x11 }
      range := fun w _ => hbmRangeBad (cw2 w 4) 64 }
    (fun no w s => loadRecipe hs no st w (startCmd no st w .waiting s)) st late s

/-! ### Groups (R84-R88) -/

def grpMask (s : State) (g : Nat) : Nat := (s.groups.get 0 g).toNat
/-- The clusters of a mask, rising. -/
def maskCls (m : Nat) : List Nat := upto 32 (fun c => m / 2 ^ c % 2 = 1)
def groupOf (w : W512) : Nat := fld w 128 6
/-- The members of the group that a command names. -/
def members (w : W512) (s : State) : List Nat := maskCls (grpMask s (groupOf w))

/-- GROUP_UNDEFINED, then what else the command checks. -/
def inGroup (k : W512 → State → Option Skip) (w : W512) (s : State) : Option Skip :=
  if grpMask s (groupOf w) = 0 then some { code := 0x0B } else k w s

/-- The skip that names the lowest member of a property. -/
def lowest (code : Nat) (l : List Nat) : Option Skip := l.head?.map (fun c => { code := code, detail := c })

/-- GROUP_DEFINE. -/
def effGroupDefine (st : Nat) (late : List Nat) (s : State) : State :=
  dispatch 0x21
    { badOperand := fun w _ => decide (cw w 5 = 0)
      own := fun w s => lowest 0x09
        ((runningCls s).filter (fun c => decide ((cw w 5 / 2 ^ c % 2 = 1) ∨ grpMask s (groupOf w) / 2 ^ c % 2 = 1))) }
    (fun no w s => atOnce st no w (fun s => { s with groups := s.groups.put (groupOf w) (BitVec.ofNat 32 (cw w 5)) }) s)
    st late s

/-- A member's sequencer as GROUP_START sets it (R84, R195): its number, rank, the group's size, the arguments. -/
def startMember (no st : Nat) (w : W512) (size : Nat) (rc : Nat × Nat) (s : State) : State :=
  let (rank, cl) := rc
  let c := clOf s cl
  let regs : List (Nat × W64) :=
    [(1, BitVec.ofNat 64 cl), (2, BitVec.ofNat 64 rank), (3, BitVec.ofNat 64 size)]
      ++ (List.range 4).map (fun i => (4 + i, BitVec.ofNat 64 (cw2 w (6 + 2 * i))))
  let pc := fld w 136 6 * 256 + fld w 144 8
  let s := setCl s cl { c with
    pc := pc, seq := 1, skipped := false, abortSeen := false, trapped := false, trapCode := 0, group := groupOf w
    sreg := regs, loops := [], page := some (pc / 256), heldOn := [], seen := [], chainSet := [], chainOpen := false
    chainsDone := [], gated := false
    prog := some { cmd := no, strm := st, tag := cmdTag w, group := groupOf w, failed := false, armed := [], ending := 0
                   trapPc := 0, trapLane := 15, trapOp := 0, trapTile := 0, trapD1 := 0, trapD2 := 0, trapD3 := 0 } }
  (List.range 9).foldl (fun s n => setCore s (9 * cl + n) { coreOf s (9 * cl + n) with pat := [], creg := [], chain := [] }) s

/-- GROUP_START (R84-R86). -/
def effGroupStart (st : Nat) (late : List Nat) (s : State) : State :=
  dispatch 0x22
    { own := inGroup (fun w s =>
        match lowest 0x09 ((members w s).filter (fun c => (clOf s c).prog.isSome)) with
        | some k => some k
        | none => lowest 0x0A ((members w s).filter (fun c => (clOf s c).mapState = 3))) }
    (fun no w s =>
      let ms := members w s
      (ms.zipIdx.map (fun p => (p.2, p.1))).foldl (fun s rc => startMember no st w ms.length rc s)
        (startCmd no st w (.start ms true) s)) st late s

/-- GROUP_STOP (R87). -/
def effGroupStop (st : Nat) (late : List Nat) (s : State) : State :=
  dispatch 0x23
    { own := inGroup (fun w s =>
        if (members w s).any (fun c => (clOf s c).prog.isSome) then none else some { code := 0x0C }) }
    (fun no w s =>
      let ms := (members w s).filter (fun c => (clOf s c).prog.isSome)
      ms.foldl (fun s c => trap c 5 { pc := (clOf s c).pc } s) (startCmd no st w (.stop ms) s)) st late s

/-- BATCH_ADMIT (R88): the admission word, little-endian, in every member's plates. -/
def openBatch (w : W512) (s : State) : State :=
  (members w s).foldl (fun s c =>
    let bs := leBytes 4 (cw w 5) ++ leBytes 4 (cw w 6)
    setCl s c (plateWrite { clOf s c with gated := false } (cw w 7 / 64) 0
      ((List.range 8).map (fun i => (cw w 7 % 64 + i, bs.getD i 0))))) s

def effBatchAdmit (st : Nat) (late : List Nat) (s : State) : State :=
  dispatch 0x24
    { badOperand := fun w _ => decide (cw w 7 % 8 ≠ 0 ∨ 0x1800000 ≤ cw w 7)
      own := inGroup (fun w s => if s.job.maxTokens.toNat < cw w 5 then some { code := 0x10, detail := cw w 5 } else none) }
    (fun no w s => atOnce st no w (openBatch w) s) st late s

/-! ### Programs (R133-R135) -/

/-- Whether a page of a cluster is in use (R134). -/
def pageInUse (c : Cluster) (p : Nat) : Bool :=
  (c.prog.isSome && decide (c.page = some p)) || c.loops.any (fun l => decide (l.start / 256 = p))

/-- The largest request to the host: PRESUMED 512 bytes. -/
def hostChunk : Nat := 512

/-- A read request to the host for a command, on the lowest free of the 512 tags (R474). -/
def hostRequest (no addr off len : Nat) (s : State) : State :=
  let tag := ((List.range 512).find? (fun t => (s.hreq.find t).isNone)).getD 0
  emit (.hostRead tag addr len) { s with hreq := s.hreq.put tag (no, off, len) }

/-- Whether another read request may be sent (R474, R476). -/
def mayRead (s : State) : Bool := mayRequest s && decide (s.hreq.length < 512)

/-- Requests of one command, up to a bound. -/
def pumpCmd : Nat → Nat → State → State
  | 0, _, s => s
  | k + 1, no, s =>
    match findCmd s no with
    | none => s
    | some c => match c.work with
      | .hostRead next left =>
        let len := cw2 c.word 10
        if mayRead s ∧ next < len then
          let n := min hostChunk (len - next)
          pumpCmd k no (hostRequest no (cw2 c.word 6 + next) next n (setWork no (.hostRead (next + n) left) s))
        else s
      | .load left next arrived bad =>
        let len := 4096 * fld c.word 144 7
        if bit c.word 152 ∧ mayRead s ∧ next < len then
          pumpCmd k no (hostRequest no (cw2 c.word 6 + next) next hostChunk (setWork no (.load left (next + hostChunk) arrived bad) s))
        else s
      | _ => s

/-- Read requests go out for the commands that need them, in dispatch order (R474). -/
def hostPump (s : State) : State := s.cmds.foldl (fun s c => pumpCmd 513 c.no s) s

/-- Whether a host extent leaves the DMA window (R479). -/
def hostRangeBad (s : State) (addr len : Nat) : Bool :=
  decide (addr < s.pci.winBase.toNat ∨ s.pci.winLimit.toNat < addr + len)

/-- The bytes of a page that have all arrived, by source offset. -/
def pageBytes (arrived : Tab (List Byte)) (src : Nat) : Option (List Byte) :=
  let cs := (List.range 8).filterMap (fun i => arrived.find (src + 512 * i))
  if cs.length = 8 then some cs.flatten else none

/-- A load ends when no page is left to write (R135, R593). -/
def loadEnds (no : Nat) (s : State) : State :=
  match findCmd s no with
  | some c => match c.work with
    | .load [] _ _ bad => completeCmd no (okTok (!bad)) s
    | _ => s
  | none => s

/-- A page is lost: it is written nowhere (R593). -/
def losePage (no src : Nat) (s : State) : State :=
  match findCmd s no with
  | some c => match c.work with
    | .load left next arrived _ => loadEnds no (setWork no (.load (left.filter (fun l => decide (l.2.2 ≠ src))) next arrived true) s)
    | _ => s
  | none => s

/-- The pages that a load writes, for each member: member, page, offset in the source. -/
def loadPages (w : W512) (s : State) : List (Nat × Nat × Nat) :=
  ((members w s).map (fun m => (List.range (fld w 144 7)).map (fun i => (m, fld w 136 6 + i, 4096 * i)))).flatten

/-- The pages are read from HBM; those with a failing sector, or one of `out` that could not be read, are lost (R593). -/
def readPages (out : List Nat) (hs : List Hit) (no : Nat) (w : W512) (s : State) : State :=
  let n := fld w 144 7
  let a := cw2 w 6
  let r := readUntracked 8 ((sectorsOf a (4096 * n)).filter (fun k => !out.contains k)) (hitHbm hs s)
  let chunks := (List.range (8 * n)).map (fun i => (512 * i, r.2.hbm.bytes (a + 512 * i) 512))
  let lost := (List.range n).filter (fun i => (r.1 ++ out).any (fun x => decide (x / 64 = a / 4096 + i)))
  lost.foldl (fun s i => losePage no (4096 * i) s) (setWork no (.load (loadPages w s) (4096 * n) chunks false) r.2)

/-- The load begins: pages from HBM are read and checked, pages from the host are asked for. -/
def beginLoad (hs : List Hit) (no : Nat) (w : W512) (s : State) : State :=
  if bit w 152 then hostPump (setWork no (.load (loadPages w s) 0 [] false) s)
  else heldStruct hs (cw2 w 6) (4096 * fld w 144 7) (fun hs s => readPages [] hs no w s) s

/-- LOAD_PROGRAM (R80, R135). -/
def effLoadProgram (st : Nat) (late : List Nat) (hs : List Hit) (s : State) : State :=
  dispatch 0x20
    { badOperand := fun w _ =>
        let n := fld w 144 7
        decide (n = 0 ∨ 64 < n ∨ 64 < fld w 136 6 + n ∨ cw2 w 6 % 4096 ≠ 0)
      own := inGroup (fun w s =>
        let used := ((List.range (fld w 144 7)).map (fun i => fld w 136 6 + i)).filter
          (fun p => (members w s).any (fun m => pageInUse (clOf s m) p))
        if cmdNoWait w then lowest 0x0D used else none)
      range := fun w s =>
        let a := cw2 w 6
        let n := 4096 * fld w 144 7
        if bit w 152 then hostRangeBad s a n else hbmRangeBad a n }
    (fun no w s => beginLoad hs no w (startCmd no st w .waiting s)) st late s

/-- A page of instruction memory is written whole (R135). -/
def writePage (cl page : Nat) (bs : List Byte) (s : State) : State :=
  let c := clOf s cl
  setCl s cl { c with imem := c.imem.writes (0x1000 * page) bs }

/-- LOAD_PROGRAM_PAGE_WRITE (R135): a page whose bytes have arrived, into a member where it is not in use. -/
def effLoadProgramPageWrite (no cl page : Nat) (s : State) : State :=
  match findCmd s no with
  | some c => match c.work with
    | .load left next arrived bad =>
      match left.find? (fun l => l.1 = cl ∧ l.2.1 = page) with
      | some l =>
        if pageInUse (clOf s cl) page then s
        else match pageBytes arrived l.2.2 with
          | some bs => loadEnds no (writePage cl page bs (setWork no (.load (left.erase l) next arrived bad) s))
          | none => s
      | none => s
    | _ => s
  | none => s

/-! ### Ephemerides (R259-R261) -/

/-- The ephemeris that a byte list spells: its header and entries. -/
def ephOf (bs : List Byte) (n : Nat) : Eph :=
  let ws := wordsOf bs
  { mask := fld (ws.getD 0 0) 0 8
    stepStart := fld (ws.getD 1 0) 0 24
    keep := leNat ((bs.drop 32).take 32)
    entries := (List.range n).map (fun i => (List.range 8).map (fun j => ws.getD (16 + 8 * i + j) 0)) }

/-- Whether an ephemeris header breaks R261. -/
def ephHeaderBad (bs : List Byte) : Bool :=
  let ws := wordsOf (bs.take 64)
  decide (fld (ws.getD 0 0) 0 8 = 0 ∨ fld (ws.getD 0 0) 8 24 ≠ 0 ∨ fld (ws.getD 1 0) 24 8 ≠ 0)
  || (List.range 6).any (fun i => decide (ws.getD (2 + i) 0 ≠ 0))

/-- Whether entry `i` of `n` breaks R261. -/
def ephEntryBad (n i : Nat) (e : List W32) : Bool :=
  decide (ew e 0 19 13 ≠ 0 ∨ ew e 1 19 13 ≠ 0 ∨ ew e 2 13 19 ≠ 0 ∨ e.getD 3 0 ≠ 0 ∨ e.getD 6 0 ≠ 0 ∨ e.getD 7 0 ≠ 0)
  || decide (4096 < eCount e) || (decide (eCount e = 0) && !(eEnd e))
  || decide (eAddr e % 64 ≠ 0 ∨ hbmEnd ≤ eAddr e ∨ hbmEnd < eAddr e + 64 * eCount e)
  || decide (eEnd e ≠ decide (i + 1 = n))

/-- The ephemeris is read and checked; one that passes waits to be taken (R261). -/
def loadEph (hs : List Hit) (no st : Nat) (w : W512) (s : State) : State :=
  let d := fld w 128 2
  let a := cw2 w 6
  let n := cw w 8
  heldStruct hs a (64 + 32 * n) (fun hs s =>
  let r := readStruct hs a (64 + 32 * n) s
  match r.1 with
  | k :: _ => readRejected (unitMover d) a k no st w r.2
  | [] =>
    let bs := r.2.hbm.bytes a (64 + 32 * n)
    let e := ephOf bs n
    if ephHeaderBad bs then completeCmd no .aborted (structRejected (unitMover d) 2 0 a 0 w st r.2)
    else match (List.range n).find? (fun i => ephEntryBad n i (e.entries.getD i [])) with
      | some i => completeCmd no .aborted (structRejected (unitMover d) 1 i a 0 w st r.2)
      | none => setDie (setWork no (.ephLoad d) r.2) d { dieOf r.2 d with ephNext := (dieOf r.2 d).ephNext ++ [(e, no)] }) s

/-- EPH_LOAD. -/
def effEphLoad (st : Nat) (late : List Nat) (hs : List Hit) (s : State) : State :=
  dispatch 0x28
    { badOperand := fun w _ => decide (cw w 8 = 0 ∨ 65535 < cw w 8)
      range := fun w _ => hbmRangeBad (cw2 w 6) (64 + 32 * cw w 8) }
    (fun no w s => loadEph hs no st w (startCmd no st w .waiting s)) st late s

/-! ### Tile moves, storage transfers and host copies -/

/-- The descriptor list of a TILE_MOVE is read by the die's tile mover, which waits for a stack in self-refresh (R301). -/
def beginMoves (hs : List Hit) (no : Nat) (w : W512) (s : State) : State :=
  heldStruct hs (cw2 w 6) (64 * cw w 8) (fun hs s =>
    let r := readList hs (cw2 w 6) (cw w 8) s
    setWork no (.tileMove (fld w 128 2) r.1 (cw w 8) false) r.2) s

/-- TILE_MOVE (R250, R257). -/
def effTileMove (st : Nat) (late : List Nat) (hs : List Hit) (s : State) : State :=
  dispatch 0x29
    { badOperand := fun w _ => decide (cw w 8 < 1 ∨ 4096 < cw w 8)
      range := fun w _ => hbmRangeBad (cw2 w 6) (64 * cw w 8) }
    (fun no w s => beginMoves hs no w (startCmd no st w .waiting s)) st late s

/-- STORAGE_XFER (R303, R304, R307, R312): a transfer to flash has read the whole of its extent before it writes, and is
held while a stack of it is in self-refresh (R301). -/
def beginXfer (hs : List Hit) (no : Nat) (w : W512) (s : State) : State :=
  let ctrl := fld w 130 2
  let n := cw w 10
  let a := cw2 w 6
  let lba := cw2 w 8
  let per := max 1 (min 32 (nvCtrl s ctrl).mdts)
  if n = 0 then completeCmd no .done s
  else
    let work := Work.storage ((n + per - 1) / per) (bit w 128) false
    if bit w 128 then
      heldStruct hs a (4096 * n) (fun hs s =>
        let r := readUntracked 6 (sectorsOf a (4096 * n)) (hitHbm hs (setWork no work s))
        if r.1 = [] then nvTransfer ctrl 5 1 (cw w 5) lba n (.xfer no true) (r.2.hbm.bytes a (4096 * n)) r.2
        else completeCmd no .aborted r.2) s
    else nvTransfer ctrl 5 2 (cw w 5) lba n (.xfer no false) [] (setWork no work s)

def effStorageXfer (st : Nat) (late : List Nat) (hs : List Hit) (s : State) : State :=
  dispatch 0x2A
    { absent := fun w s => !(nvCtrl s (fld w 130 2)).present
      range := fun w s => hbmRangeBad (cw2 w 6) (4096 * cw w 10)
        || !(nsHolds s (fld w 130 2) (cw w 5) (cw2 w 8) (cw w 10)) }
    (fun no w s => beginXfer hs no w (startCmd no st w .waiting s)) st late s

/-- HOST_COPY (R474, R479). -/
def effHostCopy (st : Nat) (late : List Nat) (s : State) : State :=
  dispatch 0x2B
    { needJob := false
      badOperand := fun w _ => decide (cw2 w 10 % 64 ≠ 0)
      range := fun w s => decide (cw2 w 10 ≠ 0)
        && (hostRangeBad s (cw2 w 6) (cw2 w 10) || hbmRangeBad (cw2 w 8) (cw2 w 10)) }
    (fun no w s =>
      let len := cw2 w 10
      if len = 0 then atOnce st no w id s
      else if bit w 128 then startCmd no st w .hostWrite s
      else hostPump (startCmd no st w (.hostRead 0 len) s)) st late s

/-- The requests of a command are forgotten. -/
def dropReads (no : Nat) (s : State) : State :=
  { s with hreq := s.hreq.filter (fun p => decide (p.2.1 ≠ no)), hbmHeld := s.hbmHeld.filter (fun h => decide (h.1 ≠ no)) }

/-- A read of the host fails: a HOST_COPY ends ABORTED, a page of a program is lost (R474). -/
def readFails (no off : Nat) (s : State) : State :=
  match findCmd s no with
  | some c => match c.work with
    | .hostRead _ _ => completeCmd no .aborted (dropReads no s)
    | _ => losePage no (off / 4096 * 4096) s
  | none => s

/-- The bytes of a read request arrive. -/
def readArrives (no off : Nat) (data : List Byte) (s : State) : State :=
  match findCmd s no with
  | some c => match c.work with
    | .hostRead _ _ => landCmd no (cw2 c.word 8 / 64 + off / 64) data s
    | .load left next arrived bad => setWork no (.load left next (arrived.put off data) bad) s
    | _ => s
  | none => s

/-- HOST_READ_COMPLETION (R474): status 0 is a successful completion. -/
def effHostReadCompletion (tag status : Nat) (data : List Byte) (s : State) : State :=
  match s.hreq.find tag with
  | none => s
  | some (no, off, len) =>
    let s := { s with hreq := s.hreq.del tag }
    hostPump (if status = 0 then readArrives no off (padTo len data) s else readFails no off s)

/-- HOST_READ_TIMEOUT (R474). -/
def effHostReadTimeout (tag : Nat) (s : State) : State :=
  match s.hreq.find tag with
  | none => s
  | some (no, off, _) => hostPump (readFails no off { s with hreq := s.hreq.del tag })

/-- Posted writes of a byte range of HBM to the host, at most 512 bytes each (R474). -/
def writeHost (hbmAddr hostAddr len : Nat) (s : State) : State :=
  (List.range ((len + 511) / 512)).foldl (fun s i =>
    emit (.hostWrite (hostAddr + 512 * i) (s.hbm.bytes (hbmAddr + 512 * i) (min 512 (len - 512 * i)))) s) s

/-- HOST_COPY_WRITTEN (R80, R304, R584): the last byte is written, or the first failing sector ends the command after
`issued` writes that precede it; of the sectors, `reads` had been read by then, and each of them is counted and recorded
that fails. -/
def effHostCopyWritten (no issued reads : Nat) (hs : List Hit) (s : State) : State :=
  match findCmd s no with
  | some c => match c.work with
    | .hostWrite =>
      let a := cw2 c.word 8
      let len := cw2 c.word 10
      if !(mayRequest s) || inSelfRefresh s (sectorsOf a len) then s
      else
        let s := hitHbm hs s
        match (readUntracked 5 (sectorsOf a len) s).1 with
        | [] => completeCmd no .done (writeHost a (cw2 c.word 6) len s)
        | n :: _ =>
          if (64 * n - a) / 512 < issued ∨ 64 * reads ≤ 64 * n - a ∨ len < 64 * reads then s
          else completeCmd no .aborted ((readUntracked 5 (sectorsOf a (64 * reads)) (writeHost a (cw2 c.word 6) (512 * issued) s)).2)
    | _ => s
  | none => s

/-- The HBM extent that a command reads before it goes on, and the unit of a structure's record (R593). -/
def structOf (s : State) (st : Nat) (w : W512) : Nat × Nat × W32 :=
  match cmdOp w with
  | 0x12 => (cw2 w 4, 64, unitIngest st)
  | 0x20 => (cw2 w 6, if bit w 152 then 0 else 4096 * fld w 144 7, unitIngest st)
  | 0x28 => (cw2 w 6, 64 + 32 * cw w 8, unitMover (fld w 128 2))
  | 0x2A => (cw2 w 6, 4096 * cw w 10, unitIngest st)
  | 0x31 => (cw2 w 6, if s.mer.rebl.isSome then 0 else 4096, unitFab (5 + fld w 128 1))
  | 0x32 => (cw2 w 6, if s.mer.rebl.isSome then 0 else 192 * cw w 5, unitFab (ctxDie (cw w 4)))
  | 0x34 => (cw2 w 6, if s.mer.rebl.isSome then 0 else
      64 + 32 * (leNat (s.hbm.bytes (cw2 w 6 + 4) 4) + leNat (s.hbm.bytes (cw2 w 6 + 8) 4)), unitFab 5)
  | _ => (0, 0, 0)

/-- The structure read of a command has been held for 1 ms: it ends as a failing read (R301, R304, R593); no sector has
been read, so none is recorded. A mover's list simply waits. -/
def structTimeout (c : CmdRec) (s : State) : State :=
  let (a, len, unit) := structOf s c.strm c.word
  match (sectorsOf a len).filter (fun n => inSelfRefresh s [n]) with
  | [] => s
  | n :: out =>
    if cmdOp c.word = 0x20 then readPages (n :: out) [] c.no c.word s
    else if cmdOp c.word = 0x2A then completeCmd c.no .aborted s
    else readRejected unit a n c.no c.strm c.word s

/-- SELF_REFRESH_TIMEOUT (R301) of the held access of a command: it has waited 1 ms. -/
def heldTimeout (no : Nat) (s : State) : State :=
  match findCmd s no with
  | none => s
  | some c => match c.work with
    | .waiting => structTimeout c s
    | .hostWrite => if inSelfRefresh s (sectorsOf (cw2 c.word 8) (cw2 c.word 10)) then completeCmd no .aborted s else s
    | .hostRead _ _ => if s.hbmHeld.any (fun h => h.1 = no) then completeCmd no .aborted (dropReads no s) else s
    | .storage _ _ _ => if s.hbmHeld.any (fun h => h.1 = no) then xferFails no s else s
    | _ => s

end Sys2Proof.Machine
end

