-- ==== Sys2Proof/Machine/Runs.lean ====
section
/-! DEFINITION. Runs: what a fabric engine does with the runs of its flow contexts: sources, chains, gathers, stripes,
barriers, statistics and the end of a run (chapter 11). -/

namespace Sys2Proof.Machine

/-! ### Cells that wait for credit -/

/-- PATH of a device's route (Table 10.12). -/
def routePath (s : State) (d gid : Nat) : Nat := fld (routeOf s d gid) 1 2



/-- Whether DATA to a device goes on address lanes now: PATH 0, or FALLBACK while its port has no joined link (R390). -/
def onAddress (s : State) (d gid : Nat) : Bool :=
  let e := routeOf s d gid
  decide (routePath s d gid = 0) || (bit e 3 && !((List.range 64).any (fun p =>
    let k := linkOf s p; decide (k.state = 3 ∧ k.lport = fld e 4 6) && !k.parked)))


/-- Whether a cell of a context needs landing credit: every one but an engine line, and an FPUT's on address lanes, whose
standing credit is the reservation (R281, R368). -/
def needsCredit (s : State) (x : WaitCell) (c : Ctx) : Bool :=
  !(engineWait x) && (decide (cKind c ≠ 1) || !(onAddress s (ctxDie x.ctx) x.dst))

/-- Whether a waiting cell may be sent now (R281, R385). -/
def mayData (s : State) (x : WaitCell) : Bool :=
  match ctxOf s x.ctx with
  | some c => decide (unacked s x.ctx x.dst < 2048)
      && (!(needsCredit s x c) || decide (x.lines.length ≤ c.credit.get 0 x.dst))
  | none => false

/-- A waiting cell is sent: it takes its credit and its SEQ. -/
def sendWait (x : WaitCell) (s : State) : State :=
  match ctxOf s x.ctx with
  | none => s
  | some c =>
    let q := c.seq.get 0 x.dst
    let c' := if needsCredit s x c then { c with credit := c.credit.put x.dst (c.credit.get 0 x.dst - x.lines.length) } else c
    let s := noteSent x.ctx x.put q (sendData x.ctx x.dst x.off x.lines x.tags (setCtx s x.ctx c'))
    match (photOf s (ctxDie x.ctx)).puts.find? (fun p => decide (p.ctx = x.ctx ∧ some p.iid = x.put)) with
    | some p => freeFab p.cl p.iid s
    | none => s

/-- One waiting cell, unless an older one of its flow, device and kind still waits: an engine line passes cells that wait
for credit. -/
def flushOne (a : List (Nat × Nat × Bool) × State) (x : WaitCell) : List (Nat × Nat × Bool) × State :=
  let s := a.2
  let key := (x.ctx, x.dst, engineWait x)
  if a.1.contains key || !(mayData s x) then
    let d := photOf s (ctxDie x.ctx)
    (key :: a.1, setPhot s (ctxDie x.ctx) { d with wait := d.wait ++ [x] })
  else (a.1, sendWait x s)

/-- The waiting cells of a photonic die are sent as far as credit goes. -/
def flushData (d : Nat) (s : State) : State :=
  let ws := (photOf s d).wait
  (ws.foldl flushOne ([], setPhot s d { photOf s d with wait := [] })).2

/-- Lines at consecutive offsets gathered into cells of up to four. -/
def packCells : List (Nat × List Byte × Nat) → List (Nat × List (List Byte × Nat))
  | [] => []
  | (o, l) :: rest =>
    match packCells rest with
    | (o', ls) :: more => if o + 1 = o' ∧ ls.length < 4 then (o, l :: ls) :: more else (o, [l]) :: (o', ls) :: more
    | [] => [(o, [l])]

/-- Lines at offsets go to a device. -/
def pushLines (id dst : Nat) (put : Option Nat) (ls : List (Nat × List Byte × Nat)) (s : State) : State :=
  (packCells ls).foldl (fun s c => pushData id dst put c.1 c.2 s) s

/-! ### Formats and shards (R421) -/

def inFmt (s : State) (c : Ctx) : Fmt := fmtK s (cKindIn c)
def outFmt (s : State) (c : Ctx) : Fmt := fmtK s (cKindOut c)
/-- Elements of a format in a line. -/
def lineEls (f : Fmt) : Nat := 512 / fmtBits f
/-- `N` of R421. -/
def elemsOf (s : State) (c : Ctx) : Nat := cLines c * lineEls (inFmt s c)
/-- Elements of a shard. -/
def shardEls (s : State) (c : Ctx) : Nat := elemsOf s c / cMembers c
/-- Lines of a converted shard. -/
def shardOut (s : State) (c : Ctx) : Nat := shardEls s c / lineEls (outFmt s c)
/-- Lines of a REDUCE context's landing region at this package (R421). -/
def outLines (s : State) (c : Ctx) : Nat :=
  match cMode c with
  | 0 => shardOut s c
  | 1 => shardOut s c * cMembers c
  | _ => if cSelf c = cRoot c then shardOut s c * cMembers c else 0
def succOf (c : Ctx) : Nat := (cSelf c + 1) % cMembers c
/-- The global device id of a member by index, and of this package's successor. -/
def succGid (c : Ctx) : Nat := cMember c (succOf c)

/-- The run's version tag, formed when it begins (R414). -/
def runVer (s : State) (c : Ctx) : W32 :=
  let st := if cVerRel c then ((dieOf s (homeDie (cDst c))).step + cStep c) % 2 ^ 24 else cStep c
  BitVec.ofNat 32 (at_ (cEpoch c) 24 8 + st)

/-- Element `e` of source lines of a kind (R220). -/
def elemAt (f : Fmt) (sg : Int) (ls : List (List Byte × Nat)) (e : Nat) : Fp :=
  let l := ls.getD (e / lineEls f) ([], 0)
  let n := fmtBits f / 8
  rne32 (fpScale (fpDecode f (leNat ((l.1.drop (e % lineEls f * n)).take n))) ((l.2 : Int) - sg))

/-! ### FP64 sums (R425) -/

/-- IEEE rounding to FP64. -/
def rne64 (x : Fp) : Fp :=
  match fpRound fFP64 .near x, x with
  | (_, true), .fin s _ _ => .inf s
  | (y, _), _ => y
def bits64 (x : Fp) : W64 := BitVec.ofNat 64 (convertSat fFP64 .near x).1
def val64 (w : W64) : Fp := fpDecode fFP64 w.toNat
/-- The sum of squares of FP32 values in order, each step rounded in FP64. -/
def sumSq (l : List W32) : W64 := bits64 (l.foldl (fun a w => rne64 (fpAdd a (fpMul (val32 w) (val32 w)))) fpZero)
def add64 (a b : W64) : W64 := bits64 (rne64 (fpAdd (val64 a) (val64 b)))

/-! ### Landing (R414, R415) -/

/-- A line of a run lands, and is noted for what an abort does to it (R434). -/
def landRun (id o : Nat) (l : List Byte × Nat) (s : State) : State :=
  match ctxOf s id, runOf s id with
  | some c, some r => setRun { r with landed := r.landed ++ [o] } (landLine c r.ver o l s)
  | _, _ => s

/-! ### Sources -/

/-- The parts of a run in part order (R409). -/
def partOrder (r : FRun) : List (Nat × Nat × Nat) := (List.range 32).filterMap (fun cl => r.parts.find? (fun p => p.1 = cl))

/-- The cores of the scratchpad parts, in part order. -/
def partCores (s : State) (r : FRun) : List Nat :=
  ((partOrder r).map (fun p => (maskLanes p.2.2).filterMap (fun l => laneCore (clOf s p.1) p.1 l))).flatten

/-- Whether the sources of a run carry no write mark (R327). -/
def unmarked (s : State) (cores : List Nat) (addr lines : Nat) : Bool :=
  cores.all (fun k => (List.range lines).all (fun i => ((coreOf s k).wmark.find (addr / 64 + i)).isNone))

/-- Failing sectors of a fabric read are counted and recorded (R584). -/
def fabricBad (bad : List (Nat × Nat)) (v : W32) (s : State) : State :=
  bad.foldl (fun s p => failSector p.1 p.2 v 2 0xFFFFFFFF#32 s) s

/-- The trap of the program whose fabric instruction read a bad line (R317). -/
def fabricTrap (cl iid line why : Nat) (s : State) : State :=
  match (clOf s cl).issued.find? (fun i => i.iid = iid) with
  | some i => trap cl 2 { pc := i.pc, op := opRec i.word, d1 := BitVec.ofNat 32 line, d2 := 1, d3 := BitVec.ofNat 32 why } s
  | none => s

/-- The part that a core belongs to. -/
def partOf (s : State) (r : FRun) (core : Nat) : Nat × Nat :=
  match r.parts.find? (fun p => p.1 = core / 9) with
  | some p => (p.1, p.2.1)
  | none => (core / 9, s.insNo)

/-- What a failing source does (R317, R414). -/
def sourceFails (id : Nat) (r : FRun) (res : ReadRes) (s : State) : State :=
  match res with
  | .sectors bad => raiseOn id 4 (fabricBad bad r.ver s)
  | .plate cl line =>
    match r.parts.find? (fun p => p.1 = cl) with
    | some p => plateError cl line (fabricTrap cl p.2.1 line 1) s
    | none => raiseOn id 4 (plateError cl line (fun (s : State) => s) s)
  | .spad core line => spadError core line (fabricTrap (partOf s r core).1 (partOf s r core).2 line 0) s
  | .lines _ => s

/-- The reads of a run's parts, in part order (R409). -/
def partReads (s : State) (c : Ctx) (r : FRun) : List ReadRes :=
  match cSrcTier c with
  | 0 => (partCores s r).map (fun k => readSpad s k (cSrc c) (cLines c))
  | 1 => (partOrder r).map (fun p => readPlates s p.1 (cSrc c) (cLines c))
  | _ => [readHbm s (cSrc c) (cLines c) r.ver]

def isLines : ReadRes → Bool
  | .lines _ => true
  | _ => false
def linesIn : ReadRes → List (List Byte × Nat)
  | .lines l => l
  | _ => []

/-! ### REDUCE (R421-R423) -/

/-- `L` of this package: the parts added in part order (R422). -/
def sumParts (s : State) (c : Ctx) (parts : List (List (List Byte × Nat))) : List W32 :=
  let f := inFmt s c
  let sg := kindScale s (cKindIn c)
  match parts with
  | [] => List.replicate (elemsOf s c) 0
  | p :: ps => (List.range (elemsOf s c)).map (fun e =>
      bits32 (ps.foldl (fun a q => rne32 (fpAdd a (elemAt f sg q e))) (elemAt f sg p e)))

/-- The first and the last member of the chain of a shard (Table 11.4). -/
def chainEnd (c : Ctx) (j : Nat) : Nat := if cMode c = 2 then cRoot c else j
def chainStart (c : Ctx) (j : Nat) : Nat := (chainEnd c j + 1) % cMembers c

/-- Counted conversions of reduced results (R422). -/
def countSat (id n : Nat) (s : State) : State :=
  let d := photOf s (ctxDie id)
  setPhot s (ctxDie id) { d with fabSat := BitVec.ofNat 32 (min 0xFFFFFFFF (d.fabSat.toNat + n)) }

/-- An output line whose elements are all final is converted and lands; in ALL_REDUCE it is passed on (R421, R422). -/
def finishLine (id o : Nat) (s : State) : State :=
  match ctxOf s id, runOf s id with
  | some c, some r =>
    let f := outFmt s c
    let per := lineEls f
    let es := (List.range per).filterMap (fun i => r.zPart.find (per * o + i))
    if es.length < per then s
    else
      let cv := es.map (fun w => convertSat f .near (fpScale (val32 w) (kindScale s (cKindOut c))))
      let bs := (cv.map (fun x => leBytes (fmtBits f / 8) x.1)).flatten
      let s := countSat id (cv.filter (fun x => x.2)).length s
      let off := if cMode c = 0 then o - cSelf c * shardOut s c else o
      let s := landRun id off (bs, 0) s
      if cMode c = 1 ∧ 1 < cMembers c then pushData id (succGid c) none o [(bs, 0)] s else s
  | _, _ => s

/-- A line of 16 running sums, this package's own added: it ends its chain here, or is to be passed on. -/
def chainLine (id n : Nat) (vals : List W32) (s : State) : List (Nat × List Byte × Nat) × State :=
  match ctxOf s id, runOf s id with
  | some c, some r =>
    let j := 16 * n / shardEls s c
    if chainEnd c j = cSelf c then
      let z := (List.range 16).foldl (fun z i => z.put (16 * n + i) (vals.getD i 0)) r.zPart
      ([], finishLine id (16 * n / lineEls (outFmt s c)) (setRun { r with zPart := z } s))
    else ([(n, (vals.map (fun v => leBytes 4 v.toNat)).flatten, 0)], s)
  | _, _ => ([], s)

/-- Chain lines are taken up, and those that go on are sent to the successor. -/
def chainLines (id : Nat) (ls : List (Nat × List W32)) (s : State) : State :=
  let r := ls.foldl (fun (a : List (Nat × List Byte × Nat) × State) x =>
    let p := chainLine id x.1 x.2 a.2
    (a.1 ++ p.1, p.2)) ([], s)
  match ctxOf r.2 id with
  | some c => pushLines id (succGid c) none r.1 r.2
  | none => r.2

/-- The 16 values of `L` in an FP32 line. -/
def ownLine (r : FRun) (n : Nat) : List W32 := (r.sums.drop (16 * n)).take 16

/-- Lines that reach this package in a REDUCE run (Table 11.4). -/
def reduceLeft (s : State) (c : Ctx) : Nat :=
  let m := cMembers c
  if m = 1 then 0
  else if cMode c = 2 then (if cSelf c = (cRoot c + 1) % m then 0 else elemsOf s c / 16)
  else (m - 1) * (shardEls s c / 16) + (if cMode c = 1 then (m - 1) * shardOut s c else 0)

/-- The start of a REDUCE run: the shards whose chain begins here are sent, or end here with one member. -/
def startReduce (id : Nat) (c : Ctx) (r : FRun) (s : State) : State :=
  let reads := partReads s c r
  match reads.find? (fun x => !isLines x) with
  | some bad => sourceFails id r bad s
  | none =>
    let l := sumParts s c (reads.map linesIn)
    let r := { r with st := 1, sums := l, left := reduceLeft s c, q := if cStats c then sumSq l else 0
                      stats := if cStats c then 1 else 0 }
    let per := shardEls s c / 16
    let mine := (List.range (cMembers c)).filter (fun j => decide (chainStart c j = cSelf c))
    let ns := (mine.map (fun j => (List.range per).map (fun i => j * per + i))).flatten
    chainLines id (ns.map (fun n => (n, ownLine r n))) (setRun r s)

/-- Running sums from the predecessor: this package adds its own (R422). -/
def reduceChain (id off : Nat) (lines : List (List Byte)) (s : State) : State :=
  match runOf s id with
  | some r =>
    chainLines id (lines.zipIdx.map (fun l =>
      (off + l.2, (List.range 16).map (fun i =>
        bits32 (rne32 (fpAdd (val32 (BitVec.ofNat 32 (leNat ((l.1.drop (4 * i)).take 4)))) (val32 ((ownLine r (off + l.2)).getD i 0)))))))) s
  | none => s

/-- Converted lines of ALL_REDUCE, or lines of a gather: they land and are passed on, unless the successor owns them. -/
def passAround (id off : Nat) (ls : List (List Byte × Nat)) (per : Nat) (s : State) : State :=
  match ctxOf s id with
  | some c =>
    let s := ls.zipIdx.foldl (fun s l => landRun id (off + l.2) l.1 s) s
    pushLines id (succGid c) none
      ((ls.zipIdx.filter (fun l => decide ((off + l.2) / per ≠ succOf c))).map (fun l => (off + l.2, l.1.1, l.1.2))) s
  | none => s

/-! ### GATHER (R427-R429) -/

/-- Sectors that a gather reads, each with its class under its own expected tag. -/
def gatherClass (s : State) (c : Ctx) (v : Option W32) (n : Nat) : Nat × W32 :=
  let w : W32 := match v with
    | some x => x
    | none => BitVec.ofNat 32 (at_ (cEpoch c) 24 8 + sectorStep s n)
  (sectorClass s n w, w)

/-- The own shard of a gather lands and is sent on. -/
def sendShard (id : Nat) (c : Ctx) (r : FRun) (s : State) : State :=
  let per := cLines c / cMembers c
  let ns := (List.range per).map (fun i => cSrc c / 64 + i)
  let ls := ns.map (fun n => (sectorData s n, sectorTag s n))
  let off := cSelf c * per
  let s := setRun { r with st := 1, left := (cMembers c - 1) * per } s
  let s := ls.zipIdx.foldl (fun s l => landRun id (off + l.2) l.1 s) s
  if cMembers c = 1 then s
  else pushLines id (succGid c) none (ls.zipIdx.map (fun l => (off + l.2, l.1.1, l.1.2))) s

/-- The start of a GATHER run: the own shard is checked for damage and for version skew (R428, R429). -/
def startGather (id : Nat) (c : Ctx) (r : FRun) (s : State) : State :=
  let per := cLines c / cMembers c
  let ns := (List.range per).map (fun i => cSrc c / 64 + i)
  let first := cSrc c / 64
  let pair := if cMode c = 1 then (match ctxOf s (cPair c) with
    | some p => p.recorded
    | none => none) else none
  if cMode c = 1 ∧ pair = none then raiseOn id 3 s
  else
    let cls := ns.map (fun n => (n, gatherClass s c pair n))
    let bad := cls.filter (fun x => decide (x.2.1 ≠ 0))
    let s := bad.foldl (fun s x => failSector x.1 x.2.1 x.2.2 2 0xFFFFFFFF#32 s) s
    if bad.any (fun x => decide (x.2.1 = 2)) || (decide (cMode c = 0) && ns.any (fun n => decide (sectorStep s n ≠ sectorStep s first)))
    then raiseOn id 3 s
    else if bad ≠ [] then raiseOn id 4 s
    else
      let s := if cMode c = 0 then setCtx s id { c with recorded := some (gatherClass s c none first).2 } else s
      sendShard id c r s

/-! ### STRIPE (R443-R445) -/

/-- Lines of a shard of a stripe read against the run's version tag; a data sector with a tag fails. -/
def stripeRead (s : State) (c : Ctx) (r : FRun) (addr : Nat) (data : Bool) : Option (List (List Byte × Nat)) × List (Nat × Nat) :=
  match readHbm s addr (cLines c) r.ver with
  | .lines ls => (if data && ls.any (fun l => decide (l.2 ≠ 0)) then none else some ls, [])
  | .sectors bad => (none, bad)
  | _ => (none, [])

/-- A member's shard goes to other members. -/
def sendStripe (id : Nat) (c : Ctx) (r : FRun) (addr : Nat) (data : Bool) (dst : List Nat) (left : Nat) (s : State) : State :=
  match stripeRead s c r addr data with
  | (none, bad) => raiseOn id 4 (fabricBad bad r.ver s)
  | (some ls, _) =>
    dst.foldl (fun s m => pushLines id (cMember c m) none (ls.zipIdx.map (fun l => (l.2, l.1.1, l.1.2))) s)
      (setRun { r with st := 1, left := left } s)

/-- The start of a STRIPE run. -/
def startStripe (id : Nat) (c : Ctx) (r : FRun) (s : State) : State :=
  let k := cMembers c - 2
  let i := cSelf c
  if cMode c = 0 then
    if i < k then sendStripe id c r (cSrc c) true [k, k + 1] 0 s
    else setRun { r with st := 1, left := k * cLines c } s
  else
    let lost := lostOf c
    if lost.contains i then setRun { r with st := 1, left := (cMembers c - lost.eraseDups.length) * cLines c } s
    else sendStripe id c r (if i < k then cSrc c else cDst c) (i < k) lost.eraseDups 0 s

/-- A contribution to a parity shard (R443). -/
def foldLine (c : Ctx) (m : Nat) (l : List Byte) : List Byte :=
  if cSelf c = cMembers c - 2 then l else mulBytes (gfPow m) l

/-- A window of a parity shard is written once all its contributions are folded, and its room is free (R444). -/
def foldWindow (id win : Nat) (s : State) : State :=
  match ctxOf s id, runOf s id with
  | some c, some r =>
    let k := cMembers c - 2
    let os := (List.range (min 2048 (cLines c - 2048 * win))).map (fun i => 2048 * win + i)
    if os.all (fun o => decide ((r.fold.get (0, []) o).1 = k)) then
      let s := setRun { r with win := r.win + 1, folding := false } s
      os.foldl (fun s o => landRun id o ((r.fold.get (0, []) o).2, 0) s) s
    else s
  | _, _ => s

/-- The windows that the engine of a photonic die folds now; its 4 MiB hold 32 (R444). -/
def openWindows (s : State) (d : Nat) : Nat := ((photOf s d).runs.filter (fun r => r.folding)).length

/-- A parity member's run takes room for its next window and grants it to every data member (R444). -/
def giveWindow (id : Nat) (s : State) : State :=
  match ctxOf s id, runOf s id with
  | some c, some r =>
    let k := cMembers c - 2
    if cKind c = 6 ∧ cMode c = 0 ∧ k ≤ cSelf c ∧ r.st ≤ 1 ∧ !r.folding ∧ 2048 * r.win < cLines c ∧ openWindows s (ctxDie id) < 32 then
      (List.range k).foldl (fun s m => grant (cMember c m) id (min 2048 (cLines c - 2048 * r.win)) s) (setRun { r with folding := true } s)
    else s
  | _, _ => s

/-- The runs of a photonic die take room in the order in which they began. -/
def giveWindows (d : Nat) (s : State) : State := (photOf s d).runs.foldl (fun s r => giveWindow r.ctx s) s

/-- Lines of a data shard reach a parity member. -/
def stripeFold (id m off : Nat) (ls : List (List Byte × Nat)) (s : State) : State :=
  let s := ls.zipIdx.foldl (fun s l => match ctxOf s id, runOf s id with
    | some c, some r =>
      let o := off + l.2
      let x := foldLine c m l.1.1
      let (n, acc) := r.fold.get (0, []) o
      setRun { r with fold := r.fold.put o (n + 1, if n = 0 then x else xorBytes acc x) } s
    | _, _ => s) s
  let wins := (ls.zipIdx.map (fun l => (off + l.2) / 2048)).eraseDups
  wins.foldl (fun s w => foldWindow id w s) s

/-- The line of member `x` solved from the surviving ones (R445); `g m` is the line of a surviving member. -/
def solveLine (c : Ctx) (lost : List Nat) (x : Nat) (g : Nat → List Byte) : List Byte :=
  let k := cMembers c - 2
  let live := (List.range k).filter (fun m => !lost.contains m)
  let a := live.foldl (fun acc m => xorBytes acc (g m)) (g k)
  let b := live.foldl (fun acc m => xorBytes acc (mulBytes (gfPow m) (g m))) (g (k + 1))
  let data := fun (y : Nat) =>
    match lost.find? (fun z => decide (z < k ∧ z ≠ y)) with
    | some z => mulBytes (gfInv (gfPow y ^^^ gfPow z)) (xorBytes b (mulBytes (gfPow z) a))
    | none => if lost.contains k then mulBytes (gfInv (gfPow y)) b else a
  if x < k then data x
  else
    let d := fun (m : Nat) => if lost.contains m then data m else g m
    let zero := List.replicate 64 (0#8)
    if x = k then (List.range k).foldl (fun acc m => xorBytes acc (d m)) zero
    else (List.range k).foldl (fun acc m => xorBytes acc (mulBytes (gfPow m) (d m))) zero

/-- A line of a lost shard is rebuilt when every survivor's line has arrived. -/
def rebuildLine (id o : Nat) (s : State) : State :=
  match ctxOf s id, runOf s id with
  | some c, some r =>
    let lost := lostOf c
    let live := (List.range (cMembers c)).filter (fun m => !lost.contains m)
    let got := fun (m : Nat) => ((r.shards.get [] m).find? (fun l => l.1 = o)).map (fun l => l.2)
    if live.all (fun m => (got m).isSome) then
      let line := solveLine c lost (cSelf c) (fun m => (got m).getD (List.replicate 64 0))
      landRun id o (line, 0) s
    else s
  | _, _ => s

/-- Lines of a surviving shard reach a replacement. -/
def stripeRebuild (id m off : Nat) (ls : List (List Byte × Nat)) (s : State) : State :=
  let s := match runOf s id with
    | some r => setRun { r with shards := r.shards.put m (r.shards.get [] m ++ ls.zipIdx.map (fun l => (off + l.2, l.1.1))) } s
    | none => s
  ls.zipIdx.foldl (fun s l => rebuildLine id (off + l.2) s) s

/-! ### Credit (R281, R410, R444) -/

/-- The landing credit that a package grants when a run begins; parity members grant theirs by window. -/
def grantRun (id : Nat) (c : Ctx) (s : State) : State :=
  let m := cMembers c
  let pred := cMember c ((cSelf c + m - 1) % m)
  match cKind c with
  | 2 => if m = 1 then s else grant pred id (reduceLeft s c) s
  | 3 => if m = 1 then s else grant pred id ((m - 1) * (cLines c / m)) s
  | 6 =>
    if cMode c = 1 ∧ (lostOf c).contains (cSelf c) then
      ((List.range m).filter (fun i => !(lostOf c).contains i)).foldl (fun s i => grant (cMember c i) id (cLines c) s) s
    else s
  | _ => s

/-! ### Rounds (R411, R430, R431) -/

/-- Rounds of `m` members. -/
def roundsOf (m : Nat) : Nat := ((List.range 7).find? (fun r => decide (m ≤ 2 ^ r))).getD 7

/-- Whether the BARRIER cell of a round has arrived. -/
def roundHere (c : Ctx) (closing : Bool) (r : Nat) : Bool := c.rounds.contains (c.runs, b2n closing, r)

/-- The rounds of a run go on as far as the cells that have arrived allow; the bound is the number of rounds. -/
def goRounds : Nat → Nat → Bool → State → State
  | 0, _, _, s => s
  | k + 1, id, closing, s =>
    match ctxOf s id, runOf s id with
    | some c, some r =>
      if r.round = roundsOf (cMembers c) then s
      else if r.sentRound ≤ r.round then
        goRounds k id closing (queueCell 3
          (shortCell s (cMember c ((cSelf c + 2 ^ r.round) % cMembers c)) 3 (cEpoch c) id
            (leBytes 4 c.runs ++ [BitVec.ofNat 8 r.round, BitVec.ofNat 8 (b2n closing)]))
          (setRun { r with sentRound := r.round + 1 } s))
      else if roundHere c closing r.round then goRounds k id closing (setRun { r with round := r.round + 1 } s)
      else s
    | _, _ => s

/-! ### Statistics (R425, R426) -/

/-- Where the present run of a context writes its statistics entry. -/
def statsAt (c : Ctx) : Nat := cStatsAddr c + c.runs % max 1 (cStatsEntries c) * 32

/-- The statistics entry of a run (Table 11.5), in the half of its sector; STATS_WRAP when it overwrites an entry. -/
def writeStats (id : Nat) (a z : W64) (s : State) : State :=
  match ctxOf s id, runOf s id with
  | some c, some r =>
    let addr := statsAt c
    let bs := [BitVec.ofNat 8 (cLayer c), BitVec.ofNat 8 (cMembers c)] ++ leBytes 2 id ++ leBytes 4 c.runs
      ++ leBytes 8 a.toNat ++ leBytes 8 z.toNat ++ leBytes 4 r.ver.toNat ++ leBytes 4 0
    let n := addr / 64
    let s := writeSector n ((s.hbm.writes addr bs).bytes (64 * n) 64) r.ver 0 s
    let s := setRun { r with stats := 3 } s
    if cStatsEntries c ≤ c.runs then
      record { unit := unitFab (ctxDie id), cls := 0x0443, d1 := BitVec.ofNat 32 id
               d2 := BitVec.ofNat 32 (c.runs + 1 - cStatsEntries c) } s
    else s
  | _, _ => s

/-- Whether every DATA cell of a run is sent and acknowledged. -/
def allAcked (s : State) (id : Nat) : Bool :=
  (photOf s (ctxDie id)).wait.all (fun x => decide (x.ctx ≠ id))
  && s.mer.tx.all (fun t => decide (t.cell.typ ≠ 1 ∨ t.cell.flow ≠ id))
  && s.mer.sent.all (fun t => decide (t.cell.typ ≠ 1 ∨ t.cell.flow ≠ id))

/-- The bytes of a STATS line. -/
def statsLine (op : Nat) (a z : W64) : List Byte :=
  [BitVec.ofNat 8 op, 0, 0, 0, 0, 0, 0, 0] ++ leBytes 8 a.toNat ++ leBytes 8 z.toNat

/-- This package's sums join the chain of sums, which it passes on; the last member sends the result (R426). -/
def passStats (id : Nat) (s : State) : State :=
  match ctxOf s id, runOf s id with
  | some c, some r =>
    let z := sumSq (r.zPart.map (fun p => p.2))
    let m := cMembers c
    let base := if cSelf c = 0 then some (r.q, z) else r.chainIn.map (fun p => (add64 p.1 r.q, add64 p.2 z))
    if r.stats = 1 ∧ r.left = 0 ∧ (cSelf c ≠ 0 ∨ allAcked s id) ∧ (cSelf c + 1 = m → !(inSelfRefresh s [statsAt c / 64])) then
      match base with
      | none => s
      | some (a, zz) =>
        let s := setRun { r with stats := 2 } s
        if cSelf c + 1 = m then
          ((List.range m).filter (fun i => decide (i ≠ cSelf c))).foldl (fun s i => sendLine id (cMember c i) (statsLine 3 a zz) s)
            (writeStats id a zz s)
        else sendLine id (succGid c) (statsLine 2 a zz) s
    else s
  | _, _ => s

/-! ### The end of a run (R411) -/

/-- The instructions of a run are released. -/
def releaseParts (r : FRun) (s : State) : State := r.parts.foldl (fun s p => laneDone p.1 p.2.1 8 s) s

/-- A run completes locally (R411). -/
def finishRun (id : Nat) (s : State) : State :=
  match ctxOf s id, runOf s id with
  | some c, some r =>
    let s := rebuildRec id 1 r.landed.length s
    let c' := { c.nextRun with rounds := c.rounds.filter (fun x => decide (x.1 ≠ c.runs)) }
    releaseParts r (delRun id (setCtx s id c'))
  | _, _ => s

/-- A receive is released when its notices have arrived (R419). -/
def finishReceive (id : Nat) (s : State) : State :=
  match ctxOf s id, runOf s id with
  | some c, some r =>
    if cPuts c ≤ c.puts then
      releaseParts r (delRun id (setCtx s id
        { c with puts := c.puts - cPuts c, runs := (c.runs + 1) % 2 ^ 32, landed := [] }))
    else s
  | _, _ => s

/-- The devices that a run sends to. -/
def runPeers (c : Ctx) : List Nat :=
  let m := cMembers c
  let k := m - 2
  let data := match cKind c with
    | 2 | 3 => if m = 1 then [] else [succOf c]
    | 6 => if cMode c = 0 then (if cSelf c < k then [k, k + 1] else []) else (lostOf c).filter (fun i => decide (i ≠ cSelf c))
    | _ => []
  let stats := if cKind c = 2 && cStats c && decide (cSelf c + 1 = m) then List.range (m - 1) else []
  data ++ stats ++ (List.range (roundsOf m)).map (fun r => (cSelf c + 2 ^ r) % m)

/-- Whether the sources of a run, or its landing region, reach a stack in self-refresh (R301). -/
def runSleeps (s : State) (c : Ctx) : Bool :=
  let sleeps := fun (a n : Nat) => inSelfRefresh s (sectorsOf a (64 * n))
  match cKind c with
  | 2 => (decide (cSrcTier c = 2) && sleeps (cSrc c) (cLines c)) || (landsHbm c && sleeps (cDst c) (outLines s c))
  | 3 => sleeps (cSrc c) (cLines c / cMembers c) || (landsHbm c && sleeps (cDst c) (cLines c))
  | 6 => sleeps (if cSelf c + 2 < cMembers c then cSrc c else cDst c) (cLines c)
  | _ => false

/-- A run whose parts have all joined and whose sources are free starts (R327, R409). -/
def startRun (id : Nat) (s : State) : State :=
  match ctxOf s id, runOf s id with
  | some c, some r =>
    if (runPeers c).any (fun m => !(permitted s (ctxDie id) (cMember c m))) then raiseOn id 5 s
    else if runSleeps s c then s
    else match cKind c with
    | 2 => if cSrcTier c = 0 && !(unmarked s (partCores s r) (cSrc c) (cLines c)) then s else startReduce id c r s
    | 3 => startGather id c r s
    | 4 => setRun { r with st := 2 } s
    | 6 => startStripe id c r s
    | _ => s
  | _, _ => s

/-- One step of a run. -/
def runStep (id : Nat) (s : State) : State :=
  match ctxOf s id, runOf s id with
  | some c, some r =>
    if cKind c = 1 then finishReceive id s
    else match r.st with
    | 0 => if r.parts.length = cParts c ∧ s.pwr.sagStage < 5 then startRun id s else s
    | 1 =>
      let s := passStats id s
      match runOf s id with
      | some r =>
        if r.st = 1 ∧ r.left = 0 ∧ (r.stats = 0 ∨ r.stats = 3) ∧ allAcked s id then setRun { r with st := 2 } s else s
      | none => s
    | 2 =>
      let s := goRounds 16 id (decide (cKind c ≠ 4)) s
      match runOf s id with
      | some r => if r.st = 2 ∧ r.round = roundsOf (cMembers c) then finishRun id s else s
      | none => s
    | _ => s
  | _, _ => s

/-! ### FPUT (R418) -/

/-- The lines of an FPUT: offsets in the region, bytes and tags, or the read that fails. -/
def putReads (s : State) (cl : Nat) (u : UIns) : List (Nat × ReadRes) :=
  (maskLanes u.mask).filterMap (fun l => (laneCore (clOf s cl) cl l).map (fun k =>
    ((u.b.toNat + l * u.c.toNat) / 64, readSpad s k u.a.toNat (u.c.toNat / 64))))

/-- Whether an FPUT that lands in this package's own HBM reaches a stack in self-refresh (R301). -/
def putSleeps (s : State) (u : UIns) (c : Ctx) : Bool :=
  decide (cMember c 0 = ownGid s) && landsHbm c
    && inSelfRefresh s (((maskLanes u.mask).map (fun l => sectorsOf (cDst c + u.b.toNat + l * u.c.toNat) u.c.toNat)).flatten)

/-- Whether an FPUT's sources carry no write mark (R327). -/
def putReady (s : State) (cl : Nat) (u : UIns) : Bool :=
  unmarked s ((maskLanes u.mask).filterMap (fun l => laneCore (clOf s cl) cl l)) u.a.toNat (u.c.toNat / 64)

/-- A line of an FPUT lands, and is noted for what an abort of the receive does to it (R434). -/
def landPut (id o : Nat) (l : List Byte × Nat) (s : State) : State :=
  match ctxOf s id with
  | some c => setCtx (landLine c (runVer s c) o l s) id { c with landed := c.landed ++ [o] }
  | none => s

/-- An FPUT starts; it keeps its entry in the queue until its first cell is sent (R596). One whose source fails is cut
by its trap (R142). -/
def startPut (cl : Nat) (u : UIns) (id : Nat) (c : Ctx) (s : State) : State :=
  let rs := putReads s cl u
  let dst := cMember c 0
  match rs.find? (fun x => !isLines x.2) with
  | some (_, .spad core line) => laneCut cl u.iid 8 (spadError core line (fabricTrap cl u.iid line 0) (freeFab cl u.iid s))
  | some _ => s
  | none =>
    let d := photOf s (ctxDie id)
    let s := setPhot s (ctxDie id) { d with puts := d.puts ++ [{ ctx := id, cl := cl, iid := u.iid, seqs := [], ended := false }] }
    if dst ≠ ownGid s && !(permitted s (ctxDie id) dst) then raiseOn id 5 s
    else
      let ls := (rs.map (fun x => (linesIn x.2).zipIdx.map (fun l => (x.1 + l.2, l.1.1, l.1.2)))).flatten
      if dst = ownGid s then ls.foldl (fun s l => landPut id l.1 l.2 s) (freeFab cl u.iid s)
      else pushLines id dst (some u.iid) ls s

/-- A PUT_END counts towards the next receive (R419). -/
def countPut (id : Nat) (s : State) : State :=
  match ctxOf s id with
  | some c => setCtx s id { c with puts := c.puts + 1 }
  | none => s

/-- An FPUT goes on: PUT_END when all is acknowledged, its release when PUT_END is (R418). -/
def putStep (d : Nat) (p : FPut) (s : State) : State :=
  match (photOf s d).puts.find? (fun q => q.ctx = p.ctx ∧ q.iid = p.iid), ctxOf s p.ctx with
  | some p, some c =>
    if p.seqs ≠ [] || (photOf s d).wait.any (fun x => decide (x.ctx = p.ctx ∧ x.put = some p.iid)) then s
    else
      let dst := cMember c 0
      let drop := fun (s : State) => setPhot s d { photOf s d with
        puts := (photOf s d).puts.filter (fun q => !(decide (q.ctx = p.ctx ∧ q.iid = p.iid))) }
      if p.ended then laneDone p.cl p.iid 8 (drop s)
      else
        let s := freeFab p.cl p.iid (setCtx s p.ctx { c with putsSent := c.putsSent + 1 })
        if dst = ownGid s then laneDone p.cl p.iid 8 (drop (countPut p.ctx s))
        else
          let s := setPhot s d { photOf s d with puts := (photOf s d).puts.map (fun x =>
            if x.ctx = p.ctx ∧ x.iid = p.iid then { x with ended := true } else x) }
          sendLineFor (some p.iid) p.ctx dst ([1, 0, 0, 0] ++ leBytes 4 (c.putsSent + 1)) s
  | _, _ => s

/-! ### The fabric queues -/

/-- A new run (R409). -/
def newRun (s : State) (id : Nat) (c : Ctx) (cl : Nat) (u : UIns) : FRun where
  ctx := id
  parts := [(cl, u.iid, u.mask)]
  st := 0
  ver := runVer s c
  epoch := u.epoch
  sums := []
  left := 0
  landed := []
  win := 0
  folding := false
  fold := []
  shards := []
  q := 0
  zPart := []
  stats := 0
  chainIn := none
  round := 0
  sentRound := 0
  early := []

/-- The front of a cluster's fabric queue leaves it. -/
def popFab (cl : Nat) (s : State) : State := setCl s cl { clOf s cl with fabQ := (clOf s cl).fabQ.tail }

/-- The front of a cluster's fabric queue is taken up, when it may be (R97, R409, R412, R437). -/
def fabFront (cl : Nat) (s : State) : State :=
  match (clOf s cl).fabQ with
  | [] => s
  | u :: _ =>
    let id := iI0 u.word
    match ctxOf s id with
    | none => cutFabric cl u.iid (popFab cl s)
    | some c =>
      if iOp u.word = 4 then laneDone cl u.iid 8 (raiseOn id 2 (popFab cl s))
      else if c.quiet ∨ 5 ≤ s.pwr.sagStage then s
      else if iOp u.word = 1 then
        if (photOf s (ctxDie id)).puts.any (fun p => decide (p.ctx = id ∧ p.iid = u.iid)) then s
        else if cKind c ≠ 1 then cutFabric cl u.iid (popFab cl s)
        else if putReady s cl u && !(putSleeps s u c) then startPut cl u id c s else s
      else match runOf s id with
        | some r =>
          if r.st = 0 ∧ r.parts.length < cParts c ∧ cKind c ≠ 1 ∧ r.parts.all (fun p => decide (p.1 ≠ cl)) then
            popFab cl (setRun { r with parts := r.parts ++ [(cl, u.iid, u.mask)] } s)
          else s
        | none =>
          let d := photOf s (ctxDie id)
          if d.runs.length < 512 then
            let s := setPhot s (ctxDie id) { d with runs := d.runs ++ [newRun s id c cl u] }
            grantRun id c (popFab cl s)
          else s

/-- Whether a context has a run or an FPUT in progress. -/
def ctxBusy (s : State) (id : Nat) : Bool :=
  (photOf s (ctxDie id)).runs.any (fun r => r.ctx = id) || (photOf s (ctxDie id)).puts.any (fun p => p.ctx = id)

/-- A context is replaced, and its counts with it (R407), but not its quiet period (R437); the landing region of a PUT context
is granted to its other members. KIND 0 leaves it not loaded. -/
def placeCtx (id : Nat) (w : List W32) (s : State) : State :=
  let c := { Ctx.fresh w with quiet := ((ctxOf s id).map (fun c => c.quiet)).getD false }
  let d := photOf s (ctxDie id)
  if cKind c = 0 then setPhot s (ctxDie id) { d with ctx := d.ctx.del id }
  else
    let s := setCtx s id c
    if cKind c = 1 ∧ cSelf c = 0 then
      ((List.range (cMembers c)).filter (fun m => decide (m ≠ 0))).foldl (fun s m => grant (cMember c m) id (cLines c) s) s
    else s

/-- The contexts of a FLOW_LOAD that have no run in progress any more are replaced, and the last one completes the
command (R407). -/
def flowGo (s : State) : State :=
  s.cmds.foldl (fun s c => match c.work with
    | .flow todo =>
      let now := todo.filter (fun x => !(ctxBusy s x.1))
      let left := todo.filter (fun x => ctxBusy s x.1)
      let s := now.foldl (fun s x => placeCtx x.1 x.2 s) s
      if left = [] then completeCmd c.no .done s else setWork c.no (.flow left) s
    | _ => s) s

/-- One pass over the fabric engines. -/
def fabPass (s : State) : State :=
  let s := (List.range 32).foldl (fun s cl => fabFront cl s) s
  let s := [5, 6].foldl (fun s d => giveWindows d ((photOf s d).runs.foldl (fun s r => runStep r.ctx s) s)) s
  let s := [5, 6].foldl (fun s d => (photOf s d).puts.foldl (fun s p => putStep d p s) s) s
  flowGo ([5, 6].foldl (fun s d => flushData d s) s)

/-- The fabric engines after a change: passes until nothing more can follow. -/
def fabGo (s : State) : State :=
  let n := ((List.range 32).map (fun cl => (clOf s cl).fabQ.length)).sum
    + ([5, 6].map (fun d => (photOf s d).runs.length + (photOf s d).puts.length)).sum + s.cmds.length
  (List.range (3 * n + 1)).foldl (fun s _ => fabPass s) s

/-! ### Fabric instructions (R131, R412, R588) -/

/-- The kind that an opcode needs (R412). -/
def kindFits (op kind : Nat) : Bool :=
  match op with
  | 1 => kind = 1
  | 2 => kind = 1 || kind = 2 || kind = 3 || kind = 6
  | 3 => kind = 4
  | _ => true

/-- FLOW_BUSY of R412. -/
def flowBusy (s : State) (op id cl : Nat) (c : Ctx) : Bool :=
  (op = 2 || op = 3) && (match runOf s id with
    | some r => decide (r.st < 3) && (decide (cKind c = 1 ∨ r.st ≠ 0 ∨ cParts c ≤ r.parts.length) || r.parts.any (fun p => p.1 = cl))
    | none => false)

/-- Whether the layout epoch makes a context stale: another epoch, or a fence that lets no new run begin (R131, R438). -/
def flowStale (s : State) (op id : Nat) (c : Ctx) : Bool :=
  decide (cEpoch c ≠ s.mer.epoch) || (s.mer.rebl.isSome && (op = 2 || op = 3) && (runOf s id).isNone)

/-- Whether KIND_IN or KIND_OUT of a REDUCE context has no usable entry (R412). -/
def kindMissing (s : State) (c : Ctx) : Bool :=
  decide (cKind c = 2) && [cKindIn c, cKindOut c].any (fun k => match kindFmt s k with
    | some f => f.code == 0
    | none => true)

/-- The checks of a fabric instruction in the order of R588. -/
def fabChecks (s : State) (cl : Nat) (w : W128) : List (Bool × Nat) :=
  let c := clOf s cl
  let op := iOp w
  let id := iI0 w
  let sa := (sreg c (iSA w)).toNat
  let sb := (sreg c (iSB w)).toNat
  let sc := (sreg c (iSC w)).toNat
  let lanes := maskLanes (effMask c w)
  let fs := bCommon w ++ [(32, 16)] ++ (if op = 1 then [(90, 6), (84, 6), (78, 6)] else [])
  [(tokBusy s cl w, 0x46),
   (!(onlyFields w fs) || wengBad w || decide (40959 < id)
     || (decide (op = 1) && decide (sc % 64 ≠ 0 ∨ sc < 64 ∨ 0x400000 < sc ∨ sb % 64 ≠ 0)), 0x42),
   (decide (op = 1) && decide (lanes ≠ []) && spadRangeBad sa sc, 0x47)]
  ++ (match ctxOf s id with
    | none => [(true, 0x4A)]
    | some x =>
      [(flowStale s op id x, 0x4C), (!(kindFits op (cKind x)), 0x42), (flowBusy s op id cl x, 0x4B),
       (decide (op = 2) && kindMissing s x, 0x4E),
       (decide (op = 2 ∧ cKind x = 2) && (runOf s id).isNone && decide (elemsOf s x % (64 * cMembers x) ≠ 0), 0x42),
       (decide (op = 1) && lanes.any (fun l => decide (64 * cLines x < sb + l * sc + sc)), 0x47)])

/-- A fabric instruction at issue (R97, R120, R121, R131). -/
def fabIns (op : Nat) (cl : Nat) (s : State) : State :=
  if atIns s cl 6 op then
    let c := clOf s cl
    let w := curWord c
    issueWith cl w (fabChecks s cl w) (fun s =>
      if effMask c w = 0 then goNext cl (if iTV w then postTok (cluTok cl (iTok w)) .done (armTV cl w s) else s)
      else if !(waitsMet s cl w (effMask c w)) || decide (8 ≤ c.fabQ.length) then hold cl 4 [] s
      else fabGo (issueU cl w false
        (fun c => { c with fabQ := c.fabQ ++ [mkU s cl w (effMask c w) s.mer.epoch] }) s)) s
  else s

def effFput (cl : Nat) (s : State) : State := fabIns 1 cl s
def effFcoll (cl : Nat) (s : State) : State := fabIns 2 cl s
def effFbar (cl : Nat) (s : State) : State := fabIns 3 cl s
def effFabort (cl : Nat) (s : State) : State := fabIns 4 cl s

/-- SRD with the current layout epoch. -/
def effSrd (cl : Nat) (mm : Bool) (s : State) : State := seqIns 0 0x18 (srdAct s.mer.epoch) cl mm s

end Sys2Proof.Machine
end

