-- ==== Sys2Proof/Machine/Links.lean ====
section
/-! DEFINITION. Links: what the optical links send, the address schedule, leases, calibration, failures and eye safety
(chapter 10). -/

namespace Sys2Proof.Machine

/-! ### Cells as bytes (R353, R354) -/

/-- One byte step of CRC-24 (R354). -/
def crc24Byte (c : Nat) (b : Byte) : Nat :=
  (List.range 8).foldl (fun c _ =>
    let x := 2 * c
    if 0x1000000 ≤ x then Nat.xor (x % 0x1000000) 0x864CFB else x) (Nat.xor c (b.toNat * 65536))

def crc24 (bs : List Byte) : Nat := bs.foldl crc24Byte 0xFFFFFF

/-- Header bytes 0-12 of a cell (Table 10.2). -/
def cellHead (c : Cell) : List Byte :=
  leBytes 13 (at_ c.src 0 10 + at_ c.dst 10 10 + at_ c.plane 20 6 + at_ c.typ 26 4 + at_ c.epoch 30 8 + at_ c.flow 38 16
    + at_ c.seq 54 12 + at_ c.off 66 24 + at_ (c.lines.length - 1) 90 2
    + ((List.range 4).map (fun i => at_ (c.tags.getD i 0) (92 + 3 * i) 3)).sum)

/-- A cell's header and payload lines. -/
def cellBytes (c : Cell) : List Byte :=
  cellHead c ++ leBytes 3 (crc24 (cellHead c ++ c.lines.flatten)) ++ c.lines.flatten

/-- The data field of period `n` of link `p`: header, a payload of 256 bytes, of which those beyond the cell's lines are
free, and the return field of a leased block (R351). -/
def dataField (p n : Nat) (c : Cell) (tail : List Byte) : List Byte :=
  cellBytes c ++ (List.range (256 - 64 * c.lines.length)).map (Config.padByte p n) ++ tail

/-! ### Routes (R390, R393) -/

def domainOf (gid : Nat) : Nat := gid / 64
def ownDomain (s : State) (gid : Nat) : Bool := decide (domainOf gid = s.boot.domain)

/-- The device that a cell for `gid` is handed to next, by the table of photonic die `d`. -/
def nextHop (s : State) (d gid : Nat) : Nat :=
  let e := routeOf s d gid
  if !(ownDomain s gid) && fld e 1 2 = 2 then 64 * s.boot.domain + fld e 10 6 else gid

/-- Whether some link of a logical port is joined. -/
def portJoined (s : State) (lport : Nat) : Bool :=
  (List.range 64).any (fun p => let k := linkOf s p; decide (k.state = 3 ∧ k.lport = lport) && !k.parked)

/-- Whether a cell goes on address lanes, by the table of photonic die `d` (R367, R390, R430). -/
def byAddress (s : State) (d : Nat) (c : Cell) : Bool :=
  let h := nextHop s d c.dst
  let e := routeOf s d h
  ownDomain s h
  && (decide (c.typ ≠ 1 ∨ fld e 1 2 = 0) || (bit e 3 && !(portJoined s (fld e 4 6))))

/-- Whether a joined link aims at a device (R382). -/
def aimedAt (s : State) (gid : Nat) : Bool :=
  (List.range 64).any (fun p => let k := linkOf s p; decide (k.state = 3 ∧ k.txGid = gid ∧ k.ending = none) && k.txEn && k.txLock)

/-! ### Sending -/

/-- The 1,023 newest periods of a link's history (R383). -/
def keepHist (now : Nat) (h : List (Nat × Cell)) : List (Nat × Cell) := h.filter (fun x => decide (now < x.1 + 1023))

/-- A period of a link carries a cell; `tail` is its return field. -/
def sendOn (p : Nat) (c : Cell) (tail : List Byte) (s : State) : State :=
  let c := { c with plane := p }
  let k := linkOf s p
  let n := k.period + 1
  let old := keepHist n k.hist
  let s := setLink s p { k with period := n, hist := if c.typ = 1 ∨ c.typ = 3 ∨ c.typ = 4 then (n, c) :: old else old }
  let s := if c.typ = 1 ∧ c.src = ownGid s then { s with mer := { s.mer with sent := s.mer.sent ++ [⟨c, p⟩] } } else s
  emit (.period p (periodSyms (!tail.isEmpty) (dataField p n c tail))) s

/-- An IDLE cell to a device; its payload, which is ignored, is free (Table 10.3). -/
def idleCell (s : State) (p dst : Nat) : Cell :=
  { src := ownGid s, dst := dst, plane := 0, typ := 0, epoch := 0, flow := 0, seq := 0, off := 0
    lines := [(List.range 64).map (fun i => Config.padByte p ((linkOf s p).period + 1) (256 + i))], tags := [0] }

/-- A queued cell leaves the queue. -/
def takeTx (t : TxCell) (s : State) : State := { s with mer := { s.mer with tx := s.mer.tx.erase t } }

/-! ### The address schedule (R364-R370) -/

/-- Address planes: 8, or 16 under the count 16. -/
def planeCount (s : State) : Nat := if s.mer.planes16 then 16 else 8
def planeOut (s : State) (p : Nat) : Bool := decide (s.mer.addrOut / 2 ^ p % 2 = 1)

/-- The offset that plane `p` carries in the present slot (R365, R370); none while it is out. -/
def slotOffset (s : State) (p : Nat) : Option Nat :=
  let t := s.mer.slot % 8
  let q := (p + 7) % 8
  if planeOut s p then none
  else if !s.mer.planes16 && planeOut s q && decide (s.mer.slot / 8 % 2 = 1) then some ((t + 8 * q) % 64)
  else some ((t + 8 * p) % 64)

/-- DATA cells that hold a standing credit of a peer's photonic die (R368). -/
def standing (s : State) (par gid : Nat) : Nat :=
  (s.mer.sent.filter (fun x => decide (x.link < planeCount s ∧ x.link % 2 = par) && decide (nextHop s (linkDie x.link) x.cell.dst = gid))).length

/-- A RETURN cell with the entries owed to the devices reached through `gid`, when no joined link aims at them (R356,
R382). -/
def returnCell (s : State) (d gid : Nat) : Option (Cell × List (Nat × W64)) :=
  match s.mer.rets.find? (fun r => decide (nextHop s d r.1 = gid) && !(aimedAt s r.1)) with
  | none => none
  | some r =>
    let es := (s.mer.rets.filter (fun x => decide (x.1 = r.1))).take 31
    some (controlCell s r.1 1 ((es.map (fun e => leBytes 8 e.2.toNat)).flatten), es)

/-- Return entries leave the list of those owed. -/
def dropRets (es : List (Nat × W64)) (s : State) : State :=
  { s with mer := { s.mer with rets := es.foldl (fun l e => l.erase e) s.mer.rets } }

/-- Whether plane `p` may carry a queued cell: a copy of an ADDR_SET goes in the first half of a super-frame, and under the
count 16 on its own half of the planes while that plane is in service (R369). -/
def halfOk (s : State) (p : Nat) (t : TxCell) : Bool :=
  match t.half with
  | none => true
  | some h => decide (s.mer.slot < 512) && (!s.mer.planes16 || decide (p / 8 = h) || planeOut s ((p + 8) % 16))

/-- The cell that address plane `p` sends to a device, by class (R367). -/
def slotCell (s : State) (p gid : Nat) : Option TxCell :=
  let d := linkDie p
  let ok := fun (t : TxCell) => decide (nextHop s d t.cell.dst = gid) && byAddress s d t.cell && halfOk s p t
    && (decide (t.cell.typ ≠ 1) || decide (standing s (p % 2) gid < 16))
  ((List.range 6).filterMap (fun k => s.mer.tx.find? (fun t => decide (t.cls = k) && ok t))).head?

/-- One address plane's slot (R367): nothing goes to a package on a plane that is not confirmed or is muted toward it
(R369, R399). -/
def sendSlot (p : Nat) (s : State) : State :=
  if (linkOf s p).state ≠ 1 || !(linkOf s p).txLock then s else
  match slotOffset s p with
  | none => s
  | some 0 =>
    let (bs, s) := drawBytes 64 s
    sendOn p { idleCell s p (ownGid s) with typ := 5, lines := [bs] } [] s
  | some k =>
    let dev := (s.boot.device + k) % 64
    let gid := 64 * s.boot.domain + dev
    if s.mer.muted.contains (p, dev) || s.mer.unsure then s
    else match slotCell s p gid, returnCell s (linkDie p) gid with
      | some t, r =>
        if t.cls = 5 ∧ r.isSome then
          match r with
          | some (c, es) => sendOn p c [] (dropRets es s)
          | none => s
        else sendOn p t.cell [] (takeTx t s)
      | none, some (c, es) => sendOn p c [] (dropRets es s)
      | none, none => sendOn p (idleCell s p gid) [] s

/-- ADDRESS_SLOT (R364-R368): every address plane in service sends one cell. -/
def effAddressSlot (s : State) : State :=
  if !s.mer.phaseLock then s
  else
    let s := { s with mer := { s.mer with slot := (s.mer.slot + 1) % 1024 } }
    (List.range (planeCount s)).foldl (fun s p => sendSlot p s) s

/-- The peer that a link's transmitter aims at: the old one until the old lease has ended (R377). -/
def aim (k : Link) : Option Nat := if k.ending.isSome then k.ending else if k.txEn then some k.txGid else none

/-- Whether a joined link may carry a queued cell: its route names the link's logical port (R390), and a cell that this
link has lost goes on another joined link of the port when there is one (R383). -/
def portTakes (s : State) (p : Nat) (t : TxCell) : Bool :=
  let d := linkDie p
  let k := linkOf s p
  let h := nextHop s d t.cell.dst
  !(byAddress s d t.cell) && decide (fld (routeOf s d h) 1 2 = 1 ∧ fld (routeOf s d h) 4 6 = k.lport)
  && !(decide (t.avoid = some p) && (List.range 64).any (fun q => let j := linkOf s q
        decide (q ≠ p ∧ j.state = 3 ∧ j.lport = k.lport) && !j.parked))

/-- LEASED_BLOCK (R356, R379, R380, R396): the next cell of the link's logical port, and up to six return entries; a gated
link sends no light (R363). -/
def effLeasedBlock (p : Nat) (s : State) : State :=
  let k := linkOf s p
  if 64 ≤ p ∨ !(k.txEn || k.rxEn || k.ending.isSome) ∨ (k.state ≠ 2 ∧ k.state ≠ 3 ∧ k.state ≠ 9) ∨ !k.txLock then s
  else
    let es := (s.mer.rets.filter (fun x => decide (some x.1 = aim k))).take 6
    let tail := (es.map (fun e => leBytes 8 e.2.toNat)).flatten ++ List.replicate (48 - 8 * es.length) 0
    let s := dropRets es s
    let ok := decide (k.state = 3 ∧ k.ending = none ∧ k.idleUntil.toNat ≤ s.aoCount.toNat) && !k.parked
    match (if ok then s.mer.tx.find? (portTakes s p) else none) with
    | some t => sendOn p t.cell tail (takeTx t s)
    | none => sendOn p (idleCell s p ((aim k).getD (ownGid s))) tail s

/-! ### Withdrawal and failure (R383, R386, R387) -/

/-- The unacknowledged cells of a link are sent again (R383). -/
def withdraw (p : Nat) (s : State) : State :=
  let mine := s.mer.sent.filter (fun x => decide (x.link = p))
  { s with mer := { s.mer with
      sent := s.mer.sent.filter (fun x => decide (x.link ≠ p)), tx := mine.map (fun x => .plain 5 x.cell) ++ s.mer.tx } }

def unitLink (p : Nat) : W32 := unitDie (linkDie p) 7 p

/-- A record of a link (R402). -/
def linkRec (p cls out peer : Nat) (s : State) : State :=
  record { unit := unitLink p, cls := cls, outcome := out, d1 := BitVec.ofNat 32 p, d2 := BitVec.ofNat 32 peer } s

/-- The peer that a link's record names: the device it aims at, or the one it hears. -/
def peerOf (k : Link) : Nat := if k.txEn then k.txGid else if k.rxEn then k.rxGid else 0xFFFF

/-- The state that a link of no lease returns to. -/
def restState (s : State) (p : Nat) : Nat := if p < planeCount s then 1 else 9

/-- Whether a link is an address link. -/
def isAddr (s : State) (p : Nat) : Bool := decide (p < planeCount s)

/-- ADDR_SET goes twice to every package of the domain, on two planes where the schedule has two, and takes effect here
with them at the next boundary (R369). A calibration is not ordered while another plane is out (R397). -/
def sendAddrSet (s : State) : State :=
  let cal := if s.mer.reports = [] then s.mer.calPlane else 0xFF
  let mask := (s.mer.reports.map (fun p => 2 ^ p)).sum + (if cal < 16 then 2 ^ cal else 0)
  let body := leBytes 2 mask ++ [BitVec.ofNat 8 cal, BitVec.ofNat 8 (planeCount s)]
  let s := { s with mer := { s.mer with addrNext := some mask, calPlane := cal, setDue := false } }
  ((List.range 64).filter (fun i => decide (i ≠ s.boot.device))).foldl (fun s i =>
    [0, 1].foldl (fun s h => queueTx { TxCell.plain 2 (controlCell s (64 * s.boot.domain + i) 0x09 body) with half := some h } s) s) s

/-- A plane is reported down or up to the coordinator, whose next ADDR_SET says so (R369, R387). -/
def takeReport (p : Nat) (up : Bool) (s : State) : State :=
  let r := s.mer.reports.filter (fun q => decide (q ≠ p))
  { s with mer := { s.mer with reports := if up then r else p :: r, setDue := true } }

/-- The calibration of an address plane is over at this package, however it ends; the coordinator's next ADDR_SET restores
the plane (R397). -/
def endPlaneCal (p : Nat) (s : State) : State :=
  if p = s.mer.calPlane then
    { s with mer := { s.mer with calPlane := 0xFF, calWait := false, setDue := s.mer.setDue || s.mer.coordinator } }
  else s

def reportPlane (p : Nat) (up : Bool) (s : State) : State :=
  if s.mer.coordinator then takeReport p up s
  else sendControl (64 * s.boot.domain + s.mer.coordId) 0x08 ([0, 0, 0, 0, BitVec.ofNat 8 p, BitVec.ofNat 8 (b2n up)]) s

/-- A PEER recovery moves to the next holder (R447). -/
def nextHolder (d i : Nat) (s : State) : State :=
  match entryOf s d i with
  | some e => if e.recov = 1 then ledgerGo (askPeer 65 d { e with holder := e.holder + 1 } s) else s
  | none => s

/-- The entries whose PEER recovery has asked a device through a context. -/
def fetchesOf (s : State) (id gid : Nat) : List (Nat × Nat) :=
  match ctxOf s id with
  | none => []
  | some c => ((List.range 4).map (fun d => ((dieOf s d).ledger.filter (fun e =>
      decide (e.recov = 1 ∧ dArg e.desc = id ∧ cMember c e.holder = gid))).map (fun e => (d, e.idx)))).flatten

/-- What a failed link does to the flow of a cell that it had taken (R387, R432, R447). -/
def flowFails (f : Nat × Nat) (s : State) : State :=
  match ctxOf s f.1 with
  | some c =>
    if cKind c = 7 then (fetchesOf s f.1 f.2).foldl (fun s x => nextHolder x.1 x.2 s) s else raiseOn f.1 1 s
  | none => s

/-! ### Lines and lease messages (R374, R377) -/

/-- The package's router port on a plane (R374). -/
def ownPort (s : State) (p : Nat) : Nat := if (linkOf s p).cabNow = 1 then (linkOf s p).gwNow else s.boot.device

/-- The lines of a link's entry: line 0 where it has none (R374, R380). -/
def txLineOf (s : State) (p : Nat) : Nat := let k := linkOf s p; if k.txEn then (k.txPort + 64 - ownPort s p) % 64 else 0
def rxLineOf (s : State) (p : Nat) : Nat := let k := linkOf s p; if k.rxEn then (ownPort s p + 64 - k.rxPort) % 64 else 0

/-- A LEASE_ message's body (Table 10.5). -/
def leaseBody (s : State) (p line extra : Nat) : List Byte :=
  leBytes 4 s.mer.planId.toNat ++ [BitVec.ofNat 8 p, BitVec.ofNat 8 line, BitVec.ofNat 8 extra]

/-- LEASE_END of an old lease goes to its peer (R377, step 1). -/
def sendEnd (p : Nat) (s : State) : State :=
  let k := linkOf s p
  match k.ending with
  | some g => setLink (sendControl g 5 ((leaseBody s p 0 0).take 5) s) p { k with ending := none }
  | none => s

/-- A link fails: it leaves its port, its cells are not resent, its collectives abort (R386, R387). A lease that was ending
has then ended, and the selectors take the lines of the entry in force when the link is calibrated. -/
def failLink (p cond peer : Nat) (s : State) : State :=
  let flows := ((s.mer.sent.filter (fun x => decide (x.link = p))).map (fun x => (x.cell.flow, x.cell.dst))).eraseDups
  let s := sendEnd p { s with mer := { s.mer with sent := s.mer.sent.filter (fun x => decide (x.link ≠ p)) } }
  let k := linkOf s p
  let addr := isAddr s p
  let s := setLink s p { k with
    state := 10, failures := satInc 0xFF k.failures, los := if cond = 1 then satInc 0xFFFF k.los else k.los, txLock := false
    rxLock := false, txSettling := false, rxSettling := false, rxHold := none, parked := false
    txLine := if addr then k.txLine else txLineOf s p, rxLine := if addr then k.rxLine else rxLineOf s p
    back := if k.txEn then 2 else restState s p }
  let s := linkRec p 0x0401 cond peer s
  let s := endPlaneCal p (flows.foldl (fun s f => flowFails f s) s)
  if isAddr s p then reportPlane p false s else s

/-! ### Leases (R373-R381) -/

/-- An offer goes to the device that a link aims at (R377, step 3). -/
def sendOffer (p : Nat) (s : State) : State :=
  let k := linkOf s p
  if k.state = 2 ∧ k.txEn ∧ k.txLock ∧ k.ending = none then sendControl k.txGid 2 (leaseBody s p k.txLine 0) s else s

/-- The local oscillator of a link goes to its new line (R374, R377, step 4). -/
def retuneRx (p : Nat) (s : State) : State :=
  let k := linkOf s p
  setLink s p { k with
    rxHold := none, rxSettling := k.rxEn, rxLock := false, clean := false, rxEnded := false, rxLine := rxLineOf s p }

/-- The transmit selector of a link goes to its new line (R374, R377, step 2). -/
def retuneTx (p : Nat) (s : State) : State :=
  let k := linkOf s p
  setLink s p { k with txSettling := true, txLock := false, txLine := txLineOf s p }

/-- The end of an old lease, when every cell sent on the link is acknowledged (R377, steps 1 and 2). -/
def endOld (p : Nat) (s : State) : State :=
  if (linkOf s p).ending.isSome ∧ s.mer.sent.all (fun x => decide (x.link ≠ p)) then retuneTx p (sendEnd p s) else s

def endOlds (s : State) : State := (List.range 64).foldl (fun s p => endOld p s) s

/-- Stage 4 of a supply sag: each logical port keeps its joined link on the lowest plane (Table 14.4). -/
def parkPorts (s : State) : State :=
  (List.range 64).foldl (fun s p =>
    let k := linkOf s p
    if k.state = 3 && !k.parked && (List.range p).any (fun q => let j := linkOf s q; decide (j.state = 3 ∧ j.lport = k.lport) && !j.parked)
    then withdraw p (setLink s p { k with parked := true }) else s) s

/-- The parked links rejoin their ports (R518). -/
def unparkPorts (s : State) : State :=
  (List.range 64).foldl (fun s p => setLink s p { linkOf s p with parked := false }) s

/-- The links that the plan in force leases. -/
def leasedLinks (s : State) : List Nat := (List.range 64).filter (fun p => (linkOf s p).txEn)

/-- Whether every leased link has joined. -/
def allJoined (s : State) : Bool := (leasedLinks s).all (fun p => decide ((linkOf s p).state = 3))

/-- A LEASE_LOAD completes when every changed link has joined, been refused or timed out, and no old lease is still ending
(R378). -/
def leaseGo (s : State) : State :=
  match s.cmds.find? (fun c => match c.work with
    | .lease => true
    | _ => false) with
  | none => s
  | some c =>
    if (List.range 64).any (fun p => let k := linkOf s p; k.changing || k.ending.isSome) then s
    else
      let ok := allJoined s
      let bad := (leasedLinks s).filter (fun p => decide ((linkOf s p).state ≠ 3))
      let s := bad.foldl (fun s p => linkRec p 0x0404 (if (linkOf s p).state = 4 then (linkOf s p).reason else 5) (linkOf s p).txGid s) s
      completeCmd c.no (okTok ok) { s with mer := { s.mer with planState := if ok then 3 else 4 } }

/-- PLAN_STATE after a link has changed outside a LEASE_LOAD. -/
def settlePlan (s : State) : State :=
  if s.mer.planState = 3 ∨ s.mer.planState = 4 then { s with mer := { s.mer with planState := if allJoined s then 3 else 4 } } else s

/-- A link that was withdrawn for a relock goes back to its handshake, or its slots, when both selectors have settled
(R389). -/
def relocked (p : Nat) (s : State) : State :=
  let k := linkOf s p
  if k.state = 8 ∧ !k.txSettling ∧ !k.rxSettling then
    sendOffer p (setLink s p { k with state := if k.txEn then k.back else restState s p })
  else s

/-- RETUNE_SETTLED (R362, R363, R377, R389). -/
def effRetuneSettled (p : Nat) (tx : Bool) (s : State) : State :=
  let k := linkOf s p
  if 64 ≤ p then s
  else if tx then
    if !k.txSettling then s
    else relocked p (sendOffer p (setLink s p { k with txSettling := false, txLock := true }))
  else if k.rxSettling then relocked p (setLink s p { k with rxSettling := false, rxLock := true, clean := true })
  else s

/-- LEASE_OFFER_REPEAT (R377, step 3). -/
def effLeaseOfferRepeat (p : Nat) (s : State) : State := if p < 64 then sendOffer p s else s

/-- LEASE_RX_HOLD_TIMEOUT (R377, step 4). -/
def effLeaseRxHoldTimeout (p : Nat) (s : State) : State := if p < 64 ∧ (linkOf s p).rxHold.isSome then retuneRx p s else s

/-- A link's place in its port is refused or has timed out: state 4, at once or when a calibration, a probe, a relock or a
failure of the link ends (R377). -/
def refuseLink (p reason : Nat) (s : State) : State :=
  let k := linkOf s p
  setLink s p { k with
    reason := reason, changing := false
    state := if k.state = 2 ∨ k.state = 3 then 4 else k.state, back := 4 }

/-- LEASE_TIMEOUT (R377): 1 ms without acceptance, whatever holds the link up. -/
def effLeaseTimeout (p : Nat) (s : State) : State :=
  if p < 64 ∧ (linkOf s p).changing ∧ (s.cmds.any (fun c => c.work = .lease)) then
    leaseGo (settlePlan (refuseLink p 5 (if (linkOf s p).ending.isSome then retuneTx p (sendEnd p s) else s)))
  else s

/-! ### Coordinator and super-frames (R366, R369, R370) -/

/-- The records of planes that go out or come back, and of groups that cannot be reached (R370, Table 10.14). -/
def planeRecs (old new : Nat) (s : State) : State :=
  let outOf := fun (m p : Nat) => decide (m / 2 ^ p % 2 = 1)
  (List.range (planeCount s)).foldl (fun s p =>
    let s := if outOf new p && !(outOf old p) then linkRec p 0x0406 1 0xFFFF s
      else if outOf old p && !(outOf new p) then linkRec p 0x0406 4 0xFFFF s else s
    let r := (p + 1) % 8
    if !s.mer.planes16 && outOf new p && outOf new r && !(outOf old p && outOf old r) then linkRec p 0x0406 2 0xFFFF s else s) s

/-- Whether some link of the package is out for calibration (R395). -/
def calibrating (s : State) : Bool := (List.range 64).any (fun p => decide ((linkOf s p).state = 5))

/-- The link of the address plane that is named for calibration begins it when no other link of the package is out for
calibration (R395, R397). -/
def startPlaneCal (s : State) : State :=
  let p := s.mer.calPlane
  if s.mer.calWait ∧ (linkOf s p).state = 1 ∧ !(calibrating s) then
    setLink { s with mer := { s.mer with calWait := false } } p { linkOf s p with state := 5, back := 1 }
  else s

/-- The mask of an ADDR_SET takes effect. The link of a plane that goes out by it to be calibrated begins that (R369, R397);
with another plane out, or a link that is not in service, the calibration is over for this package. -/
def applyAddrSet (s : State) : State :=
  match s.mer.addrNext with
  | some m =>
    let old := s.mer.addrOut
    let s := planeRecs old m { s with mer := { s.mer with addrOut := m, addrNext := none } }
    let p := s.mer.calPlane
    if p < planeCount s ∧ m / 2 ^ p % 2 = 1 ∧ old / 2 ^ p % 2 = 0 then
      if m ≠ 2 ^ p ∨ (linkOf s p).state ≠ 1 then endPlaneCal p s
      else startPlaneCal { s with mer := { s.mer with calWait := true } }
    else s
  | none => s

/-- The coordinator's cells at a boundary: an ADDR_SET that is due, and every 4 super-frames an ADDR_SET and a BEACON (R366,
R369). -/
def sendBeacons (s : State) : State :=
  let beacon := decide (s.mer.superframe = 0)
  if !s.mer.coordinator then s
  else
    let s := if beacon || s.mer.setDue then sendAddrSet s else s
    if beacon then
      ((List.range 64).filter (fun i => decide (i ≠ s.boot.device))).foldl (fun s i =>
        sendControl (64 * s.boot.domain + i) 0x0B [if s.job.planes16 then 16 else 8] s) s
    else s

/-- SUPERFRAME_BOUNDARY (R359, R364, R366, R369): the mark in the slot reference; the slot that follows is S = 0. -/
def effSuperframeBoundary (s : State) : State :=
  if !s.mer.phaseLock then s
  else sendBeacons (applyAddrSet { s with mer := { s.mer with slot := 1023, superframe := (s.mer.superframe + 1) % 4 } })

/-- A coordinator is chosen (R366, Table 10.14). -/
def setCoordinator (dev : Nat) (s : State) : State :=
  let s := { s with mer := { s.mer with coordinator := decide (dev = s.boot.device), coordId := dev, coordSeen := true } }
  fabricRec 0x0409 dev 0xFFFF s

/-- COORDINATOR_TIMEOUT (R366): `heard` are the packages heard. -/
def effCoordinatorTimeout (heard : List Nat) (s : State) : State :=
  if s.mer.coordinator ∨ !s.mer.phaseLock then s
  else
    let dev := (heard.filter (fun i => decide (i < 64))).foldl min s.boot.device
    let s := setCoordinator dev s
    if dev = s.boot.device then settlePlanes { s with mer := { s.mer with beacon16 := s.job.planes16 } } else s

/-! ### Failures, mislock and calibration (R386-R389, R395-R397) -/

/-- LINK_FAILURE (R386): a condition of Table 10.11, 1-6. -/
def effLinkFailure (p cond peer : Nat) (s : State) : State :=
  let k := linkOf s p
  if p < 64 ∧ 1 ≤ cond ∧ cond ≤ 6 ∧ k.state ≠ 0 ∧ k.state ≠ 10 then fabGo (leaseGo (settlePlan (failLink p cond peer s))) else s

/-- LINK_RETRY (R387): a failed link, and in service one that a start has left down (R526), when no other link is out for
calibration (R395). -/
def effLinkRetry (p : Nat) (s : State) : State :=
  let k := linkOf s p
  if 64 ≤ p ∨ calibrating s then s
  else if k.state = 10 then setLink s p { k with state := 5 }
  else if k.state = 0 ∧ s.boot.ready then setLink s p { k with state := 5, back := restState s p }
  else s

/-- A link is gated: its light is off, and it leaves its port or its slots until it has relocked; an old lease then ends
(R377, R389, R399). A link in calibration is gated when that ends. -/
def gateLink (p : Nat) (s : State) : State :=
  let k := linkOf s p
  if k.state = 5 then setLink s p { k with back := 8 }
  else if k.state = 1 ∨ k.state = 2 ∨ k.state = 3 then
    endOlds (withdraw p (setLink s p { k with state := 8, back := 2, txLock := false, txSettling := true }))
  else s

/-- A mislock is found (R388, R389): 1 transmit, 2 receive, 3 reported by MISROUTE. What a mislocked local oscillator hears
is discarded until it has relocked. -/
def mislock (p how : Nat) (s : State) : State :=
  let k := linkOf s p
  let s := linkRec p 0x0403 how (peerOf k) s
  let s := setLink s p { k with
    mislock := satInc 0xFFFF k.mislock, rxLock := k.rxLock && decide (how ≠ 2), rxSettling := k.rxSettling || decide (how = 2)
    clean := k.clean && decide (how ≠ 2) }
  gateLink p s

/-- MISLOCK_DETECTED (R388). -/
def effMislockDetected (p how : Nat) (s : State) : State :=
  if p < 64 ∧ (how = 1 ∨ how = 2) ∧ (linkOf s p).state ≠ 0 ∧ (linkOf s p).state ≠ 10 then settlePlan (mislock p how s) else s

/-- LEASED_CALIBRATION (R396): the next joined leased link in plane order. -/
def effLeasedCalibration (s : State) : State :=
  if calibrating s then s
  else match ((List.range 64).map (fun i => (s.mer.calLink + 1 + i) % 64)).find? (fun p =>
      decide ((linkOf s p).state = 3) && (photOf s (linkDie p)).calEn) with
    | none => s
    | some p =>
      let k := linkOf s p
      let body := [0, 0, 0, 0, BitVec.ofNat 8 p, 0, 0, 0] ++ leBytes 4 200
      let s := sendControl k.txGid 6 body s
      let s := if k.rxEn ∧ k.rxGid ≠ k.txGid then sendControl k.rxGid 6 body s else s
      withdraw p (setLink { s with mer := { s.mer with calLink := p } } p { k with state := 5, back := 3 })

/-- ADDR_PLANE_CALIBRATION (R397). -/
def effAddrPlaneCalibration (s : State) : State :=
  if s.mer.coordinator ∧ s.mer.addrOut = 0 ∧ s.mer.reports = [] ∧ s.mer.calPlane = 0xFF then
    let p := s.mer.calTurn % planeCount s
    { s with mer := { s.mer with calPlane := p, calTurn := (p + 1) % planeCount s, setDue := true } }
  else s

/-- A link comes out of its calibration in the state that it owes, with its round trip and its back-reflection baseline, a
free measurement, taken (R395); one that was to be gated meanwhile is. -/
def calibrated (p rt : Nat) (s : State) : State :=
  let (v, s) := drawWord s
  let k := linkOf s p
  let k := { k with
    state := k.back, txLock := true, rxLock := true, txSettling := false, rxSettling := false, clean := true
    loopRt := rt % 65536, reflBase := v.toNat % 256 }
  setLink s p (if k.back = 8 then { k with back := 2, txLock := false, txSettling := true } else k)

/-- CALIBRATION_END (R387, R395-R397): the measured loopback round trip; a link that fails its calibration stays failed. -/
def effCalibrationEnd (p : Nat) (ok : Bool) (rt : Nat) (s : State) : State :=
  let k := linkOf s p
  let named := decide (p = s.mer.calPlane)
  if 64 ≤ p ∨ k.state ≠ 5 then s
  else if !ok then
    let s := setLink s p { k with state := 10, back := if k.txEn then 2 else restState s p }
    startPlaneCal (if isAddr s p then reportPlane p false (endPlaneCal p s) else s)
  else
    let s := calibrated p rt s
    let s := if k.back ≠ 3 && k.back ≠ 8 && !named then linkRec p 0x0402 0 (peerOf k) s else s
    let s := if isAddr s p then (if named then endPlaneCal p s else reportPlane p true s) else s
    startPlaneCal (settlePlan (sendOffer p s))

/-! ### Eye safety (R398-R401) -/

/-- SHUTTER_TRIGGER (R398). -/
def effShutterTrigger (p : Nat) (s : State) : State :=
  let k := linkOf s p
  if 64 ≤ p ∨ k.state = 0 ∨ k.state = 6 ∨ k.state = 7 then s
  else
    let s := setLink s p { k with state := 6, shutters := satInc 0xFF k.shutters, back := if k.txEn then 2 else restState s p }
    let s := linkRec p 0x0405 1 (peerOf k) (endPlaneCal p (endOlds (withdraw p s)))
    let body := [0, 0, 0, 0, BitVec.ofNat 8 p]
    let s := if isAddr s p then
        reportPlane p false (if s.mer.coordinator then s else sendControl (64 * s.boot.domain + s.mer.coordId) 7 body s)
      else if k.txEn then sendControl k.txGid 7 body s else s
    leaseGo (settlePlan s)

/-- SILENCE_MUTE (R399). -/
def effSilenceMute (plane dev : Nat) (s : State) : State :=
  if plane < planeCount s ∧ dev < 64 ∧ !(s.mer.muted.contains (plane, dev)) then
    { s with mer := { s.mer with muted := (plane, dev) :: s.mer.muted } } else s

/-- MUTE_RESUME (R400). -/
def effMuteResume (plane dev : Nat) (s : State) : State :=
  { s with mer := { s.mer with muted := s.mer.muted.filter (fun m => decide (m ≠ (plane, dev))) } }

/-- SHUTTER_PROBE (R400). -/
def effShutterProbe (p : Nat) (s : State) : State :=
  if p < 64 ∧ (linkOf s p).state = 6 then setLink s p { linkOf s p with state := 7 } else s

/-- SHUTTER_PROBE_END (R400). -/
def effShutterProbeEnd (p : Nat) (received : Bool) (s : State) : State :=
  let k := linkOf s p
  if 64 ≤ p ∨ k.state ≠ 7 then s
  else if !received then setLink s p { k with state := 6 }
  else
    let s := linkRec p 0x0405 2 (peerOf k) (setLink s p { k with state := k.back, txLock := true, rxLock := true, clean := true })
    settlePlan (sendOffer p (if isAddr s p then reportPlane p true s else s))

def fibreOf (s : State) (f : Nat) : Fibre := s.mer.fibre.get Fibre.reset f
def setFibre (s : State) (f : Nat) (x : Fibre) : State := { s with mer := { s.mer with fibre := s.mer.fibre.put f x } }

/-- The links that a comb fibre feeds (R358). -/
def fibreLinks (f : Nat) : List Nat := upto 64 (fun p => p % 2 = f / 2 && p / 2 / 16 = f % 2)

/-- The SHUTTER record of a comb fibre; no one link is concerned, so D1 is free. -/
def fibreRec (f out : Nat) (s : State) : State :=
  let (v, s) := drawWord s
  record { unit := unitDie (5 + f / 2) 15 0, cls := 0x0405, outcome := out, d1 := v.setWidth 32, d2 := 0xFFFF#32 } s

/-- COMB_FIBRE_DROP (R401); the low power of a probe is no drop. -/
def effCombFibreDrop (f power : Nat) (s : State) : State :=
  let x := fibreOf s f
  if 4 ≤ f ∨ x.enHigh ∨ x.lowLow then s
  else
    let s := fibreRec f 3 (setFibre s f { x with state := 1, enHigh := true, power := power % 256 })
    let ps := (fibreLinks f).filter (fun p => decide ((linkOf s p).state ≠ 0 ∧ (linkOf s p).state ≠ 10))
    fabGo (leaseGo (settlePlan (ps.foldl (fun s p => failLink p 1 (peerOf (linkOf s p)) s) s)))

/-- COMB_PROBE (R361, R401): the first of a pair begins a probe, with LASER_EN_N and LASER_LOW_N low; the second, 2 ms
later, ends it, and with a good tap power full power is restored. -/
def effCombProbe (f : Nat) (good : Bool) (power : Nat) (s : State) : State :=
  let x := fibreOf s f
  if 4 ≤ f ∨ x.state = 0 ∨ s.pwr.shdnHigh = false then s
  else if x.state ≠ 2 then setFibre s f { x with state := 2, enHigh := false, lowLow := true, power := power % 256 }
  else if good then fibreRec f 4 (setFibre s f { x with state := 0, enHigh := false, lowLow := false, power := power % 256 })
  else setFibre s f { x with state := 1, enHigh := true, lowLow := false, power := power % 256 }

/-- COMB_LOCK (R359): the input's level, and whether every line's dither is seen. -/
def effCombLock (high dither : Bool) (s : State) : State :=
  let m := s.mer
  let s := { s with mer := { m with combLock := high, dither := dither } }
  let s := if m.combLock && !high then fabricRec 0x0408 1 0xFFFF s else s
  if m.dither && !dither then fabricRec 0x0408 3 0xFFFF s else s

/-- COMB_ALARM_N (R361). -/
def effCombAlarmN (low : Bool) (s : State) : State :=
  let m := s.mer
  let s := { s with mer := { m with combAlarm := low } }
  if low && !m.combAlarm then fabricRec 0x0408 2 0xFFFF s else s

/-! ### Counters (R355, R386) -/

/-- A host write that takes effect from READY on (R491). -/
def hostWriteReady (f : State → State) (s : State) : State := hostAccess (fun s => if s.boot.ready then f s else s) s

/-- MER_CLEAR_DROP. -/
def effMerClearDrop (d : Nat) (s : State) : State :=
  hostWriteReady (fun s => if d = 5 ∨ d = 6 then
    setPhot s d { photOf s d with dropDst := 0, dropType := 0, dropPermit := 0, dropDup := 0 } else s) s

/-- MER_LINK_ERR of a link cleared. -/
def clearLinkErr (p : Nat) (s : State) : State :=
  setLink s p { linkOf s p with lost := 0, mislock := 0, los := 0, shutters := 0, failures := 0 }

/-- CLEAR_LINKS. -/
def effClearLinks (d : Nat) (s : State) : State :=
  hostWriteReady (fun s => (upto 64 (fun p => linkDie p = d)).foldl (fun s p => clearLinkErr p s) s) s

/-- MER_LINK_CLEAR. -/
def effMerLinkClear (p : Nat) (s : State) : State := hostWriteReady (fun s => if p < 64 then clearLinkErr p s else s) s

end Sys2Proof.Machine
end

