-- ==== Sys2Proof/Machine/Loads.lean ====
section
/-! DEFINITION. Loads: lease plans, slice routing tables and flow contexts (R373-R378, R390, R391, R404-R407), and the
commands that wait for an ephemeris to be taken. -/

namespace Sys2Proof.Machine

/-! ### Lease plans -/

/-- An entry of a plan (Table 10.8). -/
structure PlanEntry where
  txPort : Nat
  txEn : Bool
  txGid : Nat
  lport : Nat
  rxPort : Nat
  rxEn : Bool
  rxGid : Nat
deriving DecidableEq, Repr

/-- Words of a plan: 16 header words, then four for each plane. -/
def planWord (ws : List W32) (p i : Nat) : W32 := ws.getD (16 + 4 * p + i) 0

def planEntry (ws : List W32) (p : Nat) : PlanEntry :=
  let a := planWord ws p 0
  let b := planWord ws p 1
  { txPort := fld a 0 6, txEn := bit a 6, txGid := fld a 8 10, lport := fld a 18 6
    rxPort := fld b 0 6, rxEn := bit b 6, rxGid := fld b 8 10 }

/-- Whether a plane is kept out of leases (R365, R371). -/
def planeAddr (s : State) (p : Nat) : Bool := decide (p < (if s.job.planes16 || s.mer.beacon16 then 16 else 8))

/-- The router port of the package on a plane by its cabling registers (R374). -/
def cabledPort (s : State) (p : Nat) : Nat := if (linkOf s p).cabling = 1 then (linkOf s p).gwPort else s.boot.device

/-- The global ids that an entry names, with their ports. -/
def planEnds (e : PlanEntry) : List (Nat × Nat) :=
  (if e.txEn then [(e.txPort, e.txGid)] else []) ++ (if e.rxEn then [(e.rxPort, e.rxGid)] else [])

/-- Whether a plan breaks rule `r` of Table 10.9; rule 11 is the read's. -/
def planBreaks (s : State) (ws : List W32) (r : Nat) : Bool :=
  let ps := List.range 64
  let on := fun (p : Nat) => let e := planEntry ws p; e.txEn || e.rxEn
  let tx := ps.filter (fun p => (planEntry ws p).txEn)
  match r with
  | 1 => decide (ws.getD 0 0 = 0) || (List.range 15).any (fun i => decide (ws.getD (1 + i) 0 ≠ 0))
      || ps.any (fun p => decide (planWord ws p 0 &&& 0xFF000080#32 ≠ 0 ∨ planWord ws p 1 &&& 0xFFFC0080#32 ≠ 0
           ∨ planWord ws p 2 ≠ 0 ∨ planWord ws p 3 ≠ 0))
  | 2 => ps.any (fun p => planeAddr s p && decide (planWord ws p 0 ≠ 0 ∨ planWord ws p 1 ≠ 0))
  | 3 => ps.any (fun p => (planEnds (planEntry ws p)).any (fun x => decide (x.1 = cabledPort s p)))
  | 4 => ps.any (fun p => decide ((linkOf s p).cabling = 0) && (planEnds (planEntry ws p)).any (fun x =>
           !(ownDomain s x.2) || decide (x.2 % 64 ≠ x.1)))
  | 5 => ps.any (fun p => on p && decide (2 ≤ (linkOf s p).cabling ∨ (linkOf s p).state = 10))
  | 6 => tx.any (fun p => tx.any (fun q =>
           let a := planEntry ws p; let b := planEntry ws q
           decide (a.lport = b.lport) != decide (a.txGid = b.txGid)))
  | 7 => ps.any (fun p => (planEnds (planEntry ws p)).any (fun x => !(permitted s (linkDie p) x.2)))
  | 8 => ps.any (fun p => decide ((linkOf s p).cabling = 1) && (planEnds (planEntry ws p)).any (fun x => ownDomain s x.2))
  | 9 => decide (8 < (ps.filter (fun p => decide ((linkOf s p).cabling = 1))).length)
      || ps.any (fun p => planeAddr s p && decide ((linkOf s p).cabling = 1))
  | 10 => s.cmds.any (fun c => match c.work with
      | .lease | .leaseHeld _ => true
      | _ => false)
  | _ => false

/-- The first rule of Table 10.9 that a plan breaks: a plan with a failing sector breaks rule 11 (R593). -/
def planFault (s : State) (bad : List Nat) (ws : List W32) : Option Nat :=
  if bad ≠ [] then some 11 else (List.range 10).map (fun i => i + 1) |>.find? (planBreaks s ws)

/-- The transmit side of a link takes its new entry (R377, R378). -/
def planTx (p : Nat) (e : PlanEntry) (s : State) : State :=
  let k := linkOf s p
  if k.txEn = e.txEn ∧ k.txPort = e.txPort ∧ k.lport = e.lport then setLink s p { k with txGid := e.txGid }
  else
    let tgt := if e.txEn then 2 else 9
    let k' := { k with
      txEn := e.txEn, txPort := e.txPort, txGid := e.txGid, lport := e.lport, parked := false, changing := e.txEn
      state := if k.state = 5 ∨ k.state = 6 ∨ k.state = 7 ∨ k.state = 8 ∨ k.state = 10 then k.state else tgt
      back := tgt }
    if k.txEn then setLink s p { k' with ending := some (k.ending.getD k.txGid) } else retuneTx p (setLink s p k')

/-- The receive side of a link takes its new entry: the old local oscillator is kept while its source may still send
(R377, step 4). -/
def planRx (p : Nat) (e : PlanEntry) (s : State) : State :=
  let k := linkOf s p
  if k.rxEn = e.rxEn ∧ k.rxPort = e.rxPort ∧ k.rxGid = e.rxGid then s
  else
    let k' := { k with rxEn := e.rxEn, rxPort := e.rxPort, rxGid := e.rxGid }
    if k.rxHold.isSome then setLink s p k'
    else if k.rxEn && !k.rxEnded then setLink s p { k' with rxHold := some k.rxGid } else retuneRx p (setLink s p k')

/-- A checked plan takes force (R375-R378). -/
def beginLease (no : Nat) (ws : List W32) (s : State) : State :=
  let s := setPlanId (ws.getD 0 0) { setWork no .lease s with mer := { s.mer with planState := 2 } }
  let s := (List.range 64).foldl (fun s p => setLink s p { linkOf s p with cabNow := (linkOf s p).cabling, gwNow := (linkOf s p).gwPort }) s
  let ps := (List.range 64).filter (fun p => !(planeAddr s p))
  leaseGo (endOlds (ps.foldl (fun s p => planRx p (planEntry ws p) (planTx p (planEntry ws p) s)) s))

/-- Whether a fence holds back loads (R438). -/
def fenced (s : State) : Bool := s.mer.rebl.isSome

/-- PLAN_INVALID of a LEASE_LOAD (R375): with an address out of range the rules that need no read, 9 and 10, still come
before SOURCE_RANGE (R587). -/
def leaseSkip (w : W512) (bad : List Nat) (ws : List W32) (s : State) : Option Skip :=
  let n := if hbmRangeBad (cw2 w 6) 1088 then [9, 10].find? (planBreaks s []) else planFault s bad ws
  n.map (fun n => { code := 0x0E, detail := n })

/-- What a LEASE_LOAD checks before its plan is read. -/
def leaseSpec : CmdSpec := { range := fun w _ => hbmRangeBad (cw2 w 6) 1088 }

/-- Whether the command at a stream's head is a LEASE_LOAD whose plan is to be read now. -/
def readsPlan (s : State) (st : Nat) (late : List Nat) : Bool :=
  let w := headCmd s st
  decide (pickStream s late = some st ∧ cmdOp w = 0x30) && (cmdSkip leaseSpec st w s).isNone

/-- The sectors of the plan that the head of a stream names. -/
def planSectors (s : State) (st : Nat) : List Nat := sectorsOf (cw2 (headCmd s st) 6) 1088

/-- LEASE_LOAD: the plan is read and checked as it is dispatched; an invalid one is skipped. A plan in a stack in
self-refresh holds the command at the head of its stream (R301). -/
def effLeaseLoad (st : Nat) (late : List Nat) (hs : List Hit) (s : State) : State :=
  let w := headCmd s st
  let a := cw2 w 6
  let reads := readsPlan s st late
  if reads && inSelfRefresh s (planSectors s st) then s else
  let r := if reads then readStruct hs a 1088 s else ([], s)
  let ws := wordsOf (r.2.hbm.bytes a 1088)
  dispatch 0x30
    { leaseSpec with own := fun w s => leaseSkip w r.1 ws s }
    (fun no w s =>
      let s := startCmd no st w (.leaseHeld ws) s
      if fenced s then s else beginLease no ws s) st late r.2

/-- The plan read of a LEASE_LOAD has been held for 1 ms: it fails, and the command is skipped (R301, R593). -/
def leaseTimeout (st : Nat) (s : State) : State :=
  if readsPlan s st [] && inSelfRefresh s (planSectors s st) then
    dispatch 0x30 { leaseSpec with own := fun _ _ => some { code := 0x0E, detail := 11 } } (fun _ _ s => s) st [] s
  else s

/-! ### Slice routing tables -/

/-- Whether routing entry `g` breaks R391. -/
def routeBad (s : State) (g : Nat) (e : W32) : Bool :=
  decide (g ≠ ownGid s) &&
  (decide (fld e 16 16 ≠ 0 ∨ fld e 1 2 = 3)
   || (!(ownDomain s g) && (decide (fld e 1 2 = 0) || bit e 3))
   || (ownDomain s g && decide (fld e 1 2 = 2)))

/-- A routing table is read, checked and put in force (R390, R391). -/
def loadRoute (hs : List Hit) (no st : Nat) (w : W512) (s : State) : State :=
  let d := 5 + fld w 128 1
  let a := cw2 w 6
  heldStruct hs a 4096 (fun hs s =>
  let r := readStruct hs a 4096 s
  match r.1 with
  | n :: _ => readRejected (unitFab d) a n no st w r.2
  | [] =>
    let es := wordsOf (r.2.hbm.bytes a 4096)
    match (List.range 1024).find? (fun g => routeBad r.2 g (es.getD g 0)) with
    | some g => completeCmd no .aborted (structRejected (unitFab d) 1 g a 0 w st r.2)
    | none =>
      let t := (List.range 1024).filterMap (fun g =>
        if es.getD g 0 = 0 ∨ g = ownGid r.2 then none else some (g, es.getD g 0))
      completeCmd no .done (setPhot r.2 d { photOf r.2 d with route := t })) s

/-- ROUTE_LOAD. -/
def effRouteLoad (st : Nat) (late : List Nat) (hs : List Hit) (s : State) : State :=
  dispatch 0x31 { range := fun w _ => hbmRangeBad (cw2 w 6) 4096 }
    (fun no w s =>
      let s := startCmd no st w .waiting s
      if fenced s then s else loadRoute hs no st w s) st late s

/-! ### Flow contexts (R404-R406) -/

/-- The bits of word `i` that a context of a kind and mode may use (Tables 11.1, 11.2). -/
def ctxBits (kind mode i : Nat) : W32 :=
  let data := kind = 1 || kind = 2 || kind = 3 || kind = 6
  let src := kind = 2 || kind = 3
  let dst := kind = 1 || kind = 2 || kind = 3
  let put := fun (b : Bool) (m : W32) => if b then m else 0#32
  match i with
  | 0 => 0x3F7FFFFF#32
  | 1 => put (src || kind = 4 || kind = 6) 0x3F#32 ||| put src 0xC0#32 ||| put dst 0x700#32 ||| put (kind = 2) 0xFF0800#32
         ||| put data 0x1000#32 ||| put (kind = 2 && mode = 2) 0x3F000000#32
  | 2 => put data 0xFFFFFF#32
  | 3 => 0xFFFF#32 ||| put (kind = 1) 0xFFFF0000#32
  | 4 | 5 => put (src || kind = 6) 0xFFFFFFFF#32
  | 6 | 7 => put data 0xFFFFFFFF#32
  | 8 => put dst 0xFF1F#32
  | 9 => put data 0xFFFFFF#32
  | 10 => put (kind = 2) 0xFF#32 ||| put (kind = 3 && mode = 1) 0xFFFF0000#32
  | 11 => put (kind = 6) 0x7F7F#32
  | 12 | 13 => put (kind = 2) 0xFFFFFFFF#32
  | 14 => put (kind = 2) 0xFFFF#32
  | 15 => 0
  | _ => 0x03FF03FF#32

/-- The modes of a kind (Table 11.2). -/
def modeOk (kind mode : Nat) : Bool :=
  match kind with
  | 2 => decide (mode ≤ 2)
  | 3 | 6 => decide (mode ≤ 1)
  | _ => decide (mode = 0)

/-- The end of a tier's address space. -/
def tierEnd (t : Nat) : Nat := if t = 0 then 0x300000 else if t = 1 then 0x1800000 else hbmEnd

/-- Whether context `id` breaks R406. -/
def ctxBad (s : State) (id : Nat) (c : Ctx) : Bool :=
  let k := cKind c
  let m := cMembers c
  let data := k = 1 || k = 2 || k = 3 || k = 6
  let n := cLines c
  let pop := (maskLanes (cLmask c)).length
  let ext := if k = 2 then (if kindMissing s c then 1 else outLines s c) else n
  let lost := lostOf c
  (List.range 48).any (fun i => decide (c.w.getD i 0 &&& ~~~(ctxBits k (cMode c) i) ≠ 0))
  || decide (7 < k) || !(modeOk k (cMode c))
  || decide (m = 0 ∨ 64 < m ∨ m ≤ cSelf c) || decide (cMember c (cSelf c) ≠ ownGid s)
  || decide (((List.range m).map (cMember c)).eraseDups.length ≠ m)
  || (List.range (64 - m)).any (fun i => decide (cf c (16 + (m + i) / 2) (16 * ((m + i) % 2)) 16 ≠ 0))
  || decide (cGroup c = 0xFFFF)
  || (decide (k = 2 ∧ cMode c = 2) && decide (m ≤ cRoot c))
  || (decide (k = 6) && (decide (m < 3 ∨ 16 < m) || lost.any (fun i => decide (m ≤ i)) || decide (lost.eraseDups.length ≠ lost.length)))
  || ((k = 2 || k = 3 || k = 4 || k = 6) && decide (cParts c = 0 ∨ 32 < cParts c))
  || ((k = 2 || k = 3) && (decide (cSrcTier c = 3 ∨ (cSrcTier c = 2 ∧ cParts c ≠ 1)) || decide (k = 3 ∧ cSrcTier c ≠ 2)))
  || ((k = 1 || k = 2 || k = 3) && decide (cDstTier c = 3))
  || (data && decide (n = 0 ∨ cSrc c % 64 ≠ 0 ∨ cDst c % 64 ≠ 0 ∨ cStatsAddr c % 64 ≠ 0))
  || (decide (k = 1) && decide (cPuts c = 0))
  || (decide (k = 2) && decide (tierEnd (cSrcTier c) < cSrc c + 64 * n))
  || (decide (k = 3) && decide (hbmEnd < cSrc c + 64 * (n / max 1 m)))
  || ((k = 1 || k = 2 || k = 3) && decide (tierEnd (cDstTier c) < cDst c + 64 *
        (if cDstTier c = 0 && cSplit c then min ext (n / max 1 pop) else ext)))
  || (decide (k = 6) && decide (hbmEnd < cSrc c + 64 * n ∨ hbmEnd < cDst c + 64 * n))
  || (cStats c && decide (cStatsEntries c = 0 ∨ hbmEnd < cStatsAddr c + 32 * cStatsEntries c))
  || (decide (k = 3 ∧ cMode c = 1) && decide (ctxDie (cPair c) ≠ ctxDie id ∨ 40959 < cPair c))
  || ((k = 1 || k = 2 || k = 3) && cSplit c && decide (pop = 0 ∨ n % pop ≠ 0))
  || (decide (k = 3) && decide (n % m ≠ 0))

/-- The contexts are read and checked; those with no run in progress are replaced (R406, R407). -/
def loadFlow (hs : List Hit) (no st : Nat) (w : W512) (s : State) : State :=
  let first := cw w 4
  let n := cw w 5
  let a := cw2 w 6
  let unit := unitFab (ctxDie first)
  heldStruct hs a (192 * n) (fun hs s =>
  let r := readStruct hs a (192 * n) s
  match r.1 with
  | k :: _ => readRejected unit a k no st w r.2
  | [] =>
    let ctxs := (List.range n).map (fun i => wordsOf (r.2.hbm.bytes (a + 192 * i) 192))
    match (List.range n).find? (fun i => ctxBad r.2 (first + i) (Ctx.fresh (ctxs.getD i []))) with
    | some i => completeCmd no .aborted (structRejected unit 1 i a 0 w st r.2)
    | none => fabGo (setWork no (.flow (ctxs.zipIdx.map (fun x => (first + x.2, x.1)))) r.2)) s

/-- FLOW_LOAD. -/
def effFlowLoad (st : Nat) (late : List Nat) (hs : List Hit) (s : State) : State :=
  dispatch 0x32
    { badOperand := fun w _ => decide (40960 < cw w 4 + cw w 5)
      range := fun w _ => hbmRangeBad (cw2 w 6) (192 * cw w 5) }
    (fun no w s =>
      let s := startCmd no st w .waiting s
      if fenced s then s else loadFlow hs no st w s) st late s

end Sys2Proof.Machine
end

