-- ==== Sys2Proof/Machine/Reblock.lean ====
section
/-! DEFINITION. Reblock: layout epochs, fences and the reblock permute (R438-R442), and the rewrite after an abort
(R434). -/

namespace Sys2Proof.Machine

/-! ### Permute plans (R439, R440) -/

/-- An entry of a plan: address, lines, peer, flow index, and for a SEND its version tag. -/
structure Perm where
  addr : Nat
  lines : Nat
  gid : Nat
  f : Nat
  tag : W32
deriving DecidableEq, Repr

def permOf (bs : List Byte) : Perm where
  addr := leNat (bs.take 8)
  lines := leNat ((bs.drop 8).take 4)
  gid := leNat ((bs.drop 12).take 2)
  f := leNat ((bs.drop 14).take 1)
  tag := BitVec.ofNat 32 (leNat ((bs.drop 16).take 4))

/-- Lines of a stream among entries. -/
def streamLines (es : List Perm) (f gid : Nat) : Nat := ((es.filter (fun e => decide (e.f = f ∧ e.gid = gid))).map (fun e => e.lines)).sum

/-- Whether the header of a plan breaks R440; `new` is the command's epoch. -/
def planHeaderBad (s : State) (new addr : Nat) (bs : List Byte) : Bool :=
  let base := leNat (bs.take 2)
  let n := leNat ((bs.drop 2).take 2)
  let k := leNat ((bs.drop 4).take 4) + leNat ((bs.drop 8).take 4)
  decide (n = 0 ∨ 256 < n ∨ leNat ((bs.drop 12).take 1) ≠ new ∨ hbmEnd < addr + 64 + 32 * k)
  || (bs.drop 13).any (fun b => decide (b ≠ 0))
  || (List.range n).any (fun f => match ctxOf s (base + f) with
    | some c => decide (cKind c ≠ 5 ∨ cEpoch c ≠ new ∨ 40960 ≤ base + f)
    | none => true)

/-- Whether entry `i` of a plan breaks R440; the first `sends` of the entries are SENDs. -/
def permBad (s : State) (base n sends : Nat) (bs : List (List Byte)) (es : List Perm) (i : Nat) : Bool :=
  let b := bs.getD i []
  let e := permOf b
  let send := decide (i < sends)
  let part := (es.take (i + 1)).drop (if send then 0 else sends)
  decide (b.getD 15 0 ≠ 0)
  || (b.drop (if send then 20 else 16)).any (fun x => decide (x ≠ 0))
  || decide (e.addr % 64 ≠ 0 ∨ hbmEnd < e.addr + 64 * e.lines ∨ n ≤ e.f ∨ 1023 < e.gid)
  || (send && decide (e.lines = 0))
  || decide (16777214 < streamLines part e.f e.gid)
  || (!send && (es.zipIdx).any (fun x => (decide (x.2 < i)) && meets e.addr (64 * e.lines) x.1.addr (64 * x.1.lines)))
  || (decide (e.gid ≠ ownGid s) && !(permitted s (ctxDie (base + e.f)) e.gid))

/-! ### Fences -/

/-- An EPOCH_SET or REBLOCK takes up its fence (R438). -/
def takeFence (b : Rebl) (s : State) : State := setWork b.no .epoch { s with mer := { s.mer with rebl := some b } }

def fenceOf (no new : Nat) : Rebl where
  no := no
  new := new
  permute := false
  stage := 1
  base := 0
  count := 0
  sends := []
  recvs := []
  got := []
  total := []
  ended := []
  landed := []
  round := 0
  sentRound := 0

/-- A REBLOCK begins: its plan is read and checked (R440). -/
def beginReblock (hs : List Hit) (no st : Nat) (w : W512) (s : State) : State :=
  let a := cw2 w 6
  let new := fld w 128 8
  heldStruct hs a 64 (fun hs s =>
  let r := readStruct hs a 64 s
  let hd := r.2.hbm.bytes a 64
  let base := leNat (hd.take 2)
  let n := leNat ((hd.drop 2).take 2)
  let sends := leNat ((hd.drop 4).take 4)
  let k := sends + leNat ((hd.drop 8).take 4)
  let unit := unitFab (ctxDie base)
  match r.1 with
  | x :: _ => readRejected (unitFab 5) a x no st w r.2
  | [] =>
    if planHeaderBad r.2 new a hd then completeCmd no .aborted (structRejected unit 2 0 a 0 w st r.2)
    else heldStruct [] (a + 64) (32 * k) (fun hs s =>
      let q := readStruct hs (a + 64) (32 * k) s
      match q.1 with
      | x :: _ => readRejected unit a x no st w q.2
      | [] =>
        let bs := (List.range k).map (fun i => q.2.hbm.bytes (a + 64 + 32 * i) 32)
        let es := bs.map permOf
        match (List.range k).find? (permBad q.2 base n sends bs es) with
        | some i => completeCmd no .aborted (structRejected unit 1 i a 0 w st q.2)
        | none =>
          takeFence { fenceOf no new with
            permute := true, base := base, count := n
            sends := (es.take sends).map (fun e => (e.addr, e.lines, e.gid, e.f, e.tag))
            recvs := (es.drop sends).map (fun e => (e.addr, e.lines, e.gid, e.f)) } q.2) r.2) s

/-- A command that was held for its fence or its stack goes on. -/
def resumeCmd (c : CmdRec) (s : State) : State :=
  match cmdOp c.word with
  | 0x12 => loadRecipe [] c.no c.strm c.word s
  | 0x20 => beginLoad [] c.no c.word s
  | 0x28 => loadEph [] c.no c.strm c.word s
  | 0x29 => beginMoves [] c.no c.word s
  | 0x2A => beginXfer [] c.no c.word s
  | 0x31 => if fenced s then s else loadRoute [] c.no c.strm c.word s
  | 0x32 => if fenced s then s else loadFlow [] c.no c.strm c.word s
  | 0x33 => if fenced s then s else takeFence (fenceOf c.no (fld c.word 128 8)) s
  | 0x34 => if fenced s then s else beginReblock [] c.no c.strm c.word s
  | _ => s

/-- Commands that a fence or a stack in self-refresh holds back start in dispatch order, until one of them fences again
(R438, R301). -/
def resumeWaiting (s : State) : State :=
  s.cmds.foldl (fun s c => match c.work with
    | .leaseHeld ws => if fenced s then s else beginLease c.no ws s
    | .waiting => resumeCmd c s
    | _ => s) s

/-- EPOCH_ORDER (Table 2.9). -/
def epochOrder (w : W512) (s : State) : Option Skip :=
  let n := (fld w 128 8 + 256 - s.mer.epoch) % 256
  if 1 ≤ n ∧ n ≤ 127 then none else some { code := 0x0F }

/-- EPOCH_SET (R438). -/
def effEpochSet (st : Nat) (late : List Nat) (s : State) : State :=
  dispatch 0x33 { own := epochOrder }
    (fun no w s =>
      let s := startCmd no st w .waiting s
      if fenced s then s else takeFence (fenceOf no (fld w 128 8)) s) st late s

/-- Whether a plan leaves HBM: its header, and, where the header reads well, the extent that the header gives (R290). -/
def planRangeBad (w : W512) (s : State) : Bool :=
  let a := cw2 w 6
  hbmRangeBad a 64
  || ((readUntracked 8 [a / 64] s).1.isEmpty && !(inSelfRefresh s [a / 64])
      && hbmRangeBad a (64 + 32 * (leNat (s.hbm.bytes (a + 4) 4) + leNat (s.hbm.bytes (a + 8) 4))))

/-- REBLOCK (R440, R441). -/
def effReblock (st : Nat) (late : List Nat) (hs : List Hit) (s : State) : State :=
  dispatch 0x34 { own := epochOrder, range := fun w s => planRangeBad w (hitHbm hs s) }
    (fun no w s =>
      let s := startCmd no st w .waiting s
      if fenced s then s else beginReblock hs no st w s) st late s

/-! ### The permute (R441) -/

def setRebl (b : Rebl) (s : State) : State := { s with mer := { s.mer with rebl := some b } }

/-- The key of a stream. -/
def streamKey (f gid : Nat) : Nat := 1024 * f + gid

/-- Lines that the RECV entries give a stream. -/
def recvLines (b : Rebl) (f gid : Nat) : Nat :=
  ((b.recvs.filter (fun e => decide (e.2.2.2 = f ∧ e.2.2.1 = gid))).map (fun e => e.2.1)).sum

/-- The streams of the RECV entries. -/
def recvStreams (b : Rebl) : List (Nat × Nat) := (b.recvs.map (fun e => (e.2.2.2, e.2.2.1))).eraseDups
def sendStreams (b : Rebl) : List (Nat × Nat) := (b.sends.map (fun e => (e.2.2.2.1, e.2.2.1))).eraseDups

/-- Where line `o` of a stream lands. -/
def recvAddr : List (Nat × Nat × Nat × Nat) → Nat → Nat → Nat → Option Nat
  | [], _, _, _ => none
  | (a, n, g, f) :: l, f', g', o =>
    if f = f' ∧ g = g' then (if o < n then some (a + 64 * o) else recvAddr l f' g' (o - n)) else recvAddr l f' g' o

/-- A line of the permute lands: NEW_EPOCH with the STEP stored at the source (R441). -/
def landPerm (f gid o step : Nat) (l : List Byte × Nat) (s : State) : State :=
  match s.mer.rebl with
  | none => s
  | some b => match recvAddr b.recvs f gid o with
    | none => s
    | some a =>
      let k := streamKey f gid
      let s := writeSector (a / 64) l.1 (BitVec.ofNat 32 (at_ b.new 24 8 + step % 2 ^ 24)) l.2 s
      setRebl { b with landed := b.landed ++ [a / 64], got := b.got.put k (b.got.get 0 k + 1) } s

/-- The lines of a stream that this package sends, with their offsets, source sectors and expected tags. -/
def sendLines (b : Rebl) (f gid : Nat) : List (Nat × Nat × W32) :=
  let es := b.sends.filter (fun e => decide (e.2.2.2.1 = f ∧ e.2.2.1 = gid))
  ((es.map (fun e => (List.range e.2.1).map (fun i => (e.1 / 64 + i, e.2.2.2.2)))).flatten).zipIdx.map (fun x => (x.2, x.1.1, x.1.2))

/-- The permute starts: credit for every RECV stream, every SEND stream read and sent, and what stays in the package
copied (R440, R441). -/
def startPermute (s : State) : State :=
  match s.mer.rebl with
  | none => s
  | some b =>
    let s := setRebl { b with stage := 3, round := 0, sentRound := 0 } s
    let own := ownGid s
    let s := (recvStreams b).foldl (fun s x => if x.2 = own then s else grant x.2 (b.base + x.1) (recvLines b x.1 x.2) s) s
    let all := ((sendStreams b).map (fun x => sendLines b x.1 x.2)).flatten
    let bad := (all.map (fun x => (x.2.1, sectorClass s x.2.1 x.2.2, x.2.2))).filter (fun x => decide (x.2.1 ≠ 0))
    if bad ≠ [] then
      raiseOn b.base 4 (bad.foldl (fun s x => failSector x.1 x.2.1 x.2.2 2 0xFFFFFFFF#32 s) s)
    else
      (sendStreams b).foldl (fun s x =>
        let ls := (sendLines b x.1 x.2).map (fun l => (l.1, sectorData s l.2.1, sectorTag s l.2.1, sectorStep s l.2.1))
        if x.2 = own then
          let s := ls.foldl (fun s l => landPerm x.1 own l.1 l.2.2.2 (l.2.1, l.2.2.1) s) s
          match s.mer.rebl with
          | some b' => setRebl { b' with total := b'.total.put (streamKey x.1 own) ls.length, ended := b'.ended ++ [streamKey x.1 own] } s
          | none => s
        else pushLines (b.base + x.1) x.2 none (ls.map (fun l => (l.1, l.2.1, l.2.2.1))) s) s

/-- STREAM_TOTAL goes out for each stream whose cells are all sent (R441, step 4). -/
def sendTotals (s : State) : State :=
  match s.mer.rebl with
  | none => s
  | some b => (sendStreams b).foldl (fun s x =>
      let id := b.base + x.1
      let k := streamKey x.1 x.2
      match s.mer.rebl with
      | some b' =>
        if b'.ended.contains k || (photOf s (ctxDie id)).wait.any (fun w => decide (w.ctx = id ∧ w.dst = x.2)) then s
        else setRebl { b' with ended := b'.ended ++ [k] }
          (sendLine id x.2 ([6, BitVec.ofNat 8 x.1, 0, 0] ++ leBytes 4 (sendLines b x.1 x.2).length) s)
      | none => s) s

/-- Whether a stream total disagrees with the RECV entries (R441, step 5). -/
def totalsBad (b : Rebl) : Bool := b.total.any (fun t => decide (t.2 ≠ recvLines b (t.1 / 1024) (t.1 % 1024)))

/-- Whether every stream is sent, acknowledged and received. -/
def permDone (s : State) (b : Rebl) : Bool :=
  (sendStreams b).all (fun x => b.ended.contains (streamKey x.1 x.2) && allAcked s (b.base + x.1))
  && (recvStreams b).all (fun x =>
    let k := streamKey x.1 x.2
    decide (b.got.get 0 k = recvLines b x.1 x.2) && decide (b.total.find k = some (recvLines b x.1 x.2)))

/-- The rounds of the barriers among FLOW_BASE's members (R430, R441); the bound is the number of steps. -/
def rebRounds : Nat → Bool → State → State
  | 0, _, s => s
  | k + 1, closing, s =>
    match s.mer.rebl with
    | none => s
    | some b => match ctxOf s b.base with
      | none => s
      | some c =>
        if b.round = roundsOf (cMembers c) then s
        else if b.sentRound ≤ b.round then
          rebRounds k closing (queueCell 3
            (shortCell s (cMember c ((cSelf c + 2 ^ b.round) % cMembers c)) 3 (cEpoch c) b.base
              (leBytes 4 c.runs ++ [BitVec.ofNat 8 b.round, BitVec.ofNat 8 (b2n closing)]))
            (setRebl { b with sentRound := b.round + 1 } s))
        else if roundHere c closing b.round then rebRounds k closing (setRebl { b with round := b.round + 1 } s)
        else s

/-- Whether the rounds are finished. -/
def rebRoundsDone (s : State) (b : Rebl) : Bool :=
  match ctxOf s b.base with
  | some c => decide (b.round = roundsOf (cMembers c))
  | none => false

/-- REBLOCK (Table 11.9). -/
def reblockRec (b : Rebl) (out : Nat) (s : State) : State :=
  record { unit := unitFab (ctxDie b.base), cls := 0x0442, outcome := out, d1 := BitVec.ofNat 32 b.base
           d2 := BitVec.ofNat 32 s.mer.epoch, d3 := BitVec.ofNat 32 b.new } s

/-- The contexts of a permute go on to their next run. -/
def nextPerm (b : Rebl) (s : State) : State :=
  (List.range b.count).foldl (fun s f => match ctxOf s (b.base + f) with
    | some c => setCtx s (b.base + f) { c.nextRun with rounds := c.rounds.filter (fun x => decide (x.1 ≠ c.runs)) }
    | none => s) s

/-- The fence command ends: the commands that it held back start. -/
def endFence (no : Nat) (t : Tok) (s : State) : State :=
  resumeWaiting (completeCmd no t { s with mer := { s.mer with rebl := none } })

/-- A REBLOCK completes DONE (R441, step 7). -/
def finishReblock (b : Rebl) (s : State) : State :=
  let s := reblockRec b 1 (nextPerm b s)
  endFence b.no .done (setEpoch b.new s)

/-- Whether a permute's reads, or what it copies within the package, reach a stack in self-refresh (R301). -/
def permSleeps (s : State) (b : Rebl) : Bool :=
  inSelfRefresh s ((b.sends.map (fun e => sectorsOf e.1 (64 * e.2.1))).flatten)
  || inSelfRefresh s (((b.recvs.filter (fun e => decide (e.2.2.1 = ownGid s))).map (fun e => sectorsOf e.1 (64 * e.2.1))).flatten)

/-- One step of the permute. -/
def rebStep (s : State) : State :=
  match s.mer.rebl with
  | none => s
  | some b =>
    if !b.permute then s
    else match b.stage with
    | 2 =>
      let s := rebRounds 16 false s
      match s.mer.rebl with
      | some b => if rebRoundsDone s b ∧ !(permSleeps s b) then startPermute s else s
      | none => s
    | 3 =>
      if totalsBad b then raiseOn b.base 6 s
      else
        let s := sendTotals s
        match s.mer.rebl with
        | some b => if permDone s b then setRebl { b with stage := 4 } s else s
        | none => s
    | 4 =>
      let s := rebRounds 16 true s
      match s.mer.rebl with
      | some b => if rebRoundsDone s b then finishReblock b s else s
      | none => s
    | _ => s

/-- The fabric engines and the permute after a change. -/
def fabAll (s : State) : State :=
  (List.range 5).foldl (fun s _ => fabGo (rebStep s)) (fabGo s)

/-- EPOCH_FENCE_END (R438): no run of an old-epoch context that had begun is left. -/
def effEpochFenceEnd (s : State) : State :=
  match s.mer.rebl with
  | none => s
  | some b =>
    let old := [5, 6].any (fun d => (photOf s d).runs.any (fun r =>
      decide (((ctxOf s r.ctx).map cEpoch).getD s.mer.epoch = s.mer.epoch)))
    if b.stage ≠ 1 ∨ old then s
    else if b.permute then fabAll (setRebl { b with stage := 2 } s)
    else fabAll (endFence b.no .done (setEpoch b.new s))

/-! ### The rewrite after an abort (R434) -/

/-- Sectors rewritten with zero data under a poisoned tag. -/
def poisonSectors (ns : List Nat) (ver : State → Nat → W32) (s : State) : State :=
  ns.foldl (fun s n => writeSector n (List.replicate 64 0) (ver s n ^^^ 0x800000#32) 0 s) s

/-- The sectors that an aborted run landed. -/
def landedSectors (s : State) (r : FRun) : List Nat :=
  match ctxOf s r.ctx with
  | some c => r.landed.map (fun o => runBase c / 64 + o)
  | none => []

/-- ABORT_REWRITE_DONE: of a run, or of the permute whose FLOW_BASE the context is (R434, R442). The rewrite waits for stacks
in self-refresh (R301). -/
def effAbortRewriteDone (id : Nat) (s : State) : State :=
  match runOf s id with
  | some r =>
    let ns := landedSectors s r
    if r.st = 3 ∧ !(inSelfRefresh s ns) then fabAll (cutRun r (delRun id (poisonSectors ns (fun _ _ => r.ver) s))) else s
  | none => match s.mer.rebl with
    | some b =>
      if b.permute ∧ b.stage = 5 ∧ b.base = id ∧ !(inSelfRefresh s b.landed) then
        let s := poisonSectors b.landed.eraseDups (fun s n => BitVec.ofNat 32 (at_ b.new 24 8 + sectorStep s n)) s
        fabAll (endFence b.no .aborted (reblockRec b 2 s))
      else s
    | none => s

/-- QUIET_PERIOD_END (R437). -/
def effQuietPeriodEnd (id : Nat) (s : State) : State :=
  match ctxOf s id with
  | some c => if c.quiet then fabAll (setCtx s id { c with quiet := false }) else s
  | none => s

end Sys2Proof.Machine
end

