-- ==== Sys2Proof/Machine/Receive.lean ====
section
/-! DEFINITION. Receive: what the package does with the cells, control cells, engine lines and return entries that it
receives (chapters 10 and 11). -/

namespace Sys2Proof.Machine

/-! ### What every received cell passes (R355, R392, R394) -/

/-- Whether a link receives: an address link in service, or a leased one, its local oscillator locked (R363). -/
def receiving (s : State) (p : Nat) : Bool :=
  let k := linkOf s p
  decide (p < 64) && k.rxLock && (decide (k.state = 1)
    || ((k.rxEn || k.rxHold.isSome) && !(decide (k.state = 0 ∨ k.state = 5 ∨ k.state = 6 ∨ k.state = 7 ∨ k.state = 10))))

/-- MER_DROP of a link's die. -/
def countDst (p : Nat) (s : State) : State :=
  let d := photOf s (linkDie p); setPhot s (linkDie p) { d with dropDst := satInc 0xFFFF d.dropDst }
def countType (p : Nat) (s : State) : State :=
  let d := photOf s (linkDie p); setPhot s (linkDie p) { d with dropType := satInc 0xFFFF d.dropType }
def countPermit (p : Nat) (s : State) : State :=
  let d := photOf s (linkDie p); setPhot s (linkDie p) { d with dropPermit := satInc 0xFFFF d.dropPermit }
def countDup (p : Nat) (s : State) : State :=
  let d := photOf s (linkDie p); setPhot s (linkDie p) { d with dropDup := satInc 0xFFFF d.dropDup }

/-- The bytes of a cell's payload. -/
def payload (c : Cell) : List Byte := c.lines.flatten
def pNat (c : Cell) (i n : Nat) : Nat := leNat (((payload c).drop i).take n)

/-- The class in which a cell is sent (R367). -/
def cellClass (c : Cell) : Nat :=
  if c.typ = 4 then 1 else if c.typ = 2 then (if 6 ≤ pNat c 0 1 then 2 else 4) else if c.typ = 3 then 3 else 5

/-- Whether a cell is of a kind that PERMIT filters (R392). -/
def filtered (c : Cell) : Bool :=
  decide (c.typ = 1 ∨ c.typ = 3 ∨ c.typ = 4 ∨ c.typ = 5) || (decide (c.typ = 2) && decide (2 ≤ pNat c 0 1 ∧ pNat c 0 1 ≤ 5))

/-- A misdirected cell is dropped and counted, a DATA cell answered with MISROUTE, and the link is found mislocked in receive
(R355, R388, R389). -/
def misdirected (p : Nat) (c : Cell) (s : State) : State :=
  let s := countDst p s
  let s := if c.typ = 1 then owe c.src 4 c.flow c.seq 1 p s else s
  settlePlan (mislock p 2 s)

/-- The gateway link whose buffer holds a relayed cell: the one that it came on, else the lowest that its way out has. -/
def relayLink (s : State) (p : Nat) (c : Cell) : Nat :=
  if (linkOf s p).cabNow = 1 then p
  else
    let port := fld (routeOf s (linkDie p) (nextHop s (linkDie p) c.dst)) 4 6
    ((List.range 64).find? (fun q => let k := linkOf s q; decide (k.cabNow = 1 ∧ k.lport = port) && k.txEn)).getD p

/-- A cell for another device is relayed when both ends have PERMIT and the gateway link's buffer of 128 cells has room; with
no room it is lost (R394, log 62). -/
def passOn (p : Nat) (c : Cell) (s : State) : State :=
  if permitted s (linkDie p) c.src && permitted s (linkDie p) c.dst then
    let q := relayLink s p c
    if (s.mer.tx.filter (fun t => decide (t.relay = some q))).length < 128 then
      queueTx { TxCell.plain (cellClass c) c with relay := some q } s
    else s
  else countPermit p s

/-- What a received cell passes before its own meaning: its PLANE, its DST, and PERMIT. -/
def front (p : Nat) (c : Cell) (f : State → State) (s : State) : State :=
  if !(receiving s p) then s
  else if c.plane ≠ p then misdirected p c s
  else if c.dst ≠ ownGid s then
    if !(ownDomain s c.dst) || decide ((linkOf s p).cabNow = 1) then passOn p c s else misdirected p c s
  else if filtered c && decide (c.src ≠ ownGid s) && !(permitted s (linkDie p) c.src) then countPermit p s
  else f s

/-! ### DATA cells (R382, R385, R416) -/

/-- The ACK of one cell is owed (R382). -/
def ackCell (c : Cell) (s : State) : State := owe c.src 1 c.flow c.seq 1 0 s

def countFab (id : Nat) (f : Phot → Phot) (s : State) : State := setPhot s (ctxDie id) (f (photOf s (ctxDie id)))

/-- FAB_DROP.QUIET: the cell is acknowledged and dropped (R416, R433). -/
def quietDrop (c : Cell) (s : State) : State :=
  countFab c.flow (fun d => { d with fabQuiet := satInc 0xFFFF d.fabQuiet }) (ackCell c s)

/-- A cell that its context does not receive: acknowledged, dropped, counted, recorded, and answered with an ABORT of
its flow (R416); the manual gives that ABORT no cause, so its cause byte is free (log 5). -/
def refuseCell (why : Nat) (c : Cell) (s : State) : State :=
  let s := countFab c.flow (fun d =>
    if why = 1 then { d with fabNo := satInc 0xFFFF d.fabNo }
    else if why = 2 then { d with fabEpoch := satInc 0xFFFF d.fabEpoch }
    else { d with fabBad := satInc 0xFFFF d.fabBad }) (ackCell c s)
  let s := record { unit := unitFab (ctxDie c.flow), cls := 0x0444, outcome := why, d1 := BitVec.ofNat 32 c.flow
                    d2 := BitVec.ofNat 32 c.src, d3 := BitVec.ofNat 32 c.flow } s
  let (b, s) := drawBytes 1 s
  let a : AbortInfo := { group := 0xFFFF, cause := ((b.getD 0 0)).toNat, serial := s.mer.serial, origin := ownGid s }
  let s := { s with mer := { s.mer with serial := s.mer.serial + 1 } }
  queueCell 1 (shortCell s c.src 4 0 0 (abortBytes a c.flow s.mer.epoch)) s

/-- A landed SEQ enters the window of its sender (R385). -/
def noteSeq (c : Cell) (s : State) : State :=
  match ctxOf s c.flow with
  | some x => setCtx s c.flow { x with seen := x.seen.put c.src ((c.seq :: x.seen.get [] c.src).take 2048) }
  | none => s

/-- A DATA cell up to its kind: duplicates, quiet periods, the layout epoch. -/
def dataTake (p : Nat) (c : Cell) (f : Ctx → State → State) (s : State) : State :=
  match ctxOf s c.flow with
  | none => refuseCell 1 c s
  | some x =>
    if (x.seen.get [] c.src).contains c.seq then countDup p (ackCell c s)
    else if x.quiet then quietDrop c s
    else if c.epoch ≠ cEpoch x then refuseCell 2 c s
    else f x s

/-- A DATA cell as it arrives. -/
def dataFront (p : Nat) (c : Cell) (f : Ctx → State → State) (s : State) : State := front p c (dataTake p c f) s

/-- Lines with their tags. -/
def cellLines (c : Cell) : List (List Byte × Nat) := c.lines.zipIdx.map (fun l => (l.1, c.tags.getD l.2 0))

/-- Lines of a run still to come. -/
def lessLeft (id n : Nat) (s : State) : State :=
  match runOf s id with
  | some r => setRun { r with left := r.left - n } s
  | none => s

/-- Lines of a run's DATA cell take effect (R422, R427, R443-R445). -/
def runLines (id : Nat) (x : Ctx) (m off aux : Nat) (ls : List (List Byte × Nat)) (s : State) : State :=
  let s := match cKind x with
    | 2 => if aux = 0 then reduceChain id off (ls.map (fun l => l.1)) s else passAround id off ls (shardOut s x) s
    | 3 => passAround id off ls (cLines x / cMembers x) s
    | _ => if cMode x = 0 then stripeFold id m off ls s else stripeRebuild id m off ls s
  lessLeft id ls.length s

/-- Cells that arrived before their run had started here take effect. -/
def replayEarly (s : State) : State :=
  let rs := ([5, 6].map (fun d => (photOf s d).runs.filter (fun r => decide (r.st = 1) && !r.early.isEmpty))).flatten
  rs.foldl (fun s r =>
    let s := setRun { r with early := [] } s
    r.early.foldl (fun s e => match ctxOf s r.ctx with
      | some x => if (runOf s r.ctx).isSome then runLines r.ctx x e.m e.off e.aux e.lines s else s
      | none => s) s) s

/-- The fabric after a change, early cells included. -/
def fabEnd (s : State) : State := fabAll (replayEarly (fabAll s))

/-- The lines of the landing region of a kind, as a cell addresses it (R416). -/
def regionLines (s : State) (x : Ctx) (aux : Nat) : Nat :=
  match cKind x with
  | 2 => if aux = 0 then elemsOf s x / 16 else shardOut s x * cMembers x
  | _ => cLines x

/-- A DATA cell of a run: it is taken up, kept until the run has started, or dropped after an abort. -/
def takeRunCell (x : Ctx) (m aux : Nat) (c : Cell) (s : State) : State :=
  match runOf s c.flow with
  | none => quietDrop c s
  | some r =>
    if r.st = 3 then quietDrop c s
    else
      let s := noteSeq c (ackCell c s)
      if r.st = 0 then
        match runOf s c.flow with
        | some r => setRun { r with early := r.early ++ [{ m := m, off := c.off, lines := cellLines c, aux := aux }] } s
        | none => s
      else runLines c.flow x m c.off aux (cellLines c) s

/-- A FETCH or STRIPE recovery takes lines of member `m` (R446, R447); `base` is the entry's first line. -/
def fetchLines (d i m base off : Nat) (ls : List (List Byte × Nat)) (s : State) : State :=
  match entryOf s d i with
  | some e =>
    let t := ls.zipIdx.foldl (fun (t : Tab (List Byte × Nat)) l =>
      if base ≤ off + l.2 ∧ off + l.2 < base + dLines e.desc then t.put (off + l.2 - base) l.1 else t) (e.fetched.get [] m)
    setEntry d { e with fetched := e.fetched.put m t } s
  | none => s

/-- The entries in recovery through a context. -/
def recovsOf (s : State) (id kind : Nat) : List (Nat × LEntry) :=
  ((List.range 4).map (fun d => ((dieOf s d).ledger.filter (fun e => decide (e.recov = kind ∧ dArg e.desc = id))).map (fun e => (d, e)))).flatten

/-- Lines of a STRIPE context that belong to no run: those of a tile's recovery (R446). -/
def stripeCell (x : Ctx) (m : Nat) (c : Cell) (s : State) : State :=
  let es := recovsOf s c.flow 3
  if es = [] then quietDrop c s
  else es.foldl (fun s e => match shardLine x e.2 with
    | some l => fetchLines e.1 e.2.idx m l c.off (cellLines c) s
    | none => s) (noteSeq c (ackCell c s))

/-- A line of an FPUT lands, and its space is granted again unless it came on an address lane (R281, R368, R418). -/
def putCell (p : Nat) (c : Cell) (s : State) : State :=
  let s := (cellLines c).zipIdx.foldl (fun s l => landPut c.flow (c.off + l.2) l.1 s) (noteSeq c (ackCell c s))
  if isAddr s p then s else grant c.src c.flow c.lines.length s

/-- A cell of a reblock stream (R441): `step` is the STEP stored at the source (log 21). -/
def permCell (step : Nat) (c : Cell) (s : State) : State :=
  match s.mer.rebl with
  | none => quietDrop c s
  | some b =>
    if b.stage ≠ 3 ∨ c.flow < b.base ∨ b.base + b.count ≤ c.flow then quietDrop c s
    else
      let f := c.flow - b.base
      if recvLines b f c.src < c.off + c.lines.length then refuseCell 3 c s
      else (cellLines c).zipIdx.foldl (fun s l => landPerm f c.src (c.off + l.2) step l.1 s) (noteSeq c (ackCell c s))

/-- The HBM sectors that the landing of a DATA cell reaches. -/
def cellSectors (s : State) (x : Ctx) (aux : Nat) (c : Cell) : List Nat :=
  let os := (List.range c.lines.length).map (fun i => c.off + i)
  let land := if landsHbm x then os.map (fun o => runBase x / 64 + o) else []
  match cKind x with
  | 1 | 3 => land
  | 2 =>
    if !(landsHbm x) then [] else if aux ≠ 0 then land
    else (os.filter (fun n => decide (chainEnd x (16 * n / shardEls s x) = cSelf x))).map (fun n =>
      cDst x / 64 + (16 * n / lineEls (outFmt s x) - (if cMode x = 0 then cSelf x * shardOut s x else 0)))
  | 6 =>
    if cMode x = 1 then land
    else (((os.map (fun o => o / 2048)).eraseDups).map (fun w =>
      (List.range (min 2048 (cLines x - 2048 * w))).map (fun i => cDst x / 64 + 2048 * w + i))).flatten
  | 5 => match s.mer.rebl with
    | some b => os.filterMap (fun o => (recvAddr b.recvs (c.flow - b.base) c.src o).map (fun a => a / 64))
    | none => []
  | _ => []

/-- A received cell waits for a stack in self-refresh (R301). -/
def holdCell (op p aux : Nat) (c : Cell) (s : State) : State :=
  { s with mer := { s.mer with heldCells := s.mer.heldCells ++ [⟨op, p, c, aux⟩] } }

/-- A DATA cell that its context receives takes effect by its kind (R414-R416). -/
def landData (p : Nat) (c : Cell) (aux : Nat) (x : Ctx) (s : State) : State :=
  let m := cMembers x
  let off := c.off + c.lines.length
  match cKind x, cIndex x c.src with
  | 1, some _ => if cSelf x ≠ 0 then refuseCell 4 c s else if cLines x < off then refuseCell 3 c s else putCell p c s
  | 2, some i =>
    if (i + 1) % m ≠ cSelf x ∨ (aux ≠ 0 ∧ cMode x ≠ 1) then refuseCell 4 c s
    else if regionLines s x aux < off then refuseCell 3 c s else takeRunCell x i aux c s
  | 3, some i =>
    if (i + 1) % m ≠ cSelf x then refuseCell 4 c s else if cLines x < off then refuseCell 3 c s else takeRunCell x i 0 c s
  | 6, some i =>
    let k := m - 2
    let run := if cMode x = 0 then decide (k ≤ cSelf x ∧ i < k) else (lostOf x).contains (cSelf x) && !((lostOf x).contains i)
    if cLines x < off then refuseCell 3 c s
    else if run && (runOf s c.flow).isSome then takeRunCell x i 0 c s else stripeCell x i c s
  | 7, some i =>
    match (recovsOf s c.flow 1).find? (fun e => decide (2048 * e.1 + e.2.idx = aux ∧ e.2.holder = i)) with
    | some e =>
      if dLines e.2.desc < off then refuseCell 3 c s
      else fetchLines e.1 e.2.idx i 0 c.off (cellLines c) (noteSeq c (ackCell c s))
    | none => quietDrop c s
  | 5, _ => permCell aux c s
  | _, _ => refuseCell 4 c s

/-- A landing that reaches a stack in self-refresh is held (R301). -/
def landOrHold (p : Nat) (c : Cell) (aux : Nat) (x : Ctx) (s : State) : State :=
  if inSelfRefresh s (cellSectors s x aux c) then holdCell 0 p aux c s else landData p c aux x s

/-- DATA_CELL (R414-R416). -/
def effDataCell (p : Nat) (c : Cell) (aux : Nat) (s : State) : State :=
  let engine := decide (c.off = engineOff ∧ c.lines.length = 1)
  if c.typ ≠ 1 ∨ c.lines = [] ∨ 4 < c.lines.length ∨ (engine ∧ 1 ≤ pNat c 0 1 ∧ pNat c 0 1 ≤ 7) then s
  else if engine then fabEnd (dataFront p c (fun _ s => noteSeq c (ackCell c s)) s)
  else fabEnd (dataFront p c (landOrHold p c aux) s)

/-! ### Engine lines (R417) -/

/-- An engine line that a context of a kind takes. -/
def takeLine (kind : Nat) (c : Cell) (f : Ctx → State → State) (x : Ctx) (s : State) : State :=
  if cKind x ≠ kind then refuseCell 4 c s else f x (noteSeq c (ackCell c s))

/-- An engine line of operation `op` for a context of a kind. -/
def engineIn (p op kind : Nat) (c : Cell) (f : Ctx → State → State) (s : State) : State :=
  if c.typ = 1 ∧ c.off = engineOff ∧ c.lines.length = 1 ∧ pNat c 0 1 = op then
    fabEnd (dataFront p c (takeLine kind c f) s)
  else s

/-- An engine line whose access to HBM, at `secs`, is held while it reaches a stack in self-refresh (R301). -/
def engineHbm (p op kind : Nat) (c : Cell) (secs : Ctx → State → List Nat) (f : Ctx → State → State) (s : State) : State :=
  if c.typ = 1 ∧ c.off = engineOff ∧ c.lines.length = 1 ∧ pNat c 0 1 = op then
    fabEnd (dataFront p c (fun x s =>
      if cKind x = kind ∧ inSelfRefresh s (secs x s) then holdCell op p 0 c s else takeLine kind c f x s) s)
  else s

/-- PUT_END (R419). -/
def effPutEnd (p : Nat) (c : Cell) (s : State) : State := engineIn p 1 1 c (fun _ s => countPut c.flow s) s

/-- STATS_CHAIN (R426). -/
def effStatsChain (p : Nat) (c : Cell) (s : State) : State :=
  engineIn p 2 2 c (fun _ s => match runOf s c.flow with
    | some r => if r.st ≤ 1 then setRun { r with chainIn := some (BitVec.ofNat 64 (pNat c 8 8), BitVec.ofNat 64 (pNat c 16 8)) } s else s
    | none => s) s

/-- The final sums reach a member, which writes its entry (R426). -/
def takeStats (c : Cell) (_ : Ctx) (s : State) : State :=
  match runOf s c.flow with
  | some r => if r.st = 1 ∧ (r.stats = 1 ∨ r.stats = 2) then
      writeStats c.flow (BitVec.ofNat 64 (pNat c 8 8)) (BitVec.ofNat 64 (pNat c 16 8)) s else s
  | none => s

/-- STATS_RESULT (R426). -/
def effStatsResult (p : Nat) (c : Cell) (s : State) : State :=
  engineHbm p 3 2 c (fun x _ => [statsAt x / 64]) (takeStats c) s

/-- FETCH_NACK to a device. -/
def sendNack (id dst addr : Nat) (s : State) : State := sendLine id dst ([5, 0, 0, 0, 0, 0, 0, 0] ++ leBytes 8 addr) s

/-- The sectors that a FETCH_REQ reads; none where it names none. -/
def fetchSectors (c : Cell) (_ : Ctx) (_ : State) : List Nat :=
  let a := pNat c 8 8
  if a % 64 ≠ 0 ∨ hbmEnd < a + 64 * pNat c 16 4 then [] else sectorsOf a (64 * pNat c 16 4)

/-- A holder reads the named lines against the named version tag, or sends FETCH_NACK (R447). -/
def takeFetch (c : Cell) (_ : Ctx) (s : State) : State :=
  let a := pNat c 8 8
  let n := pNat c 16 4
  let v : W32 := BitVec.ofNat 32 (pNat c 20 4)
  if a % 64 ≠ 0 ∨ hbmEnd < a + 64 * n then sendNack c.flow c.src a s
  else match readHbm s a n v with
    | .lines ls => pushLines c.flow c.src none (ls.zipIdx.map (fun l => (l.2, l.1.1, l.1.2))) s
    | .sectors bad => sendNack c.flow c.src a (fabricBad bad v s)
    | _ => s

/-- FETCH_REQ (R447). -/
def effFetchReq (p : Nat) (c : Cell) (s : State) : State := engineHbm p 4 7 c (fetchSectors c) (takeFetch c) s

/-- FETCH_NACK (R447). -/
def effFetchNack (p : Nat) (c : Cell) (s : State) : State :=
  engineIn p 5 7 c (fun _ s =>
    ((fetchesOf s c.flow c.src).filter (fun x => match entryOf s x.1 x.2 with
      | some e => decide (e.addr = pNat c 8 8)
      | none => false)).foldl (fun s x => nextHolder x.1 x.2 s) s) s

/-- Whether the holder that a PEER recovery has asked has answered with every line. -/
def answered (e : LEntry) : Bool := (List.range (dLines e.desc)).all (fun j => (Tab.find (e.fetched.get [] e.holder) j).isSome)

/-- FETCH_TIMEOUT (R447): a holder has given no answer. -/
def effFetchTimeout (d i : Nat) (s : State) : State :=
  match entryOf s d i with
  | some e => if d < 4 ∧ !(answered e) then fabEnd (nextHolder d i s) else s
  | none => s

/-- STREAM_TOTAL (R441). -/
def effStreamTotal (p : Nat) (c : Cell) (s : State) : State :=
  engineIn p 6 5 c (fun _ s => match s.mer.rebl with
    | some b =>
      if b.stage = 3 ∧ b.base ≤ c.flow then
        setRebl { b with total := b.total.put (streamKey (c.flow - b.base) c.src) (pNat c 4 4) } s
      else s
    | none => s) s

/-- Where a member's shard of a stripe stands (R443). -/
def shardBase (x : Ctx) : Nat := if cSelf x + 2 < cMembers x then cSrc x else cDst x

/-- The sectors that a STRIPE_REQ reads. -/
def stripeSectors (c : Cell) (x : Ctx) (_ : State) : List Nat :=
  if cLines x < pNat c 4 4 + pNat c 8 4 then [] else sectorsOf (shardBase x + 64 * pNat c 4 4) (64 * pNat c 8 4)

/-- A member's lines are read against the context's version tag; one that cannot read them is silent (R446). -/
def takeStripe (c : Cell) (x : Ctx) (s : State) : State :=
  let first := pNat c 4 4
  let n := pNat c 8 4
  if cLines x < first + n then s
  else
    let v := runVer s x
    match readHbm s (shardBase x + 64 * first) n v with
    | .lines ls =>
      if decide (cSelf x + 2 < cMembers x) && ls.any (fun l => decide (l.2 ≠ 0)) then s
      else pushLines c.flow c.src none (ls.zipIdx.map (fun l => (first + l.2, l.1.1, l.1.2))) s
    | .sectors bad => fabricBad bad v s
    | _ => s

/-- STRIPE_REQ (R446). -/
def effStripeReq (p : Nat) (c : Cell) (s : State) : State := engineHbm p 7 6 c (stripeSectors c) (takeStripe c) s

/-- STRIPE_P_TIMEOUT (R446): Q is asked; without PERMIT the recovery ends (R392). -/
def effStripePTimeout (d i : Nat) (s : State) : State :=
  match entryOf s d i with
  | none => s
  | some e => match ctxOf s (dArg e.desc) with
    | none => s
    | some x =>
      let k := cMembers x - 2
      let n := dLines e.desc
      let here := (List.range n).all (fun j => (Tab.find (e.fetched.get [] k) j).isSome)
      match shardLine x e with
      | some l =>
        let id := dArg e.desc
        let q := cMember x (k + 1)
        if d < 4 ∧ e.recov = 3 ∧ !e.askedQ ∧ !here then
          if !(permitted s (ctxDie id) q) then fabEnd (ledgerGo (recoveryFails d e 2 s)) else
          fabEnd (grant q id n (sendLine id q
            ([7, 0, 0, 0] ++ leBytes 4 l ++ leBytes 4 n ++ [BitVec.ofNat 8 (cSelf x)]) (setEntry d { e with askedQ := true } s)))
        else s
      | none => s

/-! ### Cells held for a stack in self-refresh (R301) -/

/-- A held engine request is served when its sectors can be read, or is held again. -/
def requestAgain (h : HeldCell) (kind : Nat) (secs : Ctx → State → List Nat) (f : Ctx → State → State) (s : State) : State :=
  dataTake h.link h.cell (fun x s =>
    if cKind x = kind ∧ inSelfRefresh s (secs x s) then holdCell h.op h.link 0 h.cell s else takeLine kind h.cell f x s) s

/-- A held cell takes effect, or is held again. -/
def heldIn (h : HeldCell) (s : State) : State :=
  let c := h.cell
  match h.op with
  | 0 => dataTake h.link c (landOrHold h.link c h.aux) s
  | 3 => requestAgain h 2 (fun x _ => [statsAt x / 64]) (takeStats c) s
  | 4 => requestAgain h 7 (fetchSectors c) (takeFetch c) s
  | _ => requestAgain h 6 (stripeSectors c) (takeStripe c) s

/-- The cells that were held take effect, oldest first. -/
def heldGo (s : State) : State :=
  s.mer.heldCells.foldl (fun s h => heldIn h s) { s with mer := { s.mer with heldCells := [] } }

/-- An effect without what it writes to HBM. -/
def noWrites (f : State → State) (s : State) : State := { f s with hbm := s.hbm, hbmCk := s.hbmCk, stack := s.stack }

/-- What a held cell does after 1 ms: a write is discarded, a read fails (R301, R304). -/
def heldLapse (h : HeldCell) (s : State) : State :=
  let c := h.cell
  match h.op with
  | 0 => dataTake h.link c (fun x s => noWrites (landData h.link c h.aux x) s) s
  | 3 => dataTake h.link c (takeLine 2 c (fun x s => noWrites (takeStats c x) s)) s
  | 4 => dataTake h.link c (takeLine 7 c (fun _ s => sendNack c.flow c.src (pNat c 8 8) s)) s
  | _ => dataTake h.link c (takeLine 6 c (fun _ s => s)) s

/-- The oldest held cell has waited 1 ms. -/
def cellTimeout (s : State) : State :=
  match s.mer.heldCells with
  | [] => s
  | h :: hs => fabEnd (heldLapse h { s with mer := { s.mer with heldCells := hs } })

/-- The source read, or the landing, of run `id` has waited 1 ms: a source error (R301, R414). -/
def runTimeout (id : Nat) (s : State) : State :=
  match ctxOf s id, runOf s id with
  | some c, some r => if r.st = 0 ∧ runSleeps s c then fabEnd (raiseOn id 4 s) else s
  | _, _ => s

/-! ### BARRIER, ABORT and TEST cells -/

/-- BARRIER_CELL (R430, R431): rounds of the current instance of a context and of the next are kept. -/
def effBarrierCell (p : Nat) (c : Cell) (s : State) : State :=
  if c.typ ≠ 3 then s
  else fabEnd (front p c (fun s => match ctxOf s c.flow with
    | none => s
    | some x =>
      let inst := pNat c 0 4
      let r := pNat c 4 1
      let m := cMembers x
      let e := (inst, pNat c 5 1, r)
      if c.epoch = cEpoch x ∧ (inst = x.runs ∨ inst = (x.runs + 1) % 2 ^ 32) ∧ r < 7
          ∧ c.src = cMember x ((cSelf x + 128 * m - 2 ^ r) % m) ∧ !(x.rounds.contains e) then
        setCtx s c.flow { x with rounds := x.rounds ++ [e] }
      else s) s)

/-- An ABORT of one flow: its run, its FPUTs, or the permute that it belongs to, which ends at every member (R433, R442). -/
def abortFlow (a : AbortInfo) (id : Nat) (s : State) : State :=
  match s.mer.rebl with
  | some b =>
    if b.permute ∧ 1 ≤ b.stage ∧ b.stage ≤ 4 ∧ b.base ≤ id ∧ id < b.base + b.count then raiseOn b.base a.cause s else abortCtx a id s
  | none => abortCtx a id s

/-- ABORT_CELL (R432, R433). -/
def effAbortCell (p : Nat) (c : Cell) (s : State) : State :=
  if c.typ ≠ 4 then s
  else fabEnd (front p c (fun s =>
    let a : AbortInfo := { group := pNat c 0 2, cause := pNat c 2 1, serial := BitVec.ofNat 32 (pNat c 4 4), origin := pNat c 8 2 }
    if s.mer.aborts.contains (a.origin, a.serial) then s
    else
      let s := { s with mer := { s.mer with aborts := (a.origin, a.serial) :: s.mer.aborts } }
      if a.group = 0xFFFF then abortFlow a (pNat c 10 2) s
      else abortGroup a (spreadAbort a (pNat c 10 2) (pNat c 12 1) s)) s)


/-- UNKNOWN_CELL_TYPE (R355, R357). -/
def effUnknownCellType (p : Nat) (s : State) : State := if receiving s p then countType p s else s

/-! ### Return entries (Table 10.4) -/

/-- An ACK frees cells and their credits (R356, R368, R383). -/
def takeAck (src : Nat) (e : W64) (s : State) : State :=
  let flow := fld e 8 16
  let seq := fld e 24 12
  let n := fld e 36 12
  let mine := fun (c : Cell) => decide (c.typ = 1 ∧ c.src = ownGid s ∧ c.dst = src ∧ c.flow = flow ∧ (c.seq + 4096 - seq) % 4096 < n)
  let done := s.mer.sent.filter (fun x => mine x.cell)
  let s := done.foldl (fun s x =>
    let k := linkOf s x.link
    match k.hist.find? (fun h => h.2 = x.cell) with
    | some h => setLink s x.link { k with good := k.good.put src (max (k.good.get 0 src) h.1) }
    | none => s) s
  let s := { s with mer := { s.mer with
    sent := s.mer.sent.filter (fun x => !mine x.cell), tx := s.mer.tx.filter (fun t => !mine t.cell) } }
  let d := photOf s (ctxDie flow)
  setPhot s (ctxDie flow) { d with puts := d.puts.map (fun q =>
    if q.ctx = flow then { q with seqs := q.seqs.filter (fun x => !(decide ((x + 4096 - seq) % 4096 < n))) } else q) }

/-- A CREDIT grants landing lines (R281). -/
def takeCredit (src : Nat) (e : W64) (s : State) : State :=
  let flow := fld e 8 16
  match ctxOf s flow with
  | some x => setCtx s flow { x with credit := x.credit.put src (x.credit.get 0 src + fld e 48 16) }
  | none => s

/-- A LOST entry resends the cell of a period (R383, R431). -/
def takeLost (src : Nat) (e : W64) (s : State) : State :=
  let p := fld e 48 6
  let k := linkOf s p
  match k.hist.find? (fun h => decide (h.1 = k.good.get 0 src + fld e 36 12)) with
  | none => s
  | some (_, c) =>
    if c.typ ≠ 1 then (if nextHop s (linkDie p) c.dst = src ∨ c.dst = src then queueCell (cellClass c) c s else s)
    else if c.src ≠ ownGid s then s
    else match s.mer.sent.find? (fun x => decide (x.cell = c ∧ x.link = p)) with
      | some x => { s with mer := { s.mer with
          sent := s.mer.sent.erase x, tx := { TxCell.plain 5 c with avoid := some p } :: s.mer.tx } }
      | none => s

/-- A MISROUTE entry withdraws a link (R383, R388, R389). -/
def takeMisroute (e : W64) (s : State) : State := settlePlan (mislock (fld e 48 6) 3 s)

/-- A return entry from a device. -/
def takeEntry (src : Nat) (e : W64) (s : State) : State :=
  match fld e 0 4 with
  | 1 => takeAck src e s
  | 2 => takeCredit src e s
  | 3 => takeLost src e s
  | 4 => takeMisroute e s
  | _ => s

/-- What follows return entries: old leases may end, and cells may be sent. -/
def afterEntries (s : State) : State := fabEnd (leaseGo (endOlds s))

/-- One entry of a leased block's return field, of a kind. -/
def entryIn (kind src : Nat) (e : W64) (s : State) : State :=
  if fld e 0 4 = kind ∧ src < 1024 then afterEntries (takeEntry src e s) else s

def effAck (src : Nat) (e : W64) (s : State) : State := entryIn 1 src e s
def effCredit (src : Nat) (e : W64) (s : State) : State := entryIn 2 src e s
def effLost (src : Nat) (e : W64) (s : State) : State := entryIn 3 src e s
def effMisroute (src : Nat) (e : W64) (s : State) : State := entryIn 4 src e s

/-- The sender of a period lost on a link: the leased source that the local oscillator still hears, or the scheduled address
sender (R384). -/
def periodSource (s : State) (p : Nat) : Option Nat :=
  if (linkOf s p).state = 1 then
    match slotOffset s p with
    | some 0 => none
    | some k => some (64 * s.boot.domain + (s.boot.device + 64 - k) % 64)
    | none => none
  else some ((linkOf s p).rxHold.getD (linkOf s p).rxGid)

/-- PERIOD_LOST (R384): `count` periods from the last good one of that sender. -/
def effPeriodLost (p count : Nat) (s : State) : State :=
  if !(receiving s p) ∨ count = 0 ∨ 1023 < count then s
  else
    let k := linkOf s p
    let s := setLink s p { k with lost := satInc 0xFFFF k.lost, clean := false }
    match periodSource s p with
    | some g => owe g 3 0 0 count p s
    | none => s

/-! ### CONTROL cells (Table 10.5) -/

/-- A CONTROL cell of a subtype. -/
def controlIn (p sub : Nat) (c : Cell) (f : State → State) (s : State) : State :=
  if c.typ = 2 ∧ pNat c 0 1 = sub then front p c f s else s

/-- RETURN (R356). -/
def effReturn (p : Nat) (c : Cell) (s : State) : State :=
  controlIn p 1 c (fun s => afterEntries ((List.range 31).foldl (fun s i =>
    takeEntry c.src (BitVec.ofNat 64 (pNat c (8 + 8 * i) 8)) s) s)) s

/-- The reason for which an offer is refused (Table 10.10); none when it is accepted. -/
def offerFault (s : State) (c : Cell) : Option Nat :=
  let q := pNat c 12 1
  let k := linkOf s q
  if s.mer.planId = 0 ∨ s.mer.planId.toNat ≠ pNat c 8 4 then some 1
  else if !k.rxEn ∨ k.rxGid ≠ c.src then some 2
  else if !k.rxLock ∨ k.rxHold.isSome ∨ k.rxLine ≠ pNat c 13 1 ∨ !k.clean then some 3
  else if !(permitted s (linkDie q) c.src) then some 4
  else none

/-- LEASE_OFFER (R377, step 5). -/
def effLeaseOffer (p : Nat) (c : Cell) (s : State) : State :=
  controlIn p 2 c (fun s =>
    let q := pNat c 12 1
    if 64 ≤ q then s
    else
      let body := (payload c).drop 8 |>.take 6
      match offerFault s c with
      | none => sendControl c.src 3 body s
      | some r =>
        let s := sendControl c.src 4 (body ++ [BitVec.ofNat 8 r]) s
        if r = 3 then setLink s q { linkOf s q with clean := true } else s) s

/-- Whether an answer concerns the offer that a link has made. -/
def answers (s : State) (c : Cell) : Bool :=
  let q := pNat c 12 1
  let k := linkOf s q
  decide (q < 64 ∧ k.state = 2 ∧ k.ending = none ∧ k.txGid = c.src ∧ s.mer.planId.toNat = pNat c 8 4 ∧ k.txLine = pNat c 13 1)
  && k.txEn && k.txLock

/-- LEASE_ACCEPT (R377, step 6). -/
def effLeaseAccept (p : Nat) (c : Cell) (s : State) : State :=
  controlIn p 3 c (fun s =>
    if !(answers s c) then s
    else
      let q := pNat c 12 1
      let s := setLink s q { linkOf s q with state := 3, changing := false }
      leaseGo (settlePlan (if 4 ≤ s.pwr.sagStage then parkPorts s else s))) s

/-- LEASE_REFUSE (R377). -/
def effLeaseRefuse (p : Nat) (c : Cell) (s : State) : State :=
  controlIn p 4 c (fun s =>
    if !(answers s c) then s
    else
      let q := pNat c 12 1
      let r := pNat c 14 1
      if r = 1 ∨ r = 3 then setLink s q { linkOf s q with reason := r } else leaseGo (settlePlan (refuseLink q r s))) s

/-- LEASE_END (R377, step 4). -/
def effLeaseEnd (p : Nat) (c : Cell) (s : State) : State :=
  controlIn p 5 c (fun s =>
    let q := pNat c 12 1
    if 64 ≤ q then s
    else if (linkOf s q).rxHold = some c.src then retuneRx q s
    else if (linkOf s q).rxEn ∧ (linkOf s q).rxHold = none ∧ (linkOf s q).rxGid = c.src then
      setLink s q { linkOf s q with rxEnded := true }
    else s) s

/-- CAL_NOTICE (R396): IDLE blocks for the outage, in 20 ns ticks. -/
def effCalNotice (p : Nat) (c : Cell) (s : State) : State :=
  controlIn p 6 c (fun s =>
    let q := pNat c 12 1
    let k := linkOf s q
    if q < 64 ∧ k.txEn ∧ k.txGid = c.src then
      setLink s q { k with idleUntil := BitVec.ofNat 64 (s.aoCount.toNat + 50 * pNat c 16 4) }
    else s) s

/-- SHUTTER (R399): the link aimed at the sender is gated. -/
def effShutter (p : Nat) (c : Cell) (s : State) : State :=
  controlIn p 7 c (fun s =>
    let q := pNat c 12 1
    if q < 64 ∧ aim (linkOf s q) = some c.src then leaseGo (settlePlan (gateLink q s)) else s) s

/-- ADDR_REPORT (R369). -/
def effAddrReport (p : Nat) (c : Cell) (s : State) : State :=
  controlIn p 8 c (fun s =>
    if s.mer.coordinator ∧ pNat c 12 1 < planeCount s then takeReport (pNat c 12 1) (decide (pNat c 13 1 = 1)) s else s) s

/-- ADDR_SET (R369). -/
def effAddrSet (p : Nat) (c : Cell) (s : State) : State :=
  controlIn p 9 c (fun s =>
    if !s.mer.coordinator ∧ c.src = 64 * s.boot.domain + s.mer.coordId then
      { s with mer := { s.mer with addrNext := some (pNat c 8 2), calPlane := pNat c 10 1, setSeen := true, unsure := false } }
    else s) s

/-- A TIMING cell with the send stamp, a free time within the super-frame, and an echoed stamp (Table 10.5). -/
def sendTiming (dst : Nat) (echo : List Byte) (s : State) : State :=
  let (v, s) := drawWord s
  sendControl dst 10 (leBytes 8 (v.toNat % 393216) ++ echo) s

/-- TIMING (R366): the coordinator echoes the stamp; another package takes the offset that it measures. -/
def effTiming (p : Nat) (c : Cell) (off : Nat) (s : State) : State :=
  controlIn p 10 c (fun s =>
    if s.mer.coordinator then sendTiming c.src (((payload c).drop 8).take 8) s
    else if c.src = 64 * s.boot.domain + s.mer.coordId then
      setLink s p { linkOf s p with domOff := off % 65536 }
    else s) s

/-- BEACON (R366, R369, R371): the package of lowest id that sends one is the coordinator. With each BEACON of it a package
measures its offset anew, and where no ADDR_SET has come with the BEACON its planes are not confirmed. -/
def effBeacon (p : Nat) (c : Cell) (s : State) : State :=
  controlIn p 11 c (fun s =>
    let dev := c.src % 64
    if !(ownDomain s c.src) ∨ dev = s.boot.device then s
    else
      let s := if !s.mer.coordSeen ∨ dev < s.mer.coordId then setCoordinator dev s else s
      if dev = s.mer.coordId ∧ !s.mer.coordinator then
        sendTiming c.src (List.replicate 8 0) (settlePlanes { s with mer := { s.mer with
          beacon16 := decide (pNat c 8 1 = 16), setSeen := false, unsure := !s.mer.setSeen } })
      else s) s

/-! ### Registers of the fabric engines (R416, R422, R432) -/

/-- FAB_ABORT.RAISE (R432). -/
def effFabAbortRaise (d group : Nat) (s : State) : State :=
  hostWriteReady (fun s => if (d = 5 ∨ d = 6) ∧ group < 0xFFFF then fabEnd (raiseAbort group 8 0xFFFF s) else s) s

/-- FAB_CLEAR.CLEAR_DROP. -/
def effFabClearDrop (d : Nat) (s : State) : State :=
  hostWriteReady (fun s => if d = 5 ∨ d = 6 then
    setPhot s d { photOf s d with fabNo := 0, fabEpoch := 0, fabBad := 0, fabQuiet := 0 } else s) s

/-- FAB_CLEAR.CLEAR_SAT. -/
def effClearSat (d : Nat) (s : State) : State :=
  hostWriteReady (fun s => if d = 5 ∨ d = 6 then setPhot s d { photOf s d with fabSat := 0 } else s) s

end Sys2Proof.Machine
end

