-- ==== Sys2Proof/Machine/DieLinks.lean ====
section
/-! DEFINITION. DieLinks: ports, routes, agreement on width, and the companion site (chapter 12). -/

namespace Sys2Proof.Machine

/-! ### Ports (Table 12.2) -/

/-- The modules of port `p` of die `d`; 0 when there is no such port. -/
def portModules (d p : Nat) : Nat :=
  if d < 4 then (if p < 2 then 12 else if p < 5 then 4 else 0)
  else if d = 4 then (if p < 4 then 4 else if p = 4 then 8 else 0)
  else if d < 7 ∧ p < 4 then 4 else 0

/-- The die and the port at the other end. -/
def portPeer (d p : Nat) : Nat × Nat :=
  if d < 4 then
    (if p = 0 then (d ^^^ 1, 0) else if p = 1 then (d ^^^ 2, 1) else (p + 2, d))
  else if d = 4 ∧ p = 4 then (7, 0)
  else (p, d - 2)

/-- A port; hub port 4 ships in standard mode (R453). -/
def portOf (s : State) (d p : Nat) : Port := s.d2d.ports.get (Port.reset (decide (d = 4 ∧ p = 4))) (16 * d + p)
def setPort (s : State) (d p : Nat) (x : Port) : State := { s with d2d := { s.d2d with ports := s.d2d.ports.put (16 * d + p) x } }
def setComp (s : State) (x : Comp) : State := { s with d2d := { s.d2d with comp := x } }

/-- Both ends of a port changed. -/
def setEnds (d p : Nat) (f : Port → Port) (s : State) : State :=
  let e := portPeer d p
  let s := setPort s d p (f (portOf s d p))
  if e.1 = 7 then s else setPort s e.1 e.2 (f (portOf s e.1 e.2))

/-- The end that keeps the manager's agreement: that of the lower-numbered die. -/
def agreeEnd (d p : Nat) : Nat × Nat := if (portPeer d p).1 < d then portPeer d p else (d, p)

/-- Every module at full width (R454). -/
def fullWidth (d p : Nat) : List Nat := List.replicate (portModules d p) 2
/-- The WIDTH field of Table 12.8. -/
def widthField (l : List Nat) : Nat := (l.zipIdx.map (fun x => x.1 % 4 * 4 ^ x.2)).sum
/-- The lower of two widths, module by module. -/
def lowerWidth (a b : List Nat) : List Nat := List.zipWith min a b

/-- A record of a port: D1-D3 as R469 gives them. -/
def portRec (d p cls out : Nat) (s : State) : State :=
  let e := portPeer d p
  record { unit := unitDie d 11 p, cls := cls, outcome := out, d1 := BitVec.ofNat 32 (p + 16 * e.1)
           d2 := BitVec.ofNat 32 (widthField (portOf s d p).width)
           d3 := BitVec.ofNat 32 (widthField (if e.1 = 7 then (portOf s d p).width else (portOf s e.1 e.2).width)) } s

/-! ### Routes (R455) -/

/-- The port of a die that leads to another. -/
def portTo (d e : Nat) : Option Nat := (List.range 5).find? (fun p => decide (portModules d p ≠ 0 ∧ (portPeer d p).1 = e))

/-- Whether two dies have a common port that is up and not held. -/
def direct (s : State) (d e : Nat) : Bool :=
  match portTo d e with
  | some p => decide ((portOf s d p).state = 2)
  | none => false

/-- Whether a path of at most `n` ports leads from a die to another, over compute dies. -/
def reach (s : State) : Nat → Nat → Nat → Bool
  | 0, _, _ => false
  | n + 1, d, e => direct s d e || [0, 1, 2, 3].any (fun i => decide (i ≠ d) && direct s d i && reach s n i e)

/-- The die to which a transaction goes next: the peer itself, else the lowest first intermediate of a shortest
path. -/
def nextDie (s : State) (d e : Nat) : Option Nat :=
  if direct s d e then some e
  else if e = 7 ∨ d = 7 then none
  else
    match [1, 2, 3, 4].find? (fun n => [0, 1, 2, 3].any (fun i => decide (i ≠ d) && direct s d i && reach s n i e)) with
    | some n => [0, 1, 2, 3].find? (fun i => decide (i ≠ d) && direct s d i && reach s n i e)
    | none => none

/-- The ports of the package, by die and port, but for the companion's. -/
def allPorts : List (Nat × Nat) :=
  (([0, 1, 2, 3, 4, 5, 6].map (fun d => (List.range 5).map (fun p => (d, p)))).flatten).filter
    (fun k => decide (portModules k.1 k.2 ≠ 0 ∧ (portPeer k.1 k.2).1 ≠ 7))

/-- ALT_ROUTE of every port follows the routes (Table 12.8). -/
def settleAlts (s : State) : State :=
  allPorts.foldl (fun s k =>
    let x := portOf s k.1 k.2
    let alt := decide (x.state = 1 ∨ x.state = 3 ∨ x.state = 4) && (nextDie s k.1 (portPeer k.1 k.2).1).isSome
    setPort s k.1 k.2 { x with alt := alt }) s

/-- ROUTE_CHANGE (R456): a port that was up carries nothing now; its traffic takes another route if there is one. -/
def leftUp (d p : Nat) (s : State) : State :=
  let s := settleAlts s
  if (portOf s d p).alt then portRec d p 0x0507 1 (setEnds d p (fun x => { x with altRec := true }) s) else s

/-- The direct route of a port is in use again. -/
def backUp (d p : Nat) (s : State) : State :=
  let s := settleAlts s
  if (portOf s d p).altRec then portRec d p 0x0507 2 (setEnds d p (fun x => { x with altRec := false }) s) else s

/-- The first die, not in die reset, that has no route to the hub (R457). -/
def cutOff (s : State) : Option Nat :=
  [0, 1, 2, 3, 5, 6].find? (fun d =>
    !(if d < 4 then (dieOf s d).inReset else (photOf s d).inReset) && (nextDie s d 4).isNone)

/-! ### Training and agreement (R458-R462) -/

/-- A width is recorded as degraded at both ends (R460, R462). -/
def recordWidth (d p : Nat) (w : List Nat) (s : State) : State :=
  let e := portPeer d p
  { s with flash := { s.flash with widths := (s.flash.widths.put (16 * d + p) w).put (16 * e.1 + e.2) w } }

/-- PORT_DEGRADED with the number of modules narrowed below the recorded width, when there is one. -/
def degrade (d p : Nat) (w : List Nat) (s : State) : State :=
  let old := s.flash.widths.get (fullWidth d p) (16 * d + p)
  let n := ((List.zip w old).filter (fun x => decide (x.1 < x.2))).length
  if w = fullWidth d p then s
  else
    let s := recordWidth d p w s
    if n = 0 then s else portRec d p 0x0502 n s

/-- The rate of every module between dies of the package, in GT/s (R451). -/
def dieRate : Nat := 32

/-- Both sides report the same width: traffic resumes, or the port is down (R462). A cold start clears the record of a
port at full width (R461). -/
def agreed (d p : Nat) (w : List Nat) (mis : Option Nat) (s : State) : State :=
  let e := portPeer d p
  let off := w.all (fun x => decide (x = 0))
  let s := setEnds d p (fun x => { x with
    state := if off then 4 else 2, width := w, degraded := decide (w ≠ fullWidth d p)
    agree := none, speed := if e.1 = 7 then x.speed else dieRate, std := x.cfgStd }) s
  let s := if w = fullWidth d p ∧ s.boot.starting ∧ s.boot.kind = 1 then
      { s with flash := { s.flash with widths := (s.flash.widths.del (16 * d + p)).del (16 * e.1 + e.2) } }
    else degrade d p w s
  let s := match mis with
    | some o => portRec d p 0x0503 o s
    | none => s
  if off then leftUp d p (portRec d p 0x0504 2 s) else backUp d p s

/-- A retrain at forced widths begins (R462, step 2). -/
def forceRetrain (d p : Nat) (a : Agree) (s : State) : State :=
  let c := agreeEnd d p
  let s := setEnds d p (fun x => { x with state := 3, retrain := satInc 0xFFFF x.retrain }) s
  setPort s c.1 c.2 { portOf s c.1 c.2 with agree := some a }

/-- The widths that both sides report after a training (R462). -/
def sidesTrained (d p : Nat) (mine peer : List Nat) (s : State) : State :=
  let e := portPeer d p
  let c := agreeEnd d p
  let low := lowerWidth mine peer
  let s := setPort s d p { portOf s d p with width := mine }
  let s := if e.1 = 7 then s else setPort s e.1 e.2 { portOf s e.1 e.2 with width := peer }
  match (portOf s c.1 c.2).agree with
  | none =>
    if mine = peer then agreed d p mine none s
    else
      let s := setEnds d p (fun x => { x with mismatch := satInc 0xFF x.mismatch }) s
      settleAlts (forceRetrain d p { failed := 0, forced := low, reached := low, last := false } s)
  | some a =>
    let reached := lowerWidth a.reached low
    if mine = peer ∧ mine = a.forced then agreed d p mine (some (if a.last then 2 else 1)) s
    else if a.last then
      let s := setEnds d p (fun x => { x with state := 4, agree := none }) s
      leftUp d p (portRec d p 0x0504 1 s)
    else if a.failed = 2 then
      forceRetrain d p { failed := 3, forced := reached, reached := reached, last := true } (degrade d p reached s)
    else forceRetrain d p { failed := a.failed + 1, forced := low, reached := reached, last := false } s

/-- D2D_PORT_STATUS.RETRAINS. -/
def portRetrains (s : State) (d p : Nat) : Nat :=
  let c := agreeEnd d p
  match (portOf s c.1 c.2).agree with
  | some a => a.failed
  | none => 0

/-- Whether a port can report a training: it is one of the manager's, and it trains or is held for a retrain; the companion's
trains for admission in a start, and reports later retrains here. -/
def mayTrain (s : State) (d p : Nat) (mine peer : List Nat) : Bool :=
  (allPorts.contains (d, p) || decide (d = 4 ∧ p = 4)) && decide (mine.length = portModules d p ∧ peer.length = portModules d p)
  && (mine ++ peer).all (fun w => decide (w < 3))
  && decide ((portOf s d p).state = 1 ∨ (portOf s d p).state = 3)

/-- The times among `l` that lie no more than `n` ticks before now. -/
def withinTicks (s : State) (n : Nat) (l : List W64) : List W64 := l.filter (fun t => decide ((s.aoCount - t).toNat ≤ n))

/-- A flit of a module fails its CRC for the `nth` time (R459, R460): counted; the 32nd retry within 100 µs, or the
eighth of one flit, retrains the module and holds the port. -/
def flitError (d p m nth : Nat) (s : State) : State :=
  let x := portOf s d p
  let times := withinTicks s 5000 (x.retries.get [] m) ++ [s.aoCount]
  let x := { x with crc := satInc 0xFFFFFFFF x.crc }
  if times.length < 32 ∧ nth < 8 then setPort s d p { x with retries := x.retries.put m times }
  else
    let holds := withinTicks s 50000000 (x.holds.get [] m) ++ [s.aoCount]
    let bad := decide (3 ≤ holds.length)
    let s := setPort s d p { x with retries := x.retries.put m [], holds := x.holds.put m (if bad then [] else holds) }
    let s := setEnds d p (fun x => { x with
      state := 3, retrain := satInc 0xFFFF x.retrain, persist := if bad then satInc 0xFF x.persist else x.persist }) s
    leftUp d p (portRec d p 0x0501 1 s)

/-- D2D_PORT_CLEAR (Table 12.11); the hub's ports are usable before READY (R491). -/
def effD2dPortClear (d p : Nat) (s : State) : State :=
  hostAccess (fun s =>
    if portModules d p ≠ 0 ∧ (d = 4 ∨ s.boot.ready) then
      setPort s d p { portOf s d p with crc := 0, retrain := 0, mismatch := 0, persist := 0 }
    else s) s

/-! ### The companion (R464-R468) -/

/-- A field of the companion descriptor (Table 12.3). -/
def compField (desc : List Byte) (i n : Nat) : Nat := leNat ((desc.drop i).take n)

/-- The companion is admitted: die 7 is present (R41, R465). -/
def compPresent (s : State) : Bool := decide (s.d2d.comp.state = 3)

/-- COMPANION (0x0505). -/
def compRec (out : Nat) (s : State) : State := portRec 4 4 0x0505 out s

/-- The header of Table 12.6. -/
def compHeader (op tag status len addr : Nat) : List Byte :=
  [BitVec.ofNat 8 op, BitVec.ofNat 8 tag, BitVec.ofNat 8 status, BitVec.ofNat 8 len, 0, 0, 0, 0] ++ leBytes 8 addr

/-- REG_RD and REG_WR have natural alignment and 4 or 8 bytes (R19, R466). -/
def regSizeOk (y size : Nat) : Bool := decide ((size = 4 ∨ size = 8) ∧ y % size = 0 ∧ y < 0x100000)

/-- The register space of the companion ends at 2^REG_LOG2 (R467). -/
def compSpace (s : State) : Nat := 2 ^ compField s.d2d.comp.desc 3 1

/-- A request to the companion under the lowest free tag (R466). -/
def compAsk (r : CompReq) (s : State) : State :=
  let x := s.d2d.comp
  let tag := ((List.range (x.reqs.length + 1)).find? (fun t => (x.reqs.find t).isNone)).getD 0
  emit (.comp (compHeader (if r.write then 2 else 1) tag 0 (if r.size = 8 then 1 else 0) r.off
      ++ (if r.write then padTo 64 (leBytes r.size r.data.toNat) else [])))
    (setComp s { x with reqs := x.reqs.put tag r })

/-- Whether a read at offset `y` of the companion window reaches the companion (R17, R41, R467, R491). -/
def compReads (s : State) (y : Nat) : Bool := s.boot.ready && compPresent s && decide (y < compSpace s)

/-- REG_RD (R41, R467): a host read in the companion window. -/
def effRegRd (y size : Nat) (s : State) : State :=
  if !(regSizeOk y size) then s
  else hostRead (fun s => if compReads s y then compAsk ⟨false, y, size, 0, false⟩ s else emit (.regData 0) s) s

/-- REG_WR (R41, R467): a host write in the companion window, complete on the host link at once. -/
def effRegWr (y size : Nat) (data : W64) (s : State) : State :=
  if !(regSizeOk y size) then s
  else
    hostAccess (fun s =>
      if !s.boot.ready then s
      else if !(compPresent s) then regAccess 2 (0x300000 + y) size true data s
      else if compSpace s ≤ y then regAccess 9 (0x300000 + y) size true data s
      else compAsk ⟨true, y, size, data, s.mgt.viaDebug⟩ s) s

/-- A REG_WR that the companion did not carry out: cause 10, with its STATUS, or 0xF, at D3[19:16], and the interface that
made it (R585). -/
def regWrBad (r : CompReq) (status : Nat) (s : State) : State :=
  record { unit := if r.dbg then 0x4FFE0001#32 else 0x4FFC0000#32, cls := 0x0103, outcome := 10, d1 := BitVec.ofNat 32 (0x300000 + r.off)
           d3 := BitVec.ofNat 32 (r.size + 256 + 65536 * (status % 16))
           d4 := r.data.setWidth 32, d5 := (r.data >>> 32).setWidth 32 } s

/-- What a companion read returns, to the interface that made it. -/
def compGives (r : CompReq) (v : W64) (s : State) : State := emit (if r.dbg then .debugData v else .regData v) s

/-- A companion request has ended. -/
def compTake (tag : Nat) (s : State) : State :=
  setComp s { s.d2d.comp with reqs := s.d2d.comp.reqs.del tag }

/-- COMPANION_COMPLETION (R466, R467). The manual gives no data for a read that completes with a STATUS other than 0:
it is free. -/
def effCompanionCompletion (tag status : Nat) (data : List Byte) (s : State) : State :=
  match s.d2d.comp.reqs.find tag with
  | none => s
  | some r =>
    let s := compTake tag s
    if r.write then (if status = 0 then s else regWrBad r status s)
    else if status = 0 then compGives r (BitVec.ofNat 64 (leNat (data.take r.size))) s
    else
      let (v, s) := drawWord s
      compGives r (if r.size = 4 then v &&& 0xFFFFFFFF#64 else v) s

/-- COMPANION_REG_TIMEOUT (R467): no completion came within 100 µs. -/
def effCompanionRegTimeout (tag : Nat) (s : State) : State :=
  match s.d2d.comp.reqs.find tag with
  | none => s
  | some r =>
    let s := compTake tag s
    if r.write then regWrBad r 0xF s else compRec 6 (compGives r 0 s)

/-- HBM accesses of the companion use the aperture's VTAG, CHECK and STAG (R468). -/
def underAperture (f : State → State) (s : State) : State :=
  let x := s.d2d.comp
  let s' := f { s with xferVtag := x.apVtag, xferCheck := x.apCheck, xferStag := x.apStag }
  { s' with xferVtag := s.xferVtag, xferCheck := s.xferCheck, xferStag := s.xferStag }

/-- The completion of a companion read: the stored data, with STATUS 3 when a sector fails (R468). -/
def compReturn (hs : List Hit) (tag addr len : Nat) (s : State) : State :=
  underAperture (fun s =>
    let s := hitHbm hs s
    let r := readUntracked 7 (sectorsOf addr len) s
    emit (.comp (compHeader 5 tag (if r.1 = [] then 0 else 3) (len / 64 - 1) 0 ++ s.hbm.bytes addr len)) r.2) s

/-- A companion write. -/
def compStore (addr : Nat) (data : List Byte) (s : State) : State :=
  underAperture (fun s => bar2Sectors data.length addr data s) s

/-- A transaction outside the aperture, or with the aperture disabled (R468). -/
def compRefuse (tag : Nat) (s : State) : State :=
  emit (.comp (compHeader 5 tag 1 0 0)) (setComp s { s.d2d.comp with refused := satInc 0xFFFFFFFF s.d2d.comp.refused })

/-- Whether `len` bytes at an aperture offset lie within the aperture. -/
def inAperture (s : State) (addr len : Nat) : Bool :=
  s.d2d.comp.apEn && decide (addr + len ≤ s.d2d.comp.apSize * 2 ^ 30)

/-- MEM_RD (R468): LEN + 1 lines at an aperture offset. -/
def effMemRd (tag len addr : Nat) (hs : List Hit) (s : State) : State :=
  if !(compPresent s) ∨ 4 ≤ len then s
  else if !(inAperture s addr (64 * (len + 1))) then compRefuse tag s
  else
    let a := s.d2d.comp.apBase * 2 ^ 30 + addr
    let n := 64 * (len + 1)
    if inSelfRefresh s (sectorsOf a n) then setComp s { s.d2d.comp with held := s.d2d.comp.held ++ [⟨false, tag, a, [], n⟩] }
    else compReturn hs tag a n s

/-- MEM_WR (R468). -/
def effMemWr (tag len addr : Nat) (data : List Byte) (s : State) : State :=
  if !(compPresent s) ∨ 4 ≤ len ∨ data.length ≠ 64 * (len + 1) then s
  else if !(inAperture s addr data.length) then compRefuse tag s
  else
    let a := s.d2d.comp.apBase * 2 ^ 30 + addr
    if inSelfRefresh s (sectorsOf a data.length) then
      setComp s { s.d2d.comp with held := s.d2d.comp.held ++ [⟨true, tag, a, data, data.length⟩] }
    else compStore a data s

/-- Held companion transactions proceed when the stacks that they need have left self-refresh (R301). -/
def compResume (s : State) : State :=
  let h := s.d2d.comp.held
  h.foldl (fun s a =>
    if inSelfRefresh s (sectorsOf a.addr a.len) then setComp s { s.d2d.comp with held := s.d2d.comp.held ++ [a] }
    else if a.write then compStore a.addr a.data s
    else compReturn [] a.tag a.addr a.len s) (setComp s { s.d2d.comp with held := [] })

/-- The oldest held companion transaction has waited 1 ms: a read ends as a failing one, with free data, and a write is
discarded (R301, R304). -/
def compTimeout (s : State) : State :=
  match s.d2d.comp.held with
  | [] => s
  | a :: rest =>
    let s := setComp s { s.d2d.comp with held := rest }
    if a.write then s
    else
      let (bs, s) := drawBytes a.len s
      emit (.comp (compHeader 5 a.tag 3 (a.len / 64 - 1) 0 ++ bs)) s

/-- COMPANION_EVENT (R466, Table 12.7): the first 24 bytes of the line. -/
def effCompanionEvent (line : List Byte) (s : State) : State :=
  if !(compPresent s) then s
  else
    let w := fun i => BitVec.ofNat 32 (compField line (4 * i) 4)
    record { unit := unitDie 4 11 4, cls := 0x0506, d1 := w 0, d2 := w 1, d3 := w 2, d4 := w 3, d5 := w 4, d6 := w 5 } s

/-- Each half of D2D_COMP_APERTURE as a 64-bit register (Table 12.14). -/
def apertureLow (x : Comp) : W64 := BitVec.ofNat 64 (b2n x.apEn + at_ x.apBase 12 10 + at_ x.apSize 32 11)
def apertureHigh (x : Comp) : W64 := BitVec.ofNat 64 (x.apVtag.toNat + at_ x.apCheck 32 2 + at_ x.apStag 36 3)

/-- APERTURE_GIB of the admitted companion. -/
def apertureGib (s : State) : Nat := if compPresent s then compField s.d2d.comp.desc 10 2 else 0

/-- A half of D2D_COMP_APERTURE written whole; a write with a value that it cannot take is discarded. -/
def setAperture (high : Bool) (off size : Nat) (written v : W64) (s : State) : State :=
  let x := s.d2d.comp
  if high then
    if 4 < fld v 36 3 then regAccess 6 (0x80910 + off) size true written s
    else setComp s { x with apVtag := v.setWidth 32, apCheck := fld v 32 2, apStag := fld v 36 3 }
  else if 864 < fld v 12 10 + fld v 32 11 ∨ apertureGib s < fld v 32 11 then regAccess 6 (0x80910 + off) size true written s
  else setComp s { x with apEn := bit v 0, apBase := fld v 12 10, apSize := fld v 32 11 }

/-- A write to a 64-bit register at BAR0 offset `reg`, whole or in halves (R19): `off` is the offset within it, `cur`
its present value, `set` what a whole value does. -/
def writeHalves (reg off size : Nat) (v cur : W64) (set : W64 → W64 → State → State) (s : State) : State :=
  let drop := { s with pci := { s.pci with low := s.pci.low.del reg } }
  if size = 8 then set v v drop
  else if off % 8 = 0 then { s with pci := { s.pci with low := s.pci.low.put reg (v.setWidth 32) } }
  else
    let lo := match s.pci.low.find reg with
      | some x => x
      | none => cur.setWidth 32
    set (BitVec.ofNat 64 (fld v 0 32)) (BitVec.ofNat 64 (lo.toNat + fld v 0 32 * 2 ^ 32)) drop

/-- D2D_COMP_APERTURE_WRITE (R19, R305, R468): 4 or 8 bytes at offset 0-15 of the register. -/
def effD2dCompApertureWrite (off size : Nat) (v : W64) (s : State) : State :=
  if 16 ≤ off ∨ !(regSizeOk off size) then s
  else
    hostAccess (fun s =>
      let high := decide (8 ≤ off)
      let reg := if high then 0x80918 else 0x80910
      writeHalves reg off size v (if high then apertureHigh s.d2d.comp else apertureLow s.d2d.comp)
        (fun written w s => setAperture high off size written w s) s) s

end Sys2Proof.Machine
end

