-- ==== Sys2Proof/Machine/Reset.lean ====
section
/-! DEFINITION. Reset: what each kind of reset stops and loses, failed starts and the recovery state, and the reset of a
cluster, of a die and of the package (chapter 15; R478). -/

namespace Sys2Proof.Machine

/-! ### Cluster reset (R534) -/

/-- A core after its cluster's reset: queues, chains and patterns are lost, and every line that an unreleased entry wrote
is restored. -/
def quitCore (k : Core) : Core :=
  let k := undoEntries [] k k.window.reverse
  { k with
    qA := [], qB := [], qV := [], qP := [], runA := [], runB := [], runV := [], runP := [], window := [], arb := none
    chain := [], creg := [], pat := [], carryA := none, carryB := none, lastIss := [], wmark := [], rmask := [], lastPc := 0
    testBusy := false, testResult := 0, testItem := 0 }

/-- A cluster whose program is gone. -/
def quitCluster (c : Cluster) : Cluster :=
  { c with
    pc := 0, seq := 0, skipped := false, abortSeen := false, trapped := false, trapCode := 0, group := 0, sreg := []
    loops := [], page := none, prog := none, seen := [], heldOn := [], mover := [], updQ := [], fabQ := [], issued := []
    chainSet := [], chainOpen := false, chainsDone := [], levents := [], upd := none, updKernel := 0, updLayer := 0, occTesting := 15
    sensors := [0, 0, 0, 0] }

/-- Steps 1-6 of R534: issue stops, started instructions are cancelled, unreleased writes undone, the program's PENDING
tokens ABORTED, its runs aborted, and its GROUP_START completed ABORTED. -/
def cutCluster (cl : Nat) (s : State) : State :=
  let p := (clOf s cl).prog
  let d := dieOf s (cl / 8)
  let s := setDie s (cl / 8) { d with
    tmoves := d.tmoves.filterMap (fun t => if t.cl = cl then
        (if t.left = t.todo.length then none else some { t with todo := [], left := t.left - t.todo.length }) else some t) }
  let s := (List.range 9).foldl (fun s n => setCore s (9 * cl + n) (quitCore (coreOf s (9 * cl + n)))) s
  let s := abortTokens (cluIds s cl) s
  let s := stopRuns cl (dropPuts ((clOf s cl).fabQ.map (fun u => u.iid)) s)
  let s := setCl s cl (quitCluster (clOf s cl))
  match p with
  | some p => memberEnded cl p.cmd false s
  | none => s

/-- What waits may go on after a reset or the end of a hold. -/
def goOnAll (s : State) : State := fabEnd (heldGo (ledgerGo (compResume (bar2Resume (resumeWaiting (landHeld s))))))

/-! ### Stopping the package (R478, R529) -/

/-- Steps 1-3 of R478: every stream is disabled and reset, every running group stopped, every incomplete command ends
ABORTED, and every fabric run is aborted locally with cause HOST. -/
def stopPackage (s : State) : State :=
  let s := s.strm.foldl (fun s x => resetStream x.1 (setStrm s x.1 { strmOf s x.1 with enable := false })) s
  let s := (runningCls s).foldl (fun s c => trap c 5 { pc := (clOf s c).pc } s) s
  let s := s.cmds.foldl (fun s c => completeCmd c.no .aborted s) s
  let s := { s with hreq := [] }
  let a := fun (g : Nat) => ({ group := g, cause := 8, serial := s.mer.serial, origin := ownGid s } : AbortInfo)
  let s := (busyCtxs s).foldl (fun s id => abortCtx (a (((ctxOf s id).map cGroup).getD 0xFFFF)) id s) s
  match s.mer.rebl with
  | some b => if b.permute then abortRebl (a (((ctxOf s b.base).map cGroup).getD 0xFFFF)) s
      else { s with mer := { s.mer with rebl := none } }
  | none => s

/-- The registers that step 5 of R478 resets, and the configuration space. -/
def resetHostRegs (s : State) : State :=
  { s with
    evr := Evr.reset
    pci := { s.pci with msix := [], watch := [], winBase := 0, winLimit := 0, mse := false, bme := false, d3hot := false
                        low := [], latch := [] } }

/-- Steps 4 and 5 of R478, when every stopped group has ended. -/
def finishFlr (s : State) : State :=
  let s := zeroMemories (closeJob 0xFFFF { s with job := { s.job with opened := false } })
  goOnAll (resetHostRegs { s with pci := { s.pci with flr := false } })

/-! ### Volatile zeroisation (R555) -/

/-- LINK_SECURITY (Table 16.9). -/
def linkSecurity (out : Nat) (s : State) : State :=
  record { unit := 0x4FFC0000#32, cls := 0x0801, outcome := out, d1 := BitVec.ofNat 32 s.pci.ideStream } s

/-- Volatile CSPs are gone: derived, session and IDE keys. A stream without its keys stops, and after an error or at debug
level 2 it is insecure (R551, R554, R559). -/
def dropKeys (insecure : Bool) (s : State) : State :=
  let was := s.pci.ideState
  let s := { s with
    encl := { s.encl with idKey := false, aliasKey := false, idSeed := [], aliasSeed := []
                          sessions := [], ideSets := [], signing := [] }
    pci := { s.pci with ideState := if was = 0 then 0 else if insecure || decide (was = 3) then 3 else 0 } }
  if was = 2 then linkSecurity 3 s else s

/-- ZEROISED; the trigger is as Table 16.9 numbers it: 1 register, 2 message, 3 error, 4 debug, 5 warm reset. -/
def zeroise (trigger : Nat) (s : State) : State :=
  record { unit := 0x4FFE0000#32, cls := 0x0806, outcome := 1, d1 := BitVec.ofNat 32 trigger }
    (dropKeys (decide (trigger = 3 ∨ trigger = 4)) s)

/-- 32 bytes of the DRBG: a free value (R558). -/
def newChallenge (s : State) : State :=
  let (bs, s) := drawBytes 32 s
  { s with encl := { s.encl with challenge := bs } }

/-- ENCLAVE_ERROR (R554); the manual does not number the tests, so a test's number is free. -/
def enclaveError (out : Nat) (s : State) : State :=
  let (v, s) := drawWord s
  let n := fld v 0 8
  let s := record { unit := 0x4FFE0000#32, cls := 0x0805, outcome := out, d1 := BitVec.ofNat 32 n } s
  zeroise 3 { s with encl := { s.encl with state := if s.encl.udsBlown then 4 else 3, failedTest := n } }

/-! ### What the resets lose -/

/-- A stream after a warm reset: its buffer and its skip log stay (R529, Tables 2.1, 2.2, 2.4). -/
def warmStrm (x : Stream) : Stream := { x with lastTag := 0, enable := false, pause := false, select := 0, rested := false }

/-- A core after a warm reset: its counters and health marks stay. -/
def warmCore (k : Core) : Core :=
  { Core.reset with
    sat := k.sat, replay := k.replay, replayLast := k.replayLast, bOff := k.bOff, nTransient := k.nTransient
    nDatapath := k.nDatapath, nChecker := k.nChecker, nVoid := k.nVoid, nMoveRepeat := k.nMoveRepeat, dp := k.dp
    ck := k.ck, lastEvent := k.lastEvent, failed := k.failed, spadFailed := k.spadFailed, lineErr := k.lineErr }

/-- A cluster after a warm reset: lane map, tokens, counters, health and settings stay. -/
def warmCluster (c : Cluster) : Cluster :=
  { Cluster.reset with
    lanes := c.lanes, spare := c.spare, retired := c.retired, mapState := c.mapState, tok := c.tok, plateErr := c.plateErr
    nonfiniteSeen := c.nonfiniteSeen, nonfinite := c.nonfinite, satM1 := c.satM1, satM2 := c.satM2, satW := c.satW
    updMain := c.updMain, updDup := c.updDup, updArb := c.updArb, updReduced := c.updReduced
    updTransient := c.updTransient, updMinority := c.updMinority, replaySummary := c.replaySummary
    occEnable := c.occEnable, occPeriod := c.occPeriod, occNext := c.occNext, occPostponed := c.occPostponed
    occRotations := c.occRotations, removals := c.removals, cap := c.cap, railOff := c.railOff
    thermalCap := c.thermalCap, avsCap := c.avsCap, inLimit := c.inLimit, throttled := c.throttled
    hotPast := c.hotPast, fellAt := c.fellAt, coolSince := c.coolSince }

/-- A compute die after a warm or die reset: its ephemeris and ledger are gone (R267). -/
def warmDie (x : Die) : Die :=
  { Die.reset with
    ldgClock := x.ldgClock, resupplyMs := x.resupplyMs, resupplyEn := x.resupplyEn, lastFail := x.lastFail
    recovered := x.recovered, lost := x.lost, mover := x.mover, moverRepeat := x.moverRepeat, railMv := x.railMv
    railOff := x.railOff, dieRailMv := x.dieRailMv, inReset := x.inReset }

/-- A photonic die after a warm reset: contexts and plan are gone, counters and settings stay. -/
def warmPhot (x : Phot) : Phot :=
  { Phot.reset with
    route := x.route, dropDst := x.dropDst, dropType := x.dropType, dropPermit := x.dropPermit, dropDup := x.dropDup
    calEn := x.calEn, calPeriod := x.calPeriod, fabNo := x.fabNo, fabEpoch := x.fabEpoch, fabBad := x.fabBad
    fabQuiet := x.fabQuiet, fabSat := x.fabSat, inReset := x.inReset }

/-- A link after a warm reset. -/
def warmLink (k : Link) : Link :=
  { Link.reset with
    cabling := k.cabling, gwPort := k.gwPort, cabNow := k.cabNow, gwNow := k.gwNow, lost := k.lost, mislock := k.mislock
    los := k.los, shutters := k.shutters, failures := k.failures, ber := k.ber, rxPower := k.rxPower
    backRefl := k.backRefl, loopRt := k.loopRt, domOff := k.domOff }

/-- The storage port is trained afresh at every start; time-outs stay at a warm one (Table 8.12). -/
def warmStorage (x : Storage) : Storage :=
  { Storage.reset with ctrl := Tab.mapV (fun c => { NvCtrl.reset with timeoutMs := c.timeoutMs }) x.ctrl, nextId := x.nextId }

/-- The fabric of the package after a warm reset. -/
def warmMer (m : Mer) : Mer :=
  { Mer.reset with
    link := Tab.mapV warmLink m.link, phot := Tab.mapV warmPhot m.phot, fibre := m.fibre, combLock := m.combLock
    combAlarm := m.combAlarm, dither := m.dither, serial := m.serial, calLink := m.calLink }

/-- A port at a start of either kind: not trained; settings and counters stay. -/
def downPort (x : Port) : Port :=
  { x with state := 0, degraded := false, alt := false, altRec := false, width := [], speed := 0, retries := [], holds := [], agree := none }

/-- The companion is reset with the package; its aperture and limit stay (Tables 12.13, 12.14). -/
def warmComp (x : Comp) : Comp :=
  { Comp.reset with limit := x.limit, apEn := x.apEn, apBase := x.apBase, apSize := x.apSize, apVtag := x.apVtag, apCheck := x.apCheck, apStag := x.apStag }

/-- Everything that a warm reset loses (R529, R18): kept are HBM, the recipe table, token states, skip logs, counters,
retirements, HUB_TOPOLOGY_ID and the operating profile. -/
def warmLoss (s : State) : State :=
  let s := [0, 1, 2, 3].foldl (fun s d => dropLedger d (dropEph d s)) s
  { s with
    evr := Evr.reset
    pci := { s.pci with watch := [], winBase := 0, winLimit := 0, low := [], latch := [], flr := false }
    job := Job.reset
    groups := []
    cmds := []
    hreq := []
    strm := Tab.mapV warmStrm s.strm
    cl := Tab.mapV warmCluster s.cl
    core := Tab.mapV warmCore s.core
    die := Tab.mapV warmDie s.die
    bar2Held := []
    hbmHeld := []
    stp := warmStorage s.stp
    mer := warmMer s.mer
    d2d := { s.d2d with ports := Tab.mapV downPort s.d2d.ports, comp := warmComp s.d2d.comp } }

/-- Everything that a cold reset loses (R532): kept are the boot flash, the fuses, the event log and the always-on
counter, what the always-on domain and the board hold, and the model's own fields. -/
def coldLoss (s : State) : State :=
  { State.reset with
    pending := s.pending
    free := s.free
    out := s.out
    aoCount := s.aoCount
    seqNo := s.seqNo
    insNo := s.insNo
    recs := s.recs
    flash := s.flash
    pci := { Pci.reset with perstHigh := s.pci.perstHigh }
    pwr := { Power.reset with
      shdnHigh := s.pwr.shdnHigh, tripLow := s.pwr.tripLow, aoPwrGd := s.pwr.aoPwrGd
      lastTrip := decide (s.boot.nextCause = 5) }
    mer := { Mer.reset with combLock := s.mer.combLock, combAlarm := s.mer.combAlarm, dither := s.mer.dither }
    boot := { Boot.reset with
      kind := s.boot.kind, cause := s.boot.cause, failStage := s.boot.failStage, warmFails := s.boot.warmFails
      failUnit := s.boot.failUnit }
    encl := { Encl.reset with
      state := if s.encl.udsBlown then 4 else 0
      fusedSvn := s.encl.fusedSvn, revoked := s.encl.revoked, udsBlown := s.encl.udsBlown, uds := s.encl.uds
      rom := s.encl.rom, certs := s.encl.certs, committed := s.encl.committed, blown := s.encl.blown, header := s.encl.header }
    mgt := { s.mgt with halted := false } }

/-! ### Starts (R522-R530, R535) -/

/-- FW_UPDATE (Table 16.9). -/
def fwUpdate (out d1 d2 : Nat) (s : State) : State :=
  record { unit := 0x4FFE0001#32, cls := 0x0803, outcome := out, d1 := BitVec.ofNat 32 d1, d2 := BitVec.ofNat 32 d2 } s

/-- A start cancels an update under way, and takes up one whose activation is pending (R545, R546). -/
def startUpdates (s : State) : State :=
  match s.mgt.upd with
  | some u => fwUpdate 4 u.version.toNat 0 { s with mgt := { s.mgt with upd := none, update := 0 } }
  | none => { s with mgt := { s.mgt with update := if s.mgt.update = 3 then 0 else s.mgt.update } }

/-- A start begins: records leave the ring path, START_BEGIN is written (R347, R524, Table 15.3). -/
def beginStart (kind cause : Nat) (s : State) : State :=
  let s := { s with
    recs := { s.recs with inService := false }
    boot := { s.boot with
      ready := false, recovery := false, starting := true, kind := kind, cause := cause, begun := s.aoCount, stored := false } }
  startUpdates (record { unit := 0x4FFE0001#32, cls := 0x0701, outcome := kind, d1 := BitVec.ofNat 32 cause } s)

/-- The LEASE_ENDs of a package that resets go out at once, each on the address plane that reaches its package (R365,
R381, log 60). -/
def sendEnds (s : State) : State :=
  (s.mer.tx.filter (fun t => decide (t.cell.typ = 2 ∧ (t.cell.lines.headD []).headD 0 = 5))).foldl (fun s t =>
    let p := (nextHop s 5 t.cell.dst + 64 - s.boot.device) % 64 / 8
    let p := if planeOut s p then (p + 1) % 8 else p
    if (linkOf s p).state = 1 && (linkOf s p).txLock then sendOn p t.cell [] (takeTx t s) else takeTx t s) s

/-- A cold or warm reset removes the plan in force, and every lease ends (R381). -/
def leaveLeases (s : State) : State := sendEnds (dropPlan [5, 6] s)

/-- A cold start (R532): it abandons a start under way; a requested warm reset stays held (R535). -/
def coldStart (cause : Nat) (s : State) : State :=
  let held := s.boot.warmHeld
  let s := coldLoss (leaveLeases s)
  let s := { s with pwr := { s.pwr with tripLow := false } }
  beginStart 1 cause { s with boot := { s.boot with warmHeld := held } }

/-- The dies are reset for a warm start, which begins at ENCLAVE_ROM (R529, steps 3 and 4): the stacks that were ready
are in self-refresh. -/
def warmDies (s : State) : State :=
  let s := { s with stack := Tab.mapV (fun x => if x.state = 2 then { x with state := 3 } else x) s.stack }
  let ids := hubIds s ++ (s.cl.map (fun p => cluIds s p.1)).flatten
  let s := zeroise 5 (warmLoss (leaveLeases (abortTokens ids s)))
  { s with boot := { s.boot with stage := 2, stopWarm := none, dieReset := none, dieHeld := [], dieSel := 0 }
           die := Tab.mapV (fun x => { x with inReset := false }) s.die
           mer := { s.mer with phot := Tab.mapV (fun x => { x with inReset := false }) s.mer.phot } }

/-- A warm reset begins (R529, step 1). -/
def beginWarm (cause : Nat) (s : State) : State :=
  let s := stopPackage (beginStart 2 cause s)
  let s := { s with boot := { s.boot with stopWarm := some cause } }
  if runningCls s = [] then warmDies s else s

/-- A request for a warm reset (R529, R535): during a start it is held; in the recovery state, and before the first start,
it has no effect. -/
def requestWarm (cause : Nat) (s : State) : State :=
  if s.boot.starting then { s with boot := { s.boot with warmHeld := some (s.boot.warmHeld.getD cause) } }
  else if s.boot.ready then beginWarm cause s
  else s

/-- The outputs of the recovery state (R531): every LASER_EN_N high, the stacks in reset, the compute and photonic dies
without power, and with them every port down. -/
def powerOff (s : State) : State :=
  { s with
    stack := Tab.mapV (fun x => { x with state := 0, rate := 0 }) s.stack
    cl := Tab.mapV (fun c => { warmCluster c with clockMhz := 0, voltMv := 0 }) s.cl
    core := Tab.mapV warmCore s.core
    die := Tab.mapV warmDie s.die
    d2d := { s.d2d with ports := Tab.mapV downPort s.d2d.ports }
    mer := { warmMer s.mer with fibre := [0, 1, 2, 3].map (fun f => (f, { fibreOf s f with enHigh := true, state := 1 })) } }

/-- The recovery state (R531): RECOVERY_ENTERED names the failed stage and unit. From service, what runs is stopped
first. -/
def enterRecovery (stage : Nat) (unit : W32) (s : State) : State :=
  let s := if s.boot.ready then
      let s := stopPackage s
      let s := abortTokens (hubIds s ++ (s.cl.map (fun p => cluIds s p.1)).flatten) s
      { s with cmds := [] }
    else s
  let s := powerOff s
  let s := { s with
    recs := { s.recs with inService := false }
    boot := { s.boot with
      ready := false, starting := false, recovery := true, stage := 0xF0, warmHeld := none, stopWarm := none
      dieReset := none, dieHeld := [] } }
  record { unit := 0x4FFE0001#32, cls := 0x0704, outcome := stage, d1 := unit } s

/-- START_FAILED (R530): a failed warm start is followed by another, the third by a cold start with cause 4; a failed cold
start enters the recovery state. -/
def startFails (unit : W32) (s : State) : State :=
  let st := s.boot.stage
  let s := record { unit := 0x4FFE0001#32, cls := 0x0703, outcome := st, d1 := unit } s
  let s := { s with boot := { s.boot with failStage := st, failUnit := unit } }
  if s.boot.kind = 1 then enterRecovery st unit s
  else
    let n := if st = 4 then 3 else min 3 (s.boot.warmFails + 1)
    let s := { s with boot := { s.boot with warmFails := n } }
    if n = 3 then coldStart 4 s else warmDies (beginStart 2 8 s)

/-- The die that is cut off from the hub in service stops the package (R457). -/
def checkRoutes (s : State) : State :=
  if !s.boot.ready then s
  else match cutOff s with
    | some d => enterRecovery 7 (unitDie d 15 0) (portRec d (if d < 4 then 2 else 0) 0x0504 3 s)
    | none => s

/-- What a boundary of the last stopped program lets go on: an FLR, or a warm reset (R478, R529). -/
def stopSettled (s : State) : State :=
  if runningCls s ≠ [] then s
  else if s.boot.stopWarm.isSome then warmDies s
  else if s.pci.flr then finishFlr s
  else s

/-- PROOF_BOUNDARY (R100), with what waits for it. -/
def effBoundary (cl : Nat) (s : State) : State := fabEnd (stopSettled (effProofBoundary cl s))

/-- The groups that have not reached a boundary are cut as a cluster reset cuts them. -/
def cutGroups (s : State) : State := stopSettled ((runningCls s).foldl (fun s c => cutCluster c s) s)

/-- FLR_STOP_TIMEOUT (R478). -/
def effFlrStopTimeout (s : State) : State := if s.pci.flr then cutGroups s else s

/-- WARM_STOP_TIMEOUT (R529, step 2). -/
def effWarmStopTimeout (s : State) : State := if s.boot.stopWarm.isSome then cutGroups s else s

/-- FLR and what acts like it (R478): in service the whole sequence; during a start or a warm reset, and in the recovery
state, only the host-side registers. -/
def flrLike (s : State) : State :=
  if s.boot.ready && !s.boot.starting then
    let s := stopPackage s
    if runningCls s = [] then finishFlr s else { s with pci := { s.pci with flr := true } }
  else resetHostRegs s

/-! ### Die reset (R533, R463) -/

/-- The dies that can be reset. -/
def resettable (d : Nat) : Bool := decide (d < 4 ∨ d = 5 ∨ d = 6)

/-- The lane map that a cold reset derives from the retirement list (R33, R34). -/
def retireIn (c : Cluster) (n : Nat) : Cluster :=
  let lane := ((List.range 8).find? (fun l => c.lanes.getD l 15 = n)).getD 15
  let first := if c.retired = 15 then n else c.retired
  if n = c.spare then { c with spare := 15, retired := first, mapState := max c.mapState 1 }
  else if lane = 15 then c
  else if c.spare < 9 then { c with lanes := c.lanes.set lane c.spare, spare := 15, retired := first, mapState := max c.mapState 1 }
  else if c.mapState < 2 then { c with lanes := c.lanes.set lane 15, mapState := 2 }
  else { c with lanes := c.lanes.set lane 15, mapState := 3 }

/-- The retained lists applied to a cluster (R34, R339, R494). -/
def listedCluster (f : Flash) (cl : Nat) (c : Cluster) : Cluster :=
  let cores := (f.cores.filter (fun x => decide (x / 9 = cl))).map (fun x => x % 9)
  let c := cores.foldl retireIn c
  let failed := fun (i : Nat) (m : Mark) => if f.upds.contains (3 * cl + i) then { m with st := 2 } else m
  let c := { c with updMain := failed 0 c.updMain, updDup := failed 1 c.updDup, updArb := failed 2 c.updArb }
  let n := ([c.updMain, c.updDup].filter (fun m => decide (m.st = 2))).length
  let c : Cluster := if n = 1 then { c with updReduced := true } else c
  let c : Cluster := if c.updArb.st = 2 ∨ n = 2 ∨ f.plates.contains cl then { c with mapState := 3 } else c
  if f.rails.contains cl ∨ f.rails.contains (32 + cl / 8) then { c with mapState := 3, railOff := true } else c

/-- The retained lists applied to a compute die. -/
def applyLists (d : Nat) (s : State) : State :=
  let s := (List.range 8).foldl (fun s i =>
    let cl := 8 * d + i
    let s := setCl s cl (listedCluster s.flash cl (clOf s cl))
    (s.flash.cores.filter (fun x => decide (x / 9 = cl))).foldl (fun s k => setCore s k { coreOf s k with failed := true }) s) s
  let x := dieOf s d
  setDie s d { x with
    mover := if s.flash.movers.contains d then { x.mover with st := 2 } else x.mover
    railOff := x.railOff || s.flash.rails.contains (32 + d) }

/-- Whether a run has a part or a landing in a compute die (R463). -/
def runOnDie (s : State) (d : Nat) (r : FRun) : Bool :=
  r.parts.any (fun p => decide (p.1 / 8 = d))
  || (match ctxOf s r.ctx with
      | some c => if cDstTier c = 2 then decide (homeDie (cDst c) = d) else decide (cCluster c / 8 = d)
      | none => false)

/-- The programs, requests and runs that depend on a compute die end (R463, R533 step 1). -/
def quitDie (d : Nat) (s : State) : State :=
  let cls := (List.range 8).map (fun i => 8 * d + i)
  let s := cls.foldl (fun s c => abortTokens (cluIds s c) s) s
  let s := s.cmds.foldl (fun s c => match c.work with
    | .start _ _ => if (members c.word s).any (fun m => decide (m / 8 = d)) then completeCmd c.no .aborted s else s
    | _ => s) s
  let s := ([5, 6].map (fun k => (photOf s k).runs.filter (fun r => decide (r.st < 3) && runOnDie s d r))).flatten.foldl
    (fun s r => if (runOf s r.ctx).isSome then raiseOn r.ctx 7 s else s) s
  let s := cls.foldl (fun s c => cutCluster c s) s
  let s := (dieOf s d).ledger.foldl (fun s e => failTile d e.idx 2 s) s
  let w := (dieOf s d).waiting
  let s := endReqs w 2 (setDie s d { dieOf s d with waiting := [] })
  dropLedger d (dropEph d s)

/-- A compute die is reset: its registers take their cold values, but for those that keep theirs (R18); its stacks are in
self-refresh. -/
def resetCompute (d : Nat) (s : State) : State :=
  let s := quitDie d s
  let s := (List.range 3).foldl (fun s i =>
    let x := stackOf s (3 * d + i)
    setStack s (3 * d + i) (if x.state = 2 then { x with state := 3 } else x)) s
  let s := (List.range 8).foldl (fun s i =>
    let cl := 8 * d + i
    let s := setCl s cl Cluster.reset
    (List.range 9).foldl (fun s n => setCore s (9 * cl + n) { Core.reset with bOff := (coreOf s (9 * cl + n)).bOff }) s) s
  applyLists d (setDie s d { warmDie (dieOf s d) with railMv := 0, dieRailMv := 0, inReset := true })

/-- A photonic die is reset: its plan, routes and contexts are gone, its registers take their cold values (R18), and its
links are dark until they are calibrated. What MER_COMB shows of live signals stays. -/
def resetPhotonic (d : Nat) (s : State) : State :=
  let ids := (busyCtxs s).filter (fun id => decide (ctxDie id = d))
  let s := ids.foldl (fun s id => raiseOn id 7 s) s
  let s := unloadContexts d (dropPlan [d] s)
  let s := { s with mer := { s.mer with heldCells := s.mer.heldCells.filter (fun h => decide (ctxDie h.cell.flow ≠ d)) } }
  let s := setPhot s d { Phot.reset with inReset := true }
  let s := { s with pwr := { s.pwr with photSensors := s.pwr.photSensors.put d [0, 0, 0, 0] } }
  let s := [0, 1].foldl (fun s i => let f := 2 * (d - 5) + i
    setFibre s f { fibreOf s f with power := 0 }) s
  (upto 64 (fun p => linkDie p = d)).foldl (fun s p => setLink (withdraw p s) p { Link.reset with state := 5, back := restState s p }) s

/-- DIE_RESET (Table 15.3). -/
def dieRec (d out : Nat) (s : State) : State :=
  record { unit := 0x4FFE0001#32, cls := 0x0706, outcome := out, d1 := BitVec.ofNat 32 d } s

/-- The ports of a reset die: its own side trains, its peers show state 5 (R463, R533 step 4). -/
def trainDie (d : Nat) (s : State) : State :=
  (allPorts.filter (fun k => decide (k.1 = d))).foldl (fun s k =>
    let e := portPeer k.1 k.2
    let s := setPort s d k.2 { downPort (portOf s d k.2) with state := 1 }
    setPort s e.1 e.2 { portOf s e.1 e.2 with state := 5, alt := false, agree := none }) s

/-- A die reset begins (R533, steps 1-4): saved training of the die is invalid until it completes (R527). -/
def beginDieReset (d : Nat) (s : State) : State :=
  let s := dieRec d 1 s
  let s := { s with boot := { s.boot with
    dieReset := some d, hbmValid := s.boot.hbmValid.erase d, d2dValid := s.boot.d2dValid.erase d
    optValid := s.boot.optValid.erase d } }
  let s := if d < 4 then resetCompute d s else resetPhotonic d s
  fabEnd (ledgerGo (settleAlts (trainDie d s)))

/-- A request for a die reset (R535). -/
def requestDie (d : Nat) (s : State) : State :=
  match s.boot.dieReset with
  | some r => if r = d then s else { s with boot := { s.boot with dieHeld := if s.boot.dieHeld.contains d then s.boot.dieHeld else s.boot.dieHeld ++ [d] } }
  | none => beginDieReset d s

/-- The BAR0 offset of HUB_RESET and of a cluster's CLU_RESET. -/
def hubResetOff : Nat := 0x500
def clusterBase (cl : Nat) : Nat := 0x2000000 + cl / 8 * 0x1000000 + cl % 8 * 0x100000

/-- HUB_RESET written with DIE set (R533, R535). -/
def dieWrite (size : Nat) (v : W64) (s : State) : State :=
  if !(resettable (fld v 4 4)) then regAccess 6 hubResetOff size true v s
  else if !s.boot.ready then regAccess 7 hubResetOff size true v s
  else requestDie (fld v 4 4) s

/-- DIE (R533, R535): HUB_RESET.DIE written with DIE_SEL. -/
def effDie (sel : Nat) (s : State) : State :=
  hostAccess (fun s =>
    dieWrite 4 (BitVec.ofNat 64 (4 + 16 * (sel % 16))) { s with boot := { s.boot with dieSel := sel % 16 } }) s

/-- CLUSTER_RESET (Table 15.3). -/
def clusterRec (cl : Nat) (s : State) : State :=
  record { unit := 0x4FFE0001#32, cls := 0x0707, outcome := 1, d1 := BitVec.ofNat 32 cl } s

/-- CLU_RESET.RESET written (R534, R535). -/
def cluResetWrite (cl size : Nat) (v : W64) (s : State) : State :=
  if !s.boot.ready then regAccess 7 (clusterBase cl + 0x40300) size true v s
  else fabEnd (ledgerGo (stopSettled (cutCluster cl (clusterRec cl s))))

/-! ### Requests (R529, R532, R535, R556, R561) -/

/-- WARM: HUB_RESET.WARM written. -/
def effWarm (s : State) : State := hostAccess (fun s => requestWarm 3 s) s

/-- BMC_WARM_RESET_REQUEST. -/
def effBmcWarmResetRequest (s : State) : State := requestWarm 2 s

/-- Every sensor reads below 95 °C. -/
def allCool (s : State) : Bool :=
  let hot := fun (l : List W16) => l.any (fun x => decide (95 * 16 ≤ x.toInt))
  !(s.cl.any (fun c => hot c.2.sensors)) && !(hot s.pwr.hubSensors) && !(s.pwr.photSensors.any (fun x => hot x.2))

/-- A request for a cold start. In the recovery state only the board management controller's, which `bmc` marks, is
taken, with the cause that it names: RECOVERY_LEFT is written (R531, R561). THERMTRIP_N stays low until every sensor reads below 95 °C (R574). -/
def requestCold (bmc : Bool) (cause : Nat) (s : State) : State :=
  if !s.pwr.aoPwrGd then s
  else if s.boot.recovery then
    if bmc then coldStart cause (record { unit := 0x4FFE0001#32, cls := 0x0705, outcome := 1 } s) else s
  else if s.pwr.tripLow ∧ !(bmc && allCool s) then s
  else coldStart (if s.boot.nextCause = 0 then cause else s.boot.nextCause) s

/-- Whether a lock class is open to the host (R556). -/
def lockOpen (n : Nat) (s : State) : Bool := decide (s.encl.lockOpen / 2 ^ n % 2 = 1 ∨ s.encl.debug = 2)

/-- COLD: HUB_RESET.COLD written; the field is of lock class 0 (R16, R556). -/
def effCold (s : State) : State :=
  hostAccess (fun s => if lockOpen 0 s then requestCold false 3 s else regAccess 8 hubResetOff 4 true 2 s) s

/-- COLD_START (R561): the vendor-defined message, accepted on the I3C (1) and SMBus (2) bindings only. -/
def effColdStart (binding : Nat) (s : State) : State :=
  if binding = 1 ∨ binding = 2 then requestCold true 2 s else s

/-! ### Training events of the die links -/

/-- The class in which a start trains a port: compute-hub, compute-compute, compute-photonic (R458). -/
def portClass (d p : Nat) : Nat :=
  let e := (portPeer d p).1
  if d = 4 ∨ e = 4 then 0 else if d < 4 ∧ e < 4 then 1 else 2

/-- The ports of a class. -/
def classPorts (n : Nat) : List (Nat × Nat) := allPorts.filter (fun k => decide (portClass k.1 k.2 = n))

/-- Every port of a class has settled. -/
def classSettled (s : State) (n : Nat) : Bool :=
  (classPorts n).all (fun k => decide ((portOf s k.1 k.2).state = 2 ∨ (portOf s k.1 k.2).state = 4))

/-- The ports of a class start to train; those of a die whose rail is off stay down (R494). -/
def trainClass (n : Nat) (s : State) : State :=
  let dead := fun (d : Nat) => decide (d < 4) && (dieOf s d).railOff
  (classPorts n).foldl (fun s k =>
    setPort s k.1 k.2 { portOf s k.1 k.2 with state := if dead k.1 || dead (portPeer k.1 k.2).1 then 4 else 1 }) s

/-- Class by class, the next ports start to train when every port of the class before has settled (R458). -/
def nextClass (s : State) : State :=
  if s.boot.starting ∧ s.boot.stage = 7 then
    [0, 1].foldl (fun s n =>
      if classSettled s n ∧ (classPorts (n + 1)).all (fun k => decide ((portOf s k.1 k.2).state = 0)) then trainClass (n + 1) s
      else s) s
  else s

/-- PORT_TRAINED (R462): either end's report; both sides' widths of every module. -/
def effPortTrained (d p : Nat) (mine peer : List Nat) (s : State) : State :=
  let e := portPeer d p
  if mayTrain s d p mine peer ∨ (allPorts.contains (d, p) ∧ mayTrain s e.1 e.2 peer mine) then
    nextClass (checkRoutes (sidesTrained d p mine peer s))
  else s

/-- FLIT_CRC_ERROR (R459). -/
def effFlitCrcError (d p m nth : Nat) (s : State) : State :=
  if (allPorts.contains (d, p) ∨ (d = 4 ∧ p = 4)) ∧ (portOf s d p).state = 2 ∧ (portOf s d p).width.getD m 0 ≠ 0 then
    checkRoutes (flitError d p m nth s)
  else s

end Sys2Proof.Machine
end

