-- ==== Sys2Proof/Machine/Power.lean ====
section
/-! DEFINITION. Power: clocks, profiles, the power loop, temperature, supply sag, regulators and clamp episodes
(chapter 14). -/

namespace Sys2Proof.Machine

def setPwr (s : State) (x : Power) : State := { s with pwr := x }

/-- A record of chapter 14; D1 holds a loop code where one applies (R521). -/
def powerRec (unit : W32) (cls out loop d2 d3 : Nat) (s : State) : State :=
  record { unit := unit, cls := cls, outcome := out, d1 := BitVec.ofNat 32 loop, d2 := BitVec.ofNat 32 d2, d3 := BitVec.ofNat 32 d3 } s

/-- A cluster as a unit, and its package (R46). -/
def unitClu (cl : Nat) : W32 := unitId (cl / 8) (cl % 8) 15 15 0
def unitPackage : W32 := 0x4FFE0001#32
/-- The regulator of a cluster rail, or (from 32) of a die rail (R38). -/
def unitRail (r : Nat) : W32 := if r < 32 then unitId (r / 8) (r % 8) 15 15 8 else unitDie (r - 32) 15 8

/-! ### Clamp episodes (R505, R506) -/

/-- Microseconds between two readings of the always-on counter. -/
def usSince (s : State) (t : W64) : Nat := (s.aoCount - t).toNat / 50

/-- POLICY_CLAMPED. -/
def clampRec (out : Nat) (x : Clamp) (s : State) : State :=
  record { unit := if x.clamped = 11 then unitLink x.key else unitClu x.key, cls := 0x0607, outcome := out
           d1 := BitVec.ofNat 32 x.loop, d2 := BitVec.ofNat 32 x.clamped, d3 := BitVec.ofNat 32 x.want
           d4 := BitVec.ofNat 32 x.got, d5 := BitVec.ofNat 32 (if out = 1 then 0 else usSince s x.begun) } s

/-- The episode under way of a clamped loop and a unit. -/
def clampOf (s : State) (clamped key : Nat) : Option Clamp := s.pwr.clamps.find? (fun x => decide (x.clamped = clamped ∧ x.key = key))

/-- A clamp episode begins: one record pair is written per loops and unit within any 10 ms. -/
def clampBegins (loop clamped key want got : Nat) (s : State) : State :=
  let same := fun (x : Nat × Nat × Nat × W64) => decide (x.1 = loop ∧ x.2.1 = clamped ∧ x.2.2.1 = key)
  let quiet := s.pwr.clampAt.any (fun x => same x && decide ((s.aoCount - x.2.2.2).toNat < 500000))
  let x : Clamp := ⟨loop, clamped, key, s.aoCount, want, got, !quiet⟩
  let p := s.pwr
  let s := setPwr s { p with
    clamps := p.clamps ++ [x], clampEpisodes := if p.clampEpisodes = 0xFFFFFFFF#32 then p.clampEpisodes else p.clampEpisodes + 1
    clampAt := if quiet then p.clampAt else p.clampAt.filter (fun y => !same y) ++ [(loop, clamped, key, s.aoCount)] }
  if quiet then s else clampRec 1 x s

/-- An episode ends. -/
def clampEnds (x : Clamp) (got : Nat) (s : State) : State :=
  let s := setPwr s { s.pwr with clamps := s.pwr.clamps.filter (fun y => !(decide (y.clamped = x.clamped ∧ y.key = x.key))) }
  if x.recorded then clampRec 2 { x with got := got } s else s

/-- PWR_CLAMP.ACTIVE. -/
def clampActive (s : State) : Nat := ((List.range 16).map (fun n => if s.pwr.clamps.any (fun x => x.loop = n) then 2 ^ n else 0)).sum

/-- Leased links that the plan enables and a loop of rank 1 keeps out of their ports: the shutter (1), or stage 4 of a
supply sag (5). -/
def settleLinks (s : State) : State :=
  (List.range 64).foldl (fun s p =>
    let k := linkOf s p
    let loop := if !k.txEn then 0 else if k.state = 6 ∨ k.state = 7 then 1 else if k.parked then 5 else 0
    match clampOf s 11 p with
    | some x => if loop = 0 then clampEnds x 1 s else s
    | none => if loop = 0 then s else clampBegins loop 11 p 1 0 s) s

/-! ### Cluster clocks (R500-R504) -/

/-- The clock cap and the power limit of a profile (R507). -/
def profileCap (p : Nat) : Nat := if p = 0 then 1500 else if p = 1 then 1300 else 1050
def profileWatts (p : Nat) : Nat := if p = 0 then 3200 else if p = 1 then 2600 else 2000

/-- PWR_CLU_CAP as it acts (Table 14.13). -/
def capActs (v : Nat) : Nat := min 1500 (max 500 (v / 50 * 50))

/-- `safety` and `policy` of R504. -/
def safetyMhz (s : State) (c : Cluster) : Nat := min c.thermalCap (if 2 ≤ s.pwr.sagStage then 1200 else 1500)
def policyMhz (s : State) (c : Cluster) : Nat := min (min s.pwr.profCap (capActs c.cap)) s.pwr.powerCap
/-- `target` of R504. -/
def targetMhz (s : State) (c : Cluster) : Nat := min (min (safetyMhz s c) (policyMhz s c)) c.avsCap

/-- PWR_CLU.LIMITER. -/
def limiterOf (s : State) (c : Cluster) : Nat :=
  let t := targetMhz s c
  if 1500 ≤ t then 0
  else if c.thermalCap = t then 4
  else if safetyMhz s c = t then 5
  else if min s.pwr.profCap s.pwr.powerCap = t then 9
  else if capActs c.cap = t then 10
  else 12

/-- The clamp episode of a cluster's clock: loop 4 or 5 restricts what loop 9 or 10 requests (R505). -/
def settleClock (cl : Nat) (s : State) : State :=
  let c := clOf s cl
  let want := policyMhz s c
  let clamped := if capActs c.cap < min s.pwr.profCap s.pwr.powerCap then 10 else 9
  match s.pwr.clamps.find? (fun x => decide ((x.clamped = 9 ∨ x.clamped = 10) ∧ x.key = cl)) with
  | some x => if want ≤ safetyMhz s c ∧ targetMhz s c ≤ c.clockMhz then clampEnds x c.clockMhz s else s
  | none =>
    if safetyMhz s c < want then
      clampBegins (if c.thermalCap = safetyMhz s c then 4 else 5) clamped cl want (min c.clockMhz (targetMhz s c)) s
    else s

/-- One evaluation of R504: downward at once, upward by 50 MHz when 100 µs have passed since the last step up. A clock that
has not run starts at its lowest. -/
def evalClock (cl : Nat) (s : State) : State :=
  let c := clOf s cl
  let t := targetMhz s c
  let f := if c.clockMhz = 0 then 500 else c.clockMhz
  let up := decide (f < t ∧ 5000 ≤ (s.aoCount - c.lastUp).toNat)
  let c := { c with
    clockMhz := if t < f then t else if up then f + 50 else f, lastUp := if up then s.aoCount else c.lastUp
    limiter := limiterOf s c }
  settleClock cl (setCl s cl c)

/-- Every limit of a package loop has changed: every cluster is evaluated. -/
def evalClocks (s : State) : State := (List.range 32).foldl (fun s cl => evalClock cl s) s

/-- A SET_PROFILE completes when every clock that is not gated has reached its target and the power is at or below the
limit (R509); PROFILE_CHANGED. -/
def settleProfile (s : State) : State :=
  let p := s.pwr
  if p.profPending && decide (p.powerW ≤ profileWatts p.profile)
      && (List.range 32).all (fun cl => let c := clOf s cl; c.gated || c.railOff || decide (c.clockMhz = targetMhz s c)) then
    let s := powerRec unitPackage 0x0608 p.profile 9 p.profOld (usSince s p.profAt) (setPwr s { p with profPending := false })
    s.cmds.foldl (fun s c => match c.work with
      | .profile _ => completeCmd c.no .done s
      | _ => s) s
  else s

/-- CLOCK_EVALUATION (R501, R504): `need` is the lowest voltage in mV at which the cluster's monitors pass at its clock,
and `pass` the highest clock that passes at 0.85 V. -/
def effClockEvaluation (cl need pass : Nat) (s : State) : State :=
  let c := clOf s cl
  if 32 ≤ cl ∨ c.railOff then s
  else
    let c := { c with
      avsCap := if 850 < need then min 1500 (pass / 50 * 50) else 1500
      voltMv := min 850 (max 650 ((need + 14) / 5 * 5)) }
    settleProfile (evalClock cl (setCl s cl c))

/-- CLU_CAP_WRITE (Table 14.13). -/
def effCluCapWrite (cl v : Nat) (s : State) : State :=
  hostWriteReady (fun s =>
    if cl < 32 then settleProfile (evalClock cl (setCl s cl { clOf s cl with cap := v % 2048 })) else s) s

/-- CLUSTER_GATE (R499). -/
def effClusterGate (cl : Nat) (s : State) : State :=
  let c := clOf s cl
  if cl < 32 ∧ c.prog = none ∧ !c.rotDue ∧ c.occTesting = 15 then setCl s cl { c with gated := true } else s

/-- A cluster's clock is ungated (R499). -/
def ungate (cl : Nat) (s : State) : State := if cl < 32 then setCl s cl { clOf s cl with gated := false } else s

/-- PWR_CLU (Table 14.12). -/
def pwrClu (c : Cluster) : W64 :=
  BitVec.ofNat 64 ((if c.gated then 0 else c.clockMhz % 2048) + at_ c.voltMv 16 10 + at_ c.limiter 28 4 + at_ c.powerW 32 16 + at_ c.droopStretch 48 16)

/-- SET_PROFILE (R507, R509, R520): a lower cap takes effect at once; an incomplete earlier SET_PROFILE completes DONE. -/
def setProfile (no st : Nat) (w : W512) (s : State) : State :=
  let n := fld w 128 2
  let s := s.cmds.foldl (fun s c => match c.work with
    | .profile _ => completeCmd c.no .done s
    | _ => s) s
  let p := s.pwr
  let cap := profileCap n
  let s := startCmd no st w (.profile n) s
  let s := setPwr s { p with
    profile := n, profPending := true, profCap := cap, profOld := p.profile, profAt := s.aoCount
    powerCap := if p.powerCap = p.profCap then cap else min cap p.powerCap, lowSince := none }
  settleProfile (evalClocks s)

def effSetProfile (st : Nat) (late : List Nat) (s : State) : State :=
  dispatch 0x08 { needJob := false, badOperand := fun w _ => decide (fld w 128 2 = 3) }
    (fun no w s => setProfile no st w s) st late s

/-- POWER_LOOP (R508): the package power as the average of 100 µs, and the clusters' powers. -/
def effPowerLoop (watts : Nat) (clusters : List Nat) (s : State) : State :=
  let p := s.pwr
  let limit := profileWatts p.profile
  let s := (List.range (min 32 clusters.length)).foldl (fun s i => setCl s i { clOf s i with powerW := clusters.getD i 0 % 65536 }) s
  let low := decide (watts * 100 < limit * 97)
  let since := if low then (match p.lowSince with | some t => some t | none => some s.aoCount) else none
  let lift := match since with
    | some t => decide (50000 ≤ (s.aoCount - t).toNat)
    | none => false
  let s := setPwr s { p with
    powerW := watts % 65536, lowSince := since
    powerCap := if limit < watts then max 500 (p.powerCap - 50) else if lift then p.profCap else p.powerCap }
  settleProfile (evalClocks s)

/-- DROOP (R502): the clock is stretched; `raised` is the rail in mV to which the response raises it, 0 if it does not. -/
def effDroop (cl raised : Nat) (s : State) : State :=
  let c := clOf s cl
  if 32 ≤ cl ∨ c.stretched ∨ c.railOff then s
  else
    let s := setCl s cl { c with stretched := true, droopStretch := satInc 0xFFFF c.droopStretch }
    if c.voltMv < raised then clampBegins 7 12 cl c.voltMv raised (setCl s cl { clOf s cl with voltMv := raised }) else s

/-- DROOP_END (R502). -/
def effDroopEnd (cl : Nat) (s : State) : State :=
  if (clOf s cl).stretched then
    let s := setCl s cl { clOf s cl with stretched := false }
    match clampOf s 12 cl with
    | some x => clampEnds x x.want (setCl s cl { clOf s cl with voltMv := x.want })
    | none => s
  else s

/-! ### Temperature (R510-R514) -/

/-- What is left when every regulator is off and the board removes its rails: only the always-on domain holds its state;
with `hbm`, the stacks stay in self-refresh (R513, R519, R574). -/
def blackout (cause : Nat) (hbm : Bool) (s : State) : State :=
  let s' := coldLoss s
  let s' := if hbm then
      { s' with hbm := s.hbm, hbmCk := s.hbmCk, hbmFlag := s.hbmFlag, hbmLost := s.hbmLost
                stack := Tab.mapV (fun x => if x.state = 2 ∨ x.state = 3 then { x with state := 3 } else x) s.stack }
    else s'
  { s' with
    recs := { s'.recs with inService := false }
    boot := { s'.boot with nextCause := cause }
    mer := { s'.mer with fibre := [0, 1, 2, 3].map (fun f => (f, { Fibre.reset with state := 1 })) }
    pwr := { s'.pwr with shdnHigh := false, limitSeen := s.pwr.limitSeen } }

/-- The K4 trips (R513): THERMTRIP_N, every LASER_EN_N high, every regulator off; THERMAL_TRIP. -/
def trip (out : Nat) (unit : W32) (reading : Nat) (s : State) : State :=
  if s.pwr.tripLow then s
  else
    let s := powerRec unit 0x0603 out 3 reading 0 s
    let s := { s with recs := { s.recs with inService := false } }
    let s := blackout 5 false s
    { s with pwr := { s.pwr with tripLow := true } }

/-- THERMAL_TRIP (R513): the comparator of a die. -/
def effThermalTrip (d : Nat) (reading : W16) (s : State) : State :=
  if d < 7 ∧ s.pwr.aoPwrGd then trip 1 (unitDie d 15 0) reading.toNat s else s

/-- STACK_TEMPERATURE (R297, R513): above 105 °C the package trips. -/
def effStackTemp (k : Nat) (t : Int) (s : State) : State :=
  let s := effStackTemperature k t s
  if k < 12 ∧ 105 < t ∧ t < 128 ∧ s.pwr.aoPwrGd then trip 2 (unitId (k / 3) 15 15 9 (k % 3)) (t.toNat * 16) s else s

/-- THERMAL_LIMIT sets LIMIT_SEEN. -/
def limitRec (unit : W32) (out : Nat) (hot : W16) (s : State) : State :=
  powerRec unit 0x0602 out 4 hot.toNat 0 (setPwr s { s.pwr with limitSeen := true })

/-- The reading of 10 µs ago (500 ticks): the newest that is at least so old. -/
def hotThen (s : State) (c : Cluster) : Option (W64 × W16) := c.hotPast.find? (fun x => decide (500 ≤ (s.aoCount - x.1).toNat))

/-- Readings younger than 10 µs, and the one before them. -/
def keepHot (s : State) (c : Cluster) : List (W64 × W16) :=
  c.hotPast.filter (fun x => decide ((s.aoCount - x.1).toNat < 500)) ++ (hotThen s c).toList

/-- Whether the thermal cap falls by a step: the sensor is above 95 °C and has not fallen over the last 10 µs, and the last
step was no less than 10 µs ago (R511). -/
def capFalls (s : State) (c : Cluster) (hot : W16) : Bool :=
  decide (95 * 16 < hot.toInt)
  && (match hotThen s c with
    | some x => decide (x.2.toInt ≤ hot.toInt)
    | none => true)
  && (match c.fellAt with
    | some t => decide (500 ≤ (s.aoCount - t).toNat)
    | none => true)

/-- The thermal cap of a cluster follows the hottest of its sensors (R511, R512). -/
def thermalStep (cl : Nat) (hot : W16) (s : State) : State :=
  let c := clOf s cl
  let t := hot.toInt
  let cool := if t < 92 * 16 then (match c.coolSince with | some x => some x | none => some s.aoCount) else none
  let limit := if 105 * 16 < t then true else if t < 95 * 16 then false else c.inLimit
  let lift := match cool with
    | some x => decide (5000 ≤ (s.aoCount - x).toNat)
    | none => false
  let falls := capFalls s c hot
  let cap := if limit then 500
    else if falls then max 500 (c.thermalCap - 50)
    else if lift then 1500
    else c.thermalCap
  let s := setCl s cl { c with
    thermalCap := cap, inLimit := limit, throttled := decide (cap < 1500), coolSince := cool
    hotPast := (s.aoCount, hot) :: keepHot s c, fellAt := if falls then some s.aoCount else c.fellAt }
  let s := if limit && !c.inLimit then limitRec (unitClu cl) 1 hot s else s
  let s := if cap < 1500 ∧ c.thermalCap = 1500 then powerRec (unitClu cl) 0x0601 1 4 hot.toNat 0 s
    else if cap = 1500 ∧ c.thermalCap < 1500 then powerRec (unitClu cl) 0x0601 2 4 hot.toNat 0 s
    else s
  if cap = c.thermalCap then s else settleProfile (evalClock cl s)

/-- The hottest sensor of the package, and its die (THM_PACKAGE). -/
def hottest (s : State) : W16 × Nat :=
  let all := ((List.range 32).map (fun c => ((clOf s c).sensors).map (fun x => (x, c / 8)))).flatten
    ++ s.pwr.hubSensors.map (fun x => (x, 4))
    ++ ([5, 6].map (fun d => (s.pwr.photSensors.get [0, 0, 0, 0] d).map (fun x => (x, d)))).flatten
  all.foldl (fun m x => if m.1.toInt < x.1.toInt then x else m) (0x8000#16, 0)

/-- SENSOR_SAMPLE (R510-R514): the four readings of a cluster (`cl` 0-31), of the hub die (36) or of a photonic die (37,
38). -/
def effSensorSample (cl : Nat) (readings : List W16) (s : State) : State :=
  if readings.length ≠ 4 ∨ !s.pwr.aoPwrGd then s
  else
    let hot := hotSensor readings
    let d := cl - 32
    let s := if cl < 32 then setCl s cl { clOf s cl with sensors := readings }
      else if d = 4 then setPwr s { s.pwr with hubSensors := readings }
      else if d = 5 ∨ d = 6 then setPwr s { s.pwr with photSensors := s.pwr.photSensors.put d readings }
      else s
    let h := hottest s
    let s := setPwr s { s.pwr with hottest := h.1, hotDie := h.2 }
    if cl < 32 ∨ d = 4 ∨ d = 5 ∨ d = 6 then
      let unit := if cl < 32 then unitClu cl else unitDie d 15 0
      if 115 * 16 ≤ hot.toInt then trip 3 unit hot.toNat s
      else if cl < 32 then thermalStep cl hot s
      else if 95 * 16 < hot.toInt then
        if s.pwr.hotSeen.contains d then s
        else limitRec unit 2 hot (setPwr s { s.pwr with hotSeen := d :: s.pwr.hotSeen })
      else setPwr s { s.pwr with hotSeen := s.pwr.hotSeen.erase d }
    else s

/-! ### Supply sag (R516-R520) -/

/-- Entry and leaving levels in mV (Table 14.4). -/
def sagEntry (n : Nat) : Nat := 1782 - 36 * n
def sagLeave (n : Nat) : Nat := 1800 - 36 * n

/-- SAG_STAGE; the reading is the lowest of the four averages. -/
def sagRec (out : Nat) (s : State) : State := powerRec unitPackage 0x0604 out 5 s.pwr.railMv 0 s

/-- An instruction's queue follows whether array B is on, in issue order (R25, R129, R176). -/
def respread (k : Core) : Core :=
  let l := byAge (k.qA ++ k.qB)
  { k with qA := l.filter (fun q => (portsOf q.word k).contains 0), qB := l.filter (fun q => (portsOf q.word k).contains 1) }

/-- Array B of every core is switched off or on. -/
def switchB (off : Bool) (s : State) : State :=
  (List.range 288).foldl (fun s k => setCore s k (respread { coreOf s k with bOff := off })) s

/-- Every fabric run in progress is aborted with cause STOPPED (R432). -/
def stopFabric (s : State) : State :=
  let groups := ((busyCtxs s).filterMap (fun id => (ctxOf s id).map cGroup)).eraseDups
  groups.foldl (fun s g => raiseAbort g 7 0xFFFF s) s

/-- The ready stacks enter self-refresh (R300). -/
def refreshStacks (s : State) : State :=
  { s with stack := Tab.mapV (fun x => if x.state = 2 then { x with state := 3 } else x) s.stack }

/-- The stacks leave self-refresh, but for those of a die in a die reset, which holds them there (R300). -/
def wakeStacks (s : State) : State :=
  { s with stack := s.stack.map (fun p =>
      (p.1, if p.2.state = 3 ∧ !(dieOf s (p.1 / 3)).inReset then { p.2 with state := 2 } else p.2)) }

/-- SAG_SHUTDOWN (R519): the stage-5 actions, the record, the lasers, the regulators, PWR_SHDN_N. -/
def shutdown (s : State) : State :=
  blackout 6 true (refreshStacks (stopFabric s))

/-- The action of a stage (Table 14.4). -/
def sagAction (n : Nat) (s : State) : State :=
  if n = 2 then evalClocks s
  else if n = 3 then switchB true s
  else if n = 4 then settleLinks (fabEnd (leaseGo (settlePlan (parkPorts s))))
  else if n = 5 then fabEnd (refreshStacks (stopFabric s))
  else if n = 6 then shutdown s
  else s

/-- A stage is entered. -/
def enterSag (n : Nat) (s : State) : State :=
  let s := sagRec n (setPwr s { s.pwr with sagStage := n, sagEntries := satInc 0xFFFF s.pwr.sagEntries })
  sagAction n s

/-- Whether the rails are checked and the package has power: sag shedding acts. -/
def sagActs (s : State) : Bool := s.boot.ready || (s.boot.starting && decide (7 ≤ s.boot.stage))

/-- RAIL_SAMPLE (R516, R517): the 10 µs averages at the four compute dies; the stages whose entry level is crossed are
entered in ascending order. -/
def effRailSample (mv : List Nat) (s : State) : State :=
  if mv.length ≠ 4 ∨ !s.pwr.aoPwrGd then s
  else
    let low := (mv.foldl min (mv.getD 0 0)) % 4096
    let s := (List.range 4).foldl (fun s d => setDie s d { dieOf s d with railMv := mv.getD d 0 % 4096 }) s
    let p := s.pwr
    let s := setPwr s { p with railMv := low, lowestMv := if p.lowestMv = 0 then low else min p.lowestMv low }
    if sagActs s then
      settleProfile ([1, 2, 3, 4, 5, 6].foldl (fun s n => if s.pwr.sagStage + 1 = n ∧ low < sagEntry n ∧ sagActs s then enterSag n s else s) s)
    else s

/-- SAG_STAGE_EXIT (R517, R518): every average has stayed above the leaving level for 1 ms. -/
def effSagStageExit (s : State) : State :=
  let n := s.pwr.sagStage
  if n = 0 ∨ 5 < n ∨ s.pwr.railMv ≤ sagLeave n then s
  else
    let s := sagRec (0x10 + n) (setPwr s { s.pwr with sagStage := n - 1 })
    if n = 5 then goOnAll (grantHeld (wakeStacks s))
    else if n = 4 then settleLinks (fabEnd (leaseGo (settlePlan (unparkPorts s))))
    else if n = 3 then switchB false s
    else if n = 2 then settleProfile (evalClocks s)
    else s

/-- VIN_OVERVOLTAGE (R495). -/
def effVinOvervoltage (mv : Nat) (s : State) : State :=
  if 1980 < mv ∧ s.pwr.shdnHigh then
    shutdown (powerRec (unitDie 4 15 8) 0x0605 3 2 mv 0 s)
  else s

/-! ### Regulators and clocks that fail (R494, R496, R521) -/

/-- A cluster's rail is off: the cluster goes offline. -/
def railOffline (cl : Nat) (s : State) : State :=
  takeOffline cl (setCl s cl { clOf s cl with railOff := true, clockMhz := 0, voltMv := 0 })

/-- REGULATOR_OVERVOLTAGE (R494): a cluster rail (0-31), or a die rail (32 + d); the rail stays off for good. -/
def effRegulatorOvervoltage (r mv : Nat) (s : State) : State :=
  let set := if r < 32 then (clOf s r).voltMv else 750
  if 36 ≤ r ∨ s.pwr.deadRails.contains r ∨ s.flash.rails.contains r ∨ (mv ≤ set + 50 ∧ mv ≤ 900) then s
  else
    let s := powerRec (unitRail r) 0x0605 (if r < 32 then 1 else 2) 2 mv 0 s
    let s := { s with flash := { s.flash with rails := s.flash.rails ++ [r] }, pwr := { s.pwr with deadRails := s.pwr.deadRails ++ [r] } }
    if r < 32 then railOffline r s
    else
      let d := r - 32
      let s := quitDie d (setDie s d { dieOf s d with railOff := true, dieRailMv := 0 })
      let s := (allPorts.filter (fun k => decide (k.1 = d))).foldl (fun s k => setEnds k.1 k.2 (fun x => { x with state := 0, width := [] }) s) s
      checkRoutes (settleAlts s)

/-- REGULATOR_FAULT (R496). -/
def effRegulatorFault (r setting reading : Nat) (s : State) : State :=
  if 36 ≤ r ∨ setting ≤ reading + 50 then s
  else
    let s := powerRec (unitRail r) 0x0606 1 0 setting reading s
    if r < 32 then railOffline r s else s

/-- CLOCK_LOCK_LOSS (R521): `row` is the row of Table 14.2, `d` the die concerned. The units on the clock stop as under a
die reset; resetting the hub is a warm reset (R532), and a link port without its clock is down. -/
def effClockLockLoss (row d : Nat) (s : State) : State :=
  if row = 0 ∨ 7 < row ∨ 7 ≤ d ∨ !s.boot.ready then s
  else
    let s := powerRec (unitDie d 15 0) 0x0609 1 0 row 0 s
    if resettable d then requestDie d s
    else if row = 3 then requestWarm 8 s
    else if row = 5 then flrLike { s with pci := { s.pci with linkUp := false } }
    else { s with stp := { s.stp with linkUp := false } }

/-- CLEAR_SAG and CLEAR_CLAMP (Table 14.9). -/
def effClearSag (s : State) : State :=
  hostAccess (fun s => setPwr s { s.pwr with lowestMv := s.pwr.railMv, sagEntries := 0 }) s
def effClearClamp (s : State) : State := hostAccess (fun s => setPwr s { s.pwr with clampEpisodes := 0 }) s

end Sys2Proof.Machine
end

