-- ==== Sys2Proof/Machine/Start.lean ====
section
/-! DEFINITION. Start: the stages of a start, the boot flash and its image, and the end of a die reset (chapters 15 and
16). -/

namespace Sys2Proof.Machine

/-- The unit ids of the enclave and of the Yuton controller (Table 1.8). -/
def unitEncl : W32 := 0x4FFE0000#32
def unitYuton : W32 := 0x4FFE0001#32

/-- Whether the start under way is in a stage. -/
def inStage (s : State) (n : Nat) : Bool := s.boot.starting && !s.mgt.halted && decide (s.boot.stage = n) && s.boot.stopWarm.isNone

def setBoot (s : State) (b : Boot) : State := { s with boot := b }
def setStage (n : Nat) (s : State) : State := setBoot s { s.boot with stage := n }
def setEncl (s : State) (e : Encl) : State := { s with encl := e }

/-- What waited for the K4's requests goes on: reads of commands, and the messages whose pending bits are set on vectors
that are not masked (R476, R477, R485, R488). -/
def resumeHost (s : State) : State :=
  let s := hostPump s
  s.pci.msix.foldl (fun s m =>
    if m.2.pend && !m.2.masked && mayRequest s then
      emit (.msix m.1 m.2.addr m.2.data) (setMsix s m.1 { m.2 with pend := false })
    else s) s

/-! ### Always-on power -/

/-- What survives the loss of the always-on rails: the boot flash, the fuses, the levels that the board drives, and the
model's own fields. -/
def aoLoss (s : State) : State :=
  { State.reset with
    pending := s.pending
    free := s.free
    out := s.out
    flash := s.flash
    pci := { Pci.reset with perstHigh := s.pci.perstHigh }
    mer := { Mer.reset with combLock := s.mer.combLock, combAlarm := s.mer.combAlarm, dither := s.mer.dither }
    boot := { Boot.reset with recovery := s.boot.recovery }
    encl := { Encl.reset with
      state := if s.encl.udsBlown then 4 else 0
      fusedSvn := s.encl.fusedSvn, revoked := s.encl.revoked, udsBlown := s.encl.udsBlown, uds := s.encl.uds
      rom := s.encl.rom, certs := s.encl.certs } }

/-- AO_POWER_LOSS (R572). -/
def effAoPowerLoss (s : State) : State := aoLoss s

/-- AO_POWER_GOOD (R532, Table 15.4): a cold start with cause 1; from the recovery state RECOVERY_LEFT is written. -/
def effAoPowerGood (s : State) : State :=
  if s.pwr.aoPwrGd then s
  else
    let s := aoLoss s
    let s := { s with pwr := { s.pwr with aoPwrGd := true } }
    let s := if s.boot.recovery then record { unit := unitYuton, cls := 0x0705, outcome := 2 } s else s
    coldStart 1 s

/-! ### Stages 0x01-0x05 -/

/-- AO_CLOCKS (R573): PWR_SHDN_N is released. -/
def effAoClocks (ok : Bool) (s : State) : State :=
  if !(inStage s 0) then s
  else if !ok then startFails 0x4FFF0000#32 s
  else setStage 2 { s with pwr := { s.pwr with shdnHigh := true } }

/-- ENCLAVE_ROM (R553, R558): the self-check; a new challenge is drawn. -/
def effEnclaveRom (ok : Bool) (s : State) : State :=
  if !(inStage s 2) then s
  else if s.encl.state = 3 then startFails unitEncl s
  else if !ok then startFails unitEncl (enclaveError 1 s)
  else setStage 3 (newChallenge s)

/-- A boot record copy: whether it is valid (R538). -/
def bootValid (bs : List Byte) : Bool :=
  decide (bs.take 4 = [0x4B, 0x34, 0x42, 0x52]) && decide ((bs.getD 8 0).toNat < 2)
  && ((bs.drop 9).take 51).all (fun b => decide (b = 0))
  && decide (BitVec.ofNat 32 (leNat ((bs.drop 60).take 4)) = crc32c (bs.take 60))
def bootSeq (bs : List Byte) : Nat := leNat ((bs.drop 4).take 4)
def bootCopy (s : State) (i : Nat) : List Byte := s.flash.bytes.bytes (0x1000 * i) 64

/-- The copy of the boot record that a start uses (R538). -/
def bootUsed (s : State) : Option Nat :=
  let a := bootCopy s 0
  let b := bootCopy s 1
  if bootValid a && (!(bootValid b) || decide (bootSeq b ≤ bootSeq a)) then some 0
  else if bootValid b then some 1
  else none

/-- The region that the boot record in use names. -/
def bootRegion (s : State) : Option Nat := (bootUsed s).map (fun i => ((bootCopy s i).getD 8 0).toNat)

/-- FETCH (R538, R539): whether the image can be read. -/
def effFetch (readable : Bool) (s : State) : State :=
  if !(inStage s 3) then s
  else match bootRegion s with
    | some r => if readable then setStage 4 (setEncl s { s.encl with region := r }) else startFails unitYuton s
    | none => startFails unitYuton s

/-- Bytes of an image region (Tables 16.1, 16.2). -/
def imageBytes (s : State) (region off n : Nat) : List Byte := s.flash.bytes.bytes (0x100000 + 0x1000000 * region + off) n

/-! #### Fields of a signed header (Table 16.3) -/
def hField (h : List Byte) (i n : Nat) : Nat := leNat ((h.drop i).take n)
def hSigner (h : List Byte) : Nat := hField h 6 1
def hSvn (h : List Byte) : Nat := hField h 7 1
def hVersion (h : List Byte) : Nat := hField h 8 4
def hBody (h : List Byte) : Nat := hField h 12 4
def hDigest (h : List Byte) : List Byte := (h.drop 16).take 64
def hRevoke (h : List Byte) : Nat := hField h 80 2
def hOpen (h : List Byte) : Nat := hField h 86 1
def hPolicy (h : List Byte) : Nat := hField h 87 1
def hDebugMax (h : List Byte) : Nat := hPolicy h / 2 % 4
/-- The allow list of companions. -/
def hAllow (h : List Byte) : List Nat := (List.range (hField h 88 1)).map (fun i => hField h (96 + 4 * i) 4)

/-- A header with a bad MAGIC, FORMAT, range or reserved byte (Table 16.3). -/
def hMalformed (h : List Byte) : Bool :=
  let zero := fun (i n : Nat) => ((h.drop i).take n).all (fun b => decide (b = 0))
  decide (h.take 4 ≠ [0x4B, 0x34, 0x46, 0x57]) || decide (hField h 4 2 ≠ 1) || decide (15 < hSigner h) || decide (64 < hSvn h)
  || decide (hBody h = 0 ∨ 16711680 < hBody h) || decide (2 < hDebugMax h ∨ 8 ≤ hPolicy h) || decide (32 < hField h 88 1)
  || !(zero 89 7) || !(zero 224 288)

/-- The checks of a signer and of the signature it made over `msg` (R540); `pk`, `sig1`, `sig2` as the image or the token
carries them. 1 when they pass, else 3-5. -/
def signerChecks (revoked : W16) (id : Nat) (pk sig1 msg sig2 : List Byte) : Nat :=
  if bit revoked id then 3
  else if !(Config.slhVerify Config.rootPk (leBytes 2 id ++ pk) sig1) then 4
  else if !(Config.slhVerify pk msg sig2) then 5
  else 1

/-- VERIFY of the image in a region: the OUTCOME of R540. -/
def verifyImage (s : State) (region : Nat) : Nat :=
  let h := imageBytes s region 0 512
  let pk := imageBytes s region 0x200 64
  if hMalformed h then 2
  else if hRevoke h / 2 ^ hSigner h % 2 = 1 then 2
  else
    let c := signerChecks s.encl.revoked (hSigner h) pk (imageBytes s region 0x240 29792) h (imageBytes s region 0x76A0 29792)
    if c ≠ 1 then c
    else if hSvn h < s.encl.fusedSvn then 6
    else if Config.shake256 (imageBytes s region 0x10000 (hBody h)) 64 ≠ hDigest h then 7
    else 1

/-- FW_VERIFY (Table 16.9). -/
def fwVerify (region : Nat) (s : State) : Nat × State :=
  let h := imageBytes s region 0 512
  let r := verifyImage s region
  (r, record { unit := unitEncl, cls := 0x0802, outcome := r, d1 := BitVec.ofNat 32 (hVersion h), d2 := BitVec.ofNat 32 (hSvn h)
               d3 := BitVec.ofNat 32 (hSigner h) } s)

/-- VERIFY (R540): a passing image is the running one; a cold start goes on with KAT, a warm one with DISCOVERY. -/
def effVerify (s : State) : State :=
  if !(inStage s 4) then s
  else
    let g := s.encl.region
    let r := fwVerify g s
    let s := r.2
    if r.1 ≠ 1 then startFails unitEncl s
    else
      let h := imageBytes s g 0 512
      let e := s.encl
      let cold := decide (s.boot.kind = 1)
      let s := setEncl s { e with
        header := h, signerPk := imageBytes s g 0x200 64, bodyDigest := hDigest h
        committed := e.committed && decide (e.header = h)
        state := if cold ∧ e.state = 0 then 1 else e.state }
      let s := { s with pci := { s.pci with conf := { s.pci.conf with subVendor := hField h 82 2, subId := hField h 84 2 } } }
      setStage (if cold then 5 else 6) s

/-- KAT (R553). -/
def effKat (ok : Bool) (s : State) : State :=
  if !(inStage s 5) then s
  else if !ok then startFails unitEncl (enclaveError 1 s)
  else setStage 6 (setEncl s { s.encl with state := if s.encl.udsBlown then 4 else 2 })

/-! ### Measurements and the alias certificate (R547-R549) -/

/-- Measurement 5's input (Table 16.4). -/
def securityState (s : State) : List Byte :=
  [BitVec.ofNat 8 s.encl.fusedSvn] ++ leBytes 2 s.encl.revoked.toNat
  ++ [BitVec.ofNat 8 s.encl.debug, BitVec.ofNat 8 s.encl.lockOpen, BitVec.ofNat 8 (b2n s.pci.ideRequired), 0, 0]

/-- Measurements 2-5 (Table 16.4). -/
def measNow (s : State) : Meas where
  header := Config.shake256 s.encl.header 64
  body := s.encl.bodyDigest
  signer := Config.shake256 (leBytes 2 (hSigner s.encl.header) ++ s.encl.signerPk) 64
  security := Config.shake256 (securityState s) 64

/-- Whether the enclave can have an alias certificate: not in its error state, not decommissioned, and with its keys
(R554, R555, R559). -/
def mayAttest (s : State) : Bool :=
  decide (s.encl.state = 2) && decide (s.encl.debug < 2) && s.encl.idKey && s.encl.aliasKey && !s.encl.identityBad

/-- Milliseconds since READY; before it the manual gives no time, and the value is free. -/
def msFromReady (s : State) : W32 × State :=
  if s.boot.ready then (BitVec.ofNat 32 ((s.aoCount - s.encl.readyAt).toNat / 50000), s)
  else let (v, s) := drawWord s; (v.setWidth 32, s)

/-- ALIAS_CERT (Table 16.9). -/
def aliasRec (out : Nat) (s : State) : State :=
  let r := msFromReady s
  record { unit := unitEncl, cls := 0x0809, outcome := out, d1 := r.1 } r.2

/-- CAP_DIE_ID0 to CAP_DIE_ID6 as bytes. -/
def dieIds (s : State) : List Byte := ((List.range 7).map (fun d => leBytes 16 (s.d2d.ids.get 0 d).toNat)).flatten

/-- The seeds of the device identity key, which bind the identities of dies 0-6 (R450, R547): "K4 DEVICE ID" in ASCII, UDS,
the identities. -/
def idSeeds (s : State) : List Byte :=
  Config.shake256 ([0x4B, 0x34, 0x20, 0x44, 0x45, 0x56, 0x49, 0x43, 0x45, 0x20, 0x49, 0x44] ++ s.encl.uds ++ dieIds s) 96

/-- The seeds of the alias key (R547): "K4 ALIAS" in ASCII, UDS, measurements 2-5. -/
def aliasSeeds (s : State) : List Byte :=
  let m := measNow s
  Config.shake256 ([0x4B, 0x34, 0x20, 0x41, 0x4C, 0x49, 0x41, 0x53] ++ s.encl.uds ++ m.header ++ m.body ++ m.signer ++ m.security) 72

/-- The alias key is derived from the present measurements (R542, R547, R559). -/
def deriveAlias (s : State) : State :=
  setEncl s { s.encl with aliasSeed := if s.encl.aliasKey then aliasSeeds s else [] }

/-- R549: a cached certificate of the present measurements is used at once, and is the more recent from then on. -/
def findAlias (s : State) : State :=
  let s := deriveAlias s
  let m := measNow s
  if mayAttest s && s.encl.certs.contains m then
    aliasRec 2 (setEncl s { s.encl with aliasReady := true, certs := s.encl.certs.erase m ++ [m] })
  else setEncl s { s.encl with aliasReady := false }

/-- Otherwise the enclave begins, from READY on, to sign a new one. -/
def seekAlias (s : State) : State :=
  let s := findAlias s
  if mayAttest s && s.boot.ready && !s.encl.aliasReady then
    setEncl s { s.encl with signing := s.encl.signing ++ [measNow s] }
  else s

/-! ### DISCOVERY (R450, R523) -/

/-- DIE_KIND of the site of a die. -/
def kindAt (d : Nat) : Nat := if d < 4 then 0 else if d = 4 then 1 else 2


/-- The fuses of a die pass the check of R450. -/
def idGood (d : Nat) (w : W128) : Bool := decide (BitVec.ofNat 32 (fld w 96 32) = idCheck w ∧ fld w 0 4 = kindAt d)

/-- The rails of R523 are good. -/
def railsGood (s : State) : Bool := s.pwr.hbmPg && [0, 1, 2, 3].all (fun d => decide (1764 < (dieOf s d).railMv))

/-- Straps sampled at a cold start (R43, R570). -/
def sampleStraps (dev dom limit : Nat) (s : State) : State :=
  let s := setBoot s { s.boot with device := dev % 64, domain := dom % 16 }
  setComp s { s.d2d.comp with limit := 25 * (limit % 4) }

/-- What the enclave does in and after DISCOVERY (R489, R547-R549, R556). -/
def discoverEncl (certOk : Bool) (s : State) : State :=
  let h := s.encl.header
  let live := decide (s.encl.state = 2)
  let s := { s with pci := { s.pci with ideRequired := decide (hPolicy h % 2 = 1) } }
  let s := setEncl s { s.encl with
    lockOpen := if s.encl.debug = 2 then 7 else hOpen h % 8
    idKey := live && decide (s.encl.debug < 2), aliasKey := live, identityBad := !certOk }
  let s := setEncl s { s.encl with idSeed := if s.encl.idKey then idSeeds s else [] }
  findAlias s

/-- DISCOVERY: the die identities of dies 0-6, whose STEPPING is 1 in every die as shipped (R449), the straps, the level of HBM_PG, and whether certificate 3 holds the
derived key. It waits until the rails are good (R523). -/
def effDiscovery (ids : List W128) (dev dom limit : Nat) (pg certOk : Bool) (s : State) : State :=
  if !(inStage s 6) ∨ !(ids.all steppingOk) then s
  else
    let s := { s with pwr := { s.pwr with hbmPg := pg } }
    if !(railsGood s) then s
    else
      let s := { s with
        d2d := { s.d2d with ids := (List.range 7).map (fun d => (d, ids.getD d 0)) }
        pci := { s.pci with conf := { s.pci.conf with revision := fld (ids.getD 4 0) 4 4, serial := BitVec.ofNat 64 (fld (ids.getD 4 0) 0 64) } } }
      match (List.range 7).find? (fun d => !(idGood d (ids.getD d 0))) with
      | some d => startFails (unitDie d 15 0) s
      | none =>
        let s := if s.boot.kind = 1 then sampleStraps dev dom limit s else s
        let s := [0, 1, 2, 3].foldl (fun s d => applyLists d s) s
        let s := { s with pwr := { s.pwr with deadRails := s.flash.rails } }
        nextClass (trainClass 0 (setStage 7 (discoverEncl certOk s)))

/-- RAIL_WAIT_TIMEOUT (R523). -/
def effRailWaitTimeout (s : State) : State :=
  if !(inStage s 6) ∨ railsGood s then s
  else match [0, 1, 2, 3].find? (fun d => decide ((dieOf s d).railMv ≤ 1764)) with
    | some d => startFails (unitDie d 15 0) s
    | none => startFails unitYuton s

/-! ### DIE_LINKS (R457, R458, R465) -/

/-- The first admission rule of Table 12.4 that a companion breaks; 1 when it is admitted. -/
def admission (s : State) (width : List Nat) (desc : List Byte) : Nat :=
  if !(width.any (fun w => decide (w ≠ 0))) ∨ desc.length ≠ 32 then 2
  else if compField desc 0 2 ≠ 0x4B43 ∨ compField desc 2 1 ≠ 1 ∨ compField desc 3 1 < 12 ∨ 20 < compField desc 3 1
      ∨ compField desc 12 1 = 0 ∨ 64 < compField desc 12 1 ∨ (desc.drop 13).any (fun b => decide (b ≠ 0)) then 3
  else if !((hAllow s.encl.header).contains (compField desc 4 4)) then 4
  else if s.d2d.comp.limit < compField desc 8 2 then 5
  else 1

/-- CAP_DIE_ID7 (Table 12.1): CHECK is computed by the hub. -/
def compId (present : Bool) (desc : List Byte) : W128 :=
  let w : W128 := BitVec.ofNat 128 (if present then compField desc 4 4 * 2 ^ 64 else 0xF)
  w ||| BitVec.ofNat 128 ((idCheck w).toNat * 2 ^ 96)

/-- The companion port's width is recorded where it is degraded; a cold start at full width clears the record (R458, R460,
R461). -/
def trainedComp (width : List Nat) (s : State) : State :=
  if width = fullWidth 4 4 ∧ s.boot.kind = 1 then
    { s with flash := { s.flash with widths := (s.flash.widths.del 68).del 112 } }
  else degrade 4 4 width s

/-- The companion is admitted, or held in reset (R465). -/
def admitComp (present : Bool) (width : List Nat) (speed : Nat) (desc : List Byte) (s : State) : State :=
  let ids := fun (on : Bool) (s : State) => { s with d2d := { s.d2d with ids := s.d2d.ids.put 7 (compId on desc) } }
  if !present then ids false (setPort s 4 4 { portOf s 4 4 with state := 6 })
  else
    let r := admission s width desc
    let c := s.d2d.comp
    let up := width.any (fun w => decide (w ≠ 0))
    let s := setPort s 4 4 { portOf s 4 4 with
      state := if r = 1 then 2 else 4, width := width, speed := if up then speed else 0, std := true
      degraded := up && decide (width ≠ fullWidth 4 4) }
    let s := if up then trainedComp width s else s
    let s := setComp s { c with
      state := if r = 1 then 3 else 4, reason := if r = 1 then 0 else r, desc := desc, resetLow := decide (r ≠ 1)
      maxTags := compField desc 12 1, powerW := compField desc 8 2 }
    compRec r (ids (decide (r = 1)) s)

/-- A compute die's die-link training is valid when no port of it has failed to train (R527). -/
def linksTrained (s : State) (d : Nat) : Bool := (List.range 5).all (fun p => decide (portModules d p = 0 ∨ (portOf s d p).state = 2))

/-- DIE_LINKS: the stage ends when every port has settled; the level of COMP_PRESENT_N, the trained width and speed of the
companion port, and the descriptor read (empty when none is readable). -/
def effDieLinks (present : Bool) (width : List Nat) (speed : Nat) (desc : List Byte) (s : State) : State :=
  if !(inStage s 7) ∨ !([0, 1, 2].all (fun n => classSettled s n)) ∨ width.length ≠ 8 ∨ !(List.contains [4, 8, 16, 32] speed) then s
  else match cutOff s with
    | some d => startFails (unitDie d 15 0) (portRec d (if d < 4 then 2 else 0) 0x0504 3 s)
    | none =>
      let s := setBoot s { s.boot with d2dValid := upto 4 (linksTrained s) }
      setStage 8 (admitComp present width speed desc s)

/-! ### HBM and SRAM (R287, R298, R299, R525) -/

/-- The rates of R287, in 100 Mb/s. -/
def rateOk (r : Nat) : Bool := decide (r = 0x54 ∨ r = 0x48 ∨ r = 0x40)

/-- A stack that has trained is ready, or goes back to self-refresh while stage 5 of supply sag is in force (R300). -/
def trainedState (s : State) : Nat := if 5 ≤ s.pwr.sagStage then 3 else 2

/-- A stack trains: restored from saved training, or fully at a rate, with lanes repaired; or not at all. -/
def trainStack (k rate repaired : Nat) (restored : Bool) (s : State) : State :=
  let x := stackOf s k
  setStack s k
    (if restored then { x with state := trainedState s }
     else if rateOk rate then { x with state := trainedState s, rate := rate, repaired := repaired % 16 }
     else { x with state := 4 })

/-- Whether a start of this kind restores the saved training of a die's stacks. -/
def restores (s : State) (d : Nat) : Bool := decide (s.boot.kind = 2) && s.boot.hbmValid.contains d

/-- HBM: for each of the 12 stacks, whether a restore passes its first read check, the rate of a full training, and the
lanes repaired; and the sectors that a cold start's self-test finds bad. -/
def effHbm (res : List (Bool × Nat × Nat)) (bad : List Nat) (s : State) : State :=
  if !(inStage s 8) ∨ res.length ≠ 12 then s
  else
    let s := (res.zipIdx).foldl (fun s x => trainStack x.2 x.1.2.1 x.1.2.2 (restores s (x.2 / 3) && x.1.1) s) s
    let fails := upto 12 (fun k => (stackOf s k).state ≠ trainedState s)
    let s := setBoot s { s.boot with hbmValid := upto 4 (fun d => !(fails.any (fun k => decide (k / 3 = d)))) }
    let s := if s.boot.kind = 1 then { s with flash := { s.flash with sectors := s.flash.sectors ++ bad } } else s
    match fails with
    | k :: _ => startFails (unitId (k / 3) 15 15 9 (k % 3)) s
    | [] => setStage 9 s

/-- BIST_RETIRED (Table 15.3). -/
def bistRec (unit : W32) (code item : Nat) (s : State) : State :=
  record { unit := unit, cls := 0x0708, outcome := code, d1 := BitVec.ofNat 32 item } s

/-- What SRAM self-test does with a unit that fails (R525): a unit of core `k` (code 0-3), the mover of die `k` (5), the
plates of cluster `k` (6). -/
def bistFail (x : Nat × Nat × Nat) (s : State) : State :=
  let k := x.2.1
  if x.1 < 4 ∧ k < 288 then
    let s := bistRec (coreUnit k x.1) x.1 x.2.2 s
    if (coreOf s k).failed then s else removeCore (k / 9) (k % 9) (setCore s k { coreOf s k with failed := true })
  else if x.1 = 5 ∧ k < 4 then
    let s := bistRec (unitDie k 5 0) 5 x.2.2 s
    let s := { s with flash := { s.flash with movers := if s.flash.movers.contains k then s.flash.movers else s.flash.movers ++ [k] } }
    setDie s k { dieOf s k with mover := { (dieOf s k).mover with st := 2 } }
  else if x.1 = 6 ∧ k < 32 then
    let s := bistRec (unitId (k / 8) (k % 8) 15 8 0) 6 x.2.2 s
    let s := { s with flash := { s.flash with plates := if s.flash.plates.contains k then s.flash.plates else s.flash.plates ++ [k] } }
    takeOffline k s
  else s

/-- A failed tile mover that the memory self-test of a cold start does not find bad returns to service (R339). -/
def retryMovers (bad : List (Nat × Nat × Nat)) (s : State) : State :=
  [0, 1, 2, 3].foldl (fun s d =>
    if bad.any (fun x => decide (x.1 = 5 ∧ x.2.1 = d)) then s
    else setDie { s with flash := { s.flash with movers := s.flash.movers.filter (fun m => decide (m ≠ d)) } } d
      { dieOf s d with mover := Mark.reset }) s

/-- SRAM: a cold start tests, a warm one zeroes. The comb fibres are then asked to emit, for OPTICAL, but for those that
have dropped, which only a good probe restores (R401). -/
def effSram (bad : List (Nat × Nat × Nat)) (s : State) : State :=
  if !(inStage s 9) then s
  else
    let s := if s.boot.kind = 1 then bad.foldl (fun s x => bistFail x s) (retryMovers bad s) else zeroMemories s
    let s := [0, 1, 2, 3].foldl (fun s f =>
      if (fibreOf s f).state = 0 then setFibre s f { fibreOf s f with enHigh := false, lowLow := false } else s) s
    setStage 0xA s

/-! ### OPTICAL and STORAGE (R309, R395, R526-R528) -/

/-- The stage after OPTICAL. -/
def afterOptical (s : State) : State := setStage (if s.boot.stored then 0xC else 0xB) s

/-- The hottest sensor of a photonic die. -/
def photHot (s : State) (d : Nat) : W16 := hotSensor (s.pwr.photSensors.get [0, 0, 0, 0] d)

/-- A photonic die only relocks: its calibration is saved, and its hottest sensor is within 10 °C of then (R528). -/
def relocks (s : State) (d : Nat) : Bool :=
  let t := (photHot s d).toInt - (s.boot.optTemp.get 0 d).toInt
  decide (s.boot.kind = 2) && s.boot.optValid.contains d && decide (-160 ≤ t ∧ t ≤ 160)

/-- The links of a photonic die are calibrated or relocked: those that `up` lists reach their resting state with both locks,
the others stay down. -/
def lightDie (d : Nat) (full : Bool) (up rts : List Nat) (s : State) : State :=
  (upto 64 (fun p => linkDie p = d)).foldl (fun s p =>
    let k := linkOf s p
    setLink s p (if up.contains p then
        { k with state := restState s p, txLock := true, rxLock := true, loopRt := if full then rts.getD p 0 % 65536 else k.loopRt }
      else { k with state := 0, txLock := false, rxLock := false })) s

/-- A full calibration is saved with the die's hottest sensor (R527). -/
def saveOptical (d : Nat) (s : State) : State :=
  setBoot s { s.boot with
    optValid := if s.boot.optValid.contains d then s.boot.optValid else s.boot.optValid ++ [d]
    optTemp := s.boot.optTemp.put d (photHot s d) }

/-- TOPOLOGY (R44): 1 the id differs from the cabling, 2 duplicate. -/
def topoConflict (p out peer : Nat) (s : State) : State :=
  linkRec p 0x0407 out peer (setBoot s { s.boot with idConflict := true })

/-- A conflict of R44 in service puts the package in recovery. -/
def topoService (p out peer : Nat) (s : State) : State := enterRecovery 0xA (unitLink p) (topoConflict p out peer s)


/-- The device that a package at the router port of its device id hears on a line (R349, R365, R374). -/
def heardOn (s : State) (line : Nat) : Nat := 64 * s.boot.domain + (s.boot.device + 64 - line % 64) % 64

/-- What a frame shows of the device id (R44): a peer's frame with the package's own id is a duplicate (2); any other frame,
the loopback slot's on line 0 included, must come from the device that the line brings to the port of that id, else the
id differs from the cabling (1). -/
def frameFault (s : State) (f : Frame) : Option Nat :=
  if f.line % 64 ≠ 0 ∧ f.src = ownGid s then some 2
  else if f.src ≠ heardOn s f.line then some 1
  else none

/-- The first conflict that frames show, with its frame. -/
def framesFault (s : State) (fs : List Frame) : Option (Frame × Nat) :=
  fs.findSome? (fun f => (frameFault s f).map (fun n => (f, n)))

/-- Frames of peers that agree with the cabling confirm the id (Table 1.6). -/
def confirmId (fs : List Frame) (s : State) : State :=
  setBoot s { s.boot with idVerified := s.boot.idVerified || fs.any (fun f => decide (f.line % 64 ≠ 0)) }

/-- What the frames of a calibration in service show (R44). -/
def framesService (fs : List Frame) (s : State) : State :=
  match framesFault s fs with
  | some (f, n) => topoService f.link n f.src s
  | none => confirmId fs s

/-- CALIBRATION_END, with the frames received (R44, R395). -/
def effCalibrated (p : Nat) (ok : Bool) (rt : Nat) (fs : List Frame) (s : State) : State :=
  let cal := decide (p < 64 ∧ (linkOf s p).state = 5) && s.boot.ready
  let s := effCalibrationEnd p ok rt s
  if cal then framesService fs s else s

/-- The line that the local oscillator of a link takes: by the schedule, or leased on a domain plane. -/
def heardLine (s : State) (p : Nat) : Option Nat :=
  if isAddr s p then slotOffset s p
  else if (linkOf s p).cabNow = 0 ∧ (linkOf s p).rxEn then some (linkOf s p).rxLine else none

/-- TEST_CELL (R44, R354, R392): the loopback slot is never filtered; a TEST cell to this package is checked as the frames
of a calibration are. -/
def effTestFrame (p : Nat) (c : Cell) (s : State) : State :=
  if c.typ ≠ 5 then s
  else
    let check := fun (s : State) => match heardLine s p with
      | some k => if s.boot.ready then framesService [⟨p, k, c.src⟩] s else s
      | none => s
    if receiving s p && isAddr s p && decide (slotOffset s p = some 0) then check s else front p c check s

/-- OPTICAL: the links that calibrate, their loopback round trips, the slot count that the slot reference shows when phase
is acquired (R364), and the frames received in a full calibration (R44). -/
def effOptical (up rts : List Nat) (phase : Option Nat) (fs : List Frame) (s : State) : State :=
  if !(inStage s 0xA) ∨ !s.mer.combLock then s
  else
    let seen := fs.filter (fun f => !(relocks s (linkDie f.link)))
    let s := [5, 6].foldl (fun s d =>
      let full := !(relocks s d)
      let s := lightDie d full up rts s
      if full then saveOptical d s else s) s
    let s := { s with mer := { s.mer with phaseLock := phase.isSome, slot := phase.getD s.mer.slot % 1024 } }
    match framesFault s seen with
    | some (f, n) => startFails (unitLink f.link) (topoConflict f.link n f.src s)
    | none => afterOptical (confirmId seen s)

/-- COMB_LOCK_TIMEOUT (R526). -/
def effCombLockTimeout (s : State) : State :=
  if !(inStage s 0xA) ∨ s.mer.combLock then s
  else afterOptical (fabricRec 0x0408 1 0xFFFF ([5, 6].foldl (fun s d => lightDie d true [] [] s) s))

/-- STORAGE (R308-R310): the link as it trains, which is not used without flit mode, and the controllers that the engine
finds behind it and initialises. -/
def effStorage (up flit : Bool) (speed width : Nat) (found : List NvFound) (s : State) : State :=
  if !(inStage s 0xA || inStage s 0xB) || s.boot.stored then s
  else
    let used := up && flit && decide (1 ≤ speed ∧ speed ≤ 6) && [1, 2, 4, 8].contains width
    let s := { s with stp := { s.stp with linkUp := used, speed := if used then speed else 0, width := if used then width else 0 } }
    let s := (List.range 4).foldl (fun (s : State) n =>
      match (if used then found.find? (fun c => decide (c.port = n)) else none) with
      | some c => nvInit c s
      | none => setNvCtrl s n { nvCtrl s n with present := false, spaces := [], pairs := 0 }) s
    if s.boot.stage = 0xB then setStage 0xC s else setBoot s { s.boot with stored := true }

/-! ### READY (R530, R542) -/

/-- A commit ends (R542): one that has changed a bit is recorded, and measurement 5 is new. -/
def endCommit (s : State) : State :=
  let e := s.encl
  let s := setEncl s { e with committed := true, blown := false }
  if !e.blown then s
  else
    let s := record { unit := unitEncl, cls := 0x0804, outcome := e.fusedSvn, d1 := BitVec.ofNat 32 e.revoked.toNat } s
    seekAlias (setEncl s { s.encl with sessions := [], aliasReady := false })

/-- From the first READY under an image on, the enclave commits it, a bit at a time: the bits of the SVN field, then those
that REVOKE names (R542). A power loss between two bits leaves the others to the next READY. -/
def commitBit (s : State) : State :=
  let e := s.encl
  if !s.boot.ready ∨ e.committed then s
  else if e.fusedSvn < hSvn e.header then setEncl s { e with fusedSvn := e.fusedSvn + 1, blown := true }
  else match (List.range 16).find? (fun n => decide (hRevoke e.header / 2 ^ n % 2 = 1) && !(bit e.revoked n)) with
    | some n => setEncl s { e with revoked := e.revoked ||| BitVec.ofNat 16 (2 ^ n), blown := true }
    | none => endCommit s

/-- READY: START_READY; records switch to the ring; WARM_FAILS is cleared; a held warm reset is performed (R530, R535). The
image is committed in the ticks that follow (R542, log 2). -/
def effReady (s : State) : State :=
  if !(inStage s 0xC) then s
  else
    let b := s.boot
    let s := record { unit := unitYuton, cls := 0x0702, outcome := b.kind
                      d1 := BitVec.ofNat 32 ((s.aoCount - b.begun).toNat / 50000), d2 := BitVec.ofNat 32 b.warmFails } s
    let s := { s with
      recs := { s.recs with inService := true }
      boot := { b with ready := true, starting := false, warmFails := 0, warmHeld := none }
      encl := { s.encl with readyAt := s.aoCount } }
    let s := if s.encl.aliasReady then s else seekAlias s
    let s := goOnAll s
    match b.warmHeld with
    | some c => requestWarm c s
    | none => s

/-! ### The end of a die reset (R527, R533) -/

/-- The next held die reset begins (R535). -/
def nextDieReset (s : State) : State :=
  let s := setBoot s { s.boot with dieReset := none }
  match s.boot.dieHeld with
  | [] => s
  | d :: r => beginDieReset d (setBoot s { s.boot with dieHeld := r })

/-- DIE_RESET_COMPLETE: for a compute die the rate and repaired lanes of each stack and the units that self-test finds bad,
for a photonic die the links that calibrate, and the frames they receive in it (R44). A reset that fails is followed by a
warm start with cause 8. -/
def effDieResetComplete (d : Nat) (ok : Bool) (sts : List (Nat × Nat)) (bad : List (Nat × Nat × Nat)) (up rts : List Nat)
    (fs : List Frame) (s : State) : State :=
  if s.boot.dieReset ≠ some d then s
  else
    let s := if d < 4 then
        let s := (List.range 3).foldl (fun s i => trainStack (3 * d + i) (sts.getD i (0, 0)).1 (sts.getD i (0, 0)).2 false s) s
        (bad.filter (fun x => decide (if x.1 < 4 then x.2.1 / 72 = d else if x.1 = 5 then x.2.1 = d else x.2.1 / 8 = d))).foldl
          (fun s x => bistFail x s) s
      else lightDie d true up rts s
    let trained := decide (4 ≤ d) || (List.range 3).all (fun i => decide ((stackOf s (3 * d + i)).state = trainedState s))
    let linked := (allPorts.filter (fun k => decide (k.1 = d))).all (fun k =>
      decide ((portOf s k.1 k.2).state = 2 ∨ (portOf s k.1 k.2).state = 4))
    let s := if d < 4 then setDie s d { dieOf s d with inReset := false } else setPhot s d { photOf s d with inReset := false }
    if !ok || !trained || !linked then
      requestWarm 8 (dieRec d 3 (setBoot s { s.boot with dieReset := none, dieHeld := [] }))
    else
      let s := if d < 4 then
          setBoot s { s.boot with hbmValid := s.boot.hbmValid ++ [d], d2dValid := s.boot.d2dValid ++ (if linksTrained s d then [d] else []) }
        else saveOptical d s
      let s := goOnAll (nextDieReset (checkRoutes (dieRec d 2 s)))
      if 4 < d then framesService (fs.filter (fun f => decide (linkDie f.link = d))) s else s

end Sys2Proof.Machine
end

