-- ==== Sys2Proof/Machine/Enclave.lean ====
section
/-! DEFINITION. Enclave: firmware update, platform management, attestation, IDE key management, tokens and tests of the
Relouser enclave and the Yuton controller (chapter 16). A binding is 1 I3C, 2 SMBus or 3 PCIe. -/

namespace Sys2Proof.Machine

def setMgt (s : State) (m : Mgt) : State := { s with mgt := m }

/-- Whether a message on a binding reaches the K4 (R560, R564, Table 16.7). -/
def reaches (s : State) (b : Nat) : Bool :=
  s.pwr.aoPwrGd && !s.mgt.halted
  && (decide (b = 1) && s.mgt.i3c || decide (b = 2) && !s.mgt.i3c || decide (b = 3) && s.pci.linkUp)

/-- A message that reaches the K4 is handled. -/
def onBinding (b : Nat) (f : State → State) (s : State) : State := if reaches s b then f s else s

def answer (b : Nat) (a : Answer) (s : State) : State := emit (.answer b a) s

/-! ### Bindings (R560) -/

/-- MCTP_BINDING (Table 16.9). -/
def bindingRec (out eid : Nat) (s : State) : State :=
  record { unit := unitYuton, cls := 0x0808, outcome := out, d1 := BitVec.ofNat 32 eid } s

/-- MGT_STATUS.BINDING changes; the new binding has no endpoint id yet. -/
def setBinding (b : Nat) (s : State) : State :=
  if s.mgt.binding = b then s else bindingRec b 0 (setMgt s { s.mgt with binding := b, eid := 0 })

/-- I3C_ADDRESS_ASSIGN: SETAASA or ENTDAA. -/
def effI3cAddressAssign (addr : Nat) (s : State) : State :=
  if !s.pwr.aoPwrGd then s else setBinding 1 (setMgt s { s.mgt with i3c := true, addr := addr % 128 })

/-- I3C_BUS_RESET: the interface returns to SMBus. -/
def effI3cBusReset (s : State) : State :=
  if !s.pwr.aoPwrGd ∨ !s.mgt.i3c then s else setBinding 2 (setMgt s { s.mgt with i3c := false, addr := 0 })

/-- SET_ENDPOINT_ID. -/
def effSetEndpointId (b eid : Nat) (s : State) : State :=
  onBinding b (fun s =>
    if b = 3 then answer b (.done []) (setMgt s { s.mgt with vdm := true, eidPcie := eid % 256 })
    else
      let s := setBinding b s
      answer b (.done []) (setMgt s { s.mgt with eid := eid % 256 })) s

/-! ### Firmware update (R544-R546) -/

/-- The region that the boot record does not name. -/
def otherRegion (s : State) : Nat := match bootRegion s with
  | some r => 1 - r
  | none => 0

/-- REQUEST_UPDATE: the agent's largest transfer and the version offered. -/
def effRequestUpdate (b maxLen : Nat) (version : W32) (s : State) : State :=
  onBinding b (fun s =>
    if b = 3 then answer b .unableToInitiate s
    else if s.boot.starting then answer b .retryUpdate s
    else if s.mgt.upd.isSome ∨ maxLen = 0 then answer b .refused s
    else
      let s := setMgt s { s.mgt with update := 1, upd := some ⟨b, 0, min 4096 maxLen, 0, version, false, false⟩ }
      answer b (.done []) (fwUpdate 1 version.toNat 0 s)) s

/-- The next piece is asked for. -/
def askPiece (u : Upd) (s : State) : State := emit (.fwData u.binding u.got (min u.piece (u.size - u.got))) s

/-- UPDATE_COMPONENT: a component above 16 MiB is refused; the region that the boot record does not name is erased. -/
def effUpdateComponent (b size : Nat) (s : State) : State :=
  onBinding b (fun s =>
    match s.mgt.upd with
    | none => answer b .refused s
    | some u =>
      if u.binding ≠ b ∨ u.component ∨ size = 0 ∨ 0x1000000 < size then answer b .refused s
      else
        let u := { u with size := size, component := true }
        let base := 0x100000 + 0x1000000 * otherRegion s
        let s := { s with flash := { s.flash with bytes := s.flash.bytes.clear base (base + 0x1000000) } }
        askPiece u (answer b (.done []) (setMgt s { s.mgt with upd := some u }))) s

/-- FIRMWARE_DATA: a piece arrives and is written; after the last, TransferComplete. -/
def effFirmwareData (b : Nat) (data : List Byte) (s : State) : State :=
  onBinding b (fun s =>
    match s.mgt.upd with
    | none => s
    | some u =>
      if u.binding ≠ b ∨ !u.component ∨ u.got = u.size ∨ data.length ≠ min u.piece (u.size - u.got) then s
      else
        let base := 0x100000 + 0x1000000 * otherRegion s + u.got
        let u := { u with got := u.got + data.length }
        let s := { s with flash := { s.flash with bytes := s.flash.bytes.writes base data } }
        if u.got = u.size then
          emit (.fwStep b 1 0) (setMgt s { s.mgt with update := 2, upd := some u })
        else askPiece u (setMgt s { s.mgt with upd := some u })) s

/-- UPDATE_VERIFY_DONE: R540 over the region read back; VerifyComplete, and ApplyComplete after a pass. -/
def effUpdateVerifyDone (s : State) : State :=
  match s.mgt.upd with
  | none => s
  | some u =>
    if !u.component ∨ u.got ≠ u.size ∨ u.verified ∨ s.mgt.halted then s
    else
      let g := otherRegion s
      let r := fwVerify g s
      let v := hVersion (imageBytes s g 0 512)
      if r.1 = 1 then
        let s := fwUpdate 2 v 1 (setMgt r.2 { s.mgt with upd := some { u with verified := true } })
        emit (.fwStep u.binding 3 0) (emit (.fwStep u.binding 2 1) s)
      else
        emit (.fwStep u.binding 2 r.1) (fwUpdate 5 v r.1 (setMgt r.2 { s.mgt with update := 0, upd := none }))

/-- A boot record (R538). -/
def bootRecord (seq active : Nat) : List Byte :=
  let bs : List Byte := [0x4B, 0x34, 0x42, 0x52] ++ leBytes 4 seq ++ [BitVec.ofNat 8 active] ++ List.replicate 51 0
  bs ++ leBytes 4 (crc32c bs).toNat

/-- The copy that a new record overwrites: the one with the smaller SEQ, or the one that is not valid (R538). -/
def bootTarget (s : State) : Nat := match bootUsed s with
  | some 0 => 1
  | _ => 0

/-- A new boot record names a region. -/
def writeBoot (region : Nat) (s : State) : State :=
  let seq := match bootUsed s with
    | some i => (bootSeq (bootCopy s i) + 1) % 2 ^ 32
    | none => 1
  { s with flash := { s.flash with bytes := s.flash.bytes.writes (0x1000 * bootTarget s) (bootRecord seq region) } }

/-- ACTIVATE_FIRMWARE: in the recovery state it is the request for a cold start with cause 7. -/
def effActivateFirmware (b : Nat) (s : State) : State :=
  onBinding b (fun s =>
    match s.mgt.upd with
    | none => answer b .refused s
    | some u =>
      if u.binding ≠ b ∨ !u.verified then answer b .refused s
      else
        let g := otherRegion s
        let v := hVersion (imageBytes s g 0 512)
        let s := writeBoot g (setMgt s { s.mgt with update := 3, upd := none })
        let s := fwUpdate 3 v 1 (answer b (.done []) s)
        if s.boot.recovery then coldStart 7 (record { unit := unitYuton, cls := 0x0705, outcome := 1 } s) else s) s

/-- GET_FIRMWARE_PARAMETERS: the version of the active image, and the pending image's while an activation is pending. PLDM
Type 5 is not offered over PCIe (Table 16.7). -/
def effGetFirmwareParameters (b : Nat) (s : State) : State :=
  onBinding b (fun s =>
    if b = 3 then answer b .refused s
    else
      let v := fun (g : Nat) => leBytes 4 (hVersion (imageBytes s g 0 512))
      let act := (bootRegion s).getD 0
      answer b (.done (v act ++ (if s.mgt.update = 3 then v (1 - act) else []))) s) s

/-- QUERY_DEVICE_IDENTIFIERS (R544). -/
def effQueryDeviceIdentifiers (b : Nat) (s : State) : State :=
  onBinding b (fun s =>
    if b = 3 then answer b .refused s
    else answer b (.done (leBytes 2 s.pci.conf.vendor ++ leBytes 2 s.pci.conf.device ++ leBytes 8 (fld (s.d2d.ids.get 0 4) 0 64))) s) s

/-! ### Sensors (R562, Table 16.8) -/

/-- A sensor: its id, whether it is a state sensor, and its thresholds. -/
abbrev Sensor := Nat × Bool × List Int

/-- The repository, in the table's order; the profile's limit is the warning of the package power. -/
def sensors (s : State) : List Sensor :=
  [(0x01, false, [95, 105, 115])]
  ++ (List.range 8).map (fun d => (0x10 + d, false, if d = 4 ∨ d = 5 ∨ d = 6 then [95] else [95, 105, 115]))
  ++ (List.range 12).map (fun k => (0x20 + k, false, [85, 95, 105]))
  ++ [(0x30, false, [(profileWatts s.pwr.profile : Int)])]
  ++ (List.range 4).map (fun d => (0x31 + d, false, [1746, 1638, 1566]))
  ++ (List.range 4).map (fun i => (0x40 + i, true, []))
  ++ (List.range 4).map (fun f => (0x50 + f, false, [-6]))

/-- A reading in signed 1/16 °C as whole degrees. -/
def degrees (w : W16) : Int := w.toInt / 16

/-- The hottest sensor of die 0-6. -/
def dieHot (s : State) (d : Nat) : W16 :=
  if d < 4 then hotSensor ((List.range 8).map (fun c => (clOf s (8 * d + c)).sensors)).flatten
  else if d = 4 then hotSensor s.pwr.hubSensors
  else photHot s d

/-- PCI_READY.STAGE. -/
def stageCode (s : State) : Nat := s.boot.stage

/-- A reading now; the manual gives the K4 no sensor of die 7, whose value `free` stands for. -/
def readingNow (s : State) (free : Int) (id : Nat) : Int :=
  if id = 0x01 then degrees (hottest s).1
  else if id = 0x17 then free
  else if id < 0x18 then degrees (dieHot s (id - 0x10))
  else if id < 0x30 then signedOf 8 (stackOf s (id - 0x20)).temp
  else if id = 0x30 then s.pwr.powerW
  else if id < 0x40 then (dieOf s (id - 0x31)).railMv
  else if id = 0x40 then stageCode s
  else if id = 0x41 then s.pwr.sagStage
  else if id = 0x42 then s.pwr.profile
  else if id = 0x43 then (if s.boot.recovery then 3 else if s.mgt.update = 3 then 2 else 1)
  else signedOf 8 (fibreOf s (id - 0x50)).power

/-- SENSOR_REFRESH. -/
def effSensorRefresh (s : State) : State :=
  if !s.pwr.aoPwrGd ∨ s.mgt.halted then s
  else
    let (v, s) := drawWord s
    setMgt s { s.mgt with readings := (sensors s).map (fun x => (x.1, readingNow s (signedOf 8 v.toNat) x.1)) }

/-- GET_PDR: the record of a handle, from 1 on. -/
def effGetPdr (b handle : Nat) (s : State) : State :=
  onBinding b (fun s =>
    match (if handle = 0 then none else (sensors s)[handle - 1]?) with
    | some x => answer b (.done (leBytes 2 x.1 ++ [BitVec.ofNat 8 (b2n x.2.1)]
        ++ (x.2.2.map (fun t => leBytes 2 (BitVec.ofInt 16 t).toNat)).flatten)) s
    | none => answer b .refused s) s

/-- GET_PDR_REPOSITORY_INFO: the number of records. -/
def effGetPdrRepositoryInfo (b : Nat) (s : State) : State :=
  onBinding b (fun s => answer b (.done (leBytes 2 (sensors s).length)) s) s

/-- A sensor is read as last refreshed. -/
def readSensor (b id : Nat) (state : Bool) (s : State) : State :=
  if (sensors s).any (fun x => decide (x.1 = id) && (x.2.1 == state)) then
    answer b (.done (leBytes 4 (BitVec.ofInt 32 (s.mgt.readings.get 0 id)).toNat)) s
  else answer b .refused s

/-- GET_SENSOR_READING. -/
def effGetSensorReading (b id : Nat) (s : State) : State := onBinding b (fun s => readSensor b id false s) s

/-- GET_STATE_SENSOR_READINGS. -/
def effGetStateSensorReadings (b id : Nat) (s : State) : State := onBinding b (fun s => readSensor b id true s) s

/-! ### Events (R563) -/

/-- A record travels as a PlatformEventMessage of class 0xFA. -/
def sendEvent (r : Rec) (s : State) : State := emit (.mctp s.mgt.events (0xFA#8 :: recBytes r)) s

/-- The oldest waiting record is sent when delivery is asynchronous and none is in flight. -/
def pushEvent (s : State) : State :=
  if !s.mgt.async ∨ s.mgt.halted ∨ s.mgt.inFlight.isSome then s
  else match s.recs.bmc with
    | [] => s
    | r :: _ => sendEvent r (setMgt s { s.mgt with inFlight := some r.seq, tries := 0 })

/-- SET_EVENT_RECEIVER. -/
def effSetEventReceiver (b : Nat) (s : State) : State :=
  onBinding b (fun s =>
    pushEvent (answer b (.done []) (setMgt s { s.mgt with async := true, events := b, inFlight := none, tries := 0 }))) s

/-- A record has been taken by the board management controller. -/
def takeBmc (q : W32) (s : State) : State :=
  { s with recs := { s.recs with bmc := s.recs.bmc.filter (fun r => decide (r.seq ≠ q)) } }

/-- PLATFORM_EVENT_RESPONSE. -/
def effPlatformEventResponse (b : Nat) (s : State) : State :=
  match s.mgt.inFlight with
  | some q =>
    if reaches s b && decide (b = s.mgt.events) then
      pushEvent (takeBmc q (setMgt s { s.mgt with inFlight := none, tries := 0 }))
    else s
  | none => s

/-- PLATFORM_EVENT_TIMEOUT: sent again, at most three times; then delivery is polled. A record that the event log has
overwritten meanwhile is not sent again (R347). -/
def effPlatformEventTimeout (s : State) : State :=
  match s.mgt.inFlight with
  | none => s
  | some q =>
    if s.mgt.tries = 3 then
      bindingRec 3 (if s.mgt.events = 3 then s.mgt.eidPcie else s.mgt.eid)
        (setMgt s { s.mgt with async := false, inFlight := none, tries := 0 })
    else match s.recs.bmc.find? (fun r => decide (r.seq = q)) with
      | some r => sendEvent r (setMgt s { s.mgt with tries := s.mgt.tries + 1 })
      | none => pushEvent (setMgt s { s.mgt with inFlight := none, tries := 0 })

/-- POLL_FOR_PLATFORM_EVENT_MESSAGE: the oldest waiting record, while delivery is polled. -/
def effPollForPlatformEventMessage (b : Nat) (s : State) : State :=
  onBinding b (fun s =>
    if s.mgt.async ∨ (s.mgt.events ≠ 0 ∧ s.mgt.events ≠ b) then answer b (.done []) s
    else match s.recs.bmc with
      | [] => answer b (.done []) s
      | r :: rest => answer b (.done (0xFA#8 :: recBytes r)) { s with recs := { s.recs with bmc := rest } }) s

/-- EVENT_MESSAGE_SUPPORTED. -/
def effEventMessageSupported (b : Nat) (s : State) : State := onBinding b (fun s => answer b (.done [0xFA]) s) s

/-- EVENT_MESSAGE_BUFFER_SIZE: the manual gives no size, so it is free. -/
def effEventMessageBufferSize (b : Nat) (s : State) : State :=
  onBinding b (fun s =>
    let (bs, s) := drawBytes 2 s
    answer b (.done bs) s) s

/-! ### SPDM (R549-R551, R554, R555, R559) -/

/-- A request that needs no signature: in the error state Unspecified. -/
def spdm (b : Nat) (f : State → State) (s : State) : State :=
  onBinding b (fun s => if s.encl.state = 3 then answer b .unspecified s else f s) s

/-- A request that needs the alias certificate. -/
def spdmCert (b : Nat) (f : State → State) (s : State) : State :=
  spdm b (fun s =>
    if s.encl.debug = 2 then answer b .unspecified s
    else if s.encl.udsBlown ∨ s.encl.identityBad then answer b .refused s
    else if !s.encl.aliasReady then answer b .busy s
    else f s) s

/-- A request that needs the alias key too (R555). -/
def spdmSigned (b : Nat) (f : State → State) (s : State) : State :=
  spdmCert b (fun s => if !s.encl.aliasKey then answer b .busy s else f s) s

/-- NEGOTIATE_ALGORITHMS. -/
def effNegotiateAlgorithms (b : Nat) (slhDsa : Bool) (s : State) : State :=
  spdm b (fun s => answer b (if slhDsa then .done [] else .refused) s) s

/-- The alias certificate of the chain: the cached one of the present measurements, else the most recent (R549). -/
def certNow (s : State) : Meas :=
  if s.encl.certs.contains (measNow s) then measNow s else s.encl.certs.getLastD (measNow s)

/-- GET_CERTIFICATE of slot 0. -/
def effGetCertificate (b : Nat) (s : State) : State :=
  spdmCert b (fun s =>
    let m := certNow s
    answer b (.chain [m.header, m.body, m.signer, m.security]) s) s

/-- A measurement (Table 16.4). -/
def measurement (s : State) (n : Nat) : List Byte :=
  let m := measNow s
  if n = 1 then s.encl.rom
  else if n = 2 then m.header
  else if n = 3 then m.body
  else if n = 4 then m.signer
  else if n = 5 then m.security
  else if n = 6 then Config.shake256 (dieIds s) 64
  else Config.shake256 (if compPresent s then leBytes 16 (s.d2d.ids.get 0 7).toNat ++ s.d2d.comp.desc else List.replicate 48 0) 64

/-- GET_MEASUREMENTS: block 1-7, or all of them (0xFF), or their number (0). -/
def effGetMeasurements (b idx : Nat) (sign : Bool) (s : State) : State :=
  let data := fun (s : State) =>
    if idx = 0 then some [7] else if idx < 8 then some (measurement s idx)
    else if idx = 0xFF then some (((List.range 7).map (fun i => measurement s (i + 1))).flatten) else none
  let reply := fun (s : State) => match data s with
    | some d => answer b (if sign then .signed d else .done d) s
    | none => answer b .refused s
  if sign then spdmSigned b reply s else spdm b reply s

/-- CHALLENGE. -/
def effChallenge (b : Nat) (s : State) : State := spdmSigned b (fun s => answer b (.signed []) s) s

/-- KEY_EXCHANGE: a fifth session is answered Busy; so is one without the keys (R555). -/
def effKeyExchange (b sid : Nat) (s : State) : State :=
  spdm b (fun s =>
    if 4 ≤ s.encl.sessions.length ∨ !s.encl.aliasKey ∨ s.encl.sessions.any (fun x => decide (x.1 = sid)) then answer b .busy s
    else answer b (.signed []) (setEncl s { s.encl with sessions := s.encl.sessions ++ [(sid, b)] })) s

/-- END_SESSION; the IDE stream runs on (R551). -/
def effEndSession (b sid : Nat) (s : State) : State :=
  spdm b (fun s =>
    if s.encl.sessions.contains (sid, b) then
      answer b (.done []) (setEncl s { s.encl with sessions := s.encl.sessions.erase (sid, b) })
    else answer b .refused s) s

/-- IDE_KM runs in a session on the PCIe binding (R551). -/
def ideKm (sid : Nat) (f : State → State) (s : State) : State :=
  spdm 3 (fun s => if s.encl.sessions.contains (sid, 3) ∧ !s.encl.udsBlown then f s else answer 3 .refused s) s

/-- KEY_PROG: a key set, 0 or 1, of the one stream. -/
def effKeyProg (sid strm set : Nat) (s : State) : State :=
  ideKm sid (fun s =>
    if 2 ≤ set then answer 3 .refused s
    else
      let s := setEncl s { s.encl with ideSets := if s.encl.ideSets.contains set then s.encl.ideSets else s.encl.ideSets ++ [set] }
      answer 3 (.done []) { s with pci := { s.pci with
        ideStream := strm % 256, ideState := if s.pci.ideState = 0 then 1 else s.pci.ideState } }) s

/-- K_SET_GO: the stream runs, secure, with an installed key set. -/
def effKSetGo (sid set : Nat) (s : State) : State :=
  ideKm sid (fun s =>
    if !(s.encl.ideSets.contains set) then answer 3 .refused s
    else answer 3 (.done []) (resumeHost (linkSecurity 2 { s with pci := { s.pci with ideState := 2, ideBlocked := false } }))) s

/-- K_SET_STOP. -/
def effKSetStop (sid : Nat) (s : State) : State :=
  ideKm sid (fun s =>
    if s.pci.ideState ≠ 2 then answer 3 .refused s
    else answer 3 (.done []) (linkSecurity 3 { s with pci := { s.pci with ideState := 1 } })) s

/-! ### Tokens, zeroisation and tests (R553-R561) -/

/-- GET_CHALLENGE. -/
def effGetChallenge (b : Nat) (s : State) : State := onBinding b (fun s => answer b (.done s.encl.challenge) s) s

/-- What SUBMIT_TOKEN answers (R558, R561). -/
def tokenCheck (s : State) (b : Nat) (t : List Byte) : Nat :=
  let h := t.take 128
  let kind := hField h 4 1
  let level := hField h 5 1
  let id := hField h 6 1
  let zero := fun (i n : Nat) => ((h.drop i).take n).all (fun b => decide (b = 0))
  if t.length ≠ 0xE980 ∨ h.take 4 ≠ [0x4B, 0x34, 0x44, 0x54] ∨ !(decide (kind = 1 ∧ (level = 1 ∨ level = 2) ∨ kind = 2 ∧ level = 0))
      ∨ 15 < id ∨ !(zero 7 1) ∨ !(zero 48 80) then 2
  else
    let at' := fun (i n : Nat) => (t.drop i).take n
    let c := signerChecks s.encl.revoked id (at' 0x80 64) (at' 0xC0 29792) h (at' 0x7520 29792)
    if c ≠ 1 then c
    else if hField h 8 8 ≠ fld (s.d2d.ids.get 0 4) 0 64 ∨ (h.drop 16).take 32 ≠ s.encl.challenge then 8
    else if kind = 1 ∧ (hDebugMax s.encl.header < level ∨ level < s.encl.debug) then 8
    else if kind = 2 ∧ b = 3 then 8
    else 0

/-- DEBUG (Table 16.9). -/
def debugRec (out code : Nat) (s : State) : State :=
  record { unit := unitEncl, cls := 0x0807, outcome := out, d1 := BitVec.ofNat 32 code } s

/-- The debug level rises (R559). -/
def raiseDebug (level : Nat) (s : State) : State :=
  if level ≤ s.encl.debug then s
  else
    let s := setEncl s { s.encl with
      debug := level, sessions := [], aliasReady := false, lockOpen := if level = 2 then 7 else s.encl.lockOpen }
    if level = 2 then zeroise 4 s else seekAlias s

/-- Decommissioning: every UDS fuse bit is one (R555). -/
def decommission (s : State) : State :=
  let s := dropKeys false s
  record { unit := unitEncl, cls := 0x0806, outcome := 2, d1 := 2 }
    (setEncl s { s.encl with state := 4, udsBlown := true, uds := List.replicate 32 0xFF, aliasReady := false })

/-- SUBMIT_TOKEN: a new challenge is drawn whether the token is accepted or refused. -/
def effSubmitToken (b : Nat) (t : List Byte) (s : State) : State :=
  onBinding b (fun s =>
    let c := tokenCheck s b t
    let s := if c ≠ 0 then debugRec 0xF c s
      else if hField t 4 1 = 1 then
        let s := raiseDebug (hField t 5 1) s
        debugRec s.encl.debug 0 s
      else decommission s
    answer b (.code c) (newChallenge s)) s

/-- COLD_START (R561). -/
def effColdStartMsg (b : Nat) (s : State) : State := onBinding b (fun s => effColdStart b s) s

/-- ZEROISE, the message. -/
def effZeroise (b : Nat) (s : State) : State := onBinding b (fun s => answer b (.done []) (zeroise 2 s)) s

/-- ENC_ZEROISE: ENC_CONTROL.ZEROISE written. -/
def effEncZeroise (s : State) : State := hostAccess (fun s => zeroise 1 s) s

/-- SELF_TEST: ENC_CONTROL.SELF_TEST written, and whether the tests pass. -/
def effSelfTest (ok : Bool) (s : State) : State :=
  hostAccess (fun s => if ok ∨ s.encl.state = 3 then s else enclaveError 1 s) s

/-- CONDITIONAL_TEST_FAILURE: during a start it fails the stage (R554). -/
def effConditionalTestFailure (s : State) : State :=
  if !s.pwr.aoPwrGd ∨ s.encl.state = 3 then s
  else
    let s := enclaveError 2 s
    if s.boot.starting ∧ s.boot.stopWarm.isNone then startFails unitEncl s else s

/-- ALIAS_CERT_ISSUE (R549): the oldest signature under way ends; its certificate replaces the older cached one. -/
def effAliasCertIssue (s : State) : State :=
  match s.encl.signing with
  | [] => s
  | m :: rest =>
    if !(mayAttest s) then s
    else aliasRec 1 (setEncl s { s.encl with
      signing := rest, certs := newest 2 (s.encl.certs.erase m ++ [m])
      aliasReady := s.encl.aliasReady || decide (m = measNow s) })

end Sys2Proof.Machine
end

