-- ==== Sys2Proof/Machine/HostLink.lean ====
section
/-! DEFINITION. HostLink: resets and state of the host port, its configuration, the DMA window, the event ring, MSI-X and
token watches (chapter 13). -/

namespace Sys2Proof.Machine

def setPci (s : State) (p : Pci) : State := { s with pci := p }
def setEvr (s : State) (e : Evr) : State := { s with evr := e }

/-! ### The link (R470, R478, R490) -/

/-- The host port has power: the hub partition that runs from VIN (R573). -/
def portPowered (s : State) : Bool := s.pwr.aoPwrGd && s.pwr.shdnHigh

/-- A conventional reset of the function: as an FLR (R478), and the BAR2 size returns to its reset value (Table 13.2,
R473). -/
def portReset (s : State) : State :=
  let s := flrLike s
  setPci s { s.pci with bar2Log2 := 34 }

/-- PERST_N asserted. -/
def effPerstN (s : State) : State :=
  if !s.pci.perstHigh then s
  else portReset (setPci s { s.pci with perstHigh := false, ready := false, linkUp := false, speed := 0, width := 0 })

/-- PERST_N_RELEASE (Sequence 13.1). -/
def effPerstNRelease (s : State) : State := setPci s { s.pci with perstHigh := true }

/-- LINK_TRAINED: flit mode, speed and width as PCI_LINK_STATUS codes them; configuration readiness follows, with a Device
Readiness Status message. A partner without flit mode leaves the link down (R470). -/
def effLinkTrained (flit : Bool) (speed width : Nat) (s : State) : State :=
  if !(portPowered s) ∨ !s.pci.perstHigh ∨ s.pci.linkUp ∨ !flit then s
  else
    let s' := setPci s { s.pci with linkUp := true, ready := true, speed := speed % 8, width := width % 16 }
    if s.pci.ready then s' else emit (.deviceReady s.pci.conf) s'

/-- A configuration write that reaches the function (R490). -/
def configWrite (f : State → State) (s : State) : State :=
  if !s.pci.linkUp then s else if !s.pci.ready then emit .retryStatus s else f s

/-- FLR. -/
def effFlr (s : State) : State := configWrite flrLike s

/-- HOT_RESET. -/
def effHotReset (s : State) : State := if s.pci.linkUp then portReset s else s

/-- LINK_DOWN. -/
def effLinkDown (s : State) : State :=
  if s.pci.linkUp then portReset (setPci s { s.pci with linkUp := false, speed := 0, width := 0 }) else s

/-- MEMORY_SPACE_ENABLE (R476). -/
def effMemorySpaceEnable (on : Bool) (s : State) : State := configWrite (fun s => setPci s { s.pci with mse := on }) s

/-- BUS_MASTER_ENABLE (R476). -/
def effBusMasterEnable (on : Bool) (s : State) : State :=
  configWrite (fun s => resumeHost (setPci s { s.pci with bme := on })) s

/-- D3HOT, or the return to D0 (R477). -/
def effD3hot (on : Bool) (s : State) : State :=
  configWrite (fun s => resumeHost (setPci s { s.pci with d3hot := on })) s

/-- BAR2_RESIZE (R473): a size that the capability offers, while Memory Space Enable is clear. -/
def effBar2Resize (log2 : Nat) (s : State) : State :=
  configWrite (fun s =>
    if s.pci.mse ∨ log2 < 30 ∨ 40 < log2 then s else setPci s { s.pci with bar2Log2 := log2 }) s

/-- IDE_CHECK_FAIL (R488): the keys are of no use any more. -/
def effIdeCheckFail (s : State) : State :=
  if s.pci.ideState ≠ 2 then s
  else
    linkSecurity 1 { s with
      pci := { s.pci with ideState := 3, ideFailures := satInc 0xFFFFFFFF s.pci.ideFailures, ideBlocked := true }
      encl := { s.encl with ideSets := [] } }

/-- STREAM_BUFFER_READ (R472). -/
def effStreamBufferRead (len : Nat) (s : State) : State := hostRead (fun s => emit (.memData (List.replicate len 0) false) s) s

/-! ### The DMA window (R479, Table 13.5) -/

/-- Whether a HOST_COPY is incomplete. -/
def copyRuns (s : State) : Bool := s.cmds.any (fun c => decide (cmdOp c.word = 0x2B))

/-- DMA_WINDOW_WRITE: 4 or 8 bytes at an offset 0-15 of PCI_DMA_WINDOW. -/
def effDmaWindowWrite (off size : Nat) (v : W64) (s : State) : State :=
  if 16 ≤ off ∨ !(regSizeOk off size) then s
  else
    hostAccess (fun s =>
      if s.evr.enable || copyRuns s then regAccess 7 (0x20010 + off) size true v s
      else if off < 8 then
        writeHalves 0x20010 off size v s.pci.winBase
          (fun _ w s => setPci s { s.pci with winBase := w &&& 0xFFFFFFFFFFFFF000#64 }) s
      else
        writeHalves 0x20018 off size v s.pci.winLimit
          (fun _ w s => setPci s { s.pci with winLimit := w &&& 0xFFFFFFFFFFFFF000#64 }) s) s

/-! ### The event ring (R480-R484) -/

/-- HUB_EVR_CTRL (Table 13.9). -/
def evrCtrl (e : Evr) : W64 :=
  BitVec.ofNat 64 (b2n e.enable + at_ e.vector 1 6 + at_ (b2n e.irqEn) 7 1 + at_ e.coCount 8 8 + at_ e.coUs 16 16)

/-- HUB_EVR_BASE (Table 13.8). -/
def evrBase (e : Evr) : W64 := BitVec.ofNat 64 (at_ e.sizeLog2 0 4 + e.base.toNat)

/-- The watches whose message waits for a delivery send it now (R486). -/
def sendWaiting (which : W32 → Bool) (s : State) : State :=
  s.pci.watch.foldl (fun s w => match w.2.waitSeq with
    | some q => if which q then sendMsix w.2.vector (setWatch s w.1 { w.2 with waitSeq := none }) else s
    | none => s) s

/-- The fields of HUB_EVR_CTRL but for ENABLE are set. -/
def setCtrl (v : W64) (e : Evr) : Evr :=
  { e with vector := fld v 1 6, irqEn := bit v 7, coCount := fld v 8 8, coUs := fld v 16 16 }

/-- Whether the ring may be enabled (R481). -/
def ringOk (s : State) : Bool :=
  decide (6 ≤ s.evr.sizeLog2 ∧ s.evr.sizeLog2 ≤ 16) && !(hostRangeBad s s.evr.base.toNat (64 * 2 ^ s.evr.sizeLog2))
  && !(hostRangeBad s s.evr.wb.toNat 8) && s.pci.bme

/-- EVR_ENABLE: HUB_EVR_CTRL written with ENABLE set; 4 or 8 bytes at its start. -/
def effEvrEnable (size : Nat) (v : W64) (s : State) : State :=
  if !(regSizeOk 0 size) ∨ !(bit v 0) then s
  else
    hostAccess (fun s =>
      writeHalves 0x70008 0 size v (evrCtrl s.evr) (fun written w s =>
        let s := setEvr s (setCtrl w s.evr)
        if s.evr.enable then s
        else if ringOk s then
          setEvr s { s.evr with enable := true, active := true, producer := 0, consumer := 0, unreported := 0 }
        else regAccess 7 0x70008 size true written (setEvr s { s.evr with error := true })) s) s

/-- The ring stops: messages that wait for a delivery are sent without it (R481, R486). -/
def ringOff (s : State) : State :=
  sendWaiting (fun _ => true) (setEvr s { s.evr with enable := false, active := false })

/-- EVR_DISABLE: HUB_EVR_CTRL written with ENABLE clear. -/
def effEvrDisable (size : Nat) (v : W64) (s : State) : State :=
  if !(regSizeOk 0 size) ∨ bit v 0 then s
  else
    hostAccess (fun s =>
      writeHalves 0x70008 0 size v (evrCtrl s.evr) (fun _ w s =>
        let s := setEvr s (setCtrl w s.evr)
        if s.evr.enable then ringOff s else s) s) s

/-- The high half of HUB_EVR_CTRL is reserved; written, it makes a pending low half effective (R19). -/
def ctrlHigh (v : W64) (s : State) : State :=
  match s.pci.low.find 0x70008 with
  | none => s
  | some lo =>
    let w : W64 := BitVec.ofNat 64 (lo.toNat + fld v 0 32 * 2 ^ 32)
    let s := setPci s { s.pci with low := s.pci.low.del 0x70008 }
    let on := s.evr.enable
    let s := setEvr s (setCtrl w s.evr)
    if bit w 0 then
      if on then s
      else if ringOk s then
        setEvr s { s.evr with enable := true, active := true, producer := 0, consumer := 0, unreported := 0 }
      else regAccess 7 0x7000C 4 true v (setEvr s { s.evr with error := true })
    else if on then ringOff s else s

/-- HUB_EVR_BASE_WRITE. -/
def effHubEvrBaseWrite (off size : Nat) (v : W64) (s : State) : State :=
  if 8 ≤ off ∨ !(regSizeOk off size) then s
  else
    hostAccess (fun s =>
      if s.evr.enable then regAccess 7 (0x70000 + off) size true v s
      else writeHalves 0x70000 off size v (evrBase s.evr)
        (fun _ w s => setEvr s { s.evr with sizeLog2 := fld w 0 4, base := w &&& 0xFFFFFFFFFFFFF000#64 }) s) s

/-- HUB_EVR_WB_WRITE. -/
def effHubEvrWbWrite (off size : Nat) (v : W64) (s : State) : State :=
  if 8 ≤ off ∨ !(regSizeOk off size) then s
  else
    hostAccess (fun s =>
      if s.evr.enable then regAccess 7 (0x70010 + off) size true v s
      else writeHalves 0x70010 off size v s.evr.wb
        (fun _ w s => setEvr s { s.evr with wb := w &&& 0xFFFFFFFFFFFFFFF8#64 }) s) s

/-- EVR_CONSUMER_WRITE (R480): HUB_EVR_HEAD written whole, or its high half alone. -/
def effEvrConsumerWrite (size : Nat) (v : W64) (s : State) : State :=
  if size ≠ 4 ∧ size ≠ 8 then s
  else
    hostAccess (fun s =>
      let s := setPci s { s.pci with low := s.pci.low.del 0x70018 }
      let c : W32 := if size = 8 then (v >>> 32).setWidth 32 else v.setWidth 32
      let waiting := (s.evr.producer - s.evr.consumer).toNat
      if (c - s.evr.consumer).toNat ≤ waiting ∧ (s.evr.producer - c).toNat ≤ 2 ^ s.evr.sizeLog2 then
        setEvr s { s.evr with consumer := c }
      else regAccess 6 (if size = 8 then 0x70018 else 0x7001C) size true v s) s

/-- A message on the ring's vector; the count of unreported records starts again (R484). -/
def ringMessage (s : State) : State :=
  sendMsix s.evr.vector (setEvr s { s.evr with unreported := 0 })

/-- RECORD_DELIVERY (R482-R484, R486): the oldest record that waits, its writeback, and the messages that follow. -/
def effRecordDelivery (s : State) : State :=
  match s.recs.ring with
  | [] => s
  | r :: rest =>
    let e := s.evr
    if !e.active ∨ evrFull s ∨ !(mayRequest s) then s
    else
      let slot := e.producer.toNat % 2 ^ e.sizeLog2
      let s := emit (.hostWrite (e.base.toNat + 64 * slot) (recBytes r)) { s with recs := { s.recs with ring := rest } }
      let s := emit (.hostWrite e.wb.toNat (leBytes 4 (e.producer + 1).toNat ++ leBytes 4 r.seq.toNat)) s
      let s := setEvr s { e with producer := e.producer + 1, unreported := e.unreported + 1 }
      let s := sendWaiting (fun q => decide (q = r.seq) || evrFull s) s
      if e.irqEn ∧ max 1 e.coCount ≤ s.evr.unreported then ringMessage s else s

/-- EVR_COALESCE_TIMEOUT (R484). -/
def effEvrCoalesceTimeout (s : State) : State :=
  if s.evr.active ∧ s.evr.irqEn ∧ s.evr.coUs ≠ 0 ∧ s.evr.unreported ≠ 0 then ringMessage s else s

/-! ### MSI-X and token watches (R485, R486) -/

/-- A vector's mask bit written. -/
def maskVector (v : Nat) (masked : Bool) (s : State) : State :=
  let m := s.pci.msix.get Msix.reset v
  if !masked && m.masked && m.pend && mayRequest s then
    emit (.msix v m.addr m.data) (setMsix s v { m with masked := false, pend := false })
  else setMsix s v { m with masked := masked }

/-- MSIX_UNMASK. -/
def effMsixUnmask (v : Nat) (s : State) : State := hostAccess (fun s => if v < 64 then maskVector v false s else s) s

/-- PCI_TOKEN_IRQn (Table 13.7). -/
def watchReg (w : Watch) : W64 :=
  BitVec.ofNat 64 (at_ w.token 0 16 + at_ w.vector 16 6 + at_ (b2n w.enable) 24 1 + at_ (b2n w.fired) 25 1 + at_ w.state 26 3)

/-- A watch takes a written value; it may fire at once. -/
def setWatchReg (n : Nat) (v : W64) (s : State) : State :=
  let w := s.pci.watch.get Watch.reset n
  fireWatch none n (setWatch s n { w with
    token := fld v 0 16, vector := fld v 16 6, enable := bit v 24, fired := w.fired && !(bit v 25) })

/-- TOKEN_WATCH_WRITE: 4 or 8 bytes at offset 0 or 4 of PCI_TOKEN_IRQn. FIRED is write-1-to-clear, so a half that is not
written clears nothing. -/
def effTokenWatchWrite (n off size : Nat) (v : W64) (s : State) : State :=
  if 64 ≤ n ∨ 8 ≤ off ∨ !(regSizeOk off size) then s
  else
    hostAccess (fun s =>
      writeHalves (0x21000 + 8 * n) off size v (watchReg { s.pci.watch.get Watch.reset n with fired := false })
        (fun _ w s => setWatchReg n w s) s) s

end Sys2Proof.Machine
end

