-- ==== Sys2Proof/Machine/RegMap.lean ====
section
/-! DEFINITION. RegMap: the BAR0 map (R48-R55) and what every register reads as. -/

namespace Sys2Proof.Machine

/-- A register: its width in bytes, 4 or 8, and its value. -/
abbrev RegVal := Nat × W64

/-- Fields of a register: value, first bit, width. -/
def pack (l : List (Nat × Nat × Nat)) : W64 := BitVec.ofNat 64 ((l.map (fun f => at_ f.1 f.2.1 f.2.2)).sum)

/-- A 4-byte register. -/
def reg4 (l : List (Nat × Nat × Nat)) : Option RegVal := some (4, pack l)
/-- An 8-byte register. -/
def reg8 (l : List (Nat × Nat × Nat)) : Option RegVal := some (8, pack l)

/-- A bit per number below `n` that meets `p`. -/
def maskOf (n : Nat) (p : Nat → Bool) : Nat := ((List.range n).map (fun i => if p i then 2 ^ i else 0)).sum

/-- Two 32-bit words as an 8-byte register. -/
def words (lo hi : Nat) : Option RegVal := reg8 [(lo, 0, 32), (hi, 32, 32)]

/-! ### Capability registers (R14, R94) -/

/-- DIE_PRESENT (R41). -/
def diePresent (s : State) : Nat := if compPresent s then 0xFF else 0x7F

/-- The CAP_ registers of the hub window, but for CAP_DIE_ID. -/
def capReg (s : State) (a : Nat) : Option RegVal :=
  if a = 0x100 then reg8 [(diePresent s, 0, 8), (8, 8, 4), (9, 12, 4), (8, 16, 4), (2, 20, 4), (3, 24, 4), (0x40, 32, 8), (0x20, 40, 8), (0x10, 48, 8), (8, 56, 8)]
  else if a = 0x120 then reg8 [(0x40, 0, 8), (0xC, 8, 4), (4, 12, 4), (0x10, 16, 8), (3, 24, 4), (0xA, 28, 4), (0x40, 32, 8), (8, 40, 8), (0xA, 48, 4), (8, 52, 4), (1, 56, 8)]
  else if a = 0x140 then some (8, 0x001F0F1F0007011E#64)
  else if a = 0x148 ∨ a = 0x150 ∨ a = 0x158 then some (8, 0)
  else if a = 0x160 then reg8 [(1, 0, 8), (0x40, 8, 8), (8, 16, 4), (4, 20, 4), (0x40, 24, 8), (8, 32, 4), (4, 36, 4), (0x4E, 40, 8)]
  else if a = 0x170 then reg8 [(0xF, 0, 4), (3, 4, 2), (4, 8, 3), (0x40, 16, 8), (0x40, 24, 8), (0x4000, 32, 16), (0x40, 48, 8)]
  else if a = 0x180 then reg8 [(0x200, 0, 16), (0x800, 16, 16), (8, 32, 4), (4, 36, 4), (1, 40, 1), (8, 44, 4), (0x14, 48, 8)]
  else if a = 0x190 then reg8 [(0x3E, 0, 8), (0x40, 8, 8), (0x10, 16, 8), (0x14, 24, 8), (0xA, 32, 4), (4, 36, 4), (0x20, 40, 8), (0x10, 48, 8)]
  else if a = 0x1A0 then reg8 [(8, 0, 8), (8, 8, 8), (0x40, 16, 8), (0xFF, 24, 8), (0x1000, 32, 16), (4, 48, 8), (0x20, 56, 8)]
  else if a = 0x1B0 then reg8 [(0x0C, 0, 8), (0x48, 8, 8), (0x54, 16, 8), (0x1F, 24, 8), (8, 32, 8), (0x200, 40, 16)]
  else if a = 0x1C0 then reg8 [(4, 0, 4), (5, 4, 4), (0x40, 8, 8), (0x20, 16, 8), (0x10, 24, 8), (4, 32, 4)]
  else if a = 0x1D0 then reg8 [(0x10, 0, 5), (0x40, 8, 8), (0x10, 16, 8), (8, 24, 8), (0xA, 32, 8), (2, 40, 8), (0x19, 48, 8)]
  else if a = 0x1E0 then reg8 [(0x40, 0, 8), (0x30, 8, 8), (0x30, 16, 8), (4, 24, 8), (3, 32, 2), (8, 36, 4), (0x10, 40, 8), (0x40, 48, 8), (0x3C, 56, 8)]
  else if a = 0x1F0 then reg8 [(0xA000, 0, 16), (0xC0, 16, 8), (0x40, 24, 8), (0x200, 32, 10), (0x10, 48, 5)]
  else if a = 0x480 then reg8 [(0x20, 0, 8), (0x40, 8, 8), (0x10, 16, 8), (0x40, 24, 8), (3, 32, 4), (8, 36, 4), (0xFF, 40, 8)]
  else if a = 0x490 then reg8 [(3, 0, 4), (0x40, 8, 8), (0x40, 16, 8), (1, 24, 4), (0x28, 28, 8), (0x10, 36, 8), (0x40, 44, 8)]
  else if a = 0x4A0 then reg8 [(0x96, 0, 8), (0x32, 8, 8), (0x32, 16, 8), (0x5F, 24, 8), (0x69, 32, 8), (0x73, 40, 8), (4, 48, 4), (7, 52, 3)]
  else if a = 0x4B0 then reg8 [(3, 0, 4), (0xA, 8, 8), (0xC, 16, 8), (0x10, 24, 8)]
  else if a = 0x4C0 then reg8 [(0x40, 0, 8), (4, 8, 4), (2, 12, 4), (0x10, 16, 8), (7, 24, 4), (2, 28, 4)]
  else if 0x400 ≤ a ∧ a < 0x480 then
    let w := s.d2d.ids.get 0 ((a - 0x400) / 16)
    some (8, BitVec.ofNat 64 (fld w (if a % 16 = 0 then 0 else 64) 64))
  else none

/-! ### Streams and tokens (chapter 02) -/

/-- STM_HEAD.STATE (Table 2.1, R69 step 5). DESIGN CHOICE (log 59): a paused or D3hot stream shows 5 also while its FENCE
is incomplete or its head is held, and a reset stream shows 1 until it reads a command or ENABLE or PAUSE is written. -/
def streamState (s : State) (st : Nat) : Nat :=
  let x := strmOf s st
  if !x.enable then 0
  else if x.rested then 1
  else if x.pause || s.pci.d3hot then 5
  else if s.cmds.any (fun c => decide (c.strm = st ∧ cmdOp c.word = 2)) then 4
  else match x.queue with
    | [] => 1
    | w :: _ =>
      if (cmdDone w :: cmdWaits w).any (fun t => decide (t ≠ 0xFFFF ∧ (tokOf s t).st = .pending)) then 3 else 2

/-- A skip-log entry's bytes (Table 2.12). -/
def skipBytes (e : SkipEntry) : List Byte :=
  leBytes 2 e.tag ++ [BitVec.ofNat 8 e.opcode, BitVec.ofNat 8 e.code] ++ leBytes 2 e.done ++ leBytes 2 e.cause
  ++ leBytes 4 e.unit.toNat ++ leBytes 2 e.loc ++ [0, 0] ++ leBytes 8 e.time.toNat ++ leBytes 4 e.job.toNat ++ leBytes 4 e.detail.toNat

/-- A register of a stream's block. -/
def streamReg (s : State) (st y : Nat) : Option RegVal :=
  let x := strmOf s st
  if y = 0 then reg8 [(x.e, 0, 16), (x.lastTag, 16, 16), (4096 - x.occ.length, 32, 13), (x.queue.length, 48, 5), (streamState s st, 56, 3)]
  else if y = 8 then reg4 [(b2n x.enable, 0, 1), (b2n x.pause, 2, 1)]
  else if y = 0x10 then reg8 [(x.skipCount.toNat, 0, 32), (x.nextEntry, 32, 8), (b2n x.overflow, 40, 1), (x.misplaced, 48, 16)]
  else if y = 0x18 then reg4 [(x.select, 8, 8)]
  else if 0x20 ≤ y ∧ y < 0x40 then
    some (8, BitVec.ofNat 64 (leNat ((((x.log.find x.select).map skipBytes).getD []).drop (y - 0x20) |>.take 8)))
  else none

/-- Sixteen token states as an 8-byte register (R79). -/
def tokenWords (s : State) (first : Nat) : Option RegVal :=
  reg8 ((List.range 16).map (fun i => (tokCode (tokOf s (first + i)).st, 4 * i, 4)))

/-! ### The hub window (R49) -/

/-- A die-link port's block. -/
def portReg (s : State) (d p y : Nat) : Option RegVal :=
  let x := portOf s d p
  if portModules d p = 0 then none
  else if y = 0 then
    reg8 [(x.state, 0, 3), (b2n x.degraded, 3, 1), ((portPeer d p).1, 4, 4), (portModules d p, 8, 4), (b2n x.std, 12, 1)
         , (b2n x.alt, 13, 1), (widthField x.width, 16, 24), (portRetrains s d p, 40, 3), (x.speed, 48, 8)]
  else if y = 8 then reg8 [(x.crc, 0, 32), (x.retrain, 32, 16), (x.mismatch, 48, 8), (x.persist, 56, 8)]
  else if y = 0x10 then reg4 [(b2n x.cfgStd, 0, 1)]
  else if y = 0x18 then reg4 []
  else none

/-- The MSI-X table and the pending-bit array (R485). -/
def msixReg (s : State) (a : Nat) : Option RegVal :=
  if 0x28000 ≤ a ∧ a < 0x28400 then
    let m := s.pci.msix.get Msix.reset ((a - 0x28000) / 16)
    if a % 16 = 0 then some (8, m.addr) else words m.data.toNat (b2n m.masked)
  else if a = 0x29000 then some (8, BitVec.ofNat 64 (maskOf 64 (fun v => (s.pci.msix.get Msix.reset v).pend)))
  else none

/-- The host port's block (Tables 13.3-13.7). -/
def pciReg (s : State) (a : Nat) : Option RegVal :=
  let p := s.pci
  if a = 0x20000 then reg8 [(b2n p.linkUp, 0, 1), (p.speed, 1, 3), (p.width, 4, 4), (b2n p.d3hot, 8, 1)]
  else if a = 0x20008 then reg8 [(b2n s.boot.ready, 0, 1), (b2n s.boot.recovery, 1, 1), (s.boot.stage, 8, 8)]
  else if a = 0x20010 then some (8, p.winBase)
  else if a = 0x20018 then some (8, p.winLimit)
  else if a = 0x20020 then reg8 [(p.ideState, 0, 2), (b2n p.ideRequired, 2, 1), (p.ideStream, 8, 8), (p.ideFailures, 16, 32)]
  else if 0x21000 ≤ a ∧ a < 0x21200 then some (8, watchReg (p.watch.get Watch.reset ((a - 0x21000) / 8)))
  else msixReg s a

/-- Records that wait for the ring. -/
def ringHeld (s : State) : Nat := min 0xFFFF s.recs.ring.length

/-- The event ring's block (Tables 13.8-13.12). -/
def evrReg (s : State) (a : Nat) : Option RegVal :=
  let e := s.evr
  if a = 0x70000 then some (8, evrBase e)
  else if a = 0x70008 then some (8, evrCtrl e)
  else if a = 0x70010 then some (8, e.wb)
  else if a = 0x70018 then words e.producer.toNat e.consumer.toNat
  else if a = 0x70020 then reg8 [(b2n e.active, 0, 1), (b2n (e.active && evrFull s), 1, 1), (b2n e.error, 2, 1), (ringHeld s, 16, 16)]
  else none

/-- Four sensors (Table 14.11). -/
def sensorReg (l : List W16) : Option RegVal := reg8 ((List.range 4).map (fun n => ((l.getD n 0).toNat, 16 * n, 16)))

/-- The package's power and thermal block (Tables 14.6-14.11). -/
def powerReg (s : State) (a : Nat) : Option RegVal :=
  let p := s.pwr
  if a = 0x40000 then reg8 [(p.profile, 0, 2), (b2n p.profPending, 2, 1), (p.profCap, 16, 11), (p.powerW, 32, 16)]
  else if a = 0x40008 then reg8 [(p.sagStage, 0, 3), (p.railMv, 16, 12), (p.lowestMv, 32, 12), (p.sagEntries, 48, 16)]
  else if a = 0x40010 then reg8 [(clampActive s, 0, 16), (p.clampEpisodes.toNat, 32, 32)]
  else if a = 0x40018 then reg4 []
  else if a = 0x40020 then reg8 [(p.hottest.toNat, 0, 16), (p.hotDie, 16, 4), (b2n p.limitSeen, 20, 1), (b2n p.lastTrip, 21, 1)]
  else if a = 0x40028 then sensorReg p.hubSensors
  else none

/-- STP_CTRLn (Table 8.12). -/
def ctrlReg (s : State) (n : Nat) : Option RegVal :=
  let c := nvCtrl s n
  reg8 [(maskOf 16 (fun k => (c.spaces.find k).isSome), 0, 16)
       , ((s.stp.cmds.filter (fun x => decide (x.ctrl = n) && x.sent)).length, 16, 9), (c.resets, 25, 3), (c.timeoutMs, 32, 16)]

/-- The storage port's block. -/
def storageReg (s : State) (a : Nat) : Option RegVal :=
  if a = 0x30000 then
    reg8 [(b2n s.stp.linkUp, 0, 1), (s.stp.speed, 1, 3), (s.stp.width, 4, 4), (maskOf 4 (fun n => (nvCtrl s n).present), 8, 4)
         , (4 * stagingBlocks s, 16, 16)]
  else if 0x30100 ≤ a ∧ a < 0x30200 ∧ a % 0x40 = 0 then ctrlReg s ((a - 0x30100) / 0x40)
  else none

/-- MGT_STATUS (Table 16.15). -/
def mgtReg (s : State) (a : Nat) : Option RegVal :=
  let m := s.mgt
  if a = 0x50000 then
    reg8 [(m.binding, 0, 2), (b2n m.vdm, 2, 1), (b2n m.async, 3, 1), (m.update, 4, 2), (m.eid, 8, 8), (m.eidPcie, 16, 8)
         , (min 0xFFFF s.recs.bmc.length, 32, 16)]
  else none

/-- The enclave's block (Tables 16.10-16.14). -/
def enclReg (s : State) (a : Nat) : Option RegVal :=
  let e := s.encl
  if a = 0x60000 then
    reg8 [(e.state, 0, 3), (e.debug, 3, 2), (b2n e.aliasReady, 5, 1), (b2n e.identityBad, 6, 1), (e.sessions.length, 8, 3), (e.failedTest, 16, 8)]
  else if a = 0x60008 then
    reg8 [(hVersion e.header, 0, 32), (hSvn e.header, 32, 7), (e.fusedSvn, 40, 7), (e.region, 47, 1), (e.revoked.toNat, 48, 16)]
  else if a = 0x60010 then reg8 [(e.lockOpen, 0, 3)]
  else if a = 0x60018 then reg4 []
  else if 0x60020 ≤ a ∧ a < 0x60040 then some (8, BitVec.ofNat 64 (leNat ((e.challenge.drop (a - 0x60020)).take 8)))
  else none

/-- The hub's die-link block and the companion site (Tables 12.8-12.14). -/
def hubLinkReg (s : State) (a : Nat) : Option RegVal :=
  let c := s.d2d.comp
  if a = 0x80900 then reg8 [(c.state, 0, 3), (c.reason, 3, 5), (c.maxTags, 8, 8), (c.powerW, 16, 16), (c.refused, 32, 32)]
  else if a = 0x80908 then reg4 [(c.limit, 0, 16)]
  else if a = 0x80910 then some (8, apertureLow c)
  else if a = 0x80918 then some (8, apertureHigh c)
  else portReg s 4 ((a - 0x80000) / 0x100) (a % 0x100)

/-- HUB_ registers of start and topology (Tables 1.6, 15.5-15.7), recipes and transfers. -/
def hubReg (s : State) (a : Nat) : Option RegVal :=
  let b := s.boot
  if a = 0x110 then reg4 [(b.device, 0, 6), (b.domain, 6, 4), (b2n b.idVerified, 16, 1), (b2n b.idConflict, 17, 1)]
  else if 0x200 ≤ a ∧ a < 0x240 then
    let k := (a - 0x200) / 4
    words (s.recipe.get 0xF k).toNat (s.recipe.get 0xF (k + 1)).toNat
  else if a = 0x300 then some (8, xferCtrl s)
  else if a = 0x308 then words s.xferPoisoned s.xferDiscarded
  else if a = 0x500 then reg4 [(b.dieSel, 4, 4)]
  else if a = 0x510 then reg8 [(b.kind, 0, 2), (b.cause, 8, 8), (b.failStage, 16, 8), (b.warmFails, 24, 2), (b.failUnit.toNat, 32, 32)]
  else if a = 0x518 then
    reg8 [(maskOf 4 (fun d => b.hbmValid.contains d), 0, 4), (maskOf 4 (fun d => b.d2dValid.contains d), 4, 4)
         , (maskOf 2 (fun i => b.optValid.contains (5 + i)), 8, 2), ((b.optTemp.get 0 5).toNat, 16, 16), ((b.optTemp.get 0 6).toNat, 32, 16)]
  else if 0x2000 ≤ a ∧ a < 0x2200 then tokenWords s (0x8000 + 2 * (a - 0x2000))
  else capReg s a

/-- A register of the hub window. -/
def hubWindow (s : State) (a : Nat) : Option RegVal :=
  if a < 0x10000 then hubReg s a
  else if a < 0x20000 then streamReg s ((a - 0x10000) / 0x400) (a % 0x400)
  else if a < 0x30000 then pciReg s a
  else if a < 0x40000 then storageReg s a
  else if a < 0x50000 then powerReg s a
  else if a < 0x60000 then mgtReg s a
  else if a < 0x70000 then enclReg s a
  else if a < 0x80000 then evrReg s a
  else if a < 0x90000 then hubLinkReg s a
  else none

/-! ### Photonic die windows (R50) -/

/-- A link's block (Tables 10.13, 10.21-10.25). -/
def linkReg (s : State) (p y : Nat) : Option RegVal :=
  let k := linkOf s p
  if y = 0 then
    reg8 [(k.state, 0, 4), (b2n k.txLock, 4, 1), (b2n k.rxLock, 5, 1), (k.txLine, 8, 6), (k.rxLine, 16, 6), (k.txPort, 24, 6)
         , (k.rxPort, 32, 6), (k.lport, 40, 6)]
  else if y = 8 then reg4 [(k.cabling, 0, 2), (k.gwPort, 8, 6)]
  else if y = 0x10 then reg8 [(k.lost, 0, 16), (k.mislock, 16, 16), (k.los, 32, 16), (k.shutters, 48, 8), (k.failures, 56, 8)]
  else if y = 0x18 then reg8 [(k.ber, 0, 16), (k.rxPower, 16, 8), (k.backRefl, 24, 8)]
  else if y = 0x20 then reg8 [(k.loopRt, 0, 16), (k.domOff, 16, 16)]
  else if y = 0x28 then reg4 []
  else none

/-- The die-wide MER_ block (Tables 10.15-10.20). -/
def merReg (s : State) (d y : Nat) : Option RegVal :=
  let m := s.mer
  let x := photOf s d
  let leased := (upto 64 (fun p => linkDie p = d)).filter (fun p => (linkOf s p).txEn)
  let joined := (leased.filter (fun p => decide ((linkOf s p).state = 3))).length
  let f := fun (i : Nat) => fibreOf s (2 * (d - 5) + i)
  if y = 0 then
    reg8 [(b2n (m.combLock && m.dither), 0, 1), (b2n m.phaseLock, 1, 1), (b2n m.coordinator, 2, 1), (m.coordId, 4, 6), (m.addrOut, 16, 16)
         , (m.planState, 32, 3), (b2n m.planes16, 35, 1)]
  else if y = 8 then reg8 [(x.planId.toNat, 0, 32), (joined, 32, 6), (leased.length - joined, 40, 6)]
  else if y = 0x10 then
    reg8 [((f 0).power, 0, 8), ((f 0).state, 8, 2), ((f 1).power, 16, 8), ((f 1).state, 24, 2), (b2n m.combAlarm, 26, 1)]
  else if y = 0x18 then reg8 [(x.dropDst, 0, 16), (x.dropType, 16, 16), (x.dropPermit, 32, 16), (x.dropDup, 48, 16)]
  else if y = 0x20 then reg4 [(b2n x.calEn, 0, 1), (x.calPeriod, 8, 8)]
  else if y = 0x28 then reg4 []
  else none

/-- FAB_CTX_STATE (Table 11.12). -/
def ctxState (s : State) (d : Nat) : List (Nat × Nat × Nat) :=
  let x := photOf s d
  match x.ctx.find x.sel with
  | none => []
  | some c =>
    let r := x.runs.find? (fun r => decide (r.ctx = x.sel))
    let st := match r with
      | some r => if r.st = 3 then 5 else r.st + 2
      | none => if c.quiet then 6 else 1
    [(st, 0, 3), (((r.map (fun r => r.parts.length)).getD 0), 3, 6), (c.runs, 16, 16), ((c.recorded.getD 0).toNat, 32, 32)]

/-- The fabric engine's block (Tables 11.10-11.16). -/
def fabReg (s : State) (d y : Nat) : Option RegVal :=
  let x := photOf s d
  if y = 0 then
    reg8 [(x.epoch, 0, 8), ((s.mer.rebl.map (fun r => r.stage)).getD 0, 8, 3), (x.runs.length, 16, 10)
         , ((x.ctx.filter (fun c => c.2.quiet)).length, 32, 16)]
  else if y = 8 then reg4 [(x.sel, 0, 16)]
  else if y = 0x10 then reg8 (ctxState s d)
  else if y = 0x18 then reg8 [(x.fabNo, 0, 16), (x.fabEpoch, 16, 16), (x.fabBad, 32, 16), (x.fabQuiet, 48, 16)]
  else if y = 0x20 then reg4 []
  else if y = 0x28 then reg8 [(x.fabSat.toNat, 0, 32)]
  else if y = 0x30 then reg4 []
  else none

/-- A register of a photonic die's window. -/
def photWindow (s : State) (d y : Nat) : Option RegVal :=
  if y < 0x10000 then merReg s d y
  else if y < 0x20000 then linkReg s (2 * ((y - 0x10000) / 0x800) + (d - 5)) (y % 0x800)
  else if y < 0x30000 then fabReg s d (y - 0x20000)
  else if y < 0x40000 then portReg s d ((y - 0x30000) / 0x100) (y % 0x100)
  else if y = 0x40000 then sensorReg (s.pwr.photSensors.get [0, 0, 0, 0] d)
  else none

/-! ### Compute die windows (R52, R53) -/

/-- ATTEMPT of an array, of its oldest instruction: of the tile operation that has overflowed, else of the last. -/
def attemptOf (u : Nat) (l : List Run) : Nat :=
  match l with
  | [] => 0
  | r :: _ =>
    let ops := r.res.ops.filter (fun o => decide (o.unit = u))
    match ops.find? (fun o => o.ov.isSome) with
    | some o => o.attempt
    | none => (ops.getLast?.map (fun o => o.attempt)).getD 0

/-- The lane that a physical core serves: none in an offline cluster (R33, R55). -/
def servedLane (s : State) (k : Nat) : Nat := if (clOf s (k / 9)).mapState = 3 then 15 else coreLane s k

/-- Whether a core is the spare of its cluster; an offline cluster has none. -/
def isSpare (s : State) (k : Nat) : Bool :=
  decide ((clOf s (k / 9)).mapState ≠ 3 ∧ (clOf s (k / 9)).spare = k % 9)

/-- ROLE of a core (Table 9.6). -/
def coreRole (s : State) (k : Nat) : Nat :=
  if servedLane s k < 8 then 0 else if isSpare s k then (if (coreOf s k).testBusy then 2 else 1) else 3

/-- Two bits per unit. -/
def markBits (t : Tab Mark) : Nat := ((List.range 4).map (fun u => at_ (t.get Mark.reset u).st (2 * u) 2)).sum

/-- Counts by kind, eight to a register. -/
def kindBytes (t : Tab Nat) (first : Nat) : Option RegVal := reg8 ((List.range 8).map (fun k => (t.get 0 (first + k), 8 * k, 8)))

/-- A core's block (Tables 4.7-4.10, 5.8-5.11, 9.6-9.10). -/
def coreReg (s : State) (k y : Nat) : Option RegVal :=
  let x := coreOf s k
  let c := clOf s (k / 9)
  let serves := decide (servedLane s k < 8)
  if y = 0 then reg8 [(coreRole s k, 0, 2), (servedLane s k, 4, 4), (b2n (coreSuspect s x), 8, 1), (b2n x.failed, 9, 1)]
  else if y = 0x10 then
    reg8 [(x.window.length, 0, 5), (undoBytes x / 1024, 8, 11), ((x.arb.map (fun a => a.step)).getD 0, 20, 3), ((x.arb.map (fun a => a.unit)).getD 0, 24, 3)]
  else if y = 0x18 then reg8 [(x.nTransient, 0, 16), (x.nDatapath, 16, 16), (x.nChecker, 32, 16), (x.nVoid, 48, 8), (x.nMoveRepeat, 56, 8)]
  else if y = 0x20 then reg8 [(markBits x.dp, 0, 8), (markBits x.ck, 8, 8), (x.lastEvent.toNat, 32, 32)]
  else if y = 0x30 then reg4 [(b2n x.testBusy, 1, 1), (x.testResult, 2, 2), (x.testItem, 8, 8)]
  else if y = 0x400 then
    let rA := arrayRuns x 0 s.insNo
    let rB := arrayRuns x 1 s.insNo
    reg8 [(b2n (!rA.isEmpty), 0, 1), (b2n (!rB.isEmpty), 1, 1), (b2n x.bOff, 2, 1), (x.qA.length, 4, 4), (x.qB.length, 8, 4)
         , (attemptOf 0 rA, 12, 3), (attemptOf 1 rB, 16, 3)]
  else if y = 0x410 then kindBytes x.replay 0
  else if y = 0x418 then kindBytes x.replay 8
  else if y = 0x420 then some (8, x.replayLast)
  else if y = 0x428 then reg4 []
  else if y = 0x600 then
    reg8 [(b2n (!x.runV.isEmpty), 0, 1), (x.qV.length, 4, 4), (if serves then maskOf 4 (fun n => c.chainSet.contains n) else 0, 8, 4)
         , (b2n (serves && c.chainOpen), 12, 1), (x.lastPc, 16, 14)]
  else if y = 0x610 then kindBytes x.sat 0
  else if y = 0x618 then kindBytes x.sat 8
  else if y = 0x620 then reg4 []
  else if 0x700 ≤ y ∧ y < 0x800 then
    let n := (y - 0x700) / 32
    some (8, (if n = 0 then pattern0 else x.pat.get pattern0 n).getD (y % 32 / 8) 0)
  else none

/-- Whether a load of a page of a cluster waits or runs. -/
def pageWaits (s : State) (cl p : Nat) : Bool :=
  s.cmds.any (fun c => match c.work with
    | .load left _ _ _ => left.any (fun x => decide (x.1 = cl ∧ x.2.1 = p))
    | _ => false)

/-- A cluster's block, offsets from its base. -/
def clusterReg (s : State) (cl x : Nat) : Option RegVal :=
  let c := clOf s cl
  if x < 0x40000 then some (8, BitVec.ofNat 64 (c.imem.nat x 8))
  else if x = 0x40010 then some (8, laneMapReg c)
  else if x = 0x40020 then
    reg8 [(c.pc, 0, 14), (c.seq, 16, 3), (c.loops.length, 20, 3), (b2n c.skipped, 24, 1), (b2n c.abortSeen, 25, 1), (b2n c.trapped, 26, 1)
         , (c.trapCode, 32, 8), (c.group, 40, 6)]
  else if x = 0x40030 then some (8, BitVec.ofNat 64 (maskOf 64 (pageInUse c)))
  else if x = 0x40038 then some (8, BitVec.ofNat 64 (maskOf 64 (pageWaits s cl)))
  else if x = 0x40040 then reg4 [(c.replaySummary.toNat, 0, 16)]
  else if x = 0x40100 then
    reg8 [(b2n c.upd.isSome, 0, 1), (c.updQ.length, 4, 4), (c.updKernel, 8, 3), (c.updLayer, 16, 8), (b2n c.nonfiniteSeen, 24, 1), (c.nonfinite, 32, 32)]
  else if x = 0x40108 then reg8 [(c.satM1, 0, 16), (c.satM2, 16, 16), (c.satW, 32, 16)]
  else if x = 0x40110 then reg4 []
  else if x = 0x40200 then reg4 [(b2n c.occEnable, 0, 1), (c.occPeriod, 8, 8)]
  else if x = 0x40208 then
    reg8 [(c.occNext, 0, 3), (c.occTesting, 4, 4), (b2n (decide (occStop s c ≠ 0)), 8, 1), (occStop s c, 9, 3), (c.occPostponed, 16, 16)
         , (c.occRotations.toNat, 32, 32)]
  else if x = 0x40210 then
    reg8 [(c.updMain.st, 0, 2), (c.updDup.st, 2, 2), (c.updArb.st, 4, 2), (b2n c.updReduced, 6, 1), (c.updTransient, 16, 16), (c.updMinority, 32, 16)]
  else if x = 0x40300 then reg4 []
  else if 0x42000 ≤ x ∧ x < 0x42080 then tokenWords s (cluTok cl (2 * (x - 0x42000)))
  else if 0x50000 ≤ x ∧ x < 0x59000 then coreReg s (9 * cl + (x - 0x50000) / 0x1000) (x % 0x1000)
  else none

/-- The ledger's block (Tables 7.14-7.18). -/
def ledgerReg (s : State) (d y : Nat) : Option RegVal :=
  let x := dieOf s d
  let n := fun (p : LEntry → Bool) => (x.ledger.filter p).length
  if y = 0 then
    reg8 [(x.ledger.length, 0, 12), (n (fun e => decide (0 < e.pins)), 12, 12), (n (fun e => decide (e.state = .filling)), 24, 12)
         , (n (fun e => decide (e.state = .draining)), 36, 12), (n (fun e => decide (e.state = .deferred)), 48, 12)]
  else if y = 8 then reg4 [(x.resupplyMs, 0, 16), (b2n x.resupplyEn, 16, 1)]
  else if y = 0x10 then reg4 []
  else if y = 0x18 then some (8, x.lastFail)
  else if y = 0x20 then words x.recovered x.lost
  else none

/-- The ephemeris's block (Tables 7.12, 7.13). -/
def ephReg (s : State) (d y : Nat) : Option RegVal :=
  let x := dieOf s d
  if y = 0 then reg8 [(x.cursor, 0, 16), (x.ephState, 16, 3), (x.step, 24, 24), (x.held, 48, 8)]
  else if y = 8 then reg8 [(x.lastEvent, 0, 16), (x.lastPhase, 16, 2), (needWaitMask s d, 24, 8), (x.failedEntry, 32, 16)]
  else none

/-- A stack's block (Tables 8.6-8.8). -/
def stackReg (s : State) (k y : Nat) : Option RegVal :=
  let x := stackOf s k
  if y = 0 then
    reg8 [(x.state, 0, 3), (x.rate, 4, 8), (x.temp, 12, 8), (b2n x.refresh2x, 20, 1), (b2n x.throttle, 21, 1), (x.repaired, 28, 4)]
  else if y = 8 then reg8 [(x.nData, 0, 16), (x.nVersion, 16, 16), (x.nParity, 32, 16), (x.nOdecc, 48, 16)]
  else if y = 0x10 then reg4 []
  else none

/-- The die's power and thermal block (Tables 14.11-14.14). -/
def dieReg (s : State) (d y : Nat) : Option RegVal :=
  let x := dieOf s d
  if y < 0x80 ∧ y % 0x10 = 0 then some (8, pwrClu (clOf s (8 * d + y / 0x10)))
  else if 0x80 ≤ y ∧ y < 0xC0 then reg4 [((clOf s (8 * d + (y - 0x80) / 8)).cap, 0, 11)]
  else if 0x100 ≤ y ∧ y < 0x140 then sensorReg (clOf s (8 * d + (y - 0x100) / 8)).sensors
  else if y = 0x180 then
    reg8 [(x.railMv, 0, 12), (x.dieRailMv, 16, 10), (maskOf 8 (fun c => (clOf s (8 * d + c)).railOff), 32, 8), (b2n x.railOff, 40, 1)]
  else none

/-- A register of a compute die's window. -/
def computeWindow (s : State) (d y : Nat) : Option RegVal :=
  if y < 0x800000 then clusterReg s (8 * d + y / 0x100000) (y % 0x100000)
  else if y < 0x810000 then none
  else if y < 0x820000 then ledgerReg s d (y - 0x810000)
  else if y < 0x830000 then ephReg s d (y - 0x820000)
  else if y < 0x860000 then stackReg s (3 * d + (y - 0x830000) / 0x10000) (y % 0x10000)
  else if y < 0x870000 then portReg s d ((y - 0x860000) / 0x100) (y % 0x100)
  else if y < 0x880000 then dieReg s d (y - 0x870000)
  else none

/-! ### The map (R48) -/

/-- The die whose window an offset lies in. -/
def windowDie (a : Nat) : Option Nat :=
  if a < 0x100000 then some 4 else if a < 0x200000 then some 5 else if a < 0x300000 then some 6 else if a < 0x400000 then some 7
  else if 0x2000000 ≤ a ∧ a < 0x6000000 then some ((a - 0x2000000) / 0x1000000)
  else none

/-- A die in die reset: its window is that of an absent die (R41, R463). -/
def dieAway (s : State) (d : Nat) : Bool := if d < 4 then (dieOf s d).inReset else if d = 5 ∨ d = 6 then (photOf s d).inReset else false

/-- The register at a multiple of 8; none at a reserved offset. -/
def regAt (s : State) (a : Nat) : Option RegVal :=
  match windowDie a with
  | none => none
  | some d =>
    if d = 4 then hubWindow s a
    else if d = 5 ∨ d = 6 then photWindow s d (a % 0x100000)
    else if d = 7 then none
    else computeWindow s d ((a - 0x2000000) % 0x1000000)

/-- The register that an offset names: its base, its width and its value. The upper half of a 4-byte register's 8 bytes is
reserved. -/
def regOf (s : State) (off : Nat) : Option (Nat × RegVal) :=
  let a := off / 8 * 8
  match regAt s a with
  | none => none
  | some (w, v) => if w = 4 ∧ off % 8 = 4 then none else some (a, w, v)

/-- The 64-bit counters of R594. -/
def isCounter (a : Nat) : Bool :=
  match windowDie a with
  | none => false
  | some d =>
    if d = 4 then
      (decide (0x10000 ≤ a ∧ a < 0x20000 ∧ a % 0x400 = 0x10))
      || [0x308, 0x20020, 0x40008, 0x40010, 0x70018, 0x80900].contains a
      || (decide (0x80000 ≤ a ∧ a < 0x80500 ∧ a % 0x100 = 8))
    else if d = 5 ∨ d = 6 then
      let y := a % 0x100000
      decide (y = 0x18 ∨ y = 0x20018 ∨ (0x10000 ≤ y ∧ y < 0x20000 ∧ y % 0x800 = 0x10) ∨ (0x30000 ≤ y ∧ y < 0x30400 ∧ y % 0x100 = 8))
    else if d = 7 then false
    else
      let y := (a - 0x2000000) % 0x1000000
      if y < 0x800000 then
        let x := y % 0x100000
        let z := x % 0x1000
        decide (x = 0x40100 ∨ x = 0x40108 ∨ x = 0x40208 ∨ x = 0x40210
          ∨ (0x50000 ≤ x ∧ x < 0x59000 ∧ (z = 0x18 ∨ z = 0x20 ∨ z = 0x410 ∨ z = 0x418 ∨ z = 0x420 ∨ z = 0x610 ∨ z = 0x618)))
      else decide (y = 0x810000 ∨ y = 0x810020 ∨ y = 0x830008 ∨ y = 0x840008 ∨ y = 0x850008
          ∨ (0x860000 ≤ y ∧ y < 0x860500 ∧ y % 0x100 = 8) ∨ (0x870000 ≤ y ∧ y < 0x870080 ∧ y % 0x10 = 0))

/-- Whether an access reads as zero whatever the register holds: before READY outside the hub window (R491), and in a die in
reset (R41). -/
def readsZero (s : State) (off : Nat) : Bool :=
  decide (0x100000 ≤ off) && (!s.boot.ready || ((windowDie off).map (dieAway s)).getD false)

/-- One 4-byte half is read: a counter's low half latches the high one, and a high half is served from the latch once
(R19). -/
def readHalf (off : Nat) (s : State) : W64 × State :=
  match regOf s off with
  | none => (0, s)
  | some (a, w, v) =>
    if w = 4 then (v &&& 0xFFFFFFFF#64, s)
    else if off % 8 = 0 then
      (v &&& 0xFFFFFFFF#64,
       if isCounter a then { s with pci := { s.pci with latch := s.pci.latch.put a ((v >>> 32).setWidth 32) } } else s)
    else match s.pci.latch.find a with
      | some h => (h.setWidth 64, { s with pci := { s.pci with latch := s.pci.latch.del a } })
      | none => (v >>> 32, s)

/-- A register access is read: 4 or 8 bytes, naturally aligned. -/
def readReg (off size : Nat) (s : State) : W64 × State :=
  if readsZero s off then (0, s)
  else if size = 4 then readHalf off s
  else match regOf s off with
    | some (_, _, v) => (v, s)
    | none => (0, s)

/-- COUNTER_LOW_READ (R19, R594): a 4-byte read of a counter's low half, and the later one of its high half. -/
def effCounterLowRead (off : Nat) (s : State) : State :=
  if off % 4 ≠ 0 ∨ !(isCounter (off / 8 * 8)) then s
  else hostRead (fun s =>
    let r := readReg off 4 s
    emit (.regData r.1) r.2) s

end Sys2Proof.Machine
end

