-- ==== Sys2Proof/Machine/Regs.lean ====
section
/-! DEFINITION. Regs: what a host write does to every register of BAR0 (R16-R19, R41, R55, R138, R491), and the accesses of
the debug port (R557). -/

namespace Sys2Proof.Machine

/-! ### Writes in the windows of the dies -/

/-- The cluster whose window an offset lies in. -/
def offsetCluster (off : Nat) : Option Nat :=
  match windowDie off with
  | some d => if d < 4 ∧ (off - 0x2000000) % 0x1000000 < 0x800000 then some (8 * d + (off - 0x2000000) % 0x1000000 / 0x100000) else none
  | none => none

/-- An access to the window of a cluster ungates its clock (R499). -/
def touch (off : Nat) (s : State) : State :=
  match offsetCluster off with
  | some cl => ungate cl s
  | none => s

/-- The core whose window an offset lies in. -/
def offsetCore (off : Nat) : Option Nat :=
  match offsetCluster off with
  | some cl =>
    let x := off % 0x100000
    if 0x50000 ≤ x ∧ x < 0x59000 then some (9 * cl + (x - 0x50000) / 0x1000) else none
  | none => none

/-- Why a write to a register is discarded: the instruction memory (R138), or a core that serves no lane but for
COR_OCC_TEST of the spare (R55, Table 9.10). -/
def writeRefused (off : Nat) (s : State) : Option Nat :=
  match offsetCluster off, offsetCore off with
  | some _, none => if off % 0x100000 < 0x40000 then some 4 else none
  | some _, some k =>
    if servedLane s k < 8 ∨ (off % 0x1000 = 0x30 ∧ isSpare s k) then none else some 3
  | none, _ => none

/-- A host write of `size` bytes to a register at `off` that does `f`, but for the cases in which it is discarded: outside
the hub window before READY (R491), in the window of a die in reset (R41), and as `writeRefused` says. -/
def window (off size : Nat) (v : W64) (f : State → State) (s : State) : State :=
  hostAccess (fun s =>
    if 0x100000 ≤ off ∧ !s.boot.ready then
      (if (offsetCluster off).isSome ∧ off % 0x100000 = 0x40300 ∧ bit v 0 then regAccess 7 off size true v s else s)
    else if ((windowDie off).map (dieAway s)).getD false then regAccess 2 off size true v s
    else
      let s := touch off s
      match writeRefused off s with
      | some cause => regAccess cause off size true v s
      | none => f s) s

/-! ### What a whole value written to a register does -/

/-- A write-1 field that triggers `f`. -/
def trigger (v : W64) (i : Nat) (f : State → State) (s : State) : State := if bit v i then f s else s

/-- STM_ registers (Tables 2.1-2.4): STM_CONTROL, STM_SKIP_STATUS.OVERFLOW and STM_SKIP_CLEAR. -/
def streamWrite (off size : Nat) (v : W64) (s : State) : State :=
  let st := (off - 0x10000) / 0x400
  let y := off % 0x400 / 8 * 8
  if y = 8 then trigger v 1 (fun s => effStreamReset st s) (effStreamPause st (bit v 2) (effStreamEnable st (bit v 0) s))
  else if y = 0x10 then
    writeHalves (off / 8 * 8) (off % 8) size v 0 (fun _ w s =>
      trigger w 40 (fun s => setStrm s st { strmOf s st with overflow := false }) s) s
  else if y = 0x18 then trigger v 0 (fun s => effClearMisplaced st s) (effSkipSelect st (fld v 8 8) s)
  else s

/-- HUB_RESET (Table 15.5): an accepted cold start leaves nothing for the other fields. -/
def hubResetWrite (size : Nat) (v : W64) (s : State) : State :=
  let s := { s with boot := { s.boot with dieSel := fld v 4 4 } }
  if bit v 1 ∧ lockOpen 0 s then requestCold false 3 s
  else
    let s := if bit v 1 then regAccess 8 hubResetOff size true v s else s
    trigger v 2 (fun s => dieWrite size v s) (trigger v 0 (fun s => requestWarm 3 s) s)

/-- One 4-byte word of the MSI-X table (R485), as PCIe lays an entry out: address, data, vector control. -/
def msixWord (off : Nat) (v : W64) (s : State) : State :=
  let n := (off - 0x28000) / 16
  let m := s.pci.msix.get Msix.reset n
  if off % 16 = 0 then setMsix s n { m with addr := BitVec.ofNat 64 (fld m.addr 32 32 * 2 ^ 32 + fld v 0 32 / 4 * 4) }
  else if off % 16 = 4 then setMsix s n { m with addr := BitVec.ofNat 64 (fld m.addr 0 32 + fld v 0 32 * 2 ^ 32) }
  else if off % 16 = 8 then setMsix s n { m with data := v.setWidth 32 }
  else maskVector n (bit v 0) s

/-- Registers of the host port (Tables 13.5-13.7, R485, R489). -/
def pciWrite (off size : Nat) (v : W64) (s : State) : State :=
  if 0x20010 ≤ off ∧ off < 0x20020 then effDmaWindowWrite (off - 0x20010) size v s
  else if 0x20020 ≤ off ∧ off < 0x20028 then
    writeHalves 0x20020 (off % 8) size v (((pciReg s 0x20020).map (fun r => r.2)).getD 0) (fun written w s =>
      if lockOpen 2 s then { s with pci := { s.pci with ideRequired := bit w 2 } }
      else regAccess 8 off size true written s) s
  else if 0x21000 ≤ off ∧ off < 0x21200 then effTokenWatchWrite ((off - 0x21000) / 8) (off % 8) size v s
  else if 0x28000 ≤ off ∧ off < 0x28400 then
    (if size = 8 then msixWord (off + 4) (v >>> 32) (msixWord off v s) else msixWord off v s)
  else s

/-- Registers of the event ring (Tables 13.8-13.12). -/
def evrWrite (off size : Nat) (v : W64) (s : State) : State :=
  if off < 0x70008 then effHubEvrBaseWrite (off % 8) size v s
  else if off = 0x70008 then (if bit v 0 then effEvrEnable size v s else effEvrDisable size v s)
  else if off = 0x7000C then ctrlHigh v s
  else if off < 0x70018 then effHubEvrWbWrite (off % 8) size v s
  else if off = 0x70018 then
    (if size = 8 then effEvrConsumerWrite 8 v s else { s with pci := { s.pci with low := s.pci.low.put 0x70018 (v.setWidth 32) } })
  else if off = 0x7001C then effEvrConsumerWrite 4 v s
  else
    writeHalves 0x70020 (off % 8) size v 0 (fun _ w s => trigger w 2 (fun s => setEvr s { s.evr with error := false }) s) s

/-- Registers of a die-link port (Tables 12.10, 12.11): MODE is of lock class 1 (R556); the companion port has the
standard package only (R453). -/
def portWrite (d p y off size : Nat) (v : W64) (s : State) : State :=
  if y = 0x10 then
    (if lockOpen 1 s then setPort s d p { portOf s d p with cfgStd := bit v 0 || decide (d = 4 ∧ p = 4) }
     else regAccess 8 off size true v s)
  else if y = 0x18 then trigger v 0 (fun s => effD2dPortClear d p s) s
  else s

/-- Registers of the hub window. ENC_CONTROL.SELF_TEST, whose outcome is an input, is the row SELF_TEST. -/
def hubWrite (off size : Nat) (v : W64) (s : State) : State :=
  let a := off / 8 * 8
  if a = 0x300 then
    (if size = 8 then effHbmXferCtrlWrite 2 v s else effHbmXferCtrlWrite (off % 8 / 4) v s)
  else if a = 0x500 then hubResetWrite size v s
  else if 0x10000 ≤ a ∧ a < 0x20000 then streamWrite off size v s
  else if 0x20000 ≤ a ∧ a < 0x30000 then pciWrite off size v s
  else if 0x30100 ≤ a ∧ a < 0x30200 then
    writeHalves a (off % 8) size v 0 (fun _ w s =>
      setNvCtrl s ((a - 0x30100) / 0x40) { nvCtrl s ((a - 0x30100) / 0x40) with timeoutMs := fld w 32 16 }) s
  else if a = 0x40018 then trigger v 1 (fun s => effClearClamp s) (trigger v 0 (fun s => effClearSag s) s)
  else if a = 0x40020 then
    writeHalves a (off % 8) size v 0 (fun _ w s => trigger w 20 (fun s => setPwr s { s.pwr with limitSeen := false }) s) s
  else if a = 0x60018 then trigger v 0 (fun s => effEncZeroise s) s
  else if 0x70000 ≤ a ∧ a < 0x80000 then evrWrite off size v s
  else if 0x80910 ≤ a ∧ a < 0x80920 then effD2dCompApertureWrite (off - 0x80910) size v s
  else if 0x80000 ≤ a ∧ a < 0x80500 then portWrite 4 ((a - 0x80000) / 0x100) (a % 0x100) off size v s
  else s

/-- Registers of a photonic die's window. -/
def photWrite (d off size : Nat) (v : W64) (s : State) : State :=
  let y := off % 0x100000 / 8 * 8
  let x := photOf s d
  if y = 0x20 then setPhot s d { x with calEn := bit v 0, calPeriod := fld v 8 8 }
  else if y = 0x28 then trigger v 1 (fun s => effClearLinks d s) (trigger v 0 (fun s => effMerClearDrop d s) s)
  else if 0x10000 ≤ y ∧ y < 0x20000 then
    let p := 2 * ((y - 0x10000) / 0x800) + (d - 5)
    if y % 0x800 = 8 then setLink s p { linkOf s p with cabling := fld v 0 2, gwPort := fld v 8 6 }
    else if y % 0x800 = 0x28 then trigger v 0 (fun s => effMerLinkClear p s) s
    else s
  else if y = 0x20008 then setPhot s d { x with sel := fld v 0 16 }
  else if y = 0x20020 then trigger v 16 (fun s => effFabAbortRaise d (fld v 0 16) s) s
  else if y = 0x20030 then trigger v 1 (fun s => effClearSat d s) (trigger v 0 (fun s => effFabClearDrop d s) s)
  else if 0x30000 ≤ y ∧ y < 0x40000 then portWrite d ((y - 0x30000) / 0x100) (y % 0x100) off size v s
  else s

/-- Registers of a core that serves a lane, and COR_OCC_TEST. -/
def coreWrite (k y : Nat) (v : W64) (s : State) : State :=
  if y = 0x30 then trigger v 0 (fun s => effOccTestRun k s) s
  else if y = 0x428 then trigger v 0 (fun s => setCore s k { coreOf s k with replay := [], replayLast := 0 }) s
  else if y = 0x620 then trigger v 0 (fun s => setCore s k { coreOf s k with sat := [] }) s
  else s

/-- CLU_UPD_CLEAR written: NONFINITE, NONFINITE_SEEN and CLU_UPD_SAT clear (R233). -/
def clearUpd (cl : Nat) (s : State) : State :=
  setCl s cl { clOf s cl with nonfiniteSeen := false, nonfinite := 0, satM1 := 0, satM2 := 0, satW := 0 }

/-- Registers of a cluster. -/
def clusterWrite (cl x off size : Nat) (v : W64) (s : State) : State :=
  let c := clOf s cl
  if x = 0x40040 then setCl s cl { c with replaySummary := c.replaySummary &&& ~~~(v.setWidth 16) }
  else if x = 0x40100 then
    writeHalves (off / 8 * 8) (off % 8) size v 0 (fun _ w s =>
      trigger w 24 (fun s => setCl s cl { clOf s cl with nonfiniteSeen := false }) s) s
  else if x = 0x40110 then trigger v 0 (fun s => clearUpd cl s) s
  else if x = 0x40200 then setCl s cl { c with occEnable := bit v 0, occPeriod := fld v 8 8 }
  else if x = 0x40300 then trigger v 0 (fun s => cluResetWrite cl size v s) s
  else if 0x50000 ≤ x ∧ x < 0x59000 then coreWrite (9 * cl + (x - 0x50000) / 0x1000) (x % 0x1000) v s
  else s

/-- Registers of a compute die's window. -/
def computeWrite (d off size : Nat) (v : W64) (s : State) : State :=
  let y := (off - 0x2000000) % 0x1000000 / 8 * 8
  if y < 0x800000 then clusterWrite (8 * d + y / 0x100000) (y % 0x100000) off size v s
  else if y = 0x810008 then setDie s d { dieOf s d with resupplyMs := fld v 0 16, resupplyEn := bit v 16 }
  else if y = 0x810010 then resupplyWrite d size v s
  else if 0x830000 ≤ y ∧ y < 0x860000 ∧ y % 0x10000 = 0x10 then
    trigger v 0 (fun s => effHbmErrClear (3 * d + (y - 0x830000) / 0x10000) s) s
  else if 0x860000 ≤ y ∧ y < 0x870000 then portWrite d ((y - 0x860000) / 0x100) (y % 0x100) off size v s
  else if 0x870080 ≤ y ∧ y < 0x8700C0 then effCluCapWrite (8 * d + (y - 0x870080) / 8) (fld v 0 11) s
  else s

/-- A value written to a register that exists. Read-only fields ignore it (R16). -/
def applyWrite (off size : Nat) (v : W64) (s : State) : State :=
  match windowDie off with
  | none => s
  | some d =>
    if d = 4 then hubWrite off size v s
    else if d = 5 ∨ d = 6 then photWrite d off size v s
    else computeWrite d off size v s

/-- REGISTER_WRITE: a host write of 4 or 8 bytes, naturally aligned, outside the stream buffers. Reserved offsets discard
it (R17); the companion window passes it on (R51). -/
def effRegisterWrite (off size : Nat) (v : W64) (s : State) : State :=
  let v := if size = 4 then v &&& 0xFFFFFFFF#64 else v
  if (size ≠ 4 ∧ size ≠ 8) ∨ off % size ≠ 0 ∨ 0x8000000 ≤ off ∨ (0x1000000 ≤ off ∧ off < 0x2000000) then s
  else if 0x300000 ≤ off ∧ off < 0x400000 then effRegWr (off - 0x300000) size v s
  else if (windowDie off).isSome then
    (if (regOf s off).isSome then window off size v (applyWrite off size v) s
     else
      hostAccess (fun s =>
        regAccess (if ((windowDie off).map (dieAway s)).getD false then 2 else 9) off size true v s) s)
  else hostAccess (regAccess 9 off size true v) s

/-- BAD_WIDTH_ACCESS (R19): any other width or alignment; a read returns zero. -/
def effBadWidthAccess (off size : Nat) (write : Bool) (v : W64) (s : State) : State :=
  if ((size = 4 ∨ size = 8) ∧ off % size = 0) ∨ size = 0 ∨ 0x8000000 ≤ off ∨ (0x1000000 ≤ off ∧ off < 0x2000000) then s
  else if write then hostAccess (fun s => touch off (regAccess 1 off size true v s)) s
  else hostRead (fun s => emit (.regData 0) (touch off (regAccess 1 off size false 0 s))) s

/-! ### The rows that are writes of one field -/

/-- The offset of a core's window. -/
def coreBase (k : Nat) : Nat := clusterBase (k / 9) + 0x50000 + k % 9 * 0x1000

/-- MAT_REPLAY_CLEAR (R163). -/
def effMatReplayClear (core : Nat) (s : State) : State :=
  if core < 288 then window (coreBase core + 0x428) 4 1 (coreWrite core 0x428 1) s else s
/-- VEC_SAT_CLEAR (R186). -/
def effVecSatClear (core : Nat) (s : State) : State :=
  if core < 288 then window (coreBase core + 0x620) 4 1 (coreWrite core 0x620 1) s else s
/-- OCC_TEST_RUN (Table 9.10): on any core but the spare, R55 applies. -/
def effTestRun (core : Nat) (s : State) : State :=
  if core < 288 then window (coreBase core + 0x30) 4 1 (coreWrite core 0x30 1) s else s
/-- CLU_UPD_CLEAR (R233). -/
def effUpdClear (cl : Nat) (s : State) : State :=
  if cl < 32 then window (clusterBase cl + 0x40110) 4 1 (clearUpd cl) s else s
/-- CLU_RESET (R534). -/
def effCluReset (cl : Nat) (s : State) : State :=
  if cl < 32 then window (clusterBase cl + 0x40300) 4 1 (cluResetWrite cl 4 1) s else s
/-- HBM_ERR_CLEAR (R293). -/
def effStackErrClear (k : Nat) (s : State) : State :=
  if k < 12 then window (0x2000000 + k / 3 * 0x1000000 + 0x830010 + k % 3 * 0x10000) 4 1 (effHbmErrClear k) s else s
/-- LDG_RESUPPLY (R276). -/
def effLdgResupply (d entry : Nat) (supplied : Bool) (s : State) : State :=
  let v : W64 := BitVec.ofNat 64 (at_ entry 0 11 + at_ (b2n supplied) 16 1)
  if d < 4 then window (0x2810010 + d * 0x1000000) 4 v (resupplyWrite d 4 v) s else s
/-- CLU_CAP_WRITE (Table 14.13). -/
def effCapWrite (cl v : Nat) (s : State) : State :=
  if cl < 32 then window (0x2870080 + cl / 8 * 0x1000000 + cl % 8 * 8) 4 (BitVec.ofNat 64 (v % 2048)) (effCluCapWrite cl v) s else s

/-- A photonic die's window. -/
def photBase (d : Nat) : Nat := 0x100000 * (d - 4)
/-- A write in the window of die 5 or 6. -/
def photOp (d y : Nat) (v : W64) (f : State → State) (s : State) : State :=
  if d = 5 ∨ d = 6 then window (photBase d + y) 4 v f s else s

/-- MER_CLEAR_DROP (R355). -/
def effDropClear (d : Nat) (s : State) : State := photOp d 0x28 1 (effMerClearDrop d) s
/-- CLEAR_LINKS (R386). -/
def effLinksClear (d : Nat) (s : State) : State := photOp d 0x28 2 (effClearLinks d) s
/-- MER_LINK_CLEAR (R386). -/
def effLinkClear (p : Nat) (s : State) : State :=
  if p < 64 then photOp (linkDie p) (0x10028 + p / 2 * 0x800) 1 (effMerLinkClear p) s else s
/-- FAB_ABORT_RAISE (R432). -/
def effAbortRaise (d group : Nat) (s : State) : State :=
  photOp d 0x20020 (BitVec.ofNat 64 (0x10000 + group % 0x10000)) (effFabAbortRaise d (group % 0x10000)) s
/-- FAB_CLEAR_DROP (R416). -/
def effFabDropClear (d : Nat) (s : State) : State := photOp d 0x20030 1 (effFabClearDrop d) s
/-- CLEAR_SAT (R422). -/
def effSatClear (d : Nat) (s : State) : State := photOp d 0x20030 2 (effClearSat d) s

/-- D2D_PORT_CLEAR (R459). -/
def effPortClear (d p : Nat) (s : State) : State :=
  if portModules d p = 0 then s
  else
    let base := if d = 4 then 0x80000 else if d < 4 then 0x2860000 + d * 0x1000000 else photBase d + 0x30000
    window (base + p * 0x100 + 0x18) 4 1 (effD2dPortClear d p) s

/-- SELF_REFRESH_TIMEOUT (R301, R304, R468): the oldest held BAR2 access (0), command `no` (1), the oldest held companion
access (2), the plan read of the LEASE_LOAD at the head of stream `no` (3), the run of context `no` (4), or the oldest held
cell (5) has waited 1 ms. -/
def effSelfRefreshTimeout (kind no : Nat) (s : State) : State :=
  if kind = 0 then bar2Timeout s else if kind = 1 then heldTimeout no s else if kind = 2 then compTimeout s
  else if kind = 3 then leaseTimeout no s else if kind = 4 then runTimeout no s else if kind = 5 then cellTimeout s else s

/-! ### The debug port (R557) -/

/-- The lines of a scratchpad written, with their codes; the tags stay. -/
def pokeCore (core addr : Nat) (data : List Byte) (s : State) : State :=
  if 288 ≤ core ∨ 0x300000 < addr + data.length then s
  else
    setCore s core (data.zipIdx.foldl (fun k x =>
      let a := addr + x.2
      spadWrite k { line := a / 64, tag := spadTag k (a / 64), upd := [(a % 64, x.1)] }) (coreOf s core))

/-- The lines of the plates written. -/
def pokePlates (cl addr : Nat) (data : List Byte) (s : State) : State :=
  if 32 ≤ cl ∨ 0x1800000 < addr + data.length then s
  else
    setCl s cl (data.zipIdx.foldl (fun c x =>
      let a := addr + x.2
      plateWrite c (a / 64) (plateTag c (a / 64)) [(a % 64, x.1)]) (clOf s cl))

/-- Instruction memory written. DESIGN CHOICE (log 59): a page that the page buffer holds shows the write at the next
fetch. -/
def pokeImem (cl addr : Nat) (data : List Byte) (s : State) : State :=
  if 32 ≤ cl ∨ 0x40000 < addr + data.length then s
  else setCl s cl { clOf s cl with imem := (clOf s cl).imem.writes addr data }

/-- HBM written under HBM_XFER_CTRL, as through BAR2. -/
def pokeHbm (addr : Nat) (data : List Byte) (s : State) : State :=
  if hbmEnd < addr + data.length then s else bar2Sectors (data.length + 1) addr data s

/-- A sequencer or, as cluster 32, the Yuton controller is halted (1), steps one instruction (2) or goes on (0). -/
def haltUnit (u mode : Nat) (s : State) : State :=
  if u < 32 then setCl s u { clOf s u with dbg := mode }
  else if u = 32 then { s with mgt := { s.mgt with halted := decide (mode = 1) } }
  else s

/-- A register outside the enclave's window. -/
def debugReg (off size : Nat) : Bool :=
  decide ((size = 4 ∨ size = 8) ∧ off % size = 0 ∧ off < 0x8000000 ∧ ¬(0x60000 ≤ off ∧ off < 0x70000))

/-- DEBUG_PORT_ACCESS. Kind 0 boundary scan; 1 read and 2 write a register; 3-6 write a scratchpad, plates, instruction
memory or HBM; 7 halt, 8 step, 9 go on. What the level does not serve has no effect. -/
def effDebugPortAccess (kind unit addr size : Nat) (v : W64) (data : List Byte) (s : State) : State :=
  if kind = 1 then
    (if 1 ≤ s.encl.debug ∧ debugReg addr size then
      if 0x300000 ≤ addr ∧ addr < 0x400000 ∧ compReads s (addr - 0x300000) then
        compAsk ⟨false, addr - 0x300000, size, 0, true⟩ s
      else
      let r := readReg addr size s
      emit (.debugData r.1) r.2
     else s)
  else if s.encl.debug ≠ 2 then s
  else if kind = 2 then
    (if debugReg addr size then
      let t := effRegisterWrite addr size v { s with mgt := { s.mgt with viaDebug := true } }
      { t with mgt := { t.mgt with viaDebug := false } }
     else s)
  else if kind = 3 then pokeCore unit addr data s
  else if kind = 4 then pokePlates unit addr data s
  else if kind = 5 then pokeImem unit addr data s
  else if kind = 6 then pokeHbm addr data s
  else if kind = 7 then haltUnit unit 1 s
  else if kind = 8 then haltUnit unit 2 s
  else if kind = 9 then haltUnit unit 0 s
  else s

/-- COUNTER_LOW_READ (R19, R499, R594). -/
def effCounterRead (off : Nat) (s : State) : State := hostRead (fun s => effCounterLowRead off (touch off s)) s

end Sys2Proof.Machine
end

