-- ==== Sys2Proof/Machine/MeanEnclave.lean ====
section
/-! DEFINITION. MeanEnclave: the meanings of the commands of the enclave and the management interface (chapter 16). Each is one operation of the model and answers a next
state. -/

namespace Sys2Proof.Machine

/-- REQUEST_UPDATE (R545). -/
def execRequestUpdate (b : Nat) (maxLen : Nat) (version : W32) (s : State) : Host.Outcome State Fault Refusal :=
  .next (effRequestUpdate b maxLen version s)
/-- UPDATE_COMPONENT (R545). -/
def execUpdateComponent (b : Nat) (size : Nat) (s : State) : Host.Outcome State Fault Refusal :=
  .next (effUpdateComponent b size s)
/-- FIRMWARE_DATA (R545). -/
def execFirmwareData (b : Nat) (data : List Byte) (s : State) : Host.Outcome State Fault Refusal :=
  .next (effFirmwareData b data s)
/-- UPDATE_VERIFY_DONE (R545). -/
def execUpdateVerifyDone (s : State) : Host.Outcome State Fault Refusal := .next (effUpdateVerifyDone s)
/-- ACTIVATE_FIRMWARE (R545). -/
def execActivateFirmware (b : Nat) (s : State) : Host.Outcome State Fault Refusal := .next (effActivateFirmware b s)
/-- GET_FIRMWARE_PARAMETERS (R544). -/
def execGetFirmwareParameters (b : Nat) (s : State) : Host.Outcome State Fault Refusal :=
  .next (effGetFirmwareParameters b s)
/-- QUERY_DEVICE_IDENTIFIERS (R544). -/
def execQueryDeviceIdentifiers (b : Nat) (s : State) : Host.Outcome State Fault Refusal :=
  .next (effQueryDeviceIdentifiers b s)
/-- GET_PDR (R562). -/
def execGetPdr (b : Nat) (handle : Nat) (s : State) : Host.Outcome State Fault Refusal := .next (effGetPdr b handle s)
/-- GET_PDR_REPOSITORY_INFO (R562). -/
def execGetPdrRepositoryInfo (b : Nat) (s : State) : Host.Outcome State Fault Refusal := .next (effGetPdrRepositoryInfo b s)
/-- GET_SENSOR_READING (R562). -/
def execGetSensorReading (b : Nat) (id : Nat) (s : State) : Host.Outcome State Fault Refusal :=
  .next (effGetSensorReading b id s)
/-- GET_STATE_SENSOR_READINGS (R562). -/
def execGetStateSensorReadings (b : Nat) (id : Nat) (s : State) : Host.Outcome State Fault Refusal :=
  .next (effGetStateSensorReadings b id s)
/-- SET_EVENT_RECEIVER (R563). -/
def execSetEventReceiver (b : Nat) (s : State) : Host.Outcome State Fault Refusal := .next (effSetEventReceiver b s)
/-- POLL_FOR_PLATFORM_EVENT_MESSAGE (R563). -/
def execPollForPlatformEventMessage (b : Nat) (s : State) : Host.Outcome State Fault Refusal :=
  .next (effPollForPlatformEventMessage b s)
/-- EVENT_MESSAGE_SUPPORTED (R562). -/
def execEventMessageSupported (b : Nat) (s : State) : Host.Outcome State Fault Refusal :=
  .next (effEventMessageSupported b s)
/-- EVENT_MESSAGE_BUFFER_SIZE (R562). -/
def execEventMessageBufferSize (b : Nat) (s : State) : Host.Outcome State Fault Refusal :=
  .next (effEventMessageBufferSize b s)
/-- PLATFORM_EVENT_RESPONSE (R563). -/
def execPlatformEventResponse (b : Nat) (s : State) : Host.Outcome State Fault Refusal :=
  .next (effPlatformEventResponse b s)
/-- PLATFORM_EVENT_TIMEOUT (R563). -/
def execPlatformEventTimeout (s : State) : Host.Outcome State Fault Refusal := .next (effPlatformEventTimeout s)
/-- SENSOR_REFRESH (R562). -/
def execSensorRefresh (s : State) : Host.Outcome State Fault Refusal := .next (effSensorRefresh s)
/-- NEGOTIATE_ALGORITHMS (R550). -/
def execNegotiateAlgorithms (b : Nat) (slhDsa : Bool) (s : State) : Host.Outcome State Fault Refusal :=
  .next (effNegotiateAlgorithms b slhDsa s)
/-- GET_CERTIFICATE (R549). -/
def execGetCertificate (b : Nat) (s : State) : Host.Outcome State Fault Refusal := .next (effGetCertificate b s)
/-- GET_MEASUREMENTS (R550). -/
def execGetMeasurements (b : Nat) (idx : Nat) (sign : Bool) (s : State) : Host.Outcome State Fault Refusal :=
  .next (effGetMeasurements b idx sign s)
/-- CHALLENGE (R550). -/
def execChallenge (b : Nat) (s : State) : Host.Outcome State Fault Refusal := .next (effChallenge b s)
/-- KEY_EXCHANGE (R550). -/
def execKeyExchange (b : Nat) (sid : Nat) (s : State) : Host.Outcome State Fault Refusal := .next (effKeyExchange b sid s)
/-- KEY_PROG (R551). -/
def execKeyProg (sid : Nat) (strm : Nat) (set : Nat) (s : State) : Host.Outcome State Fault Refusal :=
  .next (effKeyProg sid strm set s)
/-- K_SET_GO (R551). -/
def execKSetGo (sid : Nat) (set : Nat) (s : State) : Host.Outcome State Fault Refusal := .next (effKSetGo sid set s)
/-- K_SET_STOP (R551). -/
def execKSetStop (sid : Nat) (s : State) : Host.Outcome State Fault Refusal := .next (effKSetStop sid s)
/-- GET_CHALLENGE (R561). -/
def execGetChallenge (b : Nat) (s : State) : Host.Outcome State Fault Refusal := .next (effGetChallenge b s)
/-- SUBMIT_TOKEN (R559). -/
def execSubmitToken (b : Nat) (t : List Byte) (s : State) : Host.Outcome State Fault Refusal := .next (effSubmitToken b t s)
/-- COLD_START (R561). -/
def execColdStart (b : Nat) (s : State) : Host.Outcome State Fault Refusal := .next (effColdStartMsg b s)
/-- ZEROISE (R555). -/
def execZeroise (b : Nat) (s : State) : Host.Outcome State Fault Refusal := .next (effZeroise b s)
/-- ENC_ZEROISE (R555). -/
def execEncZeroise (s : State) : Host.Outcome State Fault Refusal := .next (effEncZeroise s)
/-- SELF_TEST (R553). -/
def execSelfTest (ok : Bool) (s : State) : Host.Outcome State Fault Refusal := .next (effSelfTest ok s)
/-- ALIAS_CERT_ISSUE (R549). -/
def execAliasCertIssue (s : State) : Host.Outcome State Fault Refusal := .next (effAliasCertIssue s)
/-- I3C_ADDRESS_ASSIGN (R560). -/
def execI3cAddressAssign (addr : Nat) (s : State) : Host.Outcome State Fault Refusal := .next (effI3cAddressAssign addr s)
/-- I3C_BUS_RESET (R560). -/
def execI3cBusReset (s : State) : Host.Outcome State Fault Refusal := .next (effI3cBusReset s)
/-- END_SESSION (R551). -/
def execEndSession (b : Nat) (sid : Nat) (s : State) : Host.Outcome State Fault Refusal := .next (effEndSession b sid s)
/-- SET_ENDPOINT_ID (R560). -/
def execSetEndpointId (b : Nat) (eid : Nat) (s : State) : Host.Outcome State Fault Refusal :=
  .next (effSetEndpointId b eid s)
/-- DEBUG_PORT_ACCESS (R557). -/
def execDebugPortAccess (kind : Nat) (unit : Nat) (addr : Nat) (size : Nat) (v : W64) (data : List Byte) (s : State) : Host.Outcome State Fault Refusal :=
  .next (effDebugPortAccess kind unit addr size v data s)
/-- CONDITIONAL_TEST_FAILURE (R554). -/
def execConditionalTestFailure (s : State) : Host.Outcome State Fault Refusal := .next (effConditionalTestFailure s)

end Sys2Proof.Machine
end

