-- ==== Sys2Proof/Machine/MeanFabric.lean ====
section
/-! DEFINITION. MeanFabric: the meanings of the commands of the optical fabric and the die links (chapters 10-12). Each is one operation of the model and answers a next
state. -/

namespace Sys2Proof.Machine

/-- ADDRESS_SLOT (R367). -/
def execAddressSlot (s : State) : Host.Outcome State Fault Refusal := .next (effAddressSlot s)
/-- SUPERFRAME_BOUNDARY (R369). -/
def execSuperframeBoundary (s : State) : Host.Outcome State Fault Refusal := .next (effSuperframeBoundary s)
/-- LEASED_BLOCK (R379). -/
def execLeasedBlock (p : Nat) (s : State) : Host.Outcome State Fault Refusal := .next (effLeasedBlock p s)
/-- PERIOD_LOST (R384). -/
def execPeriodLost (p : Nat) (count : Nat) (s : State) : Host.Outcome State Fault Refusal := .next (effPeriodLost p count s)
/-- DATA_CELL (R415). -/
def execDataCell (p : Nat) (c : Cell) (aux : Nat) (s : State) : Host.Outcome State Fault Refusal :=
  .next (effDataCell p c aux s)
/-- BARRIER_CELL (R430). -/
def execBarrierCell (p : Nat) (c : Cell) (s : State) : Host.Outcome State Fault Refusal := .next (effBarrierCell p c s)
/-- ABORT_CELL (R433). -/
def execAbortCell (p : Nat) (c : Cell) (s : State) : Host.Outcome State Fault Refusal := .next (effAbortCell p c s)
/-- TEST_CELL (R354). -/
def execTestCell (p : Nat) (c : Cell) (s : State) : Host.Outcome State Fault Refusal := .next (effTestFrame p c s)
/-- RETURN (R356). -/
def execReturnEntries (p : Nat) (c : Cell) (s : State) : Host.Outcome State Fault Refusal := .next (effReturn p c s)
/-- ACK (R356). -/
def execAck (src : Nat) (e : W64) (s : State) : Host.Outcome State Fault Refusal := .next (effAck src e s)
/-- CREDIT (R281). -/
def execCredit (src : Nat) (e : W64) (s : State) : Host.Outcome State Fault Refusal := .next (effCredit src e s)
/-- LOST (R383). -/
def execLost (src : Nat) (e : W64) (s : State) : Host.Outcome State Fault Refusal := .next (effLost src e s)
/-- MISROUTE (R383). -/
def execMisroute (src : Nat) (e : W64) (s : State) : Host.Outcome State Fault Refusal := .next (effMisroute src e s)
/-- LEASE_OFFER (R377). -/
def execLeaseOffer (p : Nat) (c : Cell) (s : State) : Host.Outcome State Fault Refusal := .next (effLeaseOffer p c s)
/-- LEASE_ACCEPT (R377). -/
def execLeaseAccept (p : Nat) (c : Cell) (s : State) : Host.Outcome State Fault Refusal := .next (effLeaseAccept p c s)
/-- LEASE_REFUSE (R377). -/
def execLeaseRefuse (p : Nat) (c : Cell) (s : State) : Host.Outcome State Fault Refusal := .next (effLeaseRefuse p c s)
/-- LEASE_END (R377). -/
def execLeaseEnd (p : Nat) (c : Cell) (s : State) : Host.Outcome State Fault Refusal := .next (effLeaseEnd p c s)
/-- CAL_NOTICE (R396). -/
def execCalNotice (p : Nat) (c : Cell) (s : State) : Host.Outcome State Fault Refusal := .next (effCalNotice p c s)
/-- SHUTTER (R399). -/
def execShutter (p : Nat) (c : Cell) (s : State) : Host.Outcome State Fault Refusal := .next (effShutter p c s)
/-- ADDR_REPORT (R369). -/
def execAddrReport (p : Nat) (c : Cell) (s : State) : Host.Outcome State Fault Refusal := .next (effAddrReport p c s)
/-- ADDR_SET (R369). -/
def execAddrSet (p : Nat) (c : Cell) (s : State) : Host.Outcome State Fault Refusal := .next (effAddrSet p c s)
/-- TIMING (R366). -/
def execTiming (p : Nat) (c : Cell) (off : Nat) (s : State) : Host.Outcome State Fault Refusal := .next (effTiming p c off s)
/-- BEACON (R366). -/
def execBeacon (p : Nat) (c : Cell) (s : State) : Host.Outcome State Fault Refusal := .next (effBeacon p c s)
/-- COORDINATOR_TIMEOUT (R366). -/
def execCoordinatorTimeout (heard : List Nat) (s : State) : Host.Outcome State Fault Refusal :=
  .next (effCoordinatorTimeout heard s)
/-- PUT_END (R419). -/
def execPutEnd (p : Nat) (c : Cell) (s : State) : Host.Outcome State Fault Refusal := .next (effPutEnd p c s)
/-- STATS_CHAIN (R426). -/
def execStatsChain (p : Nat) (c : Cell) (s : State) : Host.Outcome State Fault Refusal := .next (effStatsChain p c s)
/-- STATS_RESULT (R426). -/
def execStatsResult (p : Nat) (c : Cell) (s : State) : Host.Outcome State Fault Refusal := .next (effStatsResult p c s)
/-- FETCH_REQ (R447). -/
def execFetchReq (p : Nat) (c : Cell) (s : State) : Host.Outcome State Fault Refusal := .next (effFetchReq p c s)
/-- FETCH_NACK (R447). -/
def execFetchNack (p : Nat) (c : Cell) (s : State) : Host.Outcome State Fault Refusal := .next (effFetchNack p c s)
/-- FETCH_TIMEOUT (R447). -/
def execFetchTimeout (d : Nat) (i : Nat) (s : State) : Host.Outcome State Fault Refusal := .next (effFetchTimeout d i s)
/-- STREAM_TOTAL (R441). -/
def execStreamTotal (p : Nat) (c : Cell) (s : State) : Host.Outcome State Fault Refusal := .next (effStreamTotal p c s)
/-- STRIPE_REQ (R446). -/
def execStripeReq (p : Nat) (c : Cell) (s : State) : Host.Outcome State Fault Refusal := .next (effStripeReq p c s)
/-- STRIPE_P_TIMEOUT (R446). -/
def execStripePTimeout (d : Nat) (i : Nat) (s : State) : Host.Outcome State Fault Refusal := .next (effStripePTimeout d i s)
/-- ABORT_REWRITE_DONE (R434). -/
def execAbortRewriteDone (id : Nat) (s : State) : Host.Outcome State Fault Refusal := .next (effAbortRewriteDone id s)
/-- QUIET_PERIOD_END (R437). -/
def execQuietPeriodEnd (id : Nat) (s : State) : Host.Outcome State Fault Refusal := .next (effQuietPeriodEnd id s)
/-- FAB_ABORT_RAISE (R432). -/
def execFabAbortRaise (d : Nat) (group : Nat) (s : State) : Host.Outcome State Fault Refusal :=
  .next (effAbortRaise d group s)
/-- FAB_CLEAR_DROP (R416). -/
def execFabClearDrop (d : Nat) (s : State) : Host.Outcome State Fault Refusal := .next (effFabDropClear d s)
/-- CLEAR_SAT (R422). -/
def execClearSat (d : Nat) (s : State) : Host.Outcome State Fault Refusal := .next (effSatClear d s)
/-- LINK_FAILURE (R386). -/
def execLinkFailure (p : Nat) (cond : Nat) (peer : Nat) (s : State) : Host.Outcome State Fault Refusal :=
  .next (effLinkFailure p cond peer s)
/-- LINK_RETRY (R387). -/
def execLinkRetry (p : Nat) (s : State) : Host.Outcome State Fault Refusal := .next (effLinkRetry p s)
/-- MISLOCK_DETECTED (R389). -/
def execMislockDetected (p : Nat) (how : Nat) (s : State) : Host.Outcome State Fault Refusal :=
  .next (effMislockDetected p how s)
/-- RETUNE_SETTLED (R362). -/
def execRetuneSettled (p : Nat) (tx : Bool) (s : State) : Host.Outcome State Fault Refusal := .next (effRetuneSettled p tx s)
/-- LEASE_OFFER_REPEAT (R377). -/
def execLeaseOfferRepeat (p : Nat) (s : State) : Host.Outcome State Fault Refusal := .next (effLeaseOfferRepeat p s)
/-- LEASE_RX_HOLD_TIMEOUT (R377). -/
def execLeaseRxHoldTimeout (p : Nat) (s : State) : Host.Outcome State Fault Refusal := .next (effLeaseRxHoldTimeout p s)
/-- LEASE_TIMEOUT (R377). -/
def execLeaseTimeout (p : Nat) (s : State) : Host.Outcome State Fault Refusal := .next (effLeaseTimeout p s)
/-- LEASED_CALIBRATION (R396). -/
def execLeasedCalibration (s : State) : Host.Outcome State Fault Refusal := .next (effLeasedCalibration s)
/-- ADDR_PLANE_CALIBRATION (R397). -/
def execAddrPlaneCalibration (s : State) : Host.Outcome State Fault Refusal := .next (effAddrPlaneCalibration s)
/-- CALIBRATION_END (R395). -/
def execCalibrationEnd (p : Nat) (ok : Bool) (rt : Nat) (fs : List Frame) (s : State) : Host.Outcome State Fault Refusal :=
  .next (effCalibrated p ok rt fs s)
/-- SHUTTER_TRIGGER (R398). -/
def execShutterTrigger (p : Nat) (s : State) : Host.Outcome State Fault Refusal :=
  .next (settleLinks (effShutterTrigger p s))
/-- SILENCE_MUTE (R399). -/
def execSilenceMute (plane : Nat) (dev : Nat) (s : State) : Host.Outcome State Fault Refusal :=
  .next (effSilenceMute plane dev s)
/-- MUTE_RESUME (R400). -/
def execMuteResume (plane : Nat) (dev : Nat) (s : State) : Host.Outcome State Fault Refusal :=
  .next (effMuteResume plane dev s)
/-- SHUTTER_PROBE (R400). -/
def execShutterProbe (p : Nat) (s : State) : Host.Outcome State Fault Refusal := .next (effShutterProbe p s)
/-- SHUTTER_PROBE_END (R400). -/
def execShutterProbeEnd (p : Nat) (received : Bool) (s : State) : Host.Outcome State Fault Refusal :=
  .next (settleLinks (effShutterProbeEnd p received s))
/-- COMB_FIBRE_DROP (R401). -/
def execCombFibreDrop (f : Nat) (power : Nat) (s : State) : Host.Outcome State Fault Refusal :=
  .next (settleLinks (effCombFibreDrop f power s))
/-- COMB_PROBE (R401). -/
def execCombProbe (f : Nat) (good : Bool) (power : Nat) (s : State) : Host.Outcome State Fault Refusal :=
  .next (settleLinks (effCombProbe f good power s))
/-- COMB_LOCK (R359). -/
def execCombLock (high : Bool) (dither : Bool) (s : State) : Host.Outcome State Fault Refusal :=
  .next (effCombLock high dither s)
/-- COMB_ALARM_N (R361). -/
def execCombAlarmN (low : Bool) (s : State) : Host.Outcome State Fault Refusal := .next (effCombAlarmN low s)
/-- MER_CLEAR_DROP (R355). -/
def execMerClearDrop (d : Nat) (s : State) : Host.Outcome State Fault Refusal := .next (effDropClear d s)
/-- CLEAR_LINKS (R386). -/
def execClearLinks (d : Nat) (s : State) : Host.Outcome State Fault Refusal := .next (effLinksClear d s)
/-- MER_LINK_CLEAR (R386). -/
def execMerLinkClear (p : Nat) (s : State) : Host.Outcome State Fault Refusal := .next (effLinkClear p s)
/-- PORT_TRAINED (R462). -/
def execPortTrained (d : Nat) (p : Nat) (mine : List Nat) (peer : List Nat) (s : State) : Host.Outcome State Fault Refusal :=
  .next (effPortTrained d p mine peer s)
/-- FLIT_CRC_ERROR (R459). -/
def execFlitCrcError (d : Nat) (p : Nat) (m : Nat) (nth : Nat) (s : State) : Host.Outcome State Fault Refusal :=
  .next (effFlitCrcError d p m nth s)
/-- D2D_PORT_CLEAR (R459). -/
def execD2dPortClear (d : Nat) (p : Nat) (s : State) : Host.Outcome State Fault Refusal := .next (effPortClear d p s)
/-- REG_RD (R467). -/
def execRegRd (y : Nat) (size : Nat) (s : State) : Host.Outcome State Fault Refusal := .next (effRegRd y size s)
/-- REG_WR (R467). -/
def execRegWr (y : Nat) (size : Nat) (v : W64) (s : State) : Host.Outcome State Fault Refusal := .next (effRegWr y size v s)
/-- COMPANION_REG_TIMEOUT (R467). -/
def execCompanionRegTimeout (tag : Nat) (s : State) : Host.Outcome State Fault Refusal :=
  .next (effCompanionRegTimeout tag s)
/-- COMPANION_COMPLETION (R466). -/
def execCompanionCompletion (tag : Nat) (status : Nat) (data : List Byte) (s : State) : Host.Outcome State Fault Refusal :=
  .next (effCompanionCompletion tag status data s)
/-- MEM_RD (R468). -/
def execMemRd (tag : Nat) (len : Nat) (addr : Nat) (hs : List Hit) (s : State) : Host.Outcome State Fault Refusal :=
  .next (effMemRd tag len addr hs s)
/-- MEM_WR (R468). -/
def execMemWr (tag : Nat) (len : Nat) (addr : Nat) (data : List Byte) (s : State) : Host.Outcome State Fault Refusal :=
  .next (effMemWr tag len addr data s)
/-- COMPANION_EVENT (R466). -/
def execCompanionEvent (line : List Byte) (s : State) : Host.Outcome State Fault Refusal := .next (effCompanionEvent line s)
/-- D2D_COMP_APERTURE_WRITE (R468). -/
def execD2dCompApertureWrite (off : Nat) (size : Nat) (v : W64) (s : State) : Host.Outcome State Fault Refusal :=
  .next (effD2dCompApertureWrite off size v s)
/-- UNKNOWN_CELL_TYPE (R357). -/
def execUnknownCellType (p : Nat) (s : State) : Host.Outcome State Fault Refusal := .next (effUnknownCellType p s)

end Sys2Proof.Machine
end

