-- ==== Sys2Proof/Machine/MeanHost.lean ====
section
/-! DEFINITION. MeanHost: the meanings of the commands of the host link (chapters 01, 13). Each is one operation of the model and answers a next
state. -/

namespace Sys2Proof.Machine

/-- PERST_N (R478). -/
def execPerstN (s : State) : Host.Outcome State Fault Refusal := .next (effPerstN s)
/-- PERST_N_RELEASE (R490). -/
def execPerstNRelease (s : State) : Host.Outcome State Fault Refusal := .next (effPerstNRelease s)
/-- FLR (R478). -/
def execFlr (s : State) : Host.Outcome State Fault Refusal := .next (effFlr s)
/-- HOT_RESET (R478). -/
def execHotReset (s : State) : Host.Outcome State Fault Refusal := .next (effHotReset s)
/-- LINK_DOWN (R478). -/
def execLinkDown (s : State) : Host.Outcome State Fault Refusal := .next (effLinkDown s)
/-- FLR_STOP_TIMEOUT (R478). -/
def execFlrStopTimeout (s : State) : Host.Outcome State Fault Refusal := .next (effFlrStopTimeout s)
/-- LINK_TRAINED (R470). -/
def execLinkTrained (flit : Bool) (speed : Nat) (width : Nat) (s : State) : Host.Outcome State Fault Refusal :=
  .next (effLinkTrained flit speed width s)
/-- MEMORY_SPACE_ENABLE (R476). -/
def execMemorySpaceEnable (on : Bool) (s : State) : Host.Outcome State Fault Refusal := .next (effMemorySpaceEnable on s)
/-- BUS_MASTER_ENABLE (R476). -/
def execBusMasterEnable (on : Bool) (s : State) : Host.Outcome State Fault Refusal := .next (effBusMasterEnable on s)
/-- D3HOT (R477). -/
def execD3hot (on : Bool) (s : State) : Host.Outcome State Fault Refusal := .next (effD3hot on s)
/-- BAR2_RESIZE (R473). -/
def execBar2Resize (log2 : Nat) (s : State) : Host.Outcome State Fault Refusal := .next (effBar2Resize log2 s)
/-- IDE_CHECK_FAIL (R488). -/
def execIdeCheckFail (s : State) : Host.Outcome State Fault Refusal := .next (effIdeCheckFail s)
/-- STREAM_BUFFER_READ (R472). -/
def execStreamBufferRead (len : Nat) (s : State) : Host.Outcome State Fault Refusal := .next (effStreamBufferRead len s)
/-- DMA_WINDOW_WRITE (R479). -/
def execDmaWindowWrite (off : Nat) (size : Nat) (v : W64) (s : State) : Host.Outcome State Fault Refusal :=
  .next (effDmaWindowWrite off size v s)
/-- EVR_ENABLE (R481). -/
def execEvrEnable (size : Nat) (v : W64) (s : State) : Host.Outcome State Fault Refusal := .next (effEvrEnable size v s)
/-- EVR_DISABLE (R481). -/
def execEvrDisable (size : Nat) (v : W64) (s : State) : Host.Outcome State Fault Refusal := .next (effEvrDisable size v s)
/-- HUB_EVR_BASE_WRITE (R481). -/
def execHubEvrBaseWrite (off : Nat) (size : Nat) (v : W64) (s : State) : Host.Outcome State Fault Refusal :=
  .next (effHubEvrBaseWrite off size v s)
/-- HUB_EVR_WB_WRITE (R481). -/
def execHubEvrWbWrite (off : Nat) (size : Nat) (v : W64) (s : State) : Host.Outcome State Fault Refusal :=
  .next (effHubEvrWbWrite off size v s)
/-- EVR_CONSUMER_WRITE (R480). -/
def execEvrConsumerWrite (size : Nat) (v : W64) (s : State) : Host.Outcome State Fault Refusal :=
  .next (effEvrConsumerWrite size v s)
/-- RECORD_DELIVERY (R482). -/
def execRecordDelivery (s : State) : Host.Outcome State Fault Refusal := .next (effRecordDelivery s)
/-- EVR_COALESCE_TIMEOUT (R484). -/
def execEvrCoalesceTimeout (s : State) : Host.Outcome State Fault Refusal := .next (effEvrCoalesceTimeout s)
/-- MSIX_UNMASK (R485). -/
def execMsixUnmask (v : Nat) (s : State) : Host.Outcome State Fault Refusal := .next (effMsixUnmask v s)
/-- TOKEN_WATCH_WRITE (R486). -/
def execTokenWatchWrite (n : Nat) (off : Nat) (size : Nat) (v : W64) (s : State) : Host.Outcome State Fault Refusal :=
  .next (effTokenWatchWrite n off size v s)
/-- COUNTER_LOW_READ (R19). -/
def execCounterLowRead (off : Nat) (s : State) : Host.Outcome State Fault Refusal := .next (effCounterRead off s)
/-- BAD_WIDTH_ACCESS (R19). -/
def execBadWidthAccess (off : Nat) (size : Nat) (write : Bool) (v : W64) (s : State) : Host.Outcome State Fault Refusal :=
  .next (effBadWidthAccess off size write v s)
/-- REGISTER_WRITE (R17). -/
def execRegisterWrite (off : Nat) (size : Nat) (v : W64) (s : State) : Host.Outcome State Fault Refusal :=
  .next (effRegisterWrite off size v s)

end Sys2Proof.Machine
end

