-- ==== Sys2Proof/Machine/MeanPower.lean ====
section
/-! DEFINITION. MeanPower: the meanings of the commands of power, start-up and reset (chapters 14, 15). Each is one operation of the model and answers a next
state. -/

namespace Sys2Proof.Machine

/-- CLOCK_EVALUATION (R504). -/
def execClockEvaluation (cl : Nat) (need : Nat) (pass : Nat) (s : State) : Host.Outcome State Fault Refusal :=
  .next (effClockEvaluation cl need pass s)
/-- POWER_LOOP (R508). -/
def execPowerLoop (watts : Nat) (clusters : List Nat) (s : State) : Host.Outcome State Fault Refusal :=
  .next (effPowerLoop watts clusters s)
/-- CLUSTER_GATE (R499). -/
def execClusterGate (cl : Nat) (s : State) : Host.Outcome State Fault Refusal := .next (effClusterGate cl s)
/-- CLU_CAP_WRITE (R504). -/
def execCluCapWrite (cl : Nat) (v : Nat) (s : State) : Host.Outcome State Fault Refusal := .next (effCapWrite cl v s)
/-- SENSOR_SAMPLE (R511). -/
def execSensorSample (cl : Nat) (readings : List W16) (s : State) : Host.Outcome State Fault Refusal :=
  .next (effSensorSample cl readings s)
/-- THERMAL_TRIP (R513). -/
def execThermalTrip (d : Nat) (reading : W16) (s : State) : Host.Outcome State Fault Refusal :=
  .next (effThermalTrip d reading s)
/-- RAIL_SAMPLE (R517). -/
def execRailSample (mv : List Nat) (s : State) : Host.Outcome State Fault Refusal := .next (effRailSample mv s)
/-- SAG_STAGE_EXIT (R518). -/
def execSagStageExit (s : State) : Host.Outcome State Fault Refusal := .next (effSagStageExit s)
/-- REGULATOR_OVERVOLTAGE (R494). -/
def execRegulatorOvervoltage (r : Nat) (mv : Nat) (s : State) : Host.Outcome State Fault Refusal :=
  .next (effRegulatorOvervoltage r mv s)
/-- VIN_OVERVOLTAGE (R495). -/
def execVinOvervoltage (mv : Nat) (s : State) : Host.Outcome State Fault Refusal := .next (effVinOvervoltage mv s)
/-- REGULATOR_FAULT (R496). -/
def execRegulatorFault (r : Nat) (setting : Nat) (reading : Nat) (s : State) : Host.Outcome State Fault Refusal :=
  .next (effRegulatorFault r setting reading s)
/-- DROOP (R502). -/
def execDroop (cl : Nat) (raised : Nat) (s : State) : Host.Outcome State Fault Refusal := .next (effDroop cl raised s)
/-- DROOP_END (R502). -/
def execDroopEnd (cl : Nat) (s : State) : Host.Outcome State Fault Refusal := .next (effDroopEnd cl s)
/-- CLOCK_LOCK_LOSS (R521). -/
def execClockLockLoss (row : Nat) (d : Nat) (s : State) : Host.Outcome State Fault Refusal :=
  .next (effClockLockLoss row d s)
/-- CLEAR_SAG (R517). -/
def execClearSag (s : State) : Host.Outcome State Fault Refusal := .next (effClearSag s)
/-- CLEAR_CLAMP (R506). -/
def execClearClamp (s : State) : Host.Outcome State Fault Refusal := .next (effClearClamp s)
/-- AO_POWER_GOOD (R522). -/
def execAoPowerGood (s : State) : Host.Outcome State Fault Refusal := .next (effAoPowerGood s)
/-- AO_POWER_LOSS (R574). -/
def execAoPowerLoss (s : State) : Host.Outcome State Fault Refusal := .next (effAoPowerLoss s)
/-- AO_CLOCKS (R522). -/
def execAoClocks (ok : Bool) (s : State) : Host.Outcome State Fault Refusal := .next (effAoClocks ok s)
/-- ENCLAVE_ROM (R522). -/
def execEnclaveRom (ok : Bool) (s : State) : Host.Outcome State Fault Refusal := .next (effEnclaveRom ok s)
/-- FETCH (R539). -/
def execFetch (readable : Bool) (s : State) : Host.Outcome State Fault Refusal := .next (effFetch readable s)
/-- VERIFY (R540). -/
def execVerify (s : State) : Host.Outcome State Fault Refusal := .next (effVerify s)
/-- KAT (R553). -/
def execKat (ok : Bool) (s : State) : Host.Outcome State Fault Refusal := .next (effKat ok s)
/-- DISCOVERY (R523). -/
def execDiscovery (ids : List W128) (dev : Nat) (dom : Nat) (limit : Nat) (pg : Bool) (certOk : Bool) (s : State) : Host.Outcome State Fault Refusal :=
  .next (effDiscovery ids dev dom limit pg certOk s)
/-- RAIL_WAIT_TIMEOUT (R523). -/
def execRailWaitTimeout (s : State) : Host.Outcome State Fault Refusal := .next (effRailWaitTimeout s)
/-- DIE_LINKS (R458). -/
def execDieLinks (present : Bool) (width : List Nat) (speed : Nat) (desc : List Byte) (s : State) : Host.Outcome State Fault Refusal :=
  .next (effDieLinks present width speed desc s)
/-- HBM (R298). -/
def execHbm (res : List (Bool × Nat × Nat)) (bad : List Nat) (s : State) : Host.Outcome State Fault Refusal :=
  .next (effHbm res bad s)
/-- SRAM (R525). -/
def execSram (bad : List (Nat × Nat × Nat)) (s : State) : Host.Outcome State Fault Refusal := .next (effSram bad s)
/-- OPTICAL (R526). -/
def execOptical (up : List Nat) (rts : List Nat) (phase : Option Nat) (fs : List Frame) (s : State) : Host.Outcome State Fault Refusal :=
  .next (effOptical up rts phase fs s)
/-- COMB_LOCK_TIMEOUT (R526). -/
def execCombLockTimeout (s : State) : Host.Outcome State Fault Refusal := .next (effCombLockTimeout s)
/-- STORAGE (R309). -/
def execStorage (up : Bool) (flit : Bool) (speed : Nat) (width : Nat) (found : List NvFound) (s : State) : Host.Outcome State Fault Refusal :=
  .next (effStorage up flit speed width found s)
/-- READY (R522). -/
def execReady (s : State) : Host.Outcome State Fault Refusal := .next (effReady s)
/-- WARM (R529). -/
def execWarm (s : State) : Host.Outcome State Fault Refusal := .next (effWarm s)
/-- WARM_STOP_TIMEOUT (R529). -/
def execWarmStopTimeout (s : State) : Host.Outcome State Fault Refusal := .next (effWarmStopTimeout s)
/-- COLD (R532). -/
def execCold (s : State) : Host.Outcome State Fault Refusal := .next (effCold s)
/-- DIE (R533). -/
def execDie (sel : Nat) (s : State) : Host.Outcome State Fault Refusal := .next (effDie sel s)
/-- DIE_RESET_COMPLETE (R533). -/
def execDieResetComplete (d : Nat) (ok : Bool) (sts : List (Nat × Nat)) (bad : List (Nat × Nat × Nat)) (up : List Nat) (rts : List Nat)
    (fs : List Frame) (s : State) : Host.Outcome State Fault Refusal :=
  .next (effDieResetComplete d ok sts bad up rts fs s)
/-- CLU_RESET (R534). -/
def execCluReset (cl : Nat) (s : State) : Host.Outcome State Fault Refusal := .next (effCluReset cl s)
/-- BMC_WARM_RESET_REQUEST (R532). -/
def execBmcWarmResetRequest (s : State) : Host.Outcome State Fault Refusal := .next (effBmcWarmResetRequest s)

end Sys2Proof.Machine
end

