-- ==== Sys2Proof/Machine/MeanPrograms.lean ====
section
/-! DEFINITION. MeanPrograms: the meanings of the commands of the instructions of a program (chapters 03-05). Each is one operation of the model and answers a next
state. -/

namespace Sys2Proof.Machine

/-- UNKNOWN_INSTRUCTION (R95). -/
def execUnknownInstruction (cl : Nat) (s : State) : Host.Outcome State Fault Refusal := .next (effUnknownInstruction cl s)
/-- ADD (R103). -/
def execAdd (cl : Nat) (mm : Bool) (s : State) : Host.Outcome State Fault Refusal := .next (effAdd cl mm s)
/-- SUB (R103). -/
def execSub (cl : Nat) (mm : Bool) (s : State) : Host.Outcome State Fault Refusal := .next (effSub cl mm s)
/-- AND (R103). -/
def execAnd (cl : Nat) (mm : Bool) (s : State) : Host.Outcome State Fault Refusal := .next (effAnd cl mm s)
/-- OR (R103). -/
def execOr (cl : Nat) (mm : Bool) (s : State) : Host.Outcome State Fault Refusal := .next (effOr cl mm s)
/-- XOR (R103). -/
def execXor (cl : Nat) (mm : Bool) (s : State) : Host.Outcome State Fault Refusal := .next (effXor cl mm s)
/-- SHL (R103). -/
def execShl (cl : Nat) (mm : Bool) (s : State) : Host.Outcome State Fault Refusal := .next (effShl cl mm s)
/-- SHR (R103). -/
def execShr (cl : Nat) (mm : Bool) (s : State) : Host.Outcome State Fault Refusal := .next (effShr cl mm s)
/-- SRA (R103). -/
def execSra (cl : Nat) (mm : Bool) (s : State) : Host.Outcome State Fault Refusal := .next (effSra cl mm s)
/-- MUL (R103). -/
def execMul (cl : Nat) (mm : Bool) (s : State) : Host.Outcome State Fault Refusal := .next (effMul cl mm s)
/-- MIN (R103). -/
def execMin (cl : Nat) (mm : Bool) (s : State) : Host.Outcome State Fault Refusal := .next (effMin cl mm s)
/-- MAX (R103). -/
def execMax (cl : Nat) (mm : Bool) (s : State) : Host.Outcome State Fault Refusal := .next (effMax cl mm s)
/-- SLT (R103). -/
def execSlt (cl : Nat) (mm : Bool) (s : State) : Host.Outcome State Fault Refusal := .next (effSlt cl mm s)
/-- SLTU (R103). -/
def execSltu (cl : Nat) (mm : Bool) (s : State) : Host.Outcome State Fault Refusal := .next (effSltu cl mm s)
/-- SEQ (R103). -/
def execSeq (cl : Nat) (mm : Bool) (s : State) : Host.Outcome State Fault Refusal := .next (effSeq cl mm s)
/-- ADDI (R103). -/
def execAddi (cl : Nat) (mm : Bool) (s : State) : Host.Outcome State Fault Refusal := .next (effAddi cl mm s)
/-- LI (R103). -/
def execLi (cl : Nat) (mm : Bool) (s : State) : Host.Outcome State Fault Refusal := .next (effLi cl mm s)
/-- ANDI (R103). -/
def execAndi (cl : Nat) (mm : Bool) (s : State) : Host.Outcome State Fault Refusal := .next (effAndi cl mm s)
/-- SHLI (R103). -/
def execShli (cl : Nat) (mm : Bool) (s : State) : Host.Outcome State Fault Refusal := .next (effShli cl mm s)
/-- SHRI (R103). -/
def execShri (cl : Nat) (mm : Bool) (s : State) : Host.Outcome State Fault Refusal := .next (effShri cl mm s)
/-- SRD (R104). -/
def execSrd (cl : Nat) (mm : Bool) (s : State) : Host.Outcome State Fault Refusal := .next (effSrd cl mm s)
/-- SLD (R109). -/
def execSld (cl : Nat) (mm : Bool) (s : State) : Host.Outcome State Fault Refusal := .next (effSld cl mm s)
/-- SST (R109). -/
def execSst (cl : Nat) (mm : Bool) (s : State) : Host.Outcome State Fault Refusal := .next (effSst cl mm s)
/-- FLOW_NOP (R140). -/
def execFlowNop (cl : Nat) (mm : Bool) (s : State) : Host.Outcome State Fault Refusal := .next (effFlowNop cl mm s)
/-- J (R115). -/
def execJ (cl : Nat) (mm : Bool) (s : State) : Host.Outcome State Fault Refusal := .next (effJ cl mm s)
/-- JAL (R115). -/
def execJal (cl : Nat) (mm : Bool) (s : State) : Host.Outcome State Fault Refusal := .next (effJal cl mm s)
/-- JR (R110). -/
def execJr (cl : Nat) (mm : Bool) (s : State) : Host.Outcome State Fault Refusal := .next (effJr cl mm s)
/-- BEQ (R115). -/
def execBeq (cl : Nat) (mm : Bool) (s : State) : Host.Outcome State Fault Refusal := .next (effBeq cl mm s)
/-- BNE (R115). -/
def execBne (cl : Nat) (mm : Bool) (s : State) : Host.Outcome State Fault Refusal := .next (effBne cl mm s)
/-- BLT (R115). -/
def execBlt (cl : Nat) (mm : Bool) (s : State) : Host.Outcome State Fault Refusal := .next (effBlt cl mm s)
/-- BGE (R115). -/
def execBge (cl : Nat) (mm : Bool) (s : State) : Host.Outcome State Fault Refusal := .next (effBge cl mm s)
/-- BLTU (R115). -/
def execBltu (cl : Nat) (mm : Bool) (s : State) : Host.Outcome State Fault Refusal := .next (effBltu cl mm s)
/-- BGEU (R115). -/
def execBgeu (cl : Nat) (mm : Bool) (s : State) : Host.Outcome State Fault Refusal := .next (effBgeu cl mm s)
/-- HALT (R112). -/
def execHalt (cl : Nat) (mm : Bool) (s : State) : Host.Outcome State Fault Refusal := .next (effHalt cl mm s)
/-- LOOP (R114). -/
def execLoop (cl : Nat) (mm : Bool) (s : State) : Host.Outcome State Fault Refusal := .next (effLoop cl mm s)
/-- LOOPI (R114). -/
def execLoopi (cl : Nat) (mm : Bool) (s : State) : Host.Outcome State Fault Refusal := .next (effLoopi cl mm s)
/-- LEXIT (R116). -/
def execLexit (cl : Nat) (mm : Bool) (s : State) : Host.Outcome State Fault Refusal := .next (effLexit cl mm s)
/-- TLOAD (R167). -/
def execTload (cl : Nat) (s : State) : Host.Outcome State Fault Refusal := .next (effTload cl s)
/-- TSTORE (R126). -/
def execTstore (cl : Nat) (s : State) : Host.Outcome State Fault Refusal := .next (effTstore cl s)
/-- TMOVE (R257). -/
def execTmove (cl : Nat) (s : State) : Host.Outcome State Fault Refusal := .next (effTmove cl s)
/-- LEVENT (R260). -/
def execLevent (cl : Nat) (s : State) : Host.Outcome State Fault Refusal := .next (effLevent cl s)
/-- UPD (R226). -/
def execUpd (cl : Nat) (s : State) : Host.Outcome State Fault Refusal := .next (effUpd cl s)
/-- MMA (R144). -/
def execMma (cl : Nat) (s : State) : Host.Outcome State Fault Refusal := .next (effMma cl s)
/-- MMA2 (R170). -/
def execMma2 (cl : Nat) (s : State) : Host.Outcome State Fault Refusal := .next (effMma2 cl s)
/-- VADD (R199). -/
def execVadd (cl : Nat) (s : State) : Host.Outcome State Fault Refusal := .next (effVec 0x01 cl s)
/-- VSUB (R199). -/
def execVsub (cl : Nat) (s : State) : Host.Outcome State Fault Refusal := .next (effVec 0x02 cl s)
/-- VMUL (R199). -/
def execVmul (cl : Nat) (s : State) : Host.Outcome State Fault Refusal := .next (effVec 0x03 cl s)
/-- VFMA (R199). -/
def execVfma (cl : Nat) (s : State) : Host.Outcome State Fault Refusal := .next (effVec 0x04 cl s)
/-- VMAX (R199). -/
def execVmax (cl : Nat) (s : State) : Host.Outcome State Fault Refusal := .next (effVec 0x05 cl s)
/-- VMIN (R199). -/
def execVmin (cl : Nat) (s : State) : Host.Outcome State Fault Refusal := .next (effVec 0x06 cl s)
/-- VABS (R199). -/
def execVabs (cl : Nat) (s : State) : Host.Outcome State Fault Refusal := .next (effVec 0x07 cl s)
/-- VNEG (R199). -/
def execVneg (cl : Nat) (s : State) : Host.Outcome State Fault Refusal := .next (effVec 0x08 cl s)
/-- VSEL (R199). -/
def execVsel (cl : Nat) (s : State) : Host.Outcome State Fault Refusal := .next (effVec 0x09 cl s)
/-- VCVT (R199). -/
def execVcvt (cl : Nat) (s : State) : Host.Outcome State Fault Refusal := .next (effVec 0x0A cl s)
/-- VRELU (R199). -/
def execVrelu (cl : Nat) (s : State) : Host.Outcome State Fault Refusal := .next (effVec 0x0B cl s)
/-- VLRELU (R199). -/
def execVlrelu (cl : Nat) (s : State) : Host.Outcome State Fault Refusal := .next (effVec 0x0C cl s)
/-- VMOV (R199). -/
def execVmov (cl : Nat) (s : State) : Host.Outcome State Fault Refusal := .next (effVec 0x0D cl s)
/-- VEXP (R200). -/
def execVexp (cl : Nat) (s : State) : Host.Outcome State Fault Refusal := .next (effVec 0x20 cl s)
/-- VLOG (R200). -/
def execVlog (cl : Nat) (s : State) : Host.Outcome State Fault Refusal := .next (effVec 0x21 cl s)
/-- VRCP (R200). -/
def execVrcp (cl : Nat) (s : State) : Host.Outcome State Fault Refusal := .next (effVec 0x22 cl s)
/-- VRSQRT (R200). -/
def execVrsqrt (cl : Nat) (s : State) : Host.Outcome State Fault Refusal := .next (effVec 0x23 cl s)
/-- VTANH (R200). -/
def execVtanh (cl : Nat) (s : State) : Host.Outcome State Fault Refusal := .next (effVec 0x24 cl s)
/-- VSIGM (R200). -/
def execVsigm (cl : Nat) (s : State) : Host.Outcome State Fault Refusal := .next (effVec 0x25 cl s)
/-- VGELU (R200). -/
def execVgelu (cl : Nat) (s : State) : Host.Outcome State Fault Refusal := .next (effVec 0x26 cl s)
/-- VSILU (R200). -/
def execVsilu (cl : Nat) (s : State) : Host.Outcome State Fault Refusal := .next (effVec 0x27 cl s)
/-- VSOFTPLUS (R200). -/
def execVsoftplus (cl : Nat) (s : State) : Host.Outcome State Fault Refusal := .next (effVec 0x28 cl s)
/-- VRSUM (R201). -/
def execVrsum (cl : Nat) (s : State) : Host.Outcome State Fault Refusal := .next (effVec 0x30 cl s)
/-- VRMAX (R201). -/
def execVrmax (cl : Nat) (s : State) : Host.Outcome State Fault Refusal := .next (effVec 0x31 cl s)
/-- VSQSUM (R201). -/
def execVsqsum (cl : Nat) (s : State) : Host.Outcome State Fault Refusal := .next (effVec 0x32 cl s)
/-- VSOFTMAX (R202). -/
def execVsoftmax (cl : Nat) (s : State) : Host.Outcome State Fault Refusal := .next (effVec 0x40 cl s)
/-- VSOFTMAX_BWD (R204). -/
def execVsoftmaxBwd (cl : Nat) (s : State) : Host.Outcome State Fault Refusal := .next (effVec 0x41 cl s)
/-- VLNORM (R206). -/
def execVlnorm (cl : Nat) (s : State) : Host.Outcome State Fault Refusal := .next (effVec 0x42 cl s)
/-- VLNORM_BWD (R207). -/
def execVlnormBwd (cl : Nat) (s : State) : Host.Outcome State Fault Refusal := .next (effVec 0x43 cl s)
/-- VRMSNORM (R206). -/
def execVrmsnorm (cl : Nat) (s : State) : Host.Outcome State Fault Refusal := .next (effVec 0x44 cl s)
/-- VRMSNORM_BWD (R207). -/
def execVrmsnormBwd (cl : Nat) (s : State) : Host.Outcome State Fault Refusal := .next (effVec 0x45 cl s)
/-- VDERIV (R208). -/
def execVderiv (cl : Nat) (s : State) : Host.Outcome State Fault Refusal := .next (effVec 0x48 cl s)
/-- VCFG (R195). -/
def execVcfg (cl : Nat) (s : State) : Host.Outcome State Fault Refusal := .next (effVcfg cl s)
/-- FPUT (R418). -/
def execFput (cl : Nat) (s : State) : Host.Outcome State Fault Refusal := .next (fabEnd (effFput cl s))
/-- FCOLL (R409). -/
def execFcoll (cl : Nat) (s : State) : Host.Outcome State Fault Refusal := .next (fabEnd (effFcoll cl s))
/-- FBAR (R430). -/
def execFbar (cl : Nat) (s : State) : Host.Outcome State Fault Refusal := .next (fabEnd (effFbar cl s))
/-- FABORT (R432). -/
def execFabort (cl : Nat) (s : State) : Host.Outcome State Fault Refusal := .next (fabEnd (effFabort cl s))
/-- TWAIT (R132). -/
def execTwait (cl : Nat) (s : State) : Host.Outcome State Fault Refusal := .next (effTwait cl s)
/-- TARM (R132). -/
def execTarm (cl : Nat) (s : State) : Host.Outcome State Fault Refusal := .next (effTarm cl s)
/-- TPOST (R132). -/
def execTpost (cl : Nat) (s : State) : Host.Outcome State Fault Refusal := .next (effTpost cl s)
/-- TREL (R132). -/
def execTrel (cl : Nat) (s : State) : Host.Outcome State Fault Refusal := .next (effTrel cl s)
/-- QFENCE (R132). -/
def execQfence (cl : Nat) (s : State) : Host.Outcome State Fault Refusal := .next (effQfence cl s)
/-- PFENCE (R100). -/
def execPfence (cl : Nat) (s : State) : Host.Outcome State Fault Refusal := .next (effPfence cl s)

end Sys2Proof.Machine
end

