-- ==== Sys2Proof/Machine/MeanProof.lean ====
section
/-! DEFINITION. MeanProof: the meanings of the commands of execution, proofing and occultation (chapters 03-06, 09). Each is one operation of the model and answers a next
state. -/

namespace Sys2Proof.Machine

/-- LANE_INSTRUCTION_START (R123). -/
def execLaneInstructionStart (core : Nat) (port : Nat) (upset : Option Flt) (s : State) : Host.Outcome State Fault Refusal :=
  .next (fabEnd (effLaneInstructionStart core port upset s))
/-- OVERFLOW_REPLAY (R162). -/
def execOverflowReplay (core array : Nat) (falsely : Option (Nat × Nat)) (s : State) : Host.Outcome State Fault Refusal :=
  .next (fabEnd (effOverflowReplay core array falsely s))
/-- LANE_INSTRUCTION_COMPLETE (R99). -/
def execLaneInstructionComplete (core : Nat) (port : Nat) (flt : Option Flt) (bad : List Nat) (missed : Bool) (s : State) :
    Host.Outcome State Fault Refusal :=
  .next (fabEnd (effLaneInstructionComplete core port flt bad missed s))
/-- PROOF_VERDICT (R320). -/
def execProofVerdict (core : Nat) (pos : Nat) (checker : Bool) (s : State) : Host.Outcome State Fault Refusal :=
  .next (fabEnd (effProofVerdict core pos checker s))
/-- ENTRY_RELEASE (R328). -/
def execEntryRelease (core : Nat) (s : State) : Host.Outcome State Fault Refusal := .next (fabEnd (effEntryRelease core s))
/-- ARBITRATION_REPEAT_DONE (R334). -/
def execArbitrationRepeatDone (core : Nat) (flt : Option Flt) (checker : Bool) (s : State) : Host.Outcome State Fault Refusal :=
  .next (fabEnd (effArbitrationRepeatDone core flt checker s))
/-- SPARE_EXECUTION_DONE (R335). -/
def execSpareExecutionDone (core : Nat) (flt : Option Flt) (checker : Bool) (s : State) : Host.Outcome State Fault Refusal :=
  .next (fabEnd (effSpareExecutionDone core flt checker s))
/-- PROOF_BOUNDARY (R100). -/
def execProofBoundary (cl : Nat) (s : State) : Host.Outcome State Fault Refusal := .next (effBoundary cl s)
/-- UPD_START (R229). -/
def execUpdStart (cl : Nat) (upset : Option Flt) (flts : List UpdFlt) (s : State) : Host.Outcome State Fault Refusal :=
  .next (fabEnd (effUpdStart cl upset flts s))
/-- UPD_COMPLETE (R235). -/
def execUpdComplete (cl : Nat) (s : State) : Host.Outcome State Fault Refusal := .next (effUpdComplete cl s)
/-- ROTATION_DUE (R340). -/
def execRotationDue (cl : Nat) (s : State) : Host.Outcome State Fault Refusal := .next (effRotationDue cl s)
/-- ROTATION_POSTPONED (R341). -/
def execRotationPostponed (cl : Nat) (s : State) : Host.Outcome State Fault Refusal := .next (effRotationPostponed cl s)
/-- CLUSTER_IDLE_POINT (R341). -/
def execClusterIdlePoint (cl : Nat) (s : State) : Host.Outcome State Fault Refusal :=
  .next (fabEnd (effClusterIdlePoint cl s))
/-- SELF_TEST_END (R343). -/
def execSelfTestEnd (core : Nat) (items : List (Nat × Nat × Nat × W32 × W32)) (s : State) : Host.Outcome State Fault Refusal :=
  .next (effSelfTestEnd core items s)
/-- OCC_TEST_RUN (R342). -/
def execOccTestRun (core : Nat) (s : State) : Host.Outcome State Fault Refusal := .next (effTestRun core s)
/-- SUSPECT_LAPSE (R338). -/
def execSuspectLapse (unit : Nat) (key : Nat) (s : State) : Host.Outcome State Fault Refusal :=
  .next (effSuspectLapse unit key s)
/-- MAT_REPLAY_CLEAR (R163). -/
def execMatReplayClear (core : Nat) (s : State) : Host.Outcome State Fault Refusal := .next (effMatReplayClear core s)
/-- VEC_SAT_CLEAR (R186). -/
def execVecSatClear (core : Nat) (s : State) : Host.Outcome State Fault Refusal := .next (effVecSatClear core s)
/-- CLU_UPD_CLEAR (R233). -/
def execCluUpdClear (cl : Nat) (s : State) : Host.Outcome State Fault Refusal := .next (effUpdClear cl s)

end Sys2Proof.Machine
end

