-- ==== Sys2Proof/Machine/MeanStreams.lean ====
section
/-! DEFINITION. MeanStreams: the meanings of the commands of the command streams and of the commands (chapter 02). Each is one operation of the model and answers a next
state. -/

namespace Sys2Proof.Machine

/-- STREAM_SLOT_WRITE (R58). -/
def execStreamSlotWrite (st : Nat) (off : Nat) (data : List Byte) (s : State) : Host.Outcome State Fault Refusal :=
  .next (effStreamSlotWrite st off data s)
/-- INGEST_READ_SLOT (R62). -/
def execIngestReadSlot (st : Nat) (s : State) : Host.Outcome State Fault Refusal := .next (effIngestReadSlot st s)
/-- UNKNOWN_COMMAND (R81). -/
def execUnknownCommand (st : Nat) (late : List Nat) (s : State) : Host.Outcome State Fault Refusal :=
  .next (effUnknownCommand st late s)
/-- NOP (R80). -/
def execNop (st : Nat) (late : List Nat) (s : State) : Host.Outcome State Fault Refusal := .next (effNop st late s)
/-- FENCE (R65). -/
def execFence (st : Nat) (late : List Nat) (s : State) : Host.Outcome State Fault Refusal := .next (effFence st late s)
/-- FENCE_COMPLETE (R65). -/
def execFenceComplete (no : Nat) (s : State) : Host.Outcome State Fault Refusal := .next (effFenceComplete no s)
/-- TOKEN_SET (R80). -/
def execTokenSet (st : Nat) (late : List Nat) (s : State) : Host.Outcome State Fault Refusal := .next (effTokenSet st late s)
/-- TOKEN_RELEASE (R77). -/
def execTokenRelease (st : Nat) (late : List Nat) (s : State) : Host.Outcome State Fault Refusal :=
  .next (effTokenRelease st late s)
/-- SET_PROFILE (R509). -/
def execSetProfile (st : Nat) (late : List Nat) (s : State) : Host.Outcome State Fault Refusal :=
  .next (effSetProfile st late s)
/-- JOB_OPEN (R83). -/
def execJobOpen (st : Nat) (late : List Nat) (s : State) : Host.Outcome State Fault Refusal := .next (effJobOpen st late s)
/-- JOB_CLOSE (R83). -/
def execJobClose (st : Nat) (late : List Nat) (s : State) : Host.Outcome State Fault Refusal := .next (effJobClose st late s)
/-- JOB_CLOSE_ZEROING (R267). -/
def execJobCloseZeroing (no : Nat) (s : State) : Host.Outcome State Fault Refusal := .next (effJobCloseZeroing no s)
/-- JOB_CLOSE_DONE (R595). -/
def execJobCloseDone (no : Nat) (s : State) : Host.Outcome State Fault Refusal := .next (effJobCloseDone no s)
/-- SET_RECIPE (R222). -/
def execSetRecipe (st : Nat) (late : List Nat) (hs : List Hit) (s : State) : Host.Outcome State Fault Refusal :=
  .next (effSetRecipe st late hs s)
/-- LOAD_PROGRAM (R135). -/
def execLoadProgram (st : Nat) (late : List Nat) (hs : List Hit) (s : State) : Host.Outcome State Fault Refusal :=
  .next (effLoadProgram st late hs s)
/-- LOAD_PROGRAM_PAGE_WRITE (R135). -/
def execLoadProgramPageWrite (no : Nat) (cl : Nat) (page : Nat) (s : State) : Host.Outcome State Fault Refusal :=
  .next (effLoadProgramPageWrite no cl page s)
/-- GROUP_DEFINE (R84). -/
def execGroupDefine (st : Nat) (late : List Nat) (s : State) : Host.Outcome State Fault Refusal :=
  .next (effGroupDefine st late s)
/-- GROUP_START (R84). -/
def execGroupStart (st : Nat) (late : List Nat) (s : State) : Host.Outcome State Fault Refusal :=
  .next (effGroupStart st late s)
/-- GROUP_STOP (R87). -/
def execGroupStop (st : Nat) (late : List Nat) (s : State) : Host.Outcome State Fault Refusal :=
  .next (effGroupStop st late s)
/-- BATCH_ADMIT (R88). -/
def execBatchAdmit (st : Nat) (late : List Nat) (s : State) : Host.Outcome State Fault Refusal :=
  .next (effBatchAdmit st late s)
/-- EPH_LOAD (R261). -/
def execEphLoad (st : Nat) (late : List Nat) (hs : List Hit) (s : State) : Host.Outcome State Fault Refusal :=
  .next (effEphLoad st late hs s)
/-- TILE_MOVE (R257). -/
def execTileMove (st : Nat) (late : List Nat) (hs : List Hit) (s : State) : Host.Outcome State Fault Refusal :=
  .next (effTileMove st late hs s)
/-- STORAGE_XFER (R312). -/
def execStorageXfer (st : Nat) (late : List Nat) (hs : List Hit) (s : State) : Host.Outcome State Fault Refusal :=
  .next (effStorageXfer st late hs s)
/-- HOST_COPY (R474). -/
def execHostCopy (st : Nat) (late : List Nat) (s : State) : Host.Outcome State Fault Refusal := .next (effHostCopy st late s)
/-- HOST_READ_COMPLETION (R474). -/
def execHostReadCompletion (tag : Nat) (status : Nat) (data : List Byte) (s : State) : Host.Outcome State Fault Refusal :=
  .next (effHostReadCompletion tag status data s)
/-- HOST_READ_TIMEOUT (R474). -/
def execHostReadTimeout (tag : Nat) (s : State) : Host.Outcome State Fault Refusal := .next (effHostReadTimeout tag s)
/-- LEASE_LOAD (R377). -/
def execLeaseLoad (st : Nat) (late : List Nat) (hs : List Hit) (s : State) : Host.Outcome State Fault Refusal :=
  .next (effLeaseLoad st late hs s)
/-- ROUTE_LOAD (R390). -/
def execRouteLoad (st : Nat) (late : List Nat) (hs : List Hit) (s : State) : Host.Outcome State Fault Refusal :=
  .next (effRouteLoad st late hs s)
/-- FLOW_LOAD (R406). -/
def execFlowLoad (st : Nat) (late : List Nat) (hs : List Hit) (s : State) : Host.Outcome State Fault Refusal :=
  .next (effFlowLoad st late hs s)
/-- EPOCH_SET (R438). -/
def execEpochSet (st : Nat) (late : List Nat) (s : State) : Host.Outcome State Fault Refusal := .next (effEpochSet st late s)
/-- EPOCH_FENCE_END (R438). -/
def execEpochFenceEnd (s : State) : Host.Outcome State Fault Refusal := .next (effEpochFenceEnd s)
/-- REBLOCK (R441). -/
def execReblock (st : Nat) (late : List Nat) (hs : List Hit) (s : State) : Host.Outcome State Fault Refusal :=
  .next (effReblock st late hs s)
/-- STREAM_ENABLE (R70). -/
def execStreamEnable (st : Nat) (on : Bool) (s : State) : Host.Outcome State Fault Refusal := .next (effStreamEnable st on s)
/-- STREAM_RESET (R69). -/
def execStreamReset (st : Nat) (s : State) : Host.Outcome State Fault Refusal := .next (effStreamReset st s)
/-- STREAM_PAUSE (R65). -/
def execStreamPause (st : Nat) (on : Bool) (s : State) : Host.Outcome State Fault Refusal := .next (effStreamPause st on s)
/-- CLEAR_MISPLACED (R61). -/
def execClearMisplaced (st : Nat) (s : State) : Host.Outcome State Fault Refusal := .next (effClearMisplaced st s)
/-- SKIP_SELECT (R92). -/
def execSkipSelect (st : Nat) (idx : Nat) (s : State) : Host.Outcome State Fault Refusal := .next (effSkipSelect st idx s)
/-- HOST_COPY_WRITTEN (R80). -/
def execHostCopyWritten (no : Nat) (issued : Nat) (reads : Nat) (hs : List Hit) (s : State) : Host.Outcome State Fault Refusal :=
  .next (effHostCopyWritten no issued reads hs s)

end Sys2Proof.Machine
end

