-- ==== Sys2Proof/Machine/MeanTiers.lean ====
section
/-! DEFINITION. MeanTiers: the meanings of the commands of the tiers, HBM and the storage port (chapters 07, 08). Each is one operation of the model and answers a next
state. -/

namespace Sys2Proof.Machine

/-- The clusters into which tiles are moving have their clocks ungated (R499). -/
def ungateTiles (d : Nat) (s : State) : State :=
  (dieOf s d).ledger.foldl (fun s e => if e.tier < 2 ∧ (e.fill ∨ e.wbRun) then ungate (8 * d + e.cl) s else s) s

/-- LEVENT_RECEIVE (R262). -/
def execLeventReceive (cl : Nat) (s : State) : Host.Outcome State Fault Refusal := .next (effLeventReceive cl s)
/-- EVENT_FIRE (R262). -/
def execEventFire (d : Nat) (ev : Nat) (ph : Nat) (s : State) : Host.Outcome State Fault Refusal :=
  .next (effEventFire d ev ph s)
/-- ENTRY_ISSUE (R263). -/
def execEntryIssue (d : Nat) (hs : List Hit) (s : State) : Host.Outcome State Fault Refusal := .next (effEntryIssue d hs s)
/-- LEVENT_RELEASE (R264). -/
def execLeventRelease (cl : Nat) (iid : Nat) (s : State) : Host.Outcome State Fault Refusal :=
  .next (effLeventRelease cl iid s)
/-- EPHEMERIS_TAKE (R261). -/
def execEphemerisTake (d : Nat) (s : State) : Host.Outcome State Fault Refusal := .next (effEphemerisTake d s)
/-- LEDGER_ACCEPT (R255). -/
def execLedgerAccept (d : Nat) (late : List Nat) (hs : List Hit) (s : State) : Host.Outcome State Fault Refusal :=
  .next (ungateTiles d (effLedgerAccept d late hs s))
/-- FILL_END (R272). -/
def execFillEnd (d : Nat) (i : Nat) (bad : List Nat) (s : State) : Host.Outcome State Fault Refusal :=
  .next (effFillEnd d i bad s)
/-- SOURCE_READ_END (R271). -/
def execSourceReadEnd (d : Nat) (i : Nat) (hs : List Hit) (s : State) : Host.Outcome State Fault Refusal :=
  .next (effSourceReadEnd d i hs s)
/-- DRAIN_END (R272). -/
def execDrainEnd (d : Nat) (i : Nat) (bad : List Nat) (s : State) : Host.Outcome State Fault Refusal :=
  .next (effDrainEnd d i bad s)
/-- SOURCE_ERROR (R274). -/
def execSourceError (d : Nat) (i : Nat) (issued : Nat) (hs : List Hit) (s : State) : Host.Outcome State Fault Refusal :=
  .next (effSourceError d i issued hs s)
/-- RECOVERY_END (R274). -/
def execRecoveryEnd (d : Nat) (i : Nat) (hs : List Hit) (s : State) : Host.Outcome State Fault Refusal :=
  .next (effRecoveryEnd d i hs s)
/-- LDG_RESUPPLY (R276). -/
def execLdgResupply (d : Nat) (entry : Nat) (supplied : Bool) (s : State) : Host.Outcome State Fault Refusal :=
  .next (effLdgResupply d entry supplied s)
/-- RESUPPLY_TIMEOUT (R276). -/
def execResupplyTimeout (d : Nat) (i : Nat) (s : State) : Host.Outcome State Fault Refusal :=
  .next (effResupplyTimeout d i s)
/-- BAR2_READ (R304). -/
def execBar2Read (off : Nat) (len : Nat) (hs : List Hit) (s : State) : Host.Outcome State Fault Refusal :=
  .next (effBar2Read off len hs s)
/-- BAR2_WRITE (R304). -/
def execBar2Write (off : Nat) (data : List Byte) (hs : List Hit) (s : State) : Host.Outcome State Fault Refusal :=
  .next (effBar2Write off data hs s)
/-- HBM_PARITY_ERROR (R296). -/
def execHbmParityError (k : Nat) (sector : Nat) (replays : Nat) (write : Bool) (lost : Bool) (s : State) : Host.Outcome State Fault Refusal :=
  .next (effHbmParityError k sector replays write lost s)
/-- STACK_TEMPERATURE (R297). -/
def execStackTemperature (k : Nat) (t : Int) (s : State) : Host.Outcome State Fault Refusal := .next (effStackTemp k t s)
/-- SELF_REFRESH_TIMEOUT (R301). -/
def execSelfRefreshTimeout (kind : Nat) (no : Nat) (s : State) : Host.Outcome State Fault Refusal :=
  .next (effSelfRefreshTimeout kind no s)
/-- NVME_COMPLETION (R313). -/
def execNvmeCompletion (ctrl : Nat) (id : Nat) (status : Nat) (data : List Byte) (s : State) : Host.Outcome State Fault Refusal :=
  .next (effNvmeCompletion ctrl id status data s)
/-- NVME_TIMEOUT (R313). -/
def execNvmeTimeout (ctrl : Nat) (id : Nat) (s : State) : Host.Outcome State Fault Refusal :=
  .next (effNvmeTimeout ctrl id s)
/-- NVME_ABORT_TIMEOUT (R313). -/
def execNvmeAbortTimeout (ctrl : Nat) (id : Nat) (s : State) : Host.Outcome State Fault Refusal :=
  .next (effNvmeAbortTimeout ctrl id s)
/-- STAGING_VIOLATION (R311). -/
def execStagingViolation (ctrl : Nat) (s : State) : Host.Outcome State Fault Refusal := .next (effStagingViolation ctrl s)
/-- HBM_XFER_CTRL_WRITE (R305). -/
def execHbmXferCtrlWrite (half : Nat) (v : W64) (s : State) : Host.Outcome State Fault Refusal :=
  .next (effHbmXferCtrlWrite half v s)
/-- HBM_ERR_CLEAR (R293). -/
def execHbmErrClear (k : Nat) (s : State) : Host.Outcome State Fault Refusal := .next (effStackErrClear k s)
/-- CONTROLLER_RESET_END (R313). -/
def execControllerResetEnd (ctrl : Nat) (ok : Bool) (s : State) : Host.Outcome State Fault Refusal :=
  .next (effControllerResetEnd ctrl ok s)

end Sys2Proof.Machine
end

