-- ==== Sys2Proof/Machine/Dispatch.lean ====
section
/-! DEFINITION. Dispatch: the meaning of every command. -/

namespace Sys2Proof.Machine

def exec (i : Instr) (s : State) : Host.Outcome State Fault Refusal :=
  match i with
  | .streamSlotWrite st off data => Sys2Proof.Machine.execStreamSlotWrite st off data s
  | .ingestReadSlot st => Sys2Proof.Machine.execIngestReadSlot st s
  | .unknownCommand st late => Sys2Proof.Machine.execUnknownCommand st late s
  | .nop st late => Sys2Proof.Machine.execNop st late s
  | .fence st late => Sys2Proof.Machine.execFence st late s
  | .fenceComplete no => Sys2Proof.Machine.execFenceComplete no s
  | .tokenSet st late => Sys2Proof.Machine.execTokenSet st late s
  | .tokenRelease st late => Sys2Proof.Machine.execTokenRelease st late s
  | .setProfile st late => Sys2Proof.Machine.execSetProfile st late s
  | .jobOpen st late => Sys2Proof.Machine.execJobOpen st late s
  | .jobClose st late => Sys2Proof.Machine.execJobClose st late s
  | .jobCloseZeroing no => Sys2Proof.Machine.execJobCloseZeroing no s
  | .jobCloseDone no => Sys2Proof.Machine.execJobCloseDone no s
  | .setRecipe st late hs => Sys2Proof.Machine.execSetRecipe st late hs s
  | .loadProgram st late hs => Sys2Proof.Machine.execLoadProgram st late hs s
  | .loadProgramPageWrite no cl page => Sys2Proof.Machine.execLoadProgramPageWrite no cl page s
  | .groupDefine st late => Sys2Proof.Machine.execGroupDefine st late s
  | .groupStart st late => Sys2Proof.Machine.execGroupStart st late s
  | .groupStop st late => Sys2Proof.Machine.execGroupStop st late s
  | .batchAdmit st late => Sys2Proof.Machine.execBatchAdmit st late s
  | .ephLoad st late hs => Sys2Proof.Machine.execEphLoad st late hs s
  | .tileMove st late hs => Sys2Proof.Machine.execTileMove st late hs s
  | .storageXfer st late hs => Sys2Proof.Machine.execStorageXfer st late hs s
  | .hostCopy st late => Sys2Proof.Machine.execHostCopy st late s
  | .hostReadCompletion tag status data => Sys2Proof.Machine.execHostReadCompletion tag status data s
  | .hostReadTimeout tag => Sys2Proof.Machine.execHostReadTimeout tag s
  | .leaseLoad st late hs => Sys2Proof.Machine.execLeaseLoad st late hs s
  | .routeLoad st late hs => Sys2Proof.Machine.execRouteLoad st late hs s
  | .flowLoad st late hs => Sys2Proof.Machine.execFlowLoad st late hs s
  | .epochSet st late => Sys2Proof.Machine.execEpochSet st late s
  | .epochFenceEnd => Sys2Proof.Machine.execEpochFenceEnd s
  | .reblock st late hs => Sys2Proof.Machine.execReblock st late hs s
  | .streamEnable st on => Sys2Proof.Machine.execStreamEnable st on s
  | .streamReset st => Sys2Proof.Machine.execStreamReset st s
  | .streamPause st on => Sys2Proof.Machine.execStreamPause st on s
  | .clearMisplaced st => Sys2Proof.Machine.execClearMisplaced st s
  | .skipSelect st idx => Sys2Proof.Machine.execSkipSelect st idx s
  | .unknownInstruction cl => Sys2Proof.Machine.execUnknownInstruction cl s
  | .add cl mm => Sys2Proof.Machine.execAdd cl mm s
  | .sub cl mm => Sys2Proof.Machine.execSub cl mm s
  | .and cl mm => Sys2Proof.Machine.execAnd cl mm s
  | .or cl mm => Sys2Proof.Machine.execOr cl mm s
  | .xor cl mm => Sys2Proof.Machine.execXor cl mm s
  | .shl cl mm => Sys2Proof.Machine.execShl cl mm s
  | .shr cl mm => Sys2Proof.Machine.execShr cl mm s
  | .sra cl mm => Sys2Proof.Machine.execSra cl mm s
  | .mul cl mm => Sys2Proof.Machine.execMul cl mm s
  | .min cl mm => Sys2Proof.Machine.execMin cl mm s
  | .max cl mm => Sys2Proof.Machine.execMax cl mm s
  | .slt cl mm => Sys2Proof.Machine.execSlt cl mm s
  | .sltu cl mm => Sys2Proof.Machine.execSltu cl mm s
  | .seq cl mm => Sys2Proof.Machine.execSeq cl mm s
  | .addi cl mm => Sys2Proof.Machine.execAddi cl mm s
  | .li cl mm => Sys2Proof.Machine.execLi cl mm s
  | .andi cl mm => Sys2Proof.Machine.execAndi cl mm s
  | .shli cl mm => Sys2Proof.Machine.execShli cl mm s
  | .shri cl mm => Sys2Proof.Machine.execShri cl mm s
  | .srd cl mm => Sys2Proof.Machine.execSrd cl mm s
  | .sld cl mm => Sys2Proof.Machine.execSld cl mm s
  | .sst cl mm => Sys2Proof.Machine.execSst cl mm s
  | .flowNop cl mm => Sys2Proof.Machine.execFlowNop cl mm s
  | .j cl mm => Sys2Proof.Machine.execJ cl mm s
  | .jal cl mm => Sys2Proof.Machine.execJal cl mm s
  | .jr cl mm => Sys2Proof.Machine.execJr cl mm s
  | .beq cl mm => Sys2Proof.Machine.execBeq cl mm s
  | .bne cl mm => Sys2Proof.Machine.execBne cl mm s
  | .blt cl mm => Sys2Proof.Machine.execBlt cl mm s
  | .bge cl mm => Sys2Proof.Machine.execBge cl mm s
  | .bltu cl mm => Sys2Proof.Machine.execBltu cl mm s
  | .bgeu cl mm => Sys2Proof.Machine.execBgeu cl mm s
  | .halt cl mm => Sys2Proof.Machine.execHalt cl mm s
  | .loop cl mm => Sys2Proof.Machine.execLoop cl mm s
  | .loopi cl mm => Sys2Proof.Machine.execLoopi cl mm s
  | .lexit cl mm => Sys2Proof.Machine.execLexit cl mm s
  | .tload cl => Sys2Proof.Machine.execTload cl s
  | .tstore cl => Sys2Proof.Machine.execTstore cl s
  | .tmove cl => Sys2Proof.Machine.execTmove cl s
  | .levent cl => Sys2Proof.Machine.execLevent cl s
  | .upd cl => Sys2Proof.Machine.execUpd cl s
  | .mma cl => Sys2Proof.Machine.execMma cl s
  | .mma2 cl => Sys2Proof.Machine.execMma2 cl s
  | .vadd cl => Sys2Proof.Machine.execVadd cl s
  | .vsub cl => Sys2Proof.Machine.execVsub cl s
  | .vmul cl => Sys2Proof.Machine.execVmul cl s
  | .vfma cl => Sys2Proof.Machine.execVfma cl s
  | .vmax cl => Sys2Proof.Machine.execVmax cl s
  | .vmin cl => Sys2Proof.Machine.execVmin cl s
  | .vabs cl => Sys2Proof.Machine.execVabs cl s
  | .vneg cl => Sys2Proof.Machine.execVneg cl s
  | .vsel cl => Sys2Proof.Machine.execVsel cl s
  | .vcvt cl => Sys2Proof.Machine.execVcvt cl s
  | .vrelu cl => Sys2Proof.Machine.execVrelu cl s
  | .vlrelu cl => Sys2Proof.Machine.execVlrelu cl s
  | .vmov cl => Sys2Proof.Machine.execVmov cl s
  | .vexp cl => Sys2Proof.Machine.execVexp cl s
  | .vlog cl => Sys2Proof.Machine.execVlog cl s
  | .vrcp cl => Sys2Proof.Machine.execVrcp cl s
  | .vrsqrt cl => Sys2Proof.Machine.execVrsqrt cl s
  | .vtanh cl => Sys2Proof.Machine.execVtanh cl s
  | .vsigm cl => Sys2Proof.Machine.execVsigm cl s
  | .vgelu cl => Sys2Proof.Machine.execVgelu cl s
  | .vsilu cl => Sys2Proof.Machine.execVsilu cl s
  | .vsoftplus cl => Sys2Proof.Machine.execVsoftplus cl s
  | .vrsum cl => Sys2Proof.Machine.execVrsum cl s
  | .vrmax cl => Sys2Proof.Machine.execVrmax cl s
  | .vsqsum cl => Sys2Proof.Machine.execVsqsum cl s
  | .vsoftmax cl => Sys2Proof.Machine.execVsoftmax cl s
  | .vsoftmaxBwd cl => Sys2Proof.Machine.execVsoftmaxBwd cl s
  | .vlnorm cl => Sys2Proof.Machine.execVlnorm cl s
  | .vlnormBwd cl => Sys2Proof.Machine.execVlnormBwd cl s
  | .vrmsnorm cl => Sys2Proof.Machine.execVrmsnorm cl s
  | .vrmsnormBwd cl => Sys2Proof.Machine.execVrmsnormBwd cl s
  | .vderiv cl => Sys2Proof.Machine.execVderiv cl s
  | .vcfg cl => Sys2Proof.Machine.execVcfg cl s
  | .fput cl => Sys2Proof.Machine.execFput cl s
  | .fcoll cl => Sys2Proof.Machine.execFcoll cl s
  | .fbar cl => Sys2Proof.Machine.execFbar cl s
  | .fabort cl => Sys2Proof.Machine.execFabort cl s
  | .twait cl => Sys2Proof.Machine.execTwait cl s
  | .tarm cl => Sys2Proof.Machine.execTarm cl s
  | .tpost cl => Sys2Proof.Machine.execTpost cl s
  | .trel cl => Sys2Proof.Machine.execTrel cl s
  | .qfence cl => Sys2Proof.Machine.execQfence cl s
  | .pfence cl => Sys2Proof.Machine.execPfence cl s
  | .laneInstructionStart core port upset => Sys2Proof.Machine.execLaneInstructionStart core port upset s
  | .overflowReplay core array falsely => Sys2Proof.Machine.execOverflowReplay core array falsely s
  | .laneInstructionComplete core port flt bad missed => Sys2Proof.Machine.execLaneInstructionComplete core port flt bad missed s
  | .proofVerdict core pos checker => Sys2Proof.Machine.execProofVerdict core pos checker s
  | .entryRelease core => Sys2Proof.Machine.execEntryRelease core s
  | .arbitrationRepeatDone core flt checker => Sys2Proof.Machine.execArbitrationRepeatDone core flt checker s
  | .spareExecutionDone core flt checker => Sys2Proof.Machine.execSpareExecutionDone core flt checker s
  | .proofBoundary cl => Sys2Proof.Machine.execProofBoundary cl s
  | .updStart cl upset flts => Sys2Proof.Machine.execUpdStart cl upset flts s
  | .updComplete cl => Sys2Proof.Machine.execUpdComplete cl s
  | .rotationDue cl => Sys2Proof.Machine.execRotationDue cl s
  | .rotationPostponed cl => Sys2Proof.Machine.execRotationPostponed cl s
  | .clusterIdlePoint cl => Sys2Proof.Machine.execClusterIdlePoint cl s
  | .selfTestEnd core items => Sys2Proof.Machine.execSelfTestEnd core items s
  | .occTestRun core => Sys2Proof.Machine.execOccTestRun core s
  | .suspectLapse unit key => Sys2Proof.Machine.execSuspectLapse unit key s
  | .leventReceive cl => Sys2Proof.Machine.execLeventReceive cl s
  | .eventFire d ev ph => Sys2Proof.Machine.execEventFire d ev ph s
  | .entryIssue d hs => Sys2Proof.Machine.execEntryIssue d hs s
  | .leventRelease cl iid => Sys2Proof.Machine.execLeventRelease cl iid s
  | .ephemerisTake d => Sys2Proof.Machine.execEphemerisTake d s
  | .ledgerAccept d late hs => Sys2Proof.Machine.execLedgerAccept d late hs s
  | .fillEnd d k bad => Sys2Proof.Machine.execFillEnd d k bad s
  | .sourceReadEnd d k hs => Sys2Proof.Machine.execSourceReadEnd d k hs s
  | .drainEnd d k bad => Sys2Proof.Machine.execDrainEnd d k bad s
  | .sourceError d k issued hs => Sys2Proof.Machine.execSourceError d k issued hs s
  | .recoveryEnd d k hs => Sys2Proof.Machine.execRecoveryEnd d k hs s
  | .ldgResupply d entry supplied => Sys2Proof.Machine.execLdgResupply d entry supplied s
  | .resupplyTimeout d k => Sys2Proof.Machine.execResupplyTimeout d k s
  | .bar2Read off len hs => Sys2Proof.Machine.execBar2Read off len hs s
  | .bar2Write off data hs => Sys2Proof.Machine.execBar2Write off data hs s
  | .hbmParityError k sector replays write lost => Sys2Proof.Machine.execHbmParityError k sector replays write lost s
  | .stackTemperature k t => Sys2Proof.Machine.execStackTemperature k t s
  | .selfRefreshTimeout kind no => Sys2Proof.Machine.execSelfRefreshTimeout kind no s
  | .nvmeCompletion ctrl id status data => Sys2Proof.Machine.execNvmeCompletion ctrl id status data s
  | .nvmeTimeout ctrl id => Sys2Proof.Machine.execNvmeTimeout ctrl id s
  | .nvmeAbortTimeout ctrl id => Sys2Proof.Machine.execNvmeAbortTimeout ctrl id s
  | .stagingViolation ctrl => Sys2Proof.Machine.execStagingViolation ctrl s
  | .hbmXferCtrlWrite half v => Sys2Proof.Machine.execHbmXferCtrlWrite half v s
  | .addressSlot => Sys2Proof.Machine.execAddressSlot s
  | .superframeBoundary => Sys2Proof.Machine.execSuperframeBoundary s
  | .leasedBlock p => Sys2Proof.Machine.execLeasedBlock p s
  | .periodLost p count => Sys2Proof.Machine.execPeriodLost p count s
  | .dataCell p c aux => Sys2Proof.Machine.execDataCell p c aux s
  | .barrierCell p c => Sys2Proof.Machine.execBarrierCell p c s
  | .abortCell p c => Sys2Proof.Machine.execAbortCell p c s
  | .testCell p c => Sys2Proof.Machine.execTestCell p c s
  | .returnEntries p c => Sys2Proof.Machine.execReturnEntries p c s
  | .ack src e => Sys2Proof.Machine.execAck src e s
  | .credit src e => Sys2Proof.Machine.execCredit src e s
  | .lost src e => Sys2Proof.Machine.execLost src e s
  | .misroute src e => Sys2Proof.Machine.execMisroute src e s
  | .leaseOffer p c => Sys2Proof.Machine.execLeaseOffer p c s
  | .leaseAccept p c => Sys2Proof.Machine.execLeaseAccept p c s
  | .leaseRefuse p c => Sys2Proof.Machine.execLeaseRefuse p c s
  | .leaseEnd p c => Sys2Proof.Machine.execLeaseEnd p c s
  | .calNotice p c => Sys2Proof.Machine.execCalNotice p c s
  | .shutter p c => Sys2Proof.Machine.execShutter p c s
  | .addrReport p c => Sys2Proof.Machine.execAddrReport p c s
  | .addrSet p c => Sys2Proof.Machine.execAddrSet p c s
  | .timing p c off => Sys2Proof.Machine.execTiming p c off s
  | .beacon p c => Sys2Proof.Machine.execBeacon p c s
  | .coordinatorTimeout heard => Sys2Proof.Machine.execCoordinatorTimeout heard s
  | .putEnd p c => Sys2Proof.Machine.execPutEnd p c s
  | .statsChain p c => Sys2Proof.Machine.execStatsChain p c s
  | .statsResult p c => Sys2Proof.Machine.execStatsResult p c s
  | .fetchReq p c => Sys2Proof.Machine.execFetchReq p c s
  | .fetchNack p c => Sys2Proof.Machine.execFetchNack p c s
  | .fetchTimeout d k => Sys2Proof.Machine.execFetchTimeout d k s
  | .streamTotal p c => Sys2Proof.Machine.execStreamTotal p c s
  | .stripeReq p c => Sys2Proof.Machine.execStripeReq p c s
  | .stripePTimeout d k => Sys2Proof.Machine.execStripePTimeout d k s
  | .abortRewriteDone id => Sys2Proof.Machine.execAbortRewriteDone id s
  | .quietPeriodEnd id => Sys2Proof.Machine.execQuietPeriodEnd id s
  | .fabAbortRaise d group => Sys2Proof.Machine.execFabAbortRaise d group s
  | .fabClearDrop d => Sys2Proof.Machine.execFabClearDrop d s
  | .clearSat d => Sys2Proof.Machine.execClearSat d s
  | .linkFailure p cond peer => Sys2Proof.Machine.execLinkFailure p cond peer s
  | .linkRetry p => Sys2Proof.Machine.execLinkRetry p s
  | .mislockDetected p how => Sys2Proof.Machine.execMislockDetected p how s
  | .retuneSettled p tx => Sys2Proof.Machine.execRetuneSettled p tx s
  | .leaseOfferRepeat p => Sys2Proof.Machine.execLeaseOfferRepeat p s
  | .leaseRxHoldTimeout p => Sys2Proof.Machine.execLeaseRxHoldTimeout p s
  | .leaseTimeout p => Sys2Proof.Machine.execLeaseTimeout p s
  | .leasedCalibration => Sys2Proof.Machine.execLeasedCalibration s
  | .addrPlaneCalibration => Sys2Proof.Machine.execAddrPlaneCalibration s
  | .calibrationEnd p ok rt fs => Sys2Proof.Machine.execCalibrationEnd p ok rt fs s
  | .shutterTrigger p => Sys2Proof.Machine.execShutterTrigger p s
  | .silenceMute plane dev => Sys2Proof.Machine.execSilenceMute plane dev s
  | .muteResume plane dev => Sys2Proof.Machine.execMuteResume plane dev s
  | .shutterProbe p => Sys2Proof.Machine.execShutterProbe p s
  | .shutterProbeEnd p received => Sys2Proof.Machine.execShutterProbeEnd p received s
  | .combFibreDrop f power => Sys2Proof.Machine.execCombFibreDrop f power s
  | .combProbe f good power => Sys2Proof.Machine.execCombProbe f good power s
  | .combLock high dither => Sys2Proof.Machine.execCombLock high dither s
  | .combAlarmN low => Sys2Proof.Machine.execCombAlarmN low s
  | .merClearDrop d => Sys2Proof.Machine.execMerClearDrop d s
  | .clearLinks d => Sys2Proof.Machine.execClearLinks d s
  | .merLinkClear p => Sys2Proof.Machine.execMerLinkClear p s
  | .portTrained d p mine peer => Sys2Proof.Machine.execPortTrained d p mine peer s
  | .flitCrcError d p m nth => Sys2Proof.Machine.execFlitCrcError d p m nth s
  | .d2dPortClear d p => Sys2Proof.Machine.execD2dPortClear d p s
  | .regRd y size => Sys2Proof.Machine.execRegRd y size s
  | .regWr y size v => Sys2Proof.Machine.execRegWr y size v s
  | .companionRegTimeout tag => Sys2Proof.Machine.execCompanionRegTimeout tag s
  | .companionCompletion tag status data => Sys2Proof.Machine.execCompanionCompletion tag status data s
  | .memRd tag len addr hs => Sys2Proof.Machine.execMemRd tag len addr hs s
  | .memWr tag len addr data => Sys2Proof.Machine.execMemWr tag len addr data s
  | .companionEvent line => Sys2Proof.Machine.execCompanionEvent line s
  | .d2dCompApertureWrite off size v => Sys2Proof.Machine.execD2dCompApertureWrite off size v s
  | .perstN => Sys2Proof.Machine.execPerstN s
  | .perstNRelease => Sys2Proof.Machine.execPerstNRelease s
  | .flr => Sys2Proof.Machine.execFlr s
  | .hotReset => Sys2Proof.Machine.execHotReset s
  | .linkDown => Sys2Proof.Machine.execLinkDown s
  | .flrStopTimeout => Sys2Proof.Machine.execFlrStopTimeout s
  | .linkTrained flit speed width => Sys2Proof.Machine.execLinkTrained flit speed width s
  | .memorySpaceEnable on => Sys2Proof.Machine.execMemorySpaceEnable on s
  | .busMasterEnable on => Sys2Proof.Machine.execBusMasterEnable on s
  | .d3hot on => Sys2Proof.Machine.execD3hot on s
  | .bar2Resize log2 => Sys2Proof.Machine.execBar2Resize log2 s
  | .ideCheckFail => Sys2Proof.Machine.execIdeCheckFail s
  | .streamBufferRead len => Sys2Proof.Machine.execStreamBufferRead len s
  | .dmaWindowWrite off size v => Sys2Proof.Machine.execDmaWindowWrite off size v s
  | .evrEnable size v => Sys2Proof.Machine.execEvrEnable size v s
  | .evrDisable size v => Sys2Proof.Machine.execEvrDisable size v s
  | .hubEvrBaseWrite off size v => Sys2Proof.Machine.execHubEvrBaseWrite off size v s
  | .hubEvrWbWrite off size v => Sys2Proof.Machine.execHubEvrWbWrite off size v s
  | .evrConsumerWrite size v => Sys2Proof.Machine.execEvrConsumerWrite size v s
  | .recordDelivery => Sys2Proof.Machine.execRecordDelivery s
  | .evrCoalesceTimeout => Sys2Proof.Machine.execEvrCoalesceTimeout s
  | .msixUnmask v => Sys2Proof.Machine.execMsixUnmask v s
  | .tokenWatchWrite n off size v => Sys2Proof.Machine.execTokenWatchWrite n off size v s
  | .clockEvaluation cl need pass => Sys2Proof.Machine.execClockEvaluation cl need pass s
  | .powerLoop watts clusters => Sys2Proof.Machine.execPowerLoop watts clusters s
  | .clusterGate cl => Sys2Proof.Machine.execClusterGate cl s
  | .cluCapWrite cl v => Sys2Proof.Machine.execCluCapWrite cl v s
  | .sensorSample cl readings => Sys2Proof.Machine.execSensorSample cl readings s
  | .thermalTrip d reading => Sys2Proof.Machine.execThermalTrip d reading s
  | .railSample mv => Sys2Proof.Machine.execRailSample mv s
  | .sagStageExit => Sys2Proof.Machine.execSagStageExit s
  | .regulatorOvervoltage r mv => Sys2Proof.Machine.execRegulatorOvervoltage r mv s
  | .vinOvervoltage mv => Sys2Proof.Machine.execVinOvervoltage mv s
  | .regulatorFault r setting reading => Sys2Proof.Machine.execRegulatorFault r setting reading s
  | .droop cl raised => Sys2Proof.Machine.execDroop cl raised s
  | .droopEnd cl => Sys2Proof.Machine.execDroopEnd cl s
  | .clockLockLoss row d => Sys2Proof.Machine.execClockLockLoss row d s
  | .clearSag => Sys2Proof.Machine.execClearSag s
  | .clearClamp => Sys2Proof.Machine.execClearClamp s
  | .aoPowerGood => Sys2Proof.Machine.execAoPowerGood s
  | .aoPowerLoss => Sys2Proof.Machine.execAoPowerLoss s
  | .aoClocks ok => Sys2Proof.Machine.execAoClocks ok s
  | .enclaveRom ok => Sys2Proof.Machine.execEnclaveRom ok s
  | .fetch readable => Sys2Proof.Machine.execFetch readable s
  | .verify => Sys2Proof.Machine.execVerify s
  | .kat ok => Sys2Proof.Machine.execKat ok s
  | .discovery ids dev dom limit pg certOk => Sys2Proof.Machine.execDiscovery ids dev dom limit pg certOk s
  | .railWaitTimeout => Sys2Proof.Machine.execRailWaitTimeout s
  | .dieLinks present width speed desc => Sys2Proof.Machine.execDieLinks present width speed desc s
  | .hbm res bad => Sys2Proof.Machine.execHbm res bad s
  | .sram bad => Sys2Proof.Machine.execSram bad s
  | .optical up rts phase fs => Sys2Proof.Machine.execOptical up rts phase fs s
  | .combLockTimeout => Sys2Proof.Machine.execCombLockTimeout s
  | .storage up flit speed width found => Sys2Proof.Machine.execStorage up flit speed width found s
  | .ready => Sys2Proof.Machine.execReady s
  | .warm => Sys2Proof.Machine.execWarm s
  | .warmStopTimeout => Sys2Proof.Machine.execWarmStopTimeout s
  | .cold => Sys2Proof.Machine.execCold s
  | .die sel => Sys2Proof.Machine.execDie sel s
  | .dieResetComplete d ok sts bad up rts fs => Sys2Proof.Machine.execDieResetComplete d ok sts bad up rts fs s
  | .cluReset cl => Sys2Proof.Machine.execCluReset cl s
  | .requestUpdate b maxLen version => Sys2Proof.Machine.execRequestUpdate b maxLen version s
  | .updateComponent b size => Sys2Proof.Machine.execUpdateComponent b size s
  | .firmwareData b data => Sys2Proof.Machine.execFirmwareData b data s
  | .updateVerifyDone => Sys2Proof.Machine.execUpdateVerifyDone s
  | .activateFirmware b => Sys2Proof.Machine.execActivateFirmware b s
  | .getFirmwareParameters b => Sys2Proof.Machine.execGetFirmwareParameters b s
  | .queryDeviceIdentifiers b => Sys2Proof.Machine.execQueryDeviceIdentifiers b s
  | .getPdr b handle => Sys2Proof.Machine.execGetPdr b handle s
  | .getPdrRepositoryInfo b => Sys2Proof.Machine.execGetPdrRepositoryInfo b s
  | .getSensorReading b id => Sys2Proof.Machine.execGetSensorReading b id s
  | .getStateSensorReadings b id => Sys2Proof.Machine.execGetStateSensorReadings b id s
  | .setEventReceiver b => Sys2Proof.Machine.execSetEventReceiver b s
  | .pollForPlatformEventMessage b => Sys2Proof.Machine.execPollForPlatformEventMessage b s
  | .eventMessageSupported b => Sys2Proof.Machine.execEventMessageSupported b s
  | .eventMessageBufferSize b => Sys2Proof.Machine.execEventMessageBufferSize b s
  | .platformEventResponse b => Sys2Proof.Machine.execPlatformEventResponse b s
  | .platformEventTimeout => Sys2Proof.Machine.execPlatformEventTimeout s
  | .sensorRefresh => Sys2Proof.Machine.execSensorRefresh s
  | .negotiateAlgorithms b slhDsa => Sys2Proof.Machine.execNegotiateAlgorithms b slhDsa s
  | .getCertificate b => Sys2Proof.Machine.execGetCertificate b s
  | .getMeasurements b idx sign => Sys2Proof.Machine.execGetMeasurements b idx sign s
  | .challenge b => Sys2Proof.Machine.execChallenge b s
  | .keyExchange b sid => Sys2Proof.Machine.execKeyExchange b sid s
  | .keyProg sid strm set => Sys2Proof.Machine.execKeyProg sid strm set s
  | .kSetGo sid set => Sys2Proof.Machine.execKSetGo sid set s
  | .kSetStop sid => Sys2Proof.Machine.execKSetStop sid s
  | .getChallenge b => Sys2Proof.Machine.execGetChallenge b s
  | .submitToken b t => Sys2Proof.Machine.execSubmitToken b t s
  | .coldStart b => Sys2Proof.Machine.execColdStart b s
  | .zeroise b => Sys2Proof.Machine.execZeroise b s
  | .encZeroise => Sys2Proof.Machine.execEncZeroise s
  | .selfTest ok => Sys2Proof.Machine.execSelfTest ok s
  | .aliasCertIssue => Sys2Proof.Machine.execAliasCertIssue s
  | .i3cAddressAssign addr => Sys2Proof.Machine.execI3cAddressAssign addr s
  | .i3cBusReset => Sys2Proof.Machine.execI3cBusReset s
  | .matReplayClear core => Sys2Proof.Machine.execMatReplayClear core s
  | .vecSatClear core => Sys2Proof.Machine.execVecSatClear core s
  | .cluUpdClear cl => Sys2Proof.Machine.execCluUpdClear cl s
  | .hbmErrClear k => Sys2Proof.Machine.execHbmErrClear k s
  | .counterLowRead off => Sys2Proof.Machine.execCounterLowRead off s
  | .badWidthAccess off size write v => Sys2Proof.Machine.execBadWidthAccess off size write v s
  | .registerWrite off size v => Sys2Proof.Machine.execRegisterWrite off size v s
  | .endSession b sid => Sys2Proof.Machine.execEndSession b sid s
  | .setEndpointId b eid => Sys2Proof.Machine.execSetEndpointId b eid s
  | .debugPortAccess kind unit addr size v data => Sys2Proof.Machine.execDebugPortAccess kind unit addr size v data s
  | .conditionalTestFailure => Sys2Proof.Machine.execConditionalTestFailure s
  | .hostCopyWritten no issued reads hs => Sys2Proof.Machine.execHostCopyWritten no issued reads hs s
  | .controllerResetEnd ctrl ok => Sys2Proof.Machine.execControllerResetEnd ctrl ok s
  | .unknownCellType p => Sys2Proof.Machine.execUnknownCellType p s
  | .bmcWarmResetRequest => Sys2Proof.Machine.execBmcWarmResetRequest s

end Sys2Proof.Machine
end

