-- ==== Sys2Proof/Machine/Tick.lean ====
section
/-! DEFINITION. Tick: what passes when no command waits. -/

namespace Sys2Proof.Machine

/-- Once a millisecond every link that is not off measures its light; what it reads is free (Table 10.23, log 5). -/
def measureLinks (s : State) : State :=
  if s.aoCount.toNat % 50000 ≠ 0 then s else
  (List.range 64).foldl (fun s p =>
    let k := linkOf s p
    if k.state = 0 then s
    else
      let (v, s) := drawWord s
      setLink s p { k with ber := fld v 0 16, rxPower := fld v 16 8, backRefl := fld v 24 8 }) s

/-- A tick of the always-on clock: while the always-on domain has power its counter advances by one (R497), sector writes
retire (R280), links are measured, a bit of an image's commit may be blown (R542), and a record that waits for the board
management controller may be pushed (R563, log 2). -/
def tick (s : State) : State :=
  if s.pwr.aoPwrGd then pushEvent (commitBit (measureLinks (retireWrites { s with aoCount := s.aoCount + 1 }))) else s

end Sys2Proof.Machine
end

