-- ==== Sys2Proof/Machine/Step.lean ====
section
/-! DEFINITION. Step: one command of the queue, or a tick of the always-on clock when none waits. -/

namespace Sys2Proof.Machine

/-- The command at the front of the queue acts; on an empty queue the always-on clock ticks (log 2). -/
def step (s : State) : Host.Outcome State Fault Refusal :=
  match s.pending with
  | [] => .next (tick s)
  | c :: rest => exec c { s with pending := rest }

/-- The state with a command put at the front of its queue. -/
def State.withFront (s : State) (c : Instr) : State := { s with pending := c :: s.pending }

/-- The state with the command that a word spells put at the front of its queue. -/
def State.withFetchWord (s : State) (nbits w : Nat) : State :=
  match Sys2Proof.decodeTableWord nbits w with
  | some c => s.withFront c
  | none => s

end Sys2Proof.Machine
end

