-- ==== Sys2Proof/Safety.lean ====
section
/-! DEFINITION. Safety: the terms in which the statements speak of the machine. -/

namespace Sys2Proof.Machine

/-- The outcome is the next state `t`. -/
abbrev Answers (o : Host.Outcome State Fault Refusal) (t : State) : Prop := o = .next t

/-! ### What every state that the machine can reach holds -/

/-- A cluster: its memories in canonical form, its PC within the 14 bits of R105, at most four loop levels active
(R113). -/
structure CluOk (c : Cluster) : Prop where
  imem : c.imem.wf = true
  plates : c.plates.wf = true
  pc : c.pc < 0x4000
  loops : c.loops.length ≤ 4

/-- A stream: its buffer in canonical form, at most 16 commands in its decode queue (R62). -/
structure StrmOk (x : Stream) : Prop where
  buf : x.buf.wf = true
  queue : x.queue.length ≤ 16

/-- The invariant of the machine: every byte memory in canonical form, the bounds of the clusters and the streams, and
at most 4,096 records in the event log (R347). -/
structure Inv (s : State) : Prop where
  hbm : s.hbm.wf = true
  flash : s.flash.bytes.wf = true
  strm : ∀ i, StrmOk (strmOf s i)
  clu : ∀ i, CluOk (clOf s i)
  spad : ∀ i, (coreOf s i).mem.wf = true
  log : s.recs.log.length ≤ 4096

/-! ### What no command undoes -/

/-- Fuses are blown once: the decommission fuse, the security version and the revocation bits (R542, R556, R558, R559). -/
structure FusesKept (e f : Encl) : Prop where
  blown : e.udsBlown = true → f.udsBlown = true
  svn : e.fusedSvn ≤ f.fusedSvn
  revoked : ∀ i, e.revoked.getLsbD i = true → f.revoked.getLsbD i = true

/-- The retirement lists of the boot flash only grow (R34, R339). That of the tile movers is not among them: a failed mover
returns to service when it passes the memory self-test of a cold start (R339). -/
structure ListsKept (f g : Flash) : Prop where
  cores : f.cores <+: g.cores
  plates : f.plates <+: g.plates
  upds : f.upds <+: g.upds
  rails : f.rails <+: g.rails
  sectors : f.sectors <+: g.sectors

/-- What every command keeps: the rest of the queue as it is, the messages already sent, the fuses and the retirement
lists. -/
structure Kept (s t : State) : Prop where
  queue : t.pending = s.pending
  sent : ∃ new, t.out = new ++ s.out
  fuses : FusesKept s.encl t.encl
  lists : ListsKept s.flash t.flash

/-! ### Programs -/

/-- The sequencer of cluster `cl` is at the instruction `w`, of this class and opcode, and may issue it. -/
structure At (s : State) (cl : Nat) (w : W128) (cls op : Nat) : Prop where
  range : cl < 32
  runs : running s cl = true
  word : curWord (clOf s cl) = w
  cls : iClass w = cls
  op : iOp w = op

/-- The instruction that follows the one at the PC of a cluster lies below the end of page 63 (R111). -/
def NextInRange (s : State) (cl : Nat) : Prop := (endIns (clOf s cl).pc (clOf s cl).loops).1 < 0x4000

/-- A scalar instruction: its command, its opcode, and the fields that it uses besides class and opcode (Table 3.5). -/
def scalarOps : List ((Nat → Bool → Instr) × Nat × List (Nat × Nat)) :=
  [(.add, 0x01, rrr), (.sub, 0x02, rrr), (.and, 0x03, rrr), (.or, 0x04, rrr), (.xor, 0x05, rrr), (.shl, 0x06, rrr),
   (.shr, 0x07, rrr), (.sra, 0x08, rrr), (.mul, 0x09, rrr), (.min, 0x0A, rrr), (.max, 0x0B, rrr), (.slt, 0x0C, rrr),
   (.sltu, 0x0D, rrr), (.seq, 0x0E, rrr), (.addi, 0x10, sFields true true false 64), (.li, 0x11, sFields true false false 64),
   (.andi, 0x12, sFields true true false 64), (.shli, 0x13, sFields true true false 6),
   (.shri, 0x14, sFields true true false 6)]

/-- A scalar instruction of opcode `op` writes `val` of s[RA], s[RB] and the instruction to s[RD], and goes on at the
next instruction. -/
def ScalarResult (mk : Nat → Bool → Instr) (op : Nat) (fs : List (Nat × Nat)) (val : W64 → W64 → W128 → W64) : Prop :=
  ∀ (s : State) (cl : Nat) (w : W128), At s cl w 0 op → onlyFields w fs = true →
    Answers (exec (mk cl false) s)
      (goNext cl (setCl s cl (setReg (clOf s cl) (iRD w) (val (sreg (clOf s cl) (iRA w)) (sreg (clOf s cl) (iRB w)) w))))

/-- A branch of opcode `op` transfers control to IMM when `cond` of s[RA] and s[RB] holds, and goes on at the next
instruction when it does not. -/
def BranchResult (mk : Nat → Bool → Instr) (op : Nat) (cond : W64 → W64 → Bool) : Prop :=
  ∀ (s : State) (cl : Nat) (w : W128), At s cl w 1 op → onlyFields w (sFields false true true 14) = true →
    Answers (exec (mk cl false) s)
      (if cond (sreg (clOf s cl) (iRA w)) (sreg (clOf s cl) (iRB w)) then goOn cl (jumpTo (iTarget w) (clOf s cl).loops) s
       else goNext cl s)

/-- The sequencer's own instructions: class and opcode. -/
def seqOps : List ((Nat → Bool → Instr) × Nat × Nat) :=
  (scalarOps.map (fun p => (p.1, 0, p.2.1)))
  ++ [(.srd, 0, 0x18), (.sld, 0, 0x20), (.sst, 0, 0x21), (.flowNop, 1, 0x00), (.j, 1, 0x01), (.jal, 1, 0x02), (.jr, 1, 0x03),
      (.beq, 1, 0x08), (.bne, 1, 0x09), (.blt, 1, 0x0A), (.bge, 1, 0x0B), (.bltu, 1, 0x0C), (.bgeu, 1, 0x0D), (.halt, 1, 0x0F),
      (.loop, 2, 0x01), (.loopi, 2, 0x02), (.lexit, 2, 0x03)]

/-- The lane instructions: class, opcode, whether it is of the tile class, and its checks (Tables 3.10-3.12). -/
def laneOps : List ((Nat → Instr) × Nat × Nat × Bool × (State → List Nat → QIns → List (Bool × Nat))) :=
  [(.tload, 3, 0x01, true, fun s _ q => tloadChecks s q), (.tstore, 3, 0x02, true, fun _ _ q => tstoreChecks q),
   (.mma, 4, 0x01, false, fun s _ q => mmaChecks s q), (.mma2, 4, 0x02, false, fun s _ q => mma2Checks s q),
   (.vcfg, 5, 0x50, false, fun _ _ q => vcfgChecks q)]
  ++ [(.vadd, 5, 0x01, false, vecChecks), (.vsub, 5, 0x02, false, vecChecks), (.vmul, 5, 0x03, false, vecChecks),
      (.vfma, 5, 0x04, false, vecChecks), (.vmax, 5, 0x05, false, vecChecks), (.vmin, 5, 0x06, false, vecChecks),
      (.vabs, 5, 0x07, false, vecChecks), (.vneg, 5, 0x08, false, vecChecks), (.vsel, 5, 0x09, false, vecChecks),
      (.vcvt, 5, 0x0A, false, vecChecks), (.vrelu, 5, 0x0B, false, vecChecks), (.vlrelu, 5, 0x0C, false, vecChecks),
      (.vmov, 5, 0x0D, false, vecChecks)]
  ++ [(.vexp, 5, 0x20, false, vecChecks), (.vlog, 5, 0x21, false, vecChecks), (.vrcp, 5, 0x22, false, vecChecks),
      (.vrsqrt, 5, 0x23, false, vecChecks), (.vtanh, 5, 0x24, false, vecChecks), (.vsigm, 5, 0x25, false, vecChecks),
      (.vgelu, 5, 0x26, false, vecChecks), (.vsilu, 5, 0x27, false, vecChecks), (.vsoftplus, 5, 0x28, false, vecChecks),
      (.vrsum, 5, 0x30, false, vecChecks), (.vrmax, 5, 0x31, false, vecChecks), (.vsqsum, 5, 0x32, false, vecChecks),
      (.vsoftmax, 5, 0x40, false, vecChecks), (.vsoftmaxBwd, 5, 0x41, false, vecChecks), (.vlnorm, 5, 0x42, false, vecChecks),
      (.vlnormBwd, 5, 0x43, false, vecChecks), (.vrmsnorm, 5, 0x44, false, vecChecks),
      (.vrmsnormBwd, 5, 0x45, false, vecChecks), (.vderiv, 5, 0x48, false, vecChecks)]

/-- The queue entries of a lane instruction at issue, one for each lane of its effective mask (R97, R119). -/
def laneEntries (s : State) (cl : Nat) (w : W128) : List QIns :=
  (maskLanes (effMask (clOf s cl) w)).map
    (mkQ s cl w (if (clOf s cl).chainOpen then (clOf s cl).chainNo else (clOf s cl).chainNo + 1))

/-- A lane instruction passes the checks that it undergoes at issue, in the order of R588. -/
def LaneChecksPass (s : State) (cl : Nat) (w : W128) (checks : State → List Nat → QIns → List (Bool × Nat)) : Prop :=
  firstSkip ((tokBusy s cl w, 0x46) :: overLanes (laneEntries s cl w)
    (mkQ s cl w (if (clOf s cl).chainOpen then (clOf s cl).chainNo else (clOf s cl).chainNo + 1) 0)
    (checks s (clOf s cl).chainSet)) = none

/-- A TMOVE, LEVENT or UPD passes the checks that it undergoes at issue: its token is not busy, no bit is set outside the
fields `fs`, its waits are legal, its lane mask is full, and `more` finds nothing (R588). -/
def UnitChecks (s : State) (cl : Nat) (w : W128) (fs : List (Nat × Nat)) (more : List (Bool × Nat)) : Prop :=
  firstSkip ([(tokBusy s cl w, 0x46), (!(onlyFields w (bCommon w ++ fs)) || wengBad w || decide (iLmask w ≠ 0xFF), 0x42)] ++ more)
    = none

/-- What an instruction waits for is met in every lane of its effective mask, and its unit's queue, which holds `n`, has
room (R121, R123). -/
def UnitFree (s : State) (cl : Nat) (w : W128) (n : Nat) : Prop := waitsMet s cl w (effMask (clOf s cl) w) = true ∧ n < 8

/-! ### Register accesses -/

/-- A register access of the host reaches the package in service: the link and the Memory Space Enable allow it, IDE lets
it through, start-up has ended, and no die is being reset (R17, R476, R488). -/
structure HostReaches (s : State) : Prop where
  own : s.mgt.viaDebug = false
  link : s.pci.linkUp = true
  notBlocked : s.pci.ideBlocked = false
  mse : s.pci.mse = true
  ide : ideOk s = true
  ready : s.boot.ready = true
  dies : ∀ d, dieAway s d = false

/-- No memory, token, record or message differs. -/
structure SameData (s t : State) : Prop where
  hbm : t.hbm = s.hbm
  spad : ∀ j, (coreOf t j).mem = (coreOf s j).mem
  plates : ∀ j, (clOf t j).plates = (clOf s j).plates
  regs : ∀ j, (clOf t j).sreg = (clOf s j).sreg
  tok : t.tok = s.tok
  recs : t.recs = s.recs
  out : t.out = s.out
  flash : t.flash = s.flash

/-- The error counters of a link are zero (R386). -/
def NoLinkErrors (s : State) (p : Nat) : Prop :=
  (linkOf s p).lost = 0 ∧ (linkOf s p).mislock = 0 ∧ (linkOf s p).los = 0 ∧ (linkOf s p).shutters = 0 ∧ (linkOf s p).failures = 0

/-! ### Cells received -/

/-- A cell received on a link passes what every cell passes: the link receives, the cell is addressed to this package on
that plane, and a filtered type comes from a permitted device (R355, R392). -/
structure Delivered (s : State) (p : Nat) (c : Cell) : Prop where
  rx : receiving s p = true
  dst : c.dst = ownGid s
  plane : c.plane = p
  permit : filtered c = true → c.src ≠ ownGid s → permitted s (linkDie p) c.src = true

/-- A DATA cell is for a loaded context of its layout epoch that is not in its quiet period, and has not landed before
(R385, R416, R437). -/
structure Fresh (s : State) (c : Cell) (x : Ctx) : Prop where
  ctx : ctxOf s c.flow = some x
  new : c.seq ∉ x.seen.get [] c.src
  loud : x.quiet = false
  epoch : c.epoch = cEpoch x

/-- An engine line of operation `op` reaches a context of a kind (R417). -/
structure EngineLine (s : State) (p : Nat) (c : Cell) (op kind : Nat) (x : Ctx) : Prop where
  typ : c.typ = 1
  off : c.off = engineOff
  one : c.lines.length = 1
  op : pNat c 0 1 = op
  rx : Delivered s p c
  fresh : Fresh s c x
  kind : cKind x = kind

/-- A CONTROL cell of a subtype is delivered (R357). -/
structure ControlCell (s : State) (p : Nat) (c : Cell) (sub : Nat) : Prop where
  typ : c.typ = 2
  sub : pNat c 0 1 = sub
  rx : Delivered s p c

/-! ### Commands of the streams -/

/-- The head command of a stream, of opcode `op`, has no bit set outside its fields, a legal done token, and waits that are
none or on tokens seen DONE (R81, R587). -/
structure Passes (s : State) (st op : Nat) : Prop where
  fields : onlyFields (headCmd s st) (cmdCommon ++ cmdFields op) = true
  done : cmdDone (headCmd s st) = 0xFFFF ∨ isHubTok (cmdDone (headCmd s st)) = true
  waits : ∀ id ∈ cmdWaits (headCmd s st), id = 0xFFFF
    ∨ ((isHubTok id || isCluTok id) = true ∧ seenTok (strmOf s st).seen id s = .done)

end Sys2Proof.Machine
end

