-- ==== Sys2Proof/Certificates/Slice0/Obligations.lean ====
section
/-! DEFINITION. Obligations: the statements for the provers, in the order of OBLIGATIONS.json. -/

open Sys2Proof Sys2Proof.Machine

/-- For every command c, every rest of the queue and every state s whose queue is c followed by the rest, step s is exec c
of s with that rest; and a command put at the front of any queue is the one that the next step runs. (The queue itself
is the model's form of the block, log 2.) (95_what_each_step_holds.md.) -/
def Obligations.StepRunsTheFrontCommand : Prop :=
    ∀ (c : Instr) (s : State), (∀ rest, s.pending = c :: rest → step s = exec c { s with pending := rest })
    ∧ step (s.withFront c) = exec c s

/-- On an empty queue a step answers a next state in which, with the always-on domain powered, the always-on counter is
one more; HBM, the boot flash, the clusters, the cores, the streams and the tokens are as before, and so is the
enclave where no commit of an image is under way (the package has not reached READY, or its commit is done). Without
that power nothing changes. That a tick is what an empty queue does, and what else passes at it, is the model's choice
(log 2). (14_power_clocks_thermal.md R497; 16_enclave_and_management.md R542.) -/
def Obligations.EmptyQueueTicksTheCounter : Prop :=
    ∀ s : State, s.pending = [] →
    (s.pwr.aoPwrGd = true → ∃ t, Answers (step s) t ∧ t.aoCount = s.aoCount + 1 ∧ t.hbm = s.hbm ∧ t.flash = s.flash
      ∧ t.cl = s.cl ∧ t.core = s.core ∧ t.strm = s.strm ∧ t.tok = s.tok
      ∧ ((s.boot.ready = false ∨ s.encl.committed = true) → t.encl = s.encl))
    ∧ (s.pwr.aoPwrGd = false → Answers (step s) s)

/-- State.reset has every byte memory in canonical form, every PC below 0x4000, no loop level active, every decode queue
empty and an empty event log. (02_programs_and_streams.md R62; 03_nordon_encoding.md R113; 09_proofing.md R347.) -/
def Obligations.ResetHoldsTheInvariant : Prop :=
    Inv State.reset

/-- From every state that holds the invariant (canonical byte memories; every cluster's PC below 0x4000 and at most 4 loop
levels; at most 16 commands in a decode queue; at most 4,096 records in the event log), whatever command is at the
front of the queue and with whatever operands, a step that answers a next state answers one that holds it.
(02_programs_and_streams.md R62; 03_nordon_encoding.md R111; 03_nordon_encoding.md R113; 09_proofing.md R347.) -/
def Obligations.StepKeepsTheInvariant : Prop :=
    ∀ s t : State, Inv s → Answers (step s) t → Inv t

/-- For every command and every state there is a next state in which the queue is as before, every message already sent is
still there, the decommission fuse stays blown, the fused security version is no lower, no revocation bit is cleared,
and the retirement lists of cores, plates, update engines, rails and sectors are extensions of what they were; that of
the tile movers is not among them, since R339 returns a mover that passes the memory test of a cold start.
(01_seven_levels.md R34; 16_enclave_and_management.md R542; 09_proofing.md R347.) -/
def Obligations.NoCommandUndoesAFuseOrARetirement : Prop :=
    ∀ (c : Instr) (s : State), ∃ t, Answers (exec c s) t ∧ Kept s t

/-- For each of ADD, SUB, AND, OR, XOR, SHL, SHR, SRA, MUL, MIN, MAX, SLT, SLTU, SEQ, ADDI, LI, ANDI, SHLI and SHRI, at
the sequencer of a running program with no bit set outside its fields and its compared pair in agreement, the command
answers the state in which s[RD] holds the result of Table 3.5 and the sequencer goes on at the next instruction; no
flag exists and no overflow traps. (R103.) -/
def Obligations.ScalarInstructionsWriteTheirResult : Prop :=
    ScalarResult .add 0x01 rrr (fun a b _ => a + b)
    ∧ ScalarResult .sub 0x02 rrr (fun a b _ => a - b)
    ∧ ScalarResult .and 0x03 rrr (fun a b _ => a &&& b)
    ∧ ScalarResult .or 0x04 rrr (fun a b _ => a ||| b)
    ∧ ScalarResult .xor 0x05 rrr (fun a b _ => a ^^^ b)
    ∧ ScalarResult .shl 0x06 rrr (fun a b _ => a <<< (b.toNat % 64))
    ∧ ScalarResult .shr 0x07 rrr (fun a b _ => a >>> (b.toNat % 64))
    ∧ ScalarResult .sra 0x08 rrr (fun a b _ => a.sshiftRight (b.toNat % 64))
    ∧ ScalarResult .mul 0x09 rrr (fun a b _ => a * b)
    ∧ ScalarResult .min 0x0A rrr (fun a b _ => if a.toInt < b.toInt then a else b)
    ∧ ScalarResult .max 0x0B rrr (fun a b _ => if a.toInt < b.toInt then b else a)
    ∧ ScalarResult .slt 0x0C rrr (fun a b _ => if a.toInt < b.toInt then 1 else 0)
    ∧ ScalarResult .sltu 0x0D rrr (fun a b _ => if a.toNat < b.toNat then 1 else 0)
    ∧ ScalarResult .seq 0x0E rrr (fun a b _ => if a = b then 1 else 0)
    ∧ ScalarResult .addi 0x10 (sFields true true false 64) (fun a _ w => a + BitVec.ofNat 64 (iImm w))
    ∧ ScalarResult .li 0x11 (sFields true false false 64) (fun _ _ w => BitVec.ofNat 64 (iImm w))
    ∧ ScalarResult .andi 0x12 (sFields true true false 64) (fun a _ w => a &&& BitVec.ofNat 64 (iImm w))
    ∧ ScalarResult .shli 0x13 (sFields true true false 6) (fun a _ w => a <<< (iImm w % 64))
    ∧ ScalarResult .shri 0x14 (sFields true true false 6) (fun a _ w => a >>> (iImm w % 64))

/-- For each scalar instruction of Table 3.5 that writes its result, while the next instruction lies below the end of page
63: s0 reads zero, every scalar register but s[RD] is unchanged, the PC is that of the next instruction, and the
plates, the instruction memory, the cluster's tokens, every other cluster, every core, HBM, the hub tokens and the
records are unchanged. (03_nordon_encoding.md section Scalar class; 03_nordon_encoding.md R102.) -/
def Obligations.ScalarInstructionsChangeNothingElse : Prop :=
    ∀ p ∈ scalarOps, ∀ (s : State) (cl : Nat) (w : W128), At s cl w 0 p.2.1 → onlyFields w p.2.2 = true → NextInRange s cl →
    ∃ t, Answers (exec (p.1 cl false) s) t
      ∧ sreg (clOf t cl) 0 = 0 ∧ (∀ r, r ≠ iRD w → sreg (clOf t cl) r = sreg (clOf s cl) r)
      ∧ (clOf t cl).pc = (endIns (clOf s cl).pc (clOf s cl).loops).1
      ∧ (∀ a, (clOf t cl).plates.read a = (clOf s cl).plates.read a) ∧ (∀ a, (clOf t cl).imem.read a = (clOf s cl).imem.read a)
      ∧ (clOf t cl).tok = (clOf s cl).tok ∧ (∀ j, j ≠ cl → clOf t j = clOf s j)
      ∧ t.core = s.core ∧ t.hbm = s.hbm ∧ t.tok = s.tok ∧ t.recs = s.recs ∧ t.out = s.out

/-- For every cluster, every register number and every value: s0 reads zero; a write to s0 leaves the cluster as it was; a
write to another register is what that register then reads, and no other register changes. (03_nordon_encoding.md
R102.) -/
def Obligations.RegisterZeroReadsZero : Prop :=
    ∀ (c : Cluster) (n : Nat) (v : W64), sreg c 0 = 0 ∧ setReg c 0 v = c
    ∧ (n ≠ 0 → sreg (setReg c n v) n = v) ∧ (∀ m, m ≠ n → sreg (setReg c n v) m = sreg c m)

/-- For every scalar, flow and loop instruction at the sequencer of a running program, a disagreement of the compared pair
makes the command the trap of code 3 (SCALAR_MISMATCH) at its PC, whatever its fields hold. (R101.) -/
def Obligations.ScalarMismatchTraps : Prop :=
    ∀ p ∈ seqOps, ∀ (s : State) (cl : Nat) (w : W128), At s cl w p.2.1 p.2.2 →
    Answers (exec (p.1 cl true) s) (trap cl 3 { pc := (clOf s cl).pc, op := opRec w } s)

/-- With no bit outside its fields set, SRD of registers 0x01 to 0x0C writes the special register's value to s[RD]; SRD of
CYCLE (0x00) writes a free value, since the model does not time cycles (log 5); any other number is skipped with
BAD_OPERAND. In each case execution goes on at the next instruction. (03_nordon_encoding.md R104;
03_nordon_encoding.md Table 3.2.) -/
def Obligations.SrdReadsASpecialRegister : Prop :=
    ∀ (s : State) (cl : Nat) (w : W128), At s cl w 0 0x18 → onlyFields w (sFields true false false 8) = true →
    (1 ≤ fld w 0 8 → fld w 0 8 ≤ 0x0C → Answers (exec (.srd cl false) s)
      (goNext cl (setCl s cl (setReg (clOf s cl) (iRD w) (specialReg s cl s.mer.epoch (fld w 0 8))))))
    ∧ (fld w 0 8 = 0 → Answers (exec (.srd cl false) s)
      (goNext cl (setCl { s with free := s.free + 1 } cl (setReg (clOf s cl) (iRD w) (Config.freeWord s.free)))))
    ∧ (0x0C < fld w 0 8 → Answers (exec (.srd cl false) s) (goNext cl (skipIns cl w { code := 0x42 } s)))

/-- At an 8-byte aligned address below 0x180_0000, with no tile-class instruction issued and unreleased: SLD from a line
whose code is good writes the 8 little-endian plate bytes to s[RD]; SST stores the 8 bytes of s[RB], every other plate
byte reads as before, the line written takes tag 0, and HBM and the cores are unchanged (while the next instruction
lies below the end of page 63). (03_nordon_encoding.md R109; 09_proofing.md R316.) -/
def Obligations.SldAndSstAccessThePlates : Prop :=
    ∀ (s : State) (cl : Nat) (w : W128),
    plateAddr (clOf s cl) w % 8 = 0 → plateAddr (clOf s cl) w < 0x1800000 → tileWaits (clOf s cl) = false →
    (At s cl w 0 0x20 → onlyFields w (sFields true true false 64) = true →
      plateBad (clOf s cl) (plateAddr (clOf s cl) w / 64) = false →
      Answers (exec (.sld cl false) s)
        (goNext cl (setCl s cl (setReg (clOf s cl) (iRD w) (BitVec.ofNat 64 ((clOf s cl).plates.nat (plateAddr (clOf s cl) w) 8))))))
    ∧ (At s cl w 0 0x21 → onlyFields w (sFields false true true 64) = true → NextInRange s cl → (clOf s cl).plates.wf = true →
      ∃ t, Answers (exec (.sst cl false) s) t
        ∧ (∀ i, i < 8 → (clOf t cl).plates.read (plateAddr (clOf s cl) w + i)
            = BitVec.ofNat 8 ((sreg (clOf s cl) (iRB w)).toNat / 256 ^ i))
        ∧ (∀ a, (a < plateAddr (clOf s cl) w ∨ plateAddr (clOf s cl) w + 8 ≤ a) →
            (clOf t cl).plates.read a = (clOf s cl).plates.read a)
        ∧ plateTag (clOf t cl) (plateAddr (clOf s cl) w / 64) = 0
        ∧ (∀ n, sreg (clOf t cl) n = sreg (clOf s cl) n) ∧ t.hbm = s.hbm ∧ t.core = s.core)

/-- With no reserved bit set, SLD and SST at an address that is not 8-byte aligned or not below 0x180_0000 are skipped
with code 0x47 (ADDR_RANGE), and execution goes on at the next instruction. (03_nordon_encoding.md R109.) -/
def Obligations.PlateWordsOutOfRangeAreSkipped : Prop :=
    ∀ (s : State) (cl : Nat) (w : W128),
    (plateAddr (clOf s cl) w % 8 ≠ 0 ∨ 0x1800000 ≤ plateAddr (clOf s cl) w) →
    (At s cl w 0 0x20 → onlyFields w (sFields true true false 64) = true →
      Answers (exec (.sld cl false) s) (goNext cl (skipIns cl w { code := 0x47 } s)))
    ∧ (At s cl w 0 0x21 → onlyFields w (sFields false true true 64) = true →
      Answers (exec (.sst cl false) s) (goNext cl (skipIns cl w { code := 0x47 } s)))

/-- With no reserved bit set: NOP goes on at the next instruction; J and JAL go to IMM[13:0], JAL writing PC + 1 to s[RD];
JR goes to s[RA] when s[RA][63:14] is zero; each branch goes to IMM[13:0] when its comparison holds and on to the next
instruction when not. A transfer removes the loop levels whose body does not contain the target.
(03_nordon_encoding.md section Flow class; 03_nordon_encoding.md R110; 03_nordon_encoding.md R115.) -/
def Obligations.JumpsAndBranchesTransferControl : Prop :=
    (∀ (s : State) (cl : Nat) (w : W128),
      (At s cl w 1 0x00 → onlyFields w (sFields false false false 0) = true → Answers (exec (.flowNop cl false) s) (goNext cl s))
      ∧ (At s cl w 1 0x01 → onlyFields w (sFields false false false 14) = true →
          Answers (exec (.j cl false) s) (goOn cl (jumpTo (iTarget w) (clOf s cl).loops) s))
      ∧ (At s cl w 1 0x02 → onlyFields w (sFields true false false 14) = true →
          Answers (exec (.jal cl false) s) (goOn cl (jumpTo (iTarget w) (clOf s cl).loops)
            (setCl s cl (setReg (clOf s cl) (iRD w) (BitVec.ofNat 64 ((clOf s cl).pc + 1))))))
      ∧ (At s cl w 1 0x03 → onlyFields w (sFields false true false 0) = true → (sreg (clOf s cl) (iRA w)).toNat < 0x4000 →
          Answers (exec (.jr cl false) s) (goOn cl (jumpTo (sreg (clOf s cl) (iRA w)).toNat (clOf s cl).loops) s)))
    ∧ BranchResult .beq 0x08 (fun a b => decide (a = b)) ∧ BranchResult .bne 0x09 (fun a b => decide (a ≠ b))
    ∧ BranchResult .blt 0x0A (fun a b => decide (a.toInt < b.toInt)) ∧ BranchResult .bge 0x0B (fun a b => decide (b.toInt ≤ a.toInt))
    ∧ BranchResult .bltu 0x0C (fun a b => decide (a.toNat < b.toNat)) ∧ BranchResult .bgeu 0x0D (fun a b => decide (b.toNat ≤ a.toNat))

/-- A jump to a target below 0x4000 sets the PC to the target, and the loop levels that remain are, in their order and
with their counts unchanged, those whose body contains the target. (03_nordon_encoding.md R115.) -/
def Obligations.ATransferKeepsTheLevelsAroundItsTarget : Prop :=
    ∀ (s : State) (cl t : Nat), t < 0x4000 →
    (clOf (goOn cl (jumpTo t (clOf s cl).loops) s) cl).pc = t
    ∧ ∀ x, x ∈ (clOf (goOn cl (jumpTo t (clOf s cl).loops) s) cl).loops ↔ x ∈ (clOf s cl).loops ∧ x.start ≤ t ∧ t ≤ x.stop

/-- HALT with no reserved bit set leaves the sequencer in STATE 3 with the program ending; a HALT with a reserved bit set
is skipped and halts as well. Once the program has ended its issue and everything issued is released, PROOF_BOUNDARY
ends it. (03_nordon_encoding.md R112; 03_nordon_encoding.md R140.) -/
def Obligations.HaltStopsIssue : Prop :=
    ∀ (s : State) (cl : Nat) (w : W128) (p : Prog), At s cl w 1 0x0F → (clOf s cl).prog = some p →
    (onlyFields w (sFields false false false 0) = true →
      Answers (exec (.halt cl false) s) (setCl s cl { clOf s cl with seq := 3, prog := some { p with ending := 1 } }))
    ∧ (onlyFields w (sFields false false false 0) = false →
      Answers (exec (.halt cl false) s) (haltNow cl (skipIns cl w { code := 0x42 } s)))

/-- When a cluster's program has stopped issuing and everything it issued is released, PROOF_BOUNDARY ends the program
(its armed tokens still PENDING are ABORTED and the GROUP_START takes note), a stopping package goes on with its stop,
and the fabric does what has become possible; while something is not released, the program stays.
(03_nordon_encoding.md R100; 03_nordon_encoding.md R112; 95_what_each_step_holds.md.) -/
def Obligations.ProofBoundaryEndsTheProgram : Prop :=
    ∀ (s : State) (cl : Nat) (p : Prog), cl < 32 → (clOf s cl).prog = some p → p.ending ≠ 0 →
    Answers (exec (.proofBoundary cl) s)
      (fabEnd (stopSettled (if atBoundary s cl = true then endProgram cl s else s)))

/-- With an end beyond the PC, fewer than 4 levels active and the enclosing level ending no earlier: LOOP (count s[RA],
below 2^32) and LOOPI (count IMM[47:16]) with a count above 0 enter a level whose body runs from the next instruction
to the end; a count of 0 continues as a body run zero times. LEXIT with a level active removes it and continues after
its end. (03_nordon_encoding.md R114; 03_nordon_encoding.md R116.) -/
def Obligations.LoopsEnterAndLeaveTheirLevels : Prop :=
    (∀ (s : State) (cl : Nat) (w : W128) (n : Nat), (clOf s cl).pc < iTarget w → (clOf s cl).loops.length < 4 →
      (∀ x ∈ (clOf s cl).loops.head?, iTarget w ≤ x.stop) →
      ((At s cl w 2 0x01 ∧ onlyFields w (sFields false true false 14) = true ∧ n = (sreg (clOf s cl) (iRA w)).toNat ∧ n < 2 ^ 32
          → Answers (exec (.loop cl false) s)
              (if n = 0 then goOn cl (resumeAt (iTarget w) (clOf s cl).loops) s
               else goOn cl ((clOf s cl).pc + 1, ⟨(clOf s cl).pc + 1, iTarget w, n, 0⟩ :: (clOf s cl).loops) s))
       ∧ (At s cl w 2 0x02 ∧ onlyFields w (sFields false false false 14 ++ [(16, 32)]) = true ∧ n = fld w 16 32
          → Answers (exec (.loopi cl false) s)
              (if n = 0 then goOn cl (resumeAt (iTarget w) (clOf s cl).loops) s
               else goOn cl ((clOf s cl).pc + 1, ⟨(clOf s cl).pc + 1, iTarget w, n, 0⟩ :: (clOf s cl).loops) s))))
    ∧ (∀ (s : State) (cl : Nat) (w : W128) (x : LoopLvl) (rest : List LoopLvl), At s cl w 2 0x03 →
        (clOf s cl).loops = x :: rest → onlyFields w (sFields false false false 0) = true →
        Answers (exec (.lexit cl false) s) (goOn cl (resumeAt x.stop rest) s))

/-- An instruction that goes on at an address below 0x4000 leaves the sequencer fetching there; one that would go on
beyond index 255 of page 63 raises the trap of code 4 (RUN_OFF). (03_nordon_encoding.md R111.) -/
def Obligations.FetchBeyondPage63Traps : Prop :=
    ∀ (s : State) (cl : Nat) (w : W128), At s cl w 1 0x00 → onlyFields w (sFields false false false 0) = true →
    (NextInRange s cl → ∃ t, Answers (exec (.flowNop cl false) s) t
      ∧ (clOf t cl).pc = (endIns (clOf s cl).pc (clOf s cl).loops).1 ∧ (clOf t cl).seq = 1)
    ∧ (¬ NextInRange s cl → ∃ u, Answers (exec (.flowNop cl false) s) (trap cl 4 { pc := 0x3FFF } u)
      ∧ (clOf u cl).pc = 0x3FFF ∧ (clOf u cl).prog = (clOf s cl).prog)

/-- A running program at an instruction of class 8 to 15 skips it with code 0x40; at an opcode that its class does not
list it skips it with 0x41, unless the token it would arm is PENDING, when the code is 0x46. Execution goes on at the
next instruction. (03_nordon_encoding.md R95; 03_nordon_encoding.md R108; 03_nordon_encoding.md R588.) -/
def Obligations.UnknownInstructionsAreSkipped : Prop :=
    ∀ (s : State) (cl : Nat) (w : W128), cl < 32 → running s cl = true → curWord (clOf s cl) = w →
    (8 ≤ iClass w → Answers (exec (.unknownInstruction cl) s) (goNext cl (skipIns cl w { code := 0x40 } s)))
    ∧ (iClass w < 8 → knownIns (iClass w) (iOp w) = false →
        Answers (exec (.unknownInstruction cl) s)
          (goNext cl (skipIns cl w { code := if 3 ≤ iClass w ∧ tokBusy s cl w = true then 0x46 else 0x41 } s)))

/-- For TLOAD, TSTORE, MMA, MMA2, VCFG and every vector instruction: when its checks pass and no queue it needs is full,
the command arms its token, puts an entry at the end of the queue of its engine in every lane of the effective mask,
notes the instruction as issued and not released, and goes on at the next instruction. With no effective lane it
completes at once: its token is posted DONE, and where it would end a chain the lanes that hold the chain are
released. With a queue full, issue is held. (03_nordon_encoding.md R97; 03_nordon_encoding.md R119;
03_nordon_encoding.md R124.) -/
def Obligations.LaneInstructionsAreBroadcast : Prop :=
    ∀ p ∈ laneOps, ∀ (s : State) (cl : Nat) (w : W128), At s cl w p.2.1 p.2.2.1 → LaneChecksPass s cl w p.2.2.2.2 →
    let lanes := maskLanes (effMask (clOf s cl) w)
    let armed := armTV cl w (setCl s cl (if inChain w then chainAfter (clOf s cl) w else clOf s cl))
    let queued := (laneEntries s cl w).foldl (fun s q => enqueue cl q s) armed
    (anyFull s cl w lanes = true → Answers (exec (p.1 cl) s) (hold cl 4 [] s))
    ∧ (anyFull s cl w lanes = false → lanes = [] →
        Answers (exec (p.1 cl) s) (goNext cl (endsEmpty cl w (if (clOf s cl).chainOpen then (clOf s cl).chainNo else (clOf s cl).chainNo + 1)
          (if iTV w then postTok (cluTok cl (iTok w)) .done armed else armed))))
    ∧ (anyFull s cl w lanes = false → lanes ≠ [] →
        ∃ iss : Iss, iss.iid = queued.insNo ∧ iss.word = w ∧ iss.pc = (clOf s cl).pc ∧ iss.owed = lanes ∧ iss.tile = p.2.2.2.1
          ∧ (iTV w = true → iss.tok = some (iTok w))
          ∧ Answers (exec (p.1 cl) s) (goNext cl
              { setCl queued cl { clOf queued cl with issued := (clOf queued cl).issued ++ [iss] } with insNo := queued.insNo + 1 }))

/-- An instruction entering the queue of a lane is appended to the queue of each port of its engine in the physical core
that serves the lane; queues of other ports, every other core, the core's scratchpad and every memory are unchanged.
(03_nordon_encoding.md R97.) -/
def Obligations.EnqueueAppendsToTheEnginesQueue : Prop :=
    ∀ (s : State) (cl k : Nat) (q : QIns), laneCore (clOf s cl) cl q.lane = some k →
    (∀ p, p < 4 → queueOf (coreOf (enqueue cl q s) k) p
        = if p ∈ portsOf q.word (coreOf s k) then queueOf (coreOf s k) p ++ [q] else queueOf (coreOf s k) p)
    ∧ (coreOf (enqueue cl q s) k).mem = (coreOf s k).mem ∧ (∀ j, j ≠ k → coreOf (enqueue cl q s) j = coreOf s j)
    ∧ (enqueue cl q s).cl = s.cl ∧ (enqueue cl q s).hbm = s.hbm ∧ (enqueue cl q s).tok = s.tok

/-- With its checks passed, its waits met in every lane of the mask and fewer than 8 entries in its unit's queue, TMOVE
and LEVENT are issued to the tile mover's queue and UPD to the update engine's, each noted as an issued tile-class
instruction; FPUT, FCOLL, FBAR and FABORT, with an effective lane, to the fabric interface's. A fabric instruction
without an effective lane completes at once and posts its token DONE. With a wait unmet or the queue full, issue is
held. (03_nordon_encoding.md R97; 03_nordon_encoding.md R120; 03_nordon_encoding.md R121; 03_nordon_encoding.md R123.) -/
def Obligations.UnitInstructionsJoinTheirQueue : Prop :=
    ∀ (s : State) (cl : Nat) (w : W128),
    (At s cl w 3 3 → UnitChecks s cl w [(90, 6), (32, 16)] [(decide (iI0 w < 1 ∨ 4096 < iI0 w), 0x42)] →
      (UnitFree s cl w (clOf s cl).mover.length → Answers (exec (.tmove cl) s)
        (issueU cl w true (fun c => { c with mover := c.mover ++ [mkU s cl w (effMask c w) 0] }) s))
      ∧ (¬ UnitFree s cl w (clOf s cl).mover.length → Answers (exec (.tmove cl) s) (hold cl 4 [] s)))
    ∧ (At s cl w 3 4 → UnitChecks s cl w [(32, 16), (96, 2)] [] →
      (UnitFree s cl w (clOf s cl).mover.length → Answers (exec (.levent cl) s)
        (issueU cl w true (fun c => { c with mover := c.mover ++ [mkU s cl w (effMask c w) 0] }) s))
      ∧ (¬ UnitFree s cl w (clOf s cl).mover.length → Answers (exec (.levent cl) s) (hold cl 4 [] s)))
    ∧ (At s cl w 3 8 → UnitChecks s cl w [(90, 6), (84, 6), (78, 6), (32, 16), (16, 16)] (updChecks s (clOf s cl) w) →
      (UnitFree s cl w (clOf s cl).updQ.length → Answers (exec (.upd cl) s)
        (issueU cl w true (fun c => { c with updQ := c.updQ ++ [mkU s cl w (effMask c w) 0] }) s))
      ∧ (¬ UnitFree s cl w (clOf s cl).updQ.length → Answers (exec (.upd cl) s) (hold cl 4 [] s)))
    ∧ (∀ p ∈ [(Instr.fput, 1), (Instr.fcoll, 2), (Instr.fbar, 3), (Instr.fabort, 4)], At s cl w 6 p.2 →
      firstSkip (fabChecks s cl w) = none →
      (effMask (clOf s cl) w ≠ 0 → UnitFree s cl w (clOf s cl).fabQ.length → Answers (exec (p.1 cl) s) (fabEnd (fabGo
        (issueU cl w false (fun c => { c with fabQ := c.fabQ ++ [mkU s cl w (effMask c w) s.mer.epoch] }) s))))
      ∧ (effMask (clOf s cl) w ≠ 0 → ¬ UnitFree s cl w (clOf s cl).fabQ.length → Answers (exec (p.1 cl) s) (fabEnd (hold cl 4 [] s)))
      ∧ (effMask (clOf s cl) w = 0 → Answers (exec (p.1 cl) s)
          (fabEnd (goNext cl (if iTV w then postTok (cluTok cl (iTok w)) .done (armTV cl w s) else s)))))

/-- Legal sync instructions at the sequencer: TWAIT whose tokens are all seen DONE takes effect; TARM of a token that is
not PENDING sets it PENDING and notes it as armed; TPOST of a PENDING token that no instruction holds sets it to DONE,
SKIPPED or ABORTED; TREL of tokens none of which is PENDING sets them IDLE; QFENCE takes effect when its waits are met
in every lane; PFENCE takes effect when every serving core is quiet and nothing issued is unreleased, an open chain
included; each holds issue otherwise. (03_nordon_encoding.md R132; 02_programs_and_streams.md R76;
02_programs_and_streams.md R77.) -/
def Obligations.SyncInstructionsActOnTokens : Prop :=
    ∀ (s : State) (cl : Nat) (w : W128), tokBusy s cl w = false → iLmask w = 0xFF →
    (At s cl w 7 1 → onlyFields w [(124, 4), (116, 8), (108, 8), (0, 48)] = true →
      (∀ i ∈ twaitIds w, (isHubTok i || isCluTok i) = true ∧ seenTok (clOf s cl).seen i s = .done) →
      Answers (exec (.twait cl) s) (syncDone cl w s))
    ∧ (∀ p, At s cl w 7 2 → onlyFields w ([(124, 4), (116, 8), (108, 8)] ++ (tvFields w ++ [(32, 8)])) = true →
      seenTok (clOf s cl).seen (actTok cl w) s ≠ .pending → (clOf s cl).prog = some p →
      Answers (exec (.tarm cl) s) (syncDone cl w (setTok (actTok cl w) .pending false
        (setCl s cl { clOf s cl with prog := some { p with armed := iI0 w :: p.armed.filter (fun t => decide (t ≠ iI0 w)) } }))))
    ∧ (At s cl w 7 3 → onlyFields w ([(124, 4), (116, 8), (108, 8)] ++ (tvFields w ++ [(32, 8), (16, 3)])) = true →
      (tokOf s (actTok cl w)).st = .pending → (tokOf s (actTok cl w)).held = false → 2 ≤ iI1 w → iI1 w ≤ 4 →
      Answers (exec (.tpost cl) s) (syncDone cl w (setTok (actTok cl w) (tokOfCode (iI1 w)) false s)))
    ∧ (At s cl w 7 4 → onlyFields w ([(124, 4), (116, 8), (108, 8)] ++ (tvFields w ++ [(32, 8), (16, 16)])) = true →
      1 ≤ iI1 w → iI1 w ≤ 256 → iI0 w + iI1 w ≤ 256 → (∀ i ∈ trelIds cl w, (tokOf s i).st ≠ .pending) →
      Answers (exec (.trel cl) s) (syncDone cl w ((trelIds cl w).foldl (fun s i => setTok i .idle false s) s)))
    ∧ (At s cl w 7 5 → onlyFields w ([(124, 4), (116, 8), (108, 8)] ++ (tvFields w ++ [(105, 3), (104, 1)])) = true →
      wengBad w = false →
      (waitsMet s cl w (laneMask (clOf s cl)) = true → Answers (exec (.qfence cl) s) (syncDone cl w s))
      ∧ (waitsMet s cl w (laneMask (clOf s cl)) = false → Answers (exec (.qfence cl) s) (hold cl 3 [] s)))
    ∧ (At s cl w 7 6 → onlyFields w ([(124, 4), (116, 8), (108, 8)] ++ tvFields w) = true →
      ((∀ k ∈ laneCores s cl, coreQuiet (coreOf s k) = true) → (clOf s cl).issued = [] → Answers (exec (.pfence cl) s) (syncDone cl w s))
      ∧ (((∃ k ∈ laneCores s cl, coreQuiet (coreOf s k) = false) ∨ (clOf s cl).issued ≠ []) →
          Answers (exec (.pfence cl) s) (hold cl 3 [] s)))

/-- When the front instruction of an engine port is ready, meets no mark that holds it and no open overflow that its start
values depend on, and every line that it reads carries a good code (plate lines for TLOAD, scratchpad lines for the
others), LANE_INSTRUCTION_START takes it from its queue (from both matrix queues for MMA2) and adds it to the engine's
runs, with the result of its operands as they then are: of the vector rule for a vector instruction, of the first
attempts for a matrix instruction, the lines to move for TLOAD and TSTORE. Memory changes only by a single-event upset
that the command carries (in the plates for TLOAD, in the scratchpad for the others); the window, HBM, every other
core and the records are unchanged. What the fabric then does (fabEnd) follows. (03_nordon_encoding.md R123;
09_proofing.md R316; 05_vector_engines.md; 04_matrix_engines.md R162.) -/
def Obligations.LaneInstructionsStartFromTheirQueue : Prop :=
    ∀ (s : State) (core port : Nat) (upset : Option Flt) (q : QIns), port < 4 →
    frontReady (coreOf s core) port = some q → marksBlock s (coreOf s core) q = false →
    (iClass q.word = 4 → startBlocked s (coreOf s core) q = false) →
    let slot := if port = 1 ∧ (coreOf s core).bOff = true then 0 else port
    (∀ k s1, k = takeQ (upsetSpad (coreOf s core) upset) port q → s1 = setCore s core k → ¬ (iClass q.word = 3 ∧ iOp q.word = 1) →
      (∀ line ∈ readLines s1 q false, spadBad k line = false) →
      ∃ u r, Answers (exec (.laneInstructionStart core port upset) s) (fabEnd u) ∧ r.ins = q
        ∧ (iClass q.word = 4 → r.res.ops = firstAttempts s1 k q)
        ∧ (iClass q.word = 3 → r.res.lines = tstoreLines k q)
        ∧ (iClass q.word ≠ 3 → iClass q.word ≠ 4 → iOp q.word ≠ 0x50 → r.res = vResult s1 k q)
        ∧ runsOf (coreOf u core) slot = runsOf (coreOf s core) slot ++ [r]
        ∧ (∀ p, queueOf (coreOf u core) p = queueOf (takeQ (coreOf s core) port q) p)
        ∧ (coreOf u core).mem = (upsetSpad (coreOf s core) upset).mem ∧ (coreOf u core).window = (coreOf s core).window
        ∧ (∀ j, j ≠ core → coreOf u j = coreOf s j) ∧ u.cl = s.cl ∧ u.hbm = s.hbm ∧ u.recs = s.recs)
    ∧ (∀ c, c = upsetPlates (clOf s (core / 9)) upset → iClass q.word = 3 → iOp q.word = 1 →
      (∀ line ∈ lineRange (farAddr q) (iI0 q.word * 64), plateBad c line = false) →
      ∃ u r, Answers (exec (.laneInstructionStart core port upset) s) (fabEnd u) ∧ r.ins = q
        ∧ r.res.lines = tloadLines (setCl (setCore s core (takeQ (coreOf s core) port q)) (core / 9) c) c q
        ∧ runsOf (coreOf u core) slot = runsOf (coreOf s core) slot ++ [r]
        ∧ (∀ p, queueOf (coreOf u core) p = queueOf (takeQ (coreOf s core) port q) p)
        ∧ (coreOf u core).mem = (coreOf s core).mem ∧ (coreOf u core).window = (coreOf s core).window
        ∧ (∀ j, j ≠ core → coreOf u j = coreOf s j) ∧ clOf u (core / 9) = c ∧ (∀ j, j ≠ core / 9 → clOf u j = clOf s j)
        ∧ u.hbm = s.hbm ∧ u.recs = s.recs)

/-- LANE_INSTRUCTION_COMPLETE of a port's oldest run that may complete (no overflow open unless it is missed, nothing
older on its arrays, no mark in the way, room in the window): a matrix result enters the window unproven; so does that
of a chain-ending or unchained vector instruction outside matrix-only proving; in matrix-only proving the vector
result is written and its instructions released; a vector instruction that writes a chain register, and VCFG, which
writes its pattern, leave their engine; TSTORE writes its plate lines and is released; TLOAD's lines enter the window
proven, or in matrix-only proving are written and it is released; a plate move of which a line failed three times
fails at that line. A fault on the engine changes the result that it bears. (03_nordon_encoding.md R99; 09_proofing.md
R318; 09_proofing.md R320; 05_vector_engines.md R190; 95_what_each_step_holds.md.) -/
def Obligations.LaneInstructionsCompleteInOrder : Prop :=
    ∀ (s : State) (core port : Nat) (f : Option Flt) (bad : List Nat) (missed : Bool) (r : Run),
    (runsOf (coreOf s core) port).head? = some r → mayComplete s (coreOf s core) r missed = true →
    let done := fun o => Answers (exec (.laneInstructionComplete core port f bad missed) s) (fabEnd o)
    let moved := countMoves core (movedBad bad r.res.lines.length) (setCore s core { coreOf s core with runP := (coreOf s core).runP.tail })
    let mine := (coreOf s core).chain.filter (fun x => decide (x.ins.chain = r.ins.chain))
    (iClass r.ins.word ≠ 3 → iClass r.ins.word ≠ 5 → ∃ u e, done u
      ∧ (coreOf u core).window = (coreOf s core).window ++ [e] ∧ e.ins = r.ins ∧ e.good = r.res
      ∧ e.got = applyFlt (missedOv r.res) f ∧ e.proven = false
      ∧ (coreOf u core).mem = (spadWrites (coreOf s core) (resLines (applyFlt (missedOv r.res) f))).mem ∧ u.cl = s.cl ∧ u.hbm = s.hbm)
    ∧ (iClass r.ins.word = 5 → iOp r.ins.word ≠ 0x50 → vDest r.ins.word = 0 → matrixOnly s = false → ∃ u e, done u
      ∧ (coreOf u core).window = (coreOf s core).window ++ [e] ∧ e.ins = r.ins ∧ e.chainIns = mine ∧ e.good = r.res
      ∧ e.got = applyFlt r.res f ∧ e.proven = false
      ∧ (coreOf u core).mem = (spadWrites (coreOf s core) (resLines (applyFlt r.res f))).mem ∧ u.cl = s.cl ∧ u.hbm = s.hbm)
    ∧ (iClass r.ins.word = 5 → iOp r.ins.word ≠ 0x50 → vDest r.ins.word = 0 → matrixOnly s = true → ∃ u,
      done (releaseIns (core / 9) r.ins mine u)
      ∧ (coreOf u core).mem = (spadWrites (coreOf s core) (applyFlt r.res f).lines).mem ∧ (coreOf u core).window = (coreOf s core).window
      ∧ u.cl = s.cl ∧ u.hbm = s.hbm)
    ∧ (iClass r.ins.word = 5 → iOp r.ins.word ≠ 0x50 → vDest r.ins.word ≠ 0 →
      done (freeLeft (core / 9) r.ins.chain (setCore s core { coreOf s core with runV := (coreOf s core).runV.tail })))
    ∧ (iClass r.ins.word = 5 → iOp r.ins.word = 0x50 → done (laneDone (core / 9) r.ins.iid r.ins.lane (setCore s core { coreOf s core with
        runV := (coreOf s core).runV.tail, pat := (coreOf s core).pat.put (vPat r.ins.word) [r.ins.a, r.ins.b, r.ins.c, r.ins.d] })))
    ∧ (iClass r.ins.word = 3 → lostLine bad r.res.lines.length = none → iOp r.ins.word = 2 →
      done (laneDone (core / 9) r.ins.iid r.ins.lane (setCl moved (core / 9)
        (r.res.lines.foldl (fun c l => plateWrite c l.line l.tag l.upd) (clOf s (core / 9))))))
    ∧ (iClass r.ins.word = 3 → lostLine bad r.res.lines.length = none → iOp r.ins.word ≠ 2 → matrixOnly s = false → ∃ u e, done u
      ∧ (coreOf u core).window = (coreOf s core).window ++ [e] ∧ e.ins = r.ins ∧ e.got = r.res ∧ e.proven = true
      ∧ (coreOf u core).mem = (spadWrites (coreOf s core) (resLines r.res)).mem ∧ u.cl = s.cl ∧ u.hbm = s.hbm)
    ∧ (iClass r.ins.word = 3 → lostLine bad r.res.lines.length = none → iOp r.ins.word ≠ 2 → matrixOnly s = true →
      done (laneDone (core / 9) r.ins.iid r.ins.lane (setCore moved core (spadWrites (coreOf moved core) r.res.lines))))
    ∧ (∀ i, iClass r.ins.word = 3 → lostLine bad r.res.lines.length = some i →
      done (landFail (core / 9) core r.ins ((r.res.lines.map (fun l => l.line)).getD i 0) moved))

/-- OVERFLOW_REPLAY of a matrix array acts on the open overflow of the oldest instruction in flight, or, where that has
none on this array, on the attempt and cause that a false detection names. Before the fifth attempt the next attempt
takes the place of the old one: a run overflow lowers operand A's exponent where B's exponent field is the narrower
and B's otherwise, a total or output overflow that of the output; the replay counter of the lowered kind counts once
(to 255), MAT_REPLAY_LAST takes the replay, the cluster's summary bit of the kind is set, and the scratchpad, every
other core and HBM are unchanged. At the fifth attempt the instruction is cut and traps with code 1, D1 the tile
operation, D2 the last replay. (04_matrix_engines.md R162; 04_matrix_engines.md R163; 03_nordon_encoding.md R591;
09_proofing.md R322.) -/
def Obligations.OverflowIsReplayedOneExponentLower : Prop :=
    ∀ (s : State) (core u : Nat) (fo : Option (Nat × Nat)) (r : Run) (o : TileOp) (x : OvCause),
    (overflowed (coreOf s core) u = some (r, o) → o.ov = some x → ovOf (coreOf s core) u fo = some (r, o, x))
    ∧ (∀ c, overflowed (coreOf s core) u = none → (coreOf s core).runA = [r] → (coreOf s core).runB = [] → r.res.ops = [o] →
        o.unit = u → ovOf (coreOf s core) u (some (o.idx, c)) = some (r, o, causeOf c))
    ∧ (∀ j, lower s j o x = if x = .runFp22 ∨ x = .runFp32 then
          (if (fmtK s j.kB).ew < (fmtK s j.kA).ew then (j.kA, { o with dA := o.dA + 1 }) else (j.kB, { o with dB := o.dB + 1 }))
        else (j.kO, { o with o := o.o + 1 }))
    ∧ (ovOf (coreOf s core) u fo = some (r, o, x) → o.attempt ≠ 4 →
      ∃ (t : State) (kd : Nat) (o' : TileOp), Answers (exec (.overflowReplay core u fo) s) (fabEnd t)
        ∧ (kd, o') = lower s (tileJob s r.ins o.idx) o x
        ∧ (∀ next, next = attempt s (coreOf s core) (tileJob s r.ins o.idx) (startSpad s (coreOf s core) r.ins o.idx u).mem
              (spadTag (startSpad s (coreOf s core) r.ins o.idx u)) { o' with attempt := o.attempt + 1 } →
            next.attempt = o.attempt + 1
            ∧ (coreOf t core).runA = (coreOf s core).runA.map (fun y => if y.ins.iid = r.ins.iid then putOp y next else y)
            ∧ (coreOf t core).runB = (coreOf s core).runB.map (fun y => if y.ins.iid = r.ins.iid then putOp y next else y))
        ∧ (coreOf t core).replay = (coreOf s core).replay.put kd (satInc 0xFF ((coreOf s core).replay.get 0 kd))
        ∧ (coreOf t core).replayLast = BitVec.ofNat 64 (at_ kd 0 4 + at_ (causeCode x) 4 2 + at_ u 6 1 + at_ o.attempt 8 3
            + at_ r.ins.pc 16 14 + at_ s.aoCount.toNat 32 32)
        ∧ (clOf t (core / 9)).replaySummary = (clOf s (core / 9)).replaySummary ||| BitVec.ofNat 16 (2 ^ kd)
        ∧ (coreOf t core).mem = (coreOf s core).mem ∧ (∀ k, k ≠ core → coreOf t k = coreOf s k) ∧ t.hbm = s.hbm)
    ∧ (ovOf (coreOf s core) u fo = some (r, o, x) → o.attempt = 4 →
      Answers (exec (.overflowReplay core u fo) s)
        (fabEnd (trap (core / 9) 1 { lane := r.ins.lane, pc := r.ins.pc, op := opRec r.ins.word
                                     d1 := BitVec.ofNat 32 (tileCode o.idx), d2 := (coreOf s core).replayLast.setWidth 32 }
          (laneCut (core / 9) r.ins.iid r.ins.lane
            (undefTiles core ((r.res.ops.takeWhile (fun y => decide (y.idx ≠ o.idx))).filter (fun y => y.ov.isNone))
              (setCore s core (dropRun (coreOf s core) r.ins.iid)))))))

/-- PROOF_VERDICT on an entry that is not yet proven: when its check passes (or when the check fails and the checker
itself errs) the entry becomes proven and nothing else changes; when the check fails and no arbitration is open, the
entry fails with that finding, and when the checker errs on a result that is right it fails with a finding that the
spec leaves free (log 5). ENTRY_RELEASE, with the oldest entry proven, takes it from the window, drops its marks, adds
its saturations and releases its instructions; with the oldest entry unproven it changes nothing. (09_proofing.md
R320; 09_proofing.md R328; 03_nordon_encoding.md R99.) -/
def Obligations.VerdictsProveEntriesAndEntriesAreReleasedInOrder : Prop :=
    ∀ (s : State) (core : Nat),
    (∀ (pos : Nat) (e : Entry), (coreOf s core).window[pos]? = some e → e.proven = false →
      (checkEntry s e e.good e.got = none →
        Answers (exec (.proofVerdict core pos false) s)
          (fabEnd (setCore s core { coreOf s core with window := (coreOf s core).window.set pos { e with proven := true } })))
      ∧ (∀ f, checkEntry s e e.good e.got = some f →
        Answers (exec (.proofVerdict core pos true) s)
          (fabEnd (setCore s core { coreOf s core with window := (coreOf s core).window.set pos { e with proven := true } }))
        ∧ ((coreOf s core).arb = none → Answers (exec (.proofVerdict core pos false) s) (fabEnd (failEntry core pos e f s))))
      ∧ (checkEntry s e e.good e.got = none → (coreOf s core).arb = none →
        Answers (exec (.proofVerdict core pos true) s) (fabEnd (failEntry core pos e (falseFail e s).1 (falseFail e s).2))))
    ∧ (∀ (e : Entry) (rest : List Entry), (coreOf s core).window = e :: rest →
      (e.proven = true → ∃ u, Answers (exec (.entryRelease core) s) (fabEnd (releaseIns (core / 9) e.ins e.chainIns u))
        ∧ (coreOf u core).window = rest ∧ (coreOf u core).mem = (coreOf s core).mem
        ∧ (∀ i, (coreOf u core).sat.get 0 i = if i = e.got.kind then (if e.got.sat = 0 then (coreOf s core).sat.get 0 i
            else min 0xFF ((coreOf s core).sat.get 0 i + e.got.sat)) else (coreOf s core).sat.get 0 i)
        ∧ (∀ j, j ≠ core → coreOf u j = coreOf s j) ∧ u.cl = s.cl ∧ u.recs = s.recs)
      ∧ (e.proven = false → Answers (exec (.entryRelease core) s) (fabEnd s)))

/-- When an entry fails its check while the program is not stopping: the window keeps exactly the older entries; an
arbitration opens with the entry, the unit under suspicion, the repeat as its next step and the count of entries
discarded; no other core and no memory of the cluster changes, and the cluster counts the failure, which orders the
spare's turns. (09_proofing.md R328; 09_proofing.md R334.) -/
def Obligations.AFailedEntryDiscardsItAndEverythingYounger : Prop :=
    ∀ (s : State) (core pos : Nat) (e : Entry) (f : Fail), stopping s (core / 9) = false →
    (coreOf (failEntry core pos e f s) core).window = (coreOf s core).window.take pos
    ∧ (∃ a, (coreOf (failEntry core pos e f s) core).arb = some a ∧ a.entry = e ∧ a.unit = f.unit ∧ a.step = 2 ∧ a.round = 0
        ∧ a.gone = 1 + ((coreOf s core).window.drop (pos + 1)).length ∧ a.order = (clOf s (core / 9)).failNo)
    ∧ (∀ j, j ≠ core → coreOf (failEntry core pos e f s) j = coreOf s j)
    ∧ clOf (failEntry core pos e f s) (core / 9) = { clOf s (core / 9) with failNo := (clOf s (core / 9)).failNo + 1 }
    ∧ (∀ j, j ≠ core / 9 → clOf (failEntry core pos e f s) j = clOf s j) ∧ (failEntry core pos e f s).hbm = s.hbm ∧ (failEntry core pos e f s).recs = s.recs

/-- At the repeat step: a repeat that passes its check counts one transient, writes the TRANSIENT record and enters the
entry again, proven; one that does not pass votes 1 when it equals the first result and 2 when not, and with a spare
the arbitration goes on at the spare step. At the spare step, on the spare's turn: a proven result equal to the first
one with vote 1 charges the checker, a proven result otherwise charges the datapath, and the entry enters again with
the agreed result. (09_proofing.md R334; 09_proofing.md R335; 09_proofing.md R338.) -/
def Obligations.ArbitrationRepeatsThenAsksTheSpare : Prop :=
    (∀ (s : State) (core : Nat) (f : Option Flt) (checker : Bool) (a : Arb), (coreOf s core).arb = some a → a.step = 2 →
      let clean := repeatRes s (coreOf s core) a.entry
      let r := applyFlt clean f
      (anyOv r = false → ((checkEntry s a.entry clean r).isNone != checker) = true →
        Answers (exec (.arbitrationRepeatDone core f checker) s)
          (fabEnd (arbRelease core a r (arbRec core 0x0201 0 0 a
            (setCore s core { coreOf s core with nTransient := satInc 0xFFFF (coreOf s core).nTransient })))))
      ∧ (((checkEntry s a.entry clean r).isNone != checker) = false → (clOf s (core / 9)).spare < 9 →
        Answers (exec (.arbitrationRepeatDone core f checker) s)
          (fabEnd (setCore s core { coreOf s core with arb := some { a with
            vote := if !(anyOv r) && sameBytes r a.entry.got then 1 else 2, step := 3 } }))))
    ∧ (∀ (s : State) (core : Nat) (f : Option Flt) (checker : Bool) (a : Arb), (coreOf s core).arb = some a → a.step = 3 →
      spareTurn s core a = true → (clOf s (core / 9)).spare < 9 →
      let clean := repeatRes s (coreOf s core) a.entry
      let r := applyFlt clean f
      anyOv r = false → ((checkEntry s a.entry clean r).isNone != checker) = true →
        Answers (exec (.spareExecutionDone core f checker) s)
          (fabEnd (if a.vote = 1 ∧ sameBytes r a.entry.got = true then
              arbRelease core a a.entry.got (arbRec core 0x0203 1 1 a (markCore core a.unit true (countMinority core true s)))
            else arbRelease core a r (arbRec core 0x0202 2 2 a (markCore core a.unit false (countMinority core false s))))))

/-- With the update engine idle and the oldest UPD free to start: UPD_START makes it the one under way, latches its kernel
and layer, and, with the 320 parameter bytes on good plate lines, works its groups of 64 elements; with a bad
parameter line it ends in PROOF_FAILED. UPD_COMPLETE releases the UPD under way and leaves the engine idle.
(06_formats_and_recipes.md R229; 06_formats_and_recipes.md R235.) -/
def Obligations.UpdatesStartInOrderAndAreReleasedAtTheirEnd : Prop :=
    (∀ (s : State) (cl : Nat) (upset : Option Flt) (fs : List UpdFlt) (u : UIns) (rest : List UIns),
      (clOf s cl).updQ = u :: rest → (clOf s cl).upd = none → updMayStart (clOf s cl) u = true →
      let c := upsetPlates { clOf s cl with updQ := rest, upd := some u, updKernel := iI0 u.word, updLayer := iI1 u.word % 256 } upset
      ((∀ line ∈ lineRange u.c.toNat 320, plateBad c line = false) →
        Answers (exec (.updStart cl upset fs) s)
          (fabEnd (updGroups (u.b.toNat / 64) cl (updPar (c.plates.bytes u.c.toNat 320) (iI1 u.word % 256)) u fs 0 (setCl s cl c))))
      ∧ (∀ line, (lineRange u.c.toNat 320).find? (plateBad c) = some line →
        Answers (exec (.updStart cl upset fs) s) (fabEnd (plateError cl line (updTrap cl u 0 1) (setCl s cl c)))))
    ∧ (∀ (s : State) (cl : Nat) (u : UIns), (clOf s cl).upd = some u →
      Answers (exec (.updComplete cl) s) (laneDone cl u.iid 8 (setCl s cl { clOf s cl with upd := none })))

/-- ROTATION_DUE on a cluster whose rotation nothing stops notes it as due and ungates the clock; ROTATION_POSTPONED drops
a due rotation and counts it; CLUSTER_IDLE_POINT with a rotation due, a free spare, nothing to remove and nothing
stopping it rotates: the lane due is served by the spare, the core it leaves is the spare under test, and the rotation
is counted. OCC_TEST_RUN starts the self-test of an idle spare; of a core that is neither the spare nor serves a lane
it is discarded with cause 3. SELF_TEST_END without findings, while no arbitration waits for that spare, ends the test
with result 1 and the scratchpad of the tested core free. (09_proofing.md R340; 09_proofing.md R341; 09_proofing.md
R342; 09_proofing.md R343.) -/
def Obligations.RotationsWaitForAnIdlePointAndTestTheCoreTakenOut : Prop :=
    (∀ (s : State) (cl : Nat), cl < 32 → occStop s (clOf s cl) = 0 →
      Answers (exec (.rotationDue cl) s) (setCl s cl { clOf s cl with rotDue := true, gated := false }))
    ∧ (∀ (s : State) (cl : Nat), (clOf s cl).rotDue = true →
      Answers (exec (.rotationPostponed cl) s)
        (setCl s cl { clOf s cl with rotDue := false, occPostponed := satInc 0xFFFF (clOf s cl).occPostponed }))
    ∧ (∀ (s : State) (cl : Nat), cl < 32 → atIdlePoint s cl = true → (clOf s cl).rotDue = true → (clOf s cl).removals = [] →
      spareFree s cl = true → occStop s (clOf s cl) = 0 →
      Answers (exec (.clusterIdlePoint cl) s) (fabEnd (rotate cl (setCl s cl { clOf s cl with removals := [] }))))
    ∧ (∀ (s : State) (cl core : Nat), laneCore (clOf s cl) cl (dueLane s cl) = some core → core ≠ 9 * cl + (clOf s cl).spare →
      (coreOf s core).spadFailed = false →
      (clOf (rotate cl s) cl).lanes = (clOf s cl).lanes.set (dueLane s cl) (clOf s cl).spare
        ∧ (clOf (rotate cl s) cl).spare = core % 9 ∧ (clOf (rotate cl s) cl).rotDue = false
        ∧ (clOf (rotate cl s) cl).occTesting = core % 9 ∧ (clOf (rotate cl s) cl).occRotations = (clOf s cl).occRotations + 1
        ∧ (coreOf (rotate cl s) core).testBusy = true
        ∧ (coreOf (rotate cl s) (9 * cl + (clOf s cl).spare)).mem = (coreOf s core).mem
        ∧ (∀ j, j ≠ core → j ≠ 9 * cl + (clOf s cl).spare → coreOf (rotate cl s) j = coreOf s j)
        ∧ (∀ j, j ≠ cl → clOf (rotate cl s) j = clOf s j))
    ∧ (∀ (s : State) (core : Nat), core < 288 → HostReaches s →
      (isSpare s core = true → (coreOf s core).testBusy = false → ∃ u, Answers (exec (.occTestRun core) s) u ∧ (coreOf u core).testBusy = true ∧ (clOf u (core / 9)).occTesting = core % 9
        ∧ (coreOf u core).mem = (coreOf s core).mem ∧ (∀ j, j ≠ core → coreOf u j = coreOf s j) ∧ u.hbm = s.hbm)
      ∧ (isSpare s core = false → 8 ≤ servedLane s core → ∃ u r, Answers (exec (.occTestRun core) s) (record r u) ∧ r.cls = 0x0103 ∧ r.outcome = 3
        ∧ SameData s u))
    ∧ (∀ (s : State) (core : Nat), (coreOf s core).testBusy = true → (coreOf s core).failed = false →
      (clOf s (core / 9)).spare ≠ core % 9 ∨ spareWanted s (core / 9) = false →
      ∃ u, Answers (exec (.selfTestEnd core []) s) u ∧ (coreOf u core).testBusy = false ∧ (coreOf u core).testResult = 1
        ∧ (clOf u (core / 9)).occTesting = 15 ∧ (∀ j, j ≠ core → coreOf u j = coreOf s j))

/-- SUSPECT_LAPSE on a core's datapath or checker mark: a suspect mark older than ten seconds becomes good, a more recent
one and a good or failed mark stay as they are; the other marks, the memories and the other cores are unchanged.
(09_proofing.md R338.) -/
def Obligations.SuspectMarksLapseAfterTenSeconds : Prop :=
    ∀ (s : State) (core u : Nat), u < 4 →
    (∃ t, Answers (exec (.suspectLapse 0 (4 * core + u)) s) t
      ∧ ((coreOf t core).dp.get Mark.reset u).st = (if ((coreOf s core).dp.get Mark.reset u).st = 1
          ∧ recent s ((coreOf s core).dp.get Mark.reset u).time = false then 0 else ((coreOf s core).dp.get Mark.reset u).st)
      ∧ (∀ v, v ≠ u → (coreOf t core).dp.get Mark.reset v = (coreOf s core).dp.get Mark.reset v)
      ∧ (coreOf t core).ck = (coreOf s core).ck ∧ (coreOf t core).mem = (coreOf s core).mem ∧ ∀ j, j ≠ core → coreOf t j = coreOf s j)
    ∧ (∃ t, Answers (exec (.suspectLapse 1 (4 * core + u)) s) t
      ∧ ((coreOf t core).ck.get Mark.reset u).st = (if ((coreOf s core).ck.get Mark.reset u).st = 1
          ∧ recent s ((coreOf s core).ck.get Mark.reset u).time = false then 0 else ((coreOf s core).ck.get Mark.reset u).st)
      ∧ (∀ v, v ≠ u → (coreOf t core).ck.get Mark.reset v = (coreOf s core).ck.get Mark.reset v)
      ∧ (coreOf t core).dp = (coreOf s core).dp ∧ (coreOf t core).mem = (coreOf s core).mem ∧ ∀ j, j ≠ core → coreOf t j = coreOf s j)

/-- With the register path open and the package in service, MAT_REPLAY_CLEAR, VEC_SAT_CLEAR (of a core that serves a
lane), CLU_UPD_CLEAR, HBM_ERR_CLEAR, FAB_CLEAR_DROP, CLEAR_SAT, MER_CLEAR_DROP, MER_LINK_CLEAR, CLEAR_LINKS,
D2D_PORT_CLEAR, CLEAR_SAG, CLEAR_CLAMP and CLEAR_MISPLACED each leave the counters that they name at zero (CLEAR_SAG
sets the lowest-voltage register to the present voltage), and no HBM, no scratchpad, no token and no record changes.
(04_matrix_engines.md R163; 05_vector_engines.md R186; 06_formats_and_recipes.md R233; 08_hbm_and_storage_port.md
R293; 10_meridian_fabric.md R355; 10_meridian_fabric.md R386; 11_collectives_and_reblocking.md R416;
11_collectives_and_reblocking.md R422; 12_dies_and_die_links.md R459; 14_power_clocks_thermal.md R506;
14_power_clocks_thermal.md R517; 02_programs_and_streams.md R61.) -/
def Obligations.ClearBitsZeroTheirCounters : Prop :=
    ∀ s : State, HostReaches s →
    (∀ core, core < 288 → servedLane s core < 8 → ∃ t, Answers (exec (.matReplayClear core) s) t
      ∧ (∀ kd, (coreOf t core).replay.get 0 kd = 0) ∧ (coreOf t core).replayLast = 0 ∧ SameData s t)
    ∧ (∀ core, core < 288 → servedLane s core < 8 → ∃ t, Answers (exec (.vecSatClear core) s) t
      ∧ (∀ kd, (coreOf t core).sat.get 0 kd = 0) ∧ SameData s t)
    ∧ (∀ cl, cl < 32 → ∃ t, Answers (exec (.cluUpdClear cl) s) t ∧ (clOf t cl).nonfiniteSeen = false ∧ (clOf t cl).nonfinite = 0
      ∧ (clOf t cl).satM1 = 0 ∧ (clOf t cl).satM2 = 0 ∧ (clOf t cl).satW = 0 ∧ SameData s t)
    ∧ (∀ k, k < 12 → ∃ t, Answers (exec (.hbmErrClear k) s) t ∧ (stackOf t k).nData = 0 ∧ (stackOf t k).nVersion = 0
      ∧ (stackOf t k).nParity = 0 ∧ (stackOf t k).nOdecc = 0 ∧ SameData s t)
    ∧ (∀ d, (d = 5 ∨ d = 6) →
      (∃ t, Answers (exec (.fabClearDrop d) s) t ∧ (photOf t d).fabNo = 0 ∧ (photOf t d).fabEpoch = 0 ∧ (photOf t d).fabBad = 0
        ∧ (photOf t d).fabQuiet = 0 ∧ (photOf t d).fabSat = (photOf s d).fabSat ∧ SameData s t)
      ∧ (∃ t, Answers (exec (.clearSat d) s) t ∧ (photOf t d).fabSat = 0 ∧ (photOf t d).fabNo = (photOf s d).fabNo ∧ SameData s t)
      ∧ (∃ t, Answers (exec (.merClearDrop d) s) t ∧ (photOf t d).dropDst = 0 ∧ (photOf t d).dropType = 0
        ∧ (photOf t d).dropPermit = 0 ∧ (photOf t d).dropDup = 0 ∧ SameData s t)
      ∧ (∃ t, Answers (exec (.clearLinks d) s) t ∧ (∀ p, p < 64 → linkDie p = d → NoLinkErrors t p)
        ∧ (∀ p, p < 64 → linkDie p ≠ d → linkOf t p = linkOf s p) ∧ SameData s t))
    ∧ (∀ p, p < 64 → ∃ t, Answers (exec (.merLinkClear p) s) t ∧ NoLinkErrors t p ∧ (∀ q, q ≠ p → linkOf t q = linkOf s q) ∧ SameData s t)
    ∧ (∀ d p, portModules d p ≠ 0 → ∃ t, Answers (exec (.d2dPortClear d p) s) t ∧ (portOf t d p).crc = 0
      ∧ (portOf t d p).retrain = 0 ∧ (portOf t d p).mismatch = 0 ∧ (portOf t d p).persist = 0 ∧ SameData s t)
    ∧ (∃ t, Answers (exec .clearSag s) t ∧ t.pwr.lowestMv = s.pwr.railMv ∧ t.pwr.sagEntries = 0 ∧ SameData s t)
    ∧ (∃ t, Answers (exec .clearClamp s) t ∧ t.pwr.clampEpisodes = 0 ∧ SameData s t)
    ∧ (∀ st, st < 64 → ∃ t, Answers (exec (.clearMisplaced st) s) t ∧ (strmOf t st).misplaced = 0
      ∧ (strmOf t st).e = (strmOf s st).e ∧ SameData s t)

/-- STREAM_SLOT_WRITE of one whole free slot, with a tag within 4,096 of E that belongs to the slot, stores the 64 bytes
at the slot's offset and occupies it; with a tag outside that window, or of another slot, it stores them and counts a
misplaced write of cause 1 or 2; of an occupied slot it stores nothing and counts cause 3. INGEST_READ_SLOT on an
enabled stream with the slot of tag E occupied and room in the decode queue appends the slot's 512-bit word, frees the
slot and advances E modulo 65,536; otherwise nothing changes. (02_programs_and_streams.md R58;
02_programs_and_streams.md R59; 02_programs_and_streams.md R60; 02_programs_and_streams.md R61;
02_programs_and_streams.md R62.) -/
def Obligations.StreamBuffersTakeTaggedSlotsInOrder : Prop :=
    (∀ (s : State) (st slot : Nat) (data : List Byte), HostReaches s → st < 64 → slot < 4096 → data.length = 64 →
      (((strmOf s st).occ.contains slot = false → (leNat ((data.drop 62).take 2) + 65536 - (strmOf s st).e) % 65536 < 4096 →
          leNat ((data.drop 62).take 2) % 4096 = slot →
          Answers (exec (.streamSlotWrite st (64 * slot) data) s)
            (setStrm (setStrm s st { strmOf s st with buf := (strmOf s st).buf.writes (64 * slot) data }) st
              { strmOf s st with buf := (strmOf s st).buf.writes (64 * slot) data, occ := slot :: (strmOf s st).occ }))
        ∧ ((strmOf s st).occ.contains slot = false → 4096 ≤ (leNat ((data.drop 62).take 2) + 65536 - (strmOf s st).e) % 65536 →
          Answers (exec (.streamSlotWrite st (64 * slot) data) s)
            (misplacedWrite st 1 slot (leNat ((data.drop 62).take 2))
              (setStrm s st { strmOf s st with buf := (strmOf s st).buf.writes (64 * slot) data })))
        ∧ ((strmOf s st).occ.contains slot = false → (leNat ((data.drop 62).take 2) + 65536 - (strmOf s st).e) % 65536 < 4096 →
          leNat ((data.drop 62).take 2) % 4096 ≠ slot →
          Answers (exec (.streamSlotWrite st (64 * slot) data) s)
            (misplacedWrite st 2 slot (leNat ((data.drop 62).take 2))
              (setStrm s st { strmOf s st with buf := (strmOf s st).buf.writes (64 * slot) data })))
        ∧ ((strmOf s st).occ.contains slot = true →
          Answers (exec (.streamSlotWrite st (64 * slot) data) s) (misplacedWrite st 3 slot (leNat ((data.drop 62).take 2)) s))))
    ∧ (∀ (s : State) (st : Nat),
      if (strmOf s st).enable = true ∧ (strmOf s st).occ.contains ((strmOf s st).e % 4096) = true ∧ (strmOf s st).queue.length < 16 then
        ∃ t, Answers (exec (.ingestReadSlot st) s) t
          ∧ (strmOf t st).queue = (strmOf s st).queue ++ [BitVec.ofNat 512 ((strmOf s st).buf.nat (64 * ((strmOf s st).e % 4096)) 64)]
          ∧ (strmOf t st).e = ((strmOf s st).e + 1) % 65536
          ∧ (strmOf t st).occ = (strmOf s st).occ.erase ((strmOf s st).e % 4096) ∧ (strmOf t st).buf = (strmOf s st).buf
          ∧ (∀ i, i ≠ st → strmOf t i = strmOf s i) ∧ t.tok = s.tok ∧ t.cl = s.cl ∧ t.hbm = s.hbm
      else Answers (exec (.ingestReadSlot st) s) s)

/-- From a host that reaches the registers: STREAM_ENABLE and STREAM_PAUSE set the bit of their stream and end the state
that a stream reset leaves (log 59); SKIP_SELECT selects entry index mod 256 of the skip log and marks that entry
read; STREAM_RESET of a stream with an empty decode queue clears its buffer and its occupied slots and sets the
expected tag to 0x0001. Every other stream is unchanged. (02_programs_and_streams.md R65; 02_programs_and_streams.md
R69; 02_programs_and_streams.md R70; 02_programs_and_streams.md R92.) -/
def Obligations.StreamRegistersActOnTheirStream : Prop :=
    ∀ (s : State) (st : Nat), HostReaches s → st < 64 →
    (∀ on, ∃ t, Answers (exec (.streamEnable st on) s) t ∧ strmOf t st = { strmOf s st with enable := on, rested := false }
        ∧ (∀ i, i ≠ st → strmOf t i = strmOf s i) ∧ t.tok = s.tok ∧ t.hbm = s.hbm)
    ∧ (∀ on, ∃ t, Answers (exec (.streamPause st on) s) t ∧ strmOf t st = { strmOf s st with pause := on, rested := false }
        ∧ (∀ i, i ≠ st → strmOf t i = strmOf s i) ∧ t.tok = s.tok ∧ t.hbm = s.hbm)
    ∧ (∀ idx, ∃ t, Answers (exec (.skipSelect st idx) s) t ∧ (strmOf t st).select = idx % 256
        ∧ (∀ en, (strmOf s st).log.find (idx % 256) = some en → (strmOf t st).log.find (idx % 256) = some { en with read := true })
        ∧ (strmOf t st).queue = (strmOf s st).queue ∧ (∀ i, i ≠ st → strmOf t i = strmOf s i) ∧ t.tok = s.tok ∧ t.hbm = s.hbm)
    ∧ ((strmOf s st).queue = [] → ∃ t, Answers (exec (.streamReset st) s) t ∧ (strmOf t st).e = 1 ∧ (strmOf t st).occ = []
        ∧ (∀ a, (strmOf t st).buf.read a = 0) ∧ (strmOf t st).queue = [] ∧ (strmOf t st).enable = (strmOf s st).enable
        ∧ (strmOf t st).skipCount = (strmOf s st).skipCount ∧ (∀ i, i ≠ st → strmOf t i = strmOf s i) ∧ t.tok = s.tok ∧ t.hbm = s.hbm)

/-- At the head of the stream that is served next: an opcode outside Table 2.9 is skipped with code 0x01; for NOP, FENCE,
TOKEN_SET, TOKEN_RELEASE, JOB_OPEN, GROUP_DEFINE, GROUP_START, GROUP_STOP and BATCH_ADMIT, a bit set outside the
command's fields is BAD_OPERAND, 0x02, and a wait on a SKIPPED or ABORTED token is the skip 0x04 that names the token
when the operands of NOP and FENCE are otherwise good; a job command without an open job is 0x06.
(02_programs_and_streams.md R81; 02_programs_and_streams.md R89; 02_programs_and_streams.md R93.) -/
def Obligations.ACommandThatFailsACheckIsSkipped : Prop :=
    ∀ (s : State) (st : Nat) (late : List Nat), pickStream s late = some st →
    (cmdOp (headCmd s st) ∉ knownOps →
      Answers (exec (.unknownCommand st late) s) (skipCommand st (headCmd s st) { code := 0x01 } (popCmd st s)))
    ∧ (∀ p ∈ [(Instr.nop, 0x01), (Instr.fence, 0x02), (Instr.tokenSet, 0x03), (Instr.tokenRelease, 0x04), (Instr.setProfile, 0x08),
          (Instr.jobOpen, 0x10), (Instr.groupDefine, 0x21), (Instr.groupStart, 0x22),
          (Instr.groupStop, 0x23), (Instr.batchAdmit, 0x24), (Instr.hostCopy, 0x2B), (Instr.epochSet, 0x33)],
      cmdOp (headCmd s st) = p.2 → onlyFields (headCmd s st) (cmdCommon ++ cmdFields p.2) = false →
      Answers (exec (p.1 st late) s) (skipCommand st (headCmd s st) { code := 0x02 } (popCmd st s)))
    ∧ (∀ p ∈ [(Instr.nop, 0x01), (Instr.fence, 0x02)], ∀ id, cmdOp (headCmd s st) = p.2 →
      onlyFields (headCmd s st) (cmdCommon ++ cmdFields p.2) = true →
      (cmdDone (headCmd s st) = 0xFFFF ∨ isHubTok (cmdDone (headCmd s st)) = true) → (cmdWaits (headCmd s st)).all waitOk = true →
      waitWith (headCmd s st) (strmOf s st).seen (fun t => decide (t = .skipped) || decide (t = .aborted)) s = some id →
      Answers (exec (p.1 st late) s) (skipCommand st (headCmd s st) { code := 0x04, cause := id } (popCmd st s)))
    ∧ (∀ p ∈ [(Instr.groupDefine, 0x21), (Instr.groupStart, 0x22), (Instr.groupStop, 0x23), (Instr.epochSet, 0x33)],
      cmdOp (headCmd s st) = p.2 → Passes s st p.2 → s.job.opened = false →
      (p.2 = 0x21 → cw (headCmd s st) 5 ≠ 0) →
      Answers (exec (p.1 st late) s) (skipCommand st (headCmd s st) { code := 0x06 } (popCmd st s)))

/-- At the head of the stream served next, with no reserved bit set, its waits met and its own checks passed, each command
leaves the decode queue, its done token becomes PENDING, its effect happens and it completes DONE: TOKEN_SET sets the
named hub token, TOKEN_RELEASE makes the named tokens IDLE, JOB_OPEN opens the job of Table 2.10, GROUP_DEFINE gives
the group its mask, BATCH_ADMIT writes the admission words into the members' plates. SET_PROFILE sets the power
profile of its operand. (02_programs_and_streams.md R80; 02_programs_and_streams.md R77; 02_programs_and_streams.md
R83; 02_programs_and_streams.md R84; 02_programs_and_streams.md R88; 02_programs_and_streams.md R595;
14_power_clocks_thermal.md R509.) -/
def Obligations.HubCommandsCompleteAtDispatch : Prop :=
    ∀ (s : State) (st : Nat) (late : List Nat), pickStream s late = some st →
    (cmdOp (headCmd s st) = 0x01 → Passes s st 0x01 →
      Answers (exec (.nop st late) s) (atOnce st s.seqNo (headCmd s st) id (popCmd st s)))
    ∧ (cmdOp (headCmd s st) = 0x03 → Passes s st 0x03 → isHubTok (fld (headCmd s st) 128 16) = true →
        1 ≤ fld (headCmd s st) 144 4 → fld (headCmd s st) 144 4 ≤ 4 →
        ¬ ((tokOf s (fld (headCmd s st) 128 16)).st = .pending ∧ (tokOf s (fld (headCmd s st) 128 16)).held = true) →
        Answers (exec (.tokenSet st late) s) (atOnce st s.seqNo (headCmd s st)
          (setTok (fld (headCmd s st) 128 16) (tokOfCode (fld (headCmd s st) 144 4)) false) (popCmd st s)))
    ∧ (cmdOp (headCmd s st) = 0x04 → Passes s st 0x04 → (∀ i ∈ releaseRange (headCmd s st), i < 0x8400) →
        (∀ i ∈ releaseRange (headCmd s st), (tokOf s i).st ≠ .pending) →
        Answers (exec (.tokenRelease st late) s) (atOnce st s.seqNo (headCmd s st)
          (fun s' => (releaseRange (headCmd s st)).foldl (fun s i => setTok i .idle false s) s') (popCmd st s)))
    ∧ (cmdOp (headCmd s st) = 0x08 → Passes s st 0x08 → fld (headCmd s st) 128 2 ≠ 3 →
        Answers (exec (.setProfile st late) s) (setProfile s.seqNo st (headCmd s st) (popCmd st s)))
    ∧ (cmdOp (headCmd s st) = 0x10 → Passes s st 0x10 → s.job.opened = false → jobClosing s = false →
        Answers (exec (.jobOpen st late) s) (atOnce st s.seqNo (headCmd s st) (openJob (headCmd s st)) (popCmd st s)))
    ∧ (s.job.opened = true → cmdOp (headCmd s st) = 0x21 → Passes s st 0x21 → cw (headCmd s st) 5 ≠ 0 →
        (∀ c ∈ runningCls s, cw (headCmd s st) 5 / 2 ^ c % 2 ≠ 1 ∧ grpMask s (groupOf (headCmd s st)) / 2 ^ c % 2 ≠ 1) →
        Answers (exec (.groupDefine st late) s) (atOnce st s.seqNo (headCmd s st)
          (fun s' => { s' with groups := s'.groups.put (groupOf (headCmd s st)) (BitVec.ofNat 32 (cw (headCmd s st) 5)) })
          (popCmd st s)))
    ∧ (s.job.opened = true → cmdOp (headCmd s st) = 0x24 → Passes s st 0x24 → cw (headCmd s st) 7 % 8 = 0 →
        cw (headCmd s st) 7 < 0x1800000 → grpMask s (groupOf (headCmd s st)) ≠ 0 →
        cw (headCmd s st) 5 ≤ s.job.maxTokens.toNat →
        Answers (exec (.batchAdmit st late) s) (atOnce st s.seqNo (headCmd s st) (openBatch (headCmd s st)) (popCmd st s)))

/-- A NOP that passes its checks leaves the decode queue of its stream; the hub token it names as done is DONE; HBM, every
scratchpad, every plate and every scalar register are unchanged. (02_programs_and_streams.md R75;
02_programs_and_streams.md R80.) -/
def Obligations.ANopPostsItsDoneTokenAndChangesNoData : Prop :=
    ∀ (s : State) (st : Nat) (late : List Nat), pickStream s late = some st → cmdOp (headCmd s st) = 0x01 → Passes s st 0x01 →
    (∀ c ∈ s.cmds, c.no < s.seqNo) →
    ∃ t, Answers (exec (.nop st late) s) t ∧ (strmOf t st).queue = (strmOf s st).queue.tail
      ∧ (isHubTok (cmdDone (headCmd s st)) = true → (tokOf t (cmdDone (headCmd s st))).st = .done)
      ∧ t.hbm = s.hbm ∧ t.core = s.core ∧ (∀ j, (clOf t j).plates = (clOf s j).plates ∧ (clOf t j).sreg = (clOf s j).sreg)

/-- At the head of the stream served next, with its checks passed, each of these commands leaves the decode queue, is
incomplete with its done token PENDING, and its work begins: FENCE orders, JOB_CLOSE closes the job, GROUP_START
starts the members of its group and GROUP_STOP stops those that run, and SET_RECIPE, LOAD_PROGRAM, EPH_LOAD,
TILE_MOVE, STORAGE_XFER, HOST_COPY, ROUTE_LOAD, FLOW_LOAD, LEASE_LOAD, EPOCH_SET and REBLOCK begin their loads, moves
and fences (held while another epoch fence is up). (02_programs_and_streams.md R65; 02_programs_and_streams.md R83;
02_programs_and_streams.md R84; 02_programs_and_streams.md R87; 03_nordon_encoding.md R135; 06_formats_and_recipes.md
R222; 07_tiers_and_ephemeris.md R261; 08_hbm_and_storage_port.md R312; 10_meridian_fabric.md R390;
11_collectives_and_reblocking.md R406; 11_collectives_and_reblocking.md R438; 13_host_link.md R474.) -/
def Obligations.LongCommandsAreIncompleteFromDispatch : Prop :=
    ∀ (s : State) (st : Nat) (late : List Nat) (hs : List Hit), pickStream s late = some st →
    (cmdOp (headCmd s st) = 0x02 → Passes s st 0x02 →
      Answers (exec (.fence st late) s) (startCmd s.seqNo st (headCmd s st) (.fence (cmdPackage (headCmd s st))) (popCmd st s)))
    ∧ (cmdOp (headCmd s st) = 0x2B → Passes s st 0x2B → cw2 (headCmd s st) 10 % 64 = 0 →
      hostRangeBad s (cw2 (headCmd s st) 6) (cw2 (headCmd s st) 10) = false →
      hbmRangeBad (cw2 (headCmd s st) 8) (cw2 (headCmd s st) 10) = false →
      Answers (exec (.hostCopy st late) s)
        (if cw2 (headCmd s st) 10 = 0 then atOnce st s.seqNo (headCmd s st) id (popCmd st s)
         else if bit (headCmd s st) 128 then startCmd s.seqNo st (headCmd s st) .hostWrite (popCmd st s)
         else hostPump (startCmd s.seqNo st (headCmd s st) (.hostRead 0 (cw2 (headCmd s st) 10)) (popCmd st s))))
    ∧ (s.job.opened = true →
      (cmdOp (headCmd s st) = 0x11 → Passes s st 0x11 → runningCls s = [] → collInFlight s = false →
        ∃ u, Answers (exec (.jobClose st late) s) { u with free := u.free + 1 }
          ∧ u = startCmd s.seqNo st (headCmd s st) (.jobClose false) { popCmd st s with job := { s.job with opened := false } })
      ∧ (cmdOp (headCmd s st) = 0x12 → Passes s st 0x12 → runningCls s = [] → hbmRangeBad (cw2 (headCmd s st) 4) 64 = false →
        Answers (exec (.setRecipe st late hs) s)
          (loadRecipe hs s.seqNo st (headCmd s st) (startCmd s.seqNo st (headCmd s st) .waiting (popCmd st s))))
      ∧ (cmdOp (headCmd s st) = 0x20 → Passes s st 0x20 → 1 ≤ fld (headCmd s st) 144 7 →
        fld (headCmd s st) 136 6 + fld (headCmd s st) 144 7 ≤ 64 → cw2 (headCmd s st) 6 % 4096 = 0 →
        grpMask s (groupOf (headCmd s st)) ≠ 0 → cmdNoWait (headCmd s st) = false →
        (if bit (headCmd s st) 152 then hostRangeBad s (cw2 (headCmd s st) 6) (4096 * fld (headCmd s st) 144 7)
          else hbmRangeBad (cw2 (headCmd s st) 6) (4096 * fld (headCmd s st) 144 7)) = false →
        Answers (exec (.loadProgram st late hs) s)
          (beginLoad hs s.seqNo (headCmd s st) (startCmd s.seqNo st (headCmd s st) .waiting (popCmd st s))))
      ∧ (cmdOp (headCmd s st) = 0x22 → Passes s st 0x22 → grpMask s (groupOf (headCmd s st)) ≠ 0 →
        (∀ c ∈ members (headCmd s st) s, (clOf s c).prog = none ∧ (clOf s c).mapState ≠ 3) →
        Answers (exec (.groupStart st late) s)
          (((members (headCmd s st) s).zipIdx.map (fun p => (p.2, p.1))).foldl
            (fun s' rc => startMember s.seqNo st (headCmd s st) (members (headCmd s st) s).length rc s')
            (startCmd s.seqNo st (headCmd s st) (.start (members (headCmd s st) s) true) (popCmd st s))))
      ∧ (cmdOp (headCmd s st) = 0x23 → Passes s st 0x23 → grpMask s (groupOf (headCmd s st)) ≠ 0 →
        (∃ c ∈ members (headCmd s st) s, (clOf s c).prog.isSome = true) →
        Answers (exec (.groupStop st late) s)
          (((members (headCmd s st) s).filter (fun c => (clOf s c).prog.isSome)).foldl (fun s' c => trap c 5 { pc := (clOf s' c).pc } s')
            (startCmd s.seqNo st (headCmd s st) (.stop ((members (headCmd s st) s).filter (fun c => (clOf s c).prog.isSome))) (popCmd st s))))
      ∧ (cmdOp (headCmd s st) = 0x28 → Passes s st 0x28 → 1 ≤ cw (headCmd s st) 8 → cw (headCmd s st) 8 ≤ 65535 →
        hbmRangeBad (cw2 (headCmd s st) 6) (64 + 32 * cw (headCmd s st) 8) = false →
        Answers (exec (.ephLoad st late hs) s)
          (loadEph hs s.seqNo st (headCmd s st) (startCmd s.seqNo st (headCmd s st) .waiting (popCmd st s))))
      ∧ (cmdOp (headCmd s st) = 0x29 → Passes s st 0x29 → hbmRangeBad (cw2 (headCmd s st) 6) (64 * cw (headCmd s st) 8) = false →
        1 ≤ cw (headCmd s st) 8 → cw (headCmd s st) 8 ≤ 4096 →
        inSelfRefresh s (sectorsOf (cw2 (headCmd s st) 6) (64 * cw (headCmd s st) 8)) = false →
        ∃ r, r = readList hs (cw2 (headCmd s st) 6) (cw (headCmd s st) 8) (startCmd s.seqNo st (headCmd s st) .waiting (popCmd st s))
          ∧ Answers (exec (.tileMove st late hs) s)
            (setWork s.seqNo (.tileMove (fld (headCmd s st) 128 2) r.1 (cw (headCmd s st) 8) false) r.2))
      ∧ (cmdOp (headCmd s st) = 0x2A → Passes s st 0x2A → (nvCtrl s (fld (headCmd s st) 130 2)).present = true →
        hbmRangeBad (cw2 (headCmd s st) 6) (4096 * cw (headCmd s st) 10) = false →
        nsHolds s (fld (headCmd s st) 130 2) (cw (headCmd s st) 5) (cw2 (headCmd s st) 8) (cw (headCmd s st) 10) = true →
        Answers (exec (.storageXfer st late hs) s)
          (beginXfer hs s.seqNo (headCmd s st) (startCmd s.seqNo st (headCmd s st) .waiting (popCmd st s))))
      ∧ (cmdOp (headCmd s st) = 0x31 → Passes s st 0x31 → hbmRangeBad (cw2 (headCmd s st) 6) 4096 = false → fenced s = false →
        Answers (exec (.routeLoad st late hs) s)
          (loadRoute hs s.seqNo st (headCmd s st) (startCmd s.seqNo st (headCmd s st) .waiting (popCmd st s))))
      ∧ (cmdOp (headCmd s st) = 0x32 → Passes s st 0x32 → cw (headCmd s st) 4 + cw (headCmd s st) 5 ≤ 40960 →
        hbmRangeBad (cw2 (headCmd s st) 6) (192 * cw (headCmd s st) 5) = false → fenced s = false →
        Answers (exec (.flowLoad st late hs) s)
          (loadFlow hs s.seqNo st (headCmd s st) (startCmd s.seqNo st (headCmd s st) .waiting (popCmd st s))))
      ∧ (cmdOp (headCmd s st) = 0x33 → Passes s st 0x33 → epochOrder (headCmd s st) s = none → fenced s = false →
        Answers (exec (.epochSet st late) s) (takeFence (fenceOf s.seqNo (fld (headCmd s st) 128 8))
          (startCmd s.seqNo st (headCmd s st) .waiting (popCmd st s))))
      ∧ (cmdOp (headCmd s st) = 0x34 → Passes s st 0x34 → epochOrder (headCmd s st) s = none →
        planRangeBad (headCmd s st) (hitHbm hs s) = false →
        fenced s = false →
        Answers (exec (.reblock st late hs) s)
          (beginReblock hs s.seqNo st (headCmd s st) (startCmd s.seqNo st (headCmd s st) .waiting (popCmd st s)))))

/-- A cluster started by GROUP_START has the PC of the command's page and index, no loop level, s1 the cluster number, s2
its rank, s3 the group's size, s4 to s7 the command's argument words, every other scalar register zero, and a program
of the command; its tokens, plates and instruction memory are as before, and no other cluster changes.
(02_programs_and_streams.md R84.) -/
def Obligations.AMemberStartsWithItsRankAndArguments : Prop :=
    ∀ (s : State) (no st size rank cl : Nat) (w : W512), ∃ c, clOf (startMember no st w size (rank, cl) s) cl = c
      ∧ c.pc = fld w 136 6 * 256 + fld w 144 8 ∧ c.loops = [] ∧ c.seq = 1 ∧ c.trapped = false ∧ c.skipped = false
      ∧ sreg c 1 = BitVec.ofNat 64 cl ∧ sreg c 2 = BitVec.ofNat 64 rank ∧ sreg c 3 = BitVec.ofNat 64 size
      ∧ (∀ i, i < 4 → sreg c (4 + i) = BitVec.ofNat 64 (cw2 w (6 + 2 * i))) ∧ (∀ r, 8 ≤ r → sreg c r = 0) ∧ sreg c 0 = 0
      ∧ (∃ p, c.prog = some p ∧ p.cmd = no ∧ p.strm = st ∧ p.tag = cmdTag w ∧ p.ending = 0)
      ∧ c.tok = (clOf s cl).tok ∧ c.plates = (clOf s cl).plates ∧ c.imem = (clOf s cl).imem
      ∧ (∀ j, j ≠ cl → clOf (startMember no st w size (rank, cl) s) j = clOf s j)
      ∧ (∀ k, (coreOf (startMember no st w size (rank, cl) s) k).mem = (coreOf s k).mem)

/-- FENCE_COMPLETE completes a FENCE whose ordered commands have all completed and nothing else; JOB_CLOSE_ZEROING, with
no ledger entry filling or draining, takes the actions that close the job; JOB_CLOSE_DONE after it zeroes every
scratchpad, plate array and instruction memory and completes the command; LOAD_PROGRAM_PAGE_WRITE of a page that has
arrived and is not in use writes its 4,096 bytes into the member; HOST_READ_COMPLETION lands the bytes of its request,
a failed or timed-out read fails its command; HOST_COPY_WRITTEN of good sectors sends the bytes to the host and
completes, and with a failing sector it sends what was issued before, records every failing sector among those read,
and aborts. (02_programs_and_streams.md R65; 02_programs_and_streams.md R80; 07_tiers_and_ephemeris.md R267;
02_programs_and_streams.md R595; 03_nordon_encoding.md R135; 13_host_link.md R474.) -/
def Obligations.IncompleteCommandsComplete : Prop :=
    (∀ (s : State) (no : Nat) (c : CmdRec) (pkg : Bool), findCmd s no = some c → c.work = .fence pkg →
      (fenceMet s c pkg = true → Answers (exec (.fenceComplete no) s) (completeCmd no .done s))
      ∧ (fenceMet s c pkg = false → Answers (exec (.fenceComplete no) s) s))
    ∧ (∀ (s : State) (no : Nat) (c : CmdRec), findCmd s no = some c → c.work = .jobClose false → ledgerBusy s = false →
      Answers (exec (.jobCloseZeroing no) s) (setWork no (.jobClose true) (closeJob (cmdDone c.word) s)))
    ∧ (∀ (s : State) (no : Nat) (c : CmdRec), findCmd s no = some c → c.work = .jobClose true →
      Answers (exec (.jobCloseDone no) s) (completeCmd no .done (zeroMemories s))
      ∧ (∀ k a, (coreOf (zeroMemories s) k).mem.read a = 0)
      ∧ (∀ k a, (clOf (zeroMemories s) k).plates.read a = 0 ∧ (clOf (zeroMemories s) k).imem.read a = 0)
      ∧ (zeroMemories s).hbm = s.hbm)
    ∧ (∀ (s : State) (no cl page src next : Nat) (c : CmdRec) (left : List (Nat × Nat × Nat)) (arrived : Tab (List Byte)) (bad : Bool)
        (bs : List Byte), findCmd s no = some c → c.work = .load left next arrived bad →
      left.find? (fun l => l.1 = cl ∧ l.2.1 = page) = some (cl, page, src) → pageInUse (clOf s cl) page = false →
      pageBytes arrived src = some bs →
      Answers (exec (.loadProgramPageWrite no cl page) s)
        (loadEnds no (writePage cl page bs (setWork no (.load (left.erase (cl, page, src)) next arrived bad) s))))
    ∧ (∀ (s : State) (tag no off len status : Nat) (data : List Byte), s.hreq.find tag = some (no, off, len) →
      Answers (exec (.hostReadCompletion tag status data) s)
        (hostPump (if status = 0 then readArrives no off (padTo len data) { s with hreq := s.hreq.del tag }
          else readFails no off { s with hreq := s.hreq.del tag }))
      ∧ Answers (exec (.hostReadTimeout tag) s) (hostPump (readFails no off { s with hreq := s.hreq.del tag })))
    ∧ (∀ (s : State) (no issued reads : Nat) (c : CmdRec) (hs : List Hit), findCmd s no = some c → c.work = .hostWrite → mayRequest s = true →
      inSelfRefresh s (sectorsOf (cw2 c.word 8) (cw2 c.word 10)) = false →
      ((readUntracked 5 (sectorsOf (cw2 c.word 8) (cw2 c.word 10)) (hitHbm hs s)).1 = [] →
        Answers (exec (.hostCopyWritten no issued reads hs) s)
          (completeCmd no .done (writeHost (cw2 c.word 8) (cw2 c.word 6) (cw2 c.word 10) (hitHbm hs s))))
      ∧ (∀ n rest, (readUntracked 5 (sectorsOf (cw2 c.word 8) (cw2 c.word 10)) (hitHbm hs s)).1 = n :: rest →
        issued ≤ (64 * n - cw2 c.word 8) / 512 → 64 * n - cw2 c.word 8 < 64 * reads → 64 * reads ≤ cw2 c.word 10 →
        Answers (exec (.hostCopyWritten no issued reads hs) s) (completeCmd no .aborted
          (readUntracked 5 (sectorsOf (cw2 c.word 8) (64 * reads))
            (writeHost (cw2 c.word 8) (cw2 c.word 6) (512 * issued) (hitHbm hs s))).2)))

/-- LEVENT_RECEIVE takes the LEVENT at the head of a cluster's tile queue that is not held and records its event for a
cluster of the mask, holding that cluster after the trigger of the END entry. EVENT_FIRE fires an event received from
every cluster of CLUSTER_MASK. ENTRY_ISSUE of the entry at the cursor, its trigger fired, no stack it needs in
self-refresh and no sag holding it, advances the cursor, and at the END entry sets it to 0, clears the fired events
and adds 1 to the die step modulo 2^24. LEVENT_RELEASE completes a received LEVENT that no entry's need still holds.
EPHEMERIS_TAKE begins the oldest checked ephemeris at entry 0 with its STEP_START, and completes its EPH_LOAD.
(07_tiers_and_ephemeris.md R261; 07_tiers_and_ephemeris.md R262; 07_tiers_and_ephemeris.md R263;
07_tiers_and_ephemeris.md R264; 07_tiers_and_ephemeris.md R266.) -/
def Obligations.LayerEventsFireAndReleaseClusters : Prop :=
    (∀ (s : State) (cl : Nat) (u : UIns) (rest : List UIns), cl < 32 → (clOf s cl).mover = u :: rest → iOp u.word = 4 →
      heldCl (dieOf s (cl / 8)) cl = false →
      ∃ t, Answers (exec (.leventReceive cl) s) t
        ∧ clOf t cl = { clOf s cl with mover := rest, levents := (clOf s cl).levents ++ [(u.iid, iI0 u.word, iX u.word 96 2, (dieOf s (cl / 8)).stepNo)] }
        ∧ (∀ e, (dieOf s (cl / 8)).eph = some e → e.mask / 2 ^ (cl % 8) % 2 = 1 →
            (cl, iI0 u.word, iX u.word 96 2) ∈ (dieOf t (cl / 8)).received
            ∧ (heldCl (dieOf t (cl / 8)) cl = true ↔ eTrig ((e.entries.getLast?).getD []) = (iI0 u.word, iX u.word 96 2)))
        ∧ (∀ e, (dieOf s (cl / 8)).eph = some e → e.mask / 2 ^ (cl % 8) % 2 ≠ 1 → t.die = s.die)
        ∧ ((dieOf s (cl / 8)).eph = none → t.die = s.die) ∧ t.hbm = s.hbm ∧ t.core = s.core ∧ t.tok = s.tok)
    ∧ (∀ (s : State) (d ev ph : Nat) (e : Eph), d < 4 → (dieOf s d).eph = some e → (ev, ph) ∉ (dieOf s d).fired →
      (∀ c ∈ maskLanes e.mask, (8 * d + c, ev, ph) ∈ (dieOf s d).received) →
      Answers (exec (.eventFire d ev ph) s)
        (setDie s d { dieOf s d with fired := (dieOf s d).fired ++ [(ev, ph)], lastEvent := ev, lastPhase := ph }))
    ∧ (∀ (s : State) (d : Nat) (hs : List Hit) (e : Eph) (en : List W32), d < 4 → (dieOf s d).eph = some e →
      e.entries[(dieOf s d).cursor]? = some en → (dieOf s d).ephState ≠ 3 → (dieOf s d).endIssued = false →
      eTrig en ∈ (dieOf s d).fired → inSelfRefresh s (sectorsOf (eAddr en) (64 * eCount en)) = false →
      prefetchHeld s d e.mask en = false →
      ∃ t, Answers (exec (.entryIssue d hs) s) t
        ∧ (eCount en ≠ 0 → ∃ r ∈ (dieOf t d).runs, r.idx = (dieOf s d).cursor ∧ r.left = eCount en
            ∧ r.todo = (readList hs (eAddr en) (eCount en) s).1)
        ∧ (eEnd en = false → (dieOf t d).cursor = (dieOf s d).cursor + 1 ∧ (dieOf t d).fired = (dieOf s d).fired
            ∧ (dieOf t d).step = (dieOf s d).step)
        ∧ (eEnd en = true → (dieOf t d).cursor = 0 ∧ (dieOf t d).fired = [] ∧ (dieOf t d).received = []
            ∧ (dieOf t d).step = ((dieOf s d).step + 1) % 2 ^ 24)
        ∧ t.cl = s.cl ∧ t.core = s.core ∧ t.tok = s.tok)
    ∧ (∀ (s : State) (cl iid ev ph no : Nat), cl < 32 → (clOf s cl).levents.find? (fun l => l.1 = iid) = some (iid, ev, ph, no) →
      needWaits (dieOf s (cl / 8)) cl ev ph no = false →
      Answers (exec (.leventRelease cl iid) s)
        (laneDone cl iid 8 (setCl s cl { clOf s cl with levents := (clOf s cl).levents.filter (fun k => decide (k.1 ≠ iid)) })))
    ∧ (∀ (s : State) (d no : Nat) (e : Eph) (more : List (Eph × Nat)), d < 4 → (dieOf s d).ephNext = (e, no) :: more →
      ((dieOf s d).eph = none ∨ (dieOf s d).ephState = 3 ∨ (dieOf s d).endIssued = true) →
      ∃ u, Answers (exec (.ephemerisTake d) s) (completeCmd no .done u) ∧ (dieOf u d).eph = some e ∧ (dieOf u d).ephNext = more
        ∧ (dieOf u d).cursor = 0 ∧ (dieOf u d).fired = [] ∧ (dieOf u d).received = [] ∧ (dieOf u d).step = e.stepStart
        ∧ (dieOf u d).held = 0 ∧ (dieOf u d).ephState = 1 ∧ u.cl = s.cl ∧ u.hbm = s.hbm)

/-- LEDGER_ACCEPT takes the next record of the source whose turn it is; a record that breaks R255 ends BAD_REQUEST, one of
a failed mover FAILED. SOURCE_READ_END of a source that reads good, once staging is reserved, stages its lines and
drops the read of the source entry, or begins the write-back to the storage port. FILL_END lands the staged lines in
the tier and ends the waiters DONE, or RECOVERED after a recovery; a line whose landing failed three times fails the
tile, and the record names that line. DRAIN_END of a copy that reads good writes it to the target and ends its
waiters, or fails as FILL_END does. SOURCE_ERROR records every failing sector among those issued and runs the recovery
of the entry that holds the source. RECOVERY_END fails the entry where nothing usable was obtained; otherwise it lands
and rereads it, and ends as the reread does. LDG_RESUPPLY marks a HOST recovery supplied or fails it, RESUPPLY_TIMEOUT
fails it. (07_tiers_and_ephemeris.md R255; 07_tiers_and_ephemeris.md R256; 07_tiers_and_ephemeris.md R258;
07_tiers_and_ephemeris.md R271; 07_tiers_and_ephemeris.md R272; 07_tiers_and_ephemeris.md R274;
07_tiers_and_ephemeris.md R276; 09_proofing.md R318.) -/
def Obligations.MovesRunFromAcceptanceToTheirEnd : Prop :=
    (∀ (s : State) (d k : Nat) (late : List Nat) (hs : List Hit), d < 4 → s.pwr.sagStage < 5 → pickSource s d late = some k →
      ∃ u, u = setDie s d { dieOf s d with rrLast := k }
        ∧ Answers (exec (.ledgerAccept d late hs) s) (ungateTiles d (ledgerGo (if k = 0 then acceptEph d u
            else if k ≤ 8 then acceptTmove d (8 * d + k - 1) hs u else if k = 9 then acceptCmd d u else acceptRead d (k - 10) u)))
        ∧ (∀ i mask before w ctl idx, recordOk u mask w ctl = false → ∃ r : Req, r.issuer = i ∧ r.idx = idx ∧ r.ctl = ctl
            ∧ acceptRecord d i mask before (some (w, ctl)) idx u = endReq r 5 u)
        ∧ (∀ i mask before w ctl idx, recordOk u mask w ctl = true → (dieOf u d).mover.st = 2 → ∃ r : Req, r.issuer = i ∧ r.idx = idx
            ∧ r.ctl = ctl ∧ acceptRecord d i mask before (some (w, ctl)) idx u = endReq r 2 u))
    ∧ (∀ (s u : State) (d i d' i' t : Nat) (hs : List Hit) (e : LEntry) (ls : List (List Byte × Nat)) (v : W32), d < 4 →
      u = stageDie d s → readHeld u d i = false → readNow (hitHbm hs u) d i = some (.lines ls, (d', i'), t, v) →
      entryOf (hitHbm hs u) d i = some e →
      (e.fill = true → Answers (exec (.sourceReadEnd d i hs) s)
        (ledgerGo ((if t = 3 then clearStaged d i else dropRead d' i')
          (setEntry d { e with staged := some ls, src := .none } (hitHbm hs u)))))
      ∧ (∀ r, e.fill = false → drainOf (hitHbm hs u) d e = some r →
        Answers (exec (.sourceReadEnd d i hs) s) (drainFlash d e r ls (hitHbm hs u))))
    ∧ (∀ (s : State) (d i : Nat) (bad : List Nat) (e : LEntry) (ls : List (List Byte × Nat)), d < 4 → entryOf s d i = some e →
      e.staged = some ls → e.fill = true → e.recov = 0 → inSelfRefresh s (copySectors e) = false →
      (lostLine bad ls.length = none → Answers (exec (.fillEnd d i bad) s)
          (ledgerGo (fillDone d e (if e.recovered = true then 1 else 0) (landTier d e.tier e.cl e.lanes e.addr e.ver ls
            (countMoverRepeat d (moreMoves (movedBad bad ls.length)) s)))))
      ∧ (∀ n, lostLine bad ls.length = some n → Answers (exec (.fillEnd d i bad) s)
          (ledgerGo (failTile d i 2 (moverFails d (e.addr / 64 + n) ((tierBelow e.desc e.tier).getD 3)
            (countMoverRepeat d (moreMoves (movedBad bad ls.length)) s)))))
      ∧ (∀ (n : Nat) (data : List Byte) (tag : Nat), ls = [(data, tag)] → data.length = 64 → s.hbm.wf = true → n ∉ s.hbmLost → 2 ≤ e.tier →
          sectorData (landTier d e.tier e.cl e.lanes (64 * n) e.ver ls s) n = data
          ∧ sectorCk (landTier d e.tier e.cl e.lanes (64 * n) e.ver ls s) n = checkWord n data e.ver tag))
    ∧ (∀ (s u : State) (d i : Nat) (bad : List Nat) (e : LEntry) (r : Req) (out : Nat), d < 4 → u = stageDie d s →
      entryOf u d i = some e → drainOf u d e = some r → (e.state = .draining → e.reads = 0) → e.stage = true →
      out = (if (e.state = .draining ∧ e.evRec = true) ∨ (e.state ≠ .draining ∧ 0 < e.wbRec) then 1 else 0) →
      (drainTo e r = 3 → e.wbRun = true → (∀ c ∈ u.stp.cmds, c.use ≠ .tile d i true) →
        Answers (exec (.drainEnd d i bad) s) (ledgerGo (drainDone d e out u)))
      ∧ (∀ ls, drainTo e r ≠ 3 →
        (drainTo e r = 2 → inSelfRefresh u ((List.range (dLines e.desc)).map (fun k => dAddr r.w 2 / 64 + k)) = false) →
        readCopy u d e r = .lines ls →
        (lostLine bad ls.length = none → Answers (exec (.drainEnd d i bad) s) (ledgerGo (drainDone d e out
          (landTier d (drainTo e r) (ctlCluster r.ctl) 0 (dAddr r.w (drainTo e r)) r.ver ls
            (countMoverRepeat d (moreMoves (movedBad bad ls.length)) u)))))
        ∧ (∀ n, lostLine bad ls.length = some n → Answers (exec (.drainEnd d i bad) s) (ledgerGo (drainDone d e 2
          (moverFails d (dAddr r.w (drainTo e r) / 64 + n) e.tier (countMoverRepeat d (moreMoves (movedBad bad ls.length)) u)))))))
    ∧ (∀ (s u : State) (d i d' i' t first issued : Nat) (hs : List Hit) (e f : LEntry) (bad : List (Nat × Nat)) (v : W32), d < 4 →
      u = stageDie d s → readHeld u d i = false → readNow (hitHbm hs u) d i = some (.sectors bad, (d', i'), t, v) →
      entryOf (hitHbm hs u) d i = some e →
      (∀ q a b, e.src = .entry q a b → ∃ g, entryOf (hitHbm hs u) a b = some g ∧ first = g.addr / 64) →
      ((∀ q a b, e.src ≠ .entry q a b) → first = e.addr / 64) → (t ≠ 3 → bad ≠ []) → (∀ p ∈ bad, p.1 < first + issued) →
      entryOf (recordBad bad v e.tile (hitHbm hs u)) d' i' = some f →
      Answers (exec (.sourceError d i issued hs) s) (ledgerGo (recover d' f t (recordBad bad v e.tile (hitHbm hs u)))))
    ∧ (∀ (s : State) (d i : Nat) (hs : List Hit) (e : LEntry), d < 4 → entryOf s d i = some e →
      inSelfRefresh s ((List.range (dLines e.desc)).map (fun k => dAddr e.desc 2 / 64 + k)) = false →
      (obtained s d e = some none → Answers (exec (.recoveryEnd d i hs) s) (ledgerGo (recoveryFails d e 2 (clearStaged d i s))))
      ∧ (∀ ls v u, obtained s d e = some (some (ls, v)) →
          u = hitHbm hs (if e.recov = 5 then clearStaged d i s else landHbm (dAddr e.desc 2) v ls (clearStaged d i s)) →
          (∀ m, readHbm u (dAddr e.desc 2) (dLines e.desc) e.ver = .lines m →
            Answers (exec (.recoveryEnd d i hs) s) (ledgerGo (recoverySucceeds d e u)))
          ∧ (∀ bad, readHbm u (dAddr e.desc 2) (dLines e.desc) e.ver = .sectors bad →
            Answers (exec (.recoveryEnd d i hs) s) (ledgerGo (recoveryFails d e 2 (recordBad bad e.ver e.tile u))))))
    ∧ (∀ (s : State) (d i : Nat) (e : LEntry), d < 4 → entryOf s d i = some e → e.recov = 5 → e.supplied = false →
      Answers (exec (.resupplyTimeout d i) s) (ledgerGo (recoveryFails d e 2 s))
      ∧ (HostReaches s → i < 2048 →
          Answers (exec (.ldgResupply d i true) s) (setEntry d { e with supplied := true } s)
          ∧ Answers (exec (.ldgResupply d i false) s) (ledgerGo (recoveryFails d e 2 s))))

/-- From a host that reaches the package, BAR2_READ of an address below the end of HBM whose sectors pass returns their
bytes, and of a failing sector returns them poisoned and counted; BAR2_WRITE of a whole sector replaces it with the
check word of VTAG and STAG. HBM_XFER_CTRL_WRITE sets the four fields, and a STAG above 4 changes nothing and is
recorded. HBM_PARITY_ERROR of a replay that succeeds adds the replays to PARITY; when the third fails, a stack fault
is recorded, and the sector reads as failed (a read) or holds no sector that passes (a write). STACK_TEMPERATURE above
85 halves the refresh interval, above 95 the issue rate. SELF_REFRESH_TIMEOUT discards the oldest held BAR2 write, or
poisons a held read. (08_hbm_and_storage_port.md R292; 08_hbm_and_storage_port.md R296; 08_hbm_and_storage_port.md
R297; 08_hbm_and_storage_port.md R301; 08_hbm_and_storage_port.md R302; 08_hbm_and_storage_port.md R303;
08_hbm_and_storage_port.md R304; 08_hbm_and_storage_port.md R305.) -/
def Obligations.UntrackedAccessesReachHbm : Prop :=
    (∀ (s : State) (off len : Nat) (hs : List Hit), HostReaches s → off + len ≤ 2 ^ s.pci.bar2Log2 → bar2Addr s off + len ≤ hbmEnd →
      inSelfRefresh s (sectorsOf (bar2Addr s off) len) = false →
      ∃ r, r = readUntracked 3 (sectorsOf (bar2Addr s off) len) (hitHbm hs s)
        ∧ (r.1 = [] → Answers (exec (.bar2Read off len hs) s)
            (emit (.memData ((hitHbm hs s).hbm.bytes (bar2Addr s off) len) false) r.2))
        ∧ (r.1 ≠ [] → Answers (exec (.bar2Read off len hs) s)
            (emit (.memData ((hitHbm hs s).hbm.bytes (bar2Addr s off) len) true)
              { r.2 with xferPoisoned := satInc 0xFFFFFFFF r.2.xferPoisoned })))
    ∧ (∀ (s : State) (off n : Nat) (data : List Byte), HostReaches s → off + 64 ≤ 2 ^ s.pci.bar2Log2 → bar2Addr s off = 64 * n →
      64 * n + 64 ≤ hbmEnd → data.length = 64 → inSelfRefresh s [n] = false → s.hbm.wf = true → n ∉ s.hbmLost →
      ∃ t, Answers (exec (.bar2Write off data []) s) t ∧ sectorData t n = data ∧ sectorCk t n = checkWord n data s.xferVtag s.xferStag
        ∧ (∀ a, (a < 64 * n ∨ 64 * n + 64 ≤ a) → t.hbm.read a = s.hbm.read a) ∧ (∀ m, m ≠ n → sectorCk t m = sectorCk s m)
        ∧ t.cl = s.cl ∧ t.core = s.core ∧ t.tok = s.tok ∧ t.die = s.die ∧ t.recs = s.recs)
    ∧ (∀ (s : State) (v : W64), HostReaches s →
      (fld v 36 3 ≤ 4 → ∃ t, Answers (exec (.hbmXferCtrlWrite 2 v) s) t ∧ t.xferVtag = v.setWidth 32 ∧ t.xferCheck = fld v 32 2
        ∧ t.xferStag = fld v 36 3 ∧ t.bar2Base = fld v 40 10 ∧ SameData s t)
      ∧ (4 < fld v 36 3 → ∃ u, Answers (exec (.hbmXferCtrlWrite 2 v) s) (regAccess 6 0x300 8 true v u)
        ∧ u.xferVtag = s.xferVtag ∧ u.xferCheck = s.xferCheck ∧ u.xferStag = s.xferStag ∧ u.bar2Base = s.bar2Base ∧ SameData s u))
    ∧ (∀ (s : State) (k sector n : Nat) (write : Bool), k < 12 → sectorStack sector = k → 64 * sector < hbmEnd → 1 ≤ n → n ≤ 3 →
      Answers (exec (.hbmParityError k sector n write false) s)
        (setStack s k { stackOf s k with nParity := min 0xFFFF ((stackOf s k).nParity + n) })
      ∧ (∀ u, u = stackFault k (setStack s k { stackOf s k with nParity := min 0xFFFF ((stackOf s k).nParity + 3) }) →
        Answers (exec (.hbmParityError k sector 3 false true) s) { u with hbmFlag := u.hbmFlag.put sector 2 }
        ∧ Answers (exec (.hbmParityError k sector 3 true true) s) { u with hbmLost := u.hbmLost ++ [sector] }))
    ∧ (∀ (s : State) (k : Nat) (t : Int), k < 12 → -128 ≤ t → t ≤ 105 →
      Answers (exec (.stackTemperature k t) s) (setStack s k { stackOf s k with
        temp := (t % 256).toNat, refresh2x := decide (85 < t), throttle := decide (95 < t) }))
    ∧ (∀ (s : State) (no off len : Nat) (data : List Byte) (rest : List Held), s.bar2Held = ⟨true, off, len, data⟩ :: rest →
      ∃ t, Answers (exec (.selfRefreshTimeout 0 no) s) t ∧ t.bar2Held = rest ∧ t.hbm = s.hbm ∧ t.hbmCk = s.hbmCk ∧ t.out = s.out
        ∧ (s.xferDiscarded < 0xFFFFFFFE → s.xferDiscarded ≤ t.xferDiscarded ∧ (len % 64 = 0 → 0 < len → bar2Addr s off % 64 = 0 → t.xferDiscarded = s.xferDiscarded)))
    ∧ (∀ (s : State) (no off len : Nat) (data : List Byte) (rest : List Held), s.bar2Held = ⟨false, off, len, data⟩ :: rest →
      ∃ t bs, Answers (exec (.selfRefreshTimeout 0 no) s) t ∧ t.bar2Held = rest ∧ t.hbm = s.hbm ∧ t.out = .memData bs true :: s.out
        ∧ bs.length = len ∧ t.xferPoisoned = satInc 0xFFFFFFFF s.xferPoisoned)

/-- NVME_COMPLETION with status 0 of a command in flight that is not being aborted removes it and serves what it was for;
with another status, or of one being aborted, the failure is recorded with a log-page read. NVME_TIMEOUT marks the
command as being aborted, and its Abort goes to the admin queue when that has room. NVME_ABORT_TIMEOUT, once the Abort
was sent, resets the controller and fails its commands in flight. CONTROLLER_RESET_END sends the commands that
recreate the queues, or counts a failure, the third of which makes the controller absent. STAGING_VIOLATION is
recorded. (08_hbm_and_storage_port.md R311; 08_hbm_and_storage_port.md R312; 08_hbm_and_storage_port.md R313;
08_hbm_and_storage_port.md R314.) -/
def Obligations.NvmeCommandsEndAndControllersReset : Prop :=
    (∀ (s : State) (ctrl id status : Nat) (data : List Byte) (c : NvCmd),
      s.stp.cmds.find? (fun c => c.ctrl = ctrl ∧ c.id = id ∧ c.sent) = some c →
      (status = 0 → c.aborting = false →
        Answers (exec (.nvmeCompletion ctrl id status data) s) (ledgerGo (nvPump (nvmeGood c data (nvDone id s)))))
      ∧ (status ≠ 0 ∨ c.aborting = true →
        Answers (exec (.nvmeCompletion ctrl id status data) s)
          (ledgerGo (nvPump (emit (.nvmeAdmin ctrl 0x02 0) (nvmeBad c (nvDone id s))))))
      ∧ ((∀ k ∈ (nvDone id s).stp.cmds, k.id ≠ id) ∧ (nvDone id s).hbm = s.hbm))
    ∧ (∀ (s : State) (ctrl id : Nat) (c : NvCmd),
      s.stp.cmds.find? (fun c => c.ctrl = ctrl ∧ c.id = id ∧ c.sent ∧ !c.aborting) = some c →
      Answers (exec (.nvmeTimeout ctrl id) s) (nvPump { s with stp := { s.stp with
        cmds := s.stp.cmds.map (fun k => if k.id = id then { k with aborting := true } else k) } }))
    ∧ (∀ (s : State) (ctrl id : Nat) (c : NvCmd),
      s.stp.cmds.find? (fun c => c.ctrl = ctrl ∧ c.id = id ∧ c.sent ∧ c.abortSent) = some c →
      ∃ u, Answers (exec (.nvmeAbortTimeout ctrl id) s) (ledgerGo (failOutstanding ctrl false u))
        ∧ nvCtrl u ctrl = { nvCtrl s ctrl with inReset := true, cc := 0, pairs := 0 }
        ∧ u.out = .nvmeAdmin ctrl 0x100 0 :: s.out ∧ u.stp.cmds = s.stp.cmds)
    ∧ (∀ (s : State) (ctrl : Nat), (nvCtrl s ctrl).inReset = true →
      Answers (exec (.controllerResetEnd ctrl true) s)
          (ledgerGo (nvPump (setNvCtrl (nvQueues.foldl (fun s x => emit (.nvmeAdmin ctrl x.1 x.2) s) s) ctrl
            { nvCtrl s ctrl with inReset := false, resets := 0, cc := nvCc, pairs := 5 })))
      ∧ ((nvCtrl s ctrl).resets < 2 → Answers (exec (.controllerResetEnd ctrl false) s)
          (emit (.nvmeAdmin ctrl 0x100 0) (setNvCtrl s ctrl { nvCtrl s ctrl with resets := (nvCtrl s ctrl).resets + 1 })))
      ∧ (2 ≤ (nvCtrl s ctrl).resets → ∃ u, Answers (exec (.controllerResetEnd ctrl false) s) (ledgerGo (failOutstanding ctrl true u))
          ∧ (nvCtrl u ctrl).present = false ∧ (nvCtrl u ctrl).inReset = false ∧ (∀ n, nsBlocks u ctrl n = none)))
    ∧ (∀ (s : State) (ctrl : Nat), (nvCtrl s ctrl).present = true →
      ∃ t, Answers (exec (.stagingViolation ctrl) s) t ∧ t.out = .nvmeAdmin ctrl 0x101 0 :: s.out ∧ t.stp = s.stp
        ∧ t.recs = s.recs.add (mkRec { unit := 0x4FFC0001#32, cls := 0x0307 } s) ∧ t.hbm = s.hbm ∧ t.cmds = s.cmds)

/-- ADDRESS_SLOT under phase lock adds 1 to S modulo 1,024 and each locked plane in service carries its slot's cell: the
first in class order for the package at offset t + 8p, a TEST cell in its own slot, or an IDLE cell.
SUPERFRAME_BOUNDARY makes the next slot 0, applies the mask of the last ADDR_SET and, on the coordinator, every fourth
time, sends each package of the domain a BEACON and an ADDR_SET twice. ADDR_SET sets mask and calibrated plane for the
next boundary, ADDR_REPORT changes the planes reported down, the BEACON of a lower id, or the first heard, sets the
coordinator, and the coordinator's sets the address-plane count and is answered with TIMING; TIMING is answered or
gives the offset, COORDINATOR_TIMEOUT chooses the lowest id, ADDR_PLANE_CALIBRATION takes the next plane, and
SILENCE_MUTE and MUTE_RESUME mute a slot and resume it. (10_meridian_fabric.md R364; 10_meridian_fabric.md R365;
10_meridian_fabric.md R366; 10_meridian_fabric.md R367; 10_meridian_fabric.md R369; 10_meridian_fabric.md R371;
10_meridian_fabric.md R397; 10_meridian_fabric.md R399; 10_meridian_fabric.md R400.) -/
def Obligations.TheAddressScheduleRuns : Prop :=
    (∀ s : State, s.mer.phaseLock = true →
      ∃ u, u = { s with mer := { s.mer with slot := (s.mer.slot + 1) % 1024 } }
        ∧ Answers (exec .addressSlot s) ((List.range (planeCount u)).foldl (fun s p => sendSlot p s) u))
    ∧ (∀ (s : State) (p k : Nat), (linkOf s p).state = 1 → (linkOf s p).txLock = true → slotOffset s p = some k →
      (k = 0 → ∃ bs u, sendSlot p s = sendOn p { idleCell s p (ownGid s) with typ := 5, lines := [bs] } [] u ∧ u.mer = s.mer)
      ∧ (∀ gid, gid = 64 * s.boot.domain + (s.boot.device + k) % 64 → k ≠ 0 → s.mer.unsure = false →
        (p, (s.boot.device + k) % 64) ∉ s.mer.muted →
        (∀ t, slotCell s p gid = some t → t.cls ≠ 5 → sendSlot p s = sendOn p t.cell [] (takeTx t s))
        ∧ (slotCell s p gid = none → returnCell s (linkDie p) gid = none → sendSlot p s = sendOn p (idleCell s p gid) [] s)))
    ∧ (∀ (s : State) (p : Nat), planeOut s p = false → (s.mer.planes16 = true ∨ planeOut s ((p + 7) % 8) = false ∨ s.mer.slot / 8 % 2 = 0) →
      slotOffset s p = some ((s.mer.slot % 8 + 8 * p) % 64))
    ∧ (∀ s : State, s.mer.phaseLock = true →
      ∃ t, Answers (exec .superframeBoundary s) t ∧ t.mer.slot = 1023 ∧ t.mer.superframe = (s.mer.superframe + 1) % 4
        ∧ (s.mer.coordinator = false → t.mer.addrNext = none)
        ∧ t.mer.addrOut = s.mer.addrNext.getD s.mer.addrOut ∧ t.hbm = s.hbm ∧ t.cl = s.cl
        ∧ (s.mer.coordinator = true → (s.mer.superframe + 1) % 4 = 0 → ∀ i, i < 64 → i ≠ s.boot.device →
            (∃ x ∈ t.mer.tx, x.cell = controlCell s (64 * s.boot.domain + i) 0x0B [if s.job.planes16 = true then 16 else 8])
            ∧ (∀ h, h < 2 → ∃ x ∈ t.mer.tx, x.half = some h ∧ x.cell.dst = 64 * s.boot.domain + i ∧ pNat x.cell 0 1 = 9)))
    ∧ (∀ (s : State) (p : Nat) (c : Cell), (ControlCell s p c 9 → s.mer.coordinator = false → c.src = 64 * s.boot.domain + s.mer.coordId →
        Answers (exec (.addrSet p c) s) { s with mer := { s.mer with
          addrNext := some (pNat c 8 2), calPlane := pNat c 10 1, setSeen := true, unsure := false } })
      ∧ (ControlCell s p c 8 → s.mer.coordinator = true → pNat c 12 1 < planeCount s →
        ∃ t, Answers (exec (.addrReport p c) s) t
          ∧ (∀ q, q ∈ t.mer.reports ↔ (q ∈ s.mer.reports ∧ q ≠ pNat c 12 1) ∨ (q = pNat c 12 1 ∧ pNat c 13 1 ≠ 1))
          ∧ t.mer.setDue = true ∧ t.mer.addrOut = s.mer.addrOut ∧ t.mer.link = s.mer.link)
      ∧ (ControlCell s p c 11 → ownDomain s c.src = true → c.src % 64 ≠ s.boot.device →
        ∃ t, Answers (exec (.beacon p c) s) t
          ∧ t.mer.coordId = (if s.mer.coordSeen = false ∨ c.src % 64 < s.mer.coordId then c.src % 64 else s.mer.coordId)
          ∧ ((s.mer.coordSeen = false ∨ c.src % 64 < s.mer.coordId ∨ (c.src % 64 = s.mer.coordId ∧ s.mer.coordinator = false)) →
              t.mer.coordinator = false ∧ t.mer.beacon16 = decide (pNat c 8 1 = 16) ∧ t.mer.unsure = !s.mer.setSeen
              ∧ ∃ x ∈ t.mer.tx, x.cell.dst = c.src ∧ pNat x.cell 0 1 = 10))
      ∧ (∀ off, ControlCell s p c 10 → (s.mer.coordinator = false → c.src = 64 * s.boot.domain + s.mer.coordId →
          Answers (exec (.timing p c off) s) (setLink s p { linkOf s p with domOff := off % 65536 }))
        ∧ (s.mer.coordinator = true → Answers (exec (.timing p c off) s) (sendTiming c.src (((payload c).drop 8).take 8) s))))
    ∧ (∀ (s : State) (heard : List Nat), s.mer.coordinator = false → s.mer.phaseLock = true →
      ∃ t, Answers (exec (.coordinatorTimeout heard) s) t
        ∧ t.mer.coordId = (heard.filter (fun i => decide (i < 64))).foldl min s.boot.device
        ∧ t.mer.coordinator = decide ((heard.filter (fun i => decide (i < 64))).foldl min s.boot.device = s.boot.device))
    ∧ (∀ s : State, s.mer.coordinator = true → s.mer.addrOut = 0 → s.mer.reports = [] → s.mer.calPlane = 0xFF →
      ∃ t, Answers (exec .addrPlaneCalibration s) t ∧ t.mer.calPlane = s.mer.calTurn % planeCount s
        ∧ t.mer.calTurn = (s.mer.calTurn % planeCount s + 1) % planeCount s ∧ t.mer.setDue = true ∧ t.mer.link = s.mer.link)
    ∧ (∀ (s : State) (plane dev : Nat), plane < planeCount s → dev < 64 → (plane, dev) ∉ s.mer.muted →
      ∃ t, Answers (exec (.silenceMute plane dev) s) t ∧ (∀ m, m ∈ t.mer.muted ↔ m = (plane, dev) ∨ m ∈ s.mer.muted) ∧ t.mer.link = s.mer.link)
    ∧ (∀ (s : State) (plane dev : Nat), ∃ t, Answers (exec (.muteResume plane dev) s) t
      ∧ (∀ m, m ∈ t.mer.muted ↔ m ≠ (plane, dev) ∧ m ∈ s.mer.muted) ∧ t.mer.link = s.mer.link)

/-- DATA_CELL with a wrong plane or destination counts and is a mislock, one for elsewhere is relayed, one without
permission counts, a duplicate is acknowledged and counted, one for a quiet context counted, one for no context or
another epoch refused; a good one of an FPUT, ring, shard, fetch or permute context is taken by its context.
BARRIER_CELL of the expected sender keeps its round, ABORT_CELL of a new serial aborts its flow or group and passes it
on, TEST_CELL confirms the source's id, UNKNOWN_CELL_TYPE counts. ACK, CREDIT, LOST and MISROUTE entries and RETURN
cells act on cells sent, credit and links. PERIOD_LOST counts the period and owes LOST to its sender; LEASED_BLOCK
sends, with up to six return entries of its peer, a queued cell of the port or an IDLE cell. (10_meridian_fabric.md
R355; 10_meridian_fabric.md R356; 10_meridian_fabric.md R380; 10_meridian_fabric.md R382; 10_meridian_fabric.md R383;
10_meridian_fabric.md R384; 10_meridian_fabric.md R385; 10_meridian_fabric.md R392; 10_meridian_fabric.md R394;
11_collectives_and_reblocking.md R416; 11_collectives_and_reblocking.md R430; 11_collectives_and_reblocking.md R433.) -/
def Obligations.CellsAreFilteredAndServed : Prop :=
    (∀ (s : State) (p aux : Nat) (c : Cell), c.typ = 1 → c.lines ≠ [] → c.lines.length ≤ 4 → c.off ≠ engineOff → receiving s p = true →
      let takes := fun t => Answers (exec (.dataCell p c aux) s) (fabEnd t)
      (c.plane ≠ p ∨ (c.dst ≠ ownGid s ∧ ownDomain s c.dst = true ∧ (linkOf s p).cabNow ≠ 1) → takes (misdirected p c s))
      ∧ (c.plane = p → c.dst ≠ ownGid s → (ownDomain s c.dst = false ∨ (linkOf s p).cabNow = 1) → takes (passOn p c s))
      ∧ (c.dst = ownGid s → c.plane = p → c.src ≠ ownGid s → permitted s (linkDie p) c.src = false → takes (countPermit p s))
      ∧ (Delivered s p c → ctxOf s c.flow = none → takes (refuseCell 1 c s))
      ∧ (∀ x, Delivered s p c → ctxOf s c.flow = some x →
        (c.seq ∈ x.seen.get [] c.src → takes (countDup p (ackCell c s)))
        ∧ (c.seq ∉ x.seen.get [] c.src → x.quiet = true → takes (quietDrop c s))
        ∧ (c.seq ∉ x.seen.get [] c.src → x.quiet = false → c.epoch ≠ cEpoch x → takes (refuseCell 2 c s))
        ∧ (∀ i, Fresh s c x → inSelfRefresh s (cellSectors s x aux c) = false → cIndex x c.src = some i →
          (cKind x = 1 → cSelf x = 0 → c.off + c.lines.length ≤ cLines x → takes (putCell p c s))
          ∧ (cKind x = 2 → (i + 1) % cMembers x = cSelf x → (aux = 0 ∨ cMode x = 1) → c.off + c.lines.length ≤ regionLines s x aux →
              takes (takeRunCell x i aux c s))
          ∧ (cKind x = 3 → (i + 1) % cMembers x = cSelf x → c.off + c.lines.length ≤ cLines x → takes (takeRunCell x i 0 c s))
          ∧ (cKind x = 6 → runOf s c.flow = none → c.off + c.lines.length ≤ cLines x → takes (stripeCell x i c s))
          ∧ (∀ e, cKind x = 7 → (recovsOf s c.flow 1).find? (fun e => decide (2048 * e.1 + e.2.idx = aux ∧ e.2.holder = i)) = some e →
              c.off + c.lines.length ≤ dLines e.2.desc → takes (fetchLines e.1 e.2.idx i 0 c.off (cellLines c) (noteSeq c (ackCell c s))))
          ∧ (cKind x = 5 → takes (permCell aux c s)))))
    ∧ (∀ (s : State) (p : Nat) (c : Cell) (x : Ctx), c.typ = 3 → Delivered s p c → ctxOf s c.flow = some x → c.epoch = cEpoch x →
      (pNat c 0 4 = x.runs ∨ pNat c 0 4 = (x.runs + 1) % 2 ^ 32) → pNat c 4 1 < 7 →
      c.src = cMember x ((cSelf x + 128 * cMembers x - 2 ^ pNat c 4 1) % cMembers x) →
      (pNat c 0 4, pNat c 5 1, pNat c 4 1) ∉ x.rounds →
      Answers (exec (.barrierCell p c) s)
        (fabEnd (setCtx s c.flow { x with rounds := x.rounds ++ [(pNat c 0 4, pNat c 5 1, pNat c 4 1)] })))
    ∧ (∀ (s : State) (p : Nat) (c : Cell), c.typ = 4 → Delivered s p c → (pNat c 8 2, BitVec.ofNat 32 (pNat c 4 4)) ∉ s.mer.aborts →
      ∃ a u, a = { group := pNat c 0 2, cause := pNat c 2 1, serial := BitVec.ofNat 32 (pNat c 4 4), origin := pNat c 8 2 : AbortInfo }
        ∧ u = { s with mer := { s.mer with aborts := (a.origin, a.serial) :: s.mer.aborts } }
        ∧ Answers (exec (.abortCell p c) s)
          (fabEnd (if a.group = 0xFFFF then abortFlow a (pNat c 10 2) u else abortGroup a (spreadAbort a (pNat c 10 2) (pNat c 12 1) u))))
    ∧ (∀ (s : State) (p : Nat) (c : Cell), c.typ = 5 → (Delivered s p c ∨ (receiving s p = true ∧ isAddr s p = true ∧ slotOffset s p = some 0)) →
      (∀ k, heardLine s p = some k → s.boot.ready = true → Answers (exec (.testCell p c) s) (framesService [⟨p, k, c.src⟩] s))
      ∧ ((heardLine s p = none ∨ s.boot.ready = false) → Answers (exec (.testCell p c) s) s))
    ∧ (∀ (s : State) (p : Nat), receiving s p = true → Answers (exec (.unknownCellType p) s) (countType p s))
    ∧ (∀ (s : State) (src : Nat) (e : W64), src < 1024 →
      (fld e 0 4 = 1 → Answers (exec (.ack src e) s) (afterEntries (takeAck src e s))
        ∧ (∀ x ∈ (takeAck src e s).mer.sent, x ∈ s.mer.sent)
        ∧ (∀ x ∈ s.mer.sent, x.cell.dst ≠ src → x ∈ (takeAck src e s).mer.sent))
      ∧ (fld e 0 4 = 2 → Answers (exec (.credit src e) s) (afterEntries (takeCredit src e s))
        ∧ (∀ x, ctxOf s (fld e 8 16) = some x → ∃ y, ctxOf (takeCredit src e s) (fld e 8 16) = some y
            ∧ y.credit.get 0 src = x.credit.get 0 src + fld e 48 16 ∧ y.w = x.w))
      ∧ (fld e 0 4 = 4 → Answers (exec (.misroute src e) s) (afterEntries (settlePlan (mislock (fld e 48 6) 3 s))))
      ∧ (fld e 0 4 = 3 → Answers (exec (.lost src e) s) (afterEntries (takeLost src e s))
        ∧ (∀ n c x, (linkOf s (fld e 48 6)).hist.find? (fun h => decide (h.1 = (linkOf s (fld e 48 6)).good.get 0 src + fld e 36 12)) = some (n, c) →
          c.typ = 1 → c.src = ownGid s → s.mer.sent.find? (fun x => decide (x.cell = c ∧ x.link = fld e 48 6)) = some x →
          (takeLost src e s).mer.tx = { TxCell.plain 5 c with avoid := some (fld e 48 6) } :: s.mer.tx
          ∧ (takeLost src e s).mer.sent = s.mer.sent.erase x)))
    ∧ (∀ (s : State) (p : Nat) (c : Cell), ControlCell s p c 1 → Answers (exec (.returnEntries p c) s)
      (afterEntries ((List.range 31).foldl (fun s i => takeEntry c.src (BitVec.ofNat 64 (pNat c (8 + 8 * i) 8)) s) s)))
    ∧ (∀ (s : State) (p count : Nat), receiving s p = true → 1 ≤ count → count ≤ 1023 →
      ∃ u, u = setLink s p { linkOf s p with lost := satInc 0xFFFF (linkOf s p).lost, clean := false }
        ∧ (∀ g, periodSource u p = some g → Answers (exec (.periodLost p count) s) (owe g 3 0 0 count p u))
        ∧ (periodSource u p = none → Answers (exec (.periodLost p count) s) u))
    ∧ (∀ (s : State) (p : Nat), p < 64 → ((linkOf s p).txEn = true ∨ (linkOf s p).rxEn = true ∨ (linkOf s p).ending.isSome = true) →
      ((linkOf s p).state = 2 ∨ (linkOf s p).state = 3 ∨ (linkOf s p).state = 9) → (linkOf s p).txLock = true →
      ∀ es tail u, es = (s.mer.rets.filter (fun x => decide (some x.1 = aim (linkOf s p)))).take 6 →
        tail = (es.map (fun e => leBytes 8 e.2.toNat)).flatten ++ List.replicate (48 - 8 * es.length) 0 → u = dropRets es s →
        (∀ t, (linkOf s p).state = 3 → (linkOf s p).ending = none → (linkOf s p).idleUntil.toNat ≤ s.aoCount.toNat →
          (linkOf s p).parked = false → u.mer.tx.find? (portTakes u p) = some t →
          Answers (exec (.leasedBlock p) s) (sendOn p t.cell tail (takeTx t u)))
        ∧ (((linkOf s p).state ≠ 3 ∨ (linkOf s p).ending.isSome = true ∨ s.aoCount.toNat < (linkOf s p).idleUntil.toNat
            ∨ (linkOf s p).parked = true ∨ u.mer.tx.find? (portTakes u p) = none) →
          Answers (exec (.leasedBlock p) s) (sendOn p (idleCell u p ((aim (linkOf s p)).getD (ownGid u))) tail u)))

/-- LEASE_LOAD of a plan that meets R375 begins it. RETUNE_SETTLED locks the selector or local oscillator that settles, a
locked link offers itself to its peer, and a link relocked after a mislock returns to its state and offers again;
LEASE_OFFER_REPEAT repeats the offer. LEASE_OFFER is answered with ACCEPT, or REFUSE and its reason; LEASE_ACCEPT of
the offer made joins the link, LEASE_REFUSE fails it or keeps it for another offer, LEASE_TIMEOUT fails it with reason
5. LEASE_END and LEASE_RX_HOLD_TIMEOUT retune a held local oscillator. CAL_NOTICE idles the link to its sender,
SHUTTER of the peer that a link aims at gates it. LEASED_CALIBRATION takes the next joined link out with notice to its
peer, and CALIBRATION_END returns a calibrated link, or leaves it failed. (10_meridian_fabric.md R373;
10_meridian_fabric.md R375; 10_meridian_fabric.md R377; 10_meridian_fabric.md R378; 10_meridian_fabric.md R389;
10_meridian_fabric.md R395; 10_meridian_fabric.md R396; 10_meridian_fabric.md R399.) -/
def Obligations.LeasesAreOfferedAcceptedAndRetuned : Prop :=
    (∀ (s : State) (st : Nat) (late : List Nat) (hs : List Hit) (ws : List W32) (u : State), pickStream s late = some st →
      cmdOp (headCmd s st) = 0x30 → Passes s st 0x30 → s.job.opened = true → hbmRangeBad (cw2 (headCmd s st) 6) 1088 = false →
      fenced s = false → inSelfRefresh s (sectorsOf (cw2 (headCmd s st) 6) 1088) = false →
      readStruct hs (cw2 (headCmd s st) 6) 1088 s = ([], u) →
      ws = wordsOf (u.hbm.bytes (cw2 (headCmd s st) 6) 1088) → planFault u [] ws = none →
      Answers (exec (.leaseLoad st late hs) s)
        (beginLease s.seqNo ws (startCmd s.seqNo st (headCmd s st) (.leaseHeld ws) (popCmd st u))))
    ∧ (∀ (s : State) (p : Nat), p < 64 →
      ((linkOf s p).txSettling = true → (linkOf s p).state ≠ 8 →
        Answers (exec (.retuneSettled p true) s) (sendOffer p (setLink s p { linkOf s p with txSettling := false, txLock := true })))
      ∧ ((linkOf s p).txSettling = true → (linkOf s p).state = 8 → (linkOf s p).rxSettling = false → (linkOf s p).txEn = true →
        Answers (exec (.retuneSettled p true) s) (sendOffer p (setLink s p
          { linkOf s p with txSettling := false, txLock := true, state := (linkOf s p).back })))
      ∧ ((linkOf s p).rxSettling = true → (linkOf s p).state ≠ 8 →
        Answers (exec (.retuneSettled p false) s) (setLink s p { linkOf s p with rxSettling := false, rxLock := true, clean := true }))
      ∧ ((linkOf s p).state = 2 → (linkOf s p).txEn = true → (linkOf s p).txLock = true → (linkOf s p).ending = none →
        Answers (exec (.leaseOfferRepeat p) s) (sendControl (linkOf s p).txGid 2 (leaseBody s p (linkOf s p).txLine 0) s))
      ∧ ((linkOf s p).rxHold.isSome = true → Answers (exec (.leaseRxHoldTimeout p) s) (retuneRx p s))
      ∧ ((linkOf s p).changing = true → (∃ c ∈ s.cmds, c.work = .lease) →
        ((linkOf s p).ending = none → Answers (exec (.leaseTimeout p) s) (leaseGo (settlePlan (refuseLink p 5 s))))
        ∧ ((linkOf s p).ending.isSome = true →
          Answers (exec (.leaseTimeout p) s) (leaseGo (settlePlan (refuseLink p 5 (retuneTx p (sendEnd p s)))))))
      ∧ (linkOf (retuneRx p s) p = { linkOf s p with rxHold := none, rxSettling := (linkOf s p).rxEn, rxLock := false, clean := false
                                                     rxEnded := false, rxLine := rxLineOf s p })
      ∧ ((linkOf s p).state = 2 → linkOf (refuseLink p 5 s) p = { linkOf s p with reason := 5, changing := false, state := 4, back := 4 }))
    ∧ (∀ (s : State) (p q : Nat) (c : Cell), q = pNat c 12 1 → q < 64 →
      (ControlCell s p c 2 → offerFault s c = none →
        Answers (exec (.leaseOffer p c) s) (sendControl c.src 3 (((payload c).drop 8).take 6) s))
      ∧ (∀ r, ControlCell s p c 2 → offerFault s c = some r → r ≠ 3 →
        Answers (exec (.leaseOffer p c) s) (sendControl c.src 4 (((payload c).drop 8).take 6 ++ [BitVec.ofNat 8 r]) s))
      ∧ (ControlCell s p c 3 → answers s c = true → s.pwr.sagStage < 4 →
        Answers (exec (.leaseAccept p c) s) (leaseGo (settlePlan (setLink s q { linkOf s q with state := 3, changing := false }))))
      ∧ (ControlCell s p c 4 → answers s c = true → (pNat c 14 1 = 1 ∨ pNat c 14 1 = 3) →
        Answers (exec (.leaseRefuse p c) s) (setLink s q { linkOf s q with reason := pNat c 14 1 }))
      ∧ (ControlCell s p c 4 → answers s c = true → pNat c 14 1 ≠ 1 → pNat c 14 1 ≠ 3 →
        Answers (exec (.leaseRefuse p c) s) (leaseGo (settlePlan (refuseLink q (pNat c 14 1) s))))
      ∧ (ControlCell s p c 5 → (linkOf s q).rxHold = some c.src → Answers (exec (.leaseEnd p c) s) (retuneRx q s))
      ∧ (ControlCell s p c 5 → (linkOf s q).rxHold = none → (linkOf s q).rxEn = true → (linkOf s q).rxGid = c.src →
        Answers (exec (.leaseEnd p c) s) (setLink s q { linkOf s q with rxEnded := true }))
      ∧ (ControlCell s p c 6 → (linkOf s q).txEn = true → (linkOf s q).txGid = c.src →
        Answers (exec (.calNotice p c) s) (setLink s q
          { linkOf s q with idleUntil := BitVec.ofNat 64 (s.aoCount.toNat + 50 * pNat c 16 4) }))
      ∧ (ControlCell s p c 7 → aim (linkOf s q) = some c.src → Answers (exec (.shutter p c) s) (leaseGo (settlePlan (gateLink q s))))
      ∧ (((linkOf s q).state = 2 ∨ (linkOf s q).state = 3) → gateLink q s = endOlds (withdraw q (setLink s q
          { linkOf s q with state := 8, back := 2, txLock := false, txSettling := true })))
      ∧ ((linkOf s q).state = 5 → gateLink q s = setLink s q { linkOf s q with back := 8 }))
    ∧ (∀ (s : State) (p : Nat), p < 64 → (∀ q, q < 64 → (linkOf s q).state ≠ 5) → p = (s.mer.calLink + 1) % 64 →
      (linkOf s p).state = 3 → (photOf s (linkDie p)).calEn = true →
      ∃ t, Answers (exec .leasedCalibration s) t ∧ (linkOf t p).state = 5 ∧ (linkOf t p).back = 3 ∧ t.mer.calLink = p
        ∧ (∃ c ∈ t.mer.tx, c.cell = controlCell s (linkOf s p).txGid 6 ([0, 0, 0, 0, BitVec.ofNat 8 p, 0, 0, 0] ++ leBytes 4 200))
        ∧ (∀ x ∈ t.mer.sent, x.link ≠ p))
    ∧ (∀ (s : State) (p rt : Nat) (fs : List Frame), p < 64 → (linkOf s p).state = 5 → s.mer.calWait = false →
      ∃ good bad, (∀ u ok, u = (if ok = true then good else bad) →
          (s.boot.ready = true → Answers (exec (.calibrationEnd p ok rt fs) s) (framesService fs u))
          ∧ (s.boot.ready = false → Answers (exec (.calibrationEnd p ok rt fs) s) u))
        ∧ (isAddr s p = false → bad = setLink s p { linkOf s p with
            state := 10, back := if (linkOf s p).txEn = true then 2 else restState s p })
        ∧ (isAddr s p = false → p ≠ s.mer.calPlane → (linkOf s p).back = 3 → (linkOf good p).state = 3 ∧ (linkOf good p).txLock = true
            ∧ (linkOf good p).rxLock = true ∧ (linkOf good p).clean = true ∧ (linkOf good p).loopRt = rt % 65536
            ∧ (∀ q, q ≠ p → linkOf good q = linkOf s q)))

/-- LINK_FAILURE by a condition of Table 10.11 takes a link to state 10, counts it, records it and keeps none of its cells
to resend. LINK_RETRY calibrates a failed link while no other calibrates. MISLOCK_DETECTED counts, withdraws a joined
link and takes it to state 8 to relock its selector or its oscillator. SHUTTER_TRIGGER shutters and counts the link,
and tells its peer; SHUTTER_PROBE probes a shuttered link and SHUTTER_PROBE_END without light shutters it again, with
light returns it. COMB_FIBRE_DROP raises LASER_EN_N of the fibre and fails its 16 links; COMB_PROBE begins with
LASER_EN_N and LASER_LOW_N low, and one of good power restores the fibre, another raises LASER_EN_N again. COMB_LOCK
and COMB_ALARM_N set their status, and a loss is recorded. (10_meridian_fabric.md R359; 10_meridian_fabric.md R361;
10_meridian_fabric.md R386; 10_meridian_fabric.md R387; 10_meridian_fabric.md R388; 10_meridian_fabric.md R389;
10_meridian_fabric.md R398; 10_meridian_fabric.md R400; 10_meridian_fabric.md R401.) -/
def Obligations.LinksFailShutterAndComeBack : Prop :=
    (∀ (s : State) (p cond peer : Nat), p < 64 → 1 ≤ cond → cond ≤ 6 → (linkOf s p).state ≠ 0 → (linkOf s p).state ≠ 10 →
      Answers (exec (.linkFailure p cond peer) s) (fabGo (leaseGo (settlePlan (failLink p cond peer s)))))
    ∧ (∀ (s : State) (p cond peer : Nat), s.mer.sent = [] → isAddr s p = false →
      (linkOf (failLink p cond peer s) p).state = 10 ∧ (linkOf (failLink p cond peer s) p).failures = satInc 0xFF (linkOf s p).failures
      ∧ (linkOf (failLink p cond peer s) p).txLock = false ∧ (linkOf (failLink p cond peer s) p).rxLock = false
      ∧ (linkOf (failLink p cond peer s) p).ending = none
      ∧ (∀ q, q ≠ p → linkOf (failLink p cond peer s) q = linkOf s q)
      ∧ (failLink p cond peer s).recs = s.recs.add (mkRec { unit := unitLink p, cls := 0x0401, outcome := cond, d1 := BitVec.ofNat 32 p, d2 := BitVec.ofNat 32 peer } s))
    ∧ (∀ (s : State) (p : Nat), p < 64 →
      ((linkOf s p).state = 10 → calibrating s = false → Answers (exec (.linkRetry p) s) (setLink s p { linkOf s p with state := 5 }))
      ∧ (∀ how, (linkOf s p).state = 3 → (how = 1 ∨ how = 2) → (∀ q, (linkOf s q).ending = none) →
          ∃ u, Answers (exec (.mislockDetected p how) s) (settlePlan u) ∧ (linkOf u p).state = 8 ∧ (linkOf u p).back = 2
          ∧ (linkOf u p).mislock = satInc 0xFFFF (linkOf s p).mislock ∧ (linkOf u p).txLock = false ∧ (linkOf u p).txSettling = true
          ∧ (how = 2 → (linkOf u p).rxLock = false ∧ (linkOf u p).rxSettling = true)
          ∧ (∀ x ∈ u.mer.sent, x.link ≠ p) ∧ (∀ q, q ≠ p → linkOf u q = linkOf s q))
      ∧ ((linkOf s p).state = 6 → Answers (exec (.shutterProbe p) s) (setLink s p { linkOf s p with state := 7 }))
      ∧ ((linkOf s p).state = 7 → Answers (exec (.shutterProbeEnd p false) s) (settleLinks (setLink s p { linkOf s p with state := 6 })))
      ∧ ((linkOf s p).state = 7 → isAddr s p = false → ∃ u, Answers (exec (.shutterProbeEnd p true) s) (settleLinks (settlePlan u))
          ∧ linkOf u p = { linkOf s p with state := (linkOf s p).back, txLock := true, rxLock := true, clean := true })
      ∧ ((linkOf s p).state = 3 → isAddr s p = false → (∀ q, (linkOf s q).ending = none) →
          ∃ u, Answers (exec (.shutterTrigger p) s) (settleLinks (leaseGo (settlePlan u)))
          ∧ (linkOf u p).state = 6 ∧ (linkOf u p).shutters = satInc 0xFF (linkOf s p).shutters ∧ (∀ x ∈ u.mer.sent, x.link ≠ p)
          ∧ ((linkOf s p).txEn = true → ∃ c ∈ u.mer.tx, c.cell = controlCell s (linkOf s p).txGid 7 [0, 0, 0, 0, BitVec.ofNat 8 p])))
    ∧ (∀ (s : State) (f power : Nat), f < 4 →
      ((fibreOf s f).enHigh = false → (fibreOf s f).lowLow = false → ∃ u, ∃ ps : List Nat, Answers (exec (.combFibreDrop f power) s)
          (settleLinks (fabGo (leaseGo (settlePlan (ps.foldl (fun s p => failLink p 1 (peerOf (linkOf s p)) s) u)))))
        ∧ (∀ p, p ∈ ps ↔ p < 64 ∧ p % 2 = f / 2 ∧ p / 32 = f % 2 ∧ (linkOf s p).state ≠ 0 ∧ (linkOf s p).state ≠ 10)
        ∧ fibreOf u f = { fibreOf s f with state := 1, enHigh := true, power := power % 256 } ∧ u.mer.link = s.mer.link)
      ∧ (∀ good, (fibreOf s f).state ≠ 0 → (fibreOf s f).state ≠ 2 → s.pwr.shdnHigh = true →
        Answers (exec (.combProbe f good power) s)
          (settleLinks (setFibre s f { fibreOf s f with state := 2, enHigh := false, lowLow := true, power := power % 256 })))
      ∧ ((fibreOf s f).state = 2 → s.pwr.shdnHigh = true →
        (∃ u, Answers (exec (.combProbe f true power) s) (settleLinks u)
          ∧ fibreOf u f = { fibreOf s f with state := 0, enHigh := false, lowLow := false, power := power % 256 } ∧ u.mer.link = s.mer.link)
        ∧ Answers (exec (.combProbe f false power) s)
          (settleLinks (setFibre s f { fibreOf s f with state := 1, enHigh := true, lowLow := false, power := power % 256 }))))
    ∧ (∀ (s : State) (high dither low : Bool),
      (∃ t, Answers (exec (.combLock high dither) s) t ∧ t.mer.combLock = high ∧ t.mer.dither = dither ∧ t.mer.link = s.mer.link
        ∧ ((s.mer.combLock = true → high = true) → (s.mer.dither = true → dither = true) → t.recs = s.recs))
      ∧ (∃ t, Answers (exec (.combAlarmN low) s) t ∧ t.mer.combAlarm = low ∧ t.mer.link = s.mer.link ∧ t.mer.combLock = s.mer.combLock))

/-- An engine line delivered to a context of its kind is acknowledged and entered in the window, and acts: PUT_END counts
an end, STATS_CHAIN hands the run its partial sums, STATS_RESULT writes the statistics entry, FETCH_REQ sends the
lines asked for or FETCH_NACK, FETCH_NACK, and FETCH_TIMEOUT where an answer lacks, move a recovery to the next
holder, STREAM_TOTAL notes the total of a reblock stream, STRIPE_REQ sends a member's lines, STRIPE_P_TIMEOUT asks Q,
or fails the recovery where Q is not permitted. ABORT_REWRITE_DONE poisons the sectors that an aborted run landed and
ends the run, QUIET_PERIOD_END lifts the quiet period, FAB_ABORT_RAISE raises cause 8 on a group, and EPOCH_FENCE_END
sets the new layout epoch and completes EPOCH_SET, or takes a REBLOCK to its first barrier.
(11_collectives_and_reblocking.md R417; 11_collectives_and_reblocking.md R419; 11_collectives_and_reblocking.md R426;
11_collectives_and_reblocking.md R432; 11_collectives_and_reblocking.md R434; 11_collectives_and_reblocking.md R437;
11_collectives_and_reblocking.md R438; 11_collectives_and_reblocking.md R441; 11_collectives_and_reblocking.md R446;
11_collectives_and_reblocking.md R447.) -/
def Obligations.EngineLinesAndRunsEnd : Prop :=
    (∀ (s : State) (p : Nat) (c : Cell) (x : Ctx),
      (EngineLine s p c 1 1 x → Answers (exec (.putEnd p c) s) (fabEnd (countPut c.flow (noteSeq c (ackCell c s)))))
      ∧ (∀ r, EngineLine s p c 2 2 x → runOf (noteSeq c (ackCell c s)) c.flow = some r → r.st ≤ 1 →
        Answers (exec (.statsChain p c) s) (fabEnd (setRun
          { r with chainIn := some (BitVec.ofNat 64 (pNat c 8 8), BitVec.ofNat 64 (pNat c 16 8)) } (noteSeq c (ackCell c s)))))
      ∧ (∀ r, EngineLine s p c 3 2 x → inSelfRefresh s [statsAt x / 64] = false →
        runOf (noteSeq c (ackCell c s)) c.flow = some r → r.st = 1 → (r.stats = 1 ∨ r.stats = 2) →
        Answers (exec (.statsResult p c) s) (fabEnd (writeStats c.flow (BitVec.ofNat 64 (pNat c 8 8)) (BitVec.ofNat 64 (pNat c 16 8))
          (noteSeq c (ackCell c s)))))
      ∧ (∀ u, EngineLine s p c 4 7 x → inSelfRefresh s (fetchSectors c x s) = false → u = noteSeq c (ackCell c s) →
        pNat c 8 8 % 64 = 0 → pNat c 8 8 + 64 * pNat c 16 4 ≤ hbmEnd →
        (∀ ls, readHbm u (pNat c 8 8) (pNat c 16 4) (BitVec.ofNat 32 (pNat c 20 4)) = .lines ls →
          Answers (exec (.fetchReq p c) s) (fabEnd (pushLines c.flow c.src none (ls.zipIdx.map (fun l => (l.2, l.1.1, l.1.2))) u)))
        ∧ (∀ bad, readHbm u (pNat c 8 8) (pNat c 16 4) (BitVec.ofNat 32 (pNat c 20 4)) = .sectors bad →
          Answers (exec (.fetchReq p c) s)
            (fabEnd (sendNack c.flow c.src (pNat c 8 8) (fabricBad bad (BitVec.ofNat 32 (pNat c 20 4)) u)))))
      ∧ (EngineLine s p c 4 7 x → inSelfRefresh s (fetchSectors c x s) = false →
        (pNat c 8 8 % 64 ≠ 0 ∨ hbmEnd < pNat c 8 8 + 64 * pNat c 16 4) →
        Answers (exec (.fetchReq p c) s) (fabEnd (sendNack c.flow c.src (pNat c 8 8) (noteSeq c (ackCell c s)))))
      ∧ (∀ l, EngineLine s p c 5 7 x → l = (fetchesOf (noteSeq c (ackCell c s)) c.flow c.src).filter (fun y =>
            match entryOf (noteSeq c (ackCell c s)) y.1 y.2 with
            | some e => decide (e.addr = pNat c 8 8)
            | none => false) →
        Answers (exec (.fetchNack p c) s) (fabEnd (l.foldl (fun s y => nextHolder y.1 y.2 s) (noteSeq c (ackCell c s)))))
      ∧ (∀ b, EngineLine s p c 6 5 x → s.mer.rebl = some b → b.stage = 3 → b.base ≤ c.flow →
        Answers (exec (.streamTotal p c) s) (fabEnd (setRebl
          { b with total := b.total.put (streamKey (c.flow - b.base) c.src) (pNat c 4 4) } (noteSeq c (ackCell c s)))))
      ∧ (∀ u ls, EngineLine s p c 7 6 x → inSelfRefresh s (stripeSectors c x s) = false → u = noteSeq c (ackCell c s) →
        pNat c 4 4 + pNat c 8 4 ≤ cLines x → readHbm u (shardBase x + 64 * pNat c 4 4) (pNat c 8 4) (runVer u x) = .lines ls →
        (cSelf x + 2 < cMembers x → ∀ l ∈ ls, l.2 = 0) →
        Answers (exec (.stripeReq p c) s) (fabEnd (pushLines c.flow c.src none
          (ls.zipIdx.map (fun l => (pNat c 4 4 + l.2, l.1.1, l.1.2))) u))))
    ∧ (∀ (s : State) (d i l q : Nat) (e : LEntry) (x : Ctx), d < 4 → entryOf s d i = some e →
      (answered e = false → Answers (exec (.fetchTimeout d i) s) (fabEnd (nextHolder d i s)))
      ∧ (ctxOf s (dArg e.desc) = some x → shardLine x e = some l → e.recov = 3 → e.askedQ = false → 0 < dLines e.desc →
        e.fetched.get [] (cMembers x - 2) = [] → q = cMember x (cMembers x - 2 + 1) →
        (permitted s (ctxDie (dArg e.desc)) q = true → Answers (exec (.stripePTimeout d i) s) (fabEnd (grant q (dArg e.desc) (dLines e.desc)
          (sendLine (dArg e.desc) q ([7, 0, 0, 0] ++ leBytes 4 l ++ leBytes 4 (dLines e.desc) ++ [BitVec.ofNat 8 (cSelf x)])
            (setEntry d { e with askedQ := true } s)))))
        ∧ (permitted s (ctxDie (dArg e.desc)) q = false →
          Answers (exec (.stripePTimeout d i) s) (fabEnd (ledgerGo (recoveryFails d e 2 s))))))
    ∧ (∀ (s : State) (id : Nat) (r : FRun), runOf s id = some r → r.st = 3 → inSelfRefresh s (landedSectors s r) = false →
      Answers (exec (.abortRewriteDone id) s) (fabAll (cutRun r (delRun id (poisonSectors (landedSectors s r) (fun _ _ => r.ver) s)))))
    ∧ (∀ (s : State) (id : Nat) (x : Ctx), ctxOf s id = some x → x.quiet = true →
      Answers (exec (.quietPeriodEnd id) s) (fabAll (setCtx s id { x with quiet := false })))
    ∧ (∀ (s : State) (d group : Nat), HostReaches s → (d = 5 ∨ d = 6) → group < 0xFFFF →
      Answers (exec (.fabAbortRaise d group) s) (fabEnd (raiseAbort group 8 0xFFFF s)))
    ∧ (∀ (s : State) (b : Rebl), s.mer.rebl = some b → b.stage = 1 → (photOf s 5).runs = [] → (photOf s 6).runs = [] →
      (b.permute = false → Answers (exec .epochFenceEnd s) (fabAll (endFence b.no .done (setEpoch b.new s))))
      ∧ (b.permute = true → Answers (exec .epochFenceEnd s) (fabAll (setRebl { b with stage := 2 } s))))

/-- PORT_TRAINED with the same width at both ends, where none is being agreed, brings the port up at that width; a flit
CRC error counts, and the eighth of one flit, or the 32nd within 100 us, retrains the port. REG_RD and REG_WR of a
register of the companion send one request; COMPANION_COMPLETION with STATUS 0 returns the data, a failed write is
recorded, and COMPANION_REG_TIMEOUT answers a read with zero and records. MEM_RD and MEM_WR within the aperture reach
HBM under the aperture's settings, outside it they are refused with STATUS 1 and counted. COMPANION_EVENT is recorded.
D2D_COMP_APERTURE_WRITE sets the aperture. (12_dies_and_die_links.md R459; 12_dies_and_die_links.md R462;
12_dies_and_die_links.md R465; 12_dies_and_die_links.md R466; 12_dies_and_die_links.md R467; 12_dies_and_die_links.md
R468.) -/
def Obligations.DiePortsAndTheCompanionServe : Prop :=
    (∀ (s : State) (d p : Nat) (w : List Nat), mayTrain s d p w w = true →
      (portOf s (agreeEnd d p).1 (agreeEnd d p).2).agree = none →
      ∃ u, Answers (exec (.portTrained d p w w) s) (nextClass (checkRoutes (agreed d p w none u)))
        ∧ ((portPeer d p).1 = 7 → u = setPort s d p { portOf s d p with width := w })
        ∧ ((portPeer d p).1 ≠ 7 → u = setPort (setPort s d p { portOf s d p with width := w }) (portPeer d p).1 (portPeer d p).2
          { portOf (setPort s d p { portOf s d p with width := w }) (portPeer d p).1 (portPeer d p).2 with width := w }))
    ∧ (∀ (s : State) (d p m nth : Nat), (d, p) ∈ allPorts → (portOf s d p).state = 2 → (portOf s d p).width.getD m 0 ≠ 0 →
      Answers (exec (.flitCrcError d p m nth) s) (checkRoutes (flitError d p m nth s))
      ∧ ((withinTicks s 5000 ((portOf s d p).retries.get [] m)).length < 31 → nth < 8 →
        ∃ x, flitError d p m nth s = setPort s d p x ∧ x.crc = satInc 0xFFFFFFFF (portOf s d p).crc ∧ x.state = 2)
      ∧ (8 ≤ nth → ∃ u, flitError d p m nth s = leftUp d p (portRec d p 0x0501 1 u) ∧ (portOf u d p).state = 3))
    ∧ (∀ (s : State) (y size : Nat) (v : W64), HostReaches s → compPresent s = true → regSizeOk y size = true → y < compSpace s →
      Answers (exec (.regRd y size) s) (compAsk ⟨false, y, size, 0, false⟩ s)
      ∧ Answers (exec (.regWr y size v) s) (compAsk ⟨true, y, size, v, false⟩ s)
      ∧ (∀ r, (∃ o, (compAsk r s).out = o :: s.out) ∧ (compAsk r s).d2d.comp.reqs.length ≤ s.d2d.comp.reqs.length + 1))
    ∧ (∀ (s : State) (tag status : Nat) (data : List Byte) (r : CompReq), s.d2d.comp.reqs.find tag = some r →
      (r.write = false → Answers (exec (.companionCompletion tag 0 data) s)
          (compGives r (BitVec.ofNat 64 (leNat (data.take r.size))) (compTake tag s)))
      ∧ (r.write = true → Answers (exec (.companionCompletion tag 0 data) s) (compTake tag s))
      ∧ (r.write = true → status ≠ 0 → Answers (exec (.companionCompletion tag status data) s) (regWrBad r status (compTake tag s)))
      ∧ (r.write = false → Answers (exec (.companionRegTimeout tag) s) (compRec 6 (compGives r 0 (compTake tag s))))
      ∧ (r.write = true → Answers (exec (.companionRegTimeout tag) s) (regWrBad r 0xF (compTake tag s))))
    ∧ (∀ (s : State) (tag len addr : Nat) (hs : List Hit) (data : List Byte), compPresent s = true → len < 4 → data.length = 64 * (len + 1) →
      (inAperture s addr (64 * (len + 1)) = false →
        Answers (exec (.memRd tag len addr hs) s) (compRefuse tag s) ∧ Answers (exec (.memWr tag len addr data) s) (compRefuse tag s)
        ∧ (compRefuse tag s).hbm = s.hbm ∧ (compRefuse tag s).d2d.comp.refused = satInc 0xFFFFFFFF s.d2d.comp.refused)
      ∧ (inAperture s addr (64 * (len + 1)) = true →
        inSelfRefresh s (sectorsOf (s.d2d.comp.apBase * 2 ^ 30 + addr) (64 * (len + 1))) = false →
        Answers (exec (.memRd tag len addr hs) s) (compReturn hs tag (s.d2d.comp.apBase * 2 ^ 30 + addr) (64 * (len + 1)) s)
        ∧ Answers (exec (.memWr tag len addr data) s) (compStore (s.d2d.comp.apBase * 2 ^ 30 + addr) data s)
        ∧ (∀ n, s.d2d.comp.apBase * 2 ^ 30 + addr = 64 * n → len = 0 → s.hbm.wf = true → n ∉ s.hbmLost →
            sectorData (compStore (64 * n) data s) n = data
            ∧ sectorCk (compStore (64 * n) data s) n = checkWord n data s.d2d.comp.apVtag s.d2d.comp.apStag
            ∧ (compStore (64 * n) data s).xferVtag = s.xferVtag)))
    ∧ (∀ (s : State) (line : List Byte), compPresent s = true → ∃ r, Answers (exec (.companionEvent line) s) (record r s)
      ∧ r.cls = 0x0506 ∧ r.d1 = BitVec.ofNat 32 (leNat (line.take 4)) ∧ r.d6 = BitVec.ofNat 32 (leNat ((line.drop 20).take 4)))
    ∧ (∀ (s : State) (v : W64), HostReaches s →
      (fld v 12 10 + fld v 32 11 ≤ 864 → fld v 32 11 ≤ apertureGib s → ∃ t, Answers (exec (.d2dCompApertureWrite 0 8 v) s) t
        ∧ t.d2d.comp.apEn = bit v 0 ∧ t.d2d.comp.apBase = fld v 12 10 ∧ t.d2d.comp.apSize = fld v 32 11 ∧ SameData s t)
      ∧ (fld v 36 3 ≤ 4 → ∃ t, Answers (exec (.d2dCompApertureWrite 8 8 v) s) t
        ∧ t.d2d.comp.apVtag = v.setWidth 32 ∧ t.d2d.comp.apCheck = fld v 32 2 ∧ t.d2d.comp.apStag = fld v 36 3 ∧ SameData s t))

/-- An FLR disables every stream, ends every command, and, at once when no program runs and else when the last one has
ended, closes the job and returns the event ring, the watches, MSI-X, the DMA window and the enables to reset; it
keeps the BAR2 size. During a start only those registers are reset. HOT_RESET, LINK_DOWN and PERST_N do the same and
set the BAR2 size to 16 GiB (the model's choice, log 27). FLR_STOP_TIMEOUT cuts what still runs. LINK_TRAINED needs
flit mode and sends the readiness message once. The enables, D3hot and the BAR2 size take the configured values, the
size only while Memory Space Enable is clear. IDE_CHECK_FAIL makes the stream insecure, counts and records.
(13_host_link.md R470; 13_host_link.md R473; 13_host_link.md R476; 13_host_link.md R477; 13_host_link.md R478;
13_host_link.md R488; 13_host_link.md R490.) -/
def Obligations.TheHostPortResetsAndConfigures : Prop :=
    (∀ s : State, s.pci.linkUp = true → s.pci.ready = true →
      Answers (exec .flr s) (flrLike s)
      ∧ Answers (exec .hotReset s) (setPci (flrLike s) { (flrLike s).pci with bar2Log2 := 34 })
      ∧ (∃ u, u = setPci s { s.pci with linkUp := false, speed := 0, width := 0 }
        ∧ Answers (exec .linkDown s) (setPci (flrLike u) { (flrLike u).pci with bar2Log2 := 34 })))
    ∧ (∀ s : State, s.pci.perstHigh = true →
      ∃ u, u = setPci s { s.pci with perstHigh := false, ready := false, linkUp := false, speed := 0, width := 0 }
        ∧ Answers (exec .perstN s) (setPci (flrLike u) { (flrLike u).pci with bar2Log2 := 34 }))
    ∧ (∀ s : State, s.boot.ready = false ∨ s.boot.starting = true →
      flrLike s = { s with
        evr := Evr.reset
        pci := { s.pci with msix := [], watch := [], winBase := 0, winLimit := 0, mse := false, bme := false, d3hot := false, low := [], latch := [] } })
    ∧ (∀ s : State, s.boot.ready = true → s.boot.starting = false →
      ∃ u, u.cmds = [] ∧ (∀ i, (strmOf u i).enable = false ∧ (strmOf u i).occ = [] ∧ (strmOf u i).e = 1) ∧ u.boot = s.boot ∧ u.pci.bar2Log2 = s.pci.bar2Log2
        ∧ (∀ c p, c < 32 → (clOf u c).prog = some p → p.ending = 2)
        ∧ (runningCls u = [] → flrLike s = finishFlr u)
        ∧ (runningCls u ≠ [] → flrLike s = setPci u { u.pci with flr := true }))
    ∧ (∀ s : State, ∃ v, finishFlr s = goOnAll v ∧ v.evr = Evr.reset ∧ v.pci.msix = [] ∧ v.pci.watch = [] ∧ v.pci.winBase = 0 ∧ v.pci.winLimit = 0
      ∧ v.pci.mse = false ∧ v.pci.bme = false ∧ v.pci.d3hot = false ∧ v.pci.flr = false ∧ v.job.opened = false ∧ v.recipe = []
      ∧ v.pci.bar2Log2 = s.pci.bar2Log2 ∧ v.pci.linkUp = s.pci.linkUp ∧ v.boot = s.boot ∧ v.stack = s.stack ∧ v.xferVtag = s.xferVtag)
    ∧ (∀ s : State, s.pci.flr = true → s.boot.stopWarm = none →
      ∃ u, runningCls u = [] ∧ u.boot = s.boot ∧ Answers (exec .flrStopTimeout s) (finishFlr u))
    ∧ (∀ s : State, Answers (exec .perstNRelease s) (setPci s { s.pci with perstHigh := true }))
    ∧ (∀ (s : State) (speed width : Nat), s.pwr.aoPwrGd = true → s.pwr.shdnHigh = true → s.pci.perstHigh = true → s.pci.linkUp = false → speed < 8 → width < 16 →
      Answers (exec (.linkTrained false speed width) s) s
      ∧ ∃ t, Answers (exec (.linkTrained true speed width) s) t ∧ t.pci = { s.pci with linkUp := true, ready := true, speed := speed, width := width }
        ∧ t.out = (if s.pci.ready then [] else [.deviceReady s.pci.conf]) ++ s.out)
    ∧ (∀ (s : State) (on : Bool) (n : Nat), s.pci.linkUp = true →
      (s.pci.ready = true →
        Answers (exec (.memorySpaceEnable on) s) (setPci s { s.pci with mse := on })
        ∧ Answers (exec (.busMasterEnable on) s) (resumeHost (setPci s { s.pci with bme := on }))
        ∧ Answers (exec (.d3hot on) s) (resumeHost (setPci s { s.pci with d3hot := on }))
        ∧ Answers (exec (.bar2Resize n) s) (if s.pci.mse = false ∧ 30 ≤ n ∧ n ≤ 40 then setPci s { s.pci with bar2Log2 := n } else s))
      ∧ (s.pci.ready = false → Answers (exec (.memorySpaceEnable on) s) (emit .retryStatus s) ∧ Answers (exec .flr s) (emit .retryStatus s)))
    ∧ (∀ s : State, mayRequest s = false → s.cmds = [] → resumeHost s = s)
    ∧ (∀ (s : State) (v : Nat) (m : Msix), mayRequest s = true → s.cmds = [] → s.pci.msix = [(v, m)] → m.pend = true → m.masked = false →
      resumeHost s = emit (.msix v m.addr m.data) (setPci s { s.pci with msix := [(v, { m with pend := false })] }))
    ∧ (∀ s : State, s.pci.ideState = 2 →
      ∃ u, Answers (exec .ideCheckFail s) (record { unit := 0x4FFC0000#32, cls := 0x0801, outcome := 1, d1 := BitVec.ofNat 32 s.pci.ideStream } u)
        ∧ u.pci = { s.pci with ideState := 3, ideFailures := satInc 0xFFFFFFFF s.pci.ideFailures, ideBlocked := true } ∧ u.out = s.out ∧ u.hbm = s.hbm)

/-- With the host reaching the package: DMA_WINDOW_WRITE, HUB_EVR_BASE_WRITE and HUB_EVR_WB_WRITE set their fields while
the ring is off and are recorded with cause 7 while it is on; EVR_ENABLE with every check met zeroes the counts and
activates, else sets ERROR and records; EVR_DISABLE stops; EVR_CONSUMER_WRITE sets CONSUMER or is recorded with cause
6. RECORD_DELIVERY writes entry and writeback of the oldest record, then messages. The coalescing limit and
MSIX_UNMASK send. A watch takes its value and fires on DONE, SKIPPED or ABORTED. Stream-buffer reads return zero, a
counter's low half latches the high one, a bad width is recorded with cause 1, a reserved offset with cause 9, a
register takes the value. (01_seven_levels.md R19; 13_host_link.md R472; 13_host_link.md R479; 13_host_link.md R480;
13_host_link.md R481; 13_host_link.md R482; 13_host_link.md R484; 13_host_link.md R485; 13_host_link.md R486;
01_seven_levels.md R585.) -/
def Obligations.TheEventRingMessagesAndWatchesWork : Prop :=
    (∀ (s : State) (v : W64), HostReaches s →
      (s.evr.enable = false → copyRuns s = false →
        Answers (exec (.dmaWindowWrite 0 8 v) s) (setPci s { s.pci with low := s.pci.low.del 0x20010, winBase := v &&& 0xFFFFFFFFFFFFF000#64 })
        ∧ Answers (exec (.dmaWindowWrite 8 8 v) s) (setPci s { s.pci with low := s.pci.low.del 0x20018, winLimit := v &&& 0xFFFFFFFFFFFFF000#64 }))
      ∧ (s.evr.enable = true ∨ copyRuns s = true → Answers (exec (.dmaWindowWrite 0 8 v) s) (regAccess 7 0x20010 8 true v s)
        ∧ Answers (exec (.dmaWindowWrite 8 8 v) s) (regAccess 7 0x20018 8 true v s))
      ∧ (s.evr.enable = false →
        (∃ t, Answers (exec (.hubEvrBaseWrite 0 8 v) s) t ∧ t.evr = { s.evr with sizeLog2 := fld v 0 4, base := v &&& 0xFFFFFFFFFFFFF000#64 } ∧ SameData s t)
        ∧ (∃ t, Answers (exec (.hubEvrWbWrite 0 8 v) s) t ∧ t.evr = { s.evr with wb := v &&& 0xFFFFFFFFFFFFFFF8#64 } ∧ SameData s t))
      ∧ (s.evr.enable = true → Answers (exec (.hubEvrBaseWrite 0 8 v) s) (regAccess 7 0x70000 8 true v s)
        ∧ Answers (exec (.hubEvrWbWrite 0 8 v) s) (regAccess 7 0x70010 8 true v s)))
    ∧ (∀ (s : State) (v : W64), HostReaches s → bit v 0 = true → s.evr.enable = false →
      (6 ≤ s.evr.sizeLog2 → s.evr.sizeLog2 ≤ 16 → s.pci.bme = true → s.pci.winBase.toNat ≤ s.evr.base.toNat →
        s.evr.base.toNat + 64 * 2 ^ s.evr.sizeLog2 ≤ s.pci.winLimit.toNat → s.pci.winBase.toNat ≤ s.evr.wb.toNat → s.evr.wb.toNat + 8 ≤ s.pci.winLimit.toNat →
        ∃ t, Answers (exec (.evrEnable 8 v) s) t ∧ SameData s t
          ∧ t.evr = { s.evr with vector := fld v 1 6, irqEn := bit v 7, coCount := fld v 8 8, coUs := fld v 16 16, enable := true, active := true, producer := 0, consumer := 0, unreported := 0 })
      ∧ (s.evr.sizeLog2 < 6 ∨ 16 < s.evr.sizeLog2 ∨ s.pci.bme = false ∨ s.evr.base.toNat < s.pci.winBase.toNat
          ∨ s.pci.winLimit.toNat < s.evr.base.toNat + 64 * 2 ^ s.evr.sizeLog2 ∨ s.evr.wb.toNat < s.pci.winBase.toNat ∨ s.pci.winLimit.toNat < s.evr.wb.toNat + 8 →
        ∃ u, Answers (exec (.evrEnable 8 v) s) (regAccess 7 0x70008 8 true v u) ∧ SameData s u ∧ u.evr.error = true ∧ u.evr.enable = false ∧ u.evr.active = s.evr.active))
    ∧ (∀ (s : State) (v : W64), HostReaches s → bit v 0 = false → s.evr.enable = true →
      ∃ t, Answers (exec (.evrDisable 8 v) s) t ∧ t.recs = s.recs ∧ t.hbm = s.hbm
        ∧ t.evr = { s.evr with vector := fld v 1 6, irqEn := bit v 7, coCount := fld v 8 8, coUs := fld v 16 16, enable := false, active := false })
    ∧ (∀ (s : State) (v : W64) (c : W32), HostReaches s → c = (v >>> 32).setWidth 32 →
      ((c - s.evr.consumer).toNat ≤ (s.evr.producer - s.evr.consumer).toNat → (s.evr.producer - c).toNat ≤ 2 ^ s.evr.sizeLog2 →
        ∃ t, Answers (exec (.evrConsumerWrite 8 v) s) t ∧ t.evr = { s.evr with consumer := c } ∧ SameData s t)
      ∧ ((s.evr.producer - s.evr.consumer).toNat < (c - s.evr.consumer).toNat →
        ∃ u, Answers (exec (.evrConsumerWrite 8 v) s) (regAccess 6 0x70018 8 true v u) ∧ u.evr = s.evr ∧ SameData s u))
    ∧ (∀ s : State,
      (s.recs.ring = [] ∨ s.evr.active = false ∨ evrFull s = true ∨ mayRequest s = false → Answers (exec .recordDelivery s) s)
      ∧ (∀ r rest, s.recs.ring = r :: rest → s.evr.active = true → evrFull s = false → mayRequest s = true →
        ∃ t new, Answers (exec .recordDelivery s) t ∧ t.recs.ring = rest ∧ t.recs.log = s.recs.log ∧ t.evr.producer = s.evr.producer + 1
          ∧ t.out = new ++ .hostWrite s.evr.wb.toNat (leBytes 4 (s.evr.producer + 1).toNat ++ leBytes 4 r.seq.toNat)
              :: .hostWrite (s.evr.base.toNat + 64 * (s.evr.producer.toNat % 2 ^ s.evr.sizeLog2)) (recBytes r) :: s.out
          ∧ (∀ o ∈ new, ∃ v a d, o = .msix v a d)
          ∧ (s.evr.irqEn = true → max 1 s.evr.coCount ≤ s.evr.unreported + 1 → t.evr.unreported = 0)
          ∧ (s.evr.irqEn = false → t.evr.unreported = s.evr.unreported + 1))
      ∧ (s.evr.active = true → s.evr.irqEn = true → s.evr.coUs ≠ 0 → s.evr.unreported ≠ 0 → mayRequest s = true →
        (s.pci.msix.get Msix.reset s.evr.vector).masked = false →
        Answers (exec .evrCoalesceTimeout s)
          (emit (.msix s.evr.vector (s.pci.msix.get Msix.reset s.evr.vector).addr (s.pci.msix.get Msix.reset s.evr.vector).data)
            (setEvr s { s.evr with unreported := 0 }))))
    ∧ (∀ (s : State) (v : Nat) (m : Msix), HostReaches s → v < 64 → s.pci.msix.get Msix.reset v = m →
      (m.masked = true → m.pend = true → mayRequest s = true →
        Answers (exec (.msixUnmask v) s) (emit (.msix v m.addr m.data) (setMsix s v { m with masked := false, pend := false })))
      ∧ (m.pend = false → Answers (exec (.msixUnmask v) s) (setMsix s v { m with masked := false })))
    ∧ (∀ (s : State) (n : Nat) (v : W64) (w u : _), HostReaches s → n < 64 → s.pci.watch.get Watch.reset n = w →
      u = setWatch (setPci s { s.pci with low := s.pci.low.del (0x21000 + 8 * n) }) n
        { w with token := fld v 0 16, vector := fld v 16 6, enable := bit v 24, fired := w.fired && !(bit v 25) } →
      (bit v 24 = false ∨ (w.fired = true ∧ bit v 25 = false) ∨ tokCode (tokOf s (fld v 0 16)).st < 2 →
        Answers (exec (.tokenWatchWrite n 0 8 v) s) u)
      ∧ (bit v 24 = true → (w.fired = false ∨ bit v 25 = true) → 2 ≤ tokCode (tokOf s (fld v 0 16)).st →
        ∃ x, Answers (exec (.tokenWatchWrite n 0 8 v) s) (sendMsix (fld v 16 6) (setWatch u n x))
          ∧ x.fired = true ∧ x.state = tokCode (tokOf s (fld v 0 16)).st ∧ x.token = fld v 0 16 ∧ x.enable = true))
    ∧ (∀ (s : State) (len : Nat), HostReaches s → Answers (exec (.streamBufferRead len) s) (emit (.memData (List.replicate len 0) false) s))
    ∧ (∀ (s : State) (a : Nat) (v : W64), HostReaches s → isCounter a = true → a % 8 = 0 → regOf (touch a s) a = some (a, 8, v) → readsZero (touch a s) a = false →
      ∃ t, Answers (exec (.counterLowRead a) s) t ∧ t.out = .regData (v &&& 0xFFFFFFFF#64) :: s.out
        ∧ t.pci.latch = s.pci.latch.put a ((v >>> 32).setWidth 32) ∧ t.evr = s.evr ∧ t.recs = s.recs)
    ∧ (∀ (s : State) (a : Nat) (v : W64) (h : W32), HostReaches s → isCounter a = true → a % 8 = 0 → regOf (touch (a + 4) s) (a + 4) = some (a, 8, v) →
      readsZero (touch (a + 4) s) (a + 4) = false → s.pci.latch.find a = some h →
      ∃ t, Answers (exec (.counterLowRead (a + 4)) s) t ∧ t.out = .regData (h.setWidth 64) :: s.out ∧ t.pci.latch = s.pci.latch.del a)
    ∧ (∀ (s : State) (off size : Nat) (v : W64), HostReaches s → off < 0x1000000 → 0 < size →
      (((size ≠ 4 ∧ size ≠ 8) ∨ off % size ≠ 0) →
        (∃ t, Answers (exec (.badWidthAccess off size true v) s) t ∧ t = regAccess 1 off size true v s)
        ∧ Answers (exec (.badWidthAccess off size false v) s) (emit (.regData 0) (regAccess 1 off size false 0 s)))
      ∧ (size = 8 → off % 8 = 0 → windowDie off ≠ some 7 →
        (regOf s off = none → Answers (exec (.registerWrite off size v) s) (regAccess 9 off size true v s))
        ∧ (regOf s off ≠ none → Answers (exec (.registerWrite off size v) s) (applyWrite off size v s))))
    ∧ (∀ (s : State) (cl : Nat) (v : W64), HostReaches s → cl < 32 →
      ∃ t, Answers (exec (.registerWrite (clusterBase cl + 0x40200) 4 v) s) t ∧ SameData s t
        ∧ (clOf t cl).occEnable = bit v 0 ∧ (clOf t cl).occPeriod = fld v 8 8)

/-- An evaluation sets a clock to the least of the thermal, sag, profile, software, power and adaptive-voltage limits at
once when it lies above it, and raises it by 50 MHz when 100 us have passed since the last rise. CLOCK_EVALUATION sets
the rail and the adaptive-voltage limit, CLU_CAP_WRITE the software cap, POWER_LOOP the power cap; each evaluates, and
a pending profile change completes when the power and every running clock are in place. CLUSTER_GATE gates an idle
cluster only. DROOP counts a stretch and may raise the rail, DROOP_END ends both. SENSOR_SAMPLE takes four readings;
the cap steps down above 95 C while the temperature has not fallen in 10 us, at most once in 10 us, is 500 MHz above
105 C, holds from 92 to 95 C, and is lifted after 100 us below 92 C; the hub die writes one THERMAL_LIMIT per
excursion. (14_power_clocks_thermal.md R499; 14_power_clocks_thermal.md R500; 14_power_clocks_thermal.md R501;
14_power_clocks_thermal.md R502; 14_power_clocks_thermal.md R504; 14_power_clocks_thermal.md R508;
14_power_clocks_thermal.md R509; 14_power_clocks_thermal.md R511; 14_power_clocks_thermal.md R512;
14_power_clocks_thermal.md R514.) -/
def Obligations.ClocksFollowTheirTargetsAndCapsTheirSensors : Prop :=
    (∀ (s : State) (cl t f : Nat), t = min (min (min (clOf s cl).thermalCap (if 2 ≤ s.pwr.sagStage then 1200 else 1500))
        (min (min s.pwr.profCap (min 1500 (max 500 ((clOf s cl).cap / 50 * 50)))) s.pwr.powerCap)) (clOf s cl).avsCap →
      f = (if (clOf s cl).clockMhz = 0 then 500 else (clOf s cl).clockMhz) →
      (t < f → (clOf (evalClock cl s) cl).clockMhz = t)
      ∧ (f < t → 5000 ≤ (s.aoCount - (clOf s cl).lastUp).toNat → (clOf (evalClock cl s) cl).clockMhz = f + 50 ∧ (clOf (evalClock cl s) cl).lastUp = s.aoCount)
      ∧ (f = t ∨ (f < t ∧ (s.aoCount - (clOf s cl).lastUp).toNat < 5000) → (clOf (evalClock cl s) cl).clockMhz = f)
      ∧ (∀ j, j ≠ cl → clOf (evalClock cl s) j = clOf s j) ∧ (evalClock cl s).cmds = s.cmds ∧ (evalClock cl s).core = s.core)
    ∧ (∀ (s : State) (cl need pass : Nat), cl < 32 → (clOf s cl).railOff = false →
      Answers (exec (.clockEvaluation cl need pass) s) (settleProfile (evalClock cl (setCl s cl { clOf s cl with
        avsCap := if 850 < need then min 1500 (pass / 50 * 50) else 1500, voltMv := min 850 (max 650 ((need + 14) / 5 * 5)) }))))
    ∧ (∀ (s : State) (cl v : Nat), HostReaches s → cl < 32 →
      Answers (exec (.cluCapWrite cl v) s) (settleProfile (evalClock cl (setCl s cl { clOf s cl with cap := v % 2048 }))))
    ∧ (∀ (s : State) (watts : Nat) (cs : List Nat), ∃ u, Answers (exec (.powerLoop watts cs) s) (settleProfile ((List.range 32).foldl (fun s cl => evalClock cl s) u))
      ∧ u.pwr.powerW = watts % 65536
      ∧ (profileWatts s.pwr.profile < watts → u.pwr.powerCap = max 500 (s.pwr.powerCap - 50) ∧ u.pwr.lowSince = none)
      ∧ (∀ t, watts * 100 < profileWatts s.pwr.profile * 97 → s.pwr.lowSince = some t → 50000 ≤ (s.aoCount - t).toNat → u.pwr.powerCap = s.pwr.profCap)
      ∧ (profileWatts s.pwr.profile * 97 ≤ watts * 100 → watts ≤ profileWatts s.pwr.profile → u.pwr.powerCap = s.pwr.powerCap ∧ u.pwr.lowSince = none)
      ∧ (∀ i, i < cs.length → i < 32 → (clOf u i).powerW = cs.getD i 0 % 65536))
    ∧ (∀ s : State, (s.pwr.profPending = false ∨ profileWatts s.pwr.profile < s.pwr.powerW → settleProfile s = s)
      ∧ (∀ c n, s.pwr.profPending = true → s.pwr.powerW ≤ profileWatts s.pwr.profile → s.cmds = [c] → c.work = .profile n →
        (∀ cl, cl < 32 → (clOf s cl).gated = true ∨ (clOf s cl).railOff = true ∨ (clOf s cl).clockMhz = targetMhz s (clOf s cl)) →
        ∃ r, settleProfile s = completeCmd c.no .done (record r (setPwr s { s.pwr with profPending := false })) ∧ r.cls = 0x0608 ∧ r.outcome = s.pwr.profile
          ∧ r.d2 = BitVec.ofNat 32 s.pwr.profOld))
    ∧ (∀ (s : State) (cl : Nat), cl < 32 →
      ((clOf s cl).prog = none → (clOf s cl).rotDue = false → (clOf s cl).occTesting = 15 →
        Answers (exec (.clusterGate cl) s) (setCl s cl { clOf s cl with gated := true }))
      ∧ ((clOf s cl).prog ≠ none → Answers (exec (.clusterGate cl) s) s)
      ∧ (∀ raised, (clOf s cl).stretched = false → (clOf s cl).railOff = false →
        ∃ t, Answers (exec (.droop cl raised) s) t ∧ (clOf t cl).stretched = true ∧ (clOf t cl).droopStretch = satInc 0xFFFF (clOf s cl).droopStretch
          ∧ (clOf t cl).voltMv = max (clOf s cl).voltMv raised ∧ (clOf t cl).clockMhz = (clOf s cl).clockMhz ∧ t.core = s.core)
      ∧ ((clOf s cl).stretched = true → ∃ t, Answers (exec (.droopEnd cl) s) t ∧ (clOf t cl).stretched = false
        ∧ (∀ x, clampOf s 12 cl = some x → (clOf t cl).voltMv = x.want) ∧ (clampOf s 12 cl = none → (clOf t cl).voltMv = (clOf s cl).voltMv)))
    ∧ (∀ (s : State) (cl : Nat) (rs : List W16) (hot : W16), rs.length = 4 → s.pwr.aoPwrGd = true → hot = hotSensor rs →
      (cl < 32 → ∃ u, (clOf u cl) = { clOf s cl with sensors := rs } ∧ u.aoCount = s.aoCount ∧ u.recs = s.recs
        ∧ (115 * 16 ≤ hot.toInt → Answers (exec (.sensorSample cl rs) s) (trip 3 (unitClu cl) hot.toNat u))
        ∧ (hot.toInt < 115 * 16 → Answers (exec (.sensorSample cl rs) s) (thermalStep cl hot u)))
      ∧ (cl = 36 → 95 * 16 < hot.toInt → hot.toInt < 115 * 16 → 4 ∉ s.pwr.hotSeen →
        ∃ r u, Answers (exec (.sensorSample cl rs) s) (record r u) ∧ r.cls = 0x0602 ∧ r.outcome = 2 ∧ r.d2 = BitVec.ofNat 32 hot.toNat
          ∧ u.pwr.hubSensors = rs ∧ u.pwr.limitSeen = true ∧ u.pwr.hotSeen = 4 :: s.pwr.hotSeen ∧ u.recs = s.recs)
      ∧ (cl = 36 → hot.toInt < 115 * 16 → (hot.toInt ≤ 95 * 16 ∨ 4 ∈ s.pwr.hotSeen) →
        ∃ t, Answers (exec (.sensorSample cl rs) s) t ∧ t.recs = s.recs ∧ t.pwr.hubSensors = rs ∧ t.cl = s.cl))
    ∧ (∀ (s : State) (cl : Nat) (hot : W16),
      (105 * 16 < hot.toInt → (clOf (thermalStep cl hot s) cl).thermalCap = 500 ∧ (clOf (thermalStep cl hot s) cl).inLimit = true)
      ∧ (95 * 16 < hot.toInt → hot.toInt ≤ 105 * 16 → (clOf s cl).inLimit = false →
        ((∀ x, hotThen s (clOf s cl) = some x → x.2.toInt ≤ hot.toInt) → (∀ a, (clOf s cl).fellAt = some a → 500 ≤ (s.aoCount - a).toNat) →
          (clOf (thermalStep cl hot s) cl).thermalCap = max 500 ((clOf s cl).thermalCap - 50))
        ∧ ((∃ x, hotThen s (clOf s cl) = some x ∧ hot.toInt < x.2.toInt) ∨ (∃ a, (clOf s cl).fellAt = some a ∧ (s.aoCount - a).toNat < 500) →
          (clOf (thermalStep cl hot s) cl).thermalCap = (clOf s cl).thermalCap))
      ∧ (92 * 16 ≤ hot.toInt → hot.toInt ≤ 95 * 16 → (clOf s cl).inLimit = false → (clOf (thermalStep cl hot s) cl).thermalCap = (clOf s cl).thermalCap)
      ∧ (∀ x, hot.toInt < 92 * 16 → (clOf s cl).coolSince = some x → 5000 ≤ (s.aoCount - x).toNat →
        (clOf (thermalStep cl hot s) cl).thermalCap = 1500 ∧ (clOf (thermalStep cl hot s) cl).inLimit = false))

/-- THERMAL_TRIP asserts THERMTRIP_N, drives every LASER_EN_N high, ends all but the always-on state, and makes the next
start a cold one with cause 5. RAIL_SAMPLE takes the lowest average; below an entry level the stage is entered, with a
SAG_STAGE record and its action; several levels at once are entered in ascending order. SAG_STAGE_EXIT leaves one
stage above its leaving level and undoes its action. REGULATOR_OVERVOLTAGE records, marks the rail off for good and
takes the cluster offline, or stops the die; REGULATOR_FAULT records and takes the cluster offline; VIN_OVERVOLTAGE
shuts down, keeping HBM in self-refresh, next cause 6. CLOCK_LOCK_LOSS records and resets the die concerned (for the
hub and link clocks the model's choice, log 26). (14_power_clocks_thermal.md R494; 14_power_clocks_thermal.md R495;
14_power_clocks_thermal.md R496; 14_power_clocks_thermal.md R513; 14_power_clocks_thermal.md R516;
14_power_clocks_thermal.md R517; 14_power_clocks_thermal.md R518; 14_power_clocks_thermal.md R519;
14_power_clocks_thermal.md R521.) -/
def Obligations.TripsSagsAndRailFaultsShedLoad : Prop :=
    (∀ (s : State) (d : Nat) (reading : W16), d < 7 → s.pwr.aoPwrGd = true → s.pwr.tripLow = false →
      ∃ t r, Answers (exec (.thermalTrip d reading) s) t ∧ t.pwr.tripLow = true ∧ t.pwr.shdnHigh = false ∧ t.boot.nextCause = 5 ∧ t.boot.ready = false
        ∧ (∀ i, i < 4 → (fibreOf t i).enHigh = true) ∧ t.hbm = [] ∧ t.cl = [] ∧ t.core = [] ∧ t.tok = [] ∧ t.flash = s.flash ∧ t.aoCount = s.aoCount ∧ t.pending = s.pending
        ∧ t.recs.log = newest 4096 (s.recs.log ++ [r]) ∧ r.cls = 0x0603 ∧ r.outcome = 1 ∧ r.d1 = 3 ∧ r.d2 = BitVec.ofNat 32 reading.toNat)
    ∧ (∀ (s : State) (mv : List Nat) (low : Nat), mv.length = 4 → (∀ x ∈ mv, x < 4096) → s.pwr.aoPwrGd = true → sagActs s = true → low ∈ mv → (∀ x ∈ mv, low ≤ x) →
      ∃ u, u.pwr.railMv = low ∧ u.pwr.sagStage = s.pwr.sagStage ∧ u.pwr.lowestMv = (if s.pwr.lowestMv = 0 then low else min s.pwr.lowestMv low) ∧ u.recs = s.recs
        ∧ (∀ d, d < 4 → (dieOf u d).railMv = mv.getD d 0)
        ∧ (s.pwr.sagStage < 6 → 1746 - 36 * s.pwr.sagStage ≤ low → Answers (exec (.railSample mv) s) (settleProfile u))
        ∧ (∀ n, s.pwr.sagStage + 1 = n → n ≤ 6 → low < 1782 - 36 * n → (n < 6 → 1746 - 36 * n ≤ low) →
          Answers (exec (.railSample mv) s) (settleProfile (enterSag n u)))
        ∧ (s.pwr.sagStage = 0 → low < 1674 → 1638 ≤ low → Answers (exec (.railSample mv) s) (settleProfile (enterSag 3 (enterSag 2 (enterSag 1 u))))))
    ∧ (∀ (s : State) (n : Nat), 1 ≤ n → n ≤ 6 →
      ∃ u r, enterSag n s = sagAction n (record r u) ∧ r.cls = 0x0604 ∧ r.outcome = n ∧ r.d1 = 5 ∧ r.d2 = BitVec.ofNat 32 s.pwr.railMv
        ∧ u.pwr = { s.pwr with sagStage := n, sagEntries := satInc 0xFFFF s.pwr.sagEntries } ∧ u.recs = s.recs ∧ u.hbm = s.hbm ∧ u.cl = s.cl)
    ∧ (∀ s : State, sagAction 1 s = s ∧ sagAction 2 s = evalClocks s
      ∧ (∀ k, k < 288 → (coreOf (sagAction 3 s) k).bOff = true ∧ (coreOf (sagAction 3 s) k).qB = [] ∧ (coreOf (sagAction 3 s) k).mem = (coreOf s k).mem)
      ∧ sagAction 4 s = settleLinks (fabEnd (leaseGo (settlePlan (parkPorts s))))
      ∧ (∃ u, sagAction 5 s = fabEnd u ∧ ∀ k, k < 12 → (stackOf u k).state ≠ 2)
      ∧ sagAction 6 s = shutdown s)
    ∧ (∀ s : State, (shutdown s).pwr.shdnHigh = false ∧ (shutdown s).boot.nextCause = 6 ∧ (shutdown s).cl = [] ∧ (shutdown s).core = [] ∧ (shutdown s).tok = []
      ∧ (∀ i, i < 4 → (fibreOf (shutdown s) i).enHigh = true) ∧ (shutdown s).boot.ready = false)
    ∧ (∀ (s : State) (n : Nat), s.pwr.sagStage = n → 1 ≤ n → n ≤ 5 →
      (s.pwr.railMv ≤ 1800 - 36 * n → Answers (exec .sagStageExit s) s)
      ∧ (1800 - 36 * n < s.pwr.railMv → ∃ u r, u = record r (setPwr s { s.pwr with sagStage := n - 1 }) ∧ r.cls = 0x0604 ∧ r.outcome = 0x10 + n
        ∧ (n = 1 → Answers (exec .sagStageExit s) u) ∧ (n = 2 → Answers (exec .sagStageExit s) (settleProfile (evalClocks u)))
        ∧ (n = 3 → Answers (exec .sagStageExit s) (switchB false u) ∧ ∀ k, k < 288 → (coreOf (switchB false u) k).bOff = false)
        ∧ (n = 4 → Answers (exec .sagStageExit s) (settleLinks (fabEnd (leaseGo (settlePlan (unparkPorts u))))))
        ∧ (n = 5 → Answers (exec .sagStageExit s) (goOnAll (grantHeld (wakeStacks u)))
          ∧ ∀ k, k < 12 → (stackOf u k).state = 3 → (dieOf u (k / 3)).inReset = false → (stackOf (wakeStacks u) k).state = 2)))
    ∧ (∀ (s : State) (r mv : Nat), r ∉ s.pwr.deadRails → r ∉ s.flash.rails →
      (r < 32 → ((clOf s r).voltMv + 50 < mv ∨ 900 < mv) →
        ∃ u i, Answers (exec (.regulatorOvervoltage r mv) s) (takeOffline r u) ∧ (clOf u r).railOff = true ∧ (clOf u r).clockMhz = 0 ∧ (clOf u r).voltMv = 0
          ∧ u.flash = { s.flash with rails := s.flash.rails ++ [r] } ∧ u.pwr = { s.pwr with deadRails := s.pwr.deadRails ++ [r] }
          ∧ u.recs = (record i s).recs ∧ i.unit = unitRail r ∧ i.cls = 0x0605 ∧ i.outcome = 1 ∧ i.d2 = BitVec.ofNat 32 mv)
      ∧ (32 ≤ r → r < 36 → 800 < mv →
        ∃ u i, Answers (exec (.regulatorOvervoltage r mv) s) (checkRoutes (settleAlts ((allPorts.filter (fun k => decide (k.1 = r - 32))).foldl
            (fun s k => setEnds k.1 k.2 (fun x => { x with state := 0, width := [] }) s) (quitDie (r - 32) u))))
          ∧ (dieOf u (r - 32)).railOff = true ∧ (dieOf u (r - 32)).dieRailMv = 0 ∧ u.flash = { s.flash with rails := s.flash.rails ++ [r] }
          ∧ u.recs = (record i s).recs ∧ i.unit = unitRail r ∧ i.cls = 0x0605 ∧ i.outcome = 2)
      ∧ (r < 32 → mv ≤ (clOf s r).voltMv + 50 → mv ≤ 900 → Answers (exec (.regulatorOvervoltage r mv) s) s))
    ∧ (∀ (s : State) (mv : Nat), 1980 < mv → s.pwr.shdnHigh = true →
      ∃ i, Answers (exec (.vinOvervoltage mv) s) (shutdown (record i s)) ∧ i.cls = 0x0605 ∧ i.outcome = 3 ∧ i.d2 = BitVec.ofNat 32 mv)
    ∧ (∀ (s : State) (r set reading : Nat), r < 36 → reading + 50 < set →
      ∃ i, i.unit = unitRail r ∧ i.cls = 0x0606 ∧ i.outcome = 1 ∧ i.d2 = BitVec.ofNat 32 set ∧ i.d3 = BitVec.ofNat 32 reading
        ∧ (32 ≤ r → Answers (exec (.regulatorFault r set reading) s) (record i s))
        ∧ (r < 32 → ∃ u, Answers (exec (.regulatorFault r set reading) s) (takeOffline r u) ∧ (clOf u r).railOff = true ∧ u.flash = s.flash ∧ u.recs = (record i s).recs))
    ∧ (∀ (s : State) (row d : Nat), 1 ≤ row → row ≤ 7 → d < 7 → s.boot.ready = true →
      ∃ u i, u = record i s ∧ i.cls = 0x0609 ∧ i.outcome = 1 ∧ i.d2 = BitVec.ofNat 32 row
        ∧ (d ≠ 4 → Answers (exec (.clockLockLoss row d) s) (requestDie d u))
        ∧ (d = 4 → row = 3 → Answers (exec (.clockLockLoss row d) s) (requestWarm 8 u))
        ∧ (d = 4 → row = 5 → Answers (exec (.clockLockLoss row d) s) (flrLike (setPci u { u.pci with linkUp := false })))
        ∧ (d = 4 → row = 6 → Answers (exec (.clockLockLoss row d) s) { u with stp := { u.stp with linkUp := false } }))

/-- AO_CLOCKS releases PWR_SHDN_N; ENCLAVE_ROM draws a challenge; FETCH takes the region of the boot record copy with the
larger SEQ; VERIFY runs an image whose signer, signatures, version and digest pass, and goes on with KAT at a cold
start only; DISCOVERY waits for the rails, checks every die identity and samples the straps at a cold start; DIE_LINKS
needs a route to every die; HBM trains or restores every stack; SRAM tests at a cold start and zeroes at a warm one;
OPTICAL calibrates or relocks and compares the device ids heard, STORAGE uses a flit-mode link and its good
controllers; READY puts the package in service, and the commit of the image then blows one fuse bit at a time. A
failure is START_FAILED with the failing unit. COMB_LOCK_TIMEOUT completes OPTICAL with every link down.
(15_start_and_reset.md R522; 15_start_and_reset.md R523; 15_start_and_reset.md R524; 15_start_and_reset.md R525;
15_start_and_reset.md R526; 15_start_and_reset.md R527; 15_start_and_reset.md R528; 15_start_and_reset.md R530;
16_enclave_and_management.md R538; 16_enclave_and_management.md R540; 16_enclave_and_management.md R542;
16_enclave_and_management.md R553.) -/
def Obligations.StartStagesFollowInOrder : Prop :=
    (∀ s : State, inStage s 0 = true →
      Answers (exec (.aoClocks true) s) { s with pwr := { s.pwr with shdnHigh := true }, boot := { s.boot with stage := 2 } }
      ∧ Answers (exec (.aoClocks false) s) (startFails 0x4FFF0000#32 s))
    ∧ (∀ s : State, inStage s 2 = true → s.encl.state ≠ 3 →
      (∃ t, Answers (exec (.enclaveRom true) s) t ∧ t.boot.stage = 3 ∧ t.encl.challenge.length = 32 ∧ t.free = s.free + 32 ∧ t.recs = s.recs)
      ∧ Answers (exec (.enclaveRom false) s) (startFails 0x4FFE0000#32 (enclaveError 1 s)))
    ∧ (∀ s : State, inStage s 3 = true →
      (∀ r, bootRegion s = some r → ∃ t, Answers (exec (.fetch true) s) t ∧ t.boot.stage = 4 ∧ t.encl.region = r ∧ t.flash = s.flash)
      ∧ (bootRegion s = none → Answers (exec (.fetch true) s) (startFails 0x4FFE0001#32 s))
      ∧ Answers (exec (.fetch false) s) (startFails 0x4FFE0001#32 s))
    ∧ (∀ (s : State) (r : Nat), bootRegion s = some r → ∃ i, i < 2 ∧ r = ((bootCopy s i).getD 8 0).toNat ∧ bootValid (bootCopy s i) = true
      ∧ (bootValid (bootCopy s (1 - i)) = true → bootSeq (bootCopy s (1 - i)) ≤ bootSeq (bootCopy s i)))
    ∧ (∀ s : State, inStage s 4 = true →
      ∃ i, i.cls = 0x0802 ∧ i.outcome = verifyImage s s.encl.region ∧ i.d1 = BitVec.ofNat 32 (hVersion (imageBytes s s.encl.region 0 512))
        ∧ (verifyImage s s.encl.region ≠ 1 → Answers (exec .verify s) (startFails 0x4FFE0000#32 (record i s)))
        ∧ (verifyImage s s.encl.region = 1 → ∃ t, Answers (exec .verify s) t ∧ t.recs = (record i s).recs ∧ t.encl.header = imageBytes s s.encl.region 0 512
            ∧ t.encl.signerPk = imageBytes s s.encl.region 0x200 64 ∧ t.boot.stage = (if s.boot.kind = 1 then 5 else 6) ∧ t.encl.fusedSvn = s.encl.fusedSvn))
    ∧ (∀ (s : State) (g : Nat) (h pk : List Byte), h = imageBytes s g 0 512 → pk = imageBytes s g 0x200 64 → verifyImage s g = 1 →
      h.take 4 = [0x4B, 0x34, 0x46, 0x57] ∧ s.encl.revoked.getLsbD (hSigner h) = false ∧ hRevoke h / 2 ^ hSigner h % 2 = 0
      ∧ Config.slhVerify Config.rootPk (leBytes 2 (hSigner h) ++ pk) (imageBytes s g 0x240 29792) = true
      ∧ Config.slhVerify pk h (imageBytes s g 0x76A0 29792) = true ∧ s.encl.fusedSvn ≤ hSvn h
      ∧ Config.shake256 (imageBytes s g 0x10000 (hBody h)) 64 = hDigest h)
    ∧ (∀ s : State, inStage s 5 = true →
      (∃ t, Answers (exec (.kat true) s) t ∧ t.boot.stage = 6 ∧ t.encl.state = (if s.encl.udsBlown then 4 else 2) ∧ t.recs = s.recs)
      ∧ Answers (exec (.kat false) s) (startFails 0x4FFE0000#32 (enclaveError 1 s)))
    ∧ (∀ (s : State) (ids : List W128) (dev dom limit : Nat) (pg certOk : Bool), inStage s 6 = true → ids.all steppingOk = true →
      (pg = false ∨ (∃ d, d < 4 ∧ (dieOf s d).railMv ≤ 1764) → Answers (exec (.discovery ids dev dom limit pg certOk) s) { s with pwr := { s.pwr with hbmPg := pg } })
      ∧ (pg = true → (∀ d, d < 4 → 1764 < (dieOf s d).railMv) →
        (∀ d, d < 7 → (∀ j, j < d → idGood j (ids.getD j 0) = true) → idGood d (ids.getD d 0) = false →
          ∃ u, Answers (exec (.discovery ids dev dom limit pg certOk) s) (startFails (unitDie d 15 0) u) ∧ u.boot = s.boot ∧ u.recs = s.recs)
        ∧ ((∀ d, d < 7 → idGood d (ids.getD d 0) = true) →
          ∃ u, Answers (exec (.discovery ids dev dom limit pg certOk) s) (nextClass (trainClass 0 u)) ∧ u.boot.stage = 7
            ∧ u.d2d.ids = (List.range 7).map (fun d => (d, ids.getD d 0)) ∧ u.pci.conf.revision = 1
            ∧ (s.boot.kind = 1 → u.boot.device = dev % 64 ∧ u.boot.domain = dom % 16)
            ∧ (s.boot.kind ≠ 1 → u.boot.device = s.boot.device ∧ u.boot.domain = s.boot.domain)
            ∧ u.pci.ideRequired = decide (hPolicy s.encl.header % 2 = 1) ∧ u.flash = s.flash ∧ u.pwr.deadRails = s.flash.rails))
      ∧ ((∃ d, d < 4 ∧ (dieOf s d).railMv ≤ 1764) → ∃ d, d < 4 ∧ (dieOf s d).railMv ≤ 1764 ∧ (∀ j, j < d → 1764 < (dieOf s j).railMv)
          ∧ Answers (exec .railWaitTimeout s) (startFails (unitDie d 15 0) s))
      ∧ ((∀ d, d < 4 → 1764 < (dieOf s d).railMv) → s.pwr.hbmPg = false → Answers (exec .railWaitTimeout s) (startFails 0x4FFE0001#32 s)))
    ∧ (∀ (s : State) (present : Bool) (width : List Nat) (speed : Nat) (desc : List Byte), inStage s 7 = true → width.length = 8 →
      (speed = 4 ∨ speed = 8 ∨ speed = 16 ∨ speed = 32) →
      (∀ n, n < 3 → classSettled s n = true) →
      (cutOff s = none → ∃ u, u = setBoot s { s.boot with d2dValid := (List.range 4).filter (linksTrained s) }
        ∧ Answers (exec (.dieLinks present width speed desc) s) (setStage 8 (admitComp present width speed desc u))
        ∧ (present = false → (portOf (admitComp present width speed desc u) 4 4).state = 6 ∧ (admitComp present width speed desc u).recs = s.recs)
        ∧ (present = true → admission s width desc ≠ 1 → (admitComp present width speed desc u).d2d.comp.resetLow = true
          ∧ (admitComp present width speed desc u).d2d.comp.state = 4))
      ∧ (∀ d, cutOff s = some d → ∃ u, Answers (exec (.dieLinks present width speed desc) s) (startFails (unitDie d 15 0) u) ∧ u.boot = s.boot))
    ∧ (∀ (s : State) (res : List (Bool × Nat × Nat)) (bad : List Nat) (good : Nat → Prop), inStage s 8 = true → res.length = 12 →
      (∀ k, good k ↔ ((res.getD k (false, 0, 0)).1 = true ∧ s.boot.kind = 2 ∧ k / 3 ∈ s.boot.hbmValid) ∨ rateOk (res.getD k (false, 0, 0)).2.1 = true) →
      ((∀ k, k < 12 → good k) → ∃ t, Answers (exec (.hbm res bad) s) t ∧ t.boot.stage = 9 ∧ t.boot.hbmValid = [0, 1, 2, 3] ∧ t.hbm = s.hbm
        ∧ (∀ k, k < 12 → (stackOf t k).state = (if 5 ≤ s.pwr.sagStage then 3 else 2)) ∧ t.flash = (if s.boot.kind = 1 then { s.flash with sectors := s.flash.sectors ++ bad } else s.flash))
      ∧ (∀ k, k < 12 → ¬ good k → (∀ j, j < k → good j) →
        ∃ u, Answers (exec (.hbm res bad) s) (startFails (unitId (k / 3) 15 15 9 (k % 3)) u) ∧ (stackOf u k).state = 4 ∧ k / 3 ∉ u.boot.hbmValid))
    ∧ (∀ s : State, inStage s 9 = true →
      (∀ bad, s.boot.kind ≠ 1 → ∃ t, Answers (exec (.sram bad) s) t ∧ t.boot.stage = 0xA ∧ (∀ k, (coreOf t k).mem = []) ∧ (∀ c, (clOf t c).plates = [] ∧ (clOf t c).imem = [])
        ∧ ∀ f, f < 4 → ((fibreOf s f).state = 0 → (fibreOf t f).enHigh = false ∧ (fibreOf t f).lowLow = false)
          ∧ ((fibreOf s f).state ≠ 0 → fibreOf t f = fibreOf s f))
      ∧ (s.boot.kind = 1 → ∃ t, Answers (exec (.sram []) s) t ∧ t.boot.stage = 0xA ∧ t.recs = s.recs
        ∧ ∀ d, d < 4 → d ∉ t.flash.movers ∧ (dieOf t d).mover.st = 0)
      ∧ (∀ d item, s.boot.kind = 1 → d < 4 → d ∉ s.flash.movers → ∃ t r, Answers (exec (.sram [(5, d, item)]) s) t ∧ t.boot.stage = 0xA
        ∧ d ∈ t.flash.movers ∧ (∀ e, e < 4 → e ≠ d → e ∉ t.flash.movers ∧ (dieOf t e).mover.st = 0) ∧ (dieOf t d).mover.st = 2 ∧ t.recs = (record r s).recs ∧ r.cls = 0x0708 ∧ r.outcome = 5
        ∧ r.d1 = BitVec.ofNat 32 item))
    ∧ (∀ (s : State) (up rts : List Nat) (phase : Option Nat) (fs : List Frame), inStage s 0xA = true →
      (s.mer.combLock = true →
        (framesFault s (fs.filter (fun f => !(relocks s (linkDie f.link)))) = none →
          ∃ u, Answers (exec (.optical up rts phase fs) s) (afterOptical u) ∧ u.mer.phaseLock = phase.isSome
          ∧ (∀ t, phase = some t → u.mer.slot = t % 1024)
          ∧ (∀ q, q < 64 → q ∈ up → (linkOf u q).txLock = true ∧ (linkOf u q).rxLock = true) ∧ (∀ q, q < 64 → q ∉ up → (linkOf u q).state = 0)
          ∧ (∀ d, d = 5 ∨ d = 6 → relocks s d = false → d ∈ u.boot.optValid ∧ u.boot.optTemp.get 0 d = photHot s d)
          ∧ u.boot.idConflict = s.boot.idConflict)
        ∧ (∀ f n, framesFault s (fs.filter (fun f => !(relocks s (linkDie f.link)))) = some (f, n) →
          ∃ u, Answers (exec (.optical up rts phase fs) s) (startFails (unitLink f.link) (linkRec f.link 0x0407 n f.src u))
          ∧ u.boot.idConflict = true))
      ∧ (s.mer.combLock = false → ∃ r u, Answers (exec .combLockTimeout s) (afterOptical (record r u)) ∧ r.cls = 0x0408 ∧ r.outcome = 1
        ∧ ∀ q, q < 64 → (linkOf u q).state = 0)
      ∧ (afterOptical s).boot.stage = (if s.boot.stored then 0xC else 0xB))
    ∧ (∀ (s : State) (up flit : Bool) (speed width : Nat) (found : List NvFound), s.boot.stored = false →
      inStage s 0xA = true ∨ inStage s 0xB = true →
      ∃ t used, Answers (exec (.storage up flit speed width found) s) t
        ∧ (used = true ↔ up = true ∧ flit = true ∧ 1 ≤ speed ∧ speed ≤ 6 ∧ (width = 1 ∨ width = 2 ∨ width = 4 ∨ width = 8))
        ∧ t.stp.linkUp = used ∧ t.stp.speed = (if used then speed else 0) ∧ t.stp.width = (if used then width else 0)
        ∧ t.boot = (if s.boot.stage = 0xB then { s.boot with stage := 0xC } else { s.boot with stored := true })
        ∧ (∀ n, n < 4 → ((nvCtrl t n).present = true ↔ ∃ c, used = true ∧ found.find? (fun c => decide (c.port = n)) = some c ∧ nvGood c = true)))
    ∧ (∀ s : State, inStage s 0xC = true →
      ∃ u v r, u.boot.ready = true ∧ u.boot.starting = false ∧ u.boot.warmFails = 0 ∧ u.boot.warmHeld = none ∧ u.recs.inService = true
        ∧ u.recs.log = (record r s).recs.log ∧ r.cls = 0x0702 ∧ r.outcome = s.boot.kind ∧ r.d2 = BitVec.ofNat 32 s.boot.warmFails
        ∧ v = (if s.encl.aliasReady then u else seekAlias u)
        ∧ (s.boot.warmHeld = none → Answers (exec .ready s) (goOnAll v))
        ∧ (∀ c, s.boot.warmHeld = some c → Answers (exec .ready s) (requestWarm c (goOnAll v))))
    ∧ (∀ s : State,
      (s.boot.ready = false ∨ s.encl.committed = true → commitBit s = s)
      ∧ (s.boot.ready = true → s.encl.committed = false →
        (s.encl.fusedSvn < hSvn s.encl.header → (commitBit s).encl = { s.encl with fusedSvn := s.encl.fusedSvn + 1, blown := true } ∧ (commitBit s).recs = s.recs)
        ∧ (hSvn s.encl.header ≤ s.encl.fusedSvn →
          (∀ n, n < 16 → hRevoke s.encl.header / 2 ^ n % 2 = 1 → s.encl.revoked.getLsbD n = false →
            (∀ j, j < n → hRevoke s.encl.header / 2 ^ j % 2 = 1 → s.encl.revoked.getLsbD j = true) →
            (commitBit s).encl.revoked = s.encl.revoked ||| BitVec.ofNat 16 (2 ^ n) ∧ (commitBit s).encl.committed = false ∧ (commitBit s).recs = s.recs)
          ∧ ((∀ n, n < 16 → hRevoke s.encl.header / 2 ^ n % 2 = 1 → s.encl.revoked.getLsbD n = true) →
            (commitBit s).encl.committed = true ∧ (commitBit s).encl.fusedSvn = s.encl.fusedSvn ∧ (commitBit s).encl.revoked = s.encl.revoked
            ∧ (s.encl.blown = true → ∃ r u, commitBit s = seekAlias (record r u) ∧ u.recs = s.recs ∧ r.cls = 0x0804
                ∧ r.outcome = s.encl.fusedSvn ∧ r.d1 = BitVec.ofNat 32 s.encl.revoked.toNat)
            ∧ (s.encl.blown = false → (commitBit s).recs = s.recs)))))
    ∧ (∀ (s : State) (unit : W32), ∃ u r, u.boot = { s.boot with failStage := s.boot.stage, failUnit := unit } ∧ u.recs = (record r s).recs
      ∧ r.cls = 0x0703 ∧ r.outcome = s.boot.stage ∧ r.d1 = unit
      ∧ (s.boot.kind = 1 → startFails unit s = enterRecovery s.boot.stage unit u)
      ∧ (s.boot.kind ≠ 1 → s.boot.warmFails < 2 → s.boot.stage ≠ 4 →
          startFails unit s = warmDies (beginStart 2 8 (setBoot u { u.boot with warmFails := s.boot.warmFails + 1 })))
      ∧ (s.boot.kind ≠ 1 → s.boot.stage = 4 ∨ 2 ≤ s.boot.warmFails → startFails unit s = coldStart 4 (setBoot u { u.boot with warmFails := 3 })))

/-- AO_POWER_GOOD begins a cold start with the always-on counter at 0; AO_POWER_LOSS leaves boot flash and fuses. A cold
start loses HBM, every register and all training and keeps boot flash, fuses, log and counter. WARM and
BMC_WARM_RESET_REQUEST stop the package and restart at ENCLAVE_ROM when no program runs, are held during a start, and
keep HBM, recipes, streams, profile and configuration; WARM_STOP_TIMEOUT cuts what still runs. COLD needs lock class
0; COLD_START comes over I3C or SMBus, with cause 2 in recovery too. DIE resets a die at once or is held,
DIE_RESET_COMPLETE ends it or leads to a warm start; CLU_RESET quits one program and keeps the memories.
(15_start_and_reset.md R529; 15_start_and_reset.md R531; 15_start_and_reset.md R532; 15_start_and_reset.md R533;
15_start_and_reset.md R534; 15_start_and_reset.md R535; 02_programs_and_streams.md R79; 14_power_clocks_thermal.md
R497; 17_pins_and_package.md R574.) -/
def Obligations.ResetsRestartWhatTheyReach : Prop :=
    (∀ s : State, s.pwr.aoPwrGd = false → ∃ u, Answers (exec .aoPowerGood s) (coldStart 1 u) ∧ u.pwr.aoPwrGd = true ∧ u.aoCount = 0 ∧ u.flash = s.flash
      ∧ u.encl.fusedSvn = s.encl.fusedSvn ∧ u.encl.revoked = s.encl.revoked ∧ u.encl.udsBlown = s.encl.udsBlown
      ∧ (s.boot.recovery = false → u.recs = Recs.reset)
      ∧ (s.boot.recovery = true → ∃ r, u.recs.log = [r] ∧ r.cls = 0x0705 ∧ r.outcome = 2))
    ∧ (∀ s : State, ∃ t, Answers (exec .aoPowerLoss s) t ∧ t.flash = s.flash ∧ t.aoCount = 0 ∧ t.pwr.aoPwrGd = false ∧ t.recs = Recs.reset ∧ t.hbm = []
      ∧ t.encl.fusedSvn = s.encl.fusedSvn ∧ t.encl.revoked = s.encl.revoked ∧ t.boot.ready = false)
    ∧ (∀ (s : State) (cause : Nat), s.mgt.upd = none → ∃ r, (coldStart cause s).boot.starting = true ∧ (coldStart cause s).boot.stage = 0 ∧ (coldStart cause s).boot.kind = 1
      ∧ (coldStart cause s).boot.cause = cause ∧ (coldStart cause s).boot.ready = false ∧ (coldStart cause s).boot.hbmValid = [] ∧ (coldStart cause s).boot.optValid = []
      ∧ (coldStart cause s).hbm = [] ∧ (coldStart cause s).strm = [] ∧ (coldStart cause s).cl = [] ∧ (coldStart cause s).core = [] ∧ (coldStart cause s).recipe = []
      ∧ (coldStart cause s).tok = [] ∧ (coldStart cause s).flash = s.flash ∧ (coldStart cause s).aoCount = s.aoCount ∧ (coldStart cause s).encl.fusedSvn = s.encl.fusedSvn
      ∧ (coldStart cause s).boot.warmHeld = s.boot.warmHeld ∧ (coldStart cause s).recs.log = newest 4096 (s.recs.log ++ [r]) ∧ r.cls = 0x0701 ∧ r.outcome = 1
      ∧ r.d1 = BitVec.ofNat 32 cause)
    ∧ (∀ s : State, Answers (exec .bmcWarmResetRequest s) (requestWarm 2 s) ∧ (HostReaches s → Answers (exec .warm s) (requestWarm 3 s)))
    ∧ (∀ (s : State) (cause : Nat),
      (s.boot.starting = true → requestWarm cause s = setBoot s { s.boot with warmHeld := some (s.boot.warmHeld.getD cause) })
      ∧ (s.boot.starting = false → s.boot.ready = false → requestWarm cause s = s)
      ∧ (s.boot.starting = false → s.boot.ready = true → ∃ u, u.cmds = [] ∧ u.boot.starting = true ∧ u.boot.ready = false ∧ u.boot.kind = 2 ∧ u.boot.cause = cause
        ∧ u.boot.stopWarm = some cause ∧ (∀ i, (strmOf u i).enable = false) ∧ (runningCls u = [] → requestWarm cause s = warmDies u) ∧ (runningCls u ≠ [] → requestWarm cause s = u)))
    ∧ (∀ s : State, (warmDies s).boot.stage = 2 ∧ (warmDies s).boot.stopWarm = none ∧ (warmDies s).hbm = s.hbm ∧ (warmDies s).recipe = s.recipe ∧ (warmDies s).job = Job.reset
      ∧ (warmDies s).evr = Evr.reset ∧ (warmDies s).pci.watch = [] ∧ (warmDies s).pci.winBase = 0 ∧ (warmDies s).pci.bme = s.pci.bme ∧ (warmDies s).pci.mse = s.pci.mse
      ∧ (warmDies s).pci.bar2Log2 = s.pci.bar2Log2 ∧ (warmDies s).pwr.profile = s.pwr.profile ∧ (warmDies s).flash = s.flash ∧ (warmDies s).aoCount = s.aoCount
      ∧ (warmDies s).boot.device = s.boot.device ∧ (warmDies s).boot.domain = s.boot.domain ∧ (warmDies s).encl.idKey = false ∧ (warmDies s).encl.aliasKey = false
      ∧ (warmDies s).encl.sessions = []
      ∧ (∀ k, (stackOf s k).state = 2 → (stackOf (warmDies s) k).state = 3)
      ∧ (∀ i, s.cmds = [] → isHubTok i = true → (tokOf s i).st = .pending → (tokOf (warmDies s) i).st = .aborted)
      ∧ (∀ i, s.cmds = [] → isHubTok i = true → (tokOf s i).st ≠ .pending → (tokOf (warmDies s) i).st = (tokOf s i).st)
      ∧ (∀ c, (clOf (warmDies s) c).lanes = (clOf s c).lanes ∧ (clOf (warmDies s) c).prog = none))
    ∧ (∀ (s : State) (c : Nat), s.boot.stopWarm = some c → ∃ u, runningCls u = [] ∧ u.boot = s.boot ∧ Answers (exec .warmStopTimeout s) (warmDies u))
    ∧ (∀ s : State, HostReaches s →
      (lockOpen 0 s = true → Answers (exec .cold s) (requestCold false 3 s))
      ∧ (lockOpen 0 s = false → Answers (exec .cold s) (regAccess 8 0x500 4 true 2 s)))
    ∧ (∀ (s : State) (b : Nat), (b = 1 ∨ b = 2 → Answers (exec (.coldStart b) s) (requestCold true 2 s)) ∧ (b = 3 → Answers (exec (.coldStart b) s) s))
    ∧ (∀ (s : State) (bmc : Bool) (cause : Nat), s.pwr.aoPwrGd = true →
      (s.boot.recovery = false → s.pwr.tripLow = false → requestCold bmc cause s = coldStart (if s.boot.nextCause = 0 then cause else s.boot.nextCause) s)
      ∧ (s.boot.recovery = false → s.pwr.tripLow = true → allCool s = false → requestCold bmc cause s = s)
      ∧ (s.boot.recovery = true → requestCold false cause s = s)
      ∧ (s.boot.recovery = true → ∃ r, requestCold true cause s = coldStart cause (record r s) ∧ r.cls = 0x0705 ∧ r.outcome = 1))
    ∧ (∀ (s : State) (d : Nat), HostReaches s → d < 16 →
      (d < 4 ∨ d = 5 ∨ d = 6 → ∃ u, u = setBoot s { s.boot with dieSel := d }
        ∧ (s.boot.dieReset = none → Answers (exec (.die d) s) (beginDieReset d u))
        ∧ (s.boot.dieReset = some d → Answers (exec (.die d) s) u)
        ∧ (∀ r, s.boot.dieReset = some r → r ≠ d → d ∉ s.boot.dieHeld → Answers (exec (.die d) s) (setBoot u { u.boot with dieHeld := s.boot.dieHeld ++ [d] })))
      ∧ (d = 4 ∨ 7 ≤ d → ∃ u, Answers (exec (.die d) s) (regAccess 6 0x500 4 true (BitVec.ofNat 64 (4 + 16 * d)) u) ∧ SameData s u))
    ∧ (∀ (s : State) (d : Nat), d < 4 → ∃ u, beginDieReset d s = fabEnd (ledgerGo (settleAlts u)) ∧ u.boot.dieReset = some d ∧ u.boot.hbmValid = s.boot.hbmValid.erase d
      ∧ (dieOf u d).inReset = true ∧ (dieOf u d).ledger = [] ∧ (dieOf u d).eph = none ∧ (∀ k, k / 3 = d → (stackOf u k).state ≠ 2)
      ∧ (∀ c, c / 8 = d → (clOf u c).prog = none))
    ∧ (∀ (s : State) (d : Nat) (sts : List (Nat × Nat)) (up rts : List Nat) (fs : List Frame), s.boot.dieReset = some d → (d < 4 ∨ d = 5 ∨ d = 6) →
      (∃ u r, Answers (exec (.dieResetComplete d false sts [] up rts fs) s) (requestWarm 8 (record r u)) ∧ r.cls = 0x0706 ∧ r.outcome = 3
        ∧ r.d1 = BitVec.ofNat 32 d ∧ u.boot.dieReset = none)
      ∧ ((∀ k ∈ allPorts, k.1 = d → (portOf s k.1 k.2).state = 2 ∨ (portOf s k.1 k.2).state = 4) →
        (4 < d → ∃ u r, Answers (exec (.dieResetComplete d true sts [] up rts fs) s)
            (framesService (fs.filter (fun f => decide (linkDie f.link = d))) (goOnAll (nextDieReset (checkRoutes (record r u)))))
          ∧ r.cls = 0x0706 ∧ r.outcome = 2 ∧ d ∈ u.boot.optValid ∧ (photOf u d).inReset = false
          ∧ (∀ p, p < 64 → linkDie p = d → p ∈ up → (linkOf u p).txLock = true ∧ (linkOf u p).rxLock = true))
        ∧ (d < 4 → (∀ i, i < 3 → rateOk (sts.getD i (0, 0)).1 = true) →
          ∃ u r, Answers (exec (.dieResetComplete d true sts [] up rts fs) s) (goOnAll (nextDieReset (checkRoutes (record r u))))
          ∧ r.cls = 0x0706 ∧ r.outcome = 2 ∧ d ∈ u.boot.hbmValid ∧ (dieOf u d).inReset = false
          ∧ (∀ i, i < 3 → (stackOf u (3 * d + i)).state = (if 5 ≤ s.pwr.sagStage then 3 else 2)))))
    ∧ (∀ (s : State) (fs : List Frame),
      (framesFault s fs = none → framesService fs s = confirmId fs s)
      ∧ (∀ f n, framesFault s fs = some (f, n) → framesService fs s = topoService f.link n f.src s))
    ∧ (∀ (s : State) (cl : Nat), HostReaches s → cl < 32 → ∃ r u, Answers (exec (.cluReset cl) s) (fabEnd (ledgerGo (stopSettled (cutCluster cl (record r u)))))
      ∧ r.cls = 0x0707 ∧ r.d1 = BitVec.ofNat 32 cl ∧ SameData s u)
    ∧ (∀ (s : State) (cl : Nat), (clOf (cutCluster cl s) cl).prog = none ∧ (clOf (cutCluster cl s) cl).sreg = [] ∧ (clOf (cutCluster cl s) cl).imem = (clOf s cl).imem
      ∧ (clOf (cutCluster cl s) cl).plates = (clOf s cl).plates ∧ (clOf (cutCluster cl s) cl).lanes = (clOf s cl).lanes
      ∧ (∀ n, n < 9 → (coreOf (cutCluster cl s) (9 * cl + n)).window = [] ∧ (coreOf (cutCluster cl s) (9 * cl + n)).qA = []
        ∧ ((coreOf s (9 * cl + n)).window = [] → (coreOf (cutCluster cl s) (9 * cl + n)).mem = (coreOf s (9 * cl + n)).mem)))

/-- On a binding that reaches the K4: RequestUpdate is refused over PCIe and retried during a start, else begins a
transfer; UpdateComponent up to 16 MiB erases the region that the boot record does not name and asks for data, which
FIRMWARE_DATA writes; verification reports and leaves the boot record; ActivateFirmware writes a boot record that
names the new region, so the next start uses it, and in recovery starts cold with cause 7. The identity, PDR and
sensor queries answer from the stated tables and the last refresh. SetEventReceiver pushes the oldest record, a
response takes it, a fourth timeout turns to polling, and a poll hands out the oldest. The bindings take address and
endpoint id. (16_enclave_and_management.md R538; 16_enclave_and_management.md R544; 16_enclave_and_management.md R545;
16_enclave_and_management.md R546; 16_enclave_and_management.md R560; 16_enclave_and_management.md R562;
16_enclave_and_management.md R563.) -/
def Obligations.UpdatesSensorsAndEventsAnswer : Prop :=
    (∀ (s : State) (b maxLen : Nat) (version : W32), reaches s b = true →
      (b = 3 → Answers (exec (.requestUpdate b maxLen version) s) (answer b .unableToInitiate s))
      ∧ (b ≠ 3 → s.boot.starting = true → Answers (exec (.requestUpdate b maxLen version) s) (answer b .retryUpdate s))
      ∧ (b ≠ 3 → s.boot.starting = false → s.mgt.upd = none → 0 < maxLen →
        ∃ r u, Answers (exec (.requestUpdate b maxLen version) s) (answer b (.done []) (record r u)) ∧ u.recs = s.recs ∧ r.cls = 0x0803 ∧ r.outcome = 1
          ∧ u.mgt = { s.mgt with update := 1, upd := some { binding := b, size := 0, piece := min 4096 maxLen, got := 0, version := version, component := false, verified := false } }
          ∧ r.d1 = version))
    ∧ (∀ (s : State) (b size base : Nat) (x : Upd), reaches s b = true → s.mgt.upd = some x → x.binding = b → base = 0x100000 + 0x1000000 * otherRegion s →
      (x.component = false → 0 < size → size ≤ 0x1000000 →
        ∃ t, Answers (exec (.updateComponent b size) s) t ∧ t.out = .fwData b x.got (min x.piece (size - x.got)) :: .answer b (.done []) :: s.out
          ∧ t.mgt.upd = some { x with size := size, component := true }
          ∧ (∀ a, base ≤ a → a < base + 0x1000000 → t.flash.bytes.read a = 0) ∧ (∀ a, a < base ∨ base + 0x1000000 ≤ a → t.flash.bytes.read a = s.flash.bytes.read a))
      ∧ (0x1000000 < size → Answers (exec (.updateComponent b size) s) (answer b .refused s))
      ∧ (∀ data : List Byte, x.component = true → x.got < x.size → data.length = min x.piece (x.size - x.got) →
        ∃ t, Answers (exec (.firmwareData b data) s) t ∧ t.flash = { s.flash with bytes := s.flash.bytes.writes (base + x.got) data }
          ∧ (x.got + data.length = x.size → t.out = .fwStep b 1 0 :: s.out ∧ t.mgt.update = 2)
          ∧ (x.got + data.length ≠ x.size → t.out = .fwData b (x.got + data.length) (min x.piece (x.size - (x.got + data.length))) :: s.out))
      ∧ (x.component = true → x.got = x.size → x.verified = false →
        ∃ t, Answers (exec .updateVerifyDone s) t ∧ t.flash = s.flash
          ∧ (verifyImage s (otherRegion s) = 1 → t.out = .fwStep b 3 0 :: .fwStep b 2 1 :: s.out ∧ t.mgt.upd = some { x with verified := true })
          ∧ (verifyImage s (otherRegion s) ≠ 1 → t.out = .fwStep b 2 (verifyImage s (otherRegion s)) :: s.out ∧ t.mgt.upd = none ∧ t.mgt.update = 0))
      ∧ (x.verified = false → Answers (exec (.activateFirmware b) s) (answer b .refused s))
      ∧ (x.verified = true → s.boot.recovery = false →
        ∃ t, Answers (exec (.activateFirmware b) s) t ∧ t.mgt.update = 3 ∧ t.mgt.upd = none ∧ t.boot = s.boot ∧ t.out = .answer b (.done []) :: s.out
          ∧ (∀ i, bootUsed s = some i → bootSeq (bootCopy s i) + 1 < 2 ^ 32 → s.flash.bytes.wf = true → bootRegion t = some (otherRegion s)))
      ∧ (x.verified = true → s.boot.recovery = true → ∃ u r, Answers (exec (.activateFirmware b) s) (coldStart 7 (record r u)) ∧ r.cls = 0x0705 ∧ r.outcome = 1 ∧ u.mgt.update = 3))
    ∧ (∀ (s : State) (b g : Nat), reaches s b = true → b ≠ 3 →
      (bootRegion s = some g → Answers (exec (.getFirmwareParameters b) s) (answer b (.done (leBytes 4 (hVersion (imageBytes s g 0 512))
        ++ (if s.mgt.update = 3 then leBytes 4 (hVersion (imageBytes s (1 - g) 0 512)) else []))) s))
      ∧ (s.pci.conf.vendor = 0x1F6A → s.pci.conf.device = 0x4864 → Answers (exec (.queryDeviceIdentifiers b) s)
        (answer b (.done ([0x6A, 0x1F, 0x64, 0x48] ++ leBytes 8 (fld (s.d2d.ids.get 0 4) 0 64))) s)))
    ∧ (∀ (s : State) (b : Nat), reaches s b = true →
      Answers (exec (.getPdrRepositoryInfo b) s) (answer b (.done [34, 0]) s)
      ∧ (∀ n x, (sensors s)[n]? = some x → ∃ data, Answers (exec (.getPdr b (n + 1)) s) (answer b (.done (leBytes 2 x.1 ++ [BitVec.ofNat 8 (b2n x.2.1)] ++ data)) s)
        ∧ data.length = 2 * x.2.2.length)
      ∧ (∀ id th, (id, false, th) ∈ sensors s → Answers (exec (.getSensorReading b id) s) (answer b (.done (leBytes 4 (BitVec.ofInt 32 (s.mgt.readings.get 0 id)).toNat)) s))
      ∧ (∀ id th, (id, true, th) ∈ sensors s → Answers (exec (.getStateSensorReadings b id) s) (answer b (.done (leBytes 4 (BitVec.ofInt 32 (s.mgt.readings.get 0 id)).toNat)) s))
      ∧ Answers (exec (.eventMessageSupported b) s) (answer b (.done [0xFA]) s)
      ∧ (∃ bs t, Answers (exec (.eventMessageBufferSize b) s) t ∧ bs.length = 2 ∧ t.out = .answer b (.done bs) :: s.out ∧ t.mgt = s.mgt))
    ∧ (∀ s : State, s.pwr.aoPwrGd = true → s.mgt.halted = false →
      ∃ t, Answers (exec .sensorRefresh s) t ∧ t.out = s.out ∧ (∀ x, x ∈ sensors s → x.1 ≠ 0x17 → t.mgt.readings.get 0 x.1 = readingNow s 0 x.1)
        ∧ t.mgt.readings.get 0 0x30 = s.pwr.powerW ∧ t.mgt.readings.get 0 0x41 = s.pwr.sagStage)
    ∧ (∀ (s : State) (b : Nat) (r : Rec) (rest : List Rec), reaches s b = true → s.recs.bmc = r :: rest →
      (∃ t, Answers (exec (.setEventReceiver b) s) t ∧ t.out = .mctp b (0xFA :: recBytes r) :: .answer b (.done []) :: s.out
        ∧ t.mgt = { s.mgt with async := true, events := b, inFlight := some r.seq, tries := 0 } ∧ t.recs = s.recs)
      ∧ (rest = [] → s.mgt.inFlight = some r.seq → s.mgt.events = b →
        ∃ t, Answers (exec (.platformEventResponse b) s) t ∧ t.recs.bmc = [] ∧ t.mgt.inFlight = none ∧ t.out = s.out ∧ t.recs.log = s.recs.log)
      ∧ (s.mgt.async = false → (s.mgt.events = 0 ∨ s.mgt.events = b) →
        ∃ t, Answers (exec (.pollForPlatformEventMessage b) s) t ∧ t.recs = { s.recs with bmc := rest } ∧ t.out = .answer b (.done (0xFA :: recBytes r)) :: s.out)
      ∧ (s.mgt.inFlight = some r.seq → s.mgt.tries ≠ 3 →
        ∃ t, Answers (exec .platformEventTimeout s) t ∧ t.out = .mctp s.mgt.events (0xFA :: recBytes r) :: s.out ∧ t.mgt = { s.mgt with tries := s.mgt.tries + 1 })
      ∧ (s.mgt.inFlight = some r.seq → s.mgt.tries = 3 →
        ∃ i u, Answers (exec .platformEventTimeout s) (record i u) ∧ i.cls = 0x0808 ∧ i.outcome = 3 ∧ u.mgt = { s.mgt with async := false, inFlight := none, tries := 0 } ∧ u.recs = s.recs))
    ∧ (∀ (s : State) (a eid : Nat), s.pwr.aoPwrGd = true → s.mgt.halted = false →
      (s.mgt.binding ≠ 1 → ∃ r u, Answers (exec (.i3cAddressAssign a) s) (record r u) ∧ r.cls = 0x0808 ∧ r.outcome = 1 ∧ u.recs = s.recs
        ∧ u.mgt = { s.mgt with i3c := true, addr := a % 128, binding := 1, eid := 0 })
      ∧ (s.mgt.i3c = true → s.mgt.binding = 1 → ∃ r u, Answers (exec .i3cBusReset s) (record r u) ∧ r.cls = 0x0808 ∧ r.outcome = 2 ∧ u.recs = s.recs
        ∧ u.mgt = { s.mgt with i3c := false, addr := 0, binding := 2, eid := 0 })
      ∧ (s.pci.linkUp = true → Answers (exec (.setEndpointId 3 eid) s) (answer 3 (.done []) (setMgt s { s.mgt with vdm := true, eidPcie := eid % 256 })))
      ∧ (s.mgt.i3c = true → s.mgt.binding = 1 → Answers (exec (.setEndpointId 1 eid) s) (answer 1 (.done []) (setMgt s { s.mgt with eid := eid % 256 }))))

/-- In the error state every SPDM request is answered Unspecified. Else algorithms, certificate, measurements and
challenge are answered, signed ones Busy until the alias certificate is ready; a fifth KEY_EXCHANGE is Busy; KEY_PROG,
K_SET_GO and K_SET_STOP act in a session on PCIe. SUBMIT_TOKEN answers its check and draws a new challenge; an
accepted one passed signatures, serial and challenge, raises the debug level or decommissions. ZEROISE, ENC_ZEROISE, a
failed SELF_TEST or conditional test drop the keys and record, and the tests set the error state. ALIAS_CERT_ISSUE
makes the certificate of the present measurements ready. The debug port serves nothing above its level and nothing in
the enclave's window. (13_host_link.md R487; 16_enclave_and_management.md R549; 16_enclave_and_management.md R550;
16_enclave_and_management.md R551; 16_enclave_and_management.md R553; 16_enclave_and_management.md R554;
16_enclave_and_management.md R555; 16_enclave_and_management.md R557; 16_enclave_and_management.md R558;
16_enclave_and_management.md R559; 16_enclave_and_management.md R561.) -/
def Obligations.TheEnclaveAttestsUnlocksAndZeroises : Prop :=
    (∀ (s : State) (b idx sid : Nat) (x sign : Bool), reaches s b = true → s.encl.state = 3 →
      ∀ c ∈ [Instr.negotiateAlgorithms b x, .getCertificate b, .getMeasurements b idx sign, .challenge b, .keyExchange b sid, .endSession b sid],
        Answers (exec c s) (answer b .unspecified s))
    ∧ (∀ (s : State) (b idx : Nat), reaches s b = true → s.encl.state ≠ 3 →
      Answers (exec (.negotiateAlgorithms b true) s) (answer b (.done []) s)
      ∧ Answers (exec (.negotiateAlgorithms b false) s) (answer b .refused s)
      ∧ (1 ≤ idx → idx ≤ 7 → Answers (exec (.getMeasurements b idx false) s) (answer b (.done (measurement s idx)) s))
      ∧ (s.encl.debug = 2 → Answers (exec (.getCertificate b) s) (answer b .unspecified s) ∧ Answers (exec (.challenge b) s) (answer b .unspecified s))
      ∧ (s.encl.debug ≠ 2 → s.encl.udsBlown = false → s.encl.identityBad = false →
        (s.encl.aliasReady = false → Answers (exec (.getCertificate b) s) (answer b .busy s) ∧ Answers (exec (.challenge b) s) (answer b .busy s)
          ∧ Answers (exec (.getMeasurements b idx true) s) (answer b .busy s))
        ∧ (s.encl.aliasReady = true → ∃ m, Answers (exec (.getCertificate b) s) (answer b (.chain [m.header, m.body, m.signer, m.security]) s)
          ∧ (measNow s ∈ s.encl.certs → m = measNow s) ∧ (s.encl.certs ≠ [] → m ∈ s.encl.certs))
        ∧ (s.encl.aliasReady = true → s.encl.aliasKey = false → Answers (exec (.challenge b) s) (answer b .busy s)
          ∧ Answers (exec (.getMeasurements b idx true) s) (answer b .busy s))
        ∧ (s.encl.aliasReady = true → s.encl.aliasKey = true →
          Answers (exec (.challenge b) s) (answer b (.signed []) s)
          ∧ (1 ≤ idx → idx ≤ 7 → Answers (exec (.getMeasurements b idx true) s) (answer b (.signed (measurement s idx)) s)))))
    ∧ (∀ (s : State) (b sid : Nat), reaches s b = true → s.encl.state ≠ 3 →
      (4 ≤ s.encl.sessions.length → Answers (exec (.keyExchange b sid) s) (answer b .busy s))
      ∧ (s.encl.sessions.length < 4 → s.encl.aliasKey = true → (∀ y ∈ s.encl.sessions, y.1 ≠ sid) →
        Answers (exec (.keyExchange b sid) s) (answer b (.signed []) (setEncl s { s.encl with sessions := s.encl.sessions ++ [(sid, b)] })))
      ∧ ((sid, b) ∈ s.encl.sessions → Answers (exec (.endSession b sid) s) (answer b (.done []) (setEncl s { s.encl with sessions := s.encl.sessions.erase (sid, b) }))))
    ∧ (∀ (s : State) (sid strm set : Nat), reaches s 3 = true → s.encl.state ≠ 3 → s.encl.udsBlown = false →
      ((sid, 3) ∉ s.encl.sessions → ∀ c ∈ [Instr.keyProg sid strm set, .kSetGo sid set, .kSetStop sid], Answers (exec c s) (answer 3 .refused s))
      ∧ ((sid, 3) ∈ s.encl.sessions →
        (set < 2 → ∃ u, Answers (exec (.keyProg sid strm set) s) (answer 3 (.done []) u) ∧ set ∈ u.encl.ideSets ∧ u.pci.ideStream = strm % 256
          ∧ u.pci.ideState = (if s.pci.ideState = 0 then 1 else s.pci.ideState) ∧ u.encl.sessions = s.encl.sessions)
        ∧ (set ∈ s.encl.ideSets → ∃ r u, Answers (exec (.kSetGo sid set) s) (answer 3 (.done []) (resumeHost (record r u))) ∧ u.pci = { s.pci with ideState := 2, ideBlocked := false }
          ∧ r.cls = 0x0801 ∧ r.outcome = 2 ∧ r.d1 = BitVec.ofNat 32 s.pci.ideStream)
        ∧ (s.pci.ideState = 2 → ∃ r u, Answers (exec (.kSetStop sid) s) (answer 3 (.done []) (record r u)) ∧ u.pci = { s.pci with ideState := 1 } ∧ r.cls = 0x0801 ∧ r.outcome = 3)))
    ∧ (∀ (s : State) (b : Nat) (t : List Byte), reaches s b = true →
      Answers (exec (.getChallenge b) s) (answer b (.done s.encl.challenge) s)
      ∧ (tokenCheck s b t ≠ 0 → ∃ r, Answers (exec (.submitToken b t) s) (answer b (.code (tokenCheck s b t)) (newChallenge (record r s))) ∧ r.cls = 0x0807 ∧ r.outcome = 0xF
          ∧ r.d1 = BitVec.ofNat 32 (tokenCheck s b t))
      ∧ (tokenCheck s b t = 0 → ∃ u, Answers (exec (.submitToken b t) s) (answer b (.code 0) (newChallenge u))
        ∧ (hField t 4 1 = 1 → u.encl.debug = max s.encl.debug (hField t 5 1))
        ∧ (hField t 4 1 = 2 → u.encl.state = 4 ∧ u.encl.udsBlown = true ∧ u.encl.uds = List.replicate 32 0xFF))
      ∧ (tokenCheck s b t = 0 → t.length = 0xE980 ∧ hField (t.take 128) 8 8 = fld (s.d2d.ids.get 0 4) 0 64 ∧ ((t.take 128).drop 16).take 32 = s.encl.challenge
        ∧ Config.slhVerify Config.rootPk (leBytes 2 (hField (t.take 128) 6 1) ++ (t.drop 0x80).take 64) ((t.drop 0xC0).take 29792) = true
        ∧ Config.slhVerify ((t.drop 0x80).take 64) (t.take 128) ((t.drop 0x7520).take 29792) = true
        ∧ (hField (t.take 128) 4 1 = 1 → hField (t.take 128) 5 1 ≤ hDebugMax s.encl.header)
        ∧ (hField (t.take 128) 4 1 = 2 → b ≠ 3)))
    ∧ (∀ (s : State) (n : Nat), (zeroise n s).encl = { s.encl with
        idKey := false, aliasKey := false, idSeed := [], aliasSeed := [], sessions := [], ideSets := [], signing := [] }
      ∧ (zeroise n s).pci.ideState = (if s.pci.ideState = 0 then 0 else if n = 3 ∨ n = 4 ∨ s.pci.ideState = 3 then 3 else 0)
      ∧ (s.pci.ideState ≠ 2 → ∃ r, (zeroise n s).recs = (record r s).recs ∧ r.cls = 0x0806 ∧ r.outcome = 1 ∧ r.d1 = BitVec.ofNat 32 n))
    ∧ (∀ (s : State) (n : Nat), ∃ r u, enclaveError n s = zeroise 3 u ∧ u.encl.state = (if s.encl.udsBlown then 4 else 3) ∧ u.recs = (record r s).recs ∧ r.cls = 0x0805 ∧ r.outcome = n)
    ∧ (∀ (s : State) (b : Nat), (reaches s b = true → Answers (exec (.zeroise b) s) (answer b (.done []) (zeroise 2 s)))
      ∧ (HostReaches s → Answers (exec .encZeroise s) (zeroise 1 s) ∧ Answers (exec (.selfTest true) s) s
        ∧ (s.encl.state ≠ 3 → Answers (exec (.selfTest false) s) (enclaveError 1 s)))
      ∧ (s.pwr.aoPwrGd = true → s.encl.state ≠ 3 →
        (s.boot.starting = false → Answers (exec .conditionalTestFailure s) (enclaveError 2 s))
        ∧ (s.boot.starting = true → s.boot.stopWarm = none → Answers (exec .conditionalTestFailure s) (startFails 0x4FFE0000#32 (enclaveError 2 s)))))
    ∧ (∀ (s : State) (rest : List Meas), mayAttest s = true → s.boot.ready = true → s.encl.signing = measNow s :: rest →
      ∃ r u, Answers (exec .aliasCertIssue s) (record r u) ∧ r.cls = 0x0809 ∧ r.outcome = 1 ∧ r.d1 = BitVec.ofNat 32 ((s.aoCount - s.encl.readyAt).toNat / 50000)
        ∧ u.encl.aliasReady = true ∧ u.encl.signing = rest ∧ measNow s ∈ u.encl.certs ∧ u.encl.certs.length ≤ 2 ∧ u.recs = s.recs)
    ∧ (∀ (s : State) (kind unit addr size : Nat) (v : W64) (data : List Byte),
      (s.encl.debug = 0 → Answers (exec (.debugPortAccess kind unit addr size v data) s) s)
      ∧ (s.encl.debug = 1 → kind ≠ 1 → Answers (exec (.debugPortAccess kind unit addr size v data) s) s)
      ∧ (0x60000 ≤ addr → addr < 0x70000 → kind = 1 ∨ kind = 2 → Answers (exec (.debugPortAccess kind unit addr size v data) s) s)
      ∧ (1 ≤ s.encl.debug → debugReg addr size = true → addr < 0x300000 ∨ 0x400000 ≤ addr ∨ compReads s (addr - 0x300000) = false → ∃ t, Answers (exec (.debugPortAccess 1 unit addr size v data) s) t ∧ t.out = .debugData (readReg addr size s).1 :: s.out
          ∧ t.hbm = s.hbm ∧ t.recs = s.recs)
      ∧ (1 ≤ s.encl.debug → debugReg addr size = true → 0x300000 ≤ addr → addr < 0x400000 → compReads s (addr - 0x300000) = true →
          Answers (exec (.debugPortAccess 1 unit addr size v data) s) (compAsk ⟨false, addr - 0x300000, size, 0, true⟩ s))
      ∧ (s.encl.debug = 2 →
        (debugReg addr size = true → ∃ u t, u = setMgt s { s.mgt with viaDebug := true } ∧ t = effRegisterWrite addr size v u
          ∧ Answers (exec (.debugPortAccess 2 unit addr size v data) s) (setMgt t { t.mgt with viaDebug := false }))
        ∧ (unit < 32 → addr + data.length ≤ 0x40000 → Answers (exec (.debugPortAccess 5 unit addr size v data) s)
            (setCl s unit { clOf s unit with imem := (clOf s unit).imem.writes addr data }))
        ∧ (unit < 32 → Answers (exec (.debugPortAccess 7 unit addr size v data) s) (setCl s unit { clOf s unit with dbg := 1 })
            ∧ Answers (exec (.debugPortAccess 9 unit addr size v data) s) (setCl s unit { clOf s unit with dbg := 0 }))
        ∧ (unit < 288 → addr = 64 * (addr / 64) → addr + 64 ≤ 0x300000 → data.length = 64 → (coreOf s unit).mem.wf = true →
            ∃ t, Answers (exec (.debugPortAccess 3 unit addr size v data) s) t ∧ (coreOf t unit).mem.bytes addr 64 = data ∧ t.cl = s.cl)))

/-- State.reset is the always-on power-up, before AO_POWER_GOOD (the model's reading, log 3): no command waits; the
counter and the event log are empty; no start has run and the package is not ready; the streams expect tag 1 and hold
nothing; every token is IDLE; no job is open; the event ring, the DMA window and the enables are clear and BAR2 is 16
GiB; every cluster's cap and the profile's are 1,500 MHz; PWR_SHDN_N is low; every lane is served by its own core and
core 8 is spare; event delivery is polled. (01_seven_levels.md R18; 02_programs_and_streams.md R58;
02_programs_and_streams.md R79; 13_host_link.md R472; 13_host_link.md R480; 14_power_clocks_thermal.md R497;
15_start_and_reset.md R522; 16_enclave_and_management.md R563; 17_pins_and_package.md R573.) -/
def Obligations.ResetHoldsTheStatedValues : Prop :=
    (∃ s, s = State.reset ∧ s.pending = [] ∧ s.aoCount = 0 ∧ s.recs.log = [] ∧ s.recs.inService = false ∧ s.boot.kind = 0 ∧ s.boot.cause = 0 ∧ s.boot.stage = 0
      ∧ s.boot.ready = false ∧ s.boot.recovery = false ∧ s.boot.starting = false ∧ s.boot.warmFails = 0 ∧ s.boot.hbmValid = [] ∧ s.boot.optValid = []
      ∧ (∀ i, (strmOf s i).e = 1 ∧ (strmOf s i).queue = [] ∧ (strmOf s i).occ = [] ∧ (strmOf s i).enable = false ∧ (strmOf s i).lastTag = 0 ∧ (strmOf s i).skipCount = 0)
      ∧ (∀ id, (tokOf s id).st = .idle) ∧ s.job.opened = false ∧ s.cmds = [] ∧ s.recipe = []
      ∧ s.evr.enable = false ∧ s.evr.producer = 0 ∧ s.evr.consumer = 0 ∧ s.pci.winBase = 0 ∧ s.pci.winLimit = 0 ∧ s.pci.mse = false ∧ s.pci.bme = false
      ∧ s.pci.linkUp = false ∧ s.pci.bar2Log2 = 34 ∧ s.pci.conf.vendor = 0x1F6A ∧ s.pci.conf.device = 0x4864 ∧ s.pwr.profile = 0 ∧ s.pwr.profCap = 1500 ∧ (∀ c, (clOf s c).cap = 1500) ∧ s.pwr.sagStage = 0
      ∧ s.pwr.shdnHigh = false ∧ s.pwr.aoPwrGd = false ∧ (∀ c l, l < 8 → (clOf s c).lanes.getD l 15 = l) ∧ (∀ c, (clOf s c).spare = 8 ∧ (clOf s c).mapState = 0)
      ∧ (∀ k, (stackOf s k).state = 0) ∧ (∀ p, (linkOf s p).state = 0) ∧ s.mgt.async = false ∧ s.mgt.update = 0 ∧ s.encl.state = 0 ∧ s.encl.debug = 0
      ∧ s.encl.sessions = [] ∧ s.out = [])
end

