-- ==== Sys2Proof/Laws/Memory.lean ====
section
/-! SUPPORT. Memory: what tables and byte memories read after each of their operations, and that every memory operation
keeps the canonical form. -/

namespace Sys2Proof.Machine

/-! ### Tables -/

theorem Tab.get_put_same {α : Type} (d : α) (t : Tab α) (j : Nat) (v : α) : (t.put j v).get d j = v := by
  induction t with
  | nil => simp [Tab.put, Tab.get]
  | cons p t ih =>
    obtain ⟨k, x⟩ := p
    simp only [Tab.put]
    split
    · simp [Tab.get]
    · split
      · simp [Tab.get]
      · simp only [Tab.get]; split
        · contradiction
        · exact ih

theorem Tab.get_put_other {α : Type} (d : α) (t : Tab α) {i j : Nat} (v : α) (h : i ≠ j) :
    (t.put j v).get d i = t.get d i := by
  induction t with
  | nil => simp [Tab.put, Tab.get, h]
  | cons p t ih =>
    obtain ⟨k, x⟩ := p
    simp only [Tab.put]
    split
    · next hk => subst hk; simp [Tab.get, h]
    · split
      · simp [Tab.get, h]
      · simp only [Tab.get, ih]

theorem Tab.get_put {α : Type} (d : α) (t : Tab α) (i j : Nat) (v : α) :
    (t.put j v).get d i = if i = j then v else t.get d i := by
  split
  · next h => subst h; exact Tab.get_put_same d t i v
  · next h => exact Tab.get_put_other d t v h

/-- Reading a unit of a table changed by `f`: the changed unit, or the reset value of a unit that is not listed. -/
theorem Tab.get_mapV {α : Type} (d : α) (f : α → α) (t : Tab α) (i : Nat) :
    (t.mapV f).get d i = f (t.get d i) ∨ (t.mapV f).get d i = d := by
  induction t with
  | nil => right; rfl
  | cons p t ih =>
    obtain ⟨k, x⟩ := p
    simp only [Tab.mapV, List.map_cons, Tab.get]
    split
    · left; rfl
    · exact ih

/-- What holds of every unit of a table, and is kept by `f`, holds of every unit of the table changed by `f`. -/
theorem Tab.mapV_keeps {α : Type} {p : α → Prop} {d : α} {f : α → α} {t : Tab α} (hd : p d)
    (hf : ∀ x, p x → p (f x)) (h : ∀ i, p (t.get d i)) (i : Nat) : p ((t.mapV f).get d i) := by
  rcases Tab.get_mapV d f t i with e | e
  · rw [e]; exact hf _ (h i)
  · rw [e]; exact hd

/-! ### Byte memories -/

/-- The canonical form in full: addresses strictly rising, no listed byte zero. -/
theorem Mem.wf_iff (m : Mem) :
    m.wf = true ↔ m.Pairwise (fun a b => a.1 < b.1) ∧ ∀ c ∈ m, c.2 ≠ Mem.unlisted := by
  induction m with
  | nil => simp [Mem.wf]
  | cons c m ih =>
    cases m with
    | nil => simp [Mem.wf]
    | cons c' m =>
      simp only [Mem.wf, Bool.and_eq_true, bne_iff_ne, decide_eq_true_eq, ih, List.pairwise_cons]
      constructor
      · rintro ⟨⟨h0, h1⟩, ⟨h2, h3⟩, h4⟩
        refine ⟨⟨fun a ha => ?_, h2, h3⟩, fun a ha => ?_⟩
        · rcases List.mem_cons.mp ha with rfl | ha
          · exact h1
          · exact Nat.lt_trans h1 (h2 a ha)
        · rcases List.mem_cons.mp ha with rfl | ha
          · exact h0
          · exact h4 a ha
      · rintro ⟨⟨h1, h2, h3⟩, h4⟩
        exact ⟨⟨h4 c (by simp), h1 c' (by simp)⟩, ⟨h2, h3⟩, fun a ha => h4 a (List.mem_cons_of_mem _ ha)⟩

/-- Every address of a memory after a write was listed before or is the one written. -/
theorem Mem.mem_write {m : Mem} {a : Nat} {b : Byte} {c : Host.Cell} (h : c ∈ m.write a b) :
    c ∈ m ∨ (c = (a, b) ∧ b ≠ Mem.unlisted) := by
  have hc : ∀ m : Mem, c ∈ Mem.consCell a b m → c ∈ m ∨ (c = (a, b) ∧ b ≠ Mem.unlisted) := by
    intro m h
    unfold Mem.consCell at h
    split at h
    · exact .inl h
    · rcases List.mem_cons.mp h with h | h
      · exact .inr ⟨h, by assumption⟩
      · exact .inl h
  induction m with
  | nil => exact hc [] h
  | cons d m ih =>
    simp only [Mem.write] at h
    split at h
    · exact (hc m h).imp (List.mem_cons_of_mem _) id
    · split at h
      · exact hc (d :: m) h
      · rcases List.mem_cons.mp h with h | h
        · exact .inl (by simp [h])
        · exact (ih h).imp (List.mem_cons_of_mem _) id

theorem Mem.wf_consCell {m : Mem} {a : Nat} {b : Byte} (h : m.wf = true) (hl : ∀ c ∈ m, a < c.1) :
    (Mem.consCell a b m).wf = true := by
  unfold Mem.consCell
  split
  · exact h
  · obtain ⟨h1, h2⟩ := (Mem.wf_iff m).mp h
    refine (Mem.wf_iff _).mpr ⟨List.pairwise_cons.mpr ⟨hl, h1⟩, fun c hc => ?_⟩
    rcases List.mem_cons.mp hc with rfl | hc
    · assumption
    · exact h2 c hc

/-- A write keeps the canonical form. -/
theorem Mem.wf_write {m : Mem} (a : Nat) (b : Byte) (h : m.wf = true) : (m.write a b).wf = true := by
  induction m with
  | nil => exact Mem.wf_consCell rfl (by simp)
  | cons c m ih =>
    obtain ⟨h1, h2⟩ := (Mem.wf_iff _).mp h
    have hm : Mem.wf m = true := (Mem.wf_iff m).mpr ⟨(List.pairwise_cons.mp h1).2, fun d hd => h2 d (List.mem_cons_of_mem _ hd)⟩
    have h1' := (List.pairwise_cons.mp h1).1
    simp only [Mem.write]
    split
    · next e => exact Mem.wf_consCell hm (fun d hd => e ▸ h1' d hd)
    · split
      · next e =>
        refine Mem.wf_consCell h (fun d hd => ?_)
        rcases List.mem_cons.mp hd with rfl | hd
        · exact e
        · exact Nat.lt_trans e (h1' d hd)
      · next e1 e2 =>
        obtain ⟨h3, h4⟩ := (Mem.wf_iff _).mp (ih hm)
        refine (Mem.wf_iff _).mpr ⟨List.pairwise_cons.mpr ⟨fun d hd => ?_, h3⟩, fun d hd => ?_⟩
        · rcases Mem.mem_write hd with hd | ⟨rfl, -⟩
          · exact h1' d hd
          · exact Nat.lt_of_le_of_ne (Nat.le_of_not_lt e2) (fun e => e1 e.symm)
        · rcases List.mem_cons.mp hd with rfl | hd
          · exact h2 d (by simp)
          · exact h4 d hd

/-- Consecutive writes keep the canonical form. -/
theorem Mem.wf_writes {m : Mem} (a : Nat) (bs : List Byte) (h : m.wf = true) : (m.writes a bs).wf = true := by
  induction bs generalizing m a with
  | nil => exact h
  | cons b bs ih => exact ih (a + 1) (Mem.wf_write a b h)

/-- Clearing a range keeps the canonical form. -/
theorem Mem.wf_clear {m : Mem} (lo hi : Nat) (h : m.wf = true) : (m.clear lo hi).wf = true := by
  obtain ⟨h1, h2⟩ := (Mem.wf_iff m).mp h
  exact (Mem.wf_iff _).mpr ⟨h1.filter _, fun c hc => h2 c (List.mem_filter.mp hc).1⟩

/-- A byte reads as it was written, and no other byte changes. -/
theorem Mem.read_write {m : Mem} (h : m.wf = true) (a : Nat) (b : Byte) (x : Nat) :
    (m.write a b).read x = if x = a then b else m.read x := by
  have low : ∀ (m : Mem) (y : Nat), (∀ c ∈ m, y < c.1) → m.read y = Mem.unlisted := by
    intro m
    induction m with
    | nil => intro y _; rfl
    | cons c m ih =>
      intro y hy
      simp only [Mem.read]
      split
      · next e => exact absurd (hy c (by simp)) (by omega)
      · exact ih y (fun d hd => hy d (List.mem_cons_of_mem _ hd))
  have cons : ∀ m : Mem, (∀ c ∈ m, a < c.1) → (Mem.consCell a b m).read x = if x = a then b else m.read x := by
    intro m hl
    unfold Mem.consCell
    split
    · next e => split
                · next e' => rw [e', low m a hl, e]
                · rfl
    · simp [Mem.read]
  induction m with
  | nil => exact cons [] (by simp)
  | cons c m ih =>
    obtain ⟨h1, h2⟩ := (Mem.wf_iff _).mp h
    have hm : Mem.wf m = true := (Mem.wf_iff m).mpr ⟨(List.pairwise_cons.mp h1).2, fun d hd => h2 d (List.mem_cons_of_mem _ hd)⟩
    have h1' := (List.pairwise_cons.mp h1).1
    simp only [Mem.write]
    split
    · next e =>
      rw [cons m (fun d hd => e ▸ h1' d hd)]
      simp only [Mem.read, ← e]
      split <;> rfl
    · split
      · next e =>
        rw [cons (c :: m)]
        intro d hd
        rcases List.mem_cons.mp hd with rfl | hd
        · exact e
        · exact Nat.lt_trans e (h1' d hd)
      · next e1 e2 =>
        simp only [Mem.read, ih hm]
        split
        · next e => rw [if_neg (by omega)]
        · rfl

/-- Consecutive writes: the bytes written read back, and no other byte changes. -/
theorem Mem.read_writes {m : Mem} (h : m.wf = true) (a : Nat) (bs : List Byte) (x : Nat) :
    (m.writes a bs).read x = if a ≤ x ∧ x < a + bs.length then bs.getD (x - a) 0 else m.read x := by
  induction bs generalizing m a with
  | nil => simp only [Mem.writes, List.length_nil]; rw [if_neg (by omega)]
  | cons b bs ih =>
    simp only [Mem.writes, ih (Mem.wf_write a b h), Mem.read_write h, List.length_cons]
    by_cases e : x = a
    · subst e; rw [if_neg (by omega), if_pos rfl, if_pos (by omega)]; simp
    · rw [if_neg e]
      by_cases e2 : a + 1 ≤ x ∧ x < a + 1 + bs.length
      · rw [if_pos e2, if_pos (by omega), show x - a = x - (a + 1) + 1 by omega]; simp
      · rw [if_neg e2, if_neg (by omega)]

end Sys2Proof.Machine
end

