-- ==== Sys2Proof/Laws/State.lean ====
section
/-! SUPPORT. State: every field of the state after each of the updates that the families share, and what the units read
after them. -/

namespace Sys2Proof.Machine

/-! ### setStrm -/

section
variable (s : State) (i : Nat) (x : Stream)

@[simp] theorem setStrm_pending : (setStrm s i x).pending = s.pending := rfl
@[simp] theorem setStrm_free : (setStrm s i x).free = s.free := rfl
@[simp] theorem setStrm_out : (setStrm s i x).out = s.out := rfl
@[simp] theorem setStrm_aoCount : (setStrm s i x).aoCount = s.aoCount := rfl
@[simp] theorem setStrm_seqNo : (setStrm s i x).seqNo = s.seqNo := rfl
@[simp] theorem setStrm_insNo : (setStrm s i x).insNo = s.insNo := rfl
@[simp] theorem setStrm_lastStream : (setStrm s i x).lastStream = s.lastStream := rfl
@[simp] theorem setStrm_recs : (setStrm s i x).recs = s.recs := rfl
@[simp] theorem setStrm_evr : (setStrm s i x).evr = s.evr := rfl
@[simp] theorem setStrm_pci : (setStrm s i x).pci = s.pci := rfl
@[simp] theorem setStrm_job : (setStrm s i x).job = s.job := rfl
@[simp] theorem setStrm_groups : (setStrm s i x).groups = s.groups := rfl
@[simp] theorem setStrm_recipe : (setStrm s i x).recipe = s.recipe := rfl
@[simp] theorem setStrm_tok : (setStrm s i x).tok = s.tok := rfl
@[simp] theorem setStrm_cmds : (setStrm s i x).cmds = s.cmds := rfl
@[simp] theorem setStrm_hreq : (setStrm s i x).hreq = s.hreq := rfl
@[simp] theorem setStrm_strm : (setStrm s i x).strm = s.strm.put i x := rfl
@[simp] theorem setStrm_cl : (setStrm s i x).cl = s.cl := rfl
@[simp] theorem setStrm_core : (setStrm s i x).core = s.core := rfl
@[simp] theorem setStrm_die : (setStrm s i x).die = s.die := rfl
@[simp] theorem setStrm_stack : (setStrm s i x).stack = s.stack := rfl
@[simp] theorem setStrm_hbm : (setStrm s i x).hbm = s.hbm := rfl
@[simp] theorem setStrm_hbmCk : (setStrm s i x).hbmCk = s.hbmCk := rfl
@[simp] theorem setStrm_xferVtag : (setStrm s i x).xferVtag = s.xferVtag := rfl
@[simp] theorem setStrm_xferCheck : (setStrm s i x).xferCheck = s.xferCheck := rfl
@[simp] theorem setStrm_xferStag : (setStrm s i x).xferStag = s.xferStag := rfl
@[simp] theorem setStrm_bar2Base : (setStrm s i x).bar2Base = s.bar2Base := rfl
@[simp] theorem setStrm_xferPoisoned : (setStrm s i x).xferPoisoned = s.xferPoisoned := rfl
@[simp] theorem setStrm_xferDiscarded : (setStrm s i x).xferDiscarded = s.xferDiscarded := rfl
@[simp] theorem setStrm_hbmFlag : (setStrm s i x).hbmFlag = s.hbmFlag := rfl
@[simp] theorem setStrm_hbmLost : (setStrm s i x).hbmLost = s.hbmLost := rfl
@[simp] theorem setStrm_bar2Held : (setStrm s i x).bar2Held = s.bar2Held := rfl
@[simp] theorem setStrm_hbmHeld : (setStrm s i x).hbmHeld = s.hbmHeld := rfl
@[simp] theorem setStrm_stp : (setStrm s i x).stp = s.stp := rfl
@[simp] theorem setStrm_pwr : (setStrm s i x).pwr = s.pwr := rfl
@[simp] theorem setStrm_mer : (setStrm s i x).mer = s.mer := rfl
@[simp] theorem setStrm_flash : (setStrm s i x).flash = s.flash := rfl
@[simp] theorem setStrm_d2d : (setStrm s i x).d2d = s.d2d := rfl
@[simp] theorem setStrm_boot : (setStrm s i x).boot = s.boot := rfl
@[simp] theorem setStrm_encl : (setStrm s i x).encl = s.encl := rfl
@[simp] theorem setStrm_mgt : (setStrm s i x).mgt = s.mgt := rfl

end

/-! ### setCl -/

section
variable (s : State) (i : Nat) (x : Cluster)

@[simp] theorem setCl_pending : (setCl s i x).pending = s.pending := rfl
@[simp] theorem setCl_free : (setCl s i x).free = s.free := rfl
@[simp] theorem setCl_out : (setCl s i x).out = s.out := rfl
@[simp] theorem setCl_aoCount : (setCl s i x).aoCount = s.aoCount := rfl
@[simp] theorem setCl_seqNo : (setCl s i x).seqNo = s.seqNo := rfl
@[simp] theorem setCl_insNo : (setCl s i x).insNo = s.insNo := rfl
@[simp] theorem setCl_lastStream : (setCl s i x).lastStream = s.lastStream := rfl
@[simp] theorem setCl_recs : (setCl s i x).recs = s.recs := rfl
@[simp] theorem setCl_evr : (setCl s i x).evr = s.evr := rfl
@[simp] theorem setCl_pci : (setCl s i x).pci = s.pci := rfl
@[simp] theorem setCl_job : (setCl s i x).job = s.job := rfl
@[simp] theorem setCl_groups : (setCl s i x).groups = s.groups := rfl
@[simp] theorem setCl_recipe : (setCl s i x).recipe = s.recipe := rfl
@[simp] theorem setCl_tok : (setCl s i x).tok = s.tok := rfl
@[simp] theorem setCl_cmds : (setCl s i x).cmds = s.cmds := rfl
@[simp] theorem setCl_hreq : (setCl s i x).hreq = s.hreq := rfl
@[simp] theorem setCl_strm : (setCl s i x).strm = s.strm := rfl
@[simp] theorem setCl_cl : (setCl s i x).cl = s.cl.put i x := rfl
@[simp] theorem setCl_core : (setCl s i x).core = s.core := rfl
@[simp] theorem setCl_die : (setCl s i x).die = s.die := rfl
@[simp] theorem setCl_stack : (setCl s i x).stack = s.stack := rfl
@[simp] theorem setCl_hbm : (setCl s i x).hbm = s.hbm := rfl
@[simp] theorem setCl_hbmCk : (setCl s i x).hbmCk = s.hbmCk := rfl
@[simp] theorem setCl_xferVtag : (setCl s i x).xferVtag = s.xferVtag := rfl
@[simp] theorem setCl_xferCheck : (setCl s i x).xferCheck = s.xferCheck := rfl
@[simp] theorem setCl_xferStag : (setCl s i x).xferStag = s.xferStag := rfl
@[simp] theorem setCl_bar2Base : (setCl s i x).bar2Base = s.bar2Base := rfl
@[simp] theorem setCl_xferPoisoned : (setCl s i x).xferPoisoned = s.xferPoisoned := rfl
@[simp] theorem setCl_xferDiscarded : (setCl s i x).xferDiscarded = s.xferDiscarded := rfl
@[simp] theorem setCl_hbmFlag : (setCl s i x).hbmFlag = s.hbmFlag := rfl
@[simp] theorem setCl_hbmLost : (setCl s i x).hbmLost = s.hbmLost := rfl
@[simp] theorem setCl_bar2Held : (setCl s i x).bar2Held = s.bar2Held := rfl
@[simp] theorem setCl_hbmHeld : (setCl s i x).hbmHeld = s.hbmHeld := rfl
@[simp] theorem setCl_stp : (setCl s i x).stp = s.stp := rfl
@[simp] theorem setCl_pwr : (setCl s i x).pwr = s.pwr := rfl
@[simp] theorem setCl_mer : (setCl s i x).mer = s.mer := rfl
@[simp] theorem setCl_flash : (setCl s i x).flash = s.flash := rfl
@[simp] theorem setCl_d2d : (setCl s i x).d2d = s.d2d := rfl
@[simp] theorem setCl_boot : (setCl s i x).boot = s.boot := rfl
@[simp] theorem setCl_encl : (setCl s i x).encl = s.encl := rfl
@[simp] theorem setCl_mgt : (setCl s i x).mgt = s.mgt := rfl

end

/-! ### setCore -/

section
variable (s : State) (i : Nat) (x : Core)

@[simp] theorem setCore_pending : (setCore s i x).pending = s.pending := rfl
@[simp] theorem setCore_free : (setCore s i x).free = s.free := rfl
@[simp] theorem setCore_out : (setCore s i x).out = s.out := rfl
@[simp] theorem setCore_aoCount : (setCore s i x).aoCount = s.aoCount := rfl
@[simp] theorem setCore_seqNo : (setCore s i x).seqNo = s.seqNo := rfl
@[simp] theorem setCore_insNo : (setCore s i x).insNo = s.insNo := rfl
@[simp] theorem setCore_lastStream : (setCore s i x).lastStream = s.lastStream := rfl
@[simp] theorem setCore_recs : (setCore s i x).recs = s.recs := rfl
@[simp] theorem setCore_evr : (setCore s i x).evr = s.evr := rfl
@[simp] theorem setCore_pci : (setCore s i x).pci = s.pci := rfl
@[simp] theorem setCore_job : (setCore s i x).job = s.job := rfl
@[simp] theorem setCore_groups : (setCore s i x).groups = s.groups := rfl
@[simp] theorem setCore_recipe : (setCore s i x).recipe = s.recipe := rfl
@[simp] theorem setCore_tok : (setCore s i x).tok = s.tok := rfl
@[simp] theorem setCore_cmds : (setCore s i x).cmds = s.cmds := rfl
@[simp] theorem setCore_hreq : (setCore s i x).hreq = s.hreq := rfl
@[simp] theorem setCore_strm : (setCore s i x).strm = s.strm := rfl
@[simp] theorem setCore_cl : (setCore s i x).cl = s.cl := rfl
@[simp] theorem setCore_core : (setCore s i x).core = s.core.put i x := rfl
@[simp] theorem setCore_die : (setCore s i x).die = s.die := rfl
@[simp] theorem setCore_stack : (setCore s i x).stack = s.stack := rfl
@[simp] theorem setCore_hbm : (setCore s i x).hbm = s.hbm := rfl
@[simp] theorem setCore_hbmCk : (setCore s i x).hbmCk = s.hbmCk := rfl
@[simp] theorem setCore_xferVtag : (setCore s i x).xferVtag = s.xferVtag := rfl
@[simp] theorem setCore_xferCheck : (setCore s i x).xferCheck = s.xferCheck := rfl
@[simp] theorem setCore_xferStag : (setCore s i x).xferStag = s.xferStag := rfl
@[simp] theorem setCore_bar2Base : (setCore s i x).bar2Base = s.bar2Base := rfl
@[simp] theorem setCore_xferPoisoned : (setCore s i x).xferPoisoned = s.xferPoisoned := rfl
@[simp] theorem setCore_xferDiscarded : (setCore s i x).xferDiscarded = s.xferDiscarded := rfl
@[simp] theorem setCore_hbmFlag : (setCore s i x).hbmFlag = s.hbmFlag := rfl
@[simp] theorem setCore_hbmLost : (setCore s i x).hbmLost = s.hbmLost := rfl
@[simp] theorem setCore_bar2Held : (setCore s i x).bar2Held = s.bar2Held := rfl
@[simp] theorem setCore_hbmHeld : (setCore s i x).hbmHeld = s.hbmHeld := rfl
@[simp] theorem setCore_stp : (setCore s i x).stp = s.stp := rfl
@[simp] theorem setCore_pwr : (setCore s i x).pwr = s.pwr := rfl
@[simp] theorem setCore_mer : (setCore s i x).mer = s.mer := rfl
@[simp] theorem setCore_flash : (setCore s i x).flash = s.flash := rfl
@[simp] theorem setCore_d2d : (setCore s i x).d2d = s.d2d := rfl
@[simp] theorem setCore_boot : (setCore s i x).boot = s.boot := rfl
@[simp] theorem setCore_encl : (setCore s i x).encl = s.encl := rfl
@[simp] theorem setCore_mgt : (setCore s i x).mgt = s.mgt := rfl

end

/-! ### setDie -/

section
variable (s : State) (i : Nat) (x : Die)

@[simp] theorem setDie_pending : (setDie s i x).pending = s.pending := rfl
@[simp] theorem setDie_free : (setDie s i x).free = s.free := rfl
@[simp] theorem setDie_out : (setDie s i x).out = s.out := rfl
@[simp] theorem setDie_aoCount : (setDie s i x).aoCount = s.aoCount := rfl
@[simp] theorem setDie_seqNo : (setDie s i x).seqNo = s.seqNo := rfl
@[simp] theorem setDie_insNo : (setDie s i x).insNo = s.insNo := rfl
@[simp] theorem setDie_lastStream : (setDie s i x).lastStream = s.lastStream := rfl
@[simp] theorem setDie_recs : (setDie s i x).recs = s.recs := rfl
@[simp] theorem setDie_evr : (setDie s i x).evr = s.evr := rfl
@[simp] theorem setDie_pci : (setDie s i x).pci = s.pci := rfl
@[simp] theorem setDie_job : (setDie s i x).job = s.job := rfl
@[simp] theorem setDie_groups : (setDie s i x).groups = s.groups := rfl
@[simp] theorem setDie_recipe : (setDie s i x).recipe = s.recipe := rfl
@[simp] theorem setDie_tok : (setDie s i x).tok = s.tok := rfl
@[simp] theorem setDie_cmds : (setDie s i x).cmds = s.cmds := rfl
@[simp] theorem setDie_hreq : (setDie s i x).hreq = s.hreq := rfl
@[simp] theorem setDie_strm : (setDie s i x).strm = s.strm := rfl
@[simp] theorem setDie_cl : (setDie s i x).cl = s.cl := rfl
@[simp] theorem setDie_core : (setDie s i x).core = s.core := rfl
@[simp] theorem setDie_die : (setDie s i x).die = s.die.put i x := rfl
@[simp] theorem setDie_stack : (setDie s i x).stack = s.stack := rfl
@[simp] theorem setDie_hbm : (setDie s i x).hbm = s.hbm := rfl
@[simp] theorem setDie_hbmCk : (setDie s i x).hbmCk = s.hbmCk := rfl
@[simp] theorem setDie_xferVtag : (setDie s i x).xferVtag = s.xferVtag := rfl
@[simp] theorem setDie_xferCheck : (setDie s i x).xferCheck = s.xferCheck := rfl
@[simp] theorem setDie_xferStag : (setDie s i x).xferStag = s.xferStag := rfl
@[simp] theorem setDie_bar2Base : (setDie s i x).bar2Base = s.bar2Base := rfl
@[simp] theorem setDie_xferPoisoned : (setDie s i x).xferPoisoned = s.xferPoisoned := rfl
@[simp] theorem setDie_xferDiscarded : (setDie s i x).xferDiscarded = s.xferDiscarded := rfl
@[simp] theorem setDie_hbmFlag : (setDie s i x).hbmFlag = s.hbmFlag := rfl
@[simp] theorem setDie_hbmLost : (setDie s i x).hbmLost = s.hbmLost := rfl
@[simp] theorem setDie_bar2Held : (setDie s i x).bar2Held = s.bar2Held := rfl
@[simp] theorem setDie_hbmHeld : (setDie s i x).hbmHeld = s.hbmHeld := rfl
@[simp] theorem setDie_stp : (setDie s i x).stp = s.stp := rfl
@[simp] theorem setDie_pwr : (setDie s i x).pwr = s.pwr := rfl
@[simp] theorem setDie_mer : (setDie s i x).mer = s.mer := rfl
@[simp] theorem setDie_flash : (setDie s i x).flash = s.flash := rfl
@[simp] theorem setDie_d2d : (setDie s i x).d2d = s.d2d := rfl
@[simp] theorem setDie_boot : (setDie s i x).boot = s.boot := rfl
@[simp] theorem setDie_encl : (setDie s i x).encl = s.encl := rfl
@[simp] theorem setDie_mgt : (setDie s i x).mgt = s.mgt := rfl

end

/-! ### setStack -/

section
variable (s : State) (i : Nat) (x : Stack)

@[simp] theorem setStack_pending : (setStack s i x).pending = s.pending := rfl
@[simp] theorem setStack_free : (setStack s i x).free = s.free := rfl
@[simp] theorem setStack_out : (setStack s i x).out = s.out := rfl
@[simp] theorem setStack_aoCount : (setStack s i x).aoCount = s.aoCount := rfl
@[simp] theorem setStack_seqNo : (setStack s i x).seqNo = s.seqNo := rfl
@[simp] theorem setStack_insNo : (setStack s i x).insNo = s.insNo := rfl
@[simp] theorem setStack_lastStream : (setStack s i x).lastStream = s.lastStream := rfl
@[simp] theorem setStack_recs : (setStack s i x).recs = s.recs := rfl
@[simp] theorem setStack_evr : (setStack s i x).evr = s.evr := rfl
@[simp] theorem setStack_pci : (setStack s i x).pci = s.pci := rfl
@[simp] theorem setStack_job : (setStack s i x).job = s.job := rfl
@[simp] theorem setStack_groups : (setStack s i x).groups = s.groups := rfl
@[simp] theorem setStack_recipe : (setStack s i x).recipe = s.recipe := rfl
@[simp] theorem setStack_tok : (setStack s i x).tok = s.tok := rfl
@[simp] theorem setStack_cmds : (setStack s i x).cmds = s.cmds := rfl
@[simp] theorem setStack_hreq : (setStack s i x).hreq = s.hreq := rfl
@[simp] theorem setStack_strm : (setStack s i x).strm = s.strm := rfl
@[simp] theorem setStack_cl : (setStack s i x).cl = s.cl := rfl
@[simp] theorem setStack_core : (setStack s i x).core = s.core := rfl
@[simp] theorem setStack_die : (setStack s i x).die = s.die := rfl
@[simp] theorem setStack_stack : (setStack s i x).stack = s.stack.put i x := rfl
@[simp] theorem setStack_hbm : (setStack s i x).hbm = s.hbm := rfl
@[simp] theorem setStack_hbmCk : (setStack s i x).hbmCk = s.hbmCk := rfl
@[simp] theorem setStack_xferVtag : (setStack s i x).xferVtag = s.xferVtag := rfl
@[simp] theorem setStack_xferCheck : (setStack s i x).xferCheck = s.xferCheck := rfl
@[simp] theorem setStack_xferStag : (setStack s i x).xferStag = s.xferStag := rfl
@[simp] theorem setStack_bar2Base : (setStack s i x).bar2Base = s.bar2Base := rfl
@[simp] theorem setStack_xferPoisoned : (setStack s i x).xferPoisoned = s.xferPoisoned := rfl
@[simp] theorem setStack_xferDiscarded : (setStack s i x).xferDiscarded = s.xferDiscarded := rfl
@[simp] theorem setStack_hbmFlag : (setStack s i x).hbmFlag = s.hbmFlag := rfl
@[simp] theorem setStack_hbmLost : (setStack s i x).hbmLost = s.hbmLost := rfl
@[simp] theorem setStack_bar2Held : (setStack s i x).bar2Held = s.bar2Held := rfl
@[simp] theorem setStack_hbmHeld : (setStack s i x).hbmHeld = s.hbmHeld := rfl
@[simp] theorem setStack_stp : (setStack s i x).stp = s.stp := rfl
@[simp] theorem setStack_pwr : (setStack s i x).pwr = s.pwr := rfl
@[simp] theorem setStack_mer : (setStack s i x).mer = s.mer := rfl
@[simp] theorem setStack_flash : (setStack s i x).flash = s.flash := rfl
@[simp] theorem setStack_d2d : (setStack s i x).d2d = s.d2d := rfl
@[simp] theorem setStack_boot : (setStack s i x).boot = s.boot := rfl
@[simp] theorem setStack_encl : (setStack s i x).encl = s.encl := rfl
@[simp] theorem setStack_mgt : (setStack s i x).mgt = s.mgt := rfl

end

/-! ### emit -/

section
variable (m : Out) (s : State)

@[simp] theorem emit_pending : (emit m s).pending = s.pending := rfl
@[simp] theorem emit_free : (emit m s).free = s.free := rfl
@[simp] theorem emit_out : (emit m s).out = m :: s.out := rfl
@[simp] theorem emit_aoCount : (emit m s).aoCount = s.aoCount := rfl
@[simp] theorem emit_seqNo : (emit m s).seqNo = s.seqNo := rfl
@[simp] theorem emit_insNo : (emit m s).insNo = s.insNo := rfl
@[simp] theorem emit_lastStream : (emit m s).lastStream = s.lastStream := rfl
@[simp] theorem emit_recs : (emit m s).recs = s.recs := rfl
@[simp] theorem emit_evr : (emit m s).evr = s.evr := rfl
@[simp] theorem emit_pci : (emit m s).pci = s.pci := rfl
@[simp] theorem emit_job : (emit m s).job = s.job := rfl
@[simp] theorem emit_groups : (emit m s).groups = s.groups := rfl
@[simp] theorem emit_recipe : (emit m s).recipe = s.recipe := rfl
@[simp] theorem emit_tok : (emit m s).tok = s.tok := rfl
@[simp] theorem emit_cmds : (emit m s).cmds = s.cmds := rfl
@[simp] theorem emit_hreq : (emit m s).hreq = s.hreq := rfl
@[simp] theorem emit_strm : (emit m s).strm = s.strm := rfl
@[simp] theorem emit_cl : (emit m s).cl = s.cl := rfl
@[simp] theorem emit_core : (emit m s).core = s.core := rfl
@[simp] theorem emit_die : (emit m s).die = s.die := rfl
@[simp] theorem emit_stack : (emit m s).stack = s.stack := rfl
@[simp] theorem emit_hbm : (emit m s).hbm = s.hbm := rfl
@[simp] theorem emit_hbmCk : (emit m s).hbmCk = s.hbmCk := rfl
@[simp] theorem emit_xferVtag : (emit m s).xferVtag = s.xferVtag := rfl
@[simp] theorem emit_xferCheck : (emit m s).xferCheck = s.xferCheck := rfl
@[simp] theorem emit_xferStag : (emit m s).xferStag = s.xferStag := rfl
@[simp] theorem emit_bar2Base : (emit m s).bar2Base = s.bar2Base := rfl
@[simp] theorem emit_xferPoisoned : (emit m s).xferPoisoned = s.xferPoisoned := rfl
@[simp] theorem emit_xferDiscarded : (emit m s).xferDiscarded = s.xferDiscarded := rfl
@[simp] theorem emit_hbmFlag : (emit m s).hbmFlag = s.hbmFlag := rfl
@[simp] theorem emit_hbmLost : (emit m s).hbmLost = s.hbmLost := rfl
@[simp] theorem emit_bar2Held : (emit m s).bar2Held = s.bar2Held := rfl
@[simp] theorem emit_hbmHeld : (emit m s).hbmHeld = s.hbmHeld := rfl
@[simp] theorem emit_stp : (emit m s).stp = s.stp := rfl
@[simp] theorem emit_pwr : (emit m s).pwr = s.pwr := rfl
@[simp] theorem emit_mer : (emit m s).mer = s.mer := rfl
@[simp] theorem emit_flash : (emit m s).flash = s.flash := rfl
@[simp] theorem emit_d2d : (emit m s).d2d = s.d2d := rfl
@[simp] theorem emit_boot : (emit m s).boot = s.boot := rfl
@[simp] theorem emit_encl : (emit m s).encl = s.encl := rfl
@[simp] theorem emit_mgt : (emit m s).mgt = s.mgt := rfl

end

/-! ### record -/

section
variable (r : RecIn) (s : State)

@[simp] theorem record_pending : (record r s).pending = s.pending := rfl
@[simp] theorem record_free : (record r s).free = s.free := rfl
@[simp] theorem record_out : (record r s).out = s.out := rfl
@[simp] theorem record_aoCount : (record r s).aoCount = s.aoCount := rfl
@[simp] theorem record_seqNo : (record r s).seqNo = s.seqNo := rfl
@[simp] theorem record_insNo : (record r s).insNo = s.insNo := rfl
@[simp] theorem record_lastStream : (record r s).lastStream = s.lastStream := rfl
@[simp] theorem record_recs : (record r s).recs = s.recs.add (mkRec r s) := rfl
@[simp] theorem record_evr : (record r s).evr = s.evr := rfl
@[simp] theorem record_pci : (record r s).pci = s.pci := rfl
@[simp] theorem record_job : (record r s).job = s.job := rfl
@[simp] theorem record_groups : (record r s).groups = s.groups := rfl
@[simp] theorem record_recipe : (record r s).recipe = s.recipe := rfl
@[simp] theorem record_tok : (record r s).tok = s.tok := rfl
@[simp] theorem record_cmds : (record r s).cmds = s.cmds := rfl
@[simp] theorem record_hreq : (record r s).hreq = s.hreq := rfl
@[simp] theorem record_strm : (record r s).strm = s.strm := rfl
@[simp] theorem record_cl : (record r s).cl = s.cl := rfl
@[simp] theorem record_core : (record r s).core = s.core := rfl
@[simp] theorem record_die : (record r s).die = s.die := rfl
@[simp] theorem record_stack : (record r s).stack = s.stack := rfl
@[simp] theorem record_hbm : (record r s).hbm = s.hbm := rfl
@[simp] theorem record_hbmCk : (record r s).hbmCk = s.hbmCk := rfl
@[simp] theorem record_xferVtag : (record r s).xferVtag = s.xferVtag := rfl
@[simp] theorem record_xferCheck : (record r s).xferCheck = s.xferCheck := rfl
@[simp] theorem record_xferStag : (record r s).xferStag = s.xferStag := rfl
@[simp] theorem record_bar2Base : (record r s).bar2Base = s.bar2Base := rfl
@[simp] theorem record_xferPoisoned : (record r s).xferPoisoned = s.xferPoisoned := rfl
@[simp] theorem record_xferDiscarded : (record r s).xferDiscarded = s.xferDiscarded := rfl
@[simp] theorem record_hbmFlag : (record r s).hbmFlag = s.hbmFlag := rfl
@[simp] theorem record_hbmLost : (record r s).hbmLost = s.hbmLost := rfl
@[simp] theorem record_bar2Held : (record r s).bar2Held = s.bar2Held := rfl
@[simp] theorem record_hbmHeld : (record r s).hbmHeld = s.hbmHeld := rfl
@[simp] theorem record_stp : (record r s).stp = s.stp := rfl
@[simp] theorem record_pwr : (record r s).pwr = s.pwr := rfl
@[simp] theorem record_mer : (record r s).mer = s.mer := rfl
@[simp] theorem record_flash : (record r s).flash = s.flash := rfl
@[simp] theorem record_d2d : (record r s).d2d = s.d2d := rfl
@[simp] theorem record_boot : (record r s).boot = s.boot := rfl
@[simp] theorem record_encl : (record r s).encl = s.encl := rfl
@[simp] theorem record_mgt : (record r s).mgt = s.mgt := rfl

end

/-! ### setMsix -/

section
variable (s : State) (v : Nat) (m : Msix)

@[simp] theorem setMsix_pending : (setMsix s v m).pending = s.pending := rfl
@[simp] theorem setMsix_free : (setMsix s v m).free = s.free := rfl
@[simp] theorem setMsix_out : (setMsix s v m).out = s.out := rfl
@[simp] theorem setMsix_aoCount : (setMsix s v m).aoCount = s.aoCount := rfl
@[simp] theorem setMsix_seqNo : (setMsix s v m).seqNo = s.seqNo := rfl
@[simp] theorem setMsix_insNo : (setMsix s v m).insNo = s.insNo := rfl
@[simp] theorem setMsix_lastStream : (setMsix s v m).lastStream = s.lastStream := rfl
@[simp] theorem setMsix_recs : (setMsix s v m).recs = s.recs := rfl
@[simp] theorem setMsix_evr : (setMsix s v m).evr = s.evr := rfl
@[simp] theorem setMsix_pci : (setMsix s v m).pci = { s.pci with msix := s.pci.msix.put v m } := rfl
@[simp] theorem setMsix_job : (setMsix s v m).job = s.job := rfl
@[simp] theorem setMsix_groups : (setMsix s v m).groups = s.groups := rfl
@[simp] theorem setMsix_recipe : (setMsix s v m).recipe = s.recipe := rfl
@[simp] theorem setMsix_tok : (setMsix s v m).tok = s.tok := rfl
@[simp] theorem setMsix_cmds : (setMsix s v m).cmds = s.cmds := rfl
@[simp] theorem setMsix_hreq : (setMsix s v m).hreq = s.hreq := rfl
@[simp] theorem setMsix_strm : (setMsix s v m).strm = s.strm := rfl
@[simp] theorem setMsix_cl : (setMsix s v m).cl = s.cl := rfl
@[simp] theorem setMsix_core : (setMsix s v m).core = s.core := rfl
@[simp] theorem setMsix_die : (setMsix s v m).die = s.die := rfl
@[simp] theorem setMsix_stack : (setMsix s v m).stack = s.stack := rfl
@[simp] theorem setMsix_hbm : (setMsix s v m).hbm = s.hbm := rfl
@[simp] theorem setMsix_hbmCk : (setMsix s v m).hbmCk = s.hbmCk := rfl
@[simp] theorem setMsix_xferVtag : (setMsix s v m).xferVtag = s.xferVtag := rfl
@[simp] theorem setMsix_xferCheck : (setMsix s v m).xferCheck = s.xferCheck := rfl
@[simp] theorem setMsix_xferStag : (setMsix s v m).xferStag = s.xferStag := rfl
@[simp] theorem setMsix_bar2Base : (setMsix s v m).bar2Base = s.bar2Base := rfl
@[simp] theorem setMsix_xferPoisoned : (setMsix s v m).xferPoisoned = s.xferPoisoned := rfl
@[simp] theorem setMsix_xferDiscarded : (setMsix s v m).xferDiscarded = s.xferDiscarded := rfl
@[simp] theorem setMsix_hbmFlag : (setMsix s v m).hbmFlag = s.hbmFlag := rfl
@[simp] theorem setMsix_hbmLost : (setMsix s v m).hbmLost = s.hbmLost := rfl
@[simp] theorem setMsix_bar2Held : (setMsix s v m).bar2Held = s.bar2Held := rfl
@[simp] theorem setMsix_hbmHeld : (setMsix s v m).hbmHeld = s.hbmHeld := rfl
@[simp] theorem setMsix_stp : (setMsix s v m).stp = s.stp := rfl
@[simp] theorem setMsix_pwr : (setMsix s v m).pwr = s.pwr := rfl
@[simp] theorem setMsix_mer : (setMsix s v m).mer = s.mer := rfl
@[simp] theorem setMsix_flash : (setMsix s v m).flash = s.flash := rfl
@[simp] theorem setMsix_d2d : (setMsix s v m).d2d = s.d2d := rfl
@[simp] theorem setMsix_boot : (setMsix s v m).boot = s.boot := rfl
@[simp] theorem setMsix_encl : (setMsix s v m).encl = s.encl := rfl
@[simp] theorem setMsix_mgt : (setMsix s v m).mgt = s.mgt := rfl

end

/-! ### setWatch -/

section
variable (s : State) (n : Nat) (w : Watch)

@[simp] theorem setWatch_pending : (setWatch s n w).pending = s.pending := rfl
@[simp] theorem setWatch_free : (setWatch s n w).free = s.free := rfl
@[simp] theorem setWatch_out : (setWatch s n w).out = s.out := rfl
@[simp] theorem setWatch_aoCount : (setWatch s n w).aoCount = s.aoCount := rfl
@[simp] theorem setWatch_seqNo : (setWatch s n w).seqNo = s.seqNo := rfl
@[simp] theorem setWatch_insNo : (setWatch s n w).insNo = s.insNo := rfl
@[simp] theorem setWatch_lastStream : (setWatch s n w).lastStream = s.lastStream := rfl
@[simp] theorem setWatch_recs : (setWatch s n w).recs = s.recs := rfl
@[simp] theorem setWatch_evr : (setWatch s n w).evr = s.evr := rfl
@[simp] theorem setWatch_pci : (setWatch s n w).pci = { s.pci with watch := s.pci.watch.put n w } := rfl
@[simp] theorem setWatch_job : (setWatch s n w).job = s.job := rfl
@[simp] theorem setWatch_groups : (setWatch s n w).groups = s.groups := rfl
@[simp] theorem setWatch_recipe : (setWatch s n w).recipe = s.recipe := rfl
@[simp] theorem setWatch_tok : (setWatch s n w).tok = s.tok := rfl
@[simp] theorem setWatch_cmds : (setWatch s n w).cmds = s.cmds := rfl
@[simp] theorem setWatch_hreq : (setWatch s n w).hreq = s.hreq := rfl
@[simp] theorem setWatch_strm : (setWatch s n w).strm = s.strm := rfl
@[simp] theorem setWatch_cl : (setWatch s n w).cl = s.cl := rfl
@[simp] theorem setWatch_core : (setWatch s n w).core = s.core := rfl
@[simp] theorem setWatch_die : (setWatch s n w).die = s.die := rfl
@[simp] theorem setWatch_stack : (setWatch s n w).stack = s.stack := rfl
@[simp] theorem setWatch_hbm : (setWatch s n w).hbm = s.hbm := rfl
@[simp] theorem setWatch_hbmCk : (setWatch s n w).hbmCk = s.hbmCk := rfl
@[simp] theorem setWatch_xferVtag : (setWatch s n w).xferVtag = s.xferVtag := rfl
@[simp] theorem setWatch_xferCheck : (setWatch s n w).xferCheck = s.xferCheck := rfl
@[simp] theorem setWatch_xferStag : (setWatch s n w).xferStag = s.xferStag := rfl
@[simp] theorem setWatch_bar2Base : (setWatch s n w).bar2Base = s.bar2Base := rfl
@[simp] theorem setWatch_xferPoisoned : (setWatch s n w).xferPoisoned = s.xferPoisoned := rfl
@[simp] theorem setWatch_xferDiscarded : (setWatch s n w).xferDiscarded = s.xferDiscarded := rfl
@[simp] theorem setWatch_hbmFlag : (setWatch s n w).hbmFlag = s.hbmFlag := rfl
@[simp] theorem setWatch_hbmLost : (setWatch s n w).hbmLost = s.hbmLost := rfl
@[simp] theorem setWatch_bar2Held : (setWatch s n w).bar2Held = s.bar2Held := rfl
@[simp] theorem setWatch_hbmHeld : (setWatch s n w).hbmHeld = s.hbmHeld := rfl
@[simp] theorem setWatch_stp : (setWatch s n w).stp = s.stp := rfl
@[simp] theorem setWatch_pwr : (setWatch s n w).pwr = s.pwr := rfl
@[simp] theorem setWatch_mer : (setWatch s n w).mer = s.mer := rfl
@[simp] theorem setWatch_flash : (setWatch s n w).flash = s.flash := rfl
@[simp] theorem setWatch_d2d : (setWatch s n w).d2d = s.d2d := rfl
@[simp] theorem setWatch_boot : (setWatch s n w).boot = s.boot := rfl
@[simp] theorem setWatch_encl : (setWatch s n w).encl = s.encl := rfl
@[simp] theorem setWatch_mgt : (setWatch s n w).mgt = s.mgt := rfl

end

/-! ### setBoot -/

section
variable (s : State) (b : Boot)

@[simp] theorem setBoot_pending : (setBoot s b).pending = s.pending := rfl
@[simp] theorem setBoot_free : (setBoot s b).free = s.free := rfl
@[simp] theorem setBoot_out : (setBoot s b).out = s.out := rfl
@[simp] theorem setBoot_aoCount : (setBoot s b).aoCount = s.aoCount := rfl
@[simp] theorem setBoot_seqNo : (setBoot s b).seqNo = s.seqNo := rfl
@[simp] theorem setBoot_insNo : (setBoot s b).insNo = s.insNo := rfl
@[simp] theorem setBoot_lastStream : (setBoot s b).lastStream = s.lastStream := rfl
@[simp] theorem setBoot_recs : (setBoot s b).recs = s.recs := rfl
@[simp] theorem setBoot_evr : (setBoot s b).evr = s.evr := rfl
@[simp] theorem setBoot_pci : (setBoot s b).pci = s.pci := rfl
@[simp] theorem setBoot_job : (setBoot s b).job = s.job := rfl
@[simp] theorem setBoot_groups : (setBoot s b).groups = s.groups := rfl
@[simp] theorem setBoot_recipe : (setBoot s b).recipe = s.recipe := rfl
@[simp] theorem setBoot_tok : (setBoot s b).tok = s.tok := rfl
@[simp] theorem setBoot_cmds : (setBoot s b).cmds = s.cmds := rfl
@[simp] theorem setBoot_hreq : (setBoot s b).hreq = s.hreq := rfl
@[simp] theorem setBoot_strm : (setBoot s b).strm = s.strm := rfl
@[simp] theorem setBoot_cl : (setBoot s b).cl = s.cl := rfl
@[simp] theorem setBoot_core : (setBoot s b).core = s.core := rfl
@[simp] theorem setBoot_die : (setBoot s b).die = s.die := rfl
@[simp] theorem setBoot_stack : (setBoot s b).stack = s.stack := rfl
@[simp] theorem setBoot_hbm : (setBoot s b).hbm = s.hbm := rfl
@[simp] theorem setBoot_hbmCk : (setBoot s b).hbmCk = s.hbmCk := rfl
@[simp] theorem setBoot_xferVtag : (setBoot s b).xferVtag = s.xferVtag := rfl
@[simp] theorem setBoot_xferCheck : (setBoot s b).xferCheck = s.xferCheck := rfl
@[simp] theorem setBoot_xferStag : (setBoot s b).xferStag = s.xferStag := rfl
@[simp] theorem setBoot_bar2Base : (setBoot s b).bar2Base = s.bar2Base := rfl
@[simp] theorem setBoot_xferPoisoned : (setBoot s b).xferPoisoned = s.xferPoisoned := rfl
@[simp] theorem setBoot_xferDiscarded : (setBoot s b).xferDiscarded = s.xferDiscarded := rfl
@[simp] theorem setBoot_hbmFlag : (setBoot s b).hbmFlag = s.hbmFlag := rfl
@[simp] theorem setBoot_hbmLost : (setBoot s b).hbmLost = s.hbmLost := rfl
@[simp] theorem setBoot_bar2Held : (setBoot s b).bar2Held = s.bar2Held := rfl
@[simp] theorem setBoot_hbmHeld : (setBoot s b).hbmHeld = s.hbmHeld := rfl
@[simp] theorem setBoot_stp : (setBoot s b).stp = s.stp := rfl
@[simp] theorem setBoot_pwr : (setBoot s b).pwr = s.pwr := rfl
@[simp] theorem setBoot_mer : (setBoot s b).mer = s.mer := rfl
@[simp] theorem setBoot_flash : (setBoot s b).flash = s.flash := rfl
@[simp] theorem setBoot_d2d : (setBoot s b).d2d = s.d2d := rfl
@[simp] theorem setBoot_boot : (setBoot s b).boot = b := rfl
@[simp] theorem setBoot_encl : (setBoot s b).encl = s.encl := rfl
@[simp] theorem setBoot_mgt : (setBoot s b).mgt = s.mgt := rfl

end

/-! ### setEncl -/

section
variable (s : State) (e : Encl)

@[simp] theorem setEncl_pending : (setEncl s e).pending = s.pending := rfl
@[simp] theorem setEncl_free : (setEncl s e).free = s.free := rfl
@[simp] theorem setEncl_out : (setEncl s e).out = s.out := rfl
@[simp] theorem setEncl_aoCount : (setEncl s e).aoCount = s.aoCount := rfl
@[simp] theorem setEncl_seqNo : (setEncl s e).seqNo = s.seqNo := rfl
@[simp] theorem setEncl_insNo : (setEncl s e).insNo = s.insNo := rfl
@[simp] theorem setEncl_lastStream : (setEncl s e).lastStream = s.lastStream := rfl
@[simp] theorem setEncl_recs : (setEncl s e).recs = s.recs := rfl
@[simp] theorem setEncl_evr : (setEncl s e).evr = s.evr := rfl
@[simp] theorem setEncl_pci : (setEncl s e).pci = s.pci := rfl
@[simp] theorem setEncl_job : (setEncl s e).job = s.job := rfl
@[simp] theorem setEncl_groups : (setEncl s e).groups = s.groups := rfl
@[simp] theorem setEncl_recipe : (setEncl s e).recipe = s.recipe := rfl
@[simp] theorem setEncl_tok : (setEncl s e).tok = s.tok := rfl
@[simp] theorem setEncl_cmds : (setEncl s e).cmds = s.cmds := rfl
@[simp] theorem setEncl_hreq : (setEncl s e).hreq = s.hreq := rfl
@[simp] theorem setEncl_strm : (setEncl s e).strm = s.strm := rfl
@[simp] theorem setEncl_cl : (setEncl s e).cl = s.cl := rfl
@[simp] theorem setEncl_core : (setEncl s e).core = s.core := rfl
@[simp] theorem setEncl_die : (setEncl s e).die = s.die := rfl
@[simp] theorem setEncl_stack : (setEncl s e).stack = s.stack := rfl
@[simp] theorem setEncl_hbm : (setEncl s e).hbm = s.hbm := rfl
@[simp] theorem setEncl_hbmCk : (setEncl s e).hbmCk = s.hbmCk := rfl
@[simp] theorem setEncl_xferVtag : (setEncl s e).xferVtag = s.xferVtag := rfl
@[simp] theorem setEncl_xferCheck : (setEncl s e).xferCheck = s.xferCheck := rfl
@[simp] theorem setEncl_xferStag : (setEncl s e).xferStag = s.xferStag := rfl
@[simp] theorem setEncl_bar2Base : (setEncl s e).bar2Base = s.bar2Base := rfl
@[simp] theorem setEncl_xferPoisoned : (setEncl s e).xferPoisoned = s.xferPoisoned := rfl
@[simp] theorem setEncl_xferDiscarded : (setEncl s e).xferDiscarded = s.xferDiscarded := rfl
@[simp] theorem setEncl_hbmFlag : (setEncl s e).hbmFlag = s.hbmFlag := rfl
@[simp] theorem setEncl_hbmLost : (setEncl s e).hbmLost = s.hbmLost := rfl
@[simp] theorem setEncl_bar2Held : (setEncl s e).bar2Held = s.bar2Held := rfl
@[simp] theorem setEncl_hbmHeld : (setEncl s e).hbmHeld = s.hbmHeld := rfl
@[simp] theorem setEncl_stp : (setEncl s e).stp = s.stp := rfl
@[simp] theorem setEncl_pwr : (setEncl s e).pwr = s.pwr := rfl
@[simp] theorem setEncl_mer : (setEncl s e).mer = s.mer := rfl
@[simp] theorem setEncl_flash : (setEncl s e).flash = s.flash := rfl
@[simp] theorem setEncl_d2d : (setEncl s e).d2d = s.d2d := rfl
@[simp] theorem setEncl_boot : (setEncl s e).boot = s.boot := rfl
@[simp] theorem setEncl_encl : (setEncl s e).encl = e := rfl
@[simp] theorem setEncl_mgt : (setEncl s e).mgt = s.mgt := rfl

end

/-! ### Units read after an update -/

section
variable (s : State)

theorem strmOf_setStrm (i j : Nat) (x : Stream) : strmOf (setStrm s i x) j = if j = i then x else strmOf s j :=
  Tab.get_put _ _ _ _ _

@[simp] theorem strmOf_setStrm_same (i : Nat) (x : Stream) : strmOf (setStrm s i x) i = x := Tab.get_put_same _ _ _ _

@[simp] theorem strmOf_setCl (i : Nat) (x : Cluster) (j : Nat) : strmOf (setCl s i x) j = strmOf s j := rfl
@[simp] theorem strmOf_setCore (i : Nat) (x : Core) (j : Nat) : strmOf (setCore s i x) j = strmOf s j := rfl
@[simp] theorem strmOf_setDie (i : Nat) (x : Die) (j : Nat) : strmOf (setDie s i x) j = strmOf s j := rfl
@[simp] theorem strmOf_setStack (i : Nat) (x : Stack) (j : Nat) : strmOf (setStack s i x) j = strmOf s j := rfl
@[simp] theorem strmOf_emit (m : Out) (j : Nat) : strmOf (emit m s) j = strmOf s j := rfl
@[simp] theorem strmOf_record (r : RecIn) (j : Nat) : strmOf (record r s) j = strmOf s j := rfl
@[simp] theorem strmOf_setMsix (v : Nat) (m : Msix) (j : Nat) : strmOf (setMsix s v m) j = strmOf s j := rfl
@[simp] theorem strmOf_setWatch (n : Nat) (w : Watch) (j : Nat) : strmOf (setWatch s n w) j = strmOf s j := rfl
@[simp] theorem strmOf_setBoot (b : Boot) (j : Nat) : strmOf (setBoot s b) j = strmOf s j := rfl
@[simp] theorem strmOf_setEncl (e : Encl) (j : Nat) : strmOf (setEncl s e) j = strmOf s j := rfl

theorem clOf_setCl (i j : Nat) (x : Cluster) : clOf (setCl s i x) j = if j = i then x else clOf s j :=
  Tab.get_put _ _ _ _ _

@[simp] theorem clOf_setCl_same (i : Nat) (x : Cluster) : clOf (setCl s i x) i = x := Tab.get_put_same _ _ _ _

@[simp] theorem clOf_setStrm (i : Nat) (x : Stream) (j : Nat) : clOf (setStrm s i x) j = clOf s j := rfl
@[simp] theorem clOf_setCore (i : Nat) (x : Core) (j : Nat) : clOf (setCore s i x) j = clOf s j := rfl
@[simp] theorem clOf_setDie (i : Nat) (x : Die) (j : Nat) : clOf (setDie s i x) j = clOf s j := rfl
@[simp] theorem clOf_setStack (i : Nat) (x : Stack) (j : Nat) : clOf (setStack s i x) j = clOf s j := rfl
@[simp] theorem clOf_emit (m : Out) (j : Nat) : clOf (emit m s) j = clOf s j := rfl
@[simp] theorem clOf_record (r : RecIn) (j : Nat) : clOf (record r s) j = clOf s j := rfl
@[simp] theorem clOf_setMsix (v : Nat) (m : Msix) (j : Nat) : clOf (setMsix s v m) j = clOf s j := rfl
@[simp] theorem clOf_setWatch (n : Nat) (w : Watch) (j : Nat) : clOf (setWatch s n w) j = clOf s j := rfl
@[simp] theorem clOf_setBoot (b : Boot) (j : Nat) : clOf (setBoot s b) j = clOf s j := rfl
@[simp] theorem clOf_setEncl (e : Encl) (j : Nat) : clOf (setEncl s e) j = clOf s j := rfl

theorem coreOf_setCore (i j : Nat) (x : Core) : coreOf (setCore s i x) j = if j = i then x else coreOf s j :=
  Tab.get_put _ _ _ _ _

@[simp] theorem coreOf_setCore_same (i : Nat) (x : Core) : coreOf (setCore s i x) i = x := Tab.get_put_same _ _ _ _

@[simp] theorem coreOf_setStrm (i : Nat) (x : Stream) (j : Nat) : coreOf (setStrm s i x) j = coreOf s j := rfl
@[simp] theorem coreOf_setCl (i : Nat) (x : Cluster) (j : Nat) : coreOf (setCl s i x) j = coreOf s j := rfl
@[simp] theorem coreOf_setDie (i : Nat) (x : Die) (j : Nat) : coreOf (setDie s i x) j = coreOf s j := rfl
@[simp] theorem coreOf_setStack (i : Nat) (x : Stack) (j : Nat) : coreOf (setStack s i x) j = coreOf s j := rfl
@[simp] theorem coreOf_emit (m : Out) (j : Nat) : coreOf (emit m s) j = coreOf s j := rfl
@[simp] theorem coreOf_record (r : RecIn) (j : Nat) : coreOf (record r s) j = coreOf s j := rfl
@[simp] theorem coreOf_setMsix (v : Nat) (m : Msix) (j : Nat) : coreOf (setMsix s v m) j = coreOf s j := rfl
@[simp] theorem coreOf_setWatch (n : Nat) (w : Watch) (j : Nat) : coreOf (setWatch s n w) j = coreOf s j := rfl
@[simp] theorem coreOf_setBoot (b : Boot) (j : Nat) : coreOf (setBoot s b) j = coreOf s j := rfl
@[simp] theorem coreOf_setEncl (e : Encl) (j : Nat) : coreOf (setEncl s e) j = coreOf s j := rfl

theorem dieOf_setDie (i j : Nat) (x : Die) : dieOf (setDie s i x) j = if j = i then x else dieOf s j :=
  Tab.get_put _ _ _ _ _

@[simp] theorem dieOf_setDie_same (i : Nat) (x : Die) : dieOf (setDie s i x) i = x := Tab.get_put_same _ _ _ _

@[simp] theorem dieOf_setStrm (i : Nat) (x : Stream) (j : Nat) : dieOf (setStrm s i x) j = dieOf s j := rfl
@[simp] theorem dieOf_setCl (i : Nat) (x : Cluster) (j : Nat) : dieOf (setCl s i x) j = dieOf s j := rfl
@[simp] theorem dieOf_setCore (i : Nat) (x : Core) (j : Nat) : dieOf (setCore s i x) j = dieOf s j := rfl
@[simp] theorem dieOf_setStack (i : Nat) (x : Stack) (j : Nat) : dieOf (setStack s i x) j = dieOf s j := rfl
@[simp] theorem dieOf_emit (m : Out) (j : Nat) : dieOf (emit m s) j = dieOf s j := rfl
@[simp] theorem dieOf_record (r : RecIn) (j : Nat) : dieOf (record r s) j = dieOf s j := rfl
@[simp] theorem dieOf_setMsix (v : Nat) (m : Msix) (j : Nat) : dieOf (setMsix s v m) j = dieOf s j := rfl
@[simp] theorem dieOf_setWatch (n : Nat) (w : Watch) (j : Nat) : dieOf (setWatch s n w) j = dieOf s j := rfl
@[simp] theorem dieOf_setBoot (b : Boot) (j : Nat) : dieOf (setBoot s b) j = dieOf s j := rfl
@[simp] theorem dieOf_setEncl (e : Encl) (j : Nat) : dieOf (setEncl s e) j = dieOf s j := rfl

theorem stackOf_setStack (i j : Nat) (x : Stack) : stackOf (setStack s i x) j = if j = i then x else stackOf s j :=
  Tab.get_put _ _ _ _ _

@[simp] theorem stackOf_setStack_same (i : Nat) (x : Stack) : stackOf (setStack s i x) i = x := Tab.get_put_same _ _ _ _

@[simp] theorem stackOf_setStrm (i : Nat) (x : Stream) (j : Nat) : stackOf (setStrm s i x) j = stackOf s j := rfl
@[simp] theorem stackOf_setCl (i : Nat) (x : Cluster) (j : Nat) : stackOf (setCl s i x) j = stackOf s j := rfl
@[simp] theorem stackOf_setCore (i : Nat) (x : Core) (j : Nat) : stackOf (setCore s i x) j = stackOf s j := rfl
@[simp] theorem stackOf_setDie (i : Nat) (x : Die) (j : Nat) : stackOf (setDie s i x) j = stackOf s j := rfl
@[simp] theorem stackOf_emit (m : Out) (j : Nat) : stackOf (emit m s) j = stackOf s j := rfl
@[simp] theorem stackOf_record (r : RecIn) (j : Nat) : stackOf (record r s) j = stackOf s j := rfl
@[simp] theorem stackOf_setMsix (v : Nat) (m : Msix) (j : Nat) : stackOf (setMsix s v m) j = stackOf s j := rfl
@[simp] theorem stackOf_setWatch (n : Nat) (w : Watch) (j : Nat) : stackOf (setWatch s n w) j = stackOf s j := rfl
@[simp] theorem stackOf_setBoot (b : Boot) (j : Nat) : stackOf (setBoot s b) j = stackOf s j := rfl
@[simp] theorem stackOf_setEncl (e : Encl) (j : Nat) : stackOf (setEncl s e) j = stackOf s j := rfl

end

end Sys2Proof.Machine
end

