-- ==== Sys2Proof/Laws/Access.lean ====
section
/-! SUPPORT. Access: what a register access of a host that reaches the package does. -/

namespace Sys2Proof.Machine

/-- What two operations in turn leave. -/
theorem SameData.trans {a b c} (h : SameData a b) (g : SameData b c) : SameData a c :=
  ⟨g.hbm.trans h.hbm, fun j => (g.spad j).trans (h.spad j), fun j => (g.plates j).trans (h.plates j), fun j => (g.regs j).trans (h.regs j), g.tok.trans h.tok, g.recs.trans h.recs, g.out.trans h.out, g.flash.trans h.flash⟩
/-- A host access that reaches the package does its work. -/
theorem hostAccess_of_reaches {s} (h : HostReaches s) (f : State → State) : hostAccess f s = f s := by
  simp [hostAccess, h.own, h.notBlocked, h.link, h.mse, h.ide]
/-- So does a host write. -/
theorem hostWriteReady_of_reaches {s} (h : HostReaches s) (f : State → State) : hostWriteReady f s = f s := by
  simp [hostWriteReady, hostAccess_of_reaches h, h.ready]
/-- A write that no rule of its register refuses reaches it. -/
theorem window_of_reaches {s off size v f} (h : HostReaches s) (hw : writeRefused off (touch off s) = none) : window off size v f s = f (touch off s) := by
  unfold window
  rw [hostAccess_of_reaches h]
  have hd : ((windowDie off).map (dieAway s)).getD false = false := by
    cases windowDie off <;> simp [h.dies]
  simp only [h.ready, hd, hw]; simp
/-- Ungating the clock of a cluster leaves the host its access. -/
theorem reaches_touch {s off} (h : HostReaches s) : HostReaches (touch off s) := by
  unfold touch ungate; split
  · split
    · exact ⟨h.own, h.link, h.notBlocked, h.mse, h.ide, h.ready, h.dies⟩
    · exact h
  · exact h
/-- It changes no data. -/
theorem sameData_touch {s off} : SameData s (touch off s) := by
  unfold touch ungate; split
  · split
    · refine ⟨rfl, fun _ => rfl, fun j => ?_, fun j => ?_, rfl, rfl, rfl, rfl⟩ <;> rw [clOf_setCl] <;> split <;> simp_all
    · exact ⟨rfl, fun _ => rfl, fun _ => rfl, fun _ => rfl, rfl, rfl, rfl, rfl⟩
  · exact ⟨rfl, fun _ => rfl, fun _ => rfl, fun _ => rfl, rfl, rfl, rfl, rfl⟩
theorem coreOf_touch {s off j} : coreOf (touch off s) j = coreOf s j := by
  unfold touch ungate; split
  · split <;> simp
  · rfl
theorem touch_fields {s off} : (touch off s).die = s.die ∧ (touch off s).stack = s.stack ∧ (touch off s).mer = s.mer ∧ (touch off s).d2d = s.d2d ∧ (touch off s).boot = s.boot := by
  unfold touch ungate; split
  · split <;> simp
  · simp
theorem coreLane_touch {s off k} : coreLane (touch off s) k = coreLane s k := by
  unfold touch ungate coreLane; split
  · split
    · simp only [clOf_setCl]; split <;> simp_all
    · rfl
  · rfl
theorem servedLane_touch {s off k} : servedLane (touch off s) k = servedLane s k := by
  have h : (clOf (touch off s) (k / 9)).mapState = (clOf s (k / 9)).mapState := by
    unfold touch ungate; split
    · split
      · simp only [clOf_setCl]; split <;> simp_all
      · rfl
    · rfl
  rw [servedLane, servedLane, coreLane_touch, h]
/-- The cluster of a BAR0 offset. -/
theorem offsetCluster_of_eq {a c y} (h : a = 0x2000000 + c / 8 * 0x1000000 + c % 8 * 0x100000 + y) (hc : c < 32) (hy : y < 0x100000) : offsetCluster a = some c ∧ a % 0x100000 = y := by
  have h2 : windowDie a = some (c / 8) := by
    have e : ∃ q, (a - 0x2000000) / 0x1000000 = q ∧ q = c / 8 := ⟨_, rfl, by omega⟩
    obtain ⟨q, e1, e2⟩ := e
    unfold windowDie
    rw [if_neg (by omega), if_neg (by omega), if_neg (by omega), if_neg (by omega), if_pos (by omega), e1, e2]
  refine ⟨?_, by omega⟩
  unfold offsetCluster; rw [h2]
  have e : ∃ x, (a - 0x2000000) % 0x1000000 = x ∧ x = c % 8 * 0x100000 + y := ⟨_, rfl, by omega⟩
  obtain ⟨x, e1, e2⟩ := e
  simp only [e1]
  have e3 : ∃ z, x / 0x100000 = z ∧ z = c % 8 := ⟨_, rfl, by omega⟩
  obtain ⟨z, e4, e5⟩ := e3
  rw [if_pos (by omega), e4, e5]; exact congrArg some (by omega)
/-- The core of a BAR0 offset. -/
theorem offsetCore_of_eq {a k y} (ha : coreBase k + y = a) (hk : k < 288) (hy : y < 0x1000) : offsetCluster a = some (k / 9) ∧ offsetCore a = some k ∧ a % 0x1000 = y := by
  have h0 : a = 0x2000000 + k / 9 / 8 * 0x1000000 + k / 9 % 8 * 0x100000 + (0x50000 + k % 9 * 0x1000 + y) := by
    rw [coreBase, clusterBase] at ha; omega
  have ⟨h1, h2⟩ := offsetCluster_of_eq (c := k / 9) h0 (by omega) (by omega)
  refine ⟨h1, ?_, by omega⟩
  unfold offsetCore; rw [h1]
  simp only [h2]
  have e : ∃ x, 0x50000 + k % 9 * 0x1000 + y = x ∧ 0x50000 ≤ x ∧ x < 0x59000 ∧ (x - 0x50000) / 0x1000 = k % 9 := ⟨_, rfl, by omega, by omega, by omega⟩
  obtain ⟨x, e1, e2, e3, e4⟩ := e
  rw [e1, if_pos ⟨e2, e3⟩, e4]; exact congrArg some (by omega)
/-- A core that serves a lane, or is free, takes register writes. -/
theorem writeRefused_core {s k y a} (ha : coreBase k + y = a) (hk : k < 288) (hy : y < 0x1000) (hl : servedLane s k < 8) : writeRefused a s = none := by
  have ⟨h1, h2, h3⟩ := offsetCore_of_eq ha hk hy
  simp [writeRefused, h1, h2, hl]
/-- So do the registers of a cluster. -/
theorem writeRefused_cluster {s c y a} (ha : clusterBase c + y = a) (hc : c < 32) (hy : 0x40000 ≤ y) (hy2 : y < 0x50000) : writeRefused a s = none := by
  have ⟨h1, h2⟩ := offsetCluster_of_eq (a := a) (c := c) (y := y) (by rw [clusterBase] at ha; exact ha.symm) hc (by omega)
  have h3 : offsetCore a = none := by
    unfold offsetCore; rw [h1]; simp only [h2]; rw [if_neg (by omega)]
  simp only [writeRefused, h1, h2, h3]; rw [if_neg (by omega)]
/-- No register outside the clusters is refused for its core. -/
theorem writeRefused_none {s off} (h : offsetCluster off = none) : writeRefused off s = none := by simp [writeRefused, h]
theorem sameData_setCore {s k x} (h : x.mem = (coreOf s k).mem) : SameData s (setCore s k x) := by
  refine ⟨rfl, fun j => ?_, fun j => rfl, fun j => rfl, rfl, rfl, rfl, rfl⟩
  rw [coreOf_setCore]; split
  · next e => rw [h, e]
  · rfl
theorem sameData_setCl {s k x} (h : x.plates = (clOf s k).plates) (h2 : x.sreg = (clOf s k).sreg) : SameData s (setCl s k x) := by
  refine ⟨rfl, fun j => rfl, fun j => ?_, fun j => ?_, rfl, rfl, rfl, rfl⟩ <;> rw [clOf_setCl] <;> split
  · next e => rw [h, e]
  · rfl
  · next e => rw [h2, e]
  · rfl
theorem sameData_mer {s : State} {m} : SameData s { s with mer := m } := ⟨rfl, fun _ => rfl, fun _ => rfl, fun _ => rfl, rfl, rfl, rfl, rfl⟩
theorem sameData_clearLinkErr {p s} : SameData s (clearLinkErr p s) := sameData_mer
theorem noLinkErrors_clearLinkErr {p s} : NoLinkErrors (clearLinkErr p s) p := by simp [NoLinkErrors, clearLinkErr, linkOf, setLink, Tab.get_put_same]
theorem linkOf_clearLinkErr {p a s} (h : p ≠ a) : linkOf (clearLinkErr a s) p = linkOf s p := by
  simp only [clearLinkErr, linkOf, setLink]; rw [Tab.get_put_other _ _ _ h]
/-- A write of a photonic die register reaches it. -/
theorem photOp_of_reaches {s d v y f} (h : HostReaches s) (hd : d = 5 ∨ d = 6) (hy : y < 0x100000) : photOp d y v f s = f s := by
  obtain ⟨a, ha⟩ : ∃ a, photBase d + y = a := ⟨_, rfl⟩
  have hn : offsetCluster a = none := by
    have h2 : windowDie a = some d := by
      unfold photBase at ha
      unfold windowDie
      rcases hd with hd | hd <;> subst hd
      · rw [if_neg (by omega), if_pos (by omega)]
      · rw [if_neg (by omega), if_neg (by omega), if_pos (by omega)]
    unfold offsetCluster; rw [h2]
    simp only; rw [if_neg (by omega)]
  unfold photOp; rw [if_pos hd, ha, window_of_reaches h (writeRefused_none hn), touch, hn]

end Sys2Proof.Machine
end

