-- ==== Sys2Proof/Laws/Tokens.lean ====
section
/-! SUPPORT. Tokens: what setting a token leaves. -/

namespace Sys2Proof.Machine

/-- What each step of a fold keeps, the fold keeps. -/
theorem foldl_keeps {α} {f : State → α → State} {P : State → Prop} (hf : ∀ s x, P s → P (f s x)) (l : List α) (s : State) (h : P s) : P (l.foldl f s) := by
  induction l generalizing s with
  | nil => exact h
  | cons a l ih => simp only [List.foldl]; exact ih _ (hf _ _ h)
theorem mer_foldl {α} {f : State → α → State} (hf : ∀ s x, (f s x).mer = s.mer) (l : List α) (s : State) : (l.foldl f s).mer = s.mer := by
  induction l generalizing s with
  | nil => rfl
  | cons a l ih => simp only [List.foldl]; rw [ih, hf]
structure TokFrame (s t : State) : Prop where
  mer : t.mer = s.mer
  hbm : t.hbm = s.hbm
  core : t.core = s.core
  cmds : t.cmds = s.cmds
  cl : ∀ j, (clOf t j).plates = (clOf s j).plates ∧ (clOf t j).sreg = (clOf s j).sreg
  q : ∀ j, (strmOf t j).queue = (strmOf s j).queue
theorem TokFrame.rfl {s} : TokFrame s s := ⟨Eq.refl _, Eq.refl _, Eq.refl _, Eq.refl _, fun _ => ⟨Eq.refl _, Eq.refl _⟩, fun _ => Eq.refl _⟩
theorem TokFrame.trans {a b c} (h : TokFrame a b) (g : TokFrame b c) : TokFrame a c := ⟨g.mer.trans h.mer, g.hbm.trans h.hbm, g.core.trans h.core, g.cmds.trans h.cmds, fun j => ⟨(g.cl j).1.trans (h.cl j).1, (g.cl j).2.trans (h.cl j).2⟩, fun j => (g.q j).trans (h.q j)⟩
theorem tokFrame_sendMsix (v s) : TokFrame s (sendMsix v s) := by
  simp only [sendMsix]; split
  · exact ⟨rfl, rfl, rfl, rfl, fun _ => ⟨rfl, rfl⟩, fun _ => rfl⟩
  · exact ⟨rfl, rfl, rfl, rfl, fun _ => ⟨rfl, rfl⟩, fun _ => rfl⟩
theorem tokFrame_fireWatch (w n s) : TokFrame s (fireWatch w n s) := by
  have h : ∀ x, TokFrame s (setWatch s n x) := fun x => ⟨rfl, rfl, rfl, rfl, fun _ => ⟨rfl, rfl⟩, fun _ => rfl⟩
  simp only [fireWatch]
  split
  · split
    · split
      · exact h _
      · exact (h _).trans (tokFrame_sendMsix _ _)
    · exact (h _).trans (tokFrame_sendMsix _ _)
  · exact TokFrame.rfl
/-- An entry of a mapped table. -/
theorem get_mapV_cases {α : Type} (d : α) (f : α → α) (t : Tab α) (i : Nat) : (t.mapV f).get d i = f (t.get d i) ∨ ((t.mapV f).get d i = d ∧ t.get d i = d) := by
  induction t with
  | nil => right; exact ⟨rfl, rfl⟩
  | cons p t ih =>
    obtain ⟨k, x⟩ := p
    simp only [Tab.mapV, List.map, Tab.get]
    split
    · left; rfl
    · exact ih
/-- Setting a token changes no data. -/
theorem tokFrame_setTokW (i t wt s) : TokFrame s (setTokW i t wt s) := by
  have h1 : ∀ s, TokFrame s (latchTok i t.st s) := by
    intro s
    refine ⟨rfl, rfl, rfl, rfl, fun j => ?_, fun j => ?_⟩
    · simp only [latchTok, clOf]
      rcases get_mapV_cases Cluster.reset (fun (c : Cluster) => if c.heldOn.contains i then { c with seen := c.seen ++ [(i, t.st)] } else c) s.cl j with h | ⟨h, h'⟩
      · rw [h]; split <;> exact ⟨rfl, rfl⟩
      · rw [h, h']; exact ⟨rfl, rfl⟩
    · simp only [latchTok, strmOf]
      rcases get_mapV_cases Stream.reset (fun (x : Stream) => if headWaits x i then { x with seen := x.seen ++ [(i, t.st)] } else x) s.strm j with h | ⟨h, h'⟩
      · rw [h]; split <;> rfl
      · rw [h, h']
  have h2 : ∀ s, TokFrame s (putTok s i t) := by
    intro s; unfold putTok; split
    · exact ⟨rfl, rfl, rfl, rfl, fun j => ⟨rfl, rfl⟩, fun j => rfl⟩
    · refine ⟨rfl, rfl, rfl, rfl, fun j => ?_, fun j => rfl⟩
      rw [clOf_setCl]; split
      · next e => subst e; exact ⟨rfl, rfl⟩
      · exact ⟨rfl, rfl⟩
  have h3 : ∀ s, TokFrame s (fireWatches i wt s) := by
    intro s; exact foldl_keeps (P := TokFrame s) (fun u x h => h.trans (tokFrame_fireWatch _ _ _)) _ _ TokFrame.rfl
  unfold setTokW
  refine TokFrame.trans ?_ ((h2 _).trans (h3 _))
  split
  · exact h1 _
  · exact TokFrame.rfl
theorem mer_setTok (i t h s) : (setTok i t h s).mer = s.mer := (tokFrame_setTokW _ _ _ _).mer
/-- A command that starts raises no epoch fence. -/
theorem fenced_startCmd {no st w wk s st'} : fenced (startCmd no st w wk (popCmd st' s)) = fenced s := by
  unfold fenced startCmd popCmd; split
  · show (setTok _ _ _ _).mer.rebl.isSome = _; rw [mer_setTok]; rfl
  · rfl
/-- An entry just put is found. -/
theorem find_put_same {α} (t : Tab α) (i : Nat) (v : α) : (t.put i v).find i = some v := by
  induction t with
  | nil => simp [Tab.put, Tab.find]
  | cons p t ih =>
    obtain ⟨k, x⟩ := p
    simp only [Tab.put]
    split
    · next e => subst e; simp [Tab.find]
    · split
      · simp [Tab.find]
      · next e1 e2 => simp only [Tab.find]; rw [if_neg (by omega)]; exact ih
theorem tok_fireWatch (w n s) : (fireWatch w n s).tok = s.tok := by
  have h : ∀ v s, (sendMsix v s).tok = s.tok := by
    intro v s; simp only [sendMsix]; split <;> rfl
  simp only [fireWatch]
  split
  · split
    · split
      · rfl
      · rw [h]; rfl
    · rw [h]; rfl
  · rfl
/-- A hub token that is set holds what was set. -/
theorem tokOf_setTokW (i t w s) (hi : isHubTok i = true) : tokOf (setTokW i t w s) i = t := by
  have h3 : ∀ u, (fireWatches i w u).tok = u.tok := by
    intro u; exact foldl_keeps (P := fun v => v.tok = u.tok) (fun v x h => (tok_fireWatch _ _ _).trans h) _ _ rfl
  unfold setTokW tokOf; rw [if_pos hi]; simp only [h3]
  simp [putTok, hi, Tab.get_put_same]

end Sys2Proof.Machine
end

