-- ==== Sys2Proof/Laws/Frames.lean ====
section
/-! SUPPORT. Frames: what the operations that only read, record, queue or answer leave as it was. -/

namespace Sys2Proof.Machine

/-! ### Registers of a compute die -/

/-- The registers of a compute die beyond its clusters belong to no cluster. -/
theorem offsetCluster_die {d y a : Nat} (ha : 0x2000000 + d * 0x1000000 + y = a) (hd : d < 4) (h1 : 0x800000 ≤ y) (h2 : y < 0x1000000) :
    offsetCluster a = none := by
  have hw : windowDie a = some d := by
    obtain ⟨q, e1, e2⟩ : ∃ q, (a - 0x2000000) / 0x1000000 = q ∧ q = d := ⟨_, rfl, by omega⟩
    unfold windowDie
    rw [if_neg (by omega), if_neg (by omega), if_neg (by omega), if_neg (by omega), if_pos (by omega), e1, e2]
  obtain ⟨x, e1, e2⟩ : ∃ x, (a - 0x2000000) % 0x1000000 = x ∧ 0x800000 ≤ x := ⟨_, rfl, by omega⟩
  unfold offsetCluster
  rw [hw]
  simp only [e1]
  rw [if_neg (by omega)]

/-- A write of such a register reaches it, and ungates no cluster. -/
theorem window_die {s off size v f} {d y : Nat} (h : HostReaches s) (ha : 0x2000000 + d * 0x1000000 + y = off) (hd : d < 4)
    (h1 : 0x800000 ≤ y) (h2 : y < 0x1000000) : window off size v f s = f s := by
  have hn := offsetCluster_die ha hd h1 h2
  rw [window_of_reaches h (writeRefused_none hn), touch, hn]

/-- What holds of both results of a test holds of the result. -/
theorem ite_of {α : Type} {P : α → Prop} {c : Prop} [Decidable c] {a b : α} (ha : P a) (hb : P b) : P (if c then a else b) := by
  split
  · exact ha
  · exact hb

/-! ### Reads of HBM -/

/-- A read of HBM changes the records, the counters of the stacks, the flags of sectors whose next read fails and, by the
errors it meets, HBM itself. -/
def ReadsHbm (s t : State) : Prop :=
  ∃ recs stack hbm ck flag, t = { s with recs := recs, stack := stack, hbm := hbm, hbmCk := ck, hbmFlag := flag }

theorem ReadsHbm.refl (s : State) : ReadsHbm s s := ⟨_, _, _, _, _, rfl⟩

theorem ReadsHbm.trans {a b c : State} (h : ReadsHbm a b) (g : ReadsHbm b c) : ReadsHbm a c := by
  obtain ⟨_, _, _, _, _, rfl⟩ := h
  obtain ⟨_, _, _, _, _, rfl⟩ := g
  exact ⟨_, _, _, _, _, rfl⟩

theorem readsHbm_hitHbm (hs : List Hit) (s : State) : ReadsHbm s (hitHbm hs s) := by
  refine foldl_keeps (P := ReadsHbm s) (fun u h g => g.trans ?_) hs s (.refl s)
  unfold hit1
  split
  · exact ⟨_, _, _, _, _, rfl⟩
  · extract_lets v
    have hv : ReadsHbm u v := ite_of ⟨_, _, _, _, _, rfl⟩ (.refl u)
    clear_value v
    exact hv.trans (ite_of ⟨_, _, _, _, _, rfl⟩ (ite_of ⟨_, _, _, _, _, rfl⟩ (.refl v)))

theorem readsHbm_failSector (n cls v reader tile s) : ReadsHbm s (failSector n cls v reader tile s) :=
  ⟨_, _, _, _, _, rfl⟩

theorem readsHbm_readSectors (reader tile l s) : ReadsHbm s (readSectors reader tile l s).2 := by
  induction l generalizing s with
  | nil => exact .refl s
  | cons p l ih =>
    simp only [readSectors]
    split
    · exact ih s
    · exact (readsHbm_failSector _ _ _ _ _ s).trans (ih _)

theorem readsHbm_readUntracked (reader l s) : ReadsHbm s (readUntracked reader l s).2 := readsHbm_readSectors _ _ _ s

theorem readsHbm_readStruct (hs addr len s) : ReadsHbm s (readStruct hs addr len s).2 :=
  (readsHbm_hitHbm hs s).trans (readsHbm_readUntracked _ _ _)

theorem readsHbm_readList (hs addr count s) : ReadsHbm s (readList hs addr count s).2 := by
  unfold readList
  split
  · exact .refl s
  · exact readsHbm_readStruct _ _ _ s

/-! ### Writes of HBM -/

/-- What a write of a sector does to HBM: it is written, but for a write that is lost (R296). -/
theorem writeSector_hbm {s : State} {n : Nat} {data : List Byte} {v tag} : (writeSector n data v tag s).hbm
    = if s.hbmLost.contains n then s.hbm else s.hbm.writes (64 * n) data := by
  unfold writeSector
  split <;> rfl

theorem writeSector_hbmCk {s : State} {n : Nat} {data : List Byte} {v tag} : (writeSector n data v tag s).hbmCk
    = if s.hbmLost.contains n then s.hbmCk else s.hbmCk.put n (checkWord n data v tag) := by
  unfold writeSector
  split <;> rfl

/-- A sector that is written holds the data. -/
theorem sectorData_writeSector {s : State} {n : Nat} {data : List Byte} (v tag) (hw : s.hbm.wf = true) (h : data.length = 64)
    (hl : n ∉ s.hbmLost) : sectorData (writeSector n data v tag s) n = data := by
  have e : s.hbmLost.contains n = false := by simpa using hl
  simp only [sectorData, writeSector_hbm, e, Mem.bytes]
  apply List.ext_getElem
  · simp [h]
  · intro i h1 h2
    simp only [List.getElem_map, List.getElem_range, Bool.false_eq_true, if_false]
    rw [Mem.read_writes hw, if_pos (by have : i < 64 := by simpa using h1
                                       omega)]
    simp [h2]

/-- A sector that is written holds the check word of its data (R291). -/
theorem sectorCk_writeSector {s : State} {n : Nat} (data v tag) (hl : n ∉ s.hbmLost) :
    sectorCk (writeSector n data v tag s) n = checkWord n data v tag := by
  have e : s.hbmLost.contains n = false := by simpa using hl
  simp only [sectorCk, writeSector_hbmCk, e, Bool.false_eq_true, if_false, Tab.get_put_same]

/-! ### Links and cells -/

@[simp] theorem linkOf_setLink_same (s : State) (p : Nat) (x : Link) : linkOf (setLink s p x) p = x := Tab.get_put_same _ _ _ _

theorem linkOf_setLink_other (s : State) {p q : Nat} (x : Link) (h : q ≠ p) : linkOf (setLink s p x) q = linkOf s q :=
  Tab.get_put_other _ _ _ h

/-- A cell that is delivered reaches what receives it. -/
theorem front_of_delivered {s p c f} (h : Delivered s p c) : front p c f s = f s := by
  unfold front
  rw [if_neg (by simp [h.rx]), if_neg (by simp [h.plane]), if_neg (by simp [h.dst]), if_neg]
  intro hh
  simp only [Bool.and_eq_true, decide_eq_true_eq, Bool.not_eq_true', ne_eq] at hh
  have := h.permit hh.1.1 hh.1.2
  simp_all

/-- A CONTROL cell that is delivered acts. -/
theorem controlIn_of_delivered {s p c f sub} (h : ControlCell s p c sub) : controlIn p sub c f s = f s := by
  unfold controlIn
  rw [if_pos ⟨h.typ, h.sub⟩, front_of_delivered h.rx]

/-- An engine line that is delivered is acknowledged, entered in the window, and acts. -/
theorem engineIn_of_delivered {s p c f op kind x} (h : EngineLine s p c op kind x) :
    engineIn p op kind c f s = fabEnd (f x (noteSeq c (ackCell c s))) := by
  unfold engineIn dataFront dataTake takeLine
  rw [if_pos ⟨h.typ, h.off, h.one, h.op⟩, front_of_delivered h.rx]
  have h1 : ((x.seen.get [] c.src).contains c.seq) = false := by simpa using h.fresh.new
  simp only [h.fresh.ctx, h1, h.fresh.loud, h.fresh.epoch, h.kind]
  simp

/-- Cells join the end of the send queue, and nothing else changes. -/
def Sends (s t : State) : Prop := ∃ l, t = { s with mer := { s.mer with tx := s.mer.tx ++ l } }

theorem Sends.refl (s : State) : Sends s s := ⟨[], by simp⟩

theorem Sends.trans {a b c : State} (h : Sends a b) (g : Sends b c) : Sends a c := by
  obtain ⟨l, rfl⟩ := h
  obtain ⟨m, rfl⟩ := g
  exact ⟨l ++ m, by simp⟩

theorem sends_sendControl (dst sub body s) : Sends s (sendControl dst sub body s) := ⟨[_], rfl⟩

/-- What a fold of sends leaves: each of its cells, in order, at the end of the queue. -/
theorem foldl_sends {α : Type} {s : State} {f : State → α → State} {g : α → List TxCell}
    (hf : ∀ u x, Sends s u → f u x = { u with mer := { u.mer with tx := u.mer.tx ++ g x } }) (l : List α) :
    l.foldl f s = { s with mer := { s.mer with tx := s.mer.tx ++ (l.map g).flatten } } := by
  have h : ∀ (l : List α) (u : State), Sends s u → l.foldl f u = { u with mer := { u.mer with tx := u.mer.tx ++ (l.map g).flatten } } := by
    intro l
    induction l with
    | nil => intro u _; simp
    | cons a l ih =>
      intro u hu
      simp only [List.foldl, List.map, List.flatten_cons]
      rw [ih _ (hu.trans (by rw [hf u a hu]; exact ⟨_, rfl⟩)), hf u a hu]
      simp
  exact h l s (.refl s)

/-- A record changes the records alone. -/
theorem planeRecs_eq (old new s) : ∃ r, planeRecs old new s = { s with recs := r } := by
  have h1 : ∀ p c o q (u : State), (∃ r, u = { s with recs := r }) → ∃ r, linkRec p c o q u = { s with recs := r } := by
    rintro p c o q _ ⟨r, rfl⟩
    exact ⟨_, rfl⟩
  refine foldl_keeps (P := fun u => ∃ r, u = { s with recs := r }) (fun u x h => ?_) _ s ⟨_, rfl⟩
  simp only
  repeat' split
  all_goals first
    | exact h
    | exact h1 _ _ _ _ _ h
    | exact h1 _ _ _ _ _ (h1 _ _ _ _ _ h)

/-- What the mask of an ADDR_SET changes: the planes out, the plane that calibrates and its link, and the records. -/
def AppliesMask (s t : State) : Prop := ∃ recs link cal wait due, t = { s with recs := recs, mer := { s.mer with
    addrOut := s.mer.addrNext.getD s.mer.addrOut, addrNext := none, link := link, calPlane := cal, calWait := wait
    setDue := due } }

theorem appliesMask_applyAddrSet (s) : AppliesMask s (applyAddrSet s) := by
  unfold applyAddrSet
  split
  · next m hn =>
    obtain ⟨r, hr⟩ := planeRecs_eq s.mer.addrOut m { s with mer := { s.mer with addrOut := m, addrNext := none } }
    extract_lets -merge -underBinder +onlyGivenNames x1 x0 x2
    have h2 : AppliesMask s x2 := ⟨r, s.mer.link, s.mer.calPlane, s.mer.calWait, s.mer.setDue, by rw [hn]; exact hr⟩
    clear_value x2
    obtain ⟨r, l, c, w, d, rfl⟩ := h2
    extract_lets -merge -underBinder +onlyGivenNames x3
    clear_value x3
    exact ite_of (ite_of (ite_of ⟨_, _, _, _, _, rfl⟩ ⟨_, _, _, _, _, rfl⟩) (ite_of ⟨_, _, _, _, _, rfl⟩ ⟨_, _, _, _, _, rfl⟩))
      ⟨_, _, _, _, _, rfl⟩
  · next hn =>
    have h2 : ∀ m : Mer, m.addrNext = none → m = { m with addrOut := none.getD m.addrOut, addrNext := none } := by
      rintro ⟨⟩ h
      simp_all
    exact ⟨_, _, _, _, _, congrArg (fun m => ({ s with mer := m } : State)) (by rw [hn]; exact h2 s.mer hn)⟩

end Sys2Proof.Machine
end

