-- ==== Sys2Proof/Laws/Issue.lean ====
section
/-! SUPPORT. Issue: the checks of a command and the first lemmas about programs. -/

namespace Sys2Proof.Machine

/-- A command whose checks pass is not skipped. -/
theorem cmdSkip_of_passes {sp st op s} (h : Passes s st op) (ho : cmdOp (headCmd s st) = op) (hb : sp.badOperand (headCmd s st) s = false)
    (hj : sp.needJob = true → s.job.opened = true) (ha : sp.absent (headCmd s st) s = false) (hw : sp.own (headCmd s st) s = none)
    (hr : sp.range (headCmd s st) s = false) : cmdSkip sp st (headCmd s st) s = none := by
  have hf := h.fields
  have hd : (!(decide (cmdDone (headCmd s st) = 0xFFFF) || isHubTok (cmdDone (headCmd s st))) || !((cmdWaits (headCmd s st)).all waitOk)) = false := by
    have e1 : (cmdWaits (headCmd s st)).all waitOk = true := by
      rw [List.all_eq_true]; intro x hx
      rcases h.waits x hx with e | ⟨e, _⟩
      · simp [waitOk, e]
      · simp only [waitOk, Bool.or_assoc, e]; simp
    rw [e1]; rcases h.done with e | e <;> simp [e]
  have w1 : ∀ p : Tok → Bool, p .done = false → waitWith (headCmd s st) (strmOf s st).seen p s = none := by
    intro p hp; unfold waitWith; rw [List.find?_eq_none]; intro x hx
    rcases h.waits x hx with e | ⟨_, e⟩ <;> simp [e, hp]
  have hj' : (sp.needJob && !s.job.opened) = false := by
    cases hn : sp.needJob
    · rfl
    · simp [hj hn]
  unfold cmdSkip
  rw [ho] at *
  simp only [hf, hb, hd, hj', ha, hw, hr]
  rw [w1 _ (by decide), w1 _ (by decide)]
  simp
/-- Then its work begins. -/
theorem dispatch_run {op sp run st late s} (hp : pickStream s late = some st) (ho : cmdOp (headCmd s st) = op) (hk : cmdSkip sp st (headCmd s st) s = none) :
    dispatch op sp run st late s = run s.seqNo (headCmd s st) (popCmd st s) := by
  simp [dispatch, hp, ho, hk]
/-- A command that a check fails is skipped. -/
theorem dispatch_skip {op sp run st late s k} (hp : pickStream s late = some st) (ho : cmdOp (headCmd s st) = op) (hk : cmdSkip sp st (headCmd s st) s = some k) :
    dispatch op sp run st late s = skipCommand st (headCmd s st) k (popCmd st s) := by
  simp [dispatch, hp, ho, hk]
/-- A set reserved bit is BAD_OPERAND. -/
theorem cmdSkip_of_bad {sp st op s} (ho : cmdOp (headCmd s st) = op) (hb : onlyFields (headCmd s st) (cmdCommon ++ cmdFields op) = false) :
    cmdSkip sp st (headCmd s st) s = some { code := 0x02 } := by
  unfold cmdSkip; rw [ho]; simp only [hb]; simp
/-- An instruction that the sequencer is at may issue. -/
theorem At.atIns {s cl w cls op} (h : At s cl w cls op) : atIns s cl cls op = true := by
  obtain ⟨h1,h2,h3,h4,h5⟩ := h
  simp [Machine.atIns, h1, h2, h3, h4, h5]
theorem seqIns_of_at {cls op act cl s w} (h : At s cl w cls op) : seqIns cls op act cl false s = act cl w s := by simp [seqIns, h.atIns, h.word]
/-- A scalar register after a write; s0 reads zero. -/
theorem sreg_setReg (c : Cluster) (r m : Nat) (v : W64) : sreg (setReg c r v) m = if m = 0 then 0 else if r = m then v else sreg c m := by
  unfold sreg setReg
  by_cases hm : m = 0 <;> by_cases hr : r = 0 <;> simp [hm, hr]
  · intro h; omega
  · rw [Tab.get_put]
    by_cases h : r = m <;> simp [h]; intro h'; exact absurd h'.symm h
theorem pc_setReg (c : Cluster) (r v) : (setReg c r v).pc = c.pc := by unfold setReg; split <;> rfl
theorem loops_setReg (c : Cluster) (r v) : (setReg c r v).loops = c.loops := by unfold setReg; split <;> rfl
theorem plates_setReg (c : Cluster) (r v) : (setReg c r v).plates = c.plates := by unfold setReg; split <;> rfl
theorem imem_setReg (c : Cluster) (r v) : (setReg c r v).imem = c.imem := by unfold setReg; split <;> rfl
theorem tok_setReg (c : Cluster) (r v) : (setReg c r v).tok = c.tok := by unfold setReg; split <;> rfl
/-- Going on below the end of page 63. -/
theorem goOn_of_inRange {cl r s} (h : r.1 < 0x4000) : goOn cl r s = setCl s cl { clOf s cl with pc := r.1, loops := r.2, seq := 1, page := some (r.1 / 256), heldOn := [], seen := [], dbg := if (clOf s cl).dbg = 2 then 1 else (clOf s cl).dbg } := by
  simp [goOn, h]
theorem leBytes_length (n v : Nat) : (leBytes n v).length = n := by
  induction n generalizing v with
  | zero => rfl
  | succ n ih => simp [leBytes, ih]
/-- A byte of a little-endian number. -/
theorem leBytes_getD (n v i : Nat) (h : i < n) : (leBytes n v).getD i 0 = BitVec.ofNat 8 (v / 256 ^ i) := by
  induction n generalizing v i with
  | zero => omega
  | succ n ih =>
    cases i with
    | zero => simp [leBytes]
    | succ i => simp only [leBytes, List.getD_cons_succ]; rw [ih _ _ (by omega), Nat.pow_succ, Nat.div_div_eq_div_mul, Nat.mul_comm]
theorem queueOf_setQueue (k : Core) (p p' : Nat) (l) (h : p < 4) (h' : p' < 4) : queueOf (setQueue k p l) p' = if p' = p then l else queueOf k p' := by
  rcases p with _|_|_|_|p <;> first | omega | (rcases p' with _|_|_|_|p' <;> first | omega | simp [queueOf, setQueue])

end Sys2Proof.Machine
end

