-- ==== Sys2Proof/Laws/Units.lean ====
section
/-! SUPPORT. Units: the operations on one cluster or one core keep its memories canonical. -/

namespace Sys2Proof.Machine

theorem wf_foldl {α : Type} {f : Mem → α → Mem} {l : List α} {m : Mem} (hf : ∀ m x, m.wf = true → (f m x).wf = true)
    (h : m.wf = true) : (l.foldl f m).wf = true := by
  induction l generalizing m with
  | nil => exact h
  | cons x l ih => exact ih (hf m x h)

theorem cluOk_foldl {α : Type} {f : Cluster → α → Cluster} {l : List α} {c : Cluster} (hf : ∀ c x, CluOk c → CluOk (f c x))
    (h : CluOk c) : CluOk (l.foldl f c) := by
  induction l generalizing c with
  | nil => exact h
  | cons x l ih => exact ih (hf c x h)

theorem spadOk_foldl {α : Type} {f : Core → α → Core} {l : List α} {k : Core}
    (hf : ∀ k x, k.mem.wf = true → (f k x).mem.wf = true) (h : k.mem.wf = true) : (l.foldl f k).mem.wf = true := by
  induction l generalizing k with
  | nil => exact h
  | cons x l ih => exact ih (hf k x h)

theorem cluOk_ite {p : Prop} [Decidable p] {a b : Cluster} (ha : CluOk a) (hb : CluOk b) : CluOk (if p then a else b) := by
  split <;> assumption

theorem spadOk_ite {p : Prop} [Decidable p] {a b : Core} (ha : a.mem.wf = true) (hb : b.mem.wf = true) :
    (if p then a else b).mem.wf = true := by split <;> assumption

theorem strmOk_ite {p : Prop} [Decidable p] {a b : Stream} (ha : StrmOk a) (hb : StrmOk b) : StrmOk (if p then a else b) := by split <;> assumption

/-! ### Loop levels: a transfer of control adds none -/

theorem levelsWith_le {pc n : Nat} {l : List LoopLvl} (h : l.length ≤ n) : (levelsWith pc l).length ≤ n :=
  Nat.le_trans (List.length_filter_le _ _) h

theorem endIns_le {pc n : Nat} {l : List LoopLvl} (h : l.length ≤ n) : (endIns pc l).2.length ≤ n := by
  induction l with
  | nil => exact h
  | cons x l ih =>
    unfold endIns
    split
    · split
      · exact h
      · exact ih (Nat.le_of_succ_le h)
    · exact h

theorem jumpTo_le {t n : Nat} {l : List LoopLvl} (h : l.length ≤ n) : (jumpTo t l).2.length ≤ n := levelsWith_le h

theorem resumeAt_le {x n : Nat} {l : List LoopLvl} (h : l.length ≤ n) : (resumeAt x l).2.length ≤ n := by
  unfold resumeAt
  split
  · exact endIns_le h
  · split
    · exact levelsWith_le h
    · exact endIns_le h

section
variable {c : Cluster} {k : Core}

theorem setReg_ok {r : Nat} {v : W64} (h : CluOk c) : CluOk (setReg c r v) := by
  unfold setReg; split <;> exact ⟨h.imem, h.plates, h.pc, h.loops⟩

theorem chainAfter_ok {w : W128} (h : CluOk c) : CluOk (chainAfter c w) := by
  unfold chainAfter; dsimp only; split <;> exact ⟨h.imem, h.plates, h.pc, h.loops⟩

theorem upsetPlates_ok {u : Option Flt} (h : CluOk c) : CluOk (upsetPlates c u) := by
  unfold upsetPlates; split
  · exact ⟨h.imem, Mem.wf_write _ _ h.plates, h.pc, h.loops⟩
  · exact h

theorem plateWrite_ok {line tag : Nat} {upd : List (Nat × Byte)} (h : CluOk c) : CluOk (plateWrite c line tag upd) :=
  ⟨h.imem, wf_foldl (fun _ _ hm => Mem.wf_write _ _ hm) h.plates, h.pc, h.loops⟩

theorem plateLine_ok {line tag : Nat} {bs : List Byte} (h : CluOk c) : CluOk (plateLine c line tag bs) := plateWrite_ok h

theorem quitCluster_ok (h : CluOk c) : CluOk (quitCluster c) := ⟨h.imem, h.plates, Nat.zero_lt_succ _, Nat.zero_le _⟩

theorem retireIn_ok {n : Nat} (h : CluOk c) : CluOk (retireIn c n) := by
  unfold retireIn; dsimp only
  repeat' split
  all_goals exact ⟨h.imem, h.plates, h.pc, h.loops⟩

theorem listedCluster_ok {f : Flash} {cl : Nat} (h : CluOk c) : CluOk (listedCluster f cl c) := by
  unfold listedCluster
  extract_lets cores d failed d1 n d2 d3
  have h0 : CluOk d := cluOk_foldl (fun _ _ hc => retireIn_ok hc) h
  have h1 : CluOk d1 := ⟨h0.imem, h0.plates, h0.pc, h0.loops⟩
  clear_value d1
  have h2 : CluOk d2 := by unfold d2; split <;> exact ⟨h1.imem, h1.plates, h1.pc, h1.loops⟩
  clear_value d2
  have h3 : CluOk d3 := by unfold d3; split <;> exact ⟨h2.imem, h2.plates, h2.pc, h2.loops⟩
  clear_value d3
  split <;> exact ⟨h3.imem, h3.plates, h3.pc, h3.loops⟩

theorem updWrite_ok {s : State} {u : UIns} {g : Nat} {outs : List UpdOut} (h : CluOk c) : CluOk (updWrite s u g outs c) :=
  cluOk_foldl (fun _ _ hc => plateWrite_ok hc) h

theorem countGroup_ok {outs : List UpdOut} (h : CluOk c) : CluOk (countGroup outs c) := ⟨h.imem, h.plates, h.pc, h.loops⟩

theorem setQueue_mem {port : Nat} {l : List QIns} : (setQueue k port l).mem = k.mem := by
  unfold setQueue; split <;> rfl

theorem setRuns_mem {port : Nat} {l : List Run} : (setRuns k port l).mem = k.mem := by
  unfold setRuns; split <;> rfl

theorem takeQ_mem {port : Nat} {q : QIns} : (takeQ k port q).mem = k.mem := by
  unfold takeQ; split
  · rfl
  · exact setQueue_mem

theorem upsetSpad_ok {u : Option Flt} (h : k.mem.wf = true) : (upsetSpad k u).mem.wf = true := by
  unfold upsetSpad; split
  · exact Mem.wf_write _ _ h
  · exact h

theorem spadWrite_ok {l : LineWr} (h : k.mem.wf = true) : (spadWrite k l).mem.wf = true :=
  wf_foldl (fun _ _ hm => Mem.wf_write _ _ hm) h

theorem spadWrites_ok {ls : List LineWr} (h : k.mem.wf = true) : (spadWrites k ls).mem.wf = true :=
  spadOk_foldl (fun _ _ hk => spadWrite_ok hk) h

theorem startSpad_ok {s : State} {q : QIns} {i u : Nat} (h : k.mem.wf = true) : (startSpad s k q i u).mem.wf = true := by
  unfold startSpad
  extract_lets after
  refine spadOk_ite (spadWrites_ok h) ?_
  split
  · exact spadWrites_ok h
  · exact spadWrites_ok h

theorem enterWindow_ok {s : State} {port : Nat} {q : QIns} {ci : List ChainIns} {good got : Res} {proven : Bool}
    (h : k.mem.wf = true) : (enterWindow s k port q ci good got proven).mem.wf = true := spadWrites_ok (k := k) h

theorem addSat_mem {kd n : Nat} : (addSat k kd n).mem = k.mem := by unfold addSat; split <;> rfl

theorem restoreImage_ok {live : List Nat} {im : Image} (h : k.mem.wf = true) : (restoreImage live k im).mem.wf = true :=
  Mem.wf_writes _ _ h

theorem undoEntries_ok {live : List Nat} {es : List Entry} (h : k.mem.wf = true) : (undoEntries live k es).mem.wf = true :=
  spadOk_foldl (fun _ _ hk => spadOk_foldl (fun _ _ hk => restoreImage_ok hk) hk) h

theorem clearMarks_ok {live : List Nat} (h : k.mem.wf = true) : (clearMarks live k).mem.wf = true := h

theorem respread_ok (h : k.mem.wf = true) : (respread k).mem.wf = true := h

theorem requeue_mem {l : List QIns} : (requeue k l).mem = k.mem := by
  simp only [requeue, List.foldl, setQueue_mem]

theorem setQueue_ok {port : Nat} {l : List QIns} (h : k.mem.wf = true) : (setQueue k port l).mem.wf = true := by rw [setQueue_mem]; exact h

theorem setRuns_ok {port : Nat} {l : List Run} (h : k.mem.wf = true) : (setRuns k port l).mem.wf = true := by rw [setRuns_mem]; exact h

theorem takeQ_ok {port : Nat} {q : QIns} (h : k.mem.wf = true) : (takeQ k port q).mem.wf = true := by rw [takeQ_mem]; exact h

theorem mapRun_ok {iid : Nat} {f : Run → Run} (h : k.mem.wf = true) : (mapRun k iid f).mem.wf = true := h

theorem dropRun_ok {iid : Nat} (h : k.mem.wf = true) : (dropRun k iid).mem.wf = true := h

theorem addSat_ok {kd n : Nat} (h : k.mem.wf = true) : (addSat k kd n).mem.wf = true := by rw [addSat_mem]; exact h

theorem requeue_ok {l : List QIns} (h : k.mem.wf = true) : (requeue k l).mem.wf = true := by rw [requeue_mem]; exact h

theorem quitCore_ok (h : k.mem.wf = true) : (quitCore k).mem.wf = true := undoEntries_ok (k := k) h

end

end Sys2Proof.Machine
end

