-- ==== Sys2Proof/Laws/Keeps.lean ====
section
/-! SUPPORT. Keeps: the invariant of the machine and what no command undoes, carried through the operations of a
command. One lemma a function, in the Laws files named after the model's files: what the function keeps. -/

namespace Sys2Proof.Machine

/-- In the course of a command that began in state `r`: the queue is as it was, every message sent is still among the
messages, the fuses and the retirement lists but that of movers have lost nothing, and the invariant holds if it held. -/
structure Keeps (r s : State) : Prop where
  queue : s.pending = r.pending
  sent : ∃ new, s.out = new ++ r.out
  fuses : FusesKept r.encl s.encl
  lists : ListsKept r.flash s.flash
  inv : Inv r → Inv s

theorem Keeps.start (s : State) : Keeps s s :=
  ⟨rfl, ⟨[], rfl⟩, ⟨id, Nat.le_refl _, fun _ h => h⟩,
    ⟨List.prefix_refl _, List.prefix_refl _, List.prefix_refl _, List.prefix_refl _, List.prefix_refl _⟩, id⟩

theorem Keeps.kept {s t : State} (h : Keeps s t) : Kept s t := ⟨h.queue, h.sent, h.fuses, h.lists⟩

theorem ListsKept.same {f g : Flash} {bytes movers widths} (h : ListsKept f g) :
    ListsKept f ⟨bytes, g.cores, g.plates, g.upds, movers, widths, g.rails, g.sectors⟩ :=
  ⟨h.cores, h.plates, h.upds, h.rails, h.sectors⟩

theorem ListsKept.cores_add {f g : Flash} {bytes widths l} (h : ListsKept f g) :
    ListsKept f ⟨bytes, g.cores ++ l, g.plates, g.upds, g.movers, widths, g.rails, g.sectors⟩ :=
  ⟨h.cores.trans (List.prefix_append _ _), h.plates, h.upds, h.rails, h.sectors⟩

theorem ListsKept.plates_add {f g : Flash} {bytes widths l} (h : ListsKept f g) :
    ListsKept f ⟨bytes, g.cores, g.plates ++ l, g.upds, g.movers, widths, g.rails, g.sectors⟩ :=
  ⟨h.cores, h.plates.trans (List.prefix_append _ _), h.upds, h.rails, h.sectors⟩

theorem ListsKept.upds_add {f g : Flash} {bytes widths l} (h : ListsKept f g) :
    ListsKept f ⟨bytes, g.cores, g.plates, g.upds ++ l, g.movers, widths, g.rails, g.sectors⟩ :=
  ⟨h.cores, h.plates, h.upds.trans (List.prefix_append _ _), h.rails, h.sectors⟩

theorem ListsKept.rails_add {f g : Flash} {bytes widths l} (h : ListsKept f g) :
    ListsKept f ⟨bytes, g.cores, g.plates, g.upds, g.movers, widths, g.rails ++ l, g.sectors⟩ :=
  ⟨h.cores, h.plates, h.upds, h.rails.trans (List.prefix_append _ _), h.sectors⟩

theorem ListsKept.sectors_add {f g : Flash} {bytes widths l} (h : ListsKept f g) :
    ListsKept f ⟨bytes, g.cores, g.plates, g.upds, g.movers, widths, g.rails, g.sectors ++ l⟩ :=
  ⟨h.cores, h.plates, h.upds, h.rails, h.sectors.trans (List.prefix_append _ _)⟩

theorem prefix_add_if {α : Type} {p : Prop} [Decidable p] {l m : List α} : l <+: (if p then l else l ++ m) := by
  split
  · exact List.prefix_refl _
  · exact List.prefix_append _ _

theorem ListsKept.plates_new {f g : Flash} {bytes movers widths l} {p : Prop} [Decidable p] (h : ListsKept f g) :
    ListsKept f ⟨bytes, g.cores, if p then g.plates else g.plates ++ l, g.upds, movers, widths, g.rails, g.sectors⟩ :=
  ⟨h.cores, h.plates.trans prefix_add_if, h.upds, h.rails, h.sectors⟩

section
variable {r s : State}

/-- An update of any fields but the queue, the messages, the memories, the records, the fuses and the lists. -/
theorem keeps_frame {free aoCount seqNo insNo lastStream evr pci job groups recipe tok cmds hreq die stack hbmCk
    xferVtag xferCheck xferStag bar2Base xferPoisoned xferDiscarded hbmFlag hbmLost bar2Held hbmHeld stp pwr mer d2d boot mgt} (h :
    Keeps r s) :
    Keeps r ⟨s.pending, free, s.out, aoCount, seqNo, insNo, lastStream, s.recs, evr, pci, job, groups, recipe, tok,
      cmds, hreq, s.strm, s.cl, s.core, die, stack, s.hbm, hbmCk, xferVtag, xferCheck, xferStag, bar2Base,
      xferPoisoned, xferDiscarded, hbmFlag, hbmLost, bar2Held, hbmHeld, stp, pwr, mer, s.flash, d2d, boot, s.encl, mgt⟩ :=
  ⟨h.queue, h.sent, h.fuses, h.lists, fun hc => ⟨(h.inv hc).hbm, (h.inv hc).flash, (h.inv hc).strm, (h.inv hc).clu, (h.inv hc).spad, (h.inv hc).log⟩⟩

/-- The same with the boot flash updated. -/
theorem keeps_flash {free aoCount seqNo insNo lastStream evr pci job groups recipe tok cmds hreq die stack hbmCk
    xferVtag xferCheck xferStag bar2Base xferPoisoned xferDiscarded hbmFlag hbmLost bar2Held hbmHeld stp pwr mer flash d2d boot mgt}
    (h : Keeps r s) (e : Inv r → flash.bytes.wf = true) (l : ListsKept r.flash flash) :
    Keeps r ⟨s.pending, free, s.out, aoCount, seqNo, insNo, lastStream, s.recs, evr, pci, job, groups, recipe, tok,
      cmds, hreq, s.strm, s.cl, s.core, die, stack, s.hbm, hbmCk, xferVtag, xferCheck, xferStag, bar2Base,
      xferPoisoned, xferDiscarded, hbmFlag, hbmLost, bar2Held, hbmHeld, stp, pwr, mer, flash, d2d, boot, s.encl, mgt⟩ :=
  ⟨h.queue, h.sent, h.fuses, l, fun hc => ⟨(h.inv hc).hbm, e hc, (h.inv hc).strm, (h.inv hc).clu, (h.inv hc).spad, (h.inv hc).log⟩⟩

/-- The same with the records updated. -/
theorem keeps_recs {free aoCount seqNo insNo lastStream recs evr pci job groups recipe tok cmds hreq die stack hbmCk
    xferVtag xferCheck xferStag bar2Base xferPoisoned xferDiscarded hbmFlag hbmLost bar2Held hbmHeld stp pwr mer d2d boot mgt} (h :
    Keeps r s) (e : Inv r → recs.log.length ≤ 4096) :
    Keeps r ⟨s.pending, free, s.out, aoCount, seqNo, insNo, lastStream, recs, evr, pci, job, groups, recipe, tok,
      cmds, hreq, s.strm, s.cl, s.core, die, stack, s.hbm, hbmCk, xferVtag, xferCheck, xferStag, bar2Base,
      xferPoisoned, xferDiscarded, hbmFlag, hbmLost, bar2Held, hbmHeld, stp, pwr, mer, s.flash, d2d, boot, s.encl, mgt⟩ :=
  ⟨h.queue, h.sent, h.fuses, h.lists, fun hc => ⟨(h.inv hc).hbm, (h.inv hc).flash, (h.inv hc).strm, (h.inv hc).clu, (h.inv hc).spad, e hc⟩⟩

/-- The same with the enclave updated. -/
theorem keeps_encl {free aoCount seqNo insNo lastStream evr pci job groups recipe tok cmds hreq die stack hbmCk
    xferVtag xferCheck xferStag bar2Base xferPoisoned xferDiscarded hbmFlag hbmLost bar2Held hbmHeld stp pwr mer d2d boot encl mgt} (h
    : Keeps r s) (e : FusesKept r.encl encl) :
    Keeps r ⟨s.pending, free, s.out, aoCount, seqNo, insNo, lastStream, s.recs, evr, pci, job, groups, recipe, tok,
      cmds, hreq, s.strm, s.cl, s.core, die, stack, s.hbm, hbmCk, xferVtag, xferCheck, xferStag, bar2Base,
      xferPoisoned, xferDiscarded, hbmFlag, hbmLost, bar2Held, hbmHeld, stp, pwr, mer, s.flash, d2d, boot, encl, mgt⟩ :=
  ⟨h.queue, h.sent, e, h.lists, fun hc => ⟨(h.inv hc).hbm, (h.inv hc).flash, (h.inv hc).strm, (h.inv hc).clu, (h.inv hc).spad, (h.inv hc).log⟩⟩

/-- The same with HBM updated. -/
theorem keeps_hbm {free aoCount seqNo insNo lastStream evr pci job groups recipe tok cmds hreq die stack hbm hbmCk
    xferVtag xferCheck xferStag bar2Base xferPoisoned xferDiscarded hbmFlag hbmLost bar2Held hbmHeld stp pwr mer d2d boot mgt} (h :
    Keeps r s) (e : Inv r → hbm.wf = true) :
    Keeps r ⟨s.pending, free, s.out, aoCount, seqNo, insNo, lastStream, s.recs, evr, pci, job, groups, recipe, tok,
      cmds, hreq, s.strm, s.cl, s.core, die, stack, hbm, hbmCk, xferVtag, xferCheck, xferStag, bar2Base,
      xferPoisoned, xferDiscarded, hbmFlag, hbmLost, bar2Held, hbmHeld, stp, pwr, mer, s.flash, d2d, boot, s.encl, mgt⟩ :=
  ⟨h.queue, h.sent, h.fuses, h.lists, fun hc => ⟨e hc, (h.inv hc).flash, (h.inv hc).strm, (h.inv hc).clu, (h.inv hc).spad, (h.inv hc).log⟩⟩

theorem keeps_ite {p : Prop} [Decidable p] {a b : State} (ha : Keeps r a) (hb : Keeps r b) :
    Keeps r (if p then a else b) := by split <;> assumption

theorem keeps_foldl {α : Type} {f : State → α → State} {l : List α} (hf : ∀ s x, Keeps r s → Keeps r (f s x))
    (h : Keeps r s) : Keeps r (l.foldl f s) := by
  induction l generalizing s with
  | nil => exact h
  | cons x l ih => exact ih (hf s x h)

theorem keeps_snd {α : Type} {p : α × State} {x : α} {t : State} (e : p = (x, t)) (h : Keeps r p.2) : Keeps r t := by
  rw [e] at h; exact h

theorem Keeps.clu {i : Nat} (h : Keeps r s) (hc : Inv r) : CluOk (clOf s i) := (h.inv hc).clu i
theorem Keeps.spad {i : Nat} (h : Keeps r s) (hc : Inv r) : (coreOf s i).mem.wf = true := (h.inv hc).spad i
theorem Keeps.strm {i : Nat} (h : Keeps r s) (hc : Inv r) : StrmOk (strmOf s i) := (h.inv hc).strm i

/-- The same of a state that there may be none of. -/
def OKeeps (r : State) (x : Option State) : Prop := ∀ t, x = some t → Keeps r t

theorem okeeps_some (h : Keeps r s) : OKeeps r (some s) := fun _ e => Option.some.inj e ▸ h

theorem okeeps_none : OKeeps r none := fun _ e => nomatch e

theorem okeeps_ite {p : Prop} [Decidable p] {a b : Option State} (ha : OKeeps r a) (hb : OKeeps r b) :
    OKeeps r (if p then a else b) := by split <;> assumption

theorem setCl_keeps {i : Nat} {x : Cluster} (h : Keeps r s) (hx : Inv r → CluOk x) : Keeps r (setCl s i x) := by
  refine ⟨h.queue, h.sent, h.fuses, h.lists, fun hc =>
    ⟨(h.inv hc).hbm, (h.inv hc).flash, (h.inv hc).strm, fun j => ?_, (h.inv hc).spad, (h.inv hc).log⟩⟩
  show CluOk (Tab.get _ (s.cl.put i x) j)
  rw [Tab.get_put]; split
  · exact hx hc
  · exact (h.inv hc).clu j

theorem setCore_keeps {i : Nat} {x : Core} (h : Keeps r s) (hx : Inv r → x.mem.wf = true) : Keeps r (setCore s i x) := by
  refine ⟨h.queue, h.sent, h.fuses, h.lists, fun hc =>
    ⟨(h.inv hc).hbm, (h.inv hc).flash, (h.inv hc).strm, (h.inv hc).clu, fun j => ?_, (h.inv hc).log⟩⟩
  show (Tab.get _ (s.core.put i x) j).mem.wf = true
  rw [Tab.get_put]; split
  · exact hx hc
  · exact (h.inv hc).spad j

theorem setStrm_keeps {i : Nat} {x : Stream} (h : Keeps r s) (hx : Inv r → StrmOk x) : Keeps r (setStrm s i x) := by
  refine ⟨h.queue, h.sent, h.fuses, h.lists, fun hc =>
    ⟨(h.inv hc).hbm, (h.inv hc).flash, fun j => ?_, (h.inv hc).clu, (h.inv hc).spad, (h.inv hc).log⟩⟩
  show StrmOk (Tab.get _ (s.strm.put i x) j)
  rw [Tab.get_put]; split
  · exact hx hc
  · exact (h.inv hc).strm j

theorem emit_keeps {m : Out} (h : Keeps r s) : Keeps r (emit m s) :=
  ⟨h.queue, h.sent.elim (fun new e => ⟨m :: new, by show m :: s.out = _; rw [e]; rfl⟩), h.fuses, h.lists, fun hc =>
    ⟨(h.inv hc).hbm, (h.inv hc).flash, (h.inv hc).strm, (h.inv hc).clu, (h.inv hc).spad, (h.inv hc).log⟩⟩

theorem newest_length {α : Type} (n : Nat) (l : List α) : (newest n l).length ≤ n := by
  rw [newest, List.length_drop]; omega

theorem add_log (x : Rec) (y : Recs) : (Recs.add x y).log.length ≤ 4096 := by
  unfold Recs.add
  dsimp only
  generalize 4096 = n
  exact newest_length n _

theorem record_keeps {x : RecIn} (h : Keeps r s) : Keeps r (record x s) := by
  unfold record
  exact keeps_recs h (fun _ => add_log _ _)

/-- Tables of streams, clusters and cores changed unit by unit, whatever else is updated beside them. -/
theorem keeps_mapV {fs : Stream → Stream} {fc : Cluster → Cluster} {fk : Core → Core} {t : State}
    (hs : ∀ x, StrmOk x → StrmOk (fs x)) (hi : ∀ x, CluOk x → CluOk (fc x))
    (hk : ∀ x, x.mem.wf = true → (fk x).mem.wf = true) (h : Keeps r s)
    (e1 : t.pending = s.pending) (e2 : t.out = s.out) (e3 : t.strm = s.strm.mapV fs ∨ t.strm = s.strm ∨ t.strm = [])
    (e4 : t.cl = s.cl.mapV fc ∨ t.cl = s.cl ∨ t.cl = []) (e5 : t.core = s.core.mapV fk ∨ t.core = s.core ∨ t.core = [])
    (e6 : t.hbm = s.hbm ∨ t.hbm = []) (e7 : t.flash = s.flash) (e8 : t.recs.log = s.recs.log ∨ t.recs.log = [])
    (e9 : FusesKept r.encl t.encl) : Keeps r t := by
  refine ⟨e1.trans h.queue, h.sent.imp (fun new e => e2.trans e), e9, e7 ▸ h.lists, fun hc => ⟨?_, ?_, ?_, ?_, ?_, ?_⟩⟩
  · rcases e6 with e | e <;> rw [e]
    · exact (h.inv hc).hbm
    · rfl
  · rw [e7]; exact (h.inv hc).flash
  · unfold strmOf; intro i; rcases e3 with e | e | e <;> rw [e]
    · exact Tab.mapV_keeps (p := StrmOk) (d := Stream.reset) ⟨rfl, Nat.zero_le _⟩ hs (h.inv hc).strm i
    · exact (h.inv hc).strm i
    · exact ⟨rfl, Nat.zero_le _⟩
  · unfold clOf; intro i; rcases e4 with e | e | e <;> rw [e]
    · exact Tab.mapV_keeps (p := CluOk) (d := Cluster.reset) ⟨rfl, rfl, Nat.zero_lt_succ _, Nat.zero_le _⟩ hi (h.inv hc).clu i
    · exact (h.inv hc).clu i
    · exact ⟨rfl, rfl, Nat.zero_lt_succ _, Nat.zero_le _⟩
  · unfold coreOf; intro i; rcases e5 with e | e | e <;> rw [e]
    · exact Tab.mapV_keeps (p := fun x => x.mem.wf = true) (d := Core.reset) rfl hk (h.inv hc).spad i
    · exact (h.inv hc).spad i
    · rfl
  · rcases e8 with e | e <;> rw [e]
    · exact (h.inv hc).log
    · exact Nat.zero_le _

theorem latchTok_keeps {id : Nat} {st : Tok} (h : Keeps r s) : Keeps r (latchTok id st s) := by
  refine keeps_mapV (fs := fun x => if headWaits x id then { x with seen := x.seen ++ [(id, st)] } else x)
    (fc := fun c => if c.heldOn.contains id then { c with seen := c.seen ++ [(id, st)] } else c) (fk := fun k => k)
    ?_ ?_ (fun _ hx => hx) h rfl rfl (.inl rfl) (.inl rfl) (.inr (.inl rfl)) (.inl rfl) rfl (.inl rfl) h.fuses
  · intro x hx; split
    · exact ⟨hx.buf, hx.queue⟩
    · exact hx
  · intro x hx; split
    · exact ⟨hx.imem, hx.plates, hx.pc, hx.loops⟩
    · exact hx

end

end Sys2Proof.Machine
end

