-- ==== Sys2Proof/Laws/KeepsOps.lean ====
section
/-! SUPPORT. KeepsOps: what the functions of Machine/Ops.lean keep. -/

namespace Sys2Proof.Machine

theorem setDie_keeps {r s} {a1 a2} (h : Keeps r s) : Keeps r (setDie s a1 a2) := by
  unfold setDie
  refine keeps_frame ?_
  exact h

theorem setStack_keeps {r s} {a1 a2} (h : Keeps r s) : Keeps r (setStack s a1 a2) := by
  unfold setStack
  refine keeps_frame ?_
  exact h

theorem drawWord_keeps {r s} (h : Keeps r s) : Keeps r (drawWord s).2 := by
  unfold drawWord
  refine keeps_frame ?_
  exact h

theorem drawBytes_keeps {r s} {a0} (h : Keeps r s) : Keeps r (drawBytes a0 s).2 := by
  unfold drawBytes
  refine keeps_frame ?_
  exact h

theorem regAccess_keeps {r s} {a0 a1 a2 a3 a4} (h : Keeps r s) : Keeps r (regAccess a0 a1 a2 a3 a4 s) := by
  unfold regAccess
  exact record_keeps h

theorem hostAccess_keeps {r s} {a0} (h : Keeps r s) (g1 : ∀ t, Keeps r t → Keeps r (a0 t)) : Keeps r (hostAccess a0 s) := by
  unfold hostAccess
  refine keeps_ite ?_ ?_
  · refine g1 _ ?_
    exact h
  · refine keeps_ite ?_ ?_
    · exact h
    · refine keeps_ite ?_ ?_
      · refine g1 _ ?_
        exact h
      · exact emit_keeps h

theorem hostRead_keeps {r s} {a0} (h : Keeps r s) (g1 : ∀ t, Keeps r t → Keeps r (a0 t)) : Keeps r (hostRead a0 s) := by
  unfold hostRead
  refine keeps_ite ?_ ?_
  · exact h
  · refine keeps_ite ?_ ?_
    · refine g1 _ ?_
      exact h
    · exact emit_keeps h

theorem setMsix_keeps {r s} {a1 a2} (h : Keeps r s) : Keeps r (setMsix s a1 a2) := by
  unfold setMsix
  refine keeps_frame ?_
  exact h

theorem sendMsix_keeps {r s} {a0} (h : Keeps r s) : Keeps r (sendMsix a0 s) := by
  unfold sendMsix
  extract_lets -merge -underBinder +onlyGivenNames x1
  refine keeps_ite ?_ ?_
  · exact setMsix_keeps h
  · exact emit_keeps h

theorem putTok_keeps {r s} {a1 a2} (h : Keeps r s) : Keeps r (putTok s a1 a2) := by
  unfold putTok
  refine keeps_ite ?_ ?_
  · refine keeps_frame ?_
    exact h
  · extract_lets -merge -underBinder +onlyGivenNames x1
    refine setCl_keeps ?_ ?_
    · exact h
    · exact fun hc => ⟨((h.inv hc).clu _).imem, ((h.inv hc).clu _).plates, ((h.inv hc).clu _).pc, ((h.inv hc).clu _).loops⟩

theorem setWatch_keeps {r s} {a1 a2} (h : Keeps r s) : Keeps r (setWatch s a1 a2) := by
  unfold setWatch
  refine keeps_frame ?_
  exact h

theorem fireWatch_keeps {r s} {a0 a1} (h : Keeps r s) : Keeps r (fireWatch a0 a1 s) := by
  unfold fireWatch
  extract_lets -merge -underBinder +onlyGivenNames x1
  extract_lets -merge -underBinder +onlyGivenNames x2
  refine keeps_ite ?_ ?_
  · extract_lets -merge -underBinder +onlyGivenNames x3
    have h4 : Keeps r x3 := setWatch_keeps h
    clear_value x3
    split
    · refine keeps_ite ?_ ?_
      · exact setWatch_keeps h
      · exact sendMsix_keeps h4
    · exact sendMsix_keeps h4
  · exact h

theorem fireWatches_keeps {r s} {a0 a1} (h : Keeps r s) : Keeps r (fireWatches a0 a1 s) := by
  unfold fireWatches
  refine keeps_foldl (fun s1 x2 h3 => ?_) ?_
  · exact fireWatch_keeps h3
  · exact h

theorem setTokW_keeps {r s} {a0 a1 a2} (h : Keeps r s) : Keeps r (setTokW a0 a1 a2 s) := by
  unfold setTokW
  extract_lets -merge -underBinder +onlyGivenNames x1
  have h2 : Keeps r x1 := by
    refine keeps_ite ?_ ?_
    · exact latchTok_keeps h
    · exact h
  clear_value x1
  exact fireWatches_keeps (putTok_keeps h2)

theorem setTok_keeps {r s} {a0 a1 a2} (h : Keeps r s) : Keeps r (setTok a0 a1 a2 s) := by
  unfold setTok
  exact setTokW_keeps h

theorem postTok_keeps {r s} {a0 a1} (h : Keeps r s) : Keeps r (postTok a0 a1 s) := by
  unfold postTok
  refine keeps_ite ?_ ?_
  · exact setTok_keeps h
  · exact h

theorem abortTokens_keeps {r s} {a0} (h : Keeps r s) : Keeps r (abortTokens a0 s) := by
  unfold abortTokens
  refine keeps_foldl (fun s1 x2 h3 => ?_) ?_
  · exact postTok_keeps h3
  · exact h

end Sys2Proof.Machine
end

