-- ==== Sys2Proof/Laws/KeepsStreams.lean ====
section
/-! SUPPORT. KeepsStreams: what the functions of Machine/Streams.lean keep. -/

namespace Sys2Proof.Machine

theorem misplacedWrite_keeps {r s} {a0 a1 a2 a3} (h : Keeps r s) : Keeps r (misplacedWrite a0 a1 a2 a3 s) := by
  unfold misplacedWrite
  extract_lets -merge -underBinder +onlyGivenNames x1
  extract_lets -merge -underBinder +onlyGivenNames x2
  have h3 : Keeps r x2 := by
    refine setStrm_keeps ?_ ?_
    · exact h
    · exact fun hc => ⟨((h.inv hc).strm _).buf, ((h.inv hc).strm _).queue⟩
  clear_value x2
  refine keeps_ite ?_ ?_
  · exact record_keeps h3
  · exact h3

theorem slotWrite_keeps {r s} {a0 a1 a2 a3} (h : Keeps r s) : Keeps r (slotWrite a0 a1 a2 a3 s) := by
  unfold slotWrite
  extract_lets -merge -underBinder +onlyGivenNames x1
  extract_lets -merge -underBinder +onlyGivenNames x2
  extract_lets -merge -underBinder +onlyGivenNames x3
  extract_lets -merge -underBinder +onlyGivenNames x4
  refine keeps_ite ?_ ?_
  · exact misplacedWrite_keeps h
  · extract_lets -merge -underBinder +onlyGivenNames x5
    have h6 : Keeps r x5 := by
      refine setStrm_keeps ?_ ?_
      · exact h
      · intro hc
        refine ⟨?_, ?_⟩
        · refine Mem.wf_writes _ _ ?_
          exact ((h.inv hc).strm _).buf
        · exact ((h.inv hc).strm _).queue
    clear_value x5
    refine keeps_ite ?_ ?_
    · exact h6
    · refine keeps_ite ?_ ?_
      · exact misplacedWrite_keeps h6
      · refine keeps_ite ?_ ?_
        · exact misplacedWrite_keeps h6
        · refine setStrm_keeps ?_ ?_
          · exact h6
          · intro hc
            extract_lets -merge -underBinder +onlyGivenNames x7
            exact ⟨((h6.inv hc).strm _).buf, ((h6.inv hc).strm _).queue⟩

theorem slotWrites_keeps {r s} {n a1 a2 a3 a4} (h : Keeps r s) : Keeps r (slotWrites n a1 a2 a3 a4 s) := by
  induction n generalizing a3 a4 s with
  | zero => exact h
  | succ n ih => exact keeps_ite h (ih (slotWrite_keeps h))

theorem effStreamSlotWrite_keeps {r s} {a0 a1 a2} (h : Keeps r s) : Keeps r (effStreamSlotWrite a0 a1 a2 s) := by
  unfold effStreamSlotWrite
  refine hostAccess_keeps ?_ ?_
  · exact h
  · intro y2 h1
    refine keeps_ite ?_ ?_
    · exact h1
    · refine keeps_ite ?_ ?_
      · exact misplacedWrite_keeps h1
      · exact slotWrites_keeps h1

theorem effIngestReadSlot_keeps {r s} {a0} (h : Keeps r s) : Keeps r (effIngestReadSlot a0 s) := by
  unfold effIngestReadSlot
  extract_lets x slot
  split
  · rename_i e
    refine setStrm_keeps h (fun hc => ⟨(h.strm hc).buf, ?_⟩)
    simp only [Bool.and_eq_true, decide_eq_true_eq] at e
    simp only [List.length_append, List.length_singleton]
    exact e.2
  · exact h

theorem logSkip_keeps {r s} {a0 a1} (h : Keeps r s) : Keeps r (logSkip a0 a1 s) := by
  unfold logSkip
  extract_lets -merge -underBinder +onlyGivenNames x1
  extract_lets -merge -underBinder +onlyGivenNames x2
  refine setStrm_keeps ?_ ?_
  · exact h
  · exact fun hc => ⟨((h.inv hc).strm _).buf, ((h.inv hc).strm _).queue⟩

theorem completionRec_keeps {r s} {a0 a1 a2} (h : Keeps r s) : Keeps r (completionRec a0 a1 a2 s) := by
  unfold completionRec
  refine keeps_ite ?_ ?_
  · exact record_keeps h
  · exact h

theorem postDone_keeps {r s} {a0 a1} (h : Keeps r s) : Keeps r (postDone a0 a1 s) := by
  unfold postDone
  refine keeps_ite ?_ ?_
  · exact setTokW_keeps h
  · exact h

theorem skipCommand_keeps {r s} {a0 a1 a2} (h : Keeps r s) : Keeps r (skipCommand a0 a1 a2 s) := by
  unfold skipCommand
  extract_lets -merge -underBinder +onlyGivenNames x1
  have h2 : Keeps r x1 := logSkip_keeps h
  clear_value x1
  extract_lets -merge -underBinder +onlyGivenNames x3
  have h4 : Keeps r x3 := by
    refine keeps_ite ?_ ?_
    · exact h2
    · exact record_keeps h2
  clear_value x3
  extract_lets -merge -underBinder +onlyGivenNames x5
  have h6 : Keeps r x5 := by
    refine keeps_ite ?_ ?_
    · exact h4
    · exact postDone_keeps h4
  clear_value x5
  exact completionRec_keeps h6

theorem popCmd_keeps {r s} {a0} (h : Keeps r s) : Keeps r (popCmd a0 s) := by
  unfold popCmd
  extract_lets -merge -underBinder +onlyGivenNames x1
  extract_lets -merge -underBinder +onlyGivenNames x2
  have h3 : Keeps r x2 := by
    refine setStrm_keeps ?_ ?_
    · exact h
    · intro hc
      refine ⟨?_, ?_⟩
      · exact ((h.inv hc).strm _).buf
      · rw [List.length_tail]
        exact Nat.le_trans (Nat.sub_le _ _) (by exact ((h.inv hc).strm _).queue)
  clear_value x2
  refine keeps_frame ?_
  exact h3

theorem startCmd_keeps {r s} {a0 a1 a2 a3} (h : Keeps r s) : Keeps r (startCmd a0 a1 a2 a3 s) := by
  unfold startCmd
  extract_lets -merge -underBinder +onlyGivenNames x1
  have h2 : Keeps r x1 := by
    refine keeps_ite ?_ ?_
    · exact setTok_keeps h
    · exact h
  clear_value x1
  refine keeps_frame ?_
  exact h2

theorem dispatch_keeps {r s} {a0 a1 a2 a3 a4} (h : Keeps r s) (g3 : ∀ y0 y1 t, Keeps r t → Keeps r (a2 y0 y1 t)) : Keeps r (dispatch a0 a1 a2 a3 a4 s) := by
  unfold dispatch
  extract_lets -merge -underBinder +onlyGivenNames x1
  refine keeps_ite ?_ ?_
  · split
    · exact skipCommand_keeps (popCmd_keeps h)
    · refine g3 _ _ _ ?_
      exact popCmd_keeps h
  · exact h

theorem setWork_keeps {r s} {a0 a1} (h : Keeps r s) : Keeps r (setWork a0 a1 s) := by
  unfold setWork
  refine keeps_frame ?_
  exact h

theorem completeCmd_keeps {r s} {a0 a1} (h : Keeps r s) : Keeps r (completeCmd a0 a1 s) := by
  unfold completeCmd
  split
  · exact h
  · refine completionRec_keeps ?_
    refine postDone_keeps ?_
    refine keeps_frame ?_
    exact h

theorem atOnce_keeps {r s} {a0 a1 a2 a3} (h : Keeps r s) (g4 : ∀ t, Keeps r t → Keeps r (a3 t)) : Keeps r (atOnce a0 a1 a2 a3 s) := by
  unfold atOnce
  refine completeCmd_keeps ?_
  refine g4 _ ?_
  exact startCmd_keeps h

theorem effUnknownCommand_keeps {r s} {a0 a1} (h : Keeps r s) : Keeps r (effUnknownCommand a0 a1 s) := by
  unfold effUnknownCommand
  extract_lets -merge -underBinder +onlyGivenNames x1
  refine keeps_ite ?_ ?_
  · exact skipCommand_keeps (popCmd_keeps h)
  · exact h

theorem effStreamEnable_keeps {r s} {a0 a1} (h : Keeps r s) : Keeps r (effStreamEnable a0 a1 s) := by
  unfold effStreamEnable
  refine hostAccess_keeps ?_ ?_
  · exact h
  · intro y2 h1
    refine keeps_ite ?_ ?_
    · refine setStrm_keeps ?_ ?_
      · exact h1
      · intro hc
        extract_lets -merge -underBinder +onlyGivenNames x3
        exact ⟨((h1.inv hc).strm _).buf, ((h1.inv hc).strm _).queue⟩
    · exact h1

theorem effStreamPause_keeps {r s} {a0 a1} (h : Keeps r s) : Keeps r (effStreamPause a0 a1 s) := by
  unfold effStreamPause
  refine hostAccess_keeps ?_ ?_
  · exact h
  · intro y2 h1
    refine keeps_ite ?_ ?_
    · refine setStrm_keeps ?_ ?_
      · exact h1
      · intro hc
        extract_lets -merge -underBinder +onlyGivenNames x3
        exact ⟨((h1.inv hc).strm _).buf, ((h1.inv hc).strm _).queue⟩
    · exact h1

theorem resetStream_keeps {r s} {a0} (h : Keeps r s) : Keeps r (resetStream a0 s) := by
  unfold resetStream
  extract_lets -merge -underBinder +onlyGivenNames x1
  extract_lets -merge -underBinder +onlyGivenNames x2
  have h3 : Keeps r x2 := by
    refine keeps_foldl (fun s4 x5 h6 => ?_) ?_
    · exact skipCommand_keeps h6
    · exact h
  clear_value x2
  extract_lets -merge -underBinder +onlyGivenNames x7
  refine setStrm_keeps ?_ ?_
  · exact h3
  · exact fun hc => ⟨rfl, Nat.zero_le _⟩

theorem effStreamReset_keeps {r s} {a0} (h : Keeps r s) : Keeps r (effStreamReset a0 s) := by
  unfold effStreamReset
  refine hostAccess_keeps ?_ ?_
  · exact h
  · intro y2 h1
    refine keeps_ite ?_ ?_
    · exact resetStream_keeps h1
    · exact h1

theorem effClearMisplaced_keeps {r s} {a0} (h : Keeps r s) : Keeps r (effClearMisplaced a0 s) := by
  unfold effClearMisplaced
  refine hostAccess_keeps ?_ ?_
  · exact h
  · intro y2 h1
    refine keeps_ite ?_ ?_
    · refine setStrm_keeps ?_ ?_
      · exact h1
      · intro hc
        extract_lets -merge -underBinder +onlyGivenNames x3
        exact ⟨((h1.inv hc).strm _).buf, ((h1.inv hc).strm _).queue⟩
    · exact h1

theorem effSkipSelect_keeps {r s} {a0 a1} (h : Keeps r s) : Keeps r (effSkipSelect a0 a1 s) := by
  unfold effSkipSelect
  refine hostAccess_keeps ?_ ?_
  · exact h
  · intro y2 h1
    refine keeps_ite ?_ ?_
    · extract_lets -merge -underBinder +onlyGivenNames x3
      extract_lets -merge -underBinder +onlyGivenNames x4
      refine setStrm_keeps ?_ ?_
      · exact h1
      · exact fun hc => ⟨((h1.inv hc).strm _).buf, ((h1.inv hc).strm _).queue⟩
    · exact h1

theorem effNop_keeps {r s} {a0 a1} (h : Keeps r s) : Keeps r (effNop a0 a1 s) := by
  unfold effNop
  refine dispatch_keeps ?_ ?_
  · exact h
  · intro y2 y3 y4 h1
    refine atOnce_keeps ?_ ?_
    · exact h1
    · intro y6 h5
      exact h5

theorem effFence_keeps {r s} {a0 a1} (h : Keeps r s) : Keeps r (effFence a0 a1 s) := by
  unfold effFence
  refine dispatch_keeps ?_ ?_
  · exact h
  · intro y2 y3 y4 h1
    exact startCmd_keeps h1

theorem effFenceComplete_keeps {r s} {a0} (h : Keeps r s) : Keeps r (effFenceComplete a0 s) := by
  unfold effFenceComplete
  split
  · split
    · refine keeps_ite ?_ ?_
      · exact completeCmd_keeps h
      · exact h
    · exact h
  · exact h

theorem effTokenSet_keeps {r s} {a0 a1} (h : Keeps r s) : Keeps r (effTokenSet a0 a1 s) := by
  unfold effTokenSet
  refine dispatch_keeps ?_ ?_
  · exact h
  · intro y2 y3 y4 h1
    refine atOnce_keeps ?_ ?_
    · exact h1
    · intro y6 h5
      exact setTok_keeps h5

theorem effTokenRelease_keeps {r s} {a0 a1} (h : Keeps r s) : Keeps r (effTokenRelease a0 a1 s) := by
  unfold effTokenRelease
  refine dispatch_keeps ?_ ?_
  · exact h
  · intro y2 y3 y4 h1
    refine atOnce_keeps ?_ ?_
    · exact h1
    · intro y6 h5
      refine keeps_foldl (fun s7 x8 h9 => ?_) ?_
      · exact setTok_keeps h9
      · exact h5

end Sys2Proof.Machine
end

