-- ==== Sys2Proof/Laws/KeepsHbm.lean ====
section
/-! SUPPORT. KeepsHbm: what the functions of Machine/Hbm.lean keep. -/

namespace Sys2Proof.Machine

theorem queueWrite_keeps {r s} {a0} (h : Keeps r s) : Keeps r (queueWrite a0 s) := by
  unfold queueWrite
  extract_lets -merge -underBinder +onlyGivenNames x1
  exact setStack_keeps h

theorem retireWrites_keeps {r s} (h : Keeps r s) : Keeps r (retireWrites s) := by
  unfold retireWrites
  refine keeps_ite ?_ ?_
  · split
    · rename_i s1 e2
      have h3 : Keeps r s1 := by
        refine keeps_snd e2 ?_
        exact drawWord_keeps h
      refine keeps_frame ?_
      exact h3
  · exact h

theorem writeSector_keeps {r s} {a0 a1 a2 a3} (h : Keeps r s) : Keeps r (writeSector a0 a1 a2 a3 s) := by
  unfold writeSector
  refine keeps_ite ?_ ?_
  · refine queueWrite_keeps ?_
    refine keeps_frame ?_
    exact h
  · refine queueWrite_keeps ?_
    refine keeps_hbm ?_ ?_
    · exact h
    · exact fun hc => by exact Mem.wf_writes _ _ (h.inv hc).hbm

theorem hit1_keeps {r s} {a1} (h : Keeps r s) : Keeps r (hit1 s a1) := by
  unfold hit1
  refine keeps_ite ?_ ?_
  · extract_lets -merge -underBinder +onlyGivenNames x1
    exact setStack_keeps h
  · extract_lets -merge -underBinder +onlyGivenNames x2
    have h3 : Keeps r x2 := by
      refine keeps_ite ?_ ?_
      · refine keeps_frame ?_
        exact h
      · exact h
    clear_value x2
    refine keeps_ite ?_ ?_
    · refine keeps_hbm ?_ ?_
      · exact h3
      · exact fun hc => by exact Mem.wf_write _ _ (h3.inv hc).hbm
    · refine keeps_ite ?_ ?_
      · refine keeps_frame ?_
        exact h3
      · exact h3

theorem hitHbm_keeps {r s} {a0} (h : Keeps r s) : Keeps r (hitHbm a0 s) := by
  unfold hitHbm
  refine keeps_foldl (fun s1 x2 h3 => ?_) ?_
  · exact hit1_keeps h3
  · exact h

theorem failSector_keeps {r s} {a0 a1 a2 a3 a4} (h : Keeps r s) : Keeps r (failSector a0 a1 a2 a3 a4 s) := by
  unfold failSector
  extract_lets -merge -underBinder +onlyGivenNames x1
  extract_lets -merge -underBinder +onlyGivenNames x2
  extract_lets -merge -underBinder +onlyGivenNames x3
  refine record_keeps ?_
  refine setStack_keeps ?_
  refine keeps_frame ?_
  exact h

theorem readSectors_keeps {r s a b l} (h : Keeps r s) : Keeps r (readSectors a b l s).2 := by
  induction l generalizing s with
  | nil => exact h
  | cons x l ih =>
    obtain ⟨n, v⟩ := x
    simp only [readSectors]
    split
    · exact ih h
    · exact ih (failSector_keeps h)

theorem readUntracked_keeps {r s} {a0 a1} (h : Keeps r s) : Keeps r (readUntracked a0 a1 s).2 := by
  unfold readUntracked
  exact readSectors_keeps h

theorem readStruct_keeps {r s} {a0 a1 a2} (h : Keeps r s) : Keeps r (readStruct a0 a1 a2 s).2 := by
  unfold readStruct
  exact readUntracked_keeps (hitHbm_keeps h)

theorem structRejected_keeps {r s} {a0 a1 a2 a3 a4 a5 a6} (h : Keeps r s) : Keeps r (structRejected a0 a1 a2 a3 a4 a5 a6 s) := by
  unfold structRejected
  exact record_keeps h

theorem bar2Return_keeps {r s} {a0 a1 a2} (h : Keeps r s) : Keeps r (bar2Return a0 a1 a2 s) := by
  unfold bar2Return
  extract_lets -merge -underBinder +onlyGivenNames x1
  have h2 : Keeps r x1 := hitHbm_keeps h
  clear_value x1
  extract_lets -merge -underBinder +onlyGivenNames x3
  have h4 : Keeps r x3.2 := readUntracked_keeps h2
  clear_value x3
  extract_lets -merge -underBinder +onlyGivenNames x5
  refine keeps_ite ?_ ?_
  · exact emit_keeps h4
  · refine emit_keeps ?_
    extract_lets -merge -underBinder +onlyGivenNames x6
    have h7 : Keeps r x6 := h4
    clear_value x6
    refine keeps_frame ?_
    exact h7

theorem bar2Sector_keeps {r s} {a0 a1} (h : Keeps r s) : Keeps r (bar2Sector a0 a1 s) := by
  unfold bar2Sector
  extract_lets -merge -underBinder +onlyGivenNames x1
  refine keeps_ite ?_ ?_
  · exact writeSector_keeps h
  · extract_lets -merge -underBinder +onlyGivenNames x2
    have h3 : Keeps r x2.2 := readUntracked_keeps h
    clear_value x2
    refine keeps_ite ?_ ?_
    · exact writeSector_keeps h3
    · extract_lets -merge -underBinder +onlyGivenNames x4
      have h5 : Keeps r x4 := h3
      clear_value x4
      refine keeps_frame ?_
      exact h5

theorem bar2Sectors_keeps {r s} {n a1 a2} (h : Keeps r s) : Keeps r (bar2Sectors n a1 a2 s) := by
  induction n generalizing a1 a2 s with
  | zero => exact h
  | succ n ih => exact keeps_ite h (ih (bar2Sector_keeps h))

theorem bar2Store_keeps {r s} {a0 a1 a2} (h : Keeps r s) : Keeps r (bar2Store a0 a1 a2 s) := by
  unfold bar2Store
  extract_lets -merge -underBinder +onlyGivenNames x1
  extract_lets -merge -underBinder +onlyGivenNames x2
  have h3 : Keeps r x2 := bar2Sectors_keeps (hitHbm_keeps h)
  clear_value x2
  refine keeps_ite ?_ ?_
  · exact h3
  · exact regAccess_keeps h3

theorem effBar2Read_keeps {r s} {a0 a1 a2} (h : Keeps r s) : Keeps r (effBar2Read a0 a1 a2 s) := by
  unfold effBar2Read
  refine hostRead_keeps ?_ ?_
  · exact h
  · intro y2 h1
    refine keeps_ite ?_ ?_
    · exact h1
    · refine keeps_ite ?_ ?_
      · exact emit_keeps h1
      · extract_lets -merge -underBinder +onlyGivenNames x3
        refine keeps_ite ?_ ?_
        · refine keeps_frame ?_
          exact h1
        · exact bar2Return_keeps h1

theorem effBar2Write_keeps {r s} {a0 a1 a2} (h : Keeps r s) : Keeps r (effBar2Write a0 a1 a2 s) := by
  unfold effBar2Write
  refine hostAccess_keeps ?_ ?_
  · exact h
  · intro y2 h1
    refine keeps_ite ?_ ?_
    · exact h1
    · extract_lets -merge -underBinder +onlyGivenNames x3
      refine keeps_ite ?_ ?_
      · refine keeps_frame ?_
        exact h1
      · exact bar2Store_keeps h1

theorem bar2Resume_keeps {r s} (h : Keeps r s) : Keeps r (bar2Resume s) := by
  unfold bar2Resume
  extract_lets -merge -underBinder +onlyGivenNames x1
  refine keeps_foldl (fun s2 x3 h4 => ?_) ?_
  · extract_lets -merge -underBinder +onlyGivenNames x5
    refine keeps_ite ?_ ?_
    · refine keeps_frame ?_
      exact h4
    · refine keeps_ite ?_ ?_
      · exact bar2Store_keeps h4
      · exact bar2Return_keeps h4
  · refine keeps_frame ?_
    exact h

theorem bar2Timeout_keeps {r s} (h : Keeps r s) : Keeps r (bar2Timeout s) := by
  unfold bar2Timeout
  split
  · exact h
  · extract_lets -merge -underBinder +onlyGivenNames x1
    have h2 : Keeps r x1 := by
      refine keeps_frame ?_
      exact h
    clear_value x1
    refine keeps_ite ?_ ?_
    · extract_lets -merge -underBinder +onlyGivenNames x3
      extract_lets -merge -underBinder +onlyGivenNames x4
      refine keeps_frame ?_
      exact h2
    · split
      · rename_i s5 e6
        have h7 : Keeps r s5 := by
          refine keeps_snd e6 ?_
          exact drawBytes_keeps h2
        refine emit_keeps ?_
        refine keeps_frame ?_
        exact h7

theorem stackFault_keeps {r s} {a0} (h : Keeps r s) : Keeps r (stackFault a0 s) := by
  unfold stackFault
  exact record_keeps h

theorem effHbmParityError_keeps {r s} {a0 a1 a2 a3 a4} (h : Keeps r s) : Keeps r (effHbmParityError a0 a1 a2 a3 a4 s) := by
  unfold effHbmParityError
  refine keeps_ite ?_ ?_
  · extract_lets -merge -underBinder +onlyGivenNames x1
    extract_lets -merge -underBinder +onlyGivenNames x2
    have h3 : Keeps r x2 := setStack_keeps h
    clear_value x2
    refine keeps_ite ?_ ?_
    · extract_lets -merge -underBinder +onlyGivenNames x4
      have h5 : Keeps r x4 := stackFault_keeps h3
      clear_value x4
      refine keeps_ite ?_ ?_
      · refine keeps_frame ?_
        exact h5
      · refine keeps_frame ?_
        exact h5
    · exact h3
  · exact h

theorem effStackTemperature_keeps {r s} {a0 a1} (h : Keeps r s) : Keeps r (effStackTemperature a0 a1 s) := by
  unfold effStackTemperature
  refine keeps_ite ?_ ?_
  · exact setStack_keeps h
  · exact h

theorem effHbmErrClear_keeps {r s} {a0} (h : Keeps r s) : Keeps r (effHbmErrClear a0 s) := by
  unfold effHbmErrClear
  refine hostAccess_keeps ?_ ?_
  · exact h
  · intro y2 h1
    refine keeps_ite ?_ ?_
    · exact setStack_keeps h1
    · exact h1

theorem setXferCtrl_keeps {r s} {a0 a1 a2} (h : Keeps r s) : Keeps r (setXferCtrl a0 a1 a2 s) := by
  unfold setXferCtrl
  refine keeps_ite ?_ ?_
  · exact regAccess_keeps h
  · refine keeps_frame ?_
    exact h

theorem effHbmXferCtrlWrite_keeps {r s} {a0 a1} (h : Keeps r s) : Keeps r (effHbmXferCtrlWrite a0 a1 s) := by
  unfold effHbmXferCtrlWrite
  refine hostAccess_keeps ?_ ?_
  · exact h
  · intro y2 h1
    extract_lets -merge -underBinder +onlyGivenNames x3
    refine keeps_ite ?_ ?_
    · refine setXferCtrl_keeps ?_
      refine keeps_frame ?_
      exact h1
    · refine keeps_ite ?_ ?_
      · refine keeps_frame ?_
        exact h1
      · extract_lets -merge -underBinder +onlyGivenNames x4
        refine setXferCtrl_keeps ?_
        refine keeps_frame ?_
        exact h1

end Sys2Proof.Machine
end

