-- ==== Sys2Proof/Laws/KeepsLines.lean ====
section
/-! SUPPORT. KeepsLines: what the functions of Machine/Lines.lean keep. -/

namespace Sys2Proof.Machine

theorem landPlates_keeps {r s} {a0 a1 a2} (h : Keeps r s) : Keeps r (landPlates a0 a1 a2 s) := by
  unfold landPlates
  refine setCl_keeps ?_ ?_
  · exact h
  · intro hc
    refine cluOk_foldl (fun k1 x2 h3 => ?_) ?_
    · refine plateLine_ok ?_
      exact (fun _ => h3) hc
    · extract_lets -merge -underBinder +onlyGivenNames x4
      exact ⟨((h.inv hc).clu _).imem, ((h.inv hc).clu _).plates, ((h.inv hc).clu _).pc, ((h.inv hc).clu _).loops⟩

theorem landSpad_keeps {r s} {a0 a1 a2 a3} (h : Keeps r s) : Keeps r (landSpad a0 a1 a2 a3 s) := by
  unfold landSpad
  refine keeps_foldl (fun s1 x2 h3 => ?_) ?_
  · split
    · refine setCore_keeps ?_ ?_
      · refine setCl_keeps ?_ ?_
        · exact h3
        · intro hc
          extract_lets -merge -underBinder +onlyGivenNames x4
          exact ⟨((h3.inv hc).clu _).imem, ((h3.inv hc).clu _).plates, ((h3.inv hc).clu _).pc, ((h3.inv hc).clu _).loops⟩
      · intro hc
        refine spadOk_foldl (fun k5 x6 h7 => ?_) ?_
        · refine spadWrite_ok ?_
          exact (fun _ => h7) hc
        · exact (h3.inv hc).spad _
    · exact h3
  · exact h

end Sys2Proof.Machine
end

