-- ==== Sys2Proof/Laws/KeepsCells.lean ====
section
/-! SUPPORT. KeepsCells: what the functions of Machine/Cells.lean keep. -/

namespace Sys2Proof.Machine

theorem setPhot_keeps {r s} {a1 a2} (h : Keeps r s) : Keeps r (setPhot s a1 a2) := by
  unfold setPhot
  refine keeps_frame ?_
  exact h

theorem setEpoch_keeps {r s} {a0} (h : Keeps r s) : Keeps r (setEpoch a0 s) := by
  unfold setEpoch
  refine keeps_foldl (fun s1 x2 h3 => ?_) ?_
  · exact setPhot_keeps h3
  · refine keeps_frame ?_
    exact h

theorem setPlanId_keeps {r s} {a0} (h : Keeps r s) : Keeps r (setPlanId a0 s) := by
  unfold setPlanId
  refine keeps_foldl (fun s1 x2 h3 => ?_) ?_
  · exact setPhot_keeps h3
  · refine keeps_frame ?_
    exact h

theorem setLink_keeps {r s} {a1 a2} (h : Keeps r s) : Keeps r (setLink s a1 a2) := by
  unfold setLink
  refine keeps_frame ?_
  exact h

theorem setCtx_keeps {r s} {a1 a2} (h : Keeps r s) : Keeps r (setCtx s a1 a2) := by
  unfold setCtx
  extract_lets -merge -underBinder +onlyGivenNames x1
  exact setPhot_keeps h

theorem queueTx_keeps {r s} {a0} (h : Keeps r s) : Keeps r (queueTx a0 s) := by
  unfold queueTx
  refine keeps_frame ?_
  exact h

theorem queueCell_keeps {r s} {a0 a1} (h : Keeps r s) : Keeps r (queueCell a0 a1 s) := by
  unfold queueCell
  exact queueTx_keeps h

theorem sendData_keeps {r s} {a0 a1 a2 a3 a4} (h : Keeps r s) : Keeps r (sendData a0 a1 a2 a3 a4 s) := by
  unfold sendData
  split
  · exact h
  · extract_lets -merge -underBinder +onlyGivenNames x1
    exact queueCell_keeps (setCtx_keeps h)

theorem pushData_keeps {r s} {a0 a1 a2 a3 a4} (h : Keeps r s) : Keeps r (pushData a0 a1 a2 a3 a4 s) := by
  unfold pushData
  extract_lets -merge -underBinder +onlyGivenNames x1
  exact setPhot_keeps h

theorem noteSent_keeps {r s} {a0 a1 a2} (h : Keeps r s) : Keeps r (noteSent a0 a1 a2 s) := by
  unfold noteSent
  split
  · extract_lets -merge -underBinder +onlyGivenNames x1
    exact setPhot_keeps h
  · exact h

theorem sendLineFor_keeps {r s} {a0 a1 a2 a3} (h : Keeps r s) : Keeps r (sendLineFor a0 a1 a2 a3 s) := by
  unfold sendLineFor
  extract_lets -merge -underBinder +onlyGivenNames x1
  refine keeps_ite ?_ ?_
  · extract_lets -merge -underBinder +onlyGivenNames x2
    exact noteSent_keeps (sendData_keeps h)
  · exact pushData_keeps h

theorem sendLine_keeps {r s} {a0 a1 a2} (h : Keeps r s) : Keeps r (sendLine a0 a1 a2 s) := by
  unfold sendLine
  exact sendLineFor_keeps h

theorem sendControl_keeps {r s} {a0 a1 a2} (h : Keeps r s) : Keeps r (sendControl a0 a1 a2 s) := by
  unfold sendControl
  exact queueCell_keeps h

theorem owe_keeps {r s} {a0 a1 a2 a3 a4 a5} (h : Keeps r s) : Keeps r (owe a0 a1 a2 a3 a4 a5 s) := by
  unfold owe
  refine keeps_frame ?_
  exact h

theorem grant_keeps {r s} {a0 a1 a2} (h : Keeps r s) : Keeps r (grant a0 a1 a2 s) := by
  unfold grant
  refine keeps_ite ?_ ?_
  · exact h
  · refine keeps_ite ?_ ?_
    · refine keeps_frame ?_
      exact h
    · refine keeps_foldl (fun s1 x2 h3 => ?_) ?_
      · exact owe_keeps h3
      · exact h

theorem grantHeld_keeps {r s} (h : Keeps r s) : Keeps r (grantHeld s) := by
  unfold grantHeld
  refine keeps_foldl (fun s1 x2 h3 => ?_) ?_
  · exact grant_keeps h3
  · refine keeps_frame ?_
    exact h

end Sys2Proof.Machine
end

