-- ==== Sys2Proof/Laws/KeepsAborts.lean ====
section
/-! SUPPORT. KeepsAborts: what the functions of Machine/Aborts.lean keep. -/

namespace Sys2Proof.Machine

theorem laneDone_keeps {r s} {a0 a1 a2} (h : Keeps r s) : Keeps r (laneDone a0 a1 a2 s) := by
  unfold laneDone
  extract_lets -merge -underBinder +onlyGivenNames x1
  split
  · exact h
  · extract_lets -merge -underBinder +onlyGivenNames x2
    refine keeps_ite ?_ ?_
    · extract_lets -merge -underBinder +onlyGivenNames x3
      extract_lets -merge -underBinder +onlyGivenNames x4
      have h5 : Keeps r x4 := by
        refine setCl_keeps ?_ ?_
        · exact h
        · exact fun hc => ⟨((h.inv hc).clu _).imem, ((h.inv hc).clu _).plates, ((h.inv hc).clu _).pc, ((h.inv hc).clu _).loops⟩
      clear_value x4
      split
      · exact postTok_keeps h5
      · exact h5
    · refine setCl_keeps ?_ ?_
      · exact h
      · exact fun hc => ⟨((h.inv hc).clu _).imem, ((h.inv hc).clu _).plates, ((h.inv hc).clu _).pc, ((h.inv hc).clu _).loops⟩

theorem laneCut_keeps {r s} {a0 a1 a2} (h : Keeps r s) : Keeps r (laneCut a0 a1 a2 s) := by
  unfold laneCut
  extract_lets -merge -underBinder +onlyGivenNames x1
  split
  · exact h
  · extract_lets -merge -underBinder +onlyGivenNames x2
    extract_lets -merge -underBinder +onlyGivenNames x3
    have h4 : Keeps r x3 := by
      refine keeps_ite ?_ ?_
      · refine setCl_keeps ?_ ?_
        · exact h
        · exact fun hc => ⟨((h.inv hc).clu _).imem, ((h.inv hc).clu _).plates, ((h.inv hc).clu _).pc, ((h.inv hc).clu _).loops⟩
      · refine setCl_keeps ?_ ?_
        · exact h
        · exact fun hc => ⟨((h.inv hc).clu _).imem, ((h.inv hc).clu _).plates, ((h.inv hc).clu _).pc, ((h.inv hc).clu _).loops⟩
    clear_value x3
    split
    · exact postTok_keeps h4
    · exact h4

theorem landLine_keeps {r s} {a0 a1 a2 a3} (h : Keeps r s) : Keeps r (landLine a0 a1 a2 a3 s) := by
  unfold landLine
  refine keeps_ite ?_ ?_
  · exact writeSector_keeps h
  · refine keeps_ite ?_ ?_
    · exact landPlates_keeps h
    · exact landSpad_keeps h

theorem blurLine_keeps {r s} {a0 a1} (h : Keeps r s) : Keeps r (blurLine a0 a1 s) := by
  unfold blurLine
  extract_lets -merge -underBinder +onlyGivenNames x1
  refine keeps_ite ?_ ?_
  · extract_lets -merge -underBinder +onlyGivenNames x2
    split
    · rename_i s3 e4
      have h5 : Keeps r s3 := by
        refine keeps_snd e4 ?_
        exact drawBytes_keeps h
      refine setCl_keeps ?_ ?_
      · exact h5
      · intro hc
        refine plateWrite_ok ?_
        exact (h5.inv hc).clu _
  · extract_lets -merge -underBinder +onlyGivenNames x6
    refine keeps_foldl (fun s7 x8 h9 => ?_) ?_
    · split
      · split
        · rename_i s10 e11
          have h12 : Keeps r s10 := by
            refine keeps_snd e11 ?_
            exact drawBytes_keeps h9
          refine setCore_keeps ?_ ?_
          · exact h12
          · intro hc
            refine spadWrite_ok ?_
            exact (h12.inv hc).spad _
      · exact h9
    · exact h

theorem dropFlow_keeps {r s} {a0} (h : Keeps r s) : Keeps r (dropFlow a0 s) := by
  unfold dropFlow
  extract_lets -merge -underBinder +onlyGivenNames x1
  extract_lets -merge -underBinder +onlyGivenNames x2
  extract_lets -merge -underBinder +onlyGivenNames x3
  have h4 : Keeps r x3 := setPhot_keeps h
  clear_value x3
  refine keeps_frame ?_
  exact h4

theorem freeFab_keeps {r s} {a0 a1} (h : Keeps r s) : Keeps r (freeFab a0 a1 s) := by
  unfold freeFab
  refine setCl_keeps ?_ ?_
  · exact h
  · intro hc
    extract_lets -merge -underBinder +onlyGivenNames x1
    exact ⟨((h.inv hc).clu _).imem, ((h.inv hc).clu _).plates, ((h.inv hc).clu _).pc, ((h.inv hc).clu _).loops⟩

theorem cutFabric_keeps {r s} {a0 a1} (h : Keeps r s) : Keeps r (cutFabric a0 a1 s) := by
  unfold cutFabric
  extract_lets -merge -underBinder +onlyGivenNames x1
  have h2 : Keeps r x1 := laneCut_keeps (freeFab_keeps h)
  clear_value x1
  refine setCl_keeps ?_ ?_
  · exact h2
  · intro hc
    extract_lets -merge -underBinder +onlyGivenNames x3
    exact ⟨((h2.inv hc).clu _).imem, ((h2.inv hc).clu _).plates, ((h2.inv hc).clu _).pc, ((h2.inv hc).clu _).loops⟩

theorem collAbortRec_keeps {r s} {a0 a1} (h : Keeps r s) : Keeps r (collAbortRec a0 a1 s) := by
  unfold collAbortRec
  exact record_keeps h

theorem setRun_keeps {r s} {a0} (h : Keeps r s) : Keeps r (setRun a0 s) := by
  unfold setRun
  extract_lets -merge -underBinder +onlyGivenNames x1
  exact setPhot_keeps h

theorem delRun_keeps {r s} {a0} (h : Keeps r s) : Keeps r (delRun a0 s) := by
  unfold delRun
  extract_lets -merge -underBinder +onlyGivenNames x1
  exact setPhot_keeps h

theorem quietCtx_keeps {r s} {a0} (h : Keeps r s) : Keeps r (quietCtx a0 s) := by
  unfold quietCtx
  split
  · exact setCtx_keeps h
  · exact h

theorem cutRun_keeps {r s} {a0} (h : Keeps r s) : Keeps r (cutRun a0 s) := by
  unfold cutRun
  refine keeps_foldl (fun s1 x2 h3 => ?_) ?_
  · exact cutFabric_keeps h3
  · exact h

theorem rebuildRec_keeps {r s} {a0 a1 a2} (h : Keeps r s) : Keeps r (rebuildRec a0 a1 a2 s) := by
  unfold rebuildRec
  split
  · refine keeps_ite ?_ ?_
    · exact record_keeps h
    · exact h
  · exact h

theorem abortRun_keeps {r s} {a0 a1} (h : Keeps r s) : Keeps r (abortRun a0 a1 s) := by
  unfold abortRun
  split
  · exact h
  · refine keeps_ite ?_ ?_
    · exact h
    · extract_lets -merge -underBinder +onlyGivenNames x1
      extract_lets -merge -underBinder +onlyGivenNames x2
      have h3 : Keeps r x2 := rebuildRec_keeps (collAbortRec_keeps (quietCtx_keeps (dropFlow_keeps h)))
      clear_value x2
      refine keeps_ite ?_ ?_
      · exact setRun_keeps h3
      · refine cutRun_keeps ?_
        refine delRun_keeps ?_
        refine keeps_foldl (fun s4 x5 h6 => ?_) ?_
        · exact blurLine_keeps h6
        · exact h3

theorem abortPuts_keeps {r s} {a0 a1} (h : Keeps r s) : Keeps r (abortPuts a0 a1 s) := by
  unfold abortPuts
  extract_lets -merge -underBinder +onlyGivenNames x1
  extract_lets -merge -underBinder +onlyGivenNames x2
  refine keeps_ite ?_ ?_
  · exact h
  · extract_lets -merge -underBinder +onlyGivenNames x3
    have h4 : Keeps r x3 := setPhot_keeps h
    clear_value x3
    refine keeps_foldl (fun s5 x6 h7 => ?_) ?_
    · exact cutFabric_keeps h7
    · exact collAbortRec_keeps (quietCtx_keeps (dropFlow_keeps h4))

theorem abortCtx_keeps {r s} {a0 a1} (h : Keeps r s) : Keeps r (abortCtx a0 a1 s) := by
  unfold abortCtx
  extract_lets -merge -underBinder +onlyGivenNames x1
  have h2 : Keeps r x1 := by
    unfold x1
    split
    · exact abortRun_keeps h
    · exact h
  clear_value x1
  exact abortPuts_keeps h2

theorem abortRebl_keeps {r s} {a0} (h : Keeps r s) : Keeps r (abortRebl a0 s) := by
  unfold abortRebl
  split
  · exact h
  · refine keeps_ite ?_ ?_
    · extract_lets -merge -underBinder +onlyGivenNames x1
      have h2 : Keeps r x1 := by
        refine keeps_foldl (fun s3 x4 h5 => ?_) ?_
        · exact quietCtx_keeps (dropFlow_keeps h5)
        · exact h
      clear_value x1
      extract_lets -merge -underBinder +onlyGivenNames x6
      have h7 : Keeps r x6 := collAbortRec_keeps h2
      clear_value x6
      refine keeps_frame ?_
      exact h7
    · exact h

theorem abortGroup_keeps {r s} {a0} (h : Keeps r s) : Keeps r (abortGroup a0 s) := by
  unfold abortGroup
  extract_lets -merge -underBinder +onlyGivenNames x1
  refine abortRebl_keeps ?_
  refine keeps_foldl (fun s2 x3 h4 => ?_) ?_
  · exact abortCtx_keeps h4
  · exact h

theorem spreadAbort_keeps {r s} {a0 a1 a2} (h : Keeps r s) : Keeps r (spreadAbort a0 a1 a2 s) := by
  unfold spreadAbort
  refine keeps_foldl (fun s1 x2 h3 => ?_) ?_
  · exact queueCell_keeps h3
  · exact h

theorem raiseAbort_keeps {r s} {a0 a1 a2} (h : Keeps r s) : Keeps r (raiseAbort a0 a1 a2 s) := by
  unfold raiseAbort
  extract_lets -merge -underBinder +onlyGivenNames x1
  extract_lets -merge -underBinder +onlyGivenNames x2 x3
  have h4 : Keeps r x3 := by
    refine keeps_frame ?_
    exact h
  clear_value x3
  exact abortGroup_keeps (spreadAbort_keeps h4)

theorem raiseOn_keeps {r s} {a0 a1} (h : Keeps r s) : Keeps r (raiseOn a0 a1 s) := by
  unfold raiseOn
  split
  · exact raiseAbort_keeps h
  · exact h

theorem stopRuns_keeps {r s} {a0} (h : Keeps r s) : Keeps r (stopRuns a0 s) := by
  unfold stopRuns
  extract_lets -merge -underBinder +onlyGivenNames x1
  refine keeps_foldl (fun s2 x3 h4 => ?_) ?_
  · refine keeps_ite ?_ ?_
    · exact raiseOn_keeps h4
    · exact h4
  · exact h

end Sys2Proof.Machine
end

