-- ==== Sys2Proof/Laws/KeepsSeq.lean ====
section
/-! SUPPORT. KeepsSeq: what the functions of Machine/Seq.lean keep. -/

namespace Sys2Proof.Machine

theorem trapRec_keeps {r s} {a0 a1 a2} (h : Keeps r s) : Keeps r (trapRec a0 a1 a2 s) := by
  unfold trapRec
  exact record_keeps h

theorem dropCore_keeps {r s} {a0 a1 a2} (h : Keeps r s) : Keeps r (dropCore a0 a1 a2 s) := by
  unfold dropCore
  extract_lets -merge -underBinder +onlyGivenNames x1
  extract_lets -merge -underBinder +onlyGivenNames x2
  refine keeps_foldl (fun s3 x4 h5 => ?_) ?_
  · exact laneCut_keeps h5
  · refine setCore_keeps ?_ ?_
    · exact h
    · exact fun hc => (h.inv hc).spad _

theorem dropPuts_keeps {r s} {a0} (h : Keeps r s) : Keeps r (dropPuts a0 s) := by
  unfold dropPuts
  refine keeps_foldl (fun s1 x2 h3 => ?_) ?_
  · extract_lets -merge -underBinder +onlyGivenNames x4
    exact setPhot_keeps h3
  · exact h

theorem dropUnits_keeps {r s} {a0 a1} (h : Keeps r s) : Keeps r (dropUnits a0 a1 s) := by
  unfold dropUnits
  extract_lets -merge -underBinder +onlyGivenNames x1
  extract_lets -merge -underBinder +onlyGivenNames x2
  refine keeps_foldl (fun s3 x4 h5 => ?_) ?_
  · exact laneCut_keeps h5
  · refine dropPuts_keeps ?_
    refine setCl_keeps ?_ ?_
    · exact h
    · exact fun hc => ⟨((h.inv hc).clu _).imem, ((h.inv hc).clu _).plates, ((h.inv hc).clu _).pc, ((h.inv hc).clu _).loops⟩

theorem dropAll_keeps {r s} {a0} (h : Keeps r s) : Keeps r (dropAll a0 s) := by
  unfold dropAll
  extract_lets -merge -underBinder +onlyGivenNames x1
  have h2 : Keeps r x1 := by
    refine keeps_foldl (fun s3 x4 h5 => ?_) ?_
    · split
      · exact dropCore_keeps h5
      · exact h5
    · exact h
  clear_value x1
  extract_lets -merge -underBinder +onlyGivenNames x6
  extract_lets -merge -underBinder +onlyGivenNames x7
  extract_lets -merge -underBinder +onlyGivenNames x8
  have h9 : Keeps r x8 := dropUnits_keeps h2
  clear_value x8
  exact stopRuns_keeps (setDie_keeps h9)

theorem trap_keeps {r s} {a0 a1 a2} (h : Keeps r s) : Keeps r (trap a0 a1 a2 s) := by
  unfold trap
  extract_lets -merge -underBinder +onlyGivenNames x1
  split
  · exact h
  · refine keeps_ite ?_ ?_
    · refine keeps_ite ?_ ?_
      · exact trapRec_keeps h
      · exact h
    · refine dropAll_keeps ?_
      refine setCl_keeps ?_ ?_
      · exact h
      · exact fun hc => ⟨((h.inv hc).clu _).imem, ((h.inv hc).clu _).plates, ((h.inv hc).clu _).pc, ((h.inv hc).clu _).loops⟩

theorem memberEnded_keeps {r s a0 a1 a2} (h : Keeps r s) : Keeps r (memberEnded a0 a1 a2 s) := by
  refine keeps_foldl (fun s x h => ?_) h
  dsimp only
  split
  · refine keeps_ite (keeps_ite ?_ ?_) h
    · exact completeCmd_keeps h
    · exact setWork_keeps h
  · refine keeps_ite (keeps_ite ?_ ?_) h
    · exact completeCmd_keeps h
    · exact setWork_keeps h
  · exact h

theorem dropChain_keeps {r s} {a0} (h : Keeps r s) : Keeps r (dropChain a0 s) := by
  unfold dropChain
  extract_lets -merge -underBinder +onlyGivenNames x1
  extract_lets -merge -underBinder +onlyGivenNames x2
  have h3 : Keeps r x2 := by
    refine keeps_foldl (fun s4 x5 h6 => ?_) ?_
    · refine keeps_foldl (fun s7 x8 h9 => ?_) ?_
      · exact laneCut_keeps h9
      · exact h6
    · exact h
  clear_value x2
  extract_lets -merge -underBinder +onlyGivenNames x10
  have h11 : Keeps r x10 := by
    refine keeps_foldl (fun s12 x13 h14 => ?_) ?_
    · refine setCore_keeps ?_ ?_
      · exact h14
      · intro hc
        extract_lets -merge -underBinder +onlyGivenNames x15
        exact (h14.inv hc).spad _
    · exact h3
  clear_value x10
  refine setCl_keeps ?_ ?_
  · exact h11
  · intro hc
    extract_lets -merge -underBinder +onlyGivenNames x16
    exact ⟨((h11.inv hc).clu _).imem, ((h11.inv hc).clu _).plates, ((h11.inv hc).clu _).pc, ((h11.inv hc).clu _).loops⟩

theorem endProgram_keeps {r s} {a0} (h : Keeps r s) : Keeps r (endProgram a0 s) := by
  unfold endProgram
  extract_lets -merge -underBinder +onlyGivenNames x1
  split
  · exact h
  · extract_lets -merge -underBinder +onlyGivenNames x2
    extract_lets -merge -underBinder +onlyGivenNames x3
    have h4 : Keeps r x3 := by
      refine keeps_ite ?_ ?_
      · exact dropChain_keeps h
      · exact h
    clear_value x3
    extract_lets -merge -underBinder +onlyGivenNames x5
    have h6 : Keeps r x5 := abortTokens_keeps h4
    clear_value x5
    extract_lets -merge -underBinder +onlyGivenNames x7
    have h8 : Keeps r x7 := by
      refine keeps_ite ?_ ?_
      · exact trapRec_keeps h6
      · exact h6
    clear_value x7
    extract_lets -merge -underBinder +onlyGivenNames x9 x10
    have h11 : Keeps r x10 := by
      refine setCl_keeps ?_ ?_
      · exact h8
      · exact fun hc => ⟨((h8.inv hc).clu _).imem, ((h8.inv hc).clu _).plates, ((h8.inv hc).clu _).pc, Nat.zero_le _⟩
    clear_value x10
    exact memberEnded_keeps h11

theorem effProofBoundary_keeps {r s} {a0} (h : Keeps r s) : Keeps r (effProofBoundary a0 s) := by
  unfold effProofBoundary
  split
  · refine keeps_ite ?_ ?_
    · exact endProgram_keeps h
    · exact h
  · exact h

theorem goOn_keeps {r s} {a0 a1} (h : Keeps r s) (e : Inv r → a1.2.length ≤ 4) : Keeps r (goOn a0 a1 s) := by
  unfold goOn
  extract_lets k
  split
  · rename_i p
    exact setCl_keeps h (fun hc => ⟨(h.clu hc).imem, (h.clu hc).plates, p, e hc⟩)
  · exact trap_keeps (setCl_keeps h (fun hc => ⟨(h.clu hc).imem, (h.clu hc).plates, (by decide : 0x3FFF < 0x4000), e hc⟩))

theorem goNext_keeps {r s} {a0} (h : Keeps r s) : Keeps r (goNext a0 s) := by
  unfold goNext
  refine goOn_keeps ?_ ?_
  · exact h
  · exact fun hc => endIns_le ((h.inv hc).clu _).loops

theorem hold_keeps {r s} {a0 a1 a2} (h : Keeps r s) : Keeps r (hold a0 a1 a2 s) := by
  unfold hold
  refine setCl_keeps ?_ ?_
  · exact h
  · intro hc
    extract_lets -merge -underBinder +onlyGivenNames x1
    exact ⟨((h.inv hc).clu _).imem, ((h.inv hc).clu _).plates, ((h.inv hc).clu _).pc, ((h.inv hc).clu _).loops⟩

theorem skipIns_keeps {r s} {a0 a1 a2} (h : Keeps r s) : Keeps r (skipIns a0 a1 a2 s) := by
  unfold skipIns
  extract_lets -merge -underBinder +onlyGivenNames x1
  split
  · exact h
  · extract_lets -merge -underBinder +onlyGivenNames x2
    extract_lets -merge -underBinder +onlyGivenNames x3
    extract_lets -merge -underBinder +onlyGivenNames x4
    have h5 : Keeps r x4 := by
      refine setCl_keeps ?_ ?_
      · exact h
      · exact fun hc => ⟨((h.inv hc).clu _).imem, ((h.inv hc).clu _).plates, ((h.inv hc).clu _).pc, ((h.inv hc).clu _).loops⟩
    clear_value x4
    extract_lets -merge -underBinder +onlyGivenNames x6
    have h7 : Keeps r x6 := logSkip_keeps h5
    clear_value x6
    extract_lets -merge -underBinder +onlyGivenNames x8
    have h9 : Keeps r x8 := by
      refine keeps_ite ?_ ?_
      · exact h7
      · exact record_keeps h7
    clear_value x8
    refine keeps_ite ?_ ?_
    · exact setTok_keeps h9
    · exact h9

theorem issueWith_keeps {r s} {a0 a1 a2 a3} (h : Keeps r s) (g4 : ∀ t, Keeps r t → Keeps r (a3 t)) : Keeps r (issueWith a0 a1 a2 a3 s) := by
  unfold issueWith
  split
  · exact goNext_keeps (skipIns_keeps h)
  · refine g4 _ ?_
    exact h

theorem seqIns_keeps {r s} {a0 a1 a2 a3 a4} (h : Keeps r s) (g3 : ∀ y0 y1 t, Keeps r t → Keeps r (a2 y0 y1 t)) : Keeps r (seqIns a0 a1 a2 a3 a4 s) := by
  unfold seqIns
  refine keeps_ite ?_ ?_
  · extract_lets -merge -underBinder +onlyGivenNames x1
    refine keeps_ite ?_ ?_
    · exact trap_keeps h
    · refine g3 _ _ _ ?_
      exact h
  · exact h

theorem scalarIns_keeps {r s} {a0 a1 a2 a3 a4} (h : Keeps r s) : Keeps r (scalarIns a0 a1 a2 a3 a4 s) := by
  unfold scalarIns
  refine seqIns_keeps ?_ ?_
  · exact h
  · intro y2 y3 y4 h1
    refine issueWith_keeps ?_ ?_
    · exact h1
    · intro y6 h5
      extract_lets -merge -underBinder +onlyGivenNames x7
      refine goNext_keeps ?_
      refine setCl_keeps ?_ ?_
      · exact h5
      · intro hc
        refine setReg_ok ?_
        exact (h5.inv hc).clu _

theorem effAdd_keeps {r s} {a0 a1} (h : Keeps r s) : Keeps r (effAdd a0 a1 s) := by
  unfold effAdd
  exact scalarIns_keeps h

theorem effSub_keeps {r s} {a0 a1} (h : Keeps r s) : Keeps r (effSub a0 a1 s) := by
  unfold effSub
  exact scalarIns_keeps h

theorem effAnd_keeps {r s} {a0 a1} (h : Keeps r s) : Keeps r (effAnd a0 a1 s) := by
  unfold effAnd
  exact scalarIns_keeps h

theorem effOr_keeps {r s} {a0 a1} (h : Keeps r s) : Keeps r (effOr a0 a1 s) := by
  unfold effOr
  exact scalarIns_keeps h

theorem effXor_keeps {r s} {a0 a1} (h : Keeps r s) : Keeps r (effXor a0 a1 s) := by
  unfold effXor
  exact scalarIns_keeps h

theorem effShl_keeps {r s} {a0 a1} (h : Keeps r s) : Keeps r (effShl a0 a1 s) := by
  unfold effShl
  exact scalarIns_keeps h

theorem effShr_keeps {r s} {a0 a1} (h : Keeps r s) : Keeps r (effShr a0 a1 s) := by
  unfold effShr
  exact scalarIns_keeps h

theorem effSra_keeps {r s} {a0 a1} (h : Keeps r s) : Keeps r (effSra a0 a1 s) := by
  unfold effSra
  exact scalarIns_keeps h

theorem effMul_keeps {r s} {a0 a1} (h : Keeps r s) : Keeps r (effMul a0 a1 s) := by
  unfold effMul
  exact scalarIns_keeps h

theorem effMin_keeps {r s} {a0 a1} (h : Keeps r s) : Keeps r (effMin a0 a1 s) := by
  unfold effMin
  exact scalarIns_keeps h

theorem effMax_keeps {r s} {a0 a1} (h : Keeps r s) : Keeps r (effMax a0 a1 s) := by
  unfold effMax
  exact scalarIns_keeps h

theorem effSlt_keeps {r s} {a0 a1} (h : Keeps r s) : Keeps r (effSlt a0 a1 s) := by
  unfold effSlt
  exact scalarIns_keeps h

theorem effSltu_keeps {r s} {a0 a1} (h : Keeps r s) : Keeps r (effSltu a0 a1 s) := by
  unfold effSltu
  exact scalarIns_keeps h

theorem effSeq_keeps {r s} {a0 a1} (h : Keeps r s) : Keeps r (effSeq a0 a1 s) := by
  unfold effSeq
  exact scalarIns_keeps h

theorem effAddi_keeps {r s} {a0 a1} (h : Keeps r s) : Keeps r (effAddi a0 a1 s) := by
  unfold effAddi
  exact scalarIns_keeps h

theorem effLi_keeps {r s} {a0 a1} (h : Keeps r s) : Keeps r (effLi a0 a1 s) := by
  unfold effLi
  exact scalarIns_keeps h

theorem effAndi_keeps {r s} {a0 a1} (h : Keeps r s) : Keeps r (effAndi a0 a1 s) := by
  unfold effAndi
  exact scalarIns_keeps h

theorem effShli_keeps {r s} {a0 a1} (h : Keeps r s) : Keeps r (effShli a0 a1 s) := by
  unfold effShli
  exact scalarIns_keeps h

theorem effShri_keeps {r s} {a0 a1} (h : Keeps r s) : Keeps r (effShri a0 a1 s) := by
  unfold effShri
  exact scalarIns_keeps h

theorem srdAct_keeps {r s} {a0 a1 a2} (h : Keeps r s) : Keeps r (srdAct a0 a1 a2 s) := by
  unfold srdAct
  extract_lets -merge -underBinder +onlyGivenNames x1
  refine issueWith_keeps ?_ ?_
  · exact h
  · intro y3 h2
    refine keeps_ite ?_ ?_
    · split
      · rename_i s4 e5
        have h6 : Keeps r s4 := by
          refine keeps_snd e5 ?_
          exact drawWord_keeps h2
        refine goNext_keeps ?_
        refine setCl_keeps ?_ ?_
        · exact h6
        · intro hc
          refine setReg_ok ?_
          exact (h6.inv hc).clu _
    · refine goNext_keeps ?_
      refine setCl_keeps ?_ ?_
      · exact h2
      · intro hc
        refine setReg_ok ?_
        exact (h2.inv hc).clu _

theorem takeOffline_keeps {r s} {a0} (h : Keeps r s) : Keeps r (takeOffline a0 s) := by
  unfold takeOffline
  extract_lets -merge -underBinder +onlyGivenNames x1
  extract_lets -merge -underBinder +onlyGivenNames x2
  have h3 : Keeps r x2 := by
    refine setCl_keeps ?_ ?_
    · exact h
    · exact fun hc => ⟨((h.inv hc).clu _).imem, ((h.inv hc).clu _).plates, ((h.inv hc).clu _).pc, ((h.inv hc).clu _).loops⟩
  clear_value x2
  split
  · exact trap_keeps h3
  · exact h3

theorem coreRetiredRec_keeps {r s} {a0 a1 a2} (h : Keeps r s) : Keeps r (coreRetiredRec a0 a1 a2 s) := by
  unfold coreRetiredRec
  extract_lets -merge -underBinder +onlyGivenNames x1
  exact record_keeps h

theorem plateError_keeps {r s} {a0 a1 a2} (h : Keeps r s) (g3 : ∀ t, Keeps r t → Keeps r (a2 t)) : Keeps r (plateError a0 a1 a2 s) := by
  unfold plateError
  extract_lets -merge -underBinder +onlyGivenNames x1
  extract_lets -merge -underBinder +onlyGivenNames x2
  extract_lets -merge -underBinder +onlyGivenNames x3
  have h4 : Keeps r x3 := by
    refine setCl_keeps ?_ ?_
    · exact h
    · exact fun hc => ⟨((h.inv hc).clu _).imem, ((h.inv hc).clu _).plates, ((h.inv hc).clu _).pc, ((h.inv hc).clu _).loops⟩
  clear_value x3
  extract_lets -merge -underBinder +onlyGivenNames x5
  have h6 : Keeps r x5 := record_keeps h4
  clear_value x5
  extract_lets -merge -underBinder +onlyGivenNames x7
  have h8 : Keeps r x7 := by
    refine g3 _ ?_
    exact h6
  clear_value x7
  refine keeps_ite ?_ ?_
  · extract_lets -merge -underBinder +onlyGivenNames x9 x10
    have h11 : Keeps r x10 := by
      refine keeps_flash ?_ ?_ ?_
      · exact h8
      · exact fun hc => by exact (h8.inv hc).flash
      · exact h8.lists.plates_new
    clear_value x10
    exact coreRetiredRec_keeps (takeOffline_keeps h11)
  · exact h8

theorem plateIns_keeps {r s} {a0 a1 a2 a3} (h : Keeps r s) (g4 : ∀ t, Keeps r t → Keeps r (a3 t)) : Keeps r (plateIns a0 a1 a2 a3 s) := by
  unfold plateIns
  extract_lets -merge -underBinder +onlyGivenNames x1
  extract_lets -merge -underBinder +onlyGivenNames x2
  refine issueWith_keeps ?_ ?_
  · exact h
  · intro y4 h3
    refine keeps_ite ?_ ?_
    · exact hold_keeps h3
    · refine g4 _ ?_
      exact h3

theorem plateTrap_keeps {r s} {a0 a1 a2 a3 a4} (h : Keeps r s) : Keeps r (plateTrap a0 a1 a2 a3 a4 s) := by
  unfold plateTrap
  refine plateError_keeps ?_ ?_
  · exact h
  · intro y2 h1
    exact trap_keeps h1

theorem effSld_keeps {r s} {a0 a1} (h : Keeps r s) : Keeps r (effSld a0 a1 s) := by
  unfold effSld
  refine seqIns_keeps ?_ ?_
  · exact h
  · intro y2 y3 y4 h1
    refine plateIns_keeps ?_ ?_
    · exact h1
    · intro y6 h5
      extract_lets -merge -underBinder +onlyGivenNames x7
      extract_lets -merge -underBinder +onlyGivenNames x8
      refine keeps_ite ?_ ?_
      · exact plateTrap_keeps h5
      · refine goNext_keeps ?_
        refine setCl_keeps ?_ ?_
        · exact h5
        · intro hc
          refine setReg_ok ?_
          exact (h5.inv hc).clu _

theorem effSst_keeps {r s} {a0 a1} (h : Keeps r s) : Keeps r (effSst a0 a1 s) := by
  unfold effSst
  refine seqIns_keeps ?_ ?_
  · exact h
  · intro y2 y3 y4 h1
    refine plateIns_keeps ?_ ?_
    · exact h1
    · intro y6 h5
      extract_lets -merge -underBinder +onlyGivenNames x7
      extract_lets -merge -underBinder +onlyGivenNames x8
      extract_lets -merge -underBinder +onlyGivenNames x9
      refine goNext_keeps ?_
      refine setCl_keeps ?_ ?_
      · exact h5
      · intro hc
        refine plateWrite_ok ?_
        exact (h5.inv hc).clu _

theorem effFlowNop_keeps {r s} {a0 a1} (h : Keeps r s) : Keeps r (effFlowNop a0 a1 s) := by
  unfold effFlowNop
  refine seqIns_keeps ?_ ?_
  · exact h
  · intro y2 y3 y4 h1
    refine issueWith_keeps ?_ ?_
    · exact h1
    · intro y6 h5
      exact goNext_keeps h5

theorem effJ_keeps {r s} {a0 a1} (h : Keeps r s) : Keeps r (effJ a0 a1 s) := by
  unfold effJ
  refine seqIns_keeps ?_ ?_
  · exact h
  · intro y2 y3 y4 h1
    refine issueWith_keeps ?_ ?_
    · exact h1
    · intro y6 h5
      refine goOn_keeps ?_ ?_
      · exact h5
      · exact fun hc => jumpTo_le ((h5.inv hc).clu _).loops

theorem effJal_keeps {r s} {a0 a1} (h : Keeps r s) : Keeps r (effJal a0 a1 s) := by
  unfold effJal
  refine seqIns_keeps ?_ ?_
  · exact h
  · intro y2 y3 y4 h1
    refine issueWith_keeps ?_ ?_
    · exact h1
    · intro y6 h5
      extract_lets -merge -underBinder +onlyGivenNames x7
      refine goOn_keeps ?_ ?_
      · refine setCl_keeps ?_ ?_
        · exact h5
        · intro hc
          refine setReg_ok ?_
          exact (h5.inv hc).clu _
      · exact fun hc => jumpTo_le ((h5.inv hc).clu _).loops

theorem effJr_keeps {r s} {a0 a1} (h : Keeps r s) : Keeps r (effJr a0 a1 s) := by
  unfold effJr
  refine seqIns_keeps ?_ ?_
  · exact h
  · intro y2 y3 y4 h1
    extract_lets -merge -underBinder +onlyGivenNames x5
    refine issueWith_keeps ?_ ?_
    · exact h1
    · intro y7 h6
      refine goOn_keeps ?_ ?_
      · exact h6
      · exact fun hc => jumpTo_le ((h6.inv hc).clu _).loops

theorem branchIns_keeps {r s} {a0 a1 a2 a3} (h : Keeps r s) : Keeps r (branchIns a0 a1 a2 a3 s) := by
  unfold branchIns
  refine seqIns_keeps ?_ ?_
  · exact h
  · intro y2 y3 y4 h1
    refine issueWith_keeps ?_ ?_
    · exact h1
    · intro y6 h5
      extract_lets -merge -underBinder +onlyGivenNames x7
      refine keeps_ite ?_ ?_
      · refine goOn_keeps ?_ ?_
        · exact h5
        · exact fun hc => jumpTo_le ((h5.inv hc).clu _).loops
      · exact goNext_keeps h5

theorem effBeq_keeps {r s} {a0 a1} (h : Keeps r s) : Keeps r (effBeq a0 a1 s) := by
  unfold effBeq
  exact branchIns_keeps h

theorem effBne_keeps {r s} {a0 a1} (h : Keeps r s) : Keeps r (effBne a0 a1 s) := by
  unfold effBne
  exact branchIns_keeps h

theorem effBlt_keeps {r s} {a0 a1} (h : Keeps r s) : Keeps r (effBlt a0 a1 s) := by
  unfold effBlt
  exact branchIns_keeps h

theorem effBge_keeps {r s} {a0 a1} (h : Keeps r s) : Keeps r (effBge a0 a1 s) := by
  unfold effBge
  exact branchIns_keeps h

theorem effBltu_keeps {r s} {a0 a1} (h : Keeps r s) : Keeps r (effBltu a0 a1 s) := by
  unfold effBltu
  exact branchIns_keeps h

theorem effBgeu_keeps {r s} {a0 a1} (h : Keeps r s) : Keeps r (effBgeu a0 a1 s) := by
  unfold effBgeu
  exact branchIns_keeps h

theorem haltNow_keeps {r s} {a0} (h : Keeps r s) : Keeps r (haltNow a0 s) := by
  unfold haltNow
  extract_lets -merge -underBinder +onlyGivenNames x1
  split
  · refine setCl_keeps ?_ ?_
    · exact h
    · exact fun hc => ⟨((h.inv hc).clu _).imem, ((h.inv hc).clu _).plates, ((h.inv hc).clu _).pc, ((h.inv hc).clu _).loops⟩
  · exact h

theorem effHalt_keeps {r s} {a0 a1} (h : Keeps r s) : Keeps r (effHalt a0 a1 s) := by
  unfold effHalt
  refine seqIns_keeps ?_ ?_
  · exact h
  · intro y2 y3 y4 h1
    refine haltNow_keeps ?_
    refine keeps_ite ?_ ?_
    · exact h1
    · exact skipIns_keeps h1

theorem loopIns_keeps {r s} {a0 a1 a2 a3 a4} (h : Keeps r s) : Keeps r (loopIns a0 a1 a2 a3 a4 s) := by
  unfold loopIns
  extract_lets k
  have hk : Inv r → k.loops.length ≤ 4 := fun hc => (h.clu hc).loops
  refine keeps_ite (goOn_keeps (skipIns_keeps h) (fun hc => resumeAt_le (hk hc))) ?_
  split
  · exact goOn_keeps (skipIns_keeps h) (fun hc => resumeAt_le (hk hc))
  · rename_i e
    refine keeps_ite (goOn_keeps (skipIns_keeps h) (fun hc => resumeAt_le (hk hc))) (keeps_ite ?_ ?_)
    · exact goOn_keeps h (fun hc => resumeAt_le (hk hc))
    · exact goOn_keeps h (fun hc => Nat.lt_of_le_of_ne (hk hc) e)

theorem effLoop_keeps {r s} {a0 a1} (h : Keeps r s) : Keeps r (effLoop a0 a1 s) := by
  unfold effLoop
  refine seqIns_keeps ?_ ?_
  · exact h
  · intro y2 y3 y4 h1
    extract_lets -merge -underBinder +onlyGivenNames x5
    exact loopIns_keeps h1

theorem effLoopi_keeps {r s} {a0 a1} (h : Keeps r s) : Keeps r (effLoopi a0 a1 s) := by
  unfold effLoopi
  refine seqIns_keeps ?_ ?_
  · exact h
  · intro y2 y3 y4 h1
    exact loopIns_keeps h1

theorem effLexit_keeps {r s} {a0 a1} (h : Keeps r s) : Keeps r (effLexit a0 a1 s) := by
  unfold effLexit
  refine seqIns_keeps h (fun cl w s h => ?_)
  extract_lets k
  have hk : Inv r → k.loops.length ≤ 4 := fun hc => (h.clu hc).loops
  split
  · rename_i e
    rw [e] at hk
    exact keeps_ite (goOn_keeps h (fun hc => resumeAt_le (Nat.le_of_succ_le (hk hc)))) (goNext_keeps (skipIns_keeps h))
  · exact goNext_keeps (skipIns_keeps h)

end Sys2Proof.Machine
end

