-- ==== Sys2Proof/Laws/KeepsNvme.lean ====
section
/-! SUPPORT. KeepsNvme: what the functions of Machine/Nvme.lean keep. -/

namespace Sys2Proof.Machine

theorem setNvCtrl_keeps {r s} {a1 a2} (h : Keeps r s) : Keeps r (setNvCtrl s a1 a2) := by
  unfold setNvCtrl
  refine keeps_frame ?_
  exact h

theorem nvInit_keeps {r s} {a0} (h : Keeps r s) : Keeps r (nvInit a0 s) := by
  unfold nvInit
  extract_lets -merge -underBinder +onlyGivenNames x1
  extract_lets -merge -underBinder +onlyGivenNames x2
  extract_lets -merge -underBinder +onlyGivenNames x3
  have h4 : Keeps r x3 := by
    refine keeps_foldl (fun s5 x6 h7 => ?_) ?_
    · exact emit_keeps h7
    · exact h
  clear_value x3
  exact setNvCtrl_keeps h4

theorem nvSend_keeps {r s} {a1} (h : Keeps r s) : Keeps r (nvSend s a1) := by
  unfold nvSend
  refine keeps_ite ?_ ?_
  · refine emit_keeps ?_
    refine keeps_frame ?_
    exact h
  · exact h

theorem nvAbort_keeps {r s} {a1} (h : Keeps r s) : Keeps r (nvAbort s a1) := by
  unfold nvAbort
  refine keeps_ite ?_ ?_
  · refine emit_keeps ?_
    refine keeps_frame ?_
    exact h
  · exact h

theorem nvPump_keeps {r s} (h : Keeps r s) : Keeps r (nvPump s) := by
  unfold nvPump
  extract_lets -merge -underBinder +onlyGivenNames x1
  have h2 : Keeps r x1 := by
    refine keeps_foldl (fun s3 x4 h5 => ?_) ?_
    · exact nvAbort_keeps h5
    · exact h
  clear_value x1
  refine keeps_foldl (fun s6 x7 h8 => ?_) ?_
  · exact nvSend_keeps h8
  · exact h2

theorem nvAccept_keeps {r s n a1 a2 a3 a4 a5 a6 a7 a8 a9} (h : Keeps r s) :
    Keeps r (nvAccept n a1 a2 a3 a4 a5 a6 a7 a8 a9 s) := by
  induction n generalizing a5 a6 a7 a8 a9 s with
  | zero => exact h
  | succ n ih => exact keeps_ite h (ih (keeps_frame h))

theorem nvTransfer_keeps {r s} {a0 a1 a2 a3 a4 a5 a6 a7} (h : Keeps r s) : Keeps r (nvTransfer a0 a1 a2 a3 a4 a5 a6 a7 s) := by
  unfold nvTransfer
  exact nvPump_keeps (nvAccept_keeps h)

theorem nvDone_keeps {r s} {a0} (h : Keeps r s) : Keeps r (nvDone a0 s) := by
  unfold nvDone
  refine keeps_frame ?_
  exact h

end Sys2Proof.Machine
end

