-- ==== Sys2Proof/Laws/KeepsLedger.lean ====
section
/-! SUPPORT. KeepsLedger: what the functions of Machine/Ledger.lean keep. -/

namespace Sys2Proof.Machine

theorem readList_keeps {r s} {a0 a1 a2} (h : Keeps r s) : Keeps r (readList a0 a1 a2 s).2 := by
  unfold readList
  split
  · exact h
  · extract_lets -merge -underBinder +onlyGivenNames x1
    have h2 : Keeps r x1.2 := readStruct_keeps h
    clear_value x1
    exact h2

theorem haltEph_keeps {r s} {a0 a1 a2 a3} (h : Keeps r s) : Keeps r (haltEph a0 a1 a2 a3 s) := by
  unfold haltEph
  extract_lets -merge -underBinder +onlyGivenNames x1
  split
  · exact h
  · extract_lets -merge -underBinder +onlyGivenNames x2
    have h3 : Keeps r x2 := setDie_keeps h
    clear_value x2
    refine keeps_foldl (fun s4 x5 h6 => ?_) ?_
    · extract_lets -merge -underBinder +onlyGivenNames x7
      refine keeps_ite ?_ ?_
      · exact trap_keeps h6
      · exact h6
    · exact h3

theorem ephEnd_keeps {r s} {a0 a1 a2 a3} (h : Keeps r s) : Keeps r (ephEnd a0 a1 a2 a3 s) := by
  unfold ephEnd
  extract_lets -merge -underBinder +onlyGivenNames x1
  split
  · exact h
  · refine keeps_ite ?_ ?_
    · exact setDie_keeps h
    · refine keeps_ite ?_ ?_
      · exact h
      · exact haltEph_keeps h

theorem tmoveEnd_keeps {r s} {a0 a1 a2 a3 a4} (h : Keeps r s) : Keeps r (tmoveEnd a0 a1 a2 a3 a4 s) := by
  unfold tmoveEnd
  extract_lets -merge -underBinder +onlyGivenNames x1
  extract_lets -merge -underBinder +onlyGivenNames x2
  split
  · exact h
  · extract_lets -merge -underBinder +onlyGivenNames x3
    extract_lets -merge -underBinder +onlyGivenNames x4
    extract_lets -merge -underBinder +onlyGivenNames x5
    extract_lets -merge -underBinder +onlyGivenNames x6 x8
    have h7 : Keeps r x6 := setDie_keeps h
    clear_value x6
    have h9 : Keeps r x8 := by
      refine keeps_ite ?_ ?_
      · refine keeps_ite ?_ ?_
        · exact laneCut_keeps h7
        · exact laneDone_keeps h7
      · exact setDie_keeps h
    clear_value x8
    refine keeps_ite ?_ ?_
    · exact h9
    · unfold x5
      split
      · exact trap_keeps h9
      · exact h9

theorem tileMoveEnd_keeps {r s} {a0 a1 a2 a3 a4} (h : Keeps r s) : Keeps r (tileMoveEnd a0 a1 a2 a3 a4 s) := by
  unfold tileMoveEnd
  split
  · exact h
  · split
    · extract_lets -merge -underBinder +onlyGivenNames x1
      have h2 : Keeps r x1 := by
        refine keeps_ite ?_ ?_
        · exact h
        · exact record_keeps h
      clear_value x1
      extract_lets -merge -underBinder +onlyGivenNames x3
      refine keeps_ite ?_ ?_
      · exact completeCmd_keeps h2
      · exact setWork_keeps h2
    · exact h

theorem endReq_keeps {r s} {a0 a1} (h : Keeps r s) : Keeps r (endReq a0 a1 s) := by
  unfold endReq
  split
  · exact ephEnd_keeps h
  · exact tmoveEnd_keeps h
  · exact tileMoveEnd_keeps h
  · exact h

theorem endReqs_keeps {r s} {a0 a1} (h : Keeps r s) : Keeps r (endReqs a0 a1 s) := by
  unfold endReqs
  refine keeps_foldl (fun s1 x2 h3 => ?_) ?_
  · exact endReq_keeps h3
  · exact h

theorem setEntry_keeps {r s} {a0 a1} (h : Keeps r s) : Keeps r (setEntry a0 a1 s) := by
  unfold setEntry
  extract_lets -merge -underBinder +onlyGivenNames x1
  exact setDie_keeps h

theorem delEntry_keeps {r s} {a0 a1} (h : Keeps r s) : Keeps r (delEntry a0 a1 s) := by
  unfold delEntry
  extract_lets -merge -underBinder +onlyGivenNames x1
  extract_lets -merge -underBinder +onlyGivenNames x2
  have h3 : Keeps r x2 := setDie_keeps h
  clear_value x2
  extract_lets -merge -underBinder +onlyGivenNames x4
  have h5 : Keeps r x4 := by
    refine keeps_frame ?_
    exact h3
  clear_value x4
  refine keeps_frame ?_
  exact h5

theorem addEntry_keeps {r s} {a0 a1} (h : Keeps r s) : Keeps r (addEntry a0 a1 s) := by
  unfold addEntry
  extract_lets -merge -underBinder +onlyGivenNames x1
  exact setDie_keeps h

theorem makeRoom_keeps {r s n a1 a2 a3} (h : Keeps r s) : OKeeps r (makeRoom n a1 a2 a3 s) := by
  induction n generalizing s with
  | zero => exact okeeps_ite (okeeps_some h) okeeps_none
  | succ n ih =>
    refine okeeps_ite (okeeps_some h) ?_
    split
    · exact ih (delEntry_keeps h)
    · exact okeeps_none

theorem roomFor_keeps {r s} {a0 a1 a2} (h : Keeps r s) : OKeeps r (roomFor a0 a1 a2 s) := by
  unfold roomFor
  exact makeRoom_keeps h

theorem scrambleDest_keeps {r s} {a0 a1} (h : Keeps r s) : Keeps r (scrambleDest a0 a1 s) := by
  unfold scrambleDest
  split
  · rename_i s1 e2
    have h3 : Keeps r s1 := by
      refine keeps_snd e2 ?_
      exact drawBytes_keeps h
    split
    · rename_i s4 e5
      have h6 : Keeps r s4 := by
        refine keeps_snd e5 ?_
        exact drawBytes_keeps h3
      extract_lets -merge -underBinder +onlyGivenNames x7
      extract_lets -merge -underBinder +onlyGivenNames x8
      extract_lets -merge -underBinder +onlyGivenNames x9
      split
      · refine keeps_foldl (fun s10 x11 h12 => ?_) ?_
        · split
          · refine setCore_keeps ?_ ?_
            · exact h12
            · intro hc
              refine spadOk_foldl (fun k13 x14 h15 => ?_) ?_
              · refine spadWrite_ok ?_
                exact (fun _ => h15) hc
              · exact (h12.inv hc).spad _
          · exact h12
        · exact h6
      · refine setCl_keeps ?_ ?_
        · exact h6
        · intro hc
          refine cluOk_foldl (fun k16 x17 h18 => ?_) ?_
          · refine plateLine_ok ?_
            exact (fun _ => h18) hc
          · exact (h6.inv hc).clu _
      · refine keeps_foldl (fun s19 x20 h21 => ?_) ?_
        · split
          · rename_i s22 e23
            have h24 : Keeps r s22 := by
              refine keeps_snd e23 ?_
              exact drawWord_keeps h21
            extract_lets -merge -underBinder +onlyGivenNames x25
            refine queueWrite_keeps ?_
            refine keeps_hbm ?_ ?_
            · exact h24
            · exact fun hc => by exact Mem.wf_writes _ _ (h24.inv hc).hbm
        · exact h6

theorem dropRead_keeps {r s} {a0 a1} (h : Keeps r s) : Keeps r (dropRead a0 a1 s) := by
  unfold dropRead
  split
  · exact setEntry_keeps h
  · exact h

theorem failEntry'_keeps {r s n a1 a2 a3} (h : Keeps r s) : Keeps r (failEntry' n a1 a2 a3 s) := by
  induction n generalizing a1 a2 a3 s with
  | zero => exact h
  | succ n ih =>
    unfold failEntry'
    split
    · exact h
    · extract_lets rs s1 s2 s3
      have h1 : Keeps r s1 := by
        unfold s1
        split
        · exact dropRead_keeps h
        · exact h
      clear_value s1
      have h2 : Keeps r s2 := keeps_ite (scrambleDest_keeps h1) h1
      clear_value s2
      exact keeps_foldl (fun _ _ h' => ih h') (endReqs_keeps (delEntry_keeps h2))

theorem failTile_keeps {r s} {a0 a1 a2} (h : Keeps r s) : Keeps r (failTile a0 a1 a2 s) := by
  unfold failTile
  exact failEntry'_keeps h

theorem takeSource_keeps {r s} {a0 a1 a2} (h : Keeps r s) : Keeps r (takeSource a0 a1 a2 s).2 := by
  unfold takeSource
  extract_lets -merge -underBinder +onlyGivenNames x1
  split
  · exact setEntry_keeps (setDie_keeps h)
  · extract_lets -merge -underBinder +onlyGivenNames x2 x3
    exact addEntry_keeps h

theorem readImage_keeps {r s} {a0 a1 a2} (h : Keeps r s) : Keeps r (readImage a0 a1 a2 s) := by
  unfold readImage
  exact nvTransfer_keeps h

theorem onCopy_keeps {r s} {a0 a1 a2} (h : Keeps r s) : Keeps r (onCopy a0 a1 a2 s) := by
  unfold onCopy
  extract_lets -merge -underBinder +onlyGivenNames x1
  extract_lets -merge -underBinder +onlyGivenNames x2
  have h3 : Keeps r x2 := setDie_keeps h
  clear_value x2
  extract_lets -merge -underBinder +onlyGivenNames x4
  extract_lets -merge -underBinder +onlyGivenNames x5
  refine keeps_ite ?_ ?_
  · refine keeps_ite ?_ ?_
    · exact endReq_keeps h3
    · exact endReq_keeps (setEntry_keeps h3)
  · refine keeps_ite ?_ ?_
    · extract_lets -merge -underBinder +onlyGivenNames x6
      split
      · exact setEntry_keeps h3
      · exact endReq_keeps (setEntry_keeps h3)
      · extract_lets -merge -underBinder +onlyGivenNames x7
        exact endReq_keeps (endReqs_keeps (setEntry_keeps h3))
      · extract_lets -merge -underBinder +onlyGivenNames x8
        extract_lets -merge -underBinder +onlyGivenNames x9
        refine keeps_ite ?_ ?_
        · exact endReqs_keeps (setEntry_keeps h3)
        · exact endReq_keeps (endReqs_keeps (setEntry_keeps h3))
    · extract_lets -merge -underBinder +onlyGivenNames x10
      split
      · refine keeps_ite ?_ ?_
        · exact setEntry_keeps h3
        · exact setEntry_keeps h3
      · refine keeps_ite ?_ ?_
        · exact setEntry_keeps h3
        · refine keeps_ite ?_ ?_
          · refine keeps_ite ?_ ?_
            · exact setEntry_keeps h3
            · exact endReq_keeps (delEntry_keeps h3)
          · exact setEntry_keeps h3
      · exact setEntry_keeps h3
      · exact setEntry_keeps h3

theorem startPromote_keeps {r s} {d t full q} (h : Keeps r s) : ∀ u, startPromote d t full q s = .ok u → Keeps r u := by
  intro u
  unfold startPromote
  extract_lets -merge -underBinder +onlyGivenNames x ovl
  split
  · exact fun e => nomatch e
  · extract_lets -merge -underBinder +onlyGivenNames st home copy isLocal
    clear_value isLocal copy
    split
    · exact fun e => Tried.ok.inj e ▸ endReq_keeps h
    · split
      · exact fun e => Tried.ok.inj e ▸ endReq_keeps h
      · split
        · exact fun e => nomatch e
        · extract_lets -merge -underBinder +onlyGivenNames s1 s2
          have h1 : Keeps r s1 := keeps_foldl (fun _ _ h => delEntry_keeps h) h
          clear_value s1
          have h2 : Keeps r s2 := keeps_ite (takeSource_keeps h1) h1
          clear_value s2
          split
          · exact fun e => nomatch e
          · rename_i s3 e3
            have h3 : Keeps r s3 := roomFor_keeps h2 _ e3
            extract_lets -merge -underBinder +onlyGivenNames p s4
            have h4 : Keeps r s4 := by
              unfold s4 p
              split
              · exact h3
              · split
                · exact takeSource_keeps h3
                · exact h3
            clear_value s4
            extract_lets -merge -underBinder +onlyGivenNames y e
            split
            · exact fun e => Tried.ok.inj e ▸ addEntry_keeps h4
            · split
              · exact fun e => Tried.ok.inj e ▸ addEntry_keeps h4
              · exact fun e => Tried.ok.inj e ▸ setDie_keeps (addEntry_keeps h4)

theorem startDrain_keeps {r s} {d t q} (h : Keeps r s) : ∀ u, startDrain d t q s = .ok u → Keeps r u := by
  intro u
  unfold startDrain
  split
  · exact fun e => nomatch e
  · rename_i e1
    exact fun e => Tried.ok.inj e ▸ addEntry_keeps (roomFor_keeps h _ e1)

theorem tryReq_keeps {r s} {d full q} (h : Keeps r s) : ∀ u, tryReq d full q s = .ok u → Keeps r u := by
  intro u
  unfold tryReq
  extract_lets t x
  split
  · split
    · exact startPromote_keeps h u
    · exact startDrain_keeps h u
  · split
    · split
      · exact fun e => Tried.ok.inj e ▸ onCopy_keeps h
      · exact fun e => Tried.ok.inj e ▸ endReq_keeps h
    · split
      · exact startPromote_keeps h u
      · split
        · exact fun e => Tried.ok.inj e ▸ endReq_keeps h
        · split
          · exact fun e => Tried.ok.inj e ▸ endReq_keeps h
          · exact startDrain_keeps h u

theorem reqArrives_keeps {r s} {a0 a1} (h : Keeps r s) : Keeps r (reqArrives a0 a1 s) := by
  unfold reqArrives
  extract_lets l x
  refine keeps_ite (setDie_keeps h) ?_
  split
  · rename_i e
    exact tryReq_keeps h _ e
  · exact setDie_keeps h
  · exact setDie_keeps h

theorem acceptRecord_keeps {r s} {a0 a1 a2 a3 a4 a5} (h : Keeps r s) : Keeps r (acceptRecord a0 a1 a2 a3 a4 a5 s) := by
  unfold acceptRecord
  split
  · exact endReq_keeps h
  · extract_lets -merge -underBinder +onlyGivenNames x1
    extract_lets -merge -underBinder +onlyGivenNames x2
    extract_lets -merge -underBinder +onlyGivenNames x3
    refine keeps_ite ?_ ?_
    · exact endReq_keeps h
    · refine keeps_ite ?_ ?_
      · exact endReq_keeps h
      · refine keeps_ite ?_ ?_
        · exact endReq_keeps h
        · refine keeps_ite ?_ ?_
          · exact endReq_keeps h
          · exact reqArrives_keeps h

theorem stageOne_keeps {r} {d i} {a : Bool × State} (h : Keeps r a.2) : Keeps r (stageOne d a i).2 := by
  unfold stageOne
  split
  · exact h
  · split
    · exact h
    · split
      · exact keeps_ite (readImage_keeps (setEntry_keeps h)) (setEntry_keeps h)
      · exact h

theorem stageDie_keeps {r s} {a0} (h : Keeps r s) : Keeps r (stageDie a0 s) := by
  have hl : ∀ (l : List Nat) (a : Bool × State), Keeps r a.2 → Keeps r (l.foldl (stageOne a0) a).2 := by
    intro l
    induction l with
    | nil => exact fun _ h => h
    | cons i l ih => exact fun a h => ih _ (stageOne_keeps h)
  exact hl _ (false, s) h

theorem settleEntry_keeps {r s} {a0 a1} (h : Keeps r s) : Keeps r (settleEntry a0 a1 s) := by
  unfold settleEntry
  split
  · exact h
  · refine keeps_ite ?_ ?_
    · split
      · exact endReqs_keeps (setEntry_keeps h)
      · exact endReqs_keeps (delEntry_keeps h)
    · refine keeps_ite ?_ ?_
      · exact delEntry_keeps h
      · exact h

theorem retryWaiting_keeps {r s a l k} (h : Keeps r s) : Keeps r (retryWaiting a l k s).2 := by
  induction l generalizing k s with
  | nil => exact h
  | cons r l ih =>
    unfold retryWaiting
    split
    · exact ih h
    · split
      · rename_i e
        exact ih (tryReq_keeps h _ e)
      · exact ih h
      · exact ih h

theorem ledgerPass_keeps {r s} {a1} (h : Keeps r s) : Keeps r (ledgerPass s a1) := by
  unfold ledgerPass
  extract_lets -merge -underBinder +onlyGivenNames x1
  have h2 : Keeps r x1 := stageDie_keeps h
  clear_value x1
  extract_lets -merge -underBinder +onlyGivenNames x3
  have h4 : Keeps r x3 := by
    refine keeps_foldl (fun s5 x6 h7 => ?_) ?_
    · exact settleEntry_keeps h7
    · exact h2
  clear_value x3
  extract_lets -merge -underBinder +onlyGivenNames x8
  extract_lets -merge -underBinder +onlyGivenNames x9 x10
  have h11 : Keeps r x10.2 := retryWaiting_keeps (setDie_keeps h4)
  clear_value x10
  exact setDie_keeps h11

theorem ledgerGo_keeps {r s} (h : Keeps r s) : Keeps r (ledgerGo s) := by
  unfold ledgerGo
  extract_lets -merge -underBinder +onlyGivenNames x1
  refine keeps_foldl (fun s2 x3 h4 => ?_) ?_
  · refine keeps_foldl (fun s5 x6 h7 => ?_) ?_
    · exact ledgerPass_keeps h7
    · exact h4
  · exact h

end Sys2Proof.Machine
end

