-- ==== Sys2Proof/Laws/KeepsLanes.lean ====
section
/-! SUPPORT. KeepsLanes: what the functions of Machine/Lanes.lean keep. -/

namespace Sys2Proof.Machine

theorem enqueue_keeps {r s a0 a1} (h : Keeps r s) : Keeps r (enqueue a0 a1 s) := by
  unfold enqueue
  split
  · exact h
  · exact setCore_keeps h (fun hc => spadOk_foldl (fun _ _ hk => setQueue_ok hk) ((h.inv hc).spad _))

theorem armTV_keeps {r s} {a0 a1} (h : Keeps r s) : Keeps r (armTV a0 a1 s) := by
  unfold armTV
  refine keeps_ite ?_ ?_
  · exact setTok_keeps h
  · exact h

theorem freeLeft_keeps {r s} {a0 a1} (h : Keeps r s) : Keeps r (freeLeft a0 a1 s) := by
  unfold freeLeft
  refine keeps_ite ?_ ?_
  · refine keeps_foldl (fun s1 x2 h3 => ?_) ?_
    · extract_lets -merge -underBinder +onlyGivenNames x4
      extract_lets -merge -underBinder +onlyGivenNames x5
      extract_lets -merge -underBinder +onlyGivenNames x6
      extract_lets -merge -underBinder +onlyGivenNames x7
      have h8 : Keeps r x7 := by
        refine setCore_keeps ?_ ?_
        · exact h3
        · exact fun hc => (h3.inv hc).spad _
      clear_value x7
      refine keeps_foldl (fun s9 x10 h11 => ?_) ?_
      · exact laneDone_keeps h11
      · exact h8
    · exact h
  · exact h

theorem endsEmpty_keeps {r s} {a0 a1 a2} (h : Keeps r s) : Keeps r (endsEmpty a0 a1 a2 s) := by
  unfold endsEmpty
  extract_lets -merge -underBinder +onlyGivenNames x1
  refine keeps_ite ?_ ?_
  · refine freeLeft_keeps ?_
    refine setCl_keeps ?_ ?_
    · exact h
    · exact fun hc => ⟨((h.inv hc).clu _).imem, ((h.inv hc).clu _).plates, ((h.inv hc).clu _).pc, ((h.inv hc).clu _).loops⟩
  · exact h

theorem issueLanes_keeps {r s} {a0 a1 a2 a3 a4} (h : Keeps r s) : Keeps r (issueLanes a0 a1 a2 a3 a4 s) := by
  unfold issueLanes
  refine keeps_ite ?_ ?_
  · extract_lets -merge -underBinder +onlyGivenNames x1
    extract_lets -merge -underBinder +onlyGivenNames x2
    extract_lets -merge -underBinder +onlyGivenNames x3
    extract_lets -merge -underBinder +onlyGivenNames x4
    extract_lets -merge -underBinder +onlyGivenNames x5
    refine issueWith_keeps ?_ ?_
    · exact h
    · intro y7 h6
      refine keeps_ite ?_ ?_
      · exact hold_keeps h6
      · extract_lets -merge -underBinder +onlyGivenNames x8
        extract_lets -merge -underBinder +onlyGivenNames x9
        have h10 : Keeps r x9 := by
          refine setCl_keeps ?_ ?_
          · exact h6
          · intro hc
            refine cluOk_ite ?_ ?_
            · refine chainAfter_ok ?_
              exact (h6.inv hc).clu _
            · exact (h6.inv hc).clu _
        clear_value x9
        extract_lets -merge -underBinder +onlyGivenNames x11
        have h12 : Keeps r x11 := armTV_keeps h10
        clear_value x11
        refine keeps_ite ?_ ?_
        · refine goNext_keeps ?_
          refine endsEmpty_keeps ?_
          refine keeps_ite ?_ ?_
          · exact postTok_keeps h12
          · exact h12
        · extract_lets -merge -underBinder +onlyGivenNames x13
          have h14 : Keeps r x13 := by
            refine keeps_foldl (fun s15 x16 h17 => ?_) ?_
            · exact enqueue_keeps h17
            · exact h12
          clear_value x13
          extract_lets -merge -underBinder +onlyGivenNames x18
          extract_lets -merge -underBinder +onlyGivenNames x19
          refine goNext_keeps ?_
          extract_lets -merge -underBinder +onlyGivenNames x20
          have h21 : Keeps r x20 := by
            refine setCl_keeps ?_ ?_
            · exact h14
            · exact fun hc => ⟨((h14.inv hc).clu _).imem, ((h14.inv hc).clu _).plates, ((h14.inv hc).clu _).pc, ((h14.inv hc).clu _).loops⟩
          clear_value x20
          refine keeps_frame ?_
          exact h21
  · exact h

theorem effTload_keeps {r s} {a0} (h : Keeps r s) : Keeps r (effTload a0 s) := by
  unfold effTload
  exact issueLanes_keeps h

theorem effTstore_keeps {r s} {a0} (h : Keeps r s) : Keeps r (effTstore a0 s) := by
  unfold effTstore
  exact issueLanes_keeps h

theorem effMma_keeps {r s} {a0} (h : Keeps r s) : Keeps r (effMma a0 s) := by
  unfold effMma
  exact issueLanes_keeps h

theorem effMma2_keeps {r s} {a0} (h : Keeps r s) : Keeps r (effMma2 a0 s) := by
  unfold effMma2
  exact issueLanes_keeps h

theorem effVcfg_keeps {r s} {a0} (h : Keeps r s) : Keeps r (effVcfg a0 s) := by
  unfold effVcfg
  exact issueLanes_keeps h

theorem effVec_keeps {r s} {a0 a1} (h : Keeps r s) : Keeps r (effVec a0 a1 s) := by
  unfold effVec
  exact issueLanes_keeps h

theorem failCore_keeps {r s} {a0} (h : Keeps r s) : Keeps r (failCore a0 s) := by
  unfold failCore
  extract_lets -merge -underBinder +onlyGivenNames x1
  extract_lets -merge -underBinder +onlyGivenNames x2
  extract_lets -merge -underBinder +onlyGivenNames x3
  refine keeps_ite ?_ ?_
  · exact h
  · extract_lets -merge -underBinder +onlyGivenNames x4
    have h5 : Keeps r x4 := by
      refine setCl_keeps ?_ ?_
      · refine setCore_keeps ?_ ?_
        · exact h
        · exact fun hc => (h.inv hc).spad _
      · exact fun hc => ⟨((h.inv hc).clu _).imem, ((h.inv hc).clu _).plates, ((h.inv hc).clu _).pc, ((h.inv hc).clu _).loops⟩
    clear_value x4
    refine keeps_ite ?_ ?_
    · exact h5
    · split
      · exact trap_keeps h5
      · exact h5

theorem spadError_keeps {r s} {a0 a1 a2} (h : Keeps r s) (g3 : ∀ t, Keeps r t → Keeps r (a2 t)) : Keeps r (spadError a0 a1 a2 s) := by
  unfold spadError
  extract_lets -merge -underBinder +onlyGivenNames x1
  extract_lets -merge -underBinder +onlyGivenNames x2
  extract_lets -merge -underBinder +onlyGivenNames x3
  have h4 : Keeps r x3 := by
    refine setCore_keeps ?_ ?_
    · exact h
    · exact fun hc => (h.inv hc).spad _
  clear_value x3
  extract_lets -merge -underBinder +onlyGivenNames x5
  have h6 : Keeps r x5 := record_keeps h4
  clear_value x5
  extract_lets -merge -underBinder +onlyGivenNames x7
  have h8 : Keeps r x7 := by
    refine g3 _ ?_
    exact h6
  clear_value x7
  refine keeps_ite ?_ ?_
  · refine failCore_keeps ?_
    refine setCore_keeps ?_ ?_
    · exact h8
    · intro hc
      extract_lets -merge -underBinder +onlyGivenNames x9
      exact (h8.inv hc).spad _
  · exact h8

theorem spadTrap_keeps {r s} {a0 a1 a2 a3} (h : Keeps r s) : Keeps r (spadTrap a0 a1 a2 a3 s) := by
  unfold spadTrap
  refine spadError_keeps ?_ ?_
  · exact h
  · intro y2 h1
    exact trap_keeps (laneCut_keeps h1)

theorem effLaneInstructionStart_keeps {r s} {a0 a1 a2} (h : Keeps r s) : Keeps r (effLaneInstructionStart a0 a1 a2 s) := by
  unfold effLaneInstructionStart
  extract_lets -merge -underBinder +onlyGivenNames x1
  extract_lets -merge -underBinder +onlyGivenNames x2
  split
  · exact h
  · extract_lets -merge -underBinder +onlyGivenNames x3
    refine keeps_ite ?_ ?_
    · exact h
    · extract_lets -merge -underBinder +onlyGivenNames x4
      extract_lets -merge -underBinder +onlyGivenNames x5
      have h6 : Inv r → x5.mem.wf = true := by
        intro hc
        refine takeQ_ok ?_
        refine spadOk_ite ?_ ?_
        · exact (h.inv hc).spad _
        · refine upsetSpad_ok ?_
          exact (h.inv hc).spad _
      extract_lets -merge -underBinder +onlyGivenNames x7
      have h8 : Keeps r x7 := by
        refine setCore_keeps ?_ ?_
        · exact h
        · exact fun hc => h6 hc
      clear_value x7
      extract_lets -merge -underBinder +onlyGivenNames x9
      have h10 : Keeps r x9 := by
        refine keeps_ite ?_ ?_
        · refine setCl_keeps ?_ ?_
          · exact h8
          · intro hc
            refine upsetPlates_ok ?_
            exact (h8.inv hc).clu _
        · exact h8
      clear_value x9
      extract_lets -merge -underBinder +onlyGivenNames x11
      extract_lets -merge -underBinder +onlyGivenNames x12
      split
      · exact spadTrap_keeps h10
      · split
        · exact plateTrap_keeps (laneCut_keeps h10)
        · extract_lets -merge -underBinder +onlyGivenNames x13
          extract_lets -merge -underBinder +onlyGivenNames x14
          extract_lets -merge -underBinder +onlyGivenNames x15
          extract_lets -merge -underBinder +onlyGivenNames x16
          have h17 : Inv r → x16.mem.wf = true := by
            intro hc
            refine setRuns_ok ?_
            exact h6 hc
          extract_lets -merge -underBinder +onlyGivenNames x18
          have h19 : Inv r → x18.mem.wf = true := by
            intro hc
            refine spadOk_ite ?_ ?_
            · exact h17 hc
            · refine spadOk_ite ?_ ?_
              · exact h17 hc
              · exact h17 hc
          refine setCore_keeps ?_ ?_
          · exact h10
          · exact fun hc => h19 hc

theorem undefTiles_keeps {r s} {a0 a1} (h : Keeps r s) : Keeps r (undefTiles a0 a1 s) := by
  unfold undefTiles
  refine keeps_foldl (fun s1 x2 h3 => ?_) ?_
  · refine keeps_ite ?_ ?_
    · exact h3
    · refine keeps_foldl (fun s4 x5 h6 => ?_) ?_
      · split
        · rename_i s7 e8
          have h9 : Keeps r s7 := by
            refine keeps_snd e8 ?_
            exact drawBytes_keeps h6
          refine setCore_keeps ?_ ?_
          · exact h9
          · intro hc
            refine spadWrite_ok ?_
            exact (h9.inv hc).spad _
      · exact h3
  · exact h

theorem effOverflowReplay_keeps {r s} {a0 a1 a2} (h : Keeps r s) : Keeps r (effOverflowReplay a0 a1 a2 s) := by
  unfold effOverflowReplay
  extract_lets -merge -underBinder +onlyGivenNames x1
  extract_lets -merge -underBinder +onlyGivenNames x2
  split
  · exact h
  · extract_lets -merge -underBinder +onlyGivenNames x3
    extract_lets -merge -underBinder +onlyGivenNames x4
    refine keeps_ite ?_ ?_
    · extract_lets -merge -underBinder +onlyGivenNames x5
      have h6 : Keeps r x5 := by
        refine undefTiles_keeps ?_
        refine setCore_keeps ?_ ?_
        · exact h
        · intro hc
          refine dropRun_ok ?_
          exact (h.inv hc).spad _
      clear_value x5
      exact trap_keeps (laneCut_keeps h6)
    · split
      · extract_lets -merge -underBinder +onlyGivenNames x7
        have h8 : Inv r → x7.mem.wf = true := by
          intro hc
          refine startSpad_ok ?_
          exact (h.inv hc).spad _
        extract_lets -merge -underBinder +onlyGivenNames x9
        extract_lets -merge -underBinder +onlyGivenNames x10
        have h11 : Inv r → x10.mem.wf = true := by
          intro hc
          refine mapRun_ok ?_
          exact (h.inv hc).spad _
        extract_lets -merge -underBinder +onlyGivenNames x12
        refine setCl_keeps ?_ ?_
        · refine setCore_keeps ?_ ?_
          · exact h
          · exact fun hc => h11 hc
        · exact fun hc => ⟨((h.inv hc).clu _).imem, ((h.inv hc).clu _).plates, ((h.inv hc).clu _).pc, ((h.inv hc).clu _).loops⟩

theorem releaseIns_keeps {r s} {a0 a1 a2} (h : Keeps r s) : Keeps r (releaseIns a0 a1 a2 s) := by
  unfold releaseIns
  extract_lets -merge -underBinder +onlyGivenNames x1
  have h2 : Keeps r x1 := by
    refine keeps_foldl (fun s3 x4 h5 => ?_) ?_
    · exact laneDone_keeps h5
    · exact h
  clear_value x1
  refine keeps_ite ?_ ?_
  · exact freeLeft_keeps h2
  · exact h2

theorem unitFailedRec_keeps {r s} {a0 a1 a2 a3} (h : Keeps r s) : Keeps r (unitFailedRec a0 a1 a2 a3 s) := by
  unfold unitFailedRec
  exact record_keeps h

theorem markCore_keeps {r s} {a0 a1 a2} (h : Keeps r s) : Keeps r (markCore a0 a1 a2 s) := by
  unfold markCore
  extract_lets -merge -underBinder +onlyGivenNames x1
  extract_lets -merge -underBinder +onlyGivenNames x2
  extract_lets -merge -underBinder +onlyGivenNames x3
  extract_lets -merge -underBinder +onlyGivenNames x4
  have h5 : Inv r → x4.mem.wf = true := by
    intro hc
    refine spadOk_ite ?_ ?_
    · exact (h.inv hc).spad _
    · exact (h.inv hc).spad _
  extract_lets -merge -underBinder +onlyGivenNames x6
  have h7 : Keeps r x6 := by
    refine setCore_keeps ?_ ?_
    · exact h
    · exact fun hc => h5 hc
  clear_value x6
  refine keeps_ite ?_ ?_
  · exact failCore_keeps (unitFailedRec_keeps h7)
  · exact h7

theorem landFail_keeps {r s} {a0 a1 a2 a3} (h : Keeps r s) : Keeps r (landFail a0 a1 a2 a3 s) := by
  unfold landFail
  extract_lets -merge -underBinder +onlyGivenNames x1
  have h2 : Keeps r x1 := record_keeps h
  clear_value x1
  exact markCore_keeps (trap_keeps (laneCut_keeps h2))

theorem countMoves_keeps {r s} {a0 a1} (h : Keeps r s) : Keeps r (countMoves a0 a1 s) := by
  unfold countMoves
  extract_lets -merge -underBinder +onlyGivenNames x1
  refine setCore_keeps ?_ ?_
  · exact h
  · exact fun hc => (h.inv hc).spad _

theorem completePlate_keeps {r s} {a0 a1 a2 a3} (h : Keeps r s) : Keeps r (completePlate a0 a1 a2 a3 s) := by
  unfold completePlate
  extract_lets -merge -underBinder +onlyGivenNames x1
  extract_lets -merge -underBinder +onlyGivenNames x2
  extract_lets -merge -underBinder +onlyGivenNames x3
  have h4 : Inv r → x3.mem.wf = true := fun hc => (h.inv hc).spad _
  extract_lets -merge -underBinder +onlyGivenNames x5
  extract_lets -merge -underBinder +onlyGivenNames x6
  have h7 : Keeps r x6 := by
    refine countMoves_keeps ?_
    refine setCore_keeps ?_ ?_
    · exact h
    · exact fun hc => h4 hc
  clear_value x6
  split
  · exact landFail_keeps h7
  · refine keeps_ite ?_ ?_
    · extract_lets -merge -underBinder +onlyGivenNames x8
      refine laneDone_keeps ?_
      refine setCl_keeps ?_ ?_
      · exact h7
      · intro hc
        refine cluOk_foldl (fun k9 x10 h11 => ?_) ?_
        · refine plateWrite_ok ?_
          exact (fun _ => h11) hc
        · exact (h7.inv hc).clu _
    · refine keeps_ite ?_ ?_
      · refine laneDone_keeps ?_
        refine setCore_keeps ?_ ?_
        · exact h7
        · intro hc
          refine spadWrites_ok ?_
          exact (h7.inv hc).spad _
      · refine setCore_keeps ?_ ?_
        · exact h7
        · intro hc
          refine enterWindow_ok ?_
          exact (h7.inv hc).spad _

theorem completeVector_keeps {r s} {a0 a1 a2 a3} (h : Keeps r s) : Keeps r (completeVector a0 a1 a2 a3 s) := by
  unfold completeVector
  extract_lets -merge -underBinder +onlyGivenNames x1
  extract_lets -merge -underBinder +onlyGivenNames x2
  extract_lets -merge -underBinder +onlyGivenNames x3
  have h4 : Inv r → x3.mem.wf = true := fun hc => (h.inv hc).spad _
  refine keeps_ite ?_ ?_
  · refine laneDone_keeps ?_
    refine setCore_keeps ?_ ?_
    · exact h
    · exact fun hc => h4 hc
  · refine keeps_ite ?_ ?_
    · refine freeLeft_keeps ?_
      refine setCore_keeps ?_ ?_
      · exact h
      · exact fun hc => h4 hc
    · extract_lets -merge -underBinder +onlyGivenNames x5
      extract_lets -merge -underBinder +onlyGivenNames x6
      have h7 : Inv r → x6.mem.wf = true := fun hc => h4 hc
      refine keeps_ite ?_ ?_
      · refine releaseIns_keeps ?_
        refine setCore_keeps ?_ ?_
        · exact h
        · intro hc
          refine addSat_ok ?_
          refine spadWrites_ok ?_
          exact h7 hc
      · refine setCore_keeps ?_ ?_
        · exact h
        · intro hc
          refine enterWindow_ok ?_
          exact h7 hc

theorem completeMatrix_keeps {r s} {a0 a1 a2 a3} (h : Keeps r s) : Keeps r (completeMatrix a0 a1 a2 a3 s) := by
  unfold completeMatrix
  extract_lets -merge -underBinder +onlyGivenNames x1
  extract_lets -merge -underBinder +onlyGivenNames x2
  have h3 : Inv r → x2.mem.wf = true := by
    intro hc
    refine dropRun_ok ?_
    exact (h.inv hc).spad _
  extract_lets -merge -underBinder +onlyGivenNames x4
  have h5 : Inv r → x4.mem.wf = true := fun hc => h3 hc
  refine setCore_keeps ?_ ?_
  · exact h
  · intro hc
    refine enterWindow_ok ?_
    exact h5 hc

theorem effLaneInstructionComplete_keeps {r s} {a0 a1 a2 a3 a4} (h : Keeps r s) : Keeps r (effLaneInstructionComplete a0 a1 a2 a3 a4 s) := by
  unfold effLaneInstructionComplete
  extract_lets -merge -underBinder +onlyGivenNames x1
  split
  · exact h
  · refine keeps_ite ?_ ?_
    · exact h
    · split
      · exact completePlate_keeps h
      · exact completeVector_keeps h
      · exact completeMatrix_keeps h

end Sys2Proof.Machine
end

