-- ==== Sys2Proof/Laws/KeepsProof.lean ====
section
/-! SUPPORT. KeepsProof: what the functions of Machine/Proof.lean keep. -/

namespace Sys2Proof.Machine

theorem falseFail_keeps {r s} {a0} (h : Keeps r s) : Keeps r (falseFail a0 s).2 := by
  unfold falseFail
  split
  · rename_i s1 e2
    have h3 : Keeps r s1 := by
      refine keeps_snd e2 ?_
      exact drawWord_keeps h
    split
    · rename_i s4 e5
      have h6 : Keeps r s4 := by
        refine keeps_snd e5 ?_
        exact drawWord_keeps h3
      extract_lets -merge -underBinder +onlyGivenNames x7
      extract_lets -merge -underBinder +onlyGivenNames x8
      extract_lets -merge -underBinder +onlyGivenNames x9
      exact h6

theorem cutAll_keeps {r s} {a0 a1} (h : Keeps r s) : Keeps r (cutAll a0 a1 s) := by
  unfold cutAll
  refine keeps_foldl (fun s1 x2 h3 => ?_) ?_
  · exact laneCut_keeps h3
  · exact h

theorem failEntry_keeps {r s} {a0 a1 a2 a3} (h : Keeps r s) : Keeps r (failEntry a0 a1 a2 a3 s) := by
  unfold failEntry
  extract_lets -merge -underBinder +onlyGivenNames x1
  extract_lets -merge -underBinder +onlyGivenNames x2
  extract_lets -merge -underBinder +onlyGivenNames x3
  extract_lets -merge -underBinder +onlyGivenNames x4
  extract_lets -merge -underBinder +onlyGivenNames x5
  extract_lets -merge -underBinder +onlyGivenNames x6
  extract_lets -merge -underBinder +onlyGivenNames x7
  extract_lets -merge -underBinder +onlyGivenNames x8
  extract_lets -merge -underBinder +onlyGivenNames x9
  extract_lets -merge -underBinder +onlyGivenNames x10
  extract_lets -merge -underBinder +onlyGivenNames x11
  extract_lets -merge -underBinder +onlyGivenNames x12
  have h13 : Inv r → x12.mem.wf = true := by
    intro hc
    refine clearMarks_ok ?_
    refine undoEntries_ok ?_
    exact (h.inv hc).spad _
  extract_lets -merge -underBinder +onlyGivenNames x14
  have h15 : Inv r → x14.mem.wf = true := fun hc => h13 hc
  extract_lets -merge -underBinder +onlyGivenNames x16 x17
  have h18 : Keeps r x17 := by
    refine setCl_keeps ?_ ?_
    · exact h
    · exact fun hc => ⟨((h.inv hc).clu _).imem, ((h.inv hc).clu _).plates, ((h.inv hc).clu _).pc, ((h.inv hc).clu _).loops⟩
  clear_value x17
  refine keeps_ite ?_ ?_
  · refine cutAll_keeps ?_
    refine setCore_keeps ?_ ?_
    · exact h18
    · exact fun hc => h15 hc
  · refine setCore_keeps ?_ ?_
    · exact h18
    · intro hc
      refine requeue_ok ?_
      exact h15 hc

theorem effProofVerdict_keeps {r s} {a0 a1 a2} (h : Keeps r s) : Keeps r (effProofVerdict a0 a1 a2 s) := by
  unfold effProofVerdict
  extract_lets -merge -underBinder +onlyGivenNames x1
  split
  · exact h
  · refine keeps_ite ?_ ?_
    · exact h
    · split
      · refine setCore_keeps ?_ ?_
        · exact h
        · exact fun hc => (h.inv hc).spad _
      · refine setCore_keeps ?_ ?_
        · exact h
        · exact fun hc => (h.inv hc).spad _
      · refine keeps_ite ?_ ?_
        · exact h
        · exact failEntry_keeps h
      · refine keeps_ite ?_ ?_
        · exact h
        · split
          · rename_i s2 e3
            have h4 : Keeps r s2 := by
              refine keeps_snd e3 ?_
              exact falseFail_keeps h
            exact failEntry_keeps h4

theorem effEntryRelease_keeps {r s} {a0} (h : Keeps r s) : Keeps r (effEntryRelease a0 s) := by
  unfold effEntryRelease
  extract_lets -merge -underBinder +onlyGivenNames x1
  split
  · exact h
  · refine keeps_ite ?_ ?_
    · extract_lets -merge -underBinder +onlyGivenNames x2
      have h3 : Inv r → x2.mem.wf = true := by
        intro hc
        refine clearMarks_ok ?_
        exact (h.inv hc).spad _
      refine releaseIns_keeps ?_
      refine setCore_keeps ?_ ?_
      · exact h
      · intro hc
        refine addSat_ok ?_
        exact h3 hc
    · exact h

theorem arbRec_keeps {r s} {a0 a1 a2 a3 a4} (h : Keeps r s) : Keeps r (arbRec a0 a1 a2 a3 a4 s) := by
  unfold arbRec
  split
  · rename_i s1 e2
    have h3 : Keeps r s1 := by
      refine keeps_snd e2 ?_
      exact drawWord_keeps h
    extract_lets -merge -underBinder +onlyGivenNames x4
    exact record_keeps h3

theorem arbRelease_keeps {r s} {a0 a1 a2} (h : Keeps r s) : Keeps r (arbRelease a0 a1 a2 s) := by
  unfold arbRelease
  extract_lets -merge -underBinder +onlyGivenNames x1 x2
  have h3 : Inv r → x2.mem.wf = true := fun hc => (h.inv hc).spad _
  refine keeps_ite ?_ ?_
  · refine cutAll_keeps ?_
    refine setCore_keeps ?_ ?_
    · exact h
    · exact fun hc => h3 hc
  · refine setCore_keeps ?_ ?_
    · exact h
    · intro hc
      refine enterWindow_ok ?_
      exact h3 hc

theorem arbDiscard_keeps {r s} {a0 a1} (h : Keeps r s) : Keeps r (arbDiscard a0 a1 s) := by
  unfold arbDiscard
  refine cutAll_keeps ?_
  refine setCore_keeps ?_ ?_
  · exact h
  · intro hc
    extract_lets -merge -underBinder +onlyGivenNames x1
    exact (h.inv hc).spad _

theorem effArbitrationRepeatDone_keeps {r s} {a0 a1 a2} (h : Keeps r s) : Keeps r (effArbitrationRepeatDone a0 a1 a2 s) := by
  unfold effArbitrationRepeatDone
  extract_lets -merge -underBinder +onlyGivenNames x1
  split
  · exact h
  · refine keeps_ite ?_ ?_
    · exact h
    · extract_lets -merge -underBinder +onlyGivenNames x2
      extract_lets -merge -underBinder +onlyGivenNames x3
      extract_lets -merge -underBinder +onlyGivenNames x4
      refine keeps_ite ?_ ?_
      · extract_lets -merge -underBinder +onlyGivenNames x5
        have h6 : Keeps r x5 := by
          refine setCore_keeps ?_ ?_
          · exact h
          · exact fun hc => (h.inv hc).spad _
        clear_value x5
        exact arbRelease_keeps (arbRec_keeps h6)
      · extract_lets -merge -underBinder +onlyGivenNames x7
        refine keeps_ite ?_ ?_
        · refine setCore_keeps ?_ ?_
          · exact h
          · exact fun hc => (h.inv hc).spad _
        · exact failCore_keeps (arbDiscard_keeps (arbRec_keeps h))

theorem countMinority_keeps {r s} {a0 a1} (h : Keeps r s) : Keeps r (countMinority a0 a1 s) := by
  unfold countMinority
  extract_lets -merge -underBinder +onlyGivenNames x1
  refine setCore_keeps ?_ ?_
  · exact h
  · intro hc
    refine spadOk_ite ?_ ?_
    · exact (h.inv hc).spad _
    · exact (h.inv hc).spad _

theorem effSpareExecutionDone_keeps {r s} {a0 a1 a2} (h : Keeps r s) : Keeps r (effSpareExecutionDone a0 a1 a2 s) := by
  unfold effSpareExecutionDone
  extract_lets -merge -underBinder +onlyGivenNames x1
  split
  · exact h
  · extract_lets -merge -underBinder +onlyGivenNames x2
    refine keeps_ite ?_ ?_
    · exact h
    · extract_lets -merge -underBinder +onlyGivenNames x3
      extract_lets -merge -underBinder +onlyGivenNames x4
      extract_lets -merge -underBinder +onlyGivenNames x5
      extract_lets -merge -underBinder +onlyGivenNames x6
      refine keeps_ite ?_ ?_
      · exact arbRelease_keeps (arbRec_keeps (markCore_keeps (countMinority_keeps h)))
      · refine keeps_ite ?_ ?_
        · exact arbRelease_keeps (arbRec_keeps (markCore_keeps (countMinority_keeps h)))
        · extract_lets -merge -underBinder +onlyGivenNames x7
          extract_lets -merge -underBinder +onlyGivenNames x8
          have h9 : Keeps r x8 := markCore_keeps (countMinority_keeps h)
          clear_value x8
          extract_lets -merge -underBinder +onlyGivenNames x10 x11
          have h12 : Keeps r x11 := by
            refine setCore_keeps ?_ ?_
            · exact h9
            · exact fun hc => (h9.inv hc).spad _
          clear_value x11
          extract_lets -merge -underBinder +onlyGivenNames x13
          have h14 : Keeps r x13 := arbRec_keeps h12
          clear_value x13
          refine keeps_ite ?_ ?_
          · refine setCore_keeps ?_ ?_
            · exact h14
            · intro hc
              extract_lets -merge -underBinder +onlyGivenNames x15
              exact (h14.inv hc).spad _
          · extract_lets -merge -underBinder +onlyGivenNames x16
            have h17 : Keeps r x16 := markCore_keeps (markCore_keeps (arbDiscard_keeps h14))
            clear_value x16
            exact trap_keeps h17

theorem scrambleSpad_keeps {r s} {a0} (h : Keeps r s) : Keeps r (scrambleSpad a0 s) := by
  unfold scrambleSpad
  split
  · rename_i s1 e2
    have h3 : Keeps r s1 := by
      refine keeps_snd e2 ?_
      exact drawBytes_keeps h
    split
    · rename_i s4 e5
      have h6 : Keeps r s4 := by
        refine keeps_snd e5 ?_
        exact drawBytes_keeps h3
      extract_lets -merge -underBinder +onlyGivenNames x7
      extract_lets -merge -underBinder +onlyGivenNames x8
      extract_lets -merge -underBinder +onlyGivenNames x9
      refine setCore_keeps ?_ ?_
      · exact h6
      · intro hc
        extract_lets -merge -underBinder +onlyGivenNames x10
        refine Mem.wf_writes _ _ ?_
        exact rfl

theorem moveLane_keeps {r s} {a0 a1} (h : Keeps r s) : Keeps r (moveLane a0 a1 s) := by
  unfold moveLane
  extract_lets -merge -underBinder +onlyGivenNames x1
  extract_lets -merge -underBinder +onlyGivenNames x2 x3
  have h4 : Keeps r x3 := by
    refine setCore_keeps ?_ ?_
    · exact h
    · exact fun hc => (h.inv hc).spad _
  clear_value x3
  extract_lets -merge -underBinder +onlyGivenNames x5 x6
  have h7 : Keeps r x6 := by
    refine setCore_keeps ?_ ?_
    · exact h4
    · exact fun hc => (h4.inv hc).spad _
  clear_value x6
  refine keeps_ite ?_ ?_
  · exact scrambleSpad_keeps h7
  · exact h7

theorem retired_keeps {r s} {a0 a1 a2} (h : Keeps r s) : Keeps r (retired a0 a1 a2 s) := by
  unfold retired
  refine coreRetiredRec_keeps ?_
  refine keeps_flash ?_ ?_ ?_
  · exact h
  · exact fun hc => (h.inv hc).flash
  · exact h.lists.cores_add

theorem removeCore_keeps {r s} {a0 a1} (h : Keeps r s) : Keeps r (removeCore a0 a1 s) := by
  unfold removeCore
  extract_lets -merge -underBinder +onlyGivenNames x1
  extract_lets -merge -underBinder +onlyGivenNames x2
  refine keeps_ite ?_ ?_
  · exact h
  · refine keeps_ite ?_ ?_
    · refine retired_keeps ?_
      refine setCl_keeps ?_ ?_
      · exact h
      · exact fun hc => ⟨((h.inv hc).clu _).imem, ((h.inv hc).clu _).plates, ((h.inv hc).clu _).pc, ((h.inv hc).clu _).loops⟩
    · refine keeps_ite ?_ ?_
      · extract_lets -merge -underBinder +onlyGivenNames x3
        have h4 : Keeps r x3 := moveLane_keeps h
        clear_value x3
        refine retired_keeps ?_
        refine setCl_keeps ?_ ?_
        · exact h4
        · intro hc
          extract_lets -merge -underBinder +onlyGivenNames x5
          exact ⟨((h4.inv hc).clu _).imem, ((h4.inv hc).clu _).plates, ((h4.inv hc).clu _).pc, ((h4.inv hc).clu _).loops⟩
      · refine keeps_ite ?_ ?_
        · refine retired_keeps ?_
          refine trap_keeps ?_
          refine setCl_keeps ?_ ?_
          · exact h
          · exact fun hc => ⟨((h.inv hc).clu _).imem, ((h.inv hc).clu _).plates, ((h.inv hc).clu _).pc, ((h.inv hc).clu _).loops⟩
        · exact retired_keeps (takeOffline_keeps h)

theorem effRotationDue_keeps {r s} {a0} (h : Keeps r s) : Keeps r (effRotationDue a0 s) := by
  unfold effRotationDue
  extract_lets -merge -underBinder +onlyGivenNames x1
  refine keeps_ite ?_ ?_
  · refine setCl_keeps ?_ ?_
    · exact h
    · exact fun hc => ⟨((h.inv hc).clu _).imem, ((h.inv hc).clu _).plates, ((h.inv hc).clu _).pc, ((h.inv hc).clu _).loops⟩
  · exact h

theorem effRotationPostponed_keeps {r s} {a0} (h : Keeps r s) : Keeps r (effRotationPostponed a0 s) := by
  unfold effRotationPostponed
  extract_lets -merge -underBinder +onlyGivenNames x1
  refine keeps_ite ?_ ?_
  · refine setCl_keeps ?_ ?_
    · exact h
    · exact fun hc => ⟨((h.inv hc).clu _).imem, ((h.inv hc).clu _).plates, ((h.inv hc).clu _).pc, ((h.inv hc).clu _).loops⟩
  · exact h

theorem rotate_keeps {r s} {a0} (h : Keeps r s) : Keeps r (rotate a0 s) := by
  unfold rotate
  extract_lets -merge -underBinder +onlyGivenNames x1
  extract_lets -merge -underBinder +onlyGivenNames x2
  split
  · refine setCl_keeps ?_ ?_
    · exact h
    · exact fun hc => ⟨((h.inv hc).clu _).imem, ((h.inv hc).clu _).plates, ((h.inv hc).clu _).pc, ((h.inv hc).clu _).loops⟩
  · extract_lets -merge -underBinder +onlyGivenNames x3
    have h4 : Keeps r x3 := moveLane_keeps h
    clear_value x3
    extract_lets -merge -underBinder +onlyGivenNames x5 x6
    have h7 : Keeps r x6 := by
      refine setCl_keeps ?_ ?_
      · exact h4
      · exact fun hc => ⟨((h4.inv hc).clu _).imem, ((h4.inv hc).clu _).plates, ((h4.inv hc).clu _).pc, ((h4.inv hc).clu _).loops⟩
    clear_value x6
    refine setCore_keeps ?_ ?_
    · exact h7
    · intro hc
      extract_lets -merge -underBinder +onlyGivenNames x8
      exact (h7.inv hc).spad _

theorem effClusterIdlePoint_keeps {r s} {a0} (h : Keeps r s) : Keeps r (effClusterIdlePoint a0 s) := by
  unfold effClusterIdlePoint
  extract_lets -merge -underBinder +onlyGivenNames x1
  refine keeps_ite ?_ ?_
  · extract_lets -merge -underBinder +onlyGivenNames x2
    refine keeps_ite ?_ ?_
    · exact h
    · extract_lets -merge -underBinder +onlyGivenNames x3
      have h4 : Keeps r x3 := by
        refine keeps_foldl (fun s5 x6 h7 => ?_) ?_
        · exact removeCore_keeps h7
        · refine setCl_keeps ?_ ?_
          · exact h
          · exact fun hc => ⟨((h.inv hc).clu _).imem, ((h.inv hc).clu _).plates, ((h.inv hc).clu _).pc, ((h.inv hc).clu _).loops⟩
      clear_value x3
      refine keeps_ite ?_ ?_
      · exact rotate_keeps h4
      · refine keeps_ite ?_ ?_
        · refine setCl_keeps ?_ ?_
          · exact h4
          · intro hc
            extract_lets -merge -underBinder +onlyGivenNames x8
            exact ⟨((h4.inv hc).clu _).imem, ((h4.inv hc).clu _).plates, ((h4.inv hc).clu _).pc, ((h4.inv hc).clu _).loops⟩
        · exact h4
  · exact h

theorem effOccTestRun_keeps {r s} {a0} (h : Keeps r s) : Keeps r (effOccTestRun a0 s) := by
  unfold effOccTestRun
  refine hostAccess_keeps ?_ ?_
  · exact h
  · intro y2 h1
    extract_lets -merge -underBinder +onlyGivenNames x3
    extract_lets -merge -underBinder +onlyGivenNames x4
    extract_lets -merge -underBinder +onlyGivenNames x5
    refine keeps_ite ?_ ?_
    · refine keeps_ite ?_ ?_
      · exact h1
      · refine setCl_keeps ?_ ?_
        · refine setCore_keeps ?_ ?_
          · exact h1
          · exact fun hc => (h1.inv hc).spad _
        · exact fun hc => ⟨((h1.inv hc).clu _).imem, ((h1.inv hc).clu _).plates, ((h1.inv hc).clu _).pc, ((h1.inv hc).clu _).loops⟩
    · exact h1

theorem selfTestItem_keeps {r s} {a0 a1} (h : Keeps r s) : Keeps r (selfTestItem a0 a1 s) := by
  unfold selfTestItem
  split
  · extract_lets -merge -underBinder +onlyGivenNames x1
    extract_lets -merge -underBinder +onlyGivenNames x2
    extract_lets -merge -underBinder +onlyGivenNames x3
    have h4 : Keeps r x3 := by
      refine setCore_keeps ?_ ?_
      · exact h
      · exact fun hc => (h.inv hc).spad _
    clear_value x3
    extract_lets -merge -underBinder +onlyGivenNames x5
    have h6 : Keeps r x5 := record_keeps h4
    clear_value x5
    refine keeps_ite ?_ ?_
    · extract_lets -merge -underBinder +onlyGivenNames x7
      extract_lets -merge -underBinder +onlyGivenNames x8
      extract_lets -merge -underBinder +onlyGivenNames x9
      extract_lets -merge -underBinder +onlyGivenNames x10
      have h11 : Keeps r x10 := by
        refine keeps_ite ?_ ?_
        · refine unitFailedRec_keeps ?_
          refine setCore_keeps ?_ ?_
          · exact h6
          · exact fun hc => (h6.inv hc).spad _
        · refine keeps_ite ?_ ?_
          · refine unitFailedRec_keeps ?_
            refine setCore_keeps ?_ ?_
            · exact h6
            · exact fun hc => (h6.inv hc).spad _
          · exact h6
      clear_value x10
      exact failCore_keeps h11
    · refine keeps_ite ?_ ?_
      · exact markCore_keeps h6
      · exact h6

theorem effSelfTestEnd_keeps {r s} {a0 a1} (h : Keeps r s) : Keeps r (effSelfTestEnd a0 a1 s) := by
  unfold effSelfTestEnd
  extract_lets -merge -underBinder +onlyGivenNames x1
  extract_lets -merge -underBinder +onlyGivenNames x2
  refine keeps_ite ?_ ?_
  · extract_lets -merge -underBinder +onlyGivenNames x3
    have h4 : Keeps r x3 := by
      refine setCore_keeps ?_ ?_
      · exact h
      · exact fun hc => (h.inv hc).spad _
    clear_value x3
    extract_lets -merge -underBinder +onlyGivenNames x5 x6
    have h7 : Keeps r x6 := by
      refine scrambleSpad_keeps ?_
      refine setCl_keeps ?_ ?_
      · exact h4
      · exact fun hc => ⟨((h4.inv hc).clu _).imem, ((h4.inv hc).clu _).plates, ((h4.inv hc).clu _).pc, ((h4.inv hc).clu _).loops⟩
    clear_value x6
    extract_lets -merge -underBinder +onlyGivenNames x8
    have h9 : Keeps r x8 := by
      refine keeps_foldl (fun s10 x11 h12 => ?_) ?_
      · exact selfTestItem_keeps h12
      · exact h7
    clear_value x8
    extract_lets -merge -underBinder +onlyGivenNames x13
    refine keeps_ite ?_ ?_
    · refine removeCore_keeps ?_
      refine setCl_keeps ?_ ?_
      · exact h9
      · exact fun hc => ⟨((h9.inv hc).clu _).imem, ((h9.inv hc).clu _).plates, ((h9.inv hc).clu _).pc, ((h9.inv hc).clu _).loops⟩
    · exact h9
  · exact h

theorem effSuspectLapse_keeps {r s} {a0 a1} (h : Keeps r s) : Keeps r (effSuspectLapse a0 a1 s) := by
  unfold effSuspectLapse
  split
  · extract_lets -merge -underBinder +onlyGivenNames x1
    refine setCore_keeps ?_ ?_
    · exact h
    · exact fun hc => (h.inv hc).spad _
  · extract_lets -merge -underBinder +onlyGivenNames x2
    refine setCore_keeps ?_ ?_
    · exact h
    · exact fun hc => (h.inv hc).spad _
  · extract_lets -merge -underBinder +onlyGivenNames x3
    refine setCl_keeps ?_ ?_
    · exact h
    · intro hc
      split
      · exact ⟨((h.inv hc).clu _).imem, ((h.inv hc).clu _).plates, ((h.inv hc).clu _).pc, ((h.inv hc).clu _).loops⟩
      · exact ⟨((h.inv hc).clu _).imem, ((h.inv hc).clu _).plates, ((h.inv hc).clu _).pc, ((h.inv hc).clu _).loops⟩
      · exact ⟨((h.inv hc).clu _).imem, ((h.inv hc).clu _).plates, ((h.inv hc).clu _).pc, ((h.inv hc).clu _).loops⟩
  · extract_lets -merge -underBinder +onlyGivenNames x4
    exact setDie_keeps h
  · exact h

end Sys2Proof.Machine
end

