-- ==== Sys2Proof/Laws/KeepsSync.lean ====
section
/-! SUPPORT. KeepsSync: what the functions of Machine/Sync.lean keep. -/

namespace Sys2Proof.Machine

theorem effUnknownInstruction_keeps {r s} {a0} (h : Keeps r s) : Keeps r (effUnknownInstruction a0 s) := by
  unfold effUnknownInstruction
  extract_lets -merge -underBinder +onlyGivenNames x1
  refine keeps_ite ?_ ?_
  · refine issueWith_keeps ?_ ?_
    · exact h
    · intro y3 h2
      exact h2
  · exact h

theorem issueU_keeps {r s a0 a1 a2 a3} (h : Keeps r s) (g : ∀ t, CluOk t → Inv r → CluOk (a3 t)) :
    Keeps r (issueU a0 a1 a2 a3 s) := by
  unfold issueU
  extract_lets s1 k iss
  have h1 : Keeps r s1 := armTV_keeps h
  clear_value s1
  have hk : Inv r → CluOk k := fun hc => g _ (h1.clu hc) hc
  clear_value k
  exact goNext_keeps (keeps_frame (setCl_keeps h1 (fun hc => ⟨(hk hc).imem, (hk hc).plates, (hk hc).pc, (hk hc).loops⟩)))

theorem issueUnit_keeps {r s} {a0 a1 a2 a3 a4 a5 a6} (h : Keeps r s) (g : ∀ k u, CluOk k → CluOk (a5 k u)) :
    Keeps r (issueUnit a0 a1 a2 a3 a4 a5 a6 s) := by
  unfold issueUnit
  refine keeps_ite (issueWith_keeps h (fun s h => keeps_ite (hold_keeps h) ?_)) h
  exact issueU_keeps h (fun k hk _ => g k _ hk)

theorem effTmove_keeps {r s} {a0} (h : Keeps r s) : Keeps r (effTmove a0 s) :=
  issueUnit_keeps h (fun _ _ hk => ⟨hk.imem, hk.plates, hk.pc, hk.loops⟩)

theorem effLevent_keeps {r s} {a0} (h : Keeps r s) : Keeps r (effLevent a0 s) :=
  issueUnit_keeps h (fun _ _ hk => ⟨hk.imem, hk.plates, hk.pc, hk.loops⟩)

theorem effUpd_keeps {r s} {a0} (h : Keeps r s) : Keeps r (effUpd a0 s) :=
  issueUnit_keeps h (fun _ _ hk => ⟨hk.imem, hk.plates, hk.pc, hk.loops⟩)

theorem syncDone_keeps {r s} {a0 a1} (h : Keeps r s) : Keeps r (syncDone a0 a1 s) := by
  unfold syncDone
  refine goNext_keeps ?_
  refine keeps_ite ?_ ?_
  · exact postTok_keeps (armTV_keeps h)
  · exact h

theorem syncIns_keeps {r s} {a0 a1 a2 a3 a4 a5} (h : Keeps r s) (g5 : ∀ y0 t, Keeps r t → Keeps r (a4 y0 t)) : Keeps r (syncIns a0 a1 a2 a3 a4 a5 s) := by
  unfold syncIns
  refine keeps_ite ?_ ?_
  · extract_lets -merge -underBinder +onlyGivenNames x1
    refine issueWith_keeps ?_ ?_
    · exact h
    · intro y3 h2
      refine g5 _ _ ?_
      exact h2
  · exact h

theorem effTwait_keeps {r s} {a0} (h : Keeps r s) : Keeps r (effTwait a0 s) := by
  unfold effTwait
  refine syncIns_keeps ?_ ?_
  · exact h
  · intro y2 y3 h1
    extract_lets -merge -underBinder +onlyGivenNames x4
    extract_lets -merge -underBinder +onlyGivenNames x5
    extract_lets -merge -underBinder +onlyGivenNames x6
    split
    · exact goNext_keeps (skipIns_keeps h1)
    · split
      · exact goNext_keeps (skipIns_keeps h1)
      · extract_lets -merge -underBinder +onlyGivenNames x7
        refine keeps_ite ?_ ?_
        · exact syncDone_keeps h1
        · extract_lets -merge -underBinder +onlyGivenNames x8
          refine setCl_keeps ?_ ?_
          · exact h1
          · exact fun hc => ⟨((h1.inv hc).clu _).imem, ((h1.inv hc).clu _).plates, ((h1.inv hc).clu _).pc, ((h1.inv hc).clu _).loops⟩

theorem effTarm_keeps {r s} {a0} (h : Keeps r s) : Keeps r (effTarm a0 s) := by
  unfold effTarm
  refine syncIns_keeps ?_ ?_
  · exact h
  · intro y2 y3 h1
    extract_lets -merge -underBinder +onlyGivenNames x4
    refine keeps_ite ?_ ?_
    · exact hold_keeps h1
    · extract_lets -merge -underBinder +onlyGivenNames x5
      have h6 : Keeps r x5 := by
        unfold x5
        split
        · refine setCl_keeps ?_ ?_
          · exact h1
          · exact fun hc => ⟨((h1.inv hc).clu _).imem, ((h1.inv hc).clu _).plates, ((h1.inv hc).clu _).pc, ((h1.inv hc).clu _).loops⟩
        · exact h1
      clear_value x5
      exact syncDone_keeps (setTok_keeps h6)

theorem effTpost_keeps {r s} {a0} (h : Keeps r s) : Keeps r (effTpost a0 s) := by
  unfold effTpost
  refine syncIns_keeps ?_ ?_
  · exact h
  · intro y2 y3 h1
    exact syncDone_keeps (setTok_keeps h1)

theorem effTrel_keeps {r s} {a0} (h : Keeps r s) : Keeps r (effTrel a0 s) := by
  unfold effTrel
  refine syncIns_keeps ?_ ?_
  · exact h
  · intro y2 y3 h1
    refine syncDone_keeps ?_
    refine keeps_foldl (fun s4 x5 h6 => ?_) ?_
    · exact setTok_keeps h6
    · exact h1

theorem effQfence_keeps {r s} {a0} (h : Keeps r s) : Keeps r (effQfence a0 s) := by
  unfold effQfence
  refine syncIns_keeps ?_ ?_
  · exact h
  · intro y2 y3 h1
    refine keeps_ite ?_ ?_
    · exact syncDone_keeps h1
    · exact hold_keeps h1

theorem effPfence_keeps {r s} {a0} (h : Keeps r s) : Keeps r (effPfence a0 s) := by
  unfold effPfence
  refine syncIns_keeps ?_ ?_
  · exact h
  · intro y2 y3 h1
    refine keeps_ite ?_ ?_
    · exact syncDone_keeps h1
    · exact hold_keeps h1

end Sys2Proof.Machine
end

