-- ==== Sys2Proof/Laws/KeepsUpdate.lean ====
section
/-! SUPPORT. KeepsUpdate: what the functions of Machine/Update.lean keep. -/

namespace Sys2Proof.Machine

theorem updArbRec_keeps {r s} {a0 a1 a2 a3 a4 a5 a6 a7} (h : Keeps r s) : Keeps r (updArbRec a0 a1 a2 a3 a4 a5 a6 a7 s) := by
  unfold updArbRec
  split
  · rename_i s1 e2
    have h3 : Keeps r s1 := by
      refine keeps_snd e2 ?_
      exact drawWord_keeps h
    exact record_keeps h3

theorem markUpd_keeps {r s} {a0 a1} (h : Keeps r s) : Keeps r (markUpd a0 a1 s) := by
  unfold markUpd
  extract_lets -merge -underBinder +onlyGivenNames x1
  extract_lets -merge -underBinder +onlyGivenNames x2
  extract_lets -merge -underBinder +onlyGivenNames x3
  extract_lets -merge -underBinder +onlyGivenNames x4
  have h5 : Inv r → CluOk x4 := by
    intro hc
    refine cluOk_ite ?_ ?_
    · exact ⟨((h.inv hc).clu _).imem, ((h.inv hc).clu _).plates, ((h.inv hc).clu _).pc, ((h.inv hc).clu _).loops⟩
    · refine cluOk_ite ?_ ?_
      · exact ⟨((h.inv hc).clu _).imem, ((h.inv hc).clu _).plates, ((h.inv hc).clu _).pc, ((h.inv hc).clu _).loops⟩
      · exact ⟨((h.inv hc).clu _).imem, ((h.inv hc).clu _).plates, ((h.inv hc).clu _).pc, ((h.inv hc).clu _).loops⟩
  extract_lets -merge -underBinder +onlyGivenNames x6
  have h7 : Keeps r x6 := by
    refine setCl_keeps ?_ ?_
    · exact h
    · exact fun hc => h5 hc
  clear_value x6
  refine keeps_ite ?_ ?_
  · extract_lets -merge -underBinder +onlyGivenNames x8 x9
    have h10 : Keeps r x9 := by
      refine unitFailedRec_keeps ?_
      refine keeps_flash ?_ ?_ ?_
      · exact h7
      · exact fun hc => by exact (h7.inv hc).flash
      · exact h7.lists.upds_add
    clear_value x9
    extract_lets -merge -underBinder +onlyGivenNames x11
    refine keeps_ite ?_ ?_
    · exact coreRetiredRec_keeps (takeOffline_keeps h10)
    · refine setCl_keeps ?_ ?_
      · exact h10
      · intro hc
        extract_lets -merge -underBinder +onlyGivenNames x12
        exact ⟨((h10.inv hc).clu _).imem, ((h10.inv hc).clu _).plates, ((h10.inv hc).clu _).pc, ((h10.inv hc).clu _).loops⟩
  · exact h7

theorem settleGroup_keeps {r s} {a0 a1 a2 a3} (h : Keeps r s) : Keeps r (settleGroup a0 a1 a2 a3 s).2 := by
  unfold settleGroup
  split
  · exact h
  · extract_lets -merge -underBinder +onlyGivenNames x1
    split
    · split
      · extract_lets -merge -underBinder +onlyGivenNames x2
        split
        · refine updArbRec_keeps ?_
          refine setCl_keeps ?_ ?_
          · exact h
          · exact fun hc => ⟨((h.inv hc).clu _).imem, ((h.inv hc).clu _).plates, ((h.inv hc).clu _).pc, ((h.inv hc).clu _).loops⟩
        · split
          · exact updArbRec_keeps h
          · split
            · extract_lets -merge -underBinder +onlyGivenNames x3
              extract_lets -merge -underBinder +onlyGivenNames x4
              have h5 : Keeps r x4 := by
                refine setCl_keeps ?_ ?_
                · exact h
                · exact fun hc => ⟨((h.inv hc).clu _).imem, ((h.inv hc).clu _).plates, ((h.inv hc).clu _).pc, ((h.inv hc).clu _).loops⟩
              clear_value x4
              exact markUpd_keeps (updArbRec_keeps h5)
            · exact updArbRec_keeps h

theorem updTrap_keeps {r s} {a0 a1 a2 a3} (h : Keeps r s) : Keeps r (updTrap a0 a1 a2 a3 s) := by
  unfold updTrap
  extract_lets -merge -underBinder +onlyGivenNames x1 x2
  have h3 : Keeps r x2 := by
    refine setCl_keeps ?_ ?_
    · exact h
    · exact fun hc => ⟨((h.inv hc).clu _).imem, ((h.inv hc).clu _).plates, ((h.inv hc).clu _).pc, ((h.inv hc).clu _).loops⟩
  clear_value x2
  exact trap_keeps (laneCut_keeps h3)

theorem updGroups_keeps {r s n a1 a2 a3 a4 a5} (h : Keeps r s) : Keeps r (updGroups n a1 a2 a3 a4 a5 s) := by
  induction n generalizing a5 s with
  | zero => exact h
  | succ n ih =>
    unfold updGroups
    extract_lets k
    split
    · exact plateError_keeps h (fun _ h => updTrap_keeps h)
    · split
      · rename_i e
        exact updTrap_keeps (keeps_snd e (settleGroup_keeps h))
      · rename_i e
        have h1 := keeps_snd e (settleGroup_keeps h)
        exact ih (setCl_keeps h1 (fun hc => countGroup_ok (updWrite_ok (h1.clu hc))))

theorem effUpdStart_keeps {r s} {a0 a1 a2} (h : Keeps r s) : Keeps r (effUpdStart a0 a1 a2 s) := by
  unfold effUpdStart
  extract_lets -merge -underBinder +onlyGivenNames x1
  split
  · exact h
  · refine keeps_ite ?_ ?_
    · exact h
    · extract_lets -merge -underBinder +onlyGivenNames x2
      have h3 : Inv r → CluOk x2 := by
        intro hc
        refine upsetPlates_ok ?_
        exact ⟨((h.inv hc).clu _).imem, ((h.inv hc).clu _).plates, ((h.inv hc).clu _).pc, ((h.inv hc).clu _).loops⟩
      extract_lets -merge -underBinder +onlyGivenNames x4
      have h5 : Keeps r x4 := by
        refine setCl_keeps ?_ ?_
        · exact h
        · exact fun hc => h3 hc
      clear_value x4
      extract_lets -merge -underBinder +onlyGivenNames x6
      split
      · refine plateError_keeps ?_ ?_
        · exact h5
        · intro y8 h7
          exact updTrap_keeps h7
      · exact updGroups_keeps h5

theorem effUpdComplete_keeps {r s} {a0} (h : Keeps r s) : Keeps r (effUpdComplete a0 s) := by
  unfold effUpdComplete
  extract_lets -merge -underBinder +onlyGivenNames x1
  split
  · exact h
  · refine laneDone_keeps ?_
    refine setCl_keeps ?_ ?_
    · exact h
    · exact fun hc => ⟨((h.inv hc).clu _).imem, ((h.inv hc).clu _).plates, ((h.inv hc).clu _).pc, ((h.inv hc).clu _).loops⟩

end Sys2Proof.Machine
end

