-- ==== Sys2Proof/Laws/KeepsMovers.lean ====
section
/-! SUPPORT. KeepsMovers: what the functions of Machine/Movers.lean keep. -/

namespace Sys2Proof.Machine

theorem effLeventReceive_keeps {r s} {a0} (h : Keeps r s) : Keeps r (effLeventReceive a0 s) := by
  unfold effLeventReceive
  extract_lets -merge -underBinder +onlyGivenNames x1
  extract_lets -merge -underBinder +onlyGivenNames x2
  extract_lets -merge -underBinder +onlyGivenNames x3
  split
  · refine keeps_ite ?_ ?_
    · extract_lets -merge -underBinder +onlyGivenNames x4
      extract_lets -merge -underBinder +onlyGivenNames x5
      extract_lets -merge -underBinder +onlyGivenNames x6
      have h7 : Keeps r x6 := by
        refine setCl_keeps ?_ ?_
        · exact h
        · exact fun hc => ⟨((h.inv hc).clu _).imem, ((h.inv hc).clu _).plates, ((h.inv hc).clu _).pc, ((h.inv hc).clu _).loops⟩
      clear_value x6
      split
      · refine keeps_ite ?_ ?_
        · extract_lets -merge -underBinder +onlyGivenNames x8
          exact setDie_keeps h7
        · exact h7
      · exact h7
    · exact h
  · exact h

theorem effEventFire_keeps {r s} {a0 a1 a2} (h : Keeps r s) : Keeps r (effEventFire a0 a1 a2 s) := by
  unfold effEventFire
  extract_lets -merge -underBinder +onlyGivenNames x1
  split
  · refine keeps_ite ?_ ?_
    · exact setDie_keeps h
    · exact h
  · exact h

theorem effEntryIssue_keeps {r s} {a0 a1} (h : Keeps r s) : Keeps r (effEntryIssue a0 a1 s) := by
  unfold effEntryIssue
  extract_lets -merge -underBinder +onlyGivenNames x1
  split
  · exact h
  · split
    · exact h
    · extract_lets -merge -underBinder +onlyGivenNames x2
      refine keeps_ite ?_ ?_
      · extract_lets -merge -underBinder +onlyGivenNames x3
        have h4 : Keeps r x3.2 := by
          unfold x3
          split
          · exact h
          · exact readList_keeps h
        clear_value x3
        extract_lets -merge -underBinder +onlyGivenNames x5
        have h6 : Keeps r x5 := h4
        clear_value x5
        extract_lets -merge -underBinder +onlyGivenNames x7
        extract_lets -merge -underBinder +onlyGivenNames x8
        extract_lets -merge -underBinder +onlyGivenNames x9
        refine keeps_ite ?_ ?_
        · extract_lets -merge -underBinder +onlyGivenNames x10
          exact setDie_keeps h6
        · exact setDie_keeps h6
      · exact h

theorem effLeventRelease_keeps {r s} {a0 a1} (h : Keeps r s) : Keeps r (effLeventRelease a0 a1 s) := by
  unfold effLeventRelease
  extract_lets -merge -underBinder +onlyGivenNames x1
  split
  · refine keeps_ite ?_ ?_
    · refine laneDone_keeps ?_
      refine setCl_keeps ?_ ?_
      · exact h
      · exact fun hc => ⟨((h.inv hc).clu _).imem, ((h.inv hc).clu _).plates, ((h.inv hc).clu _).pc, ((h.inv hc).clu _).loops⟩
    · exact h
  · exact h

theorem effEphemerisTake_keeps {r s} {a0} (h : Keeps r s) : Keeps r (effEphemerisTake a0 s) := by
  unfold effEphemerisTake
  extract_lets -merge -underBinder +onlyGivenNames x1
  split
  · refine keeps_ite ?_ ?_
    · exact completeCmd_keeps (setDie_keeps h)
    · exact h
  · exact h

theorem acceptEph_keeps {r s} {a0} (h : Keeps r s) : Keeps r (acceptEph a0 s) := by
  unfold acceptEph
  extract_lets -merge -underBinder +onlyGivenNames x1
  split
  · split
    · exact acceptRecord_keeps (setDie_keeps h)
    · exact h
  · exact h

theorem acceptTmove_keeps {r s} {a0 a1 a2} (h : Keeps r s) : Keeps r (acceptTmove a0 a1 a2 s) := by
  unfold acceptTmove
  split
  · exact h
  · extract_lets -merge -underBinder +onlyGivenNames x1 x3 x4
    have h2 : Keeps r x1.2 := readList_keeps h
    clear_value x1
    have h5 : Keeps r x4 := by
      refine keeps_ite ?_ ?_
      · exact h
      · exact setDie_keeps h2
    clear_value x4
    extract_lets -merge -underBinder +onlyGivenNames x6
    split
    · exact h5
    · split
      · exact h5
      · extract_lets -merge -underBinder +onlyGivenNames x7
        have h8 : Keeps r x7 := setDie_keeps h5
        clear_value x7
        extract_lets -merge -underBinder +onlyGivenNames x9 x10
        have h11 : Keeps r x10 := by
          refine keeps_ite ?_ ?_
          · refine setCl_keeps ?_ ?_
            · exact h8
            · exact fun hc => ⟨((h8.inv hc).clu _).imem, ((h8.inv hc).clu _).plates, ((h8.inv hc).clu _).pc, ((h8.inv hc).clu _).loops⟩
          · exact h8
        clear_value x10
        exact acceptRecord_keeps h11

theorem acceptCmd_keeps {r s} {a0} (h : Keeps r s) : Keeps r (acceptCmd a0 s) := by
  unfold acceptCmd
  split
  · split
    · exact acceptRecord_keeps (setWork_keeps h)
    · exact h
  · exact h

theorem acceptRead_keeps {r s} {a0 a1} (h : Keeps r s) : Keeps r (acceptRead a0 a1 s) := by
  unfold acceptRead
  extract_lets x
  split
  · exact h
  · split
    · exact h
    · extract_lets -underBinder +onlyGivenNames s1 q read
      have hr : ∀ t, Keeps r t → Keeps r (read t) := by
        intro t ht
        unfold read
        extract_lets p
        have hp : Keeps r p.2 := takeSource_keeps ht
        clear_value p
        split
        · exact setEntry_keeps hp
        · exact hp
      have h1 : Keeps r s1 := setDie_keeps h
      clear_value read s1
      split
      · exact keeps_ite (failTile_keeps h1) (hr _ h1)
      · refine keeps_ite h ?_
        split
        · exact h
        · rename_i e
          exact hr _ (roomFor_keeps h1 _ e)

theorem effLedgerAccept_keeps {r s} {a0 a1 a2} (h : Keeps r s) : Keeps r (effLedgerAccept a0 a1 a2 s) := by
  unfold effLedgerAccept
  refine keeps_ite ?_ ?_
  · exact h
  · split
    · exact h
    · extract_lets -merge -underBinder +onlyGivenNames x1 x2
      have h3 : Keeps r x2 := setDie_keeps h
      clear_value x2
      refine ledgerGo_keeps ?_
      refine keeps_ite ?_ ?_
      · exact acceptEph_keeps h3
      · refine keeps_ite ?_ ?_
        · exact acceptTmove_keeps h3
        · refine keeps_ite ?_ ?_
          · exact acceptCmd_keeps h3
          · exact acceptRead_keeps h3

theorem clearStaged_keeps {r s} {a0 a1} (h : Keeps r s) : Keeps r (clearStaged a0 a1 s) := by
  unfold clearStaged
  refine nvPump_keeps ?_
  refine keeps_frame ?_
  exact h

theorem recoveryRec_keeps {r s} {a0 a1 a2} (h : Keeps r s) : Keeps r (recoveryRec a0 a1 a2 s) := by
  unfold recoveryRec
  extract_lets -merge -underBinder +onlyGivenNames x1
  extract_lets -merge -underBinder +onlyGivenNames x2
  extract_lets -merge -underBinder +onlyGivenNames x3
  have h4 : Keeps r x3 := setDie_keeps h
  clear_value x3
  exact record_keeps h4

theorem recoveryFails_keeps {r s} {a0 a1 a2} (h : Keeps r s) : Keeps r (recoveryFails a0 a1 a2 s) := by
  unfold recoveryFails
  exact failTile_keeps (recoveryRec_keeps h)

theorem askPeer_keeps {r s n a1 a2} (h : Keeps r s) : Keeps r (askPeer n a1 a2 s) := by
  induction n generalizing a2 s with
  | zero => exact recoveryFails_keeps h
  | succ n ih =>
    unfold askPeer
    extract_lets id
    split
    · exact recoveryFails_keeps h
    · refine keeps_ite ?_ (keeps_ite ?_ ?_)
      · exact recoveryFails_keeps h
      · exact ih h
      · exact grant_keeps (sendLine_keeps (setEntry_keeps h))

theorem askStripe_keeps {r s a0 a1} (h : Keeps r s) : Keeps r (askStripe a0 a1 s) := by
  unfold askStripe
  extract_lets id
  split
  · exact recoveryFails_keeps h
  · split
    · exact recoveryFails_keeps h
    · extract_lets -underBinder +onlyGivenNames k ask
      exact keeps_ite (recoveryFails_keeps h) (keeps_foldl (fun _ _ h => grant_keeps (sendLine_keeps h)) h)

theorem recover_keeps {r s} {a0 a1 a2} (h : Keeps r s) : Keeps r (recover a0 a1 a2 s) := by
  unfold recover
  refine keeps_ite ?_ ?_
  · exact h
  · refine keeps_ite ?_ ?_
    · exact failTile_keeps h
    · extract_lets -merge -underBinder +onlyGivenNames x1
      extract_lets -merge -underBinder +onlyGivenNames x2
      have h3 : Keeps r x2 := by
        refine keeps_foldl (fun s4 x5 h6 => ?_) ?_
        · split
          · exact setEntry_keeps h6
          · exact h6
        · exact clearStaged_keeps (setEntry_keeps h)
      clear_value x2
      split
      · exact askPeer_keeps h3
      · exact askStripe_keeps h3
      · refine keeps_ite ?_ ?_
        · exact recoveryFails_keeps h3
        · exact h3
      · refine keeps_ite ?_ ?_
        · exact record_keeps h3
        · exact recoveryFails_keeps h3
      · exact recoveryFails_keeps h3
      · exact recoveryFails_keeps h3

theorem recordBad_keeps {r s} {a0 a1 a2} (h : Keeps r s) : Keeps r (recordBad a0 a1 a2 s) := by
  unfold recordBad
  refine keeps_foldl (fun s1 x2 h3 => ?_) ?_
  · exact failSector_keeps h3
  · exact h

theorem arrayError_keeps {r s} {a0 a1 a2} (h : Keeps r s) : Keeps r (arrayError a0 a1 a2 s) := by
  unfold arrayError
  split
  · refine failTile_keeps ?_
    refine plateError_keeps ?_ ?_
    · exact h
    · intro y2 h1
      exact h1
  · refine failTile_keeps ?_
    refine spadError_keeps ?_ ?_
    · exact h
    · intro y4 h3
      exact h3
  · exact h

theorem drainFlash_keeps {r s} {a0 a1 a2 a3} (h : Keeps r s) : Keeps r (drainFlash a0 a1 a2 a3 s) := by
  unfold drainFlash
  exact nvTransfer_keeps (setEntry_keeps h)

theorem effSourceReadEnd_keeps {r s} {a0 a1 a2} (h : Keeps r s) : Keeps r (effSourceReadEnd a0 a1 a2 s) := by
  unfold effSourceReadEnd
  extract_lets -merge -underBinder +onlyGivenNames x1
  have h2 : Keeps r x1 := stageDie_keeps h
  clear_value x1
  extract_lets -merge -underBinder +onlyGivenNames x3
  have h4 : Keeps r x3 := hitHbm_keeps h2
  clear_value x3
  refine keeps_ite ?_ ?_
  · exact h2
  · split
    · refine keeps_ite ?_ ?_
      · extract_lets -merge -underBinder +onlyGivenNames x5
        have h6 : Keeps r x5 := setEntry_keeps h4
        clear_value x5
        refine ledgerGo_keeps ?_
        refine keeps_ite ?_ ?_
        · exact clearStaged_keeps h6
        · exact dropRead_keeps h6
      · split
        · exact drainFlash_keeps h4
        · exact h2
    · exact ledgerGo_keeps (arrayError_keeps h4)
    · exact ledgerGo_keeps (arrayError_keeps h4)
    · exact h2

theorem effSourceError_keeps {r s} {a0 a1 a2 a3} (h : Keeps r s) : Keeps r (effSourceError a0 a1 a2 a3 s) := by
  unfold effSourceError
  extract_lets -merge -underBinder +onlyGivenNames x1
  have h2 : Keeps r x1 := stageDie_keeps h
  clear_value x1
  extract_lets -merge -underBinder +onlyGivenNames x3
  have h4 : Keeps r x3 := hitHbm_keeps h2
  clear_value x3
  refine keeps_ite ?_ ?_
  · exact h2
  · split
    · extract_lets -merge -underBinder +onlyGivenNames x5
      extract_lets -merge -underBinder +onlyGivenNames x6
      refine keeps_ite ?_ ?_
      · exact h2
      · extract_lets -merge -underBinder +onlyGivenNames x7
        have h8 : Keeps r x7 := recordBad_keeps h4
        clear_value x7
        split
        · exact ledgerGo_keeps (recover_keeps h8)
        · exact h8
    · exact h2

theorem moverFails_keeps {r s} {a0 a1 a2} (h : Keeps r s) : Keeps r (moverFails a0 a1 a2 s) := by
  unfold moverFails
  extract_lets -merge -underBinder +onlyGivenNames x1
  have h2 : Keeps r x1 := record_keeps h
  clear_value x1
  extract_lets -merge -underBinder +onlyGivenNames x3
  extract_lets -merge -underBinder +onlyGivenNames x4
  extract_lets -merge -underBinder +onlyGivenNames x5
  have h6 : Keeps r x5 := setDie_keeps h2
  clear_value x5
  refine keeps_ite ?_ ?_
  · extract_lets -merge -underBinder +onlyGivenNames x7
    have h8 : Keeps r x7 := unitFailedRec_keeps h6
    clear_value x7
    extract_lets -merge -underBinder +onlyGivenNames x9 x10
    have h11 : Keeps r x10 := by
      refine keeps_flash ?_ ?_ ?_
      · exact h8
      · exact fun hc => by exact (h8.inv hc).flash
      · exact h8.lists.same
    clear_value x10
    refine keeps_ite ?_ ?_
    · exact haltEph_keeps h11
    · exact h11
  · exact h6

theorem countMoverRepeat_keeps {r s} {a0 a1} (h : Keeps r s) : Keeps r (countMoverRepeat a0 a1 s) := by
  unfold countMoverRepeat
  extract_lets -merge -underBinder +onlyGivenNames x1
  exact setDie_keeps h

theorem landHbm_keeps {r s} {a0 a1 a2} (h : Keeps r s) : Keeps r (landHbm a0 a1 a2 s) := by
  unfold landHbm
  refine keeps_foldl (fun s1 x2 h3 => ?_) ?_
  · exact writeSector_keeps h3
  · exact h

theorem landTier_keeps {r s} {a0 a1 a2 a3 a4 a5 a6} (h : Keeps r s) : Keeps r (landTier a0 a1 a2 a3 a4 a5 a6 s) := by
  unfold landTier
  split
  · exact landSpad_keeps h
  · exact landPlates_keeps h
  · exact landHbm_keeps h

theorem fillDone_keeps {r s} {a0 a1 a2} (h : Keeps r s) : Keeps r (fillDone a0 a1 a2 s) := by
  unfold fillDone
  extract_lets -merge -underBinder +onlyGivenNames x1
  extract_lets -merge -underBinder +onlyGivenNames x2
  refine keeps_ite ?_ ?_
  · exact endReqs_keeps (delEntry_keeps h)
  · exact endReqs_keeps (setEntry_keeps h)

theorem moverLand_keeps {r s} {a0 a1 a2 a3 a4 a5 a6} (h : Keeps r s) (g6 : ∀ t, Keeps r t → Keeps r (a5 t)) (g7 : ∀ t, Keeps r t → Keeps r (a6 t)) : Keeps r (moverLand a0 a1 a2 a3 a4 a5 a6 s) := by
  unfold moverLand
  extract_lets -merge -underBinder +onlyGivenNames x1
  have h2 : Keeps r x1 := countMoverRepeat_keeps h
  clear_value x1
  split
  · refine g7 _ ?_
    exact moverFails_keeps h2
  · refine g6 _ ?_
    exact h2

theorem effFillEnd_keeps {r s} {a0 a1 a2} (h : Keeps r s) : Keeps r (effFillEnd a0 a1 a2 s) := by
  unfold effFillEnd
  split
  · exact h
  · split
    · exact h
    · refine keeps_ite ?_ ?_
      · exact h
      · refine ledgerGo_keeps ?_
        refine moverLand_keeps ?_ ?_ ?_
        · exact h
        · intro y2 h1
          exact fillDone_keeps (landTier_keeps h1)
        · intro y4 h3
          exact failTile_keeps h3

theorem drainDone_keeps {r s} {a0 a1 a2} (h : Keeps r s) : Keeps r (drainDone a0 a1 a2 s) := by
  unfold drainDone
  refine keeps_ite ?_ ?_
  · exact endReqs_keeps (delEntry_keeps h)
  · split
    · exact endReq_keeps (setEntry_keeps h)
    · exact h

theorem effDrainEnd_keeps {r s} {a0 a1 a2} (h : Keeps r s) : Keeps r (effDrainEnd a0 a1 a2 s) := by
  unfold effDrainEnd
  extract_lets -merge -underBinder +onlyGivenNames x1
  have h2 : Keeps r x1 := stageDie_keeps h
  clear_value x1
  split
  · exact h2
  · split
    · exact h2
    · refine keeps_ite ?_ ?_
      · exact h2
      · extract_lets -merge -underBinder +onlyGivenNames x3
        extract_lets -merge -underBinder +onlyGivenNames x4
        refine keeps_ite ?_ ?_
        · refine keeps_ite ?_ ?_
          · exact ledgerGo_keeps (drainDone_keeps h2)
          · exact h2
        · extract_lets -merge -underBinder +onlyGivenNames x5
          refine keeps_ite ?_ ?_
          · exact h2
          · split
            · refine ledgerGo_keeps ?_
              refine moverLand_keeps ?_ ?_ ?_
              · exact h2
              · intro y7 h6
                exact drainDone_keeps (landTier_keeps h6)
              · intro y9 h8
                exact drainDone_keeps h8
            · refine ledgerGo_keeps ?_
              refine drainDone_keeps ?_
              refine plateError_keeps ?_ ?_
              · exact h2
              · intro y11 h10
                exact h10
            · refine ledgerGo_keeps ?_
              refine drainDone_keeps ?_
              refine spadError_keeps ?_ ?_
              · exact h2
              · intro y13 h12
                exact h12
            · exact h2

theorem recoverySucceeds_keeps {r s} {a0 a1} (h : Keeps r s) : Keeps r (recoverySucceeds a0 a1 s) := by
  unfold recoverySucceeds
  extract_lets -merge -underBinder +onlyGivenNames x1
  have h2 : Keeps r x1 := recoveryRec_keeps h
  clear_value x1
  extract_lets -merge -underBinder +onlyGivenNames x3
  extract_lets -merge -underBinder +onlyGivenNames x4
  extract_lets -merge -underBinder +onlyGivenNames x5
  have h6 : Keeps r x5 := by
    refine keeps_foldl (fun s7 x8 h9 => ?_) ?_
    · split
      · exact setEntry_keeps h9
      · exact h9
    · exact h2
  clear_value x5
  refine keeps_ite ?_ ?_
  · exact fillDone_keeps h6
  · exact endReqs_keeps (setEntry_keeps h6)

theorem effRecoveryEnd_keeps {r s} {a0 a1 a2} (h : Keeps r s) : Keeps r (effRecoveryEnd a0 a1 a2 s) := by
  unfold effRecoveryEnd
  split
  · exact h
  · extract_lets -merge -underBinder +onlyGivenNames x1
    refine keeps_ite ?_ ?_
    · exact h
    · split
      · exact h
      · exact ledgerGo_keeps (recoveryFails_keeps (clearStaged_keeps h))
      · extract_lets -merge -underBinder +onlyGivenNames x2
        have h3 : Keeps r x2 := clearStaged_keeps h
        clear_value x2
        extract_lets -merge -underBinder +onlyGivenNames x4
        have h5 : Keeps r x4 := by
          refine keeps_ite ?_ ?_
          · exact h3
          · exact landHbm_keeps h3
        clear_value x4
        extract_lets -merge -underBinder +onlyGivenNames x6
        have h7 : Keeps r x6 := hitHbm_keeps h5
        clear_value x6
        split
        · exact ledgerGo_keeps (recoveryFails_keeps (recordBad_keeps h7))
        · exact ledgerGo_keeps (recoverySucceeds_keeps h7)

theorem resupplyWrite_keeps {r s} {a0 a1 a2} (h : Keeps r s) : Keeps r (resupplyWrite a0 a1 a2 s) := by
  unfold resupplyWrite
  split
  · refine keeps_ite ?_ ?_
    · refine keeps_ite ?_ ?_
      · exact setEntry_keeps h
      · exact ledgerGo_keeps (recoveryFails_keeps h)
    · exact regAccess_keeps h
  · exact regAccess_keeps h

theorem effResupplyTimeout_keeps {r s} {a0 a1} (h : Keeps r s) : Keeps r (effResupplyTimeout a0 a1 s) := by
  unfold effResupplyTimeout
  split
  · refine keeps_ite ?_ ?_
    · exact ledgerGo_keeps (recoveryFails_keeps h)
    · exact h
  · exact h

end Sys2Proof.Machine
end

