-- ==== Sys2Proof/Laws/KeepsStorage.lean ====
section
/-! SUPPORT. KeepsStorage: what the functions of Machine/Storage.lean keep. -/

namespace Sys2Proof.Machine

theorem nvmeFailure_keeps {r s} (h : Keeps r s) : Keeps r (nvmeFailure s) := by
  unfold nvmeFailure
  split
  · rename_i s1 e2
    have h3 : Keeps r s1 := by
      refine keeps_snd e2 ?_
      exact drawWord_keeps h
    split
    · rename_i s4 e5
      have h6 : Keeps r s4 := by
        refine keeps_snd e5 ?_
        exact drawWord_keeps h3
      split
      · rename_i s7 e8
        have h9 : Keeps r s7 := by
          refine keeps_snd e8 ?_
          exact drawWord_keeps h6
        exact record_keeps h9

theorem landUntracked_keeps {r s n a1 a2} (h : Keeps r s) : Keeps r (landUntracked n a1 a2 s) := by
  induction n generalizing a1 a2 s with
  | zero => exact h
  | succ n ih => exact keeps_ite h (ih (writeSector_keeps h))

theorem orphanCmds_keeps {r s} {a0} (h : Keeps r s) : Keeps r (orphanCmds a0 s) := by
  unfold orphanCmds
  extract_lets -merge -underBinder +onlyGivenNames x1
  refine keeps_frame ?_
  exact h

theorem xferFails_keeps {r s} {a0} (h : Keeps r s) : Keeps r (xferFails a0 s) := by
  unfold xferFails
  refine completeCmd_keeps ?_
  refine orphanCmds_keeps ?_
  refine keeps_frame ?_
  exact h

theorem xferPart_keeps {r s} {a0} (h : Keeps r s) : Keeps r (xferPart a0 s) := by
  unfold xferPart
  split
  · split
    · refine keeps_ite ?_ ?_
      · exact setWork_keeps h
      · refine keeps_ite ?_ ?_
        · refine nvPump_keeps ?_
          extract_lets -merge -underBinder +onlyGivenNames x1
          have h2 : Keeps r x1 := setWork_keeps h
          clear_value x1
          refine keeps_frame ?_
          exact h2
        · exact completeCmd_keeps h
    · exact h
  · exact h

theorem copyPart_keeps {r s} {a0 a1} (h : Keeps r s) : Keeps r (copyPart a0 a1 s) := by
  unfold copyPart
  split
  · split
    · refine keeps_ite ?_ ?_
      · exact completeCmd_keeps h
      · exact setWork_keeps h
    · exact h
  · exact h

theorem landNow_keeps {r s} {a0 a1 a2} (h : Keeps r s) : Keeps r (landNow a0 a1 a2 s) := by
  unfold landNow
  extract_lets -merge -underBinder +onlyGivenNames x1
  have h2 : Keeps r x1 := landUntracked_keeps h
  clear_value x1
  split
  · split
    · exact xferPart_keeps h2
    · exact copyPart_keeps h2
  · exact h2

theorem landCmd_keeps {r s} {a0 a1 a2} (h : Keeps r s) : Keeps r (landCmd a0 a1 a2 s) := by
  unfold landCmd
  refine keeps_ite ?_ ?_
  · refine keeps_frame ?_
    exact h
  · exact landNow_keeps h

theorem landHeld_keeps {r s} (h : Keeps r s) : Keeps r (landHeld s) := by
  unfold landHeld
  refine keeps_foldl (fun s1 x2 h3 => ?_) ?_
  · refine keeps_ite ?_ ?_
    · exact landCmd_keeps h3
    · exact h3
  · refine keeps_frame ?_
    exact h

theorem nvmeGood_keeps {r s} {a0 a1} (h : Keeps r s) : Keeps r (nvmeGood a0 a1 s) := by
  unfold nvmeGood
  split
  · refine keeps_frame ?_
    exact h
  · exact xferPart_keeps h
  · split
    · exact landCmd_keeps h
    · exact h
  · exact completeCmd_keeps h
  · exact h

theorem nvmeBad_keeps {r s} {a0} (h : Keeps r s) : Keeps r (nvmeBad a0 s) := by
  unfold nvmeBad
  extract_lets -merge -underBinder +onlyGivenNames x1
  have h2 : Keeps r x1 := nvmeFailure_keeps h
  clear_value x1
  split
  · split
    · refine keeps_ite ?_ ?_
      · exact recoveryFails_keeps h2
      · exact recover_keeps h2
    · exact h2
  · split
    · extract_lets -merge -underBinder +onlyGivenNames x3 x4
      have h5 : Keeps r x4 := by
        refine keeps_frame ?_
        exact h2
      clear_value x4
      exact drainDone_keeps h5
    · exact h2
  · exact xferFails_keeps h2
  · exact xferFails_keeps h2
  · exact h2

theorem effNvmeCompletion_keeps {r s} {a0 a1 a2 a3} (h : Keeps r s) : Keeps r (effNvmeCompletion a0 a1 a2 a3 s) := by
  unfold effNvmeCompletion
  split
  · exact h
  · extract_lets -merge -underBinder +onlyGivenNames x1
    have h2 : Keeps r x1 := nvDone_keeps h
    clear_value x1
    extract_lets -merge -underBinder +onlyGivenNames x3
    have h4 : Keeps r x3 := by
      refine keeps_ite ?_ ?_
      · exact nvmeGood_keeps h2
      · exact emit_keeps (nvmeBad_keeps h2)
    clear_value x3
    exact ledgerGo_keeps (nvPump_keeps h4)

theorem effNvmeTimeout_keeps {r s} {a0 a1} (h : Keeps r s) : Keeps r (effNvmeTimeout a0 a1 s) := by
  unfold effNvmeTimeout
  split
  · exact h
  · refine nvPump_keeps ?_
    refine keeps_frame ?_
    exact h

theorem failOutstanding_keeps {r s} {a0 a1} (h : Keeps r s) : Keeps r (failOutstanding a0 a1 s) := by
  unfold failOutstanding
  extract_lets -merge -underBinder +onlyGivenNames x1
  extract_lets -merge -underBinder +onlyGivenNames x2 x3
  have h4 : Keeps r x3 := by
    refine keeps_frame ?_
    exact h
  clear_value x3
  refine keeps_foldl (fun s5 x6 h7 => ?_) ?_
  · exact nvmeBad_keeps h7
  · exact h4

theorem effNvmeAbortTimeout_keeps {r s} {a0 a1} (h : Keeps r s) : Keeps r (effNvmeAbortTimeout a0 a1 s) := by
  unfold effNvmeAbortTimeout
  split
  · exact h
  · extract_lets -merge -underBinder +onlyGivenNames x1 x2
    have h3 : Keeps r x2 := emit_keeps (setNvCtrl_keeps h)
    clear_value x2
    exact ledgerGo_keeps (failOutstanding_keeps h3)

theorem effControllerResetEnd_keeps {r s} {a0 a1} (h : Keeps r s) : Keeps r (effControllerResetEnd a0 a1 s) := by
  unfold effControllerResetEnd
  extract_lets -merge -underBinder +onlyGivenNames x1
  refine keeps_ite ?_ ?_
  · exact h
  · refine keeps_ite ?_ ?_
    · extract_lets -merge -underBinder +onlyGivenNames x2
      have h3 : Keeps r x2 := by
        refine keeps_foldl (fun s4 x5 h6 => ?_) ?_
        · exact emit_keeps h6
        · exact h
      clear_value x2
      exact ledgerGo_keeps (nvPump_keeps (setNvCtrl_keeps h3))
    · refine keeps_ite ?_ ?_
      · exact emit_keeps (setNvCtrl_keeps h)
      · exact ledgerGo_keeps (failOutstanding_keeps (setNvCtrl_keeps h))

theorem effStagingViolation_keeps {r s} {a0} (h : Keeps r s) : Keeps r (effStagingViolation a0 s) := by
  unfold effStagingViolation
  refine keeps_ite ?_ ?_
  · exact emit_keeps (record_keeps h)
  · exact h

end Sys2Proof.Machine
end

