-- ==== Sys2Proof/Laws/KeepsCommands.lean ====
section
/-! SUPPORT. KeepsCommands: what the functions of Machine/Commands.lean keep. -/

namespace Sys2Proof.Machine

theorem fabricRec_keeps {r s} {a0 a1 a2} (h : Keeps r s) : Keeps r (fabricRec a0 a1 a2 s) := by
  unfold fabricRec
  split
  · rename_i s1 e2
    have h3 : Keeps r s1 := by
      refine keeps_snd e2 ?_
      exact drawWord_keeps h
    exact record_keeps h3

theorem settlePlanes_keeps {r s} (h : Keeps r s) : Keeps r (settlePlanes s) := by
  unfold settlePlanes
  extract_lets -merge -underBinder +onlyGivenNames x1
  extract_lets -merge -underBinder +onlyGivenNames x2
  extract_lets -merge -underBinder +onlyGivenNames x3 x4
  have h5 : Keeps r x4 := by
    refine keeps_frame ?_
    exact h
  clear_value x4
  refine keeps_foldl (fun s6 x7 h8 => ?_) ?_
  · extract_lets -merge -underBinder +onlyGivenNames x9
    refine keeps_ite ?_ ?_
    · exact h8
    · exact setLink_keeps h8
  · exact h5

theorem clearCounts_keeps {r s} (h : Keeps r s) : Keeps r (clearCounts s) := by
  refine keeps_mapV (fs := fun x => x)
    (fc := fun c => { c with
      replaySummary := 0, nonfiniteSeen := false, nonfinite := 0, satM1 := 0, satM2 := 0, satW := 0 })
    (fk := fun k => { k with replay := [], replayLast := 0, sat := [] })
    ?_ ?_ ?_ h rfl rfl (.inr (.inl rfl)) (.inl rfl) (.inl rfl) (.inl rfl) rfl (.inl rfl) h.fuses
  · intro x hx; exact hx
  · intro x hx; exact ⟨hx.imem, hx.plates, hx.pc, hx.loops⟩
  · intro x hx; exact hx

theorem openJob_keeps {r s} {a0} (h : Keeps r s) : Keeps r (openJob a0 s) := by
  unfold openJob
  extract_lets -merge -underBinder +onlyGivenNames x1
  extract_lets -merge -underBinder +onlyGivenNames x2 x3
  have h4 : Keeps r x3 := by
    refine setEpoch_keeps ?_
    refine clearCounts_keeps ?_
    refine keeps_frame ?_
    exact h
  clear_value x3
  extract_lets -merge -underBinder +onlyGivenNames x5
  have h6 : Keeps r x5 := by
    refine keeps_ite ?_ ?_
    · exact fabricRec_keeps h4
    · exact h4
  clear_value x5
  exact settlePlanes_keeps h6

theorem effJobOpen_keeps {r s} {a0 a1} (h : Keeps r s) : Keeps r (effJobOpen a0 a1 s) := by
  unfold effJobOpen
  refine dispatch_keeps ?_ ?_
  · exact h
  · intro y2 y3 y4 h1
    refine atOnce_keeps ?_ ?_
    · exact h1
    · intro y6 h5
      exact openJob_keeps h5

theorem effJobClose_keeps {r s} {a0 a1} (h : Keeps r s) : Keeps r (effJobClose a0 a1 s) := by
  unfold effJobClose
  extract_lets -merge -underBinder +onlyGivenNames x1
  have h2 : Keeps r x1 := by
    refine dispatch_keeps ?_ ?_
    · exact h
    · intro y4 y5 y6 h3
      refine startCmd_keeps ?_
      refine keeps_frame ?_
      exact h3
  clear_value x1
  refine keeps_frame ?_
  exact h2

theorem cutTileMoves_keeps {r s} {a0} (h : Keeps r s) : Keeps r (cutTileMoves a0 s) := by
  unfold cutTileMoves
  refine keeps_foldl (fun s1 x2 h3 => ?_) ?_
  · split
    · refine keeps_ite ?_ ?_
      · exact completeCmd_keeps h3
      · exact h3
    · exact h3
  · exact h

theorem dropEph_keeps {r s} {a0} (h : Keeps r s) : Keeps r (dropEph a0 s) := by
  unfold dropEph
  extract_lets -merge -underBinder +onlyGivenNames x1
  have h2 : Keeps r x1 := by
    refine keeps_foldl (fun s3 x4 h5 => ?_) ?_
    · exact completeCmd_keeps h5
    · exact h
  clear_value x1
  extract_lets -merge -underBinder +onlyGivenNames x6
  exact setDie_keeps h2

theorem dropLedger_keeps {r s} {a0} (h : Keeps r s) : Keeps r (dropLedger a0 s) := by
  unfold dropLedger
  extract_lets -merge -underBinder +onlyGivenNames x1
  have h2 : Keeps r x1 := cutTileMoves_keeps h
  clear_value x1
  extract_lets -merge -underBinder +onlyGivenNames x3
  have h4 : Keeps r x3 := by
    refine keeps_foldl (fun s5 x6 h7 => ?_) ?_
    · exact delEntry_keeps h7
    · exact h2
  clear_value x3
  extract_lets -merge -underBinder +onlyGivenNames x8
  have h9 : Keeps r x8 := by
    refine keeps_frame ?_
    exact h4
  clear_value x8
  exact setDie_keeps h9

theorem releaseTokens_keeps {r s} {a0} (h : Keeps r s) : Keeps r (releaseTokens a0 s) := by
  unfold releaseTokens
  extract_lets -merge -underBinder +onlyGivenNames x1
  refine keeps_foldl (fun s2 x3 h4 => ?_) ?_
  · exact setTok_keeps h4
  · exact h

theorem unloadContexts_keeps {r s} {a0} (h : Keeps r s) : Keeps r (unloadContexts a0 s) := by
  unfold unloadContexts
  exact setPhot_keeps h

theorem clearPermits_keeps {r s} {a0} (h : Keeps r s) : Keeps r (clearPermits a0 s) := by
  unfold clearPermits
  extract_lets -merge -underBinder +onlyGivenNames x1
  exact setPhot_keeps h

theorem endLease_keeps {r s} {a0} (h : Keeps r s) : Keeps r (endLease a0 s) := by
  unfold endLease
  extract_lets -merge -underBinder +onlyGivenNames x1
  refine keeps_ite ?_ ?_
  · extract_lets -merge -underBinder +onlyGivenNames x2
    have h3 : Keeps r x2 := by
      refine keeps_ite ?_ ?_
      · exact sendControl_keeps h
      · exact h
    clear_value x2
    exact setLink_keeps h3
  · exact h

theorem dropPlan_keeps {r s} {a0} (h : Keeps r s) : Keeps r (dropPlan a0 s) := by
  unfold dropPlan
  extract_lets -merge -underBinder +onlyGivenNames x1
  have h2 : Keeps r x1 := by
    refine keeps_foldl (fun s3 x4 h5 => ?_) ?_
    · exact endLease_keeps h5
    · exact h
  clear_value x1
  extract_lets -merge -underBinder +onlyGivenNames x6
  have h7 : Keeps r x6 := by
    refine keeps_foldl (fun s8 x9 h10 => ?_) ?_
    · exact setPhot_keeps h10
    · exact h2
  clear_value x6
  refine keeps_ite ?_ ?_
  · refine keeps_frame ?_
    exact h7
  · exact h7

theorem cutLoads_keeps {r s} (h : Keeps r s) : Keeps r (cutLoads s) := by
  unfold cutLoads
  refine keeps_foldl (fun s1 x2 h3 => ?_) ?_
  · split
    · exact completeCmd_keeps h3
    · exact completeCmd_keeps h3
    · exact completeCmd_keeps h3
    · exact completeCmd_keeps h3
    · exact completeCmd_keeps h3
    · exact h3
  · exact h

theorem closeJob_keeps {r s} {a0} (h : Keeps r s) : Keeps r (closeJob a0 s) := by
  unfold closeJob
  extract_lets -merge -underBinder +onlyGivenNames x1
  have h2 : Keeps r x1 := by
    refine keeps_foldl (fun s3 x4 h5 => ?_) ?_
    · exact dropLedger_keeps (dropEph_keeps h5)
    · exact h
  clear_value x1
  extract_lets -merge -underBinder +onlyGivenNames x6
  have h7 : Keeps r x6 := releaseTokens_keeps h2
  clear_value x6
  extract_lets -merge -underBinder +onlyGivenNames x8
  have h9 : Keeps r x8 := by
    refine keeps_foldl (fun s10 x11 h12 => ?_) ?_
    · exact clearPermits_keeps (unloadContexts_keeps h12)
    · exact h7
  clear_value x8
  extract_lets -merge -underBinder +onlyGivenNames x13
  have h14 : Keeps r x13 := dropPlan_keeps (cutLoads_keeps h9)
  clear_value x13
  refine keeps_frame ?_
  exact h14

theorem zeroMemories_keeps {r s} (h : Keeps r s) : Keeps r (zeroMemories s) := by
  refine keeps_mapV (fs := fun x => x) (fc := fun c => { c with plates := [], ptag := [], pcode := [], imem := [] })
    (fk := fun k => { k with mem := [], tag := [], code := [] })
    ?_ ?_ ?_ h rfl rfl (.inr (.inl rfl)) (.inl rfl) (.inl rfl) (.inl rfl) rfl (.inl rfl) h.fuses
  · intro x hx; exact hx
  · intro x hx; exact ⟨rfl, rfl, hx.pc, hx.loops⟩
  · intro x _; rfl

theorem effJobCloseZeroing_keeps {r s} {a0} (h : Keeps r s) : Keeps r (effJobCloseZeroing a0 s) := by
  unfold effJobCloseZeroing
  split
  · split
    · refine keeps_ite ?_ ?_
      · exact h
      · exact setWork_keeps (closeJob_keeps h)
    · exact h
  · exact h

theorem effJobCloseDone_keeps {r s} {a0} (h : Keeps r s) : Keeps r (effJobCloseDone a0 s) := by
  unfold effJobCloseDone
  split
  · split
    · exact completeCmd_keeps (zeroMemories_keeps h)
    · exact h
  · exact h

theorem readRejected_keeps {r s} {a0 a1 a2 a3 a4 a5} (h : Keeps r s) : Keeps r (readRejected a0 a1 a2 a3 a4 a5 s) := by
  unfold readRejected
  exact completeCmd_keeps (structRejected_keeps h)

theorem heldStruct_keeps {r s} {a0 a1 a2 a3} (h : Keeps r s) (g4 : ∀ y0 t, Keeps r t → Keeps r (a3 y0 t)) : Keeps r (heldStruct a0 a1 a2 a3 s) := by
  unfold heldStruct
  refine keeps_ite ?_ ?_
  · exact hitHbm_keeps h
  · refine g4 _ _ ?_
    exact h

theorem loadRecipe_keeps {r s} {a0 a1 a2 a3} (h : Keeps r s) : Keeps r (loadRecipe a0 a1 a2 a3 s) := by
  unfold loadRecipe
  extract_lets -merge -underBinder +onlyGivenNames x1
  refine heldStruct_keeps ?_ ?_
  · exact h
  · intro y3 y4 h2
    extract_lets -merge -underBinder +onlyGivenNames x5
    have h6 : Keeps r x5.2 := readStruct_keeps h2
    clear_value x5
    split
    · exact readRejected_keeps h6
    · extract_lets -merge -underBinder +onlyGivenNames x7
      split
      · exact completeCmd_keeps (structRejected_keeps h6)
      · refine completeCmd_keeps ?_
        extract_lets -merge -underBinder +onlyGivenNames x8
        have h9 : Keeps r x8 := h6
        clear_value x8
        refine keeps_frame ?_
        exact h9

theorem effSetRecipe_keeps {r s} {a0 a1 a2} (h : Keeps r s) : Keeps r (effSetRecipe a0 a1 a2 s) := by
  unfold effSetRecipe
  refine dispatch_keeps ?_ ?_
  · exact h
  · intro y2 y3 y4 h1
    exact loadRecipe_keeps (startCmd_keeps h1)

theorem effGroupDefine_keeps {r s} {a0 a1} (h : Keeps r s) : Keeps r (effGroupDefine a0 a1 s) := by
  unfold effGroupDefine
  refine dispatch_keeps ?_ ?_
  · exact h
  · intro y2 y3 y4 h1
    refine atOnce_keeps ?_ ?_
    · exact h1
    · intro y6 h5
      refine keeps_frame ?_
      exact h5

theorem startMember_keeps {r s} {a0 a1 a2 a3 a4} (h : Keeps r s) : Keeps r (startMember a0 a1 a2 a3 a4 s) := by
  unfold startMember
  refine keeps_foldl (fun _ _ h => setCore_keeps h (fun hc => h.spad hc)) ?_
  refine setCl_keeps h (fun hc => ⟨(h.clu hc).imem, (h.clu hc).plates, ?_, Nat.zero_le _⟩)
  have h1 : fld a2 136 6 < 2 ^ 6 := Nat.mod_lt _ (by decide)
  have h2 : fld a2 144 8 < 2 ^ 8 := Nat.mod_lt _ (by decide)
  show fld a2 136 6 * 256 + fld a2 144 8 < 16384
  omega

theorem effGroupStart_keeps {r s} {a0 a1} (h : Keeps r s) : Keeps r (effGroupStart a0 a1 s) := by
  unfold effGroupStart
  refine dispatch_keeps ?_ ?_
  · exact h
  · intro y2 y3 y4 h1
    extract_lets -merge -underBinder +onlyGivenNames x5
    refine keeps_foldl (fun s6 x7 h8 => ?_) ?_
    · exact startMember_keeps h8
    · exact startCmd_keeps h1

theorem effGroupStop_keeps {r s} {a0 a1} (h : Keeps r s) : Keeps r (effGroupStop a0 a1 s) := by
  unfold effGroupStop
  refine dispatch_keeps ?_ ?_
  · exact h
  · intro y2 y3 y4 h1
    extract_lets -merge -underBinder +onlyGivenNames x5
    refine keeps_foldl (fun s6 x7 h8 => ?_) ?_
    · exact trap_keeps h8
    · exact startCmd_keeps h1

theorem openBatch_keeps {r s} {a0} (h : Keeps r s) : Keeps r (openBatch a0 s) := by
  unfold openBatch
  refine keeps_foldl (fun s1 x2 h3 => ?_) ?_
  · extract_lets -merge -underBinder +onlyGivenNames x4
    refine setCl_keeps ?_ ?_
    · exact h3
    · intro hc
      refine plateWrite_ok ?_
      extract_lets -merge -underBinder +onlyGivenNames x5
      exact ⟨((h3.inv hc).clu _).imem, ((h3.inv hc).clu _).plates, ((h3.inv hc).clu _).pc, ((h3.inv hc).clu _).loops⟩
  · exact h

theorem effBatchAdmit_keeps {r s} {a0 a1} (h : Keeps r s) : Keeps r (effBatchAdmit a0 a1 s) := by
  unfold effBatchAdmit
  refine dispatch_keeps ?_ ?_
  · exact h
  · intro y2 y3 y4 h1
    refine atOnce_keeps ?_ ?_
    · exact h1
    · intro y6 h5
      exact openBatch_keeps h5

theorem hostRequest_keeps {r s} {a0 a1 a2 a3} (h : Keeps r s) : Keeps r (hostRequest a0 a1 a2 a3 s) := by
  unfold hostRequest
  extract_lets -merge -underBinder +onlyGivenNames x1
  refine emit_keeps ?_
  refine keeps_frame ?_
  exact h

theorem pumpCmd_keeps {r s n a1} (h : Keeps r s) : Keeps r (pumpCmd n a1 s) := by
  induction n generalizing s with
  | zero => exact h
  | succ n ih =>
    unfold pumpCmd
    split
    · exact h
    · split
      · exact keeps_ite (ih (hostRequest_keeps (setWork_keeps h))) h
      · exact keeps_ite (ih (hostRequest_keeps (setWork_keeps h))) h
      · exact h

theorem hostPump_keeps {r s} (h : Keeps r s) : Keeps r (hostPump s) := by
  unfold hostPump
  refine keeps_foldl (fun s1 x2 h3 => ?_) ?_
  · exact pumpCmd_keeps h3
  · exact h

theorem loadEnds_keeps {r s} {a0} (h : Keeps r s) : Keeps r (loadEnds a0 s) := by
  unfold loadEnds
  split
  · split
    · exact completeCmd_keeps h
    · exact h
  · exact h

theorem losePage_keeps {r s} {a0 a1} (h : Keeps r s) : Keeps r (losePage a0 a1 s) := by
  unfold losePage
  split
  · split
    · exact loadEnds_keeps (setWork_keeps h)
    · exact h
  · exact h

theorem readPages_keeps {r s} {a0 a1 a2 a3} (h : Keeps r s) : Keeps r (readPages a0 a1 a2 a3 s) := by
  unfold readPages
  extract_lets -merge -underBinder +onlyGivenNames x1
  extract_lets -merge -underBinder +onlyGivenNames x2
  extract_lets -merge -underBinder +onlyGivenNames x3
  have h4 : Keeps r x3.2 := readUntracked_keeps (hitHbm_keeps h)
  clear_value x3
  extract_lets -merge -underBinder +onlyGivenNames x5
  extract_lets -merge -underBinder +onlyGivenNames x6
  refine keeps_foldl (fun s7 x8 h9 => ?_) ?_
  · exact losePage_keeps h9
  · exact setWork_keeps h4

theorem beginLoad_keeps {r s} {a0 a1 a2} (h : Keeps r s) : Keeps r (beginLoad a0 a1 a2 s) := by
  unfold beginLoad
  refine keeps_ite ?_ ?_
  · exact hostPump_keeps (setWork_keeps h)
  · refine heldStruct_keeps ?_ ?_
    · exact h
    · intro y2 y3 h1
      exact readPages_keeps h1

theorem effLoadProgram_keeps {r s} {a0 a1 a2} (h : Keeps r s) : Keeps r (effLoadProgram a0 a1 a2 s) := by
  unfold effLoadProgram
  refine dispatch_keeps ?_ ?_
  · exact h
  · intro y2 y3 y4 h1
    exact beginLoad_keeps (startCmd_keeps h1)

theorem writePage_keeps {r s} {a0 a1 a2} (h : Keeps r s) : Keeps r (writePage a0 a1 a2 s) := by
  unfold writePage
  extract_lets -merge -underBinder +onlyGivenNames x1
  refine setCl_keeps ?_ ?_
  · exact h
  · intro hc
    refine ⟨?_, ?_, ?_, ?_⟩
    · refine Mem.wf_writes _ _ ?_
      exact ((h.inv hc).clu _).imem
    · exact ((h.inv hc).clu _).plates
    · exact ((h.inv hc).clu _).pc
    · exact ((h.inv hc).clu _).loops

theorem effLoadProgramPageWrite_keeps {r s} {a0 a1 a2} (h : Keeps r s) : Keeps r (effLoadProgramPageWrite a0 a1 a2 s) := by
  unfold effLoadProgramPageWrite
  split
  · split
    · split
      · refine keeps_ite ?_ ?_
        · exact h
        · split
          · exact loadEnds_keeps (writePage_keeps (setWork_keeps h))
          · exact h
      · exact h
    · exact h
  · exact h

theorem loadEph_keeps {r s} {a0 a1 a2 a3} (h : Keeps r s) : Keeps r (loadEph a0 a1 a2 a3 s) := by
  unfold loadEph
  extract_lets -merge -underBinder +onlyGivenNames x1
  extract_lets -merge -underBinder +onlyGivenNames x2
  extract_lets -merge -underBinder +onlyGivenNames x3
  refine heldStruct_keeps ?_ ?_
  · exact h
  · intro y5 y6 h4
    extract_lets -merge -underBinder +onlyGivenNames x7
    have h8 : Keeps r x7.2 := readStruct_keeps h4
    clear_value x7
    split
    · exact readRejected_keeps h8
    · extract_lets -merge -underBinder +onlyGivenNames x9
      extract_lets -merge -underBinder +onlyGivenNames x10
      refine keeps_ite ?_ ?_
      · exact completeCmd_keeps (structRejected_keeps h8)
      · split
        · exact completeCmd_keeps (structRejected_keeps h8)
        · exact setDie_keeps (setWork_keeps h8)

theorem effEphLoad_keeps {r s} {a0 a1 a2} (h : Keeps r s) : Keeps r (effEphLoad a0 a1 a2 s) := by
  unfold effEphLoad
  refine dispatch_keeps ?_ ?_
  · exact h
  · intro y2 y3 y4 h1
    exact loadEph_keeps (startCmd_keeps h1)

theorem beginMoves_keeps {r s} {a0 a1 a2} (h : Keeps r s) : Keeps r (beginMoves a0 a1 a2 s) := by
  unfold beginMoves
  refine heldStruct_keeps ?_ ?_
  · exact h
  · intro y2 y3 h1
    extract_lets -merge -underBinder +onlyGivenNames x4
    have h5 : Keeps r x4.2 := readList_keeps h1
    clear_value x4
    exact setWork_keeps h5

theorem effTileMove_keeps {r s} {a0 a1 a2} (h : Keeps r s) : Keeps r (effTileMove a0 a1 a2 s) := by
  unfold effTileMove
  refine dispatch_keeps ?_ ?_
  · exact h
  · intro y2 y3 y4 h1
    exact beginMoves_keeps (startCmd_keeps h1)

theorem beginXfer_keeps {r s} {a0 a1 a2} (h : Keeps r s) : Keeps r (beginXfer a0 a1 a2 s) := by
  unfold beginXfer
  extract_lets -merge -underBinder +onlyGivenNames x1
  extract_lets -merge -underBinder +onlyGivenNames x2
  extract_lets -merge -underBinder +onlyGivenNames x3
  extract_lets -merge -underBinder +onlyGivenNames x4
  extract_lets -merge -underBinder +onlyGivenNames x5
  refine keeps_ite ?_ ?_
  · exact completeCmd_keeps h
  · extract_lets -merge -underBinder +onlyGivenNames x6
    refine keeps_ite ?_ ?_
    · refine heldStruct_keeps ?_ ?_
      · exact h
      · intro y8 y9 h7
        extract_lets -merge -underBinder +onlyGivenNames x10
        have h11 : Keeps r x10.2 := readUntracked_keeps (hitHbm_keeps (setWork_keeps h7))
        clear_value x10
        refine keeps_ite ?_ ?_
        · exact nvTransfer_keeps h11
        · exact completeCmd_keeps h11
    · exact nvTransfer_keeps (setWork_keeps h)

theorem effStorageXfer_keeps {r s} {a0 a1 a2} (h : Keeps r s) : Keeps r (effStorageXfer a0 a1 a2 s) := by
  unfold effStorageXfer
  refine dispatch_keeps ?_ ?_
  · exact h
  · intro y2 y3 y4 h1
    exact beginXfer_keeps (startCmd_keeps h1)

theorem effHostCopy_keeps {r s} {a0 a1} (h : Keeps r s) : Keeps r (effHostCopy a0 a1 s) := by
  unfold effHostCopy
  refine dispatch_keeps ?_ ?_
  · exact h
  · intro y2 y3 y4 h1
    extract_lets -merge -underBinder +onlyGivenNames x5
    refine keeps_ite ?_ ?_
    · refine atOnce_keeps ?_ ?_
      · exact h1
      · intro y7 h6
        exact h6
    · refine keeps_ite ?_ ?_
      · exact startCmd_keeps h1
      · exact hostPump_keeps (startCmd_keeps h1)

theorem dropReads_keeps {r s} {a0} (h : Keeps r s) : Keeps r (dropReads a0 s) := by
  unfold dropReads
  refine keeps_frame ?_
  exact h

theorem readFails_keeps {r s} {a0 a1} (h : Keeps r s) : Keeps r (readFails a0 a1 s) := by
  unfold readFails
  split
  · split
    · exact completeCmd_keeps (dropReads_keeps h)
    · exact losePage_keeps h
  · exact h

theorem readArrives_keeps {r s} {a0 a1 a2} (h : Keeps r s) : Keeps r (readArrives a0 a1 a2 s) := by
  unfold readArrives
  split
  · split
    · exact landCmd_keeps h
    · exact setWork_keeps h
    · exact h
  · exact h

theorem effHostReadCompletion_keeps {r s} {a0 a1 a2} (h : Keeps r s) : Keeps r (effHostReadCompletion a0 a1 a2 s) := by
  unfold effHostReadCompletion
  split
  · exact h
  · extract_lets -merge -underBinder +onlyGivenNames x1
    have h2 : Keeps r x1 := by
      refine keeps_frame ?_
      exact h
    clear_value x1
    refine hostPump_keeps ?_
    refine keeps_ite ?_ ?_
    · exact readArrives_keeps h2
    · exact readFails_keeps h2

theorem effHostReadTimeout_keeps {r s} {a0} (h : Keeps r s) : Keeps r (effHostReadTimeout a0 s) := by
  unfold effHostReadTimeout
  split
  · exact h
  · refine hostPump_keeps ?_
    refine readFails_keeps ?_
    refine keeps_frame ?_
    exact h

theorem writeHost_keeps {r s} {a0 a1 a2} (h : Keeps r s) : Keeps r (writeHost a0 a1 a2 s) := by
  unfold writeHost
  refine keeps_foldl (fun s1 x2 h3 => ?_) ?_
  · exact emit_keeps h3
  · exact h

theorem effHostCopyWritten_keeps {r s} {a0 a1 a2 a3} (h : Keeps r s) : Keeps r (effHostCopyWritten a0 a1 a2 a3 s) := by
  unfold effHostCopyWritten
  split
  · split
    · extract_lets -merge -underBinder +onlyGivenNames x1
      extract_lets -merge -underBinder +onlyGivenNames x2
      refine keeps_ite ?_ ?_
      · exact h
      · extract_lets -merge -underBinder +onlyGivenNames x3
        have h4 : Keeps r x3 := hitHbm_keeps h
        clear_value x3
        split
        · exact completeCmd_keeps (writeHost_keeps h4)
        · refine keeps_ite ?_ ?_
          · exact h4
          · exact completeCmd_keeps (readUntracked_keeps (writeHost_keeps h4))
    · exact h
  · exact h

theorem structTimeout_keeps {r s} {a0} (h : Keeps r s) : Keeps r (structTimeout a0 s) := by
  unfold structTimeout
  split
  · split
    · exact h
    · refine keeps_ite ?_ ?_
      · exact readPages_keeps h
      · refine keeps_ite ?_ ?_
        · exact completeCmd_keeps h
        · exact readRejected_keeps h

theorem heldTimeout_keeps {r s} {a0} (h : Keeps r s) : Keeps r (heldTimeout a0 s) := by
  unfold heldTimeout
  split
  · exact h
  · split
    · exact structTimeout_keeps h
    · refine keeps_ite ?_ ?_
      · exact completeCmd_keeps h
      · exact h
    · refine keeps_ite ?_ ?_
      · exact completeCmd_keeps (dropReads_keeps h)
      · exact h
    · refine keeps_ite ?_ ?_
      · exact xferFails_keeps h
      · exact h
    · exact h

end Sys2Proof.Machine
end

