-- ==== Sys2Proof/Laws/KeepsRuns.lean ====
section
/-! SUPPORT. KeepsRuns: what the functions of Machine/Runs.lean keep. -/

namespace Sys2Proof.Machine

theorem sendWait_keeps {r s} {a0} (h : Keeps r s) : Keeps r (sendWait a0 s) := by
  unfold sendWait
  split
  · exact h
  · extract_lets -merge -underBinder +onlyGivenNames x1
    extract_lets -merge -underBinder +onlyGivenNames x2
    extract_lets -merge -underBinder +onlyGivenNames x3
    have h4 : Keeps r x3 := noteSent_keeps (sendData_keeps (setCtx_keeps h))
    clear_value x3
    split
    · exact freeFab_keeps h4
    · exact h4

theorem flushOne_keeps {r} {a : List (Nat × Nat × Bool) × State} {x} (h : Keeps r a.2) : Keeps r (flushOne a x).2 := by
  unfold flushOne
  extract_lets s
  have hs : Keeps r s := h
  clear_value s
  split
  · exact setPhot_keeps hs
  · exact sendWait_keeps hs

theorem flushData_keeps {r s a0} (h : Keeps r s) : Keeps r (flushData a0 s) := by
  have hl : ∀ (l : List WaitCell) (a : List (Nat × Nat × Bool) × State), Keeps r a.2 → Keeps r (l.foldl flushOne a).2 := by
    intro l
    induction l with
    | nil => exact fun _ h => h
    | cons x l ih => exact fun a h => ih _ (flushOne_keeps h)
  exact hl _ _ (setPhot_keeps h)

theorem pushLines_keeps {r s} {a0 a1 a2 a3} (h : Keeps r s) : Keeps r (pushLines a0 a1 a2 a3 s) := by
  unfold pushLines
  refine keeps_foldl (fun s1 x2 h3 => ?_) ?_
  · exact pushData_keeps h3
  · exact h

theorem landRun_keeps {r s} {a0 a1 a2} (h : Keeps r s) : Keeps r (landRun a0 a1 a2 s) := by
  unfold landRun
  split
  · exact setRun_keeps (landLine_keeps h)
  · exact h

theorem fabricBad_keeps {r s} {a0 a1} (h : Keeps r s) : Keeps r (fabricBad a0 a1 s) := by
  unfold fabricBad
  refine keeps_foldl (fun s1 x2 h3 => ?_) ?_
  · exact failSector_keeps h3
  · exact h

theorem fabricTrap_keeps {r s} {a0 a1 a2 a3} (h : Keeps r s) : Keeps r (fabricTrap a0 a1 a2 a3 s) := by
  unfold fabricTrap
  split
  · exact trap_keeps h
  · exact h

theorem sourceFails_keeps {r s} {a0 a1 a2} (h : Keeps r s) : Keeps r (sourceFails a0 a1 a2 s) := by
  unfold sourceFails
  split
  · exact raiseOn_keeps (fabricBad_keeps h)
  · split
    · refine plateError_keeps ?_ ?_
      · exact h
      · intro y2 h1
        exact fabricTrap_keeps h1
    · refine raiseOn_keeps ?_
      refine plateError_keeps ?_ ?_
      · exact h
      · intro y4 h3
        exact h3
  · refine spadError_keeps ?_ ?_
    · exact h
    · intro y6 h5
      exact fabricTrap_keeps h5
  · exact h

theorem countSat_keeps {r s} {a0 a1} (h : Keeps r s) : Keeps r (countSat a0 a1 s) := by
  unfold countSat
  extract_lets -merge -underBinder +onlyGivenNames x1
  exact setPhot_keeps h

theorem finishLine_keeps {r s} {a0 a1} (h : Keeps r s) : Keeps r (finishLine a0 a1 s) := by
  unfold finishLine
  split
  · extract_lets -merge -underBinder +onlyGivenNames x1
    extract_lets -merge -underBinder +onlyGivenNames x2
    extract_lets -merge -underBinder +onlyGivenNames x3
    refine keeps_ite ?_ ?_
    · exact h
    · extract_lets -merge -underBinder +onlyGivenNames x4
      extract_lets -merge -underBinder +onlyGivenNames x5
      extract_lets -merge -underBinder +onlyGivenNames x6
      have h7 : Keeps r x6 := countSat_keeps h
      clear_value x6
      extract_lets -merge -underBinder +onlyGivenNames x8
      extract_lets -merge -underBinder +onlyGivenNames x9
      have h10 : Keeps r x9 := landRun_keeps h7
      clear_value x9
      refine keeps_ite ?_ ?_
      · exact pushData_keeps h10
      · exact h10
  · exact h

theorem chainLine_keeps {r s} {a0 a1 a2} (h : Keeps r s) : Keeps r (chainLine a0 a1 a2 s).2 := by
  unfold chainLine
  split
  · extract_lets -merge -underBinder +onlyGivenNames x1
    split
    · extract_lets -merge -underBinder +onlyGivenNames x2
      exact finishLine_keeps (setRun_keeps h)
    · exact h
  · exact h

theorem chainLines_keeps {r s a0 a1} (h : Keeps r s) : Keeps r (chainLines a0 a1 s) := by
  have hl : ∀ (l : List (Nat × List W32)) (a : List (Nat × List Byte × Nat) × State), Keeps r a.2 →
      Keeps r (l.foldl (fun (a : List (Nat × List Byte × Nat) × State) x =>
        let p := chainLine a0 x.1 x.2 a.2
        (a.1 ++ p.1, p.2)) a).2 := by
    intro l
    induction l with
    | nil => exact fun _ h => h
    | cons x l ih => exact fun a h => ih _ (chainLine_keeps h)
  have hr := hl a1 ([], s) h
  unfold chainLines
  extract_lets x
  have hx : Keeps r x.2 := hr
  split
  · exact pushLines_keeps hx
  · exact hx

theorem startReduce_keeps {r s} {a0 a1 a2} (h : Keeps r s) : Keeps r (startReduce a0 a1 a2 s) := by
  unfold startReduce
  extract_lets -merge -underBinder +onlyGivenNames x1
  split
  · exact sourceFails_keeps h
  · extract_lets -merge -underBinder +onlyGivenNames x2
    extract_lets -merge -underBinder +onlyGivenNames x3
    extract_lets -merge -underBinder +onlyGivenNames x4
    extract_lets -merge -underBinder +onlyGivenNames x5
    extract_lets -merge -underBinder +onlyGivenNames x6
    exact chainLines_keeps (setRun_keeps h)

theorem reduceChain_keeps {r s} {a0 a1 a2} (h : Keeps r s) : Keeps r (reduceChain a0 a1 a2 s) := by
  unfold reduceChain
  split
  · exact chainLines_keeps h
  · exact h

theorem passAround_keeps {r s} {a0 a1 a2 a3} (h : Keeps r s) : Keeps r (passAround a0 a1 a2 a3 s) := by
  unfold passAround
  split
  · extract_lets -merge -underBinder +onlyGivenNames x1
    have h2 : Keeps r x1 := by
      refine keeps_foldl (fun s3 x4 h5 => ?_) ?_
      · exact landRun_keeps h5
      · exact h
    clear_value x1
    exact pushLines_keeps h2
  · exact h

theorem sendShard_keeps {r s} {a0 a1 a2} (h : Keeps r s) : Keeps r (sendShard a0 a1 a2 s) := by
  unfold sendShard
  extract_lets -merge -underBinder +onlyGivenNames x1
  extract_lets -merge -underBinder +onlyGivenNames x2
  extract_lets -merge -underBinder +onlyGivenNames x3
  extract_lets -merge -underBinder +onlyGivenNames x4
  extract_lets -merge -underBinder +onlyGivenNames x5
  have h6 : Keeps r x5 := setRun_keeps h
  clear_value x5
  extract_lets -merge -underBinder +onlyGivenNames x7
  have h8 : Keeps r x7 := by
    refine keeps_foldl (fun s9 x10 h11 => ?_) ?_
    · exact landRun_keeps h11
    · exact h6
  clear_value x7
  refine keeps_ite ?_ ?_
  · exact h8
  · exact pushLines_keeps h8

theorem startGather_keeps {r s} {a0 a1 a2} (h : Keeps r s) : Keeps r (startGather a0 a1 a2 s) := by
  unfold startGather
  extract_lets -merge -underBinder +onlyGivenNames x1
  extract_lets -merge -underBinder +onlyGivenNames x2
  extract_lets -merge -underBinder +onlyGivenNames x3
  extract_lets -merge -underBinder +onlyGivenNames x4
  refine keeps_ite ?_ ?_
  · exact raiseOn_keeps h
  · extract_lets -merge -underBinder +onlyGivenNames x5
    extract_lets -merge -underBinder +onlyGivenNames x6
    extract_lets -merge -underBinder +onlyGivenNames x7
    have h8 : Keeps r x7 := by
      refine keeps_foldl (fun s9 x10 h11 => ?_) ?_
      · exact failSector_keeps h11
      · exact h
    clear_value x7
    refine keeps_ite ?_ ?_
    · exact raiseOn_keeps h8
    · refine keeps_ite ?_ ?_
      · exact raiseOn_keeps h8
      · extract_lets -merge -underBinder +onlyGivenNames x12
        have h13 : Keeps r x12 := by
          refine keeps_ite ?_ ?_
          · exact setCtx_keeps h8
          · exact h8
        clear_value x12
        exact sendShard_keeps h13

theorem sendStripe_keeps {r s} {a0 a1 a2 a3 a4 a5 a6} (h : Keeps r s) : Keeps r (sendStripe a0 a1 a2 a3 a4 a5 a6 s) := by
  unfold sendStripe
  split
  · exact raiseOn_keeps (fabricBad_keeps h)
  · refine keeps_foldl (fun s1 x2 h3 => ?_) ?_
    · exact pushLines_keeps h3
    · exact setRun_keeps h

theorem startStripe_keeps {r s} {a0 a1 a2} (h : Keeps r s) : Keeps r (startStripe a0 a1 a2 s) := by
  unfold startStripe
  extract_lets -merge -underBinder +onlyGivenNames x1
  extract_lets -merge -underBinder +onlyGivenNames x2
  refine keeps_ite ?_ ?_
  · refine keeps_ite ?_ ?_
    · exact sendStripe_keeps h
    · exact setRun_keeps h
  · extract_lets -merge -underBinder +onlyGivenNames x3
    refine keeps_ite ?_ ?_
    · exact setRun_keeps h
    · exact sendStripe_keeps h

theorem foldWindow_keeps {r s} {a0 a1} (h : Keeps r s) : Keeps r (foldWindow a0 a1 s) := by
  unfold foldWindow
  split
  · extract_lets -merge -underBinder +onlyGivenNames x1
    extract_lets -merge -underBinder +onlyGivenNames x2
    refine keeps_ite ?_ ?_
    · extract_lets -merge -underBinder +onlyGivenNames x3
      have h4 : Keeps r x3 := setRun_keeps h
      clear_value x3
      refine keeps_foldl (fun s5 x6 h7 => ?_) ?_
      · exact landRun_keeps h7
      · exact h4
    · exact h
  · exact h

theorem giveWindow_keeps {r s} {a0} (h : Keeps r s) : Keeps r (giveWindow a0 s) := by
  unfold giveWindow
  split
  · extract_lets -merge -underBinder +onlyGivenNames x1
    refine keeps_ite ?_ ?_
    · refine keeps_foldl (fun s2 x3 h4 => ?_) ?_
      · exact grant_keeps h4
      · exact setRun_keeps h
    · exact h
  · exact h

theorem giveWindows_keeps {r s} {a0} (h : Keeps r s) : Keeps r (giveWindows a0 s) := by
  unfold giveWindows
  refine keeps_foldl (fun s1 x2 h3 => ?_) ?_
  · exact giveWindow_keeps h3
  · exact h

theorem stripeFold_keeps {r s} {a0 a1 a2 a3} (h : Keeps r s) : Keeps r (stripeFold a0 a1 a2 a3 s) := by
  unfold stripeFold
  extract_lets -merge -underBinder +onlyGivenNames x1
  have h2 : Keeps r x1 := by
    refine keeps_foldl (fun s3 x4 h5 => ?_) ?_
    · split
      · extract_lets -merge -underBinder +onlyGivenNames x6
        extract_lets -merge -underBinder +onlyGivenNames x7
        split
        · exact setRun_keeps h5
      · exact h5
    · exact h
  clear_value x1
  extract_lets -merge -underBinder +onlyGivenNames x8
  refine keeps_foldl (fun s9 x10 h11 => ?_) ?_
  · exact foldWindow_keeps h11
  · exact h2

theorem rebuildLine_keeps {r s} {a0 a1} (h : Keeps r s) : Keeps r (rebuildLine a0 a1 s) := by
  unfold rebuildLine
  split
  · extract_lets -merge -underBinder +onlyGivenNames x1
    extract_lets -merge -underBinder +onlyGivenNames x2
    extract_lets -merge -underBinder +onlyGivenNames x3
    refine keeps_ite ?_ ?_
    · extract_lets -merge -underBinder +onlyGivenNames x4
      exact landRun_keeps h
    · exact h
  · exact h

theorem stripeRebuild_keeps {r s} {a0 a1 a2 a3} (h : Keeps r s) : Keeps r (stripeRebuild a0 a1 a2 a3 s) := by
  unfold stripeRebuild
  extract_lets -merge -underBinder +onlyGivenNames x1
  have h2 : Keeps r x1 := by
    unfold x1
    split
    · exact setRun_keeps h
    · exact h
  clear_value x1
  refine keeps_foldl (fun s3 x4 h5 => ?_) ?_
  · exact rebuildLine_keeps h5
  · exact h2

theorem grantRun_keeps {r s} {a0 a1} (h : Keeps r s) : Keeps r (grantRun a0 a1 s) := by
  unfold grantRun
  extract_lets -merge -underBinder +onlyGivenNames x1
  extract_lets -merge -underBinder +onlyGivenNames x2
  split
  · refine keeps_ite ?_ ?_
    · exact h
    · exact grant_keeps h
  · refine keeps_ite ?_ ?_
    · exact h
    · exact grant_keeps h
  · refine keeps_ite ?_ ?_
    · refine keeps_foldl (fun s3 x4 h5 => ?_) ?_
      · exact grant_keeps h5
      · exact h
    · exact h
  · exact h

theorem goRounds_keeps {r s n a1 a2} (h : Keeps r s) : Keeps r (goRounds n a1 a2 s) := by
  induction n generalizing s with
  | zero => exact h
  | succ n ih =>
    unfold goRounds
    split
    · refine keeps_ite h (keeps_ite ?_ (keeps_ite ?_ h))
      · exact ih (queueCell_keeps (setRun_keeps h))
      · exact ih (setRun_keeps h)
    · exact h

theorem writeStats_keeps {r s} {a0 a1 a2} (h : Keeps r s) : Keeps r (writeStats a0 a1 a2 s) := by
  unfold writeStats
  split
  · extract_lets -merge -underBinder +onlyGivenNames x1
    extract_lets -merge -underBinder +onlyGivenNames x2
    extract_lets -merge -underBinder +onlyGivenNames x3
    extract_lets -merge -underBinder +onlyGivenNames x4
    have h5 : Keeps r x4 := writeSector_keeps h
    clear_value x4
    extract_lets -merge -underBinder +onlyGivenNames x6
    have h7 : Keeps r x6 := setRun_keeps h5
    clear_value x6
    refine keeps_ite ?_ ?_
    · exact record_keeps h7
    · exact h7
  · exact h

theorem passStats_keeps {r s} {a0} (h : Keeps r s) : Keeps r (passStats a0 s) := by
  unfold passStats
  split
  · extract_lets -merge -underBinder +onlyGivenNames x1
    extract_lets -merge -underBinder +onlyGivenNames x2
    extract_lets -merge -underBinder +onlyGivenNames x3
    refine keeps_ite ?_ ?_
    · unfold x3
      split
      · exact h
      · extract_lets -merge -underBinder +onlyGivenNames x4
        have h5 : Keeps r x4 := setRun_keeps h
        clear_value x4
        refine keeps_ite ?_ ?_
        · refine keeps_foldl (fun s6 x7 h8 => ?_) ?_
          · exact sendLine_keeps h8
          · exact writeStats_keeps h5
        · exact sendLine_keeps h5
    · exact h
  · exact h

theorem releaseParts_keeps {r s} {a0} (h : Keeps r s) : Keeps r (releaseParts a0 s) := by
  unfold releaseParts
  refine keeps_foldl (fun s1 x2 h3 => ?_) ?_
  · exact laneDone_keeps h3
  · exact h

theorem finishRun_keeps {r s} {a0} (h : Keeps r s) : Keeps r (finishRun a0 s) := by
  unfold finishRun
  split
  · extract_lets -merge -underBinder +onlyGivenNames x1
    have h2 : Keeps r x1 := rebuildRec_keeps h
    clear_value x1
    extract_lets -merge -underBinder +onlyGivenNames x3 x4
    exact releaseParts_keeps (delRun_keeps (setCtx_keeps h2))
  · exact h

theorem finishReceive_keeps {r s} {a0} (h : Keeps r s) : Keeps r (finishReceive a0 s) := by
  unfold finishReceive
  split
  · refine keeps_ite ?_ ?_
    · exact releaseParts_keeps (delRun_keeps (setCtx_keeps h))
    · exact h
  · exact h

theorem startRun_keeps {r s} {a0} (h : Keeps r s) : Keeps r (startRun a0 s) := by
  unfold startRun
  split
  · refine keeps_ite ?_ ?_
    · exact raiseOn_keeps h
    · refine keeps_ite ?_ ?_
      · exact h
      · split
        · refine keeps_ite ?_ ?_
          · exact h
          · exact startReduce_keeps h
        · exact startGather_keeps h
        · exact setRun_keeps h
        · exact startStripe_keeps h
        · exact h
  · exact h

theorem runStep_keeps {r s} {a0} (h : Keeps r s) : Keeps r (runStep a0 s) := by
  unfold runStep
  split
  · refine keeps_ite ?_ ?_
    · exact finishReceive_keeps h
    · split
      · refine keeps_ite ?_ ?_
        · exact startRun_keeps h
        · exact h
      · extract_lets -merge -underBinder +onlyGivenNames x1
        have h2 : Keeps r x1 := passStats_keeps h
        clear_value x1
        split
        · refine keeps_ite ?_ ?_
          · exact setRun_keeps h2
          · exact h2
        · exact h2
      · extract_lets -merge -underBinder +onlyGivenNames x3
        have h4 : Keeps r x3 := goRounds_keeps h
        clear_value x3
        split
        · refine keeps_ite ?_ ?_
          · exact finishRun_keeps h4
          · exact h4
        · exact h4
      · exact h
  · exact h

theorem landPut_keeps {r s} {a0 a1 a2} (h : Keeps r s) : Keeps r (landPut a0 a1 a2 s) := by
  unfold landPut
  split
  · exact setCtx_keeps (landLine_keeps h)
  · exact h

theorem startPut_keeps {r s} {a0 a1 a2 a3} (h : Keeps r s) : Keeps r (startPut a0 a1 a2 a3 s) := by
  unfold startPut
  extract_lets -merge -underBinder +onlyGivenNames x1
  extract_lets -merge -underBinder +onlyGivenNames x2
  split
  · refine laneCut_keeps ?_
    refine spadError_keeps ?_ ?_
    · exact freeFab_keeps h
    · intro y4 h3
      exact fabricTrap_keeps h3
  · exact h
  · extract_lets -merge -underBinder +onlyGivenNames x5
    extract_lets -merge -underBinder +onlyGivenNames x6
    have h7 : Keeps r x6 := setPhot_keeps h
    clear_value x6
    refine keeps_ite ?_ ?_
    · exact raiseOn_keeps h7
    · extract_lets -merge -underBinder +onlyGivenNames x8
      refine keeps_ite ?_ ?_
      · refine keeps_foldl (fun s9 x10 h11 => ?_) ?_
        · exact landPut_keeps h11
        · exact freeFab_keeps h7
      · exact pushLines_keeps h7

theorem countPut_keeps {r s} {a0} (h : Keeps r s) : Keeps r (countPut a0 s) := by
  unfold countPut
  split
  · exact setCtx_keeps h
  · exact h

theorem putStep_keeps {r s a0 a1} (h : Keeps r s) : Keeps r (putStep a0 a1 s) := by
  unfold putStep
  split
  · refine keeps_ite h ?_
    extract_lets +onlyGivenNames dst drop
    have hd : ∀ s, Keeps r s → Keeps r (drop s) := fun _ h => setPhot_keeps h
    clear_value drop
    refine keeps_ite (laneDone_keeps (hd _ h)) ?_
    extract_lets +onlyGivenNames s1
    have h1 : Keeps r s1 := freeFab_keeps (setCtx_keeps h)
    clear_value s1
    refine keeps_ite (laneDone_keeps (hd _ (countPut_keeps h1))) ?_
    exact sendLineFor_keeps (setPhot_keeps h1)
  · exact h

theorem popFab_keeps {r s} {a0} (h : Keeps r s) : Keeps r (popFab a0 s) := by
  unfold popFab
  refine setCl_keeps ?_ ?_
  · exact h
  · intro hc
    extract_lets -merge -underBinder +onlyGivenNames x1
    exact ⟨((h.inv hc).clu _).imem, ((h.inv hc).clu _).plates, ((h.inv hc).clu _).pc, ((h.inv hc).clu _).loops⟩

theorem fabFront_keeps {r s} {a0} (h : Keeps r s) : Keeps r (fabFront a0 s) := by
  unfold fabFront
  split
  · exact h
  · extract_lets -merge -underBinder +onlyGivenNames x1
    split
    · exact cutFabric_keeps (popFab_keeps h)
    · refine keeps_ite ?_ ?_
      · exact laneDone_keeps (raiseOn_keeps (popFab_keeps h))
      · refine keeps_ite ?_ ?_
        · exact h
        · refine keeps_ite ?_ ?_
          · refine keeps_ite ?_ ?_
            · exact h
            · refine keeps_ite ?_ ?_
              · exact cutFabric_keeps (popFab_keeps h)
              · refine keeps_ite ?_ ?_
                · exact startPut_keeps h
                · exact h
          · split
            · refine keeps_ite ?_ ?_
              · exact popFab_keeps (setRun_keeps h)
              · exact h
            · extract_lets -merge -underBinder +onlyGivenNames x2
              refine keeps_ite ?_ ?_
              · extract_lets -merge -underBinder +onlyGivenNames x3
                have h4 : Keeps r x3 := setPhot_keeps h
                clear_value x3
                exact grantRun_keeps (popFab_keeps h4)
              · exact h

theorem placeCtx_keeps {r s} {a0 a1} (h : Keeps r s) : Keeps r (placeCtx a0 a1 s) := by
  unfold placeCtx
  extract_lets -merge -underBinder +onlyGivenNames x1 x2
  extract_lets -merge -underBinder +onlyGivenNames x3
  refine keeps_ite ?_ ?_
  · exact setPhot_keeps h
  · extract_lets -merge -underBinder +onlyGivenNames x4
    have h5 : Keeps r x4 := setCtx_keeps h
    clear_value x4
    refine keeps_ite ?_ ?_
    · refine keeps_foldl (fun s6 x7 h8 => ?_) ?_
      · exact grant_keeps h8
      · exact h5
    · exact h5

theorem flowGo_keeps {r s} (h : Keeps r s) : Keeps r (flowGo s) := by
  unfold flowGo
  refine keeps_foldl (fun s1 x2 h3 => ?_) ?_
  · split
    · extract_lets -merge -underBinder +onlyGivenNames x4
      extract_lets -merge -underBinder +onlyGivenNames x5
      extract_lets -merge -underBinder +onlyGivenNames x6
      have h7 : Keeps r x6 := by
        refine keeps_foldl (fun s8 x9 h10 => ?_) ?_
        · exact placeCtx_keeps h10
        · exact h3
      clear_value x6
      refine keeps_ite ?_ ?_
      · exact completeCmd_keeps h7
      · exact setWork_keeps h7
    · exact h3
  · exact h

theorem fabPass_keeps {r s} (h : Keeps r s) : Keeps r (fabPass s) := by
  unfold fabPass
  extract_lets -merge -underBinder +onlyGivenNames x1
  have h2 : Keeps r x1 := by
    refine keeps_foldl (fun s3 x4 h5 => ?_) ?_
    · exact fabFront_keeps h5
    · exact h
  clear_value x1
  extract_lets -merge -underBinder +onlyGivenNames x6
  have h7 : Keeps r x6 := by
    refine keeps_foldl (fun s8 x9 h10 => ?_) ?_
    · refine giveWindows_keeps ?_
      refine keeps_foldl (fun s11 x12 h13 => ?_) ?_
      · exact runStep_keeps h13
      · exact h10
    · exact h2
  clear_value x6
  extract_lets -merge -underBinder +onlyGivenNames x14
  have h15 : Keeps r x14 := by
    refine keeps_foldl (fun s16 x17 h18 => ?_) ?_
    · refine keeps_foldl (fun s19 x20 h21 => ?_) ?_
      · exact putStep_keeps h21
      · exact h18
    · exact h7
  clear_value x14
  refine flowGo_keeps ?_
  refine keeps_foldl (fun s22 x23 h24 => ?_) ?_
  · exact flushData_keeps h24
  · exact h15

theorem fabGo_keeps {r s} (h : Keeps r s) : Keeps r (fabGo s) := by
  unfold fabGo
  extract_lets -merge -underBinder +onlyGivenNames x1
  refine keeps_foldl (fun s2 x3 h4 => ?_) ?_
  · exact fabPass_keeps h4
  · exact h

theorem fabIns_keeps {r s} {a0 a1} (h : Keeps r s) : Keeps r (fabIns a0 a1 s) := by
  unfold fabIns
  refine keeps_ite ?_ ?_
  · extract_lets -merge -underBinder +onlyGivenNames x1
    extract_lets -merge -underBinder +onlyGivenNames x2
    refine issueWith_keeps ?_ ?_
    · exact h
    · intro y4 h3
      refine keeps_ite ?_ ?_
      · refine goNext_keeps ?_
        refine keeps_ite ?_ ?_
        · exact postTok_keeps (armTV_keeps h3)
        · exact h3
      · refine keeps_ite ?_ ?_
        · exact hold_keeps h3
        · refine fabGo_keeps ?_
          refine issueU_keeps ?_ ?_
          · exact h3
          · intro k6 h5 hc
            exact ⟨((fun _ => h5) hc).imem, ((fun _ => h5) hc).plates, ((fun _ => h5) hc).pc, ((fun _ => h5) hc).loops⟩
  · exact h

theorem effFput_keeps {r s} {a0} (h : Keeps r s) : Keeps r (effFput a0 s) := by
  unfold effFput
  exact fabIns_keeps h

theorem effFcoll_keeps {r s} {a0} (h : Keeps r s) : Keeps r (effFcoll a0 s) := by
  unfold effFcoll
  exact fabIns_keeps h

theorem effFbar_keeps {r s} {a0} (h : Keeps r s) : Keeps r (effFbar a0 s) := by
  unfold effFbar
  exact fabIns_keeps h

theorem effFabort_keeps {r s} {a0} (h : Keeps r s) : Keeps r (effFabort a0 s) := by
  unfold effFabort
  exact fabIns_keeps h

theorem effSrd_keeps {r s} {a0 a1} (h : Keeps r s) : Keeps r (effSrd a0 a1 s) := by
  unfold effSrd
  refine seqIns_keeps ?_ ?_
  · exact h
  · intro y2 y3 y4 h1
    exact srdAct_keeps h1

end Sys2Proof.Machine
end

