-- ==== Sys2Proof/Laws/KeepsLinks.lean ====
section
/-! SUPPORT. KeepsLinks: what the functions of Machine/Links.lean keep. -/

namespace Sys2Proof.Machine

theorem sendOn_keeps {r s} {a0 a1 a2} (h : Keeps r s) : Keeps r (sendOn a0 a1 a2 s) := by
  unfold sendOn
  extract_lets -merge -underBinder +onlyGivenNames x1
  extract_lets -merge -underBinder +onlyGivenNames x2
  extract_lets -merge -underBinder +onlyGivenNames x3
  extract_lets -merge -underBinder +onlyGivenNames x4
  extract_lets -merge -underBinder +onlyGivenNames x5
  have h6 : Keeps r x5 := setLink_keeps h
  clear_value x5
  extract_lets -merge -underBinder +onlyGivenNames x7 x8
  have h9 : Keeps r x8 := by
    refine keeps_ite ?_ ?_
    · refine keeps_frame ?_
      exact h6
    · exact h6
  clear_value x8
  exact emit_keeps h9

theorem takeTx_keeps {r s} {a0} (h : Keeps r s) : Keeps r (takeTx a0 s) := by
  unfold takeTx
  refine keeps_frame ?_
  exact h

theorem dropRets_keeps {r s} {a0} (h : Keeps r s) : Keeps r (dropRets a0 s) := by
  unfold dropRets
  refine keeps_frame ?_
  exact h

theorem sendSlot_keeps {r s} {a0} (h : Keeps r s) : Keeps r (sendSlot a0 s) := by
  unfold sendSlot
  refine keeps_ite ?_ ?_
  · exact h
  · split
    · exact h
    · split
      · rename_i s1 e2
        have h3 : Keeps r s1 := by
          refine keeps_snd e2 ?_
          exact drawBytes_keeps h
        exact sendOn_keeps h3
    · extract_lets -merge -underBinder +onlyGivenNames x4
      extract_lets -merge -underBinder +onlyGivenNames x5
      refine keeps_ite ?_ ?_
      · exact h
      · split
        · refine keeps_ite ?_ ?_
          · split
            · exact sendOn_keeps (dropRets_keeps h)
            · exact h
          · exact sendOn_keeps (takeTx_keeps h)
        · exact sendOn_keeps (dropRets_keeps h)
        · exact sendOn_keeps h

theorem effAddressSlot_keeps {r s} (h : Keeps r s) : Keeps r (effAddressSlot s) := by
  unfold effAddressSlot
  refine keeps_ite ?_ ?_
  · exact h
  · extract_lets -merge -underBinder +onlyGivenNames x1 x2
    have h3 : Keeps r x2 := by
      refine keeps_frame ?_
      exact h
    clear_value x2
    refine keeps_foldl (fun s4 x5 h6 => ?_) ?_
    · exact sendSlot_keeps h6
    · exact h3

theorem effLeasedBlock_keeps {r s} {a0} (h : Keeps r s) : Keeps r (effLeasedBlock a0 s) := by
  unfold effLeasedBlock
  extract_lets -merge -underBinder +onlyGivenNames x1
  refine keeps_ite ?_ ?_
  · exact h
  · extract_lets -merge -underBinder +onlyGivenNames x2
    extract_lets -merge -underBinder +onlyGivenNames x3
    extract_lets -merge -underBinder +onlyGivenNames x4
    have h5 : Keeps r x4 := dropRets_keeps h
    clear_value x4
    extract_lets -merge -underBinder +onlyGivenNames x6
    split
    · exact sendOn_keeps (takeTx_keeps h5)
    · exact sendOn_keeps h5

theorem withdraw_keeps {r s} {a0} (h : Keeps r s) : Keeps r (withdraw a0 s) := by
  unfold withdraw
  extract_lets -merge -underBinder +onlyGivenNames x1
  refine keeps_frame ?_
  exact h

theorem linkRec_keeps {r s} {a0 a1 a2 a3} (h : Keeps r s) : Keeps r (linkRec a0 a1 a2 a3 s) := by
  unfold linkRec
  exact record_keeps h

theorem sendAddrSet_keeps {r s} (h : Keeps r s) : Keeps r (sendAddrSet s) := by
  unfold sendAddrSet
  extract_lets -merge -underBinder +onlyGivenNames x1
  extract_lets -merge -underBinder +onlyGivenNames x2
  extract_lets -merge -underBinder +onlyGivenNames x3
  extract_lets -merge -underBinder +onlyGivenNames x4 x5
  have h6 : Keeps r x5 := by
    refine keeps_frame ?_
    exact h
  try clear_value x5
  refine keeps_foldl (fun s7 x8 h9 => ?_) ?_
  · refine keeps_foldl (fun s10 x11 h12 => ?_) ?_
    · exact queueTx_keeps h12
    · exact h9
  · exact h6

theorem takeReport_keeps {r s} {a0 a1} (h : Keeps r s) : Keeps r (takeReport a0 a1 s) := by
  unfold takeReport
  extract_lets -merge -underBinder +onlyGivenNames x1
  refine keeps_frame ?_
  exact h

theorem endPlaneCal_keeps {r s} {a0} (h : Keeps r s) : Keeps r (endPlaneCal a0 s) := by
  unfold endPlaneCal
  refine keeps_ite ?_ ?_
  · refine keeps_frame ?_
    exact h
  · exact h

theorem reportPlane_keeps {r s} {a0 a1} (h : Keeps r s) : Keeps r (reportPlane a0 a1 s) := by
  unfold reportPlane
  refine keeps_ite ?_ ?_
  · exact takeReport_keeps h
  · exact sendControl_keeps h

theorem nextHolder_keeps {r s} {a0 a1} (h : Keeps r s) : Keeps r (nextHolder a0 a1 s) := by
  unfold nextHolder
  split
  · refine keeps_ite ?_ ?_
    · exact ledgerGo_keeps (askPeer_keeps h)
    · exact h
  · exact h

theorem flowFails_keeps {r s} {a0} (h : Keeps r s) : Keeps r (flowFails a0 s) := by
  unfold flowFails
  split
  · refine keeps_ite ?_ ?_
    · refine keeps_foldl (fun s1 x2 h3 => ?_) ?_
      · exact nextHolder_keeps h3
      · exact h
    · exact raiseOn_keeps h
  · exact h

theorem sendEnd_keeps {r s} {a0} (h : Keeps r s) : Keeps r (sendEnd a0 s) := by
  unfold sendEnd
  extract_lets -merge -underBinder +onlyGivenNames x1
  split
  · exact setLink_keeps (sendControl_keeps h)
  · exact h

theorem failLink_keeps {r s} {a0 a1 a2} (h : Keeps r s) : Keeps r (failLink a0 a1 a2 s) := by
  unfold failLink
  extract_lets -merge -underBinder +onlyGivenNames x1
  extract_lets -merge -underBinder +onlyGivenNames x2 x3
  have h4 : Keeps r x3 := by
    refine sendEnd_keeps ?_
    refine keeps_frame ?_
    exact h
  clear_value x3
  extract_lets -merge -underBinder +onlyGivenNames x5
  extract_lets -merge -underBinder +onlyGivenNames x6
  extract_lets -merge -underBinder +onlyGivenNames x7
  have h8 : Keeps r x7 := setLink_keeps h4
  clear_value x7
  extract_lets -merge -underBinder +onlyGivenNames x9
  have h10 : Keeps r x9 := linkRec_keeps h8
  clear_value x9
  extract_lets -merge -underBinder +onlyGivenNames x11
  have h12 : Keeps r x11 := by
    refine endPlaneCal_keeps ?_
    refine keeps_foldl (fun s13 x14 h15 => ?_) ?_
    · exact flowFails_keeps h15
    · exact h10
  clear_value x11
  refine keeps_ite ?_ ?_
  · exact reportPlane_keeps h12
  · exact h12

theorem sendOffer_keeps {r s} {a0} (h : Keeps r s) : Keeps r (sendOffer a0 s) := by
  unfold sendOffer
  extract_lets -merge -underBinder +onlyGivenNames x1
  refine keeps_ite ?_ ?_
  · exact sendControl_keeps h
  · exact h

theorem retuneRx_keeps {r s} {a0} (h : Keeps r s) : Keeps r (retuneRx a0 s) := by
  unfold retuneRx
  extract_lets -merge -underBinder +onlyGivenNames x1
  exact setLink_keeps h

theorem retuneTx_keeps {r s} {a0} (h : Keeps r s) : Keeps r (retuneTx a0 s) := by
  unfold retuneTx
  extract_lets -merge -underBinder +onlyGivenNames x1
  exact setLink_keeps h

theorem endOld_keeps {r s} {a0} (h : Keeps r s) : Keeps r (endOld a0 s) := by
  unfold endOld
  refine keeps_ite ?_ ?_
  · exact retuneTx_keeps (sendEnd_keeps h)
  · exact h

theorem endOlds_keeps {r s} (h : Keeps r s) : Keeps r (endOlds s) := by
  unfold endOlds
  refine keeps_foldl (fun s1 x2 h3 => ?_) ?_
  · exact endOld_keeps h3
  · exact h

theorem parkPorts_keeps {r s} (h : Keeps r s) : Keeps r (parkPorts s) := by
  unfold parkPorts
  refine keeps_foldl (fun s1 x2 h3 => ?_) ?_
  · extract_lets -merge -underBinder +onlyGivenNames x4
    refine keeps_ite ?_ ?_
    · exact withdraw_keeps (setLink_keeps h3)
    · exact h3
  · exact h

theorem unparkPorts_keeps {r s} (h : Keeps r s) : Keeps r (unparkPorts s) := by
  unfold unparkPorts
  refine keeps_foldl (fun s1 x2 h3 => ?_) ?_
  · exact setLink_keeps h3
  · exact h

theorem leaseGo_keeps {r s} (h : Keeps r s) : Keeps r (leaseGo s) := by
  unfold leaseGo
  split
  · exact h
  · refine keeps_ite ?_ ?_
    · exact h
    · extract_lets -merge -underBinder +onlyGivenNames x1
      extract_lets -merge -underBinder +onlyGivenNames x2
      extract_lets -merge -underBinder +onlyGivenNames x3
      have h4 : Keeps r x3 := by
        refine keeps_foldl (fun s5 x6 h7 => ?_) ?_
        · exact linkRec_keeps h7
        · exact h
      clear_value x3
      refine completeCmd_keeps ?_
      refine keeps_frame ?_
      exact h4

theorem settlePlan_keeps {r s} (h : Keeps r s) : Keeps r (settlePlan s) := by
  unfold settlePlan
  refine keeps_ite ?_ ?_
  · refine keeps_frame ?_
    exact h
  · exact h

theorem relocked_keeps {r s} {a0} (h : Keeps r s) : Keeps r (relocked a0 s) := by
  unfold relocked
  extract_lets -merge -underBinder +onlyGivenNames x1
  refine keeps_ite ?_ ?_
  · exact sendOffer_keeps (setLink_keeps h)
  · exact h

theorem effRetuneSettled_keeps {r s} {a0 a1} (h : Keeps r s) : Keeps r (effRetuneSettled a0 a1 s) := by
  unfold effRetuneSettled
  extract_lets -merge -underBinder +onlyGivenNames x1
  refine keeps_ite ?_ ?_
  · exact h
  · refine keeps_ite ?_ ?_
    · refine keeps_ite ?_ ?_
      · exact h
      · exact relocked_keeps (sendOffer_keeps (setLink_keeps h))
    · refine keeps_ite ?_ ?_
      · exact relocked_keeps (setLink_keeps h)
      · exact h

theorem effLeaseOfferRepeat_keeps {r s} {a0} (h : Keeps r s) : Keeps r (effLeaseOfferRepeat a0 s) := by
  unfold effLeaseOfferRepeat
  refine keeps_ite ?_ ?_
  · exact sendOffer_keeps h
  · exact h

theorem effLeaseRxHoldTimeout_keeps {r s} {a0} (h : Keeps r s) : Keeps r (effLeaseRxHoldTimeout a0 s) := by
  unfold effLeaseRxHoldTimeout
  refine keeps_ite ?_ ?_
  · exact retuneRx_keeps h
  · exact h

theorem refuseLink_keeps {r s} {a0 a1} (h : Keeps r s) : Keeps r (refuseLink a0 a1 s) := by
  unfold refuseLink
  extract_lets -merge -underBinder +onlyGivenNames x1
  exact setLink_keeps h

theorem effLeaseTimeout_keeps {r s} {a0} (h : Keeps r s) : Keeps r (effLeaseTimeout a0 s) := by
  unfold effLeaseTimeout
  refine keeps_ite ?_ ?_
  · refine leaseGo_keeps ?_
    refine settlePlan_keeps ?_
    refine refuseLink_keeps ?_
    refine keeps_ite ?_ ?_
    · exact retuneTx_keeps (sendEnd_keeps h)
    · exact h
  · exact h

theorem planeRecs_keeps {r s} {a0 a1} (h : Keeps r s) : Keeps r (planeRecs a0 a1 s) := by
  unfold planeRecs
  extract_lets -merge -underBinder +onlyGivenNames x1
  refine keeps_foldl (fun s2 x3 h4 => ?_) ?_
  · extract_lets -merge -underBinder +onlyGivenNames x5
    have h6 : Keeps r x5 := by
      refine keeps_ite ?_ ?_
      · exact linkRec_keeps h4
      · refine keeps_ite ?_ ?_
        · exact linkRec_keeps h4
        · exact h4
    clear_value x5
    extract_lets -merge -underBinder +onlyGivenNames x7
    refine keeps_ite ?_ ?_
    · exact linkRec_keeps h6
    · exact h6
  · exact h

theorem startPlaneCal_keeps {r s} (h : Keeps r s) : Keeps r (startPlaneCal s) := by
  unfold startPlaneCal
  extract_lets -merge -underBinder +onlyGivenNames x1
  refine keeps_ite ?_ ?_
  · refine setLink_keeps ?_
    refine keeps_frame ?_
    exact h
  · exact h

theorem applyAddrSet_keeps {r s} (h : Keeps r s) : Keeps r (applyAddrSet s) := by
  unfold applyAddrSet
  split
  · extract_lets -merge -underBinder +onlyGivenNames x1
    extract_lets -merge -underBinder +onlyGivenNames x2 x3
    have h4 : Keeps r x3 := by
      refine planeRecs_keeps ?_
      refine keeps_frame ?_
      exact h
    clear_value x3
    extract_lets -merge -underBinder +onlyGivenNames x5
    refine keeps_ite ?_ ?_
    · refine keeps_ite ?_ ?_
      · exact endPlaneCal_keeps h4
      · refine startPlaneCal_keeps ?_
        refine keeps_frame ?_
        exact h4
    · exact h4
  · exact h

theorem sendBeacons_keeps {r s} (h : Keeps r s) : Keeps r (sendBeacons s) := by
  unfold sendBeacons
  extract_lets -merge -underBinder +onlyGivenNames x1
  refine keeps_ite ?_ ?_
  · exact h
  · extract_lets -merge -underBinder +onlyGivenNames x2
    have h3 : Keeps r x2 := by
      refine keeps_ite ?_ ?_
      · exact sendAddrSet_keeps h
      · exact h
    clear_value x2
    refine keeps_ite ?_ ?_
    · refine keeps_foldl (fun s4 x5 h6 => ?_) ?_
      · exact sendControl_keeps h6
      · exact h3
    · exact h3

theorem effSuperframeBoundary_keeps {r s} (h : Keeps r s) : Keeps r (effSuperframeBoundary s) := by
  unfold effSuperframeBoundary
  refine keeps_ite ?_ ?_
  · exact h
  · refine sendBeacons_keeps ?_
    refine applyAddrSet_keeps ?_
    refine keeps_frame ?_
    exact h

theorem setCoordinator_keeps {r s} {a0} (h : Keeps r s) : Keeps r (setCoordinator a0 s) := by
  unfold setCoordinator
  extract_lets -merge -underBinder +onlyGivenNames x1 x2
  have h3 : Keeps r x2 := by
    refine keeps_frame ?_
    exact h
  clear_value x2
  exact fabricRec_keeps h3

theorem effCoordinatorTimeout_keeps {r s} {a0} (h : Keeps r s) : Keeps r (effCoordinatorTimeout a0 s) := by
  unfold effCoordinatorTimeout
  refine keeps_ite ?_ ?_
  · exact h
  · extract_lets -merge -underBinder +onlyGivenNames x1
    extract_lets -merge -underBinder +onlyGivenNames x2
    have h3 : Keeps r x2 := setCoordinator_keeps h
    clear_value x2
    refine keeps_ite ?_ ?_
    · refine settlePlanes_keeps ?_
      refine keeps_frame ?_
      exact h3
    · exact h3

theorem effLinkFailure_keeps {r s} {a0 a1 a2} (h : Keeps r s) : Keeps r (effLinkFailure a0 a1 a2 s) := by
  unfold effLinkFailure
  extract_lets -merge -underBinder +onlyGivenNames x1
  refine keeps_ite ?_ ?_
  · exact fabGo_keeps (leaseGo_keeps (settlePlan_keeps (failLink_keeps h)))
  · exact h

theorem effLinkRetry_keeps {r s} {a0} (h : Keeps r s) : Keeps r (effLinkRetry a0 s) := by
  unfold effLinkRetry
  extract_lets -merge -underBinder +onlyGivenNames x1
  refine keeps_ite ?_ ?_
  · exact h
  · refine keeps_ite ?_ ?_
    · exact setLink_keeps h
    · refine keeps_ite ?_ ?_
      · exact setLink_keeps h
      · exact h

theorem gateLink_keeps {r s} {a0} (h : Keeps r s) : Keeps r (gateLink a0 s) := by
  unfold gateLink
  extract_lets -merge -underBinder +onlyGivenNames x1
  refine keeps_ite ?_ ?_
  · exact setLink_keeps h
  · refine keeps_ite ?_ ?_
    · exact endOlds_keeps (withdraw_keeps (setLink_keeps h))
    · exact h

theorem mislock_keeps {r s} {a0 a1} (h : Keeps r s) : Keeps r (mislock a0 a1 s) := by
  unfold mislock
  extract_lets -merge -underBinder +onlyGivenNames x1
  extract_lets -merge -underBinder +onlyGivenNames x2
  have h3 : Keeps r x2 := linkRec_keeps h
  clear_value x2
  extract_lets -merge -underBinder +onlyGivenNames x4
  have h5 : Keeps r x4 := setLink_keeps h3
  clear_value x4
  exact gateLink_keeps h5

theorem effMislockDetected_keeps {r s} {a0 a1} (h : Keeps r s) : Keeps r (effMislockDetected a0 a1 s) := by
  unfold effMislockDetected
  refine keeps_ite ?_ ?_
  · exact settlePlan_keeps (mislock_keeps h)
  · exact h

theorem effLeasedCalibration_keeps {r s} (h : Keeps r s) : Keeps r (effLeasedCalibration s) := by
  unfold effLeasedCalibration
  refine keeps_ite ?_ ?_
  · exact h
  · split
    · exact h
    · extract_lets -merge -underBinder +onlyGivenNames x1
      extract_lets -merge -underBinder +onlyGivenNames x2
      extract_lets -merge -underBinder +onlyGivenNames x3
      have h4 : Keeps r x3 := sendControl_keeps h
      clear_value x3
      extract_lets -merge -underBinder +onlyGivenNames x5
      have h6 : Keeps r x5 := by
        refine keeps_ite ?_ ?_
        · exact sendControl_keeps h4
        · exact h4
      clear_value x5
      refine withdraw_keeps ?_
      refine setLink_keeps ?_
      refine keeps_frame ?_
      exact h6

theorem effAddrPlaneCalibration_keeps {r s} (h : Keeps r s) : Keeps r (effAddrPlaneCalibration s) := by
  unfold effAddrPlaneCalibration
  refine keeps_ite ?_ ?_
  · extract_lets -merge -underBinder +onlyGivenNames x1
    refine keeps_frame ?_
    exact h
  · exact h

theorem calibrated_keeps {r s} {a0 a1} (h : Keeps r s) : Keeps r (calibrated a0 a1 s) := by
  unfold calibrated
  split
  · rename_i s1 e2
    have h3 : Keeps r s1 := by
      refine keeps_snd e2 ?_
      exact drawWord_keeps h
    extract_lets -merge -underBinder +onlyGivenNames x4
    extract_lets -merge -underBinder +onlyGivenNames x5
    exact setLink_keeps h3

theorem effCalibrationEnd_keeps {r s} {a0 a1 a2} (h : Keeps r s) : Keeps r (effCalibrationEnd a0 a1 a2 s) := by
  unfold effCalibrationEnd
  extract_lets -merge -underBinder +onlyGivenNames x1
  extract_lets -merge -underBinder +onlyGivenNames x2
  refine keeps_ite ?_ ?_
  · exact h
  · refine keeps_ite ?_ ?_
    · extract_lets -merge -underBinder +onlyGivenNames x3
      have h4 : Keeps r x3 := setLink_keeps h
      clear_value x3
      refine startPlaneCal_keeps ?_
      refine keeps_ite ?_ ?_
      · exact reportPlane_keeps (endPlaneCal_keeps h4)
      · exact h4
    · extract_lets -merge -underBinder +onlyGivenNames x5
      have h6 : Keeps r x5 := calibrated_keeps h
      clear_value x5
      extract_lets -merge -underBinder +onlyGivenNames x7
      have h8 : Keeps r x7 := by
        refine keeps_ite ?_ ?_
        · exact linkRec_keeps h6
        · exact h6
      clear_value x7
      extract_lets -merge -underBinder +onlyGivenNames x9
      have h10 : Keeps r x9 := by
        refine keeps_ite ?_ ?_
        · refine keeps_ite ?_ ?_
          · exact endPlaneCal_keeps h8
          · exact reportPlane_keeps h8
        · exact h8
      clear_value x9
      exact startPlaneCal_keeps (settlePlan_keeps (sendOffer_keeps h10))

theorem effShutterTrigger_keeps {r s} {a0} (h : Keeps r s) : Keeps r (effShutterTrigger a0 s) := by
  unfold effShutterTrigger
  extract_lets -merge -underBinder +onlyGivenNames x1
  refine keeps_ite ?_ ?_
  · exact h
  · extract_lets -merge -underBinder +onlyGivenNames x2
    have h3 : Keeps r x2 := setLink_keeps h
    clear_value x2
    extract_lets -merge -underBinder +onlyGivenNames x4
    have h5 : Keeps r x4 := linkRec_keeps (endPlaneCal_keeps (endOlds_keeps (withdraw_keeps h3)))
    clear_value x4
    extract_lets -merge -underBinder +onlyGivenNames x6
    extract_lets -merge -underBinder +onlyGivenNames x7
    have h8 : Keeps r x7 := by
      refine keeps_ite ?_ ?_
      · refine reportPlane_keeps ?_
        refine keeps_ite ?_ ?_
        · exact h5
        · exact sendControl_keeps h5
      · refine keeps_ite ?_ ?_
        · exact sendControl_keeps h5
        · exact h5
    clear_value x7
    exact leaseGo_keeps (settlePlan_keeps h8)

theorem effSilenceMute_keeps {r s} {a0 a1} (h : Keeps r s) : Keeps r (effSilenceMute a0 a1 s) := by
  unfold effSilenceMute
  refine keeps_ite ?_ ?_
  · refine keeps_frame ?_
    exact h
  · exact h

theorem effMuteResume_keeps {r s} {a0 a1} (h : Keeps r s) : Keeps r (effMuteResume a0 a1 s) := by
  unfold effMuteResume
  refine keeps_frame ?_
  exact h

theorem effShutterProbe_keeps {r s} {a0} (h : Keeps r s) : Keeps r (effShutterProbe a0 s) := by
  unfold effShutterProbe
  refine keeps_ite ?_ ?_
  · exact setLink_keeps h
  · exact h

theorem effShutterProbeEnd_keeps {r s} {a0 a1} (h : Keeps r s) : Keeps r (effShutterProbeEnd a0 a1 s) := by
  unfold effShutterProbeEnd
  extract_lets -merge -underBinder +onlyGivenNames x1
  refine keeps_ite ?_ ?_
  · exact h
  · refine keeps_ite ?_ ?_
    · exact setLink_keeps h
    · extract_lets -merge -underBinder +onlyGivenNames x2
      have h3 : Keeps r x2 := linkRec_keeps (setLink_keeps h)
      clear_value x2
      refine settlePlan_keeps ?_
      refine sendOffer_keeps ?_
      refine keeps_ite ?_ ?_
      · exact reportPlane_keeps h3
      · exact h3

theorem setFibre_keeps {r s} {a1 a2} (h : Keeps r s) : Keeps r (setFibre s a1 a2) := by
  unfold setFibre
  refine keeps_frame ?_
  exact h

theorem fibreRec_keeps {r s} {a0 a1} (h : Keeps r s) : Keeps r (fibreRec a0 a1 s) := by
  unfold fibreRec
  split
  · rename_i s1 e2
    have h3 : Keeps r s1 := by
      refine keeps_snd e2 ?_
      exact drawWord_keeps h
    exact record_keeps h3

theorem effCombFibreDrop_keeps {r s} {a0 a1} (h : Keeps r s) : Keeps r (effCombFibreDrop a0 a1 s) := by
  unfold effCombFibreDrop
  extract_lets -merge -underBinder +onlyGivenNames x1
  refine keeps_ite ?_ ?_
  · exact h
  · extract_lets -merge -underBinder +onlyGivenNames x2
    have h3 : Keeps r x2 := fibreRec_keeps (setFibre_keeps h)
    clear_value x2
    extract_lets -merge -underBinder +onlyGivenNames x4
    refine fabGo_keeps ?_
    refine leaseGo_keeps ?_
    refine settlePlan_keeps ?_
    refine keeps_foldl (fun s5 x6 h7 => ?_) ?_
    · exact failLink_keeps h7
    · exact h3

theorem effCombProbe_keeps {r s} {a0 a1 a2} (h : Keeps r s) : Keeps r (effCombProbe a0 a1 a2 s) := by
  unfold effCombProbe
  extract_lets -merge -underBinder +onlyGivenNames x1
  refine keeps_ite ?_ ?_
  · exact h
  · refine keeps_ite ?_ ?_
    · exact setFibre_keeps h
    · refine keeps_ite ?_ ?_
      · exact fibreRec_keeps (setFibre_keeps h)
      · exact setFibre_keeps h

theorem effCombLock_keeps {r s} {a0 a1} (h : Keeps r s) : Keeps r (effCombLock a0 a1 s) := by
  unfold effCombLock
  extract_lets -merge -underBinder +onlyGivenNames x1
  extract_lets -merge -underBinder +onlyGivenNames x2
  have h3 : Keeps r x2 := by
    refine keeps_frame ?_
    exact h
  clear_value x2
  extract_lets -merge -underBinder +onlyGivenNames x4
  have h5 : Keeps r x4 := by
    refine keeps_ite ?_ ?_
    · exact fabricRec_keeps h3
    · exact h3
  clear_value x4
  refine keeps_ite ?_ ?_
  · exact fabricRec_keeps h5
  · exact h5

theorem effCombAlarmN_keeps {r s} {a0} (h : Keeps r s) : Keeps r (effCombAlarmN a0 s) := by
  unfold effCombAlarmN
  extract_lets -merge -underBinder +onlyGivenNames x1
  extract_lets -merge -underBinder +onlyGivenNames x2
  have h3 : Keeps r x2 := by
    refine keeps_frame ?_
    exact h
  clear_value x2
  refine keeps_ite ?_ ?_
  · exact fabricRec_keeps h3
  · exact h3

theorem hostWriteReady_keeps {r s} {a0} (h : Keeps r s) (g1 : ∀ t, Keeps r t → Keeps r (a0 t)) : Keeps r (hostWriteReady a0 s) := by
  unfold hostWriteReady
  refine hostAccess_keeps ?_ ?_
  · exact h
  · intro y2 h1
    refine keeps_ite ?_ ?_
    · refine g1 _ ?_
      exact h1
    · exact h1

theorem effMerClearDrop_keeps {r s} {a0} (h : Keeps r s) : Keeps r (effMerClearDrop a0 s) := by
  unfold effMerClearDrop
  refine hostWriteReady_keeps ?_ ?_
  · exact h
  · intro y2 h1
    refine keeps_ite ?_ ?_
    · exact setPhot_keeps h1
    · exact h1

theorem clearLinkErr_keeps {r s} {a0} (h : Keeps r s) : Keeps r (clearLinkErr a0 s) := by
  unfold clearLinkErr
  exact setLink_keeps h

theorem effClearLinks_keeps {r s} {a0} (h : Keeps r s) : Keeps r (effClearLinks a0 s) := by
  unfold effClearLinks
  refine hostWriteReady_keeps ?_ ?_
  · exact h
  · intro y2 h1
    refine keeps_foldl (fun s3 x4 h5 => ?_) ?_
    · exact clearLinkErr_keeps h5
    · exact h1

theorem effMerLinkClear_keeps {r s} {a0} (h : Keeps r s) : Keeps r (effMerLinkClear a0 s) := by
  unfold effMerLinkClear
  refine hostWriteReady_keeps ?_ ?_
  · exact h
  · intro y2 h1
    refine keeps_ite ?_ ?_
    · exact clearLinkErr_keeps h1
    · exact h1

end Sys2Proof.Machine
end

