-- ==== Sys2Proof/Laws/KeepsLoads.lean ====
section
/-! SUPPORT. KeepsLoads: what the functions of Machine/Loads.lean keep. -/

namespace Sys2Proof.Machine

theorem planTx_keeps {r s} {a0 a1} (h : Keeps r s) : Keeps r (planTx a0 a1 s) := by
  unfold planTx
  extract_lets -merge -underBinder +onlyGivenNames x1
  refine keeps_ite ?_ ?_
  · exact setLink_keeps h
  · extract_lets -merge -underBinder +onlyGivenNames x2
    extract_lets -merge -underBinder +onlyGivenNames x3
    refine keeps_ite ?_ ?_
    · exact setLink_keeps h
    · exact retuneTx_keeps (setLink_keeps h)

theorem planRx_keeps {r s} {a0 a1} (h : Keeps r s) : Keeps r (planRx a0 a1 s) := by
  unfold planRx
  extract_lets -merge -underBinder +onlyGivenNames x1
  refine keeps_ite ?_ ?_
  · exact h
  · extract_lets -merge -underBinder +onlyGivenNames x2
    refine keeps_ite ?_ ?_
    · exact setLink_keeps h
    · refine keeps_ite ?_ ?_
      · exact setLink_keeps h
      · exact retuneRx_keeps (setLink_keeps h)

theorem beginLease_keeps {r s} {a0 a1} (h : Keeps r s) : Keeps r (beginLease a0 a1 s) := by
  unfold beginLease
  extract_lets -merge -underBinder +onlyGivenNames x1 x3 x4
  have h2 : Keeps r x1 := setWork_keeps h
  clear_value x1
  have h5 : Keeps r x4 := by
    refine setPlanId_keeps ?_
    refine keeps_frame ?_
    exact h2
  clear_value x4
  extract_lets -merge -underBinder +onlyGivenNames x6
  have h7 : Keeps r x6 := by
    refine keeps_foldl (fun s8 x9 h10 => ?_) ?_
    · exact setLink_keeps h10
    · exact h5
  clear_value x6
  extract_lets -merge -underBinder +onlyGivenNames x11
  refine leaseGo_keeps ?_
  refine endOlds_keeps ?_
  refine keeps_foldl (fun s12 x13 h14 => ?_) ?_
  · exact planRx_keeps (planTx_keeps h14)
  · exact h7

theorem effLeaseLoad_keeps {r s} {a0 a1 a2} (h : Keeps r s) : Keeps r (effLeaseLoad a0 a1 a2 s) := by
  unfold effLeaseLoad
  extract_lets -merge -underBinder +onlyGivenNames x1
  extract_lets -merge -underBinder +onlyGivenNames x2
  extract_lets -merge -underBinder +onlyGivenNames x3
  refine keeps_ite ?_ ?_
  · exact h
  · extract_lets -merge -underBinder +onlyGivenNames x4
    have h5 : Keeps r x4.2 := by
      unfold x4
      split
      · exact readStruct_keeps h
      · exact h
    clear_value x4
    extract_lets -merge -underBinder +onlyGivenNames x6
    refine dispatch_keeps ?_ ?_
    · exact h5
    · intro y8 y9 y10 h7
      extract_lets -merge -underBinder +onlyGivenNames x11
      have h12 : Keeps r x11 := startCmd_keeps h7
      clear_value x11
      refine keeps_ite ?_ ?_
      · exact h12
      · exact beginLease_keeps h12

theorem leaseTimeout_keeps {r s} {a0} (h : Keeps r s) : Keeps r (leaseTimeout a0 s) := by
  unfold leaseTimeout
  refine keeps_ite ?_ ?_
  · refine dispatch_keeps ?_ ?_
    · exact h
    · intro y2 y3 y4 h1
      exact h1
  · exact h

theorem loadRoute_keeps {r s} {a0 a1 a2 a3} (h : Keeps r s) : Keeps r (loadRoute a0 a1 a2 a3 s) := by
  unfold loadRoute
  extract_lets -merge -underBinder +onlyGivenNames x1
  extract_lets -merge -underBinder +onlyGivenNames x2
  refine heldStruct_keeps ?_ ?_
  · exact h
  · intro y4 y5 h3
    extract_lets -merge -underBinder +onlyGivenNames x6
    have h7 : Keeps r x6.2 := readStruct_keeps h3
    clear_value x6
    split
    · exact readRejected_keeps h7
    · extract_lets -merge -underBinder +onlyGivenNames x8
      split
      · exact completeCmd_keeps (structRejected_keeps h7)
      · extract_lets -merge -underBinder +onlyGivenNames x9
        exact completeCmd_keeps (setPhot_keeps h7)

theorem effRouteLoad_keeps {r s} {a0 a1 a2} (h : Keeps r s) : Keeps r (effRouteLoad a0 a1 a2 s) := by
  unfold effRouteLoad
  refine dispatch_keeps ?_ ?_
  · exact h
  · intro y2 y3 y4 h1
    extract_lets -merge -underBinder +onlyGivenNames x5
    have h6 : Keeps r x5 := startCmd_keeps h1
    clear_value x5
    refine keeps_ite ?_ ?_
    · exact h6
    · exact loadRoute_keeps h6

theorem loadFlow_keeps {r s} {a0 a1 a2 a3} (h : Keeps r s) : Keeps r (loadFlow a0 a1 a2 a3 s) := by
  unfold loadFlow
  extract_lets -merge -underBinder +onlyGivenNames x1
  extract_lets -merge -underBinder +onlyGivenNames x2
  extract_lets -merge -underBinder +onlyGivenNames x3
  extract_lets -merge -underBinder +onlyGivenNames x4
  refine heldStruct_keeps ?_ ?_
  · exact h
  · intro y6 y7 h5
    extract_lets -merge -underBinder +onlyGivenNames x8
    have h9 : Keeps r x8.2 := readStruct_keeps h5
    clear_value x8
    split
    · exact readRejected_keeps h9
    · extract_lets -merge -underBinder +onlyGivenNames x10
      split
      · exact completeCmd_keeps (structRejected_keeps h9)
      · exact fabGo_keeps (setWork_keeps h9)

theorem effFlowLoad_keeps {r s} {a0 a1 a2} (h : Keeps r s) : Keeps r (effFlowLoad a0 a1 a2 s) := by
  unfold effFlowLoad
  refine dispatch_keeps ?_ ?_
  · exact h
  · intro y2 y3 y4 h1
    extract_lets -merge -underBinder +onlyGivenNames x5
    have h6 : Keeps r x5 := startCmd_keeps h1
    clear_value x5
    refine keeps_ite ?_ ?_
    · exact h6
    · exact loadFlow_keeps h6

end Sys2Proof.Machine
end

