-- ==== Sys2Proof/Laws/KeepsReblock.lean ====
section
/-! SUPPORT. KeepsReblock: what the functions of Machine/Reblock.lean keep. -/

namespace Sys2Proof.Machine

theorem takeFence_keeps {r s} {a0} (h : Keeps r s) : Keeps r (takeFence a0 s) := by
  unfold takeFence
  refine setWork_keeps ?_
  refine keeps_frame ?_
  exact h

theorem beginReblock_keeps {r s} {a0 a1 a2 a3} (h : Keeps r s) : Keeps r (beginReblock a0 a1 a2 a3 s) := by
  unfold beginReblock
  extract_lets -merge -underBinder +onlyGivenNames x1
  extract_lets -merge -underBinder +onlyGivenNames x2
  refine heldStruct_keeps ?_ ?_
  · exact h
  · intro y4 y5 h3
    extract_lets -merge -underBinder +onlyGivenNames x6
    have h7 : Keeps r x6.2 := readStruct_keeps h3
    clear_value x6
    extract_lets -merge -underBinder +onlyGivenNames x8
    extract_lets -merge -underBinder +onlyGivenNames x9
    extract_lets -merge -underBinder +onlyGivenNames x10
    extract_lets -merge -underBinder +onlyGivenNames x11
    extract_lets -merge -underBinder +onlyGivenNames x12
    extract_lets -merge -underBinder +onlyGivenNames x13
    split
    · exact readRejected_keeps h7
    · refine keeps_ite ?_ ?_
      · exact completeCmd_keeps (structRejected_keeps h7)
      · refine heldStruct_keeps ?_ ?_
        · exact h7
        · intro y15 y16 h14
          extract_lets -merge -underBinder +onlyGivenNames x17
          have h18 : Keeps r x17.2 := readStruct_keeps h14
          clear_value x17
          split
          · exact readRejected_keeps h18
          · extract_lets -merge -underBinder +onlyGivenNames x19
            extract_lets -merge -underBinder +onlyGivenNames x20
            split
            · exact completeCmd_keeps (structRejected_keeps h18)
            · exact takeFence_keeps h18

theorem resumeCmd_keeps {r s} {a0} (h : Keeps r s) : Keeps r (resumeCmd a0 s) := by
  unfold resumeCmd
  split
  · exact loadRecipe_keeps h
  · exact beginLoad_keeps h
  · exact loadEph_keeps h
  · exact beginMoves_keeps h
  · exact beginXfer_keeps h
  · refine keeps_ite ?_ ?_
    · exact h
    · exact loadRoute_keeps h
  · refine keeps_ite ?_ ?_
    · exact h
    · exact loadFlow_keeps h
  · refine keeps_ite ?_ ?_
    · exact h
    · exact takeFence_keeps h
  · refine keeps_ite ?_ ?_
    · exact h
    · exact beginReblock_keeps h
  · exact h

theorem resumeWaiting_keeps {r s} (h : Keeps r s) : Keeps r (resumeWaiting s) := by
  unfold resumeWaiting
  refine keeps_foldl (fun s1 x2 h3 => ?_) ?_
  · split
    · refine keeps_ite ?_ ?_
      · exact h3
      · exact beginLease_keeps h3
    · exact resumeCmd_keeps h3
    · exact h3
  · exact h

theorem effEpochSet_keeps {r s} {a0 a1} (h : Keeps r s) : Keeps r (effEpochSet a0 a1 s) := by
  unfold effEpochSet
  refine dispatch_keeps ?_ ?_
  · exact h
  · intro y2 y3 y4 h1
    extract_lets -merge -underBinder +onlyGivenNames x5
    have h6 : Keeps r x5 := startCmd_keeps h1
    clear_value x5
    refine keeps_ite ?_ ?_
    · exact h6
    · exact takeFence_keeps h6

theorem effReblock_keeps {r s} {a0 a1 a2} (h : Keeps r s) : Keeps r (effReblock a0 a1 a2 s) := by
  unfold effReblock
  refine dispatch_keeps ?_ ?_
  · exact h
  · intro y2 y3 y4 h1
    extract_lets -merge -underBinder +onlyGivenNames x5
    have h6 : Keeps r x5 := startCmd_keeps h1
    clear_value x5
    refine keeps_ite ?_ ?_
    · exact h6
    · exact beginReblock_keeps h6

theorem setRebl_keeps {r s} {a0} (h : Keeps r s) : Keeps r (setRebl a0 s) := by
  unfold setRebl
  refine keeps_frame ?_
  exact h

theorem landPerm_keeps {r s} {a0 a1 a2 a3 a4} (h : Keeps r s) : Keeps r (landPerm a0 a1 a2 a3 a4 s) := by
  unfold landPerm
  split
  · exact h
  · split
    · exact h
    · extract_lets -merge -underBinder +onlyGivenNames x1
      extract_lets -merge -underBinder +onlyGivenNames x2
      have h3 : Keeps r x2 := writeSector_keeps h
      clear_value x2
      exact setRebl_keeps h3

theorem startPermute_keeps {r s} (h : Keeps r s) : Keeps r (startPermute s) := by
  unfold startPermute
  split
  · exact h
  · extract_lets -merge -underBinder +onlyGivenNames x1
    have h2 : Keeps r x1 := setRebl_keeps h
    clear_value x1
    extract_lets -merge -underBinder +onlyGivenNames x3
    extract_lets -merge -underBinder +onlyGivenNames x4
    have h5 : Keeps r x4 := by
      refine keeps_foldl (fun s6 x7 h8 => ?_) ?_
      · refine keeps_ite ?_ ?_
        · exact h8
        · exact grant_keeps h8
      · exact h2
    clear_value x4
    extract_lets -merge -underBinder +onlyGivenNames x9
    extract_lets -merge -underBinder +onlyGivenNames x10
    refine keeps_ite ?_ ?_
    · refine raiseOn_keeps ?_
      refine keeps_foldl (fun s11 x12 h13 => ?_) ?_
      · exact failSector_keeps h13
      · exact h5
    · refine keeps_foldl (fun s14 x15 h16 => ?_) ?_
      · extract_lets -merge -underBinder +onlyGivenNames x17
        refine keeps_ite ?_ ?_
        · extract_lets -merge -underBinder +onlyGivenNames x18
          have h19 : Keeps r x18 := by
            refine keeps_foldl (fun s20 x21 h22 => ?_) ?_
            · exact landPerm_keeps h22
            · exact h16
          clear_value x18
          split
          · exact setRebl_keeps h19
          · exact h19
        · exact pushLines_keeps h16
      · exact h5

theorem sendTotals_keeps {r s} (h : Keeps r s) : Keeps r (sendTotals s) := by
  unfold sendTotals
  split
  · exact h
  · refine keeps_foldl (fun s1 x2 h3 => ?_) ?_
    · extract_lets -merge -underBinder +onlyGivenNames x4
      extract_lets -merge -underBinder +onlyGivenNames x5
      split
      · refine keeps_ite ?_ ?_
        · exact h3
        · exact setRebl_keeps (sendLine_keeps h3)
      · exact h3
    · exact h

theorem rebRounds_keeps {r s n a1} (h : Keeps r s) : Keeps r (rebRounds n a1 s) := by
  induction n generalizing s with
  | zero => exact h
  | succ n ih =>
    unfold rebRounds
    split
    · exact h
    · split
      · exact h
      · refine keeps_ite h (keeps_ite ?_ (keeps_ite ?_ h))
        · exact ih (queueCell_keeps (setRebl_keeps h))
        · exact ih (setRebl_keeps h)

theorem reblockRec_keeps {r s} {a0 a1} (h : Keeps r s) : Keeps r (reblockRec a0 a1 s) := by
  unfold reblockRec
  exact record_keeps h

theorem nextPerm_keeps {r s} {a0} (h : Keeps r s) : Keeps r (nextPerm a0 s) := by
  unfold nextPerm
  refine keeps_foldl (fun s1 x2 h3 => ?_) ?_
  · split
    · exact setCtx_keeps h3
    · exact h3
  · exact h

theorem endFence_keeps {r s} {a0 a1} (h : Keeps r s) : Keeps r (endFence a0 a1 s) := by
  unfold endFence
  refine resumeWaiting_keeps ?_
  refine completeCmd_keeps ?_
  refine keeps_frame ?_
  exact h

theorem finishReblock_keeps {r s} {a0} (h : Keeps r s) : Keeps r (finishReblock a0 s) := by
  unfold finishReblock
  extract_lets -merge -underBinder +onlyGivenNames x1
  have h2 : Keeps r x1 := reblockRec_keeps (nextPerm_keeps h)
  clear_value x1
  exact endFence_keeps (setEpoch_keeps h2)

theorem rebStep_keeps {r s} (h : Keeps r s) : Keeps r (rebStep s) := by
  unfold rebStep
  split
  · exact h
  · refine keeps_ite ?_ ?_
    · exact h
    · split
      · extract_lets -merge -underBinder +onlyGivenNames x1
        have h2 : Keeps r x1 := rebRounds_keeps h
        clear_value x1
        split
        · refine keeps_ite ?_ ?_
          · exact startPermute_keeps h2
          · exact h2
        · exact h2
      · refine keeps_ite ?_ ?_
        · exact raiseOn_keeps h
        · extract_lets -merge -underBinder +onlyGivenNames x3
          have h4 : Keeps r x3 := sendTotals_keeps h
          clear_value x3
          split
          · refine keeps_ite ?_ ?_
            · exact setRebl_keeps h4
            · exact h4
          · exact h4
      · extract_lets -merge -underBinder +onlyGivenNames x5
        have h6 : Keeps r x5 := rebRounds_keeps h
        clear_value x5
        split
        · refine keeps_ite ?_ ?_
          · exact finishReblock_keeps h6
          · exact h6
        · exact h6
      · exact h

theorem fabAll_keeps {r s} (h : Keeps r s) : Keeps r (fabAll s) := by
  unfold fabAll
  refine keeps_foldl (fun s1 x2 h3 => ?_) ?_
  · exact fabGo_keeps (rebStep_keeps h3)
  · exact fabGo_keeps h

theorem effEpochFenceEnd_keeps {r s} (h : Keeps r s) : Keeps r (effEpochFenceEnd s) := by
  unfold effEpochFenceEnd
  split
  · exact h
  · extract_lets -merge -underBinder +onlyGivenNames x1
    refine keeps_ite ?_ ?_
    · exact h
    · refine keeps_ite ?_ ?_
      · exact fabAll_keeps (setRebl_keeps h)
      · exact fabAll_keeps (endFence_keeps (setEpoch_keeps h))

theorem poisonSectors_keeps {r s} {a0 a1} (h : Keeps r s) : Keeps r (poisonSectors a0 a1 s) := by
  unfold poisonSectors
  refine keeps_foldl (fun s1 x2 h3 => ?_) ?_
  · exact writeSector_keeps h3
  · exact h

theorem effAbortRewriteDone_keeps {r s} {a0} (h : Keeps r s) : Keeps r (effAbortRewriteDone a0 s) := by
  unfold effAbortRewriteDone
  split
  · extract_lets -merge -underBinder +onlyGivenNames x1
    refine keeps_ite ?_ ?_
    · exact fabAll_keeps (cutRun_keeps (delRun_keeps (poisonSectors_keeps h)))
    · exact h
  · split
    · refine keeps_ite ?_ ?_
      · extract_lets -merge -underBinder +onlyGivenNames x2
        have h3 : Keeps r x2 := poisonSectors_keeps h
        clear_value x2
        exact fabAll_keeps (endFence_keeps (reblockRec_keeps h3))
      · exact h
    · exact h

theorem effQuietPeriodEnd_keeps {r s} {a0} (h : Keeps r s) : Keeps r (effQuietPeriodEnd a0 s) := by
  unfold effQuietPeriodEnd
  split
  · refine keeps_ite ?_ ?_
    · exact fabAll_keeps (setCtx_keeps h)
    · exact h
  · exact h

end Sys2Proof.Machine
end

