-- ==== Sys2Proof/Laws/KeepsReceive.lean ====
section
/-! SUPPORT. KeepsReceive: what the functions of Machine/Receive.lean keep. -/

namespace Sys2Proof.Machine

theorem countDst_keeps {r s} {a0} (h : Keeps r s) : Keeps r (countDst a0 s) := by
  unfold countDst
  extract_lets -merge -underBinder +onlyGivenNames x1
  exact setPhot_keeps h

theorem countType_keeps {r s} {a0} (h : Keeps r s) : Keeps r (countType a0 s) := by
  unfold countType
  extract_lets -merge -underBinder +onlyGivenNames x1
  exact setPhot_keeps h

theorem countPermit_keeps {r s} {a0} (h : Keeps r s) : Keeps r (countPermit a0 s) := by
  unfold countPermit
  extract_lets -merge -underBinder +onlyGivenNames x1
  exact setPhot_keeps h

theorem countDup_keeps {r s} {a0} (h : Keeps r s) : Keeps r (countDup a0 s) := by
  unfold countDup
  extract_lets -merge -underBinder +onlyGivenNames x1
  exact setPhot_keeps h

theorem misdirected_keeps {r s} {a0 a1} (h : Keeps r s) : Keeps r (misdirected a0 a1 s) := by
  unfold misdirected
  extract_lets -merge -underBinder +onlyGivenNames x1
  have h2 : Keeps r x1 := countDst_keeps h
  clear_value x1
  extract_lets -merge -underBinder +onlyGivenNames x3
  have h4 : Keeps r x3 := by
    refine keeps_ite ?_ ?_
    · exact owe_keeps h2
    · exact h2
  clear_value x3
  exact settlePlan_keeps (mislock_keeps h4)

theorem passOn_keeps {r s} {a0 a1} (h : Keeps r s) : Keeps r (passOn a0 a1 s) := by
  unfold passOn
  refine keeps_ite ?_ ?_
  · extract_lets -merge -underBinder +onlyGivenNames x1
    refine keeps_ite ?_ ?_
    · exact queueTx_keeps h
    · exact h
  · exact countPermit_keeps h

theorem front_keeps {r s} {a0 a1 a2} (h : Keeps r s) (g3 : ∀ t, Keeps r t → Keeps r (a2 t)) : Keeps r (front a0 a1 a2 s) := by
  unfold front
  refine keeps_ite ?_ ?_
  · exact h
  · refine keeps_ite ?_ ?_
    · exact misdirected_keeps h
    · refine keeps_ite ?_ ?_
      · refine keeps_ite ?_ ?_
        · exact passOn_keeps h
        · exact misdirected_keeps h
      · refine keeps_ite ?_ ?_
        · exact countPermit_keeps h
        · refine g3 _ ?_
          exact h

theorem ackCell_keeps {r s} {a0} (h : Keeps r s) : Keeps r (ackCell a0 s) := by
  unfold ackCell
  exact owe_keeps h

theorem countFab_keeps {r s} {a0 a1} (h : Keeps r s) : Keeps r (countFab a0 a1 s) := by
  unfold countFab
  exact setPhot_keeps h

theorem quietDrop_keeps {r s} {a0} (h : Keeps r s) : Keeps r (quietDrop a0 s) := by
  unfold quietDrop
  exact countFab_keeps (ackCell_keeps h)

theorem refuseCell_keeps {r s} {a0 a1} (h : Keeps r s) : Keeps r (refuseCell a0 a1 s) := by
  unfold refuseCell
  extract_lets -merge -underBinder +onlyGivenNames x1
  have h2 : Keeps r x1 := countFab_keeps (ackCell_keeps h)
  clear_value x1
  extract_lets -merge -underBinder +onlyGivenNames x3
  have h4 : Keeps r x3 := record_keeps h2
  clear_value x3
  split
  · rename_i s5 e6
    have h7 : Keeps r s5 := by
      refine keeps_snd e6 ?_
      exact drawBytes_keeps h4
    extract_lets -merge -underBinder +onlyGivenNames x8
    extract_lets -merge -underBinder +onlyGivenNames x9 x10
    have h11 : Keeps r x10 := by
      refine keeps_frame ?_
      exact h7
    clear_value x10
    exact queueCell_keeps h11

theorem noteSeq_keeps {r s} {a0} (h : Keeps r s) : Keeps r (noteSeq a0 s) := by
  unfold noteSeq
  split
  · exact setCtx_keeps h
  · exact h

theorem dataTake_keeps {r s} {a0 a1 a2} (h : Keeps r s) (g3 : ∀ y0 t, Keeps r t → Keeps r (a2 y0 t)) : Keeps r (dataTake a0 a1 a2 s) := by
  unfold dataTake
  split
  · exact refuseCell_keeps h
  · refine keeps_ite ?_ ?_
    · exact countDup_keeps (ackCell_keeps h)
    · refine keeps_ite ?_ ?_
      · exact quietDrop_keeps h
      · refine keeps_ite ?_ ?_
        · exact refuseCell_keeps h
        · refine g3 _ _ ?_
          exact h

theorem dataFront_keeps {r s} {a0 a1 a2} (h : Keeps r s) (g3 : ∀ y0 t, Keeps r t → Keeps r (a2 y0 t)) : Keeps r (dataFront a0 a1 a2 s) := by
  unfold dataFront
  refine front_keeps ?_ ?_
  · exact h
  · intro y2 h1
    refine dataTake_keeps ?_ ?_
    · exact h1
    · intro y4 y5 h3
      refine g3 _ _ ?_
      exact h3

theorem lessLeft_keeps {r s} {a0 a1} (h : Keeps r s) : Keeps r (lessLeft a0 a1 s) := by
  unfold lessLeft
  split
  · exact setRun_keeps h
  · exact h

theorem runLines_keeps {r s} {a0 a1 a2 a3 a4 a5} (h : Keeps r s) : Keeps r (runLines a0 a1 a2 a3 a4 a5 s) := by
  unfold runLines
  extract_lets -merge -underBinder +onlyGivenNames x1
  have h2 : Keeps r x1 := by
    unfold x1
    split
    · refine keeps_ite ?_ ?_
      · exact reduceChain_keeps h
      · exact passAround_keeps h
    · exact passAround_keeps h
    · refine keeps_ite ?_ ?_
      · exact stripeFold_keeps h
      · exact stripeRebuild_keeps h
  clear_value x1
  exact lessLeft_keeps h2

theorem replayEarly_keeps {r s} (h : Keeps r s) : Keeps r (replayEarly s) := by
  unfold replayEarly
  extract_lets -merge -underBinder +onlyGivenNames x1
  refine keeps_foldl (fun s2 x3 h4 => ?_) ?_
  · extract_lets -merge -underBinder +onlyGivenNames x5
    have h6 : Keeps r x5 := setRun_keeps h4
    clear_value x5
    refine keeps_foldl (fun s7 x8 h9 => ?_) ?_
    · split
      · refine keeps_ite ?_ ?_
        · exact runLines_keeps h9
        · exact h9
      · exact h9
    · exact h6
  · exact h

theorem fabEnd_keeps {r s} (h : Keeps r s) : Keeps r (fabEnd s) := by
  unfold fabEnd
  exact fabAll_keeps (replayEarly_keeps (fabAll_keeps h))

theorem takeRunCell_keeps {r s} {a0 a1 a2 a3} (h : Keeps r s) : Keeps r (takeRunCell a0 a1 a2 a3 s) := by
  unfold takeRunCell
  split
  · exact quietDrop_keeps h
  · refine keeps_ite ?_ ?_
    · exact quietDrop_keeps h
    · extract_lets -merge -underBinder +onlyGivenNames x1
      have h2 : Keeps r x1 := noteSeq_keeps (ackCell_keeps h)
      clear_value x1
      refine keeps_ite ?_ ?_
      · split
        · exact setRun_keeps h2
        · exact h2
      · exact runLines_keeps h2

theorem fetchLines_keeps {r s} {a0 a1 a2 a3 a4 a5} (h : Keeps r s) : Keeps r (fetchLines a0 a1 a2 a3 a4 a5 s) := by
  unfold fetchLines
  split
  · extract_lets -merge -underBinder +onlyGivenNames x1
    exact setEntry_keeps h
  · exact h

theorem stripeCell_keeps {r s} {a0 a1 a2} (h : Keeps r s) : Keeps r (stripeCell a0 a1 a2 s) := by
  unfold stripeCell
  extract_lets -merge -underBinder +onlyGivenNames x1
  refine keeps_ite ?_ ?_
  · exact quietDrop_keeps h
  · refine keeps_foldl (fun s2 x3 h4 => ?_) ?_
    · split
      · exact fetchLines_keeps h4
      · exact h4
    · exact noteSeq_keeps (ackCell_keeps h)

theorem putCell_keeps {r s} {a0 a1} (h : Keeps r s) : Keeps r (putCell a0 a1 s) := by
  unfold putCell
  extract_lets -merge -underBinder +onlyGivenNames x1
  have h2 : Keeps r x1 := by
    refine keeps_foldl (fun s3 x4 h5 => ?_) ?_
    · exact landPut_keeps h5
    · exact noteSeq_keeps (ackCell_keeps h)
  clear_value x1
  refine keeps_ite ?_ ?_
  · exact h2
  · exact grant_keeps h2

theorem permCell_keeps {r s} {a0 a1} (h : Keeps r s) : Keeps r (permCell a0 a1 s) := by
  unfold permCell
  split
  · exact quietDrop_keeps h
  · refine keeps_ite ?_ ?_
    · exact quietDrop_keeps h
    · extract_lets -merge -underBinder +onlyGivenNames x1
      refine keeps_ite ?_ ?_
      · exact refuseCell_keeps h
      · refine keeps_foldl (fun s2 x3 h4 => ?_) ?_
        · exact landPerm_keeps h4
        · exact noteSeq_keeps (ackCell_keeps h)

theorem holdCell_keeps {r s} {a0 a1 a2 a3} (h : Keeps r s) : Keeps r (holdCell a0 a1 a2 a3 s) := by
  unfold holdCell
  refine keeps_frame ?_
  exact h

theorem landData_keeps {r s} {a0 a1 a2 a3} (h : Keeps r s) : Keeps r (landData a0 a1 a2 a3 s) := by
  unfold landData
  extract_lets -merge -underBinder +onlyGivenNames x1
  extract_lets -merge -underBinder +onlyGivenNames x2
  split
  · refine keeps_ite ?_ ?_
    · exact refuseCell_keeps h
    · refine keeps_ite ?_ ?_
      · exact refuseCell_keeps h
      · exact putCell_keeps h
  · refine keeps_ite ?_ ?_
    · exact refuseCell_keeps h
    · refine keeps_ite ?_ ?_
      · exact refuseCell_keeps h
      · exact takeRunCell_keeps h
  · refine keeps_ite ?_ ?_
    · exact refuseCell_keeps h
    · refine keeps_ite ?_ ?_
      · exact refuseCell_keeps h
      · exact takeRunCell_keeps h
  · extract_lets -merge -underBinder +onlyGivenNames x3
    extract_lets -merge -underBinder +onlyGivenNames x4
    refine keeps_ite ?_ ?_
    · exact refuseCell_keeps h
    · refine keeps_ite ?_ ?_
      · exact takeRunCell_keeps h
      · exact stripeCell_keeps h
  · split
    · refine keeps_ite ?_ ?_
      · exact refuseCell_keeps h
      · exact fetchLines_keeps (noteSeq_keeps (ackCell_keeps h))
    · exact quietDrop_keeps h
  · exact permCell_keeps h
  · exact refuseCell_keeps h

theorem landOrHold_keeps {r s} {a0 a1 a2 a3} (h : Keeps r s) : Keeps r (landOrHold a0 a1 a2 a3 s) := by
  unfold landOrHold
  refine keeps_ite ?_ ?_
  · exact holdCell_keeps h
  · exact landData_keeps h

theorem effDataCell_keeps {r s} {a0 a1 a2} (h : Keeps r s) : Keeps r (effDataCell a0 a1 a2 s) := by
  unfold effDataCell
  extract_lets -merge -underBinder +onlyGivenNames x1
  refine keeps_ite ?_ ?_
  · exact h
  · refine keeps_ite ?_ ?_
    · refine fabEnd_keeps ?_
      refine dataFront_keeps ?_ ?_
      · exact h
      · intro y3 y4 h2
        exact noteSeq_keeps (ackCell_keeps h2)
    · refine fabEnd_keeps ?_
      refine dataFront_keeps ?_ ?_
      · exact h
      · intro y6 y7 h5
        exact landOrHold_keeps h5

theorem takeLine_keeps {r s} {a0 a1 a2 a3} (h : Keeps r s) (g3 : ∀ y0 t, Keeps r t → Keeps r (a2 y0 t)) : Keeps r (takeLine a0 a1 a2 a3 s) := by
  unfold takeLine
  refine keeps_ite ?_ ?_
  · exact refuseCell_keeps h
  · refine g3 _ _ ?_
    exact noteSeq_keeps (ackCell_keeps h)

theorem engineIn_keeps {r s} {a0 a1 a2 a3 a4} (h : Keeps r s) (g5 : ∀ y0 t, Keeps r t → Keeps r (a4 y0 t)) : Keeps r (engineIn a0 a1 a2 a3 a4 s) := by
  unfold engineIn
  refine keeps_ite ?_ ?_
  · refine fabEnd_keeps ?_
    refine dataFront_keeps ?_ ?_
    · exact h
    · intro y2 y3 h1
      refine takeLine_keeps ?_ ?_
      · exact h1
      · intro y5 y6 h4
        refine g5 _ _ ?_
        exact h4
  · exact h

theorem engineHbm_keeps {r s} {a0 a1 a2 a3 a4 a5} (h : Keeps r s) (g6 : ∀ y0 t, Keeps r t → Keeps r (a5 y0 t)) : Keeps r (engineHbm a0 a1 a2 a3 a4 a5 s) := by
  unfold engineHbm
  refine keeps_ite ?_ ?_
  · refine fabEnd_keeps ?_
    refine dataFront_keeps ?_ ?_
    · exact h
    · intro y2 y3 h1
      refine keeps_ite ?_ ?_
      · exact holdCell_keeps h1
      · refine takeLine_keeps ?_ ?_
        · exact h1
        · intro y5 y6 h4
          refine g6 _ _ ?_
          exact h4
  · exact h

theorem effPutEnd_keeps {r s} {a0 a1} (h : Keeps r s) : Keeps r (effPutEnd a0 a1 s) := by
  unfold effPutEnd
  refine engineIn_keeps ?_ ?_
  · exact h
  · intro y2 y3 h1
    exact countPut_keeps h1

theorem effStatsChain_keeps {r s} {a0 a1} (h : Keeps r s) : Keeps r (effStatsChain a0 a1 s) := by
  unfold effStatsChain
  refine engineIn_keeps ?_ ?_
  · exact h
  · intro y2 y3 h1
    split
    · refine keeps_ite ?_ ?_
      · exact setRun_keeps h1
      · exact h1
    · exact h1

theorem takeStats_keeps {r s} {a0 a1} (h : Keeps r s) : Keeps r (takeStats a0 a1 s) := by
  unfold takeStats
  split
  · refine keeps_ite ?_ ?_
    · exact writeStats_keeps h
    · exact h
  · exact h

theorem effStatsResult_keeps {r s} {a0 a1} (h : Keeps r s) : Keeps r (effStatsResult a0 a1 s) := by
  unfold effStatsResult
  refine engineHbm_keeps ?_ ?_
  · exact h
  · intro y2 y3 h1
    exact takeStats_keeps h1

theorem sendNack_keeps {r s} {a0 a1 a2} (h : Keeps r s) : Keeps r (sendNack a0 a1 a2 s) := by
  unfold sendNack
  exact sendLine_keeps h

theorem takeFetch_keeps {r s} {a0 a1} (h : Keeps r s) : Keeps r (takeFetch a0 a1 s) := by
  unfold takeFetch
  extract_lets -merge -underBinder +onlyGivenNames x1
  extract_lets -merge -underBinder +onlyGivenNames x2
  extract_lets -merge -underBinder +onlyGivenNames x3
  refine keeps_ite ?_ ?_
  · exact sendNack_keeps h
  · split
    · exact pushLines_keeps h
    · exact sendNack_keeps (fabricBad_keeps h)
    · exact h

theorem effFetchReq_keeps {r s} {a0 a1} (h : Keeps r s) : Keeps r (effFetchReq a0 a1 s) := by
  unfold effFetchReq
  refine engineHbm_keeps ?_ ?_
  · exact h
  · intro y2 y3 h1
    exact takeFetch_keeps h1

theorem effFetchNack_keeps {r s} {a0 a1} (h : Keeps r s) : Keeps r (effFetchNack a0 a1 s) := by
  unfold effFetchNack
  refine engineIn_keeps ?_ ?_
  · exact h
  · intro y2 y3 h1
    refine keeps_foldl (fun s4 x5 h6 => ?_) ?_
    · exact nextHolder_keeps h6
    · exact h1

theorem effFetchTimeout_keeps {r s} {a0 a1} (h : Keeps r s) : Keeps r (effFetchTimeout a0 a1 s) := by
  unfold effFetchTimeout
  split
  · refine keeps_ite ?_ ?_
    · exact fabEnd_keeps (nextHolder_keeps h)
    · exact h
  · exact h

theorem effStreamTotal_keeps {r s} {a0 a1} (h : Keeps r s) : Keeps r (effStreamTotal a0 a1 s) := by
  unfold effStreamTotal
  refine engineIn_keeps ?_ ?_
  · exact h
  · intro y2 y3 h1
    split
    · refine keeps_ite ?_ ?_
      · exact setRebl_keeps h1
      · exact h1
    · exact h1

theorem takeStripe_keeps {r s} {a0 a1} (h : Keeps r s) : Keeps r (takeStripe a0 a1 s) := by
  unfold takeStripe
  extract_lets -merge -underBinder +onlyGivenNames x1
  extract_lets -merge -underBinder +onlyGivenNames x2
  refine keeps_ite ?_ ?_
  · exact h
  · extract_lets -merge -underBinder +onlyGivenNames x3
    split
    · refine keeps_ite ?_ ?_
      · exact h
      · exact pushLines_keeps h
    · exact fabricBad_keeps h
    · exact h

theorem effStripeReq_keeps {r s} {a0 a1} (h : Keeps r s) : Keeps r (effStripeReq a0 a1 s) := by
  unfold effStripeReq
  refine engineHbm_keeps ?_ ?_
  · exact h
  · intro y2 y3 h1
    exact takeStripe_keeps h1

theorem effStripePTimeout_keeps {r s} {a0 a1} (h : Keeps r s) : Keeps r (effStripePTimeout a0 a1 s) := by
  unfold effStripePTimeout
  split
  · exact h
  · split
    · exact h
    · extract_lets -merge -underBinder +onlyGivenNames x1
      extract_lets -merge -underBinder +onlyGivenNames x2
      extract_lets -merge -underBinder +onlyGivenNames x3
      split
      · extract_lets -merge -underBinder +onlyGivenNames x4
        extract_lets -merge -underBinder +onlyGivenNames x5
        refine keeps_ite ?_ ?_
        · refine keeps_ite ?_ ?_
          · exact fabEnd_keeps (ledgerGo_keeps (recoveryFails_keeps h))
          · exact fabEnd_keeps (grant_keeps (sendLine_keeps (setEntry_keeps h)))
        · exact h
      · exact h

theorem requestAgain_keeps {r s} {a0 a1 a2 a3} (h : Keeps r s) (g4 : ∀ y0 t, Keeps r t → Keeps r (a3 y0 t)) : Keeps r (requestAgain a0 a1 a2 a3 s) := by
  unfold requestAgain
  refine dataTake_keeps ?_ ?_
  · exact h
  · intro y2 y3 h1
    refine keeps_ite ?_ ?_
    · exact holdCell_keeps h1
    · refine takeLine_keeps ?_ ?_
      · exact h1
      · intro y5 y6 h4
        refine g4 _ _ ?_
        exact h4

theorem heldIn_keeps {r s} {a0} (h : Keeps r s) : Keeps r (heldIn a0 s) := by
  unfold heldIn
  extract_lets -merge -underBinder +onlyGivenNames x1
  split
  · refine dataTake_keeps ?_ ?_
    · exact h
    · intro y3 y4 h2
      exact landOrHold_keeps h2
  · refine requestAgain_keeps ?_ ?_
    · exact h
    · intro y6 y7 h5
      exact takeStats_keeps h5
  · refine requestAgain_keeps ?_ ?_
    · exact h
    · intro y9 y10 h8
      exact takeFetch_keeps h8
  · refine requestAgain_keeps ?_ ?_
    · exact h
    · intro y12 y13 h11
      exact takeStripe_keeps h11

theorem heldGo_keeps {r s} (h : Keeps r s) : Keeps r (heldGo s) := by
  unfold heldGo
  refine keeps_foldl (fun s1 x2 h3 => ?_) ?_
  · exact heldIn_keeps h3
  · refine keeps_frame ?_
    exact h

theorem noWrites_keeps {r s} {f : State → State} (h : Keeps r s) (g : ∀ t, Keeps r t → Keeps r (f t)) : Keeps r (noWrites f s) :=
  keeps_hbm (g _ h) (fun hc => (h.inv hc).hbm)

theorem heldLapse_keeps {r s} {a0} (h : Keeps r s) : Keeps r (heldLapse a0 s) := by
  unfold heldLapse
  extract_lets -merge -underBinder +onlyGivenNames x1
  split
  · refine dataTake_keeps ?_ ?_
    · exact h
    · intro y3 y4 h2
      refine noWrites_keeps ?_ ?_
      · exact h2
      · intro y6 h5
        exact landData_keeps h5
  · refine dataTake_keeps ?_ ?_
    · exact h
    · intro y8 y9 h7
      refine takeLine_keeps ?_ ?_
      · exact h7
      · intro y11 y12 h10
        refine noWrites_keeps ?_ ?_
        · exact h10
        · intro y14 h13
          exact takeStats_keeps h13
  · refine dataTake_keeps ?_ ?_
    · exact h
    · intro y16 y17 h15
      refine takeLine_keeps ?_ ?_
      · exact h15
      · intro y19 y20 h18
        exact sendNack_keeps h18
  · refine dataTake_keeps ?_ ?_
    · exact h
    · intro y22 y23 h21
      refine takeLine_keeps ?_ ?_
      · exact h21
      · intro y25 y26 h24
        exact h24

theorem cellTimeout_keeps {r s} (h : Keeps r s) : Keeps r (cellTimeout s) := by
  unfold cellTimeout
  split
  · exact h
  · refine fabEnd_keeps ?_
    refine heldLapse_keeps ?_
    refine keeps_frame ?_
    exact h

theorem runTimeout_keeps {r s} {a0} (h : Keeps r s) : Keeps r (runTimeout a0 s) := by
  unfold runTimeout
  split
  · refine keeps_ite ?_ ?_
    · exact fabEnd_keeps (raiseOn_keeps h)
    · exact h
  · exact h

theorem effBarrierCell_keeps {r s} {a0 a1} (h : Keeps r s) : Keeps r (effBarrierCell a0 a1 s) := by
  unfold effBarrierCell
  refine keeps_ite ?_ ?_
  · exact h
  · refine fabEnd_keeps ?_
    refine front_keeps ?_ ?_
    · exact h
    · intro y2 h1
      split
      · exact h1
      · extract_lets -merge -underBinder +onlyGivenNames x3
        extract_lets -merge -underBinder +onlyGivenNames x4
        extract_lets -merge -underBinder +onlyGivenNames x5
        extract_lets -merge -underBinder +onlyGivenNames x6
        refine keeps_ite ?_ ?_
        · exact setCtx_keeps h1
        · exact h1

theorem abortFlow_keeps {r s} {a0 a1} (h : Keeps r s) : Keeps r (abortFlow a0 a1 s) := by
  unfold abortFlow
  split
  · refine keeps_ite ?_ ?_
    · exact raiseOn_keeps h
    · exact abortCtx_keeps h
  · exact abortCtx_keeps h

theorem effAbortCell_keeps {r s} {a0 a1} (h : Keeps r s) : Keeps r (effAbortCell a0 a1 s) := by
  unfold effAbortCell
  refine keeps_ite ?_ ?_
  · exact h
  · refine fabEnd_keeps ?_
    refine front_keeps ?_ ?_
    · exact h
    · intro y2 h1
      extract_lets -merge -underBinder +onlyGivenNames x3
      refine keeps_ite ?_ ?_
      · exact h1
      · extract_lets -merge -underBinder +onlyGivenNames x4 x5
        have h6 : Keeps r x5 := by
          refine keeps_frame ?_
          exact h1
        clear_value x5
        refine keeps_ite ?_ ?_
        · exact abortFlow_keeps h6
        · exact abortGroup_keeps (spreadAbort_keeps h6)

theorem effUnknownCellType_keeps {r s} {a0} (h : Keeps r s) : Keeps r (effUnknownCellType a0 s) := by
  unfold effUnknownCellType
  refine keeps_ite ?_ ?_
  · exact countType_keeps h
  · exact h

theorem takeAck_keeps {r s} {a0 a1} (h : Keeps r s) : Keeps r (takeAck a0 a1 s) := by
  unfold takeAck
  extract_lets -merge -underBinder +onlyGivenNames x1
  extract_lets -merge -underBinder +onlyGivenNames x2
  extract_lets -merge -underBinder +onlyGivenNames x3
  extract_lets -merge -underBinder +onlyGivenNames x4
  extract_lets -merge -underBinder +onlyGivenNames x5
  extract_lets -merge -underBinder +onlyGivenNames x6
  have h7 : Keeps r x6 := by
    refine keeps_foldl (fun s8 x9 h10 => ?_) ?_
    · extract_lets -merge -underBinder +onlyGivenNames x11
      split
      · exact setLink_keeps h10
      · exact h10
    · exact h
  clear_value x6
  extract_lets -merge -underBinder +onlyGivenNames x12 x13
  have h14 : Keeps r x13 := by
    refine keeps_frame ?_
    exact h7
  clear_value x13
  extract_lets -merge -underBinder +onlyGivenNames x15
  exact setPhot_keeps h14

theorem takeCredit_keeps {r s} {a0 a1} (h : Keeps r s) : Keeps r (takeCredit a0 a1 s) := by
  unfold takeCredit
  extract_lets -merge -underBinder +onlyGivenNames x1
  split
  · exact setCtx_keeps h
  · exact h

theorem takeLost_keeps {r s} {a0 a1} (h : Keeps r s) : Keeps r (takeLost a0 a1 s) := by
  unfold takeLost
  extract_lets -merge -underBinder +onlyGivenNames x1
  extract_lets -merge -underBinder +onlyGivenNames x2
  split
  · exact h
  · refine keeps_ite ?_ ?_
    · refine keeps_ite ?_ ?_
      · exact queueCell_keeps h
      · exact h
    · refine keeps_ite ?_ ?_
      · exact h
      · split
        · refine keeps_frame ?_
          exact h
        · exact h

theorem takeMisroute_keeps {r s} {a0} (h : Keeps r s) : Keeps r (takeMisroute a0 s) := by
  unfold takeMisroute
  exact settlePlan_keeps (mislock_keeps h)

theorem takeEntry_keeps {r s} {a0 a1} (h : Keeps r s) : Keeps r (takeEntry a0 a1 s) := by
  unfold takeEntry
  split
  · exact takeAck_keeps h
  · exact takeCredit_keeps h
  · exact takeLost_keeps h
  · exact takeMisroute_keeps h
  · exact h

theorem afterEntries_keeps {r s} (h : Keeps r s) : Keeps r (afterEntries s) := by
  unfold afterEntries
  exact fabEnd_keeps (leaseGo_keeps (endOlds_keeps h))

theorem entryIn_keeps {r s} {a0 a1 a2} (h : Keeps r s) : Keeps r (entryIn a0 a1 a2 s) := by
  unfold entryIn
  refine keeps_ite ?_ ?_
  · exact afterEntries_keeps (takeEntry_keeps h)
  · exact h

theorem effAck_keeps {r s} {a0 a1} (h : Keeps r s) : Keeps r (effAck a0 a1 s) := by
  unfold effAck
  exact entryIn_keeps h

theorem effCredit_keeps {r s} {a0 a1} (h : Keeps r s) : Keeps r (effCredit a0 a1 s) := by
  unfold effCredit
  exact entryIn_keeps h

theorem effLost_keeps {r s} {a0 a1} (h : Keeps r s) : Keeps r (effLost a0 a1 s) := by
  unfold effLost
  exact entryIn_keeps h

theorem effMisroute_keeps {r s} {a0 a1} (h : Keeps r s) : Keeps r (effMisroute a0 a1 s) := by
  unfold effMisroute
  exact entryIn_keeps h

theorem effPeriodLost_keeps {r s} {a0 a1} (h : Keeps r s) : Keeps r (effPeriodLost a0 a1 s) := by
  unfold effPeriodLost
  refine keeps_ite ?_ ?_
  · exact h
  · extract_lets -merge -underBinder +onlyGivenNames x1
    extract_lets -merge -underBinder +onlyGivenNames x2
    have h3 : Keeps r x2 := setLink_keeps h
    clear_value x2
    split
    · exact owe_keeps h3
    · exact h3

theorem controlIn_keeps {r s} {a0 a1 a2 a3} (h : Keeps r s) (g4 : ∀ t, Keeps r t → Keeps r (a3 t)) : Keeps r (controlIn a0 a1 a2 a3 s) := by
  unfold controlIn
  refine keeps_ite ?_ ?_
  · refine front_keeps ?_ ?_
    · exact h
    · intro y2 h1
      refine g4 _ ?_
      exact h1
  · exact h

theorem effReturn_keeps {r s} {a0 a1} (h : Keeps r s) : Keeps r (effReturn a0 a1 s) := by
  unfold effReturn
  refine controlIn_keeps ?_ ?_
  · exact h
  · intro y2 h1
    refine afterEntries_keeps ?_
    refine keeps_foldl (fun s3 x4 h5 => ?_) ?_
    · exact takeEntry_keeps h5
    · exact h1

theorem effLeaseOffer_keeps {r s} {a0 a1} (h : Keeps r s) : Keeps r (effLeaseOffer a0 a1 s) := by
  unfold effLeaseOffer
  refine controlIn_keeps ?_ ?_
  · exact h
  · intro y2 h1
    extract_lets -merge -underBinder +onlyGivenNames x3
    refine keeps_ite ?_ ?_
    · exact h1
    · extract_lets -merge -underBinder +onlyGivenNames x4
      split
      · exact sendControl_keeps h1
      · extract_lets -merge -underBinder +onlyGivenNames x5
        have h6 : Keeps r x5 := sendControl_keeps h1
        clear_value x5
        refine keeps_ite ?_ ?_
        · exact setLink_keeps h6
        · exact h6

theorem effLeaseAccept_keeps {r s} {a0 a1} (h : Keeps r s) : Keeps r (effLeaseAccept a0 a1 s) := by
  unfold effLeaseAccept
  refine controlIn_keeps ?_ ?_
  · exact h
  · intro y2 h1
    refine keeps_ite ?_ ?_
    · exact h1
    · extract_lets -merge -underBinder +onlyGivenNames x3
      extract_lets -merge -underBinder +onlyGivenNames x4 x5
      have h6 : Keeps r x5 := setLink_keeps h1
      clear_value x5
      refine leaseGo_keeps ?_
      refine settlePlan_keeps ?_
      refine keeps_ite ?_ ?_
      · exact parkPorts_keeps h6
      · exact h6

theorem effLeaseRefuse_keeps {r s} {a0 a1} (h : Keeps r s) : Keeps r (effLeaseRefuse a0 a1 s) := by
  unfold effLeaseRefuse
  refine controlIn_keeps ?_ ?_
  · exact h
  · intro y2 h1
    refine keeps_ite ?_ ?_
    · exact h1
    · extract_lets -merge -underBinder +onlyGivenNames x3
      extract_lets -merge -underBinder +onlyGivenNames x4
      refine keeps_ite ?_ ?_
      · exact setLink_keeps h1
      · exact leaseGo_keeps (settlePlan_keeps (refuseLink_keeps h1))

theorem effLeaseEnd_keeps {r s} {a0 a1} (h : Keeps r s) : Keeps r (effLeaseEnd a0 a1 s) := by
  unfold effLeaseEnd
  refine controlIn_keeps ?_ ?_
  · exact h
  · intro y2 h1
    extract_lets -merge -underBinder +onlyGivenNames x3
    refine keeps_ite ?_ ?_
    · exact h1
    · refine keeps_ite ?_ ?_
      · exact retuneRx_keeps h1
      · refine keeps_ite ?_ ?_
        · exact setLink_keeps h1
        · exact h1

theorem effCalNotice_keeps {r s} {a0 a1} (h : Keeps r s) : Keeps r (effCalNotice a0 a1 s) := by
  unfold effCalNotice
  refine controlIn_keeps ?_ ?_
  · exact h
  · intro y2 h1
    extract_lets -merge -underBinder +onlyGivenNames x3
    extract_lets -merge -underBinder +onlyGivenNames x4
    refine keeps_ite ?_ ?_
    · exact setLink_keeps h1
    · exact h1

theorem effShutter_keeps {r s} {a0 a1} (h : Keeps r s) : Keeps r (effShutter a0 a1 s) := by
  unfold effShutter
  refine controlIn_keeps ?_ ?_
  · exact h
  · intro y2 h1
    extract_lets -merge -underBinder +onlyGivenNames x3
    refine keeps_ite ?_ ?_
    · exact leaseGo_keeps (settlePlan_keeps (gateLink_keeps h1))
    · exact h1

theorem effAddrReport_keeps {r s} {a0 a1} (h : Keeps r s) : Keeps r (effAddrReport a0 a1 s) := by
  unfold effAddrReport
  refine controlIn_keeps ?_ ?_
  · exact h
  · intro y2 h1
    refine keeps_ite ?_ ?_
    · exact takeReport_keeps h1
    · exact h1

theorem effAddrSet_keeps {r s} {a0 a1} (h : Keeps r s) : Keeps r (effAddrSet a0 a1 s) := by
  unfold effAddrSet
  refine controlIn_keeps ?_ ?_
  · exact h
  · intro y2 h1
    refine keeps_ite ?_ ?_
    · refine keeps_frame ?_
      exact h1
    · exact h1

theorem sendTiming_keeps {r s} {a0 a1} (h : Keeps r s) : Keeps r (sendTiming a0 a1 s) := by
  unfold sendTiming
  split
  · rename_i s1 e2
    have h3 : Keeps r s1 := by
      refine keeps_snd e2 ?_
      exact drawWord_keeps h
    exact sendControl_keeps h3

theorem effTiming_keeps {r s} {a0 a1 a2} (h : Keeps r s) : Keeps r (effTiming a0 a1 a2 s) := by
  unfold effTiming
  refine controlIn_keeps ?_ ?_
  · exact h
  · intro y2 h1
    refine keeps_ite ?_ ?_
    · exact sendTiming_keeps h1
    · refine keeps_ite ?_ ?_
      · exact setLink_keeps h1
      · exact h1

theorem effBeacon_keeps {r s} {a0 a1} (h : Keeps r s) : Keeps r (effBeacon a0 a1 s) := by
  unfold effBeacon
  refine controlIn_keeps ?_ ?_
  · exact h
  · intro y2 h1
    extract_lets -merge -underBinder +onlyGivenNames x3
    refine keeps_ite ?_ ?_
    · exact h1
    · extract_lets -merge -underBinder +onlyGivenNames x4
      have h5 : Keeps r x4 := by
        refine keeps_ite ?_ ?_
        · exact setCoordinator_keeps h1
        · exact h1
      clear_value x4
      refine keeps_ite ?_ ?_
      · refine sendTiming_keeps ?_
        refine settlePlanes_keeps ?_
        refine keeps_frame ?_
        exact h5
      · exact h5

theorem effFabAbortRaise_keeps {r s} {a0 a1} (h : Keeps r s) : Keeps r (effFabAbortRaise a0 a1 s) := by
  unfold effFabAbortRaise
  refine hostWriteReady_keeps ?_ ?_
  · exact h
  · intro y2 h1
    refine keeps_ite ?_ ?_
    · exact fabEnd_keeps (raiseAbort_keeps h1)
    · exact h1

theorem effFabClearDrop_keeps {r s} {a0} (h : Keeps r s) : Keeps r (effFabClearDrop a0 s) := by
  unfold effFabClearDrop
  refine hostWriteReady_keeps ?_ ?_
  · exact h
  · intro y2 h1
    refine keeps_ite ?_ ?_
    · exact setPhot_keeps h1
    · exact h1

theorem effClearSat_keeps {r s} {a0} (h : Keeps r s) : Keeps r (effClearSat a0 s) := by
  unfold effClearSat
  refine hostWriteReady_keeps ?_ ?_
  · exact h
  · intro y2 h1
    refine keeps_ite ?_ ?_
    · exact setPhot_keeps h1
    · exact h1

end Sys2Proof.Machine
end

