-- ==== Sys2Proof/Laws/KeepsDieLinks.lean ====
section
/-! SUPPORT. KeepsDieLinks: what the functions of Machine/DieLinks.lean keep. -/

namespace Sys2Proof.Machine

theorem setPort_keeps {r s} {a1 a2 a3} (h : Keeps r s) : Keeps r (setPort s a1 a2 a3) := by
  unfold setPort
  refine keeps_frame ?_
  exact h

theorem setComp_keeps {r s} {a1} (h : Keeps r s) : Keeps r (setComp s a1) := by
  unfold setComp
  refine keeps_frame ?_
  exact h

theorem setEnds_keeps {r s} {a0 a1 a2} (h : Keeps r s) : Keeps r (setEnds a0 a1 a2 s) := by
  unfold setEnds
  extract_lets -merge -underBinder +onlyGivenNames x1
  extract_lets -merge -underBinder +onlyGivenNames x2
  have h3 : Keeps r x2 := setPort_keeps h
  clear_value x2
  refine keeps_ite ?_ ?_
  · exact h3
  · exact setPort_keeps h3

theorem portRec_keeps {r s} {a0 a1 a2 a3} (h : Keeps r s) : Keeps r (portRec a0 a1 a2 a3 s) := by
  unfold portRec
  extract_lets -merge -underBinder +onlyGivenNames x1
  exact record_keeps h

theorem settleAlts_keeps {r s} (h : Keeps r s) : Keeps r (settleAlts s) := by
  unfold settleAlts
  refine keeps_foldl (fun s1 x2 h3 => ?_) ?_
  · extract_lets -merge -underBinder +onlyGivenNames x4
    extract_lets -merge -underBinder +onlyGivenNames x5
    exact setPort_keeps h3
  · exact h

theorem leftUp_keeps {r s} {a0 a1} (h : Keeps r s) : Keeps r (leftUp a0 a1 s) := by
  unfold leftUp
  extract_lets -merge -underBinder +onlyGivenNames x1
  have h2 : Keeps r x1 := settleAlts_keeps h
  clear_value x1
  refine keeps_ite ?_ ?_
  · exact portRec_keeps (setEnds_keeps h2)
  · exact h2

theorem backUp_keeps {r s} {a0 a1} (h : Keeps r s) : Keeps r (backUp a0 a1 s) := by
  unfold backUp
  extract_lets -merge -underBinder +onlyGivenNames x1
  have h2 : Keeps r x1 := settleAlts_keeps h
  clear_value x1
  refine keeps_ite ?_ ?_
  · exact portRec_keeps (setEnds_keeps h2)
  · exact h2

theorem recordWidth_keeps {r s} {a0 a1 a2} (h : Keeps r s) : Keeps r (recordWidth a0 a1 a2 s) := by
  unfold recordWidth
  extract_lets -merge -underBinder +onlyGivenNames x1
  refine keeps_flash ?_ ?_ ?_
  · exact h
  · exact fun hc => (h.inv hc).flash
  · exact h.lists.same

theorem degrade_keeps {r s} {a0 a1 a2} (h : Keeps r s) : Keeps r (degrade a0 a1 a2 s) := by
  unfold degrade
  extract_lets -merge -underBinder +onlyGivenNames x1
  extract_lets -merge -underBinder +onlyGivenNames x2
  refine keeps_ite ?_ ?_
  · exact h
  · extract_lets -merge -underBinder +onlyGivenNames x3
    have h4 : Keeps r x3 := recordWidth_keeps h
    clear_value x3
    refine keeps_ite ?_ ?_
    · exact h4
    · exact portRec_keeps h4

theorem agreed_keeps {r s} {a0 a1 a2 a3} (h : Keeps r s) : Keeps r (agreed a0 a1 a2 a3 s) := by
  unfold agreed
  extract_lets -merge -underBinder +onlyGivenNames x1
  extract_lets -merge -underBinder +onlyGivenNames x2
  extract_lets -merge -underBinder +onlyGivenNames x3
  have h4 : Keeps r x3 := setEnds_keeps h
  clear_value x3
  extract_lets -merge -underBinder +onlyGivenNames x5 x6
  have h7 : Keeps r x6 := by
    refine keeps_ite ?_ ?_
    · refine keeps_flash ?_ ?_ ?_
      · exact h4
      · exact fun hc => by exact (h4.inv hc).flash
      · exact h4.lists.same
    · exact degrade_keeps h4
  clear_value x6
  extract_lets -merge -underBinder +onlyGivenNames x8
  have h9 : Keeps r x8 := by
    unfold x8
    split
    · exact portRec_keeps h7
    · exact h7
  clear_value x8
  refine keeps_ite ?_ ?_
  · exact leftUp_keeps (portRec_keeps h9)
  · exact backUp_keeps h9

theorem forceRetrain_keeps {r s} {a0 a1 a2} (h : Keeps r s) : Keeps r (forceRetrain a0 a1 a2 s) := by
  unfold forceRetrain
  extract_lets -merge -underBinder +onlyGivenNames x1
  extract_lets -merge -underBinder +onlyGivenNames x2
  have h3 : Keeps r x2 := setEnds_keeps h
  clear_value x2
  exact setPort_keeps h3

theorem sidesTrained_keeps {r s} {a0 a1 a2 a3} (h : Keeps r s) : Keeps r (sidesTrained a0 a1 a2 a3 s) := by
  unfold sidesTrained
  extract_lets -merge -underBinder +onlyGivenNames x1
  extract_lets -merge -underBinder +onlyGivenNames x2
  extract_lets -merge -underBinder +onlyGivenNames x3
  extract_lets -merge -underBinder +onlyGivenNames x4 x5
  have h6 : Keeps r x5 := setPort_keeps h
  clear_value x5
  extract_lets -merge -underBinder +onlyGivenNames x7 x8
  have h9 : Keeps r x8 := by
    refine keeps_ite ?_ ?_
    · exact h6
    · exact setPort_keeps h6
  clear_value x8
  split
  · refine keeps_ite ?_ ?_
    · exact agreed_keeps h9
    · extract_lets -merge -underBinder +onlyGivenNames x10
      have h11 : Keeps r x10 := setEnds_keeps h9
      clear_value x10
      exact settleAlts_keeps (forceRetrain_keeps h11)
  · extract_lets -merge -underBinder +onlyGivenNames x12
    refine keeps_ite ?_ ?_
    · exact agreed_keeps h9
    · refine keeps_ite ?_ ?_
      · extract_lets -merge -underBinder +onlyGivenNames x13
        have h14 : Keeps r x13 := setEnds_keeps h9
        clear_value x13
        exact leftUp_keeps (portRec_keeps h14)
      · refine keeps_ite ?_ ?_
        · exact forceRetrain_keeps (degrade_keeps h9)
        · exact forceRetrain_keeps h9

theorem flitError_keeps {r s} {a0 a1 a2 a3} (h : Keeps r s) : Keeps r (flitError a0 a1 a2 a3 s) := by
  unfold flitError
  extract_lets -merge -underBinder +onlyGivenNames x1
  extract_lets -merge -underBinder +onlyGivenNames x2
  extract_lets -merge -underBinder +onlyGivenNames x3
  refine keeps_ite ?_ ?_
  · exact setPort_keeps h
  · extract_lets -merge -underBinder +onlyGivenNames x4
    extract_lets -merge -underBinder +onlyGivenNames x5
    extract_lets -merge -underBinder +onlyGivenNames x6
    have h7 : Keeps r x6 := setPort_keeps h
    clear_value x6
    extract_lets -merge -underBinder +onlyGivenNames x8
    have h9 : Keeps r x8 := setEnds_keeps h7
    clear_value x8
    exact leftUp_keeps (portRec_keeps h9)

theorem effD2dPortClear_keeps {r s} {a0 a1} (h : Keeps r s) : Keeps r (effD2dPortClear a0 a1 s) := by
  unfold effD2dPortClear
  refine hostAccess_keeps ?_ ?_
  · exact h
  · intro y2 h1
    refine keeps_ite ?_ ?_
    · exact setPort_keeps h1
    · exact h1

theorem compRec_keeps {r s} {a0} (h : Keeps r s) : Keeps r (compRec a0 s) := by
  unfold compRec
  exact portRec_keeps h

theorem compAsk_keeps {r s} {a0} (h : Keeps r s) : Keeps r (compAsk a0 s) := by
  unfold compAsk
  extract_lets -merge -underBinder +onlyGivenNames x1
  extract_lets -merge -underBinder +onlyGivenNames x2
  exact emit_keeps (setComp_keeps h)

theorem effRegRd_keeps {r s} {a0 a1} (h : Keeps r s) : Keeps r (effRegRd a0 a1 s) := by
  unfold effRegRd
  refine keeps_ite ?_ ?_
  · exact h
  · refine hostRead_keeps ?_ ?_
    · exact h
    · intro y2 h1
      refine keeps_ite ?_ ?_
      · exact compAsk_keeps h1
      · exact emit_keeps h1

theorem effRegWr_keeps {r s} {a0 a1 a2} (h : Keeps r s) : Keeps r (effRegWr a0 a1 a2 s) := by
  unfold effRegWr
  refine keeps_ite ?_ ?_
  · exact h
  · refine hostAccess_keeps ?_ ?_
    · exact h
    · intro y2 h1
      refine keeps_ite ?_ ?_
      · exact h1
      · refine keeps_ite ?_ ?_
        · exact regAccess_keeps h1
        · refine keeps_ite ?_ ?_
          · exact regAccess_keeps h1
          · exact compAsk_keeps h1

theorem regWrBad_keeps {r s} {a0 a1} (h : Keeps r s) : Keeps r (regWrBad a0 a1 s) := by
  unfold regWrBad
  exact record_keeps h

theorem compGives_keeps {r s} {a0 a1} (h : Keeps r s) : Keeps r (compGives a0 a1 s) := by
  unfold compGives
  exact emit_keeps h

theorem compTake_keeps {r s} {a0} (h : Keeps r s) : Keeps r (compTake a0 s) := by
  unfold compTake
  exact setComp_keeps h

theorem effCompanionCompletion_keeps {r s} {a0 a1 a2} (h : Keeps r s) : Keeps r (effCompanionCompletion a0 a1 a2 s) := by
  unfold effCompanionCompletion
  split
  · exact h
  · extract_lets -merge -underBinder +onlyGivenNames x1
    have h2 : Keeps r x1 := compTake_keeps h
    clear_value x1
    refine keeps_ite ?_ ?_
    · refine keeps_ite ?_ ?_
      · exact h2
      · exact regWrBad_keeps h2
    · refine keeps_ite ?_ ?_
      · exact compGives_keeps h2
      · split
        · rename_i s3 e4
          have h5 : Keeps r s3 := by
            refine keeps_snd e4 ?_
            exact drawWord_keeps h2
          exact compGives_keeps h5

theorem effCompanionRegTimeout_keeps {r s} {a0} (h : Keeps r s) : Keeps r (effCompanionRegTimeout a0 s) := by
  unfold effCompanionRegTimeout
  split
  · exact h
  · extract_lets -merge -underBinder +onlyGivenNames x1
    have h2 : Keeps r x1 := compTake_keeps h
    clear_value x1
    refine keeps_ite ?_ ?_
    · exact regWrBad_keeps h2
    · exact compRec_keeps (compGives_keeps h2)

theorem underAperture_keeps {r s} {a0} (h : Keeps r s) (g1 : ∀ t, Keeps r t → Keeps r (a0 t)) : Keeps r (underAperture a0 s) := by
  unfold underAperture
  extract_lets -merge -underBinder +onlyGivenNames x1
  extract_lets -merge -underBinder +onlyGivenNames x2
  have h3 : Keeps r x2 := by
    refine g1 _ ?_
    refine keeps_frame ?_
    exact h
  clear_value x2
  refine keeps_frame ?_
  exact h3

theorem compReturn_keeps {r s} {a0 a1 a2 a3} (h : Keeps r s) : Keeps r (compReturn a0 a1 a2 a3 s) := by
  unfold compReturn
  refine underAperture_keeps ?_ ?_
  · exact h
  · intro y2 h1
    extract_lets -merge -underBinder +onlyGivenNames x3
    have h4 : Keeps r x3 := hitHbm_keeps h1
    clear_value x3
    extract_lets -merge -underBinder +onlyGivenNames x5
    have h6 : Keeps r x5.2 := readUntracked_keeps h4
    clear_value x5
    exact emit_keeps h6

theorem compStore_keeps {r s} {a0 a1} (h : Keeps r s) : Keeps r (compStore a0 a1 s) := by
  unfold compStore
  refine underAperture_keeps ?_ ?_
  · exact h
  · intro y2 h1
    exact bar2Sectors_keeps h1

theorem compRefuse_keeps {r s} {a0} (h : Keeps r s) : Keeps r (compRefuse a0 s) := by
  unfold compRefuse
  exact emit_keeps (setComp_keeps h)

theorem effMemRd_keeps {r s} {a0 a1 a2 a3} (h : Keeps r s) : Keeps r (effMemRd a0 a1 a2 a3 s) := by
  unfold effMemRd
  refine keeps_ite ?_ ?_
  · exact h
  · refine keeps_ite ?_ ?_
    · exact compRefuse_keeps h
    · extract_lets -merge -underBinder +onlyGivenNames x1
      extract_lets -merge -underBinder +onlyGivenNames x2
      refine keeps_ite ?_ ?_
      · exact setComp_keeps h
      · exact compReturn_keeps h

theorem effMemWr_keeps {r s} {a0 a1 a2 a3} (h : Keeps r s) : Keeps r (effMemWr a0 a1 a2 a3 s) := by
  unfold effMemWr
  refine keeps_ite ?_ ?_
  · exact h
  · refine keeps_ite ?_ ?_
    · exact compRefuse_keeps h
    · extract_lets -merge -underBinder +onlyGivenNames x1
      refine keeps_ite ?_ ?_
      · exact setComp_keeps h
      · exact compStore_keeps h

theorem compResume_keeps {r s} (h : Keeps r s) : Keeps r (compResume s) := by
  unfold compResume
  extract_lets -merge -underBinder +onlyGivenNames x1
  refine keeps_foldl (fun s2 x3 h4 => ?_) ?_
  · refine keeps_ite ?_ ?_
    · exact setComp_keeps h4
    · refine keeps_ite ?_ ?_
      · exact compStore_keeps h4
      · exact compReturn_keeps h4
  · exact setComp_keeps h

theorem compTimeout_keeps {r s} (h : Keeps r s) : Keeps r (compTimeout s) := by
  unfold compTimeout
  split
  · exact h
  · extract_lets -merge -underBinder +onlyGivenNames x1 x2
    have h3 : Keeps r x2 := setComp_keeps h
    clear_value x2
    refine keeps_ite ?_ ?_
    · exact h3
    · split
      · rename_i s4 e5
        have h6 : Keeps r s4 := by
          refine keeps_snd e5 ?_
          exact drawBytes_keeps h3
        exact emit_keeps h6

theorem effCompanionEvent_keeps {r s} {a0} (h : Keeps r s) : Keeps r (effCompanionEvent a0 s) := by
  unfold effCompanionEvent
  refine keeps_ite ?_ ?_
  · exact h
  · extract_lets -merge -underBinder +onlyGivenNames x1
    exact record_keeps h

theorem setAperture_keeps {r s} {a0 a1 a2 a3 a4} (h : Keeps r s) : Keeps r (setAperture a0 a1 a2 a3 a4 s) := by
  unfold setAperture
  extract_lets -merge -underBinder +onlyGivenNames x1
  refine keeps_ite ?_ ?_
  · refine keeps_ite ?_ ?_
    · exact regAccess_keeps h
    · exact setComp_keeps h
  · refine keeps_ite ?_ ?_
    · exact regAccess_keeps h
    · exact setComp_keeps h

theorem writeHalves_keeps {r s} {a0 a1 a2 a3 a4 a5} (h : Keeps r s) (g6 : ∀ y0 y1 t, Keeps r t → Keeps r (a5 y0 y1 t)) : Keeps r (writeHalves a0 a1 a2 a3 a4 a5 s) := by
  unfold writeHalves
  extract_lets -merge -underBinder +onlyGivenNames x1 x2
  have h3 : Keeps r x2 := by
    refine keeps_frame ?_
    exact h
  clear_value x2
  refine keeps_ite ?_ ?_
  · refine g6 _ _ _ ?_
    exact h3
  · refine keeps_ite ?_ ?_
    · refine keeps_frame ?_
      exact h
    · extract_lets -merge -underBinder +onlyGivenNames x4
      refine g6 _ _ _ ?_
      exact h3

theorem effD2dCompApertureWrite_keeps {r s} {a0 a1 a2} (h : Keeps r s) : Keeps r (effD2dCompApertureWrite a0 a1 a2 s) := by
  unfold effD2dCompApertureWrite
  refine keeps_ite ?_ ?_
  · exact h
  · refine hostAccess_keeps ?_ ?_
    · exact h
    · intro y2 h1
      extract_lets -merge -underBinder +onlyGivenNames x3
      extract_lets -merge -underBinder +onlyGivenNames x4
      refine writeHalves_keeps ?_ ?_
      · exact h1
      · intro y6 y7 y8 h5
        exact setAperture_keeps h5

end Sys2Proof.Machine
end

