-- ==== Sys2Proof/Laws/KeepsReset.lean ====
section
/-! SUPPORT. KeepsReset: what the functions of Machine/Reset.lean keep. -/

namespace Sys2Proof.Machine

theorem cutCluster_keeps {r s} {a0} (h : Keeps r s) : Keeps r (cutCluster a0 s) := by
  unfold cutCluster
  extract_lets -merge -underBinder +onlyGivenNames x1
  extract_lets -merge -underBinder +onlyGivenNames x2
  extract_lets -merge -underBinder +onlyGivenNames x3
  have h4 : Keeps r x3 := setDie_keeps h
  clear_value x3
  extract_lets -merge -underBinder +onlyGivenNames x5
  have h6 : Keeps r x5 := by
    refine keeps_foldl (fun s7 x8 h9 => ?_) ?_
    · refine setCore_keeps ?_ ?_
      · exact h9
      · intro hc
        refine quitCore_ok ?_
        exact (h9.inv hc).spad _
    · exact h4
  clear_value x5
  extract_lets -merge -underBinder +onlyGivenNames x10
  have h11 : Keeps r x10 := abortTokens_keeps h6
  clear_value x10
  extract_lets -merge -underBinder +onlyGivenNames x12
  have h13 : Keeps r x12 := stopRuns_keeps (dropPuts_keeps h11)
  clear_value x12
  extract_lets -merge -underBinder +onlyGivenNames x14
  have h15 : Keeps r x14 := by
    refine setCl_keeps ?_ ?_
    · exact h13
    · intro hc
      refine quitCluster_ok ?_
      exact (h13.inv hc).clu _
  clear_value x14
  unfold x1
  split
  · exact memberEnded_keeps h15
  · exact h15

theorem goOnAll_keeps {r s} (h : Keeps r s) : Keeps r (goOnAll s) := by
  unfold goOnAll
  exact fabEnd_keeps (heldGo_keeps (ledgerGo_keeps (compResume_keeps (bar2Resume_keeps (resumeWaiting_keeps (landHeld_keeps h))))))

theorem stopPackage_keeps {r s} (h : Keeps r s) : Keeps r (stopPackage s) := by
  unfold stopPackage
  extract_lets -merge -underBinder +onlyGivenNames x1
  have h2 : Keeps r x1 := by
    refine keeps_foldl (fun s3 x4 h5 => ?_) ?_
    · refine resetStream_keeps ?_
      refine setStrm_keeps ?_ ?_
      · exact h5
      · intro hc
        extract_lets -merge -underBinder +onlyGivenNames x6
        exact ⟨((h5.inv hc).strm _).buf, ((h5.inv hc).strm _).queue⟩
    · exact h
  clear_value x1
  extract_lets -merge -underBinder +onlyGivenNames x7
  have h8 : Keeps r x7 := by
    refine keeps_foldl (fun s9 x10 h11 => ?_) ?_
    · exact trap_keeps h11
    · exact h2
  clear_value x7
  extract_lets -merge -underBinder +onlyGivenNames x12
  have h13 : Keeps r x12 := by
    refine keeps_foldl (fun s14 x15 h16 => ?_) ?_
    · exact completeCmd_keeps h16
    · exact h8
  clear_value x12
  extract_lets -merge -underBinder +onlyGivenNames x17
  have h18 : Keeps r x17 := by
    refine keeps_frame ?_
    exact h13
  clear_value x17
  extract_lets -merge -underBinder +onlyGivenNames x19
  extract_lets -merge -underBinder +onlyGivenNames x20
  have h21 : Keeps r x20 := by
    refine keeps_foldl (fun s22 x23 h24 => ?_) ?_
    · exact abortCtx_keeps h24
    · exact h18
  clear_value x20
  split
  · refine keeps_ite ?_ ?_
    · exact abortRebl_keeps h21
    · refine keeps_frame ?_
      exact h21
  · exact h21

theorem resetHostRegs_keeps {r s} (h : Keeps r s) : Keeps r (resetHostRegs s) := by
  unfold resetHostRegs
  refine keeps_frame ?_
  exact h

theorem finishFlr_keeps {r s} (h : Keeps r s) : Keeps r (finishFlr s) := by
  unfold finishFlr
  extract_lets -merge -underBinder +onlyGivenNames x1 x2
  have h3 : Keeps r x2 := by
    refine zeroMemories_keeps ?_
    refine closeJob_keeps ?_
    refine keeps_frame ?_
    exact h
  clear_value x2
  refine goOnAll_keeps ?_
  refine resetHostRegs_keeps ?_
  refine keeps_frame ?_
  exact h3

theorem linkSecurity_keeps {r s} {a0} (h : Keeps r s) : Keeps r (linkSecurity a0 s) := by
  unfold linkSecurity
  exact record_keeps h

theorem dropKeys_keeps {r s} {a0} (h : Keeps r s) : Keeps r (dropKeys a0 s) := by
  unfold dropKeys
  extract_lets -merge -underBinder +onlyGivenNames x1
  extract_lets -merge -underBinder +onlyGivenNames x2 x3 x4
  have h5 : Keeps r x4 := by
    refine keeps_encl ?_ ?_
    · exact h
    · exact ⟨(h.fuses).blown, (h.fuses).svn, (h.fuses).revoked⟩
  clear_value x4
  refine keeps_ite ?_ ?_
  · exact linkSecurity_keeps h5
  · exact h5

theorem zeroise_keeps {r s} {a0} (h : Keeps r s) : Keeps r (zeroise a0 s) := by
  unfold zeroise
  exact record_keeps (dropKeys_keeps h)

theorem newChallenge_keeps {r s} (h : Keeps r s) : Keeps r (newChallenge s) := by
  unfold newChallenge
  split
  · rename_i s1 e2
    have h3 : Keeps r s1 := by
      refine keeps_snd e2 ?_
      exact drawBytes_keeps h
    refine keeps_encl ?_ ?_
    · exact h3
    · extract_lets -merge -underBinder +onlyGivenNames x4
      exact ⟨(h3.fuses).blown, (h3.fuses).svn, (h3.fuses).revoked⟩

theorem enclaveError_keeps {r s} {a0} (h : Keeps r s) : Keeps r (enclaveError a0 s) := by
  unfold enclaveError
  split
  · rename_i s1 e2
    have h3 : Keeps r s1 := by
      refine keeps_snd e2 ?_
      exact drawWord_keeps h
    extract_lets -merge -underBinder +onlyGivenNames x4
    extract_lets -merge -underBinder +onlyGivenNames x5
    have h6 : Keeps r x5 := record_keeps h3
    clear_value x5
    refine zeroise_keeps ?_
    refine keeps_encl ?_ ?_
    · exact h6
    · extract_lets -merge -underBinder +onlyGivenNames x7
      exact ⟨(h6.fuses).blown, (h6.fuses).svn, (h6.fuses).revoked⟩

theorem warmLoss_keeps {r s} (h : Keeps r s) : Keeps r (warmLoss s) := by
  unfold warmLoss
  extract_lets s1
  have h1 : Keeps r s1 := keeps_foldl (fun _ _ h => dropLedger_keeps (dropEph_keeps h)) h
  clear_value s1
  refine keeps_mapV (fs := warmStrm) (fc := warmCluster) (fk := warmCore)
    ?_ ?_ ?_ h1 rfl rfl (.inl rfl) (.inl rfl) (.inl rfl) (.inl rfl) rfl (.inl rfl) h1.fuses
  · intro x hx; exact ⟨hx.buf, hx.queue⟩
  · intro x _; exact ⟨rfl, rfl, Nat.zero_lt_succ _, Nat.zero_le _⟩
  · intro x _; rfl

theorem coldLoss_keeps {r s} (h : Keeps r s) : Keeps r (coldLoss s) :=
  keeps_mapV (fs := fun x => x) (fc := fun x => x) (fk := fun x => x) (fun _ h => h) (fun _ h => h) (fun _ h => h)
    h rfl rfl (.inr (.inr rfl)) (.inr (.inr rfl)) (.inr (.inr rfl)) (.inr rfl) rfl (.inl rfl)
    ⟨h.fuses.blown, h.fuses.svn, h.fuses.revoked⟩

theorem fwUpdate_keeps {r s} {a0 a1 a2} (h : Keeps r s) : Keeps r (fwUpdate a0 a1 a2 s) := by
  unfold fwUpdate
  exact record_keeps h

theorem startUpdates_keeps {r s} (h : Keeps r s) : Keeps r (startUpdates s) := by
  unfold startUpdates
  split
  · refine fwUpdate_keeps ?_
    refine keeps_frame ?_
    exact h
  · refine keeps_frame ?_
    exact h

theorem beginStart_keeps {r s} {a0 a1} (h : Keeps r s) : Keeps r (beginStart a0 a1 s) := by
  unfold beginStart
  extract_lets -merge -underBinder +onlyGivenNames x1 x2 x3
  have h4 : Keeps r x3 := by
    refine keeps_recs ?_ ?_
    · exact h
    · exact fun hc => (h.inv hc).log
  clear_value x3
  exact startUpdates_keeps (record_keeps h4)

theorem sendEnds_keeps {r s} (h : Keeps r s) : Keeps r (sendEnds s) := by
  unfold sendEnds
  refine keeps_foldl (fun s1 x2 h3 => ?_) ?_
  · extract_lets -merge -underBinder +onlyGivenNames x4
    extract_lets -merge -underBinder +onlyGivenNames x5
    refine keeps_ite ?_ ?_
    · exact sendOn_keeps (takeTx_keeps h3)
    · exact takeTx_keeps h3
  · exact h

theorem leaveLeases_keeps {r s} (h : Keeps r s) : Keeps r (leaveLeases s) := by
  unfold leaveLeases
  exact sendEnds_keeps (dropPlan_keeps h)

theorem coldStart_keeps {r s} {a0} (h : Keeps r s) : Keeps r (coldStart a0 s) := by
  unfold coldStart
  extract_lets -merge -underBinder +onlyGivenNames x1
  extract_lets -merge -underBinder +onlyGivenNames x2
  have h3 : Keeps r x2 := coldLoss_keeps (leaveLeases_keeps h)
  clear_value x2
  extract_lets -merge -underBinder +onlyGivenNames x4 x5
  have h6 : Keeps r x5 := by
    refine keeps_frame ?_
    exact h3
  clear_value x5
  refine beginStart_keeps ?_
  refine keeps_frame ?_
  exact h6

theorem warmDies_keeps {r s} (h : Keeps r s) : Keeps r (warmDies s) := by
  unfold warmDies
  extract_lets -merge -underBinder +onlyGivenNames x1
  have h2 : Keeps r x1 := by
    refine keeps_frame ?_
    exact h
  clear_value x1
  extract_lets -merge -underBinder +onlyGivenNames x3
  extract_lets -merge -underBinder +onlyGivenNames x4
  have h5 : Keeps r x4 := zeroise_keeps (warmLoss_keeps (leaveLeases_keeps (abortTokens_keeps h2)))
  clear_value x4
  refine keeps_frame ?_
  exact h5

theorem beginWarm_keeps {r s} {a0} (h : Keeps r s) : Keeps r (beginWarm a0 s) := by
  unfold beginWarm
  extract_lets -merge -underBinder +onlyGivenNames x1
  have h2 : Keeps r x1 := stopPackage_keeps (beginStart_keeps h)
  clear_value x1
  extract_lets -merge -underBinder +onlyGivenNames x3 x4
  have h5 : Keeps r x4 := by
    refine keeps_frame ?_
    exact h2
  clear_value x4
  refine keeps_ite ?_ ?_
  · exact warmDies_keeps h5
  · exact h5

theorem requestWarm_keeps {r s} {a0} (h : Keeps r s) : Keeps r (requestWarm a0 s) := by
  unfold requestWarm
  refine keeps_ite ?_ ?_
  · refine keeps_frame ?_
    exact h
  · refine keeps_ite ?_ ?_
    · exact beginWarm_keeps h
    · exact h

theorem powerOff_keeps {r s} (h : Keeps r s) : Keeps r (powerOff s) := by
  refine keeps_mapV (fs := fun x => x) (fc := fun c => { warmCluster c with clockMhz := 0, voltMv := 0 }) (fk := warmCore)
    ?_ ?_ ?_ h rfl rfl (.inr (.inl rfl)) (.inl rfl) (.inl rfl) (.inl rfl) rfl (.inl rfl) h.fuses
  · intro x hx; exact hx
  · intro x _; exact ⟨rfl, rfl, Nat.zero_lt_succ _, Nat.zero_le _⟩
  · intro x _; rfl

theorem enterRecovery_keeps {r s} {a0 a1} (h : Keeps r s) : Keeps r (enterRecovery a0 a1 s) := by
  unfold enterRecovery
  extract_lets -merge -underBinder +onlyGivenNames x1 x3 x5
  have h2 : Keeps r x1 := stopPackage_keeps h
  clear_value x1
  have h4 : Keeps r x3 := abortTokens_keeps h2
  clear_value x3
  have h6 : Keeps r x5 := by
    refine keeps_ite ?_ ?_
    · refine keeps_frame ?_
      exact h4
    · exact h
  clear_value x5
  extract_lets -merge -underBinder +onlyGivenNames x7
  have h8 : Keeps r x7 := powerOff_keeps h6
  clear_value x7
  extract_lets -merge -underBinder +onlyGivenNames x9 x10 x11
  have h12 : Keeps r x11 := by
    refine keeps_recs ?_ ?_
    · exact h8
    · exact fun hc => by exact (h8.inv hc).log
  clear_value x11
  exact record_keeps h12

theorem startFails_keeps {r s} {a0} (h : Keeps r s) : Keeps r (startFails a0 s) := by
  unfold startFails
  extract_lets -merge -underBinder +onlyGivenNames x1
  extract_lets -merge -underBinder +onlyGivenNames x2
  have h3 : Keeps r x2 := record_keeps h
  clear_value x2
  extract_lets -merge -underBinder +onlyGivenNames x4 x5
  have h6 : Keeps r x5 := by
    refine keeps_frame ?_
    exact h3
  clear_value x5
  refine keeps_ite ?_ ?_
  · exact enterRecovery_keeps h6
  · extract_lets -merge -underBinder +onlyGivenNames x7
    extract_lets -merge -underBinder +onlyGivenNames x8 x9
    have h10 : Keeps r x9 := by
      refine keeps_frame ?_
      exact h6
    clear_value x9
    refine keeps_ite ?_ ?_
    · exact coldStart_keeps h10
    · exact warmDies_keeps (beginStart_keeps h10)

theorem checkRoutes_keeps {r s} (h : Keeps r s) : Keeps r (checkRoutes s) := by
  unfold checkRoutes
  refine keeps_ite ?_ ?_
  · exact h
  · split
    · exact enterRecovery_keeps (portRec_keeps h)
    · exact h

theorem stopSettled_keeps {r s} (h : Keeps r s) : Keeps r (stopSettled s) := by
  unfold stopSettled
  refine keeps_ite ?_ ?_
  · exact h
  · refine keeps_ite ?_ ?_
    · exact warmDies_keeps h
    · refine keeps_ite ?_ ?_
      · exact finishFlr_keeps h
      · exact h

theorem effBoundary_keeps {r s} {a0} (h : Keeps r s) : Keeps r (effBoundary a0 s) := by
  unfold effBoundary
  exact fabEnd_keeps (stopSettled_keeps (effProofBoundary_keeps h))

theorem cutGroups_keeps {r s} (h : Keeps r s) : Keeps r (cutGroups s) := by
  unfold cutGroups
  refine stopSettled_keeps ?_
  refine keeps_foldl (fun s1 x2 h3 => ?_) ?_
  · exact cutCluster_keeps h3
  · exact h

theorem effFlrStopTimeout_keeps {r s} (h : Keeps r s) : Keeps r (effFlrStopTimeout s) := by
  unfold effFlrStopTimeout
  refine keeps_ite ?_ ?_
  · exact cutGroups_keeps h
  · exact h

theorem effWarmStopTimeout_keeps {r s} (h : Keeps r s) : Keeps r (effWarmStopTimeout s) := by
  unfold effWarmStopTimeout
  refine keeps_ite ?_ ?_
  · exact cutGroups_keeps h
  · exact h

theorem flrLike_keeps {r s} (h : Keeps r s) : Keeps r (flrLike s) := by
  unfold flrLike
  refine keeps_ite ?_ ?_
  · extract_lets -merge -underBinder +onlyGivenNames x1
    have h2 : Keeps r x1 := stopPackage_keeps h
    clear_value x1
    refine keeps_ite ?_ ?_
    · exact finishFlr_keeps h2
    · refine keeps_frame ?_
      exact h2
  · exact resetHostRegs_keeps h

theorem applyLists_keeps {r s} {a0} (h : Keeps r s) : Keeps r (applyLists a0 s) := by
  unfold applyLists
  extract_lets -merge -underBinder +onlyGivenNames x1
  have h2 : Keeps r x1 := by
    refine keeps_foldl (fun s3 x4 h5 => ?_) ?_
    · extract_lets -merge -underBinder +onlyGivenNames x6
      extract_lets -merge -underBinder +onlyGivenNames x7
      have h8 : Keeps r x7 := by
        refine setCl_keeps ?_ ?_
        · exact h5
        · intro hc
          refine listedCluster_ok ?_
          exact (h5.inv hc).clu _
      clear_value x7
      refine keeps_foldl (fun s9 x10 h11 => ?_) ?_
      · refine setCore_keeps ?_ ?_
        · exact h11
        · intro hc
          extract_lets -merge -underBinder +onlyGivenNames x12
          exact (h11.inv hc).spad _
      · exact h8
    · exact h
  clear_value x1
  extract_lets -merge -underBinder +onlyGivenNames x13
  exact setDie_keeps h2

theorem quitDie_keeps {r s} {a0} (h : Keeps r s) : Keeps r (quitDie a0 s) := by
  unfold quitDie
  extract_lets -merge -underBinder +onlyGivenNames x1
  extract_lets -merge -underBinder +onlyGivenNames x2
  have h3 : Keeps r x2 := by
    refine keeps_foldl (fun s4 x5 h6 => ?_) ?_
    · exact abortTokens_keeps h6
    · exact h
  clear_value x2
  extract_lets -merge -underBinder +onlyGivenNames x7
  have h8 : Keeps r x7 := by
    refine keeps_foldl (fun s9 x10 h11 => ?_) ?_
    · split
      · refine keeps_ite ?_ ?_
        · exact completeCmd_keeps h11
        · exact h11
      · exact h11
    · exact h3
  clear_value x7
  extract_lets -merge -underBinder +onlyGivenNames x12
  have h13 : Keeps r x12 := by
    refine keeps_foldl (fun s14 x15 h16 => ?_) ?_
    · refine keeps_ite ?_ ?_
      · exact raiseOn_keeps h16
      · exact h16
    · exact h8
  clear_value x12
  extract_lets -merge -underBinder +onlyGivenNames x17
  have h18 : Keeps r x17 := by
    refine keeps_foldl (fun s19 x20 h21 => ?_) ?_
    · exact cutCluster_keeps h21
    · exact h13
  clear_value x17
  extract_lets -merge -underBinder +onlyGivenNames x22
  have h23 : Keeps r x22 := by
    refine keeps_foldl (fun s24 x25 h26 => ?_) ?_
    · exact failTile_keeps h26
    · exact h18
  clear_value x22
  extract_lets -merge -underBinder +onlyGivenNames x27
  extract_lets -merge -underBinder +onlyGivenNames x28 x29
  have h30 : Keeps r x29 := endReqs_keeps (setDie_keeps h23)
  clear_value x29
  exact dropLedger_keeps (dropEph_keeps h30)

theorem resetCompute_keeps {r s a0} (h : Keeps r s) : Keeps r (resetCompute a0 s) := by
  unfold resetCompute
  extract_lets -underBinder +onlyGivenNames s1 s2
  have h1 : Keeps r s1 := quitDie_keeps h
  clear_value s1
  have h2 : Keeps r s2 := keeps_foldl (fun _ _ h => setStack_keeps h) h1
  clear_value s2
  refine applyLists_keeps (setDie_keeps (keeps_foldl (fun s x h => ?_) h2))
  refine keeps_foldl (fun s x h => setCore_keeps h (fun _ => rfl)) (setCl_keeps h (fun _ => ⟨rfl, rfl, Nat.zero_lt_succ _, Nat.zero_le _⟩))

theorem resetPhotonic_keeps {r s} {a0} (h : Keeps r s) : Keeps r (resetPhotonic a0 s) := by
  unfold resetPhotonic
  extract_lets -merge -underBinder +onlyGivenNames x1
  extract_lets -merge -underBinder +onlyGivenNames x2
  have h3 : Keeps r x2 := by
    refine keeps_foldl (fun s4 x5 h6 => ?_) ?_
    · exact raiseOn_keeps h6
    · exact h
  clear_value x2
  extract_lets -merge -underBinder +onlyGivenNames x7
  have h8 : Keeps r x7 := unloadContexts_keeps (dropPlan_keeps h3)
  clear_value x7
  extract_lets -merge -underBinder +onlyGivenNames x9 x10
  have h11 : Keeps r x10 := by
    refine keeps_frame ?_
    exact h8
  clear_value x10
  extract_lets -merge -underBinder +onlyGivenNames x12 x13
  have h14 : Keeps r x13 := setPhot_keeps h11
  clear_value x13
  extract_lets -merge -underBinder +onlyGivenNames x15 x16
  have h17 : Keeps r x16 := by
    refine keeps_frame ?_
    exact h14
  clear_value x16
  extract_lets -merge -underBinder +onlyGivenNames x18
  have h19 : Keeps r x18 := by
    refine keeps_foldl (fun s20 x21 h22 => ?_) ?_
    · extract_lets -merge -underBinder +onlyGivenNames x23
      exact setFibre_keeps h22
    · exact h17
  clear_value x18
  refine keeps_foldl (fun s24 x25 h26 => ?_) ?_
  · exact setLink_keeps (withdraw_keeps h26)
  · exact h19

theorem dieRec_keeps {r s} {a0 a1} (h : Keeps r s) : Keeps r (dieRec a0 a1 s) := by
  unfold dieRec
  exact record_keeps h

theorem trainDie_keeps {r s} {a0} (h : Keeps r s) : Keeps r (trainDie a0 s) := by
  unfold trainDie
  refine keeps_foldl (fun s1 x2 h3 => ?_) ?_
  · extract_lets -merge -underBinder +onlyGivenNames x4
    extract_lets -merge -underBinder +onlyGivenNames x5 x6
    have h7 : Keeps r x6 := setPort_keeps h3
    clear_value x6
    exact setPort_keeps h7
  · exact h

theorem beginDieReset_keeps {r s} {a0} (h : Keeps r s) : Keeps r (beginDieReset a0 s) := by
  unfold beginDieReset
  extract_lets -merge -underBinder +onlyGivenNames x1
  have h2 : Keeps r x1 := dieRec_keeps h
  clear_value x1
  extract_lets -merge -underBinder +onlyGivenNames x3 x4
  have h5 : Keeps r x4 := by
    refine keeps_frame ?_
    exact h2
  clear_value x4
  extract_lets -merge -underBinder +onlyGivenNames x6
  have h7 : Keeps r x6 := by
    refine keeps_ite ?_ ?_
    · exact resetCompute_keeps h5
    · exact resetPhotonic_keeps h5
  clear_value x6
  exact fabEnd_keeps (ledgerGo_keeps (settleAlts_keeps (trainDie_keeps h7)))

theorem requestDie_keeps {r s} {a0} (h : Keeps r s) : Keeps r (requestDie a0 s) := by
  unfold requestDie
  split
  · refine keeps_ite ?_ ?_
    · exact h
    · refine keeps_frame ?_
      exact h
  · exact beginDieReset_keeps h

theorem dieWrite_keeps {r s} {a0 a1} (h : Keeps r s) : Keeps r (dieWrite a0 a1 s) := by
  unfold dieWrite
  refine keeps_ite ?_ ?_
  · exact regAccess_keeps h
  · refine keeps_ite ?_ ?_
    · exact regAccess_keeps h
    · exact requestDie_keeps h

theorem effDie_keeps {r s} {a0} (h : Keeps r s) : Keeps r (effDie a0 s) := by
  unfold effDie
  refine hostAccess_keeps ?_ ?_
  · exact h
  · intro y2 h1
    refine dieWrite_keeps ?_
    refine keeps_frame ?_
    exact h1

theorem clusterRec_keeps {r s} {a0} (h : Keeps r s) : Keeps r (clusterRec a0 s) := by
  unfold clusterRec
  exact record_keeps h

theorem cluResetWrite_keeps {r s} {a0 a1 a2} (h : Keeps r s) : Keeps r (cluResetWrite a0 a1 a2 s) := by
  unfold cluResetWrite
  refine keeps_ite ?_ ?_
  · exact regAccess_keeps h
  · exact fabEnd_keeps (ledgerGo_keeps (stopSettled_keeps (cutCluster_keeps (clusterRec_keeps h))))

theorem effWarm_keeps {r s} (h : Keeps r s) : Keeps r (effWarm s) := by
  unfold effWarm
  refine hostAccess_keeps ?_ ?_
  · exact h
  · intro y2 h1
    exact requestWarm_keeps h1

theorem effBmcWarmResetRequest_keeps {r s} (h : Keeps r s) : Keeps r (effBmcWarmResetRequest s) := by
  unfold effBmcWarmResetRequest
  exact requestWarm_keeps h

theorem requestCold_keeps {r s} {a0 a1} (h : Keeps r s) : Keeps r (requestCold a0 a1 s) := by
  unfold requestCold
  refine keeps_ite ?_ ?_
  · exact h
  · refine keeps_ite ?_ ?_
    · refine keeps_ite ?_ ?_
      · exact coldStart_keeps (record_keeps h)
      · exact h
    · refine keeps_ite ?_ ?_
      · exact h
      · exact coldStart_keeps h

theorem effCold_keeps {r s} (h : Keeps r s) : Keeps r (effCold s) := by
  unfold effCold
  refine hostAccess_keeps ?_ ?_
  · exact h
  · intro y2 h1
    refine keeps_ite ?_ ?_
    · exact requestCold_keeps h1
    · exact regAccess_keeps h1

theorem effColdStart_keeps {r s} {a0} (h : Keeps r s) : Keeps r (effColdStart a0 s) := by
  unfold effColdStart
  refine keeps_ite ?_ ?_
  · exact requestCold_keeps h
  · exact h

theorem trainClass_keeps {r s} {a0} (h : Keeps r s) : Keeps r (trainClass a0 s) := by
  unfold trainClass
  extract_lets -merge -underBinder +onlyGivenNames x1
  refine keeps_foldl (fun s2 x3 h4 => ?_) ?_
  · exact setPort_keeps h4
  · exact h

theorem nextClass_keeps {r s} (h : Keeps r s) : Keeps r (nextClass s) := by
  unfold nextClass
  refine keeps_ite ?_ ?_
  · refine keeps_foldl (fun s1 x2 h3 => ?_) ?_
    · refine keeps_ite ?_ ?_
      · exact trainClass_keeps h3
      · exact h3
    · exact h
  · exact h

theorem effPortTrained_keeps {r s} {a0 a1 a2 a3} (h : Keeps r s) : Keeps r (effPortTrained a0 a1 a2 a3 s) := by
  unfold effPortTrained
  extract_lets -merge -underBinder +onlyGivenNames x1
  refine keeps_ite ?_ ?_
  · exact nextClass_keeps (checkRoutes_keeps (sidesTrained_keeps h))
  · exact h

theorem effFlitCrcError_keeps {r s} {a0 a1 a2 a3} (h : Keeps r s) : Keeps r (effFlitCrcError a0 a1 a2 a3 s) := by
  unfold effFlitCrcError
  refine keeps_ite ?_ ?_
  · exact checkRoutes_keeps (flitError_keeps h)
  · exact h

end Sys2Proof.Machine
end

