-- ==== Sys2Proof/Laws/KeepsPower.lean ====
section
/-! SUPPORT. KeepsPower: what the functions of Machine/Power.lean keep. -/

namespace Sys2Proof.Machine

theorem setPwr_keeps {r s} {a1} (h : Keeps r s) : Keeps r (setPwr s a1) := by
  unfold setPwr
  refine keeps_frame ?_
  exact h

theorem powerRec_keeps {r s} {a0 a1 a2 a3 a4 a5} (h : Keeps r s) : Keeps r (powerRec a0 a1 a2 a3 a4 a5 s) := by
  unfold powerRec
  exact record_keeps h

theorem clampRec_keeps {r s} {a0 a1} (h : Keeps r s) : Keeps r (clampRec a0 a1 s) := by
  unfold clampRec
  exact record_keeps h

theorem clampBegins_keeps {r s} {a0 a1 a2 a3 a4} (h : Keeps r s) : Keeps r (clampBegins a0 a1 a2 a3 a4 s) := by
  unfold clampBegins
  extract_lets -merge -underBinder +onlyGivenNames x1
  extract_lets -merge -underBinder +onlyGivenNames x2
  extract_lets -merge -underBinder +onlyGivenNames x3
  extract_lets -merge -underBinder +onlyGivenNames x4
  extract_lets -merge -underBinder +onlyGivenNames x5
  have h6 : Keeps r x5 := setPwr_keeps h
  clear_value x5
  refine keeps_ite ?_ ?_
  · exact h6
  · exact clampRec_keeps h6

theorem clampEnds_keeps {r s} {a0 a1} (h : Keeps r s) : Keeps r (clampEnds a0 a1 s) := by
  unfold clampEnds
  extract_lets -merge -underBinder +onlyGivenNames x1 x2
  have h3 : Keeps r x2 := setPwr_keeps h
  clear_value x2
  refine keeps_ite ?_ ?_
  · exact clampRec_keeps h3
  · exact h3

theorem settleLinks_keeps {r s} (h : Keeps r s) : Keeps r (settleLinks s) := by
  unfold settleLinks
  refine keeps_foldl (fun s1 x2 h3 => ?_) ?_
  · extract_lets -merge -underBinder +onlyGivenNames x4
    extract_lets -merge -underBinder +onlyGivenNames x5
    split
    · refine keeps_ite ?_ ?_
      · exact clampEnds_keeps h3
      · exact h3
    · refine keeps_ite ?_ ?_
      · exact h3
      · exact clampBegins_keeps h3
  · exact h

theorem settleClock_keeps {r s} {a0} (h : Keeps r s) : Keeps r (settleClock a0 s) := by
  unfold settleClock
  extract_lets -merge -underBinder +onlyGivenNames x1
  extract_lets -merge -underBinder +onlyGivenNames x2
  extract_lets -merge -underBinder +onlyGivenNames x3
  split
  · refine keeps_ite ?_ ?_
    · exact clampEnds_keeps h
    · exact h
  · refine keeps_ite ?_ ?_
    · exact clampBegins_keeps h
    · exact h

theorem evalClock_keeps {r s} {a0} (h : Keeps r s) : Keeps r (evalClock a0 s) := by
  unfold evalClock
  extract_lets -merge -underBinder +onlyGivenNames x1
  extract_lets -merge -underBinder +onlyGivenNames x2
  extract_lets -merge -underBinder +onlyGivenNames x3
  extract_lets -merge -underBinder +onlyGivenNames x4
  extract_lets -merge -underBinder +onlyGivenNames x5
  have h6 : Inv r → CluOk x5 := fun hc => ⟨((h.inv hc).clu _).imem, ((h.inv hc).clu _).plates, ((h.inv hc).clu _).pc, ((h.inv hc).clu _).loops⟩
  refine settleClock_keeps ?_
  refine setCl_keeps ?_ ?_
  · exact h
  · exact fun hc => h6 hc

theorem evalClocks_keeps {r s} (h : Keeps r s) : Keeps r (evalClocks s) := by
  unfold evalClocks
  refine keeps_foldl (fun s1 x2 h3 => ?_) ?_
  · exact evalClock_keeps h3
  · exact h

theorem settleProfile_keeps {r s} (h : Keeps r s) : Keeps r (settleProfile s) := by
  unfold settleProfile
  extract_lets -merge -underBinder +onlyGivenNames x1
  refine keeps_ite ?_ ?_
  · extract_lets -merge -underBinder +onlyGivenNames x2
    have h3 : Keeps r x2 := powerRec_keeps (setPwr_keeps h)
    clear_value x2
    refine keeps_foldl (fun s4 x5 h6 => ?_) ?_
    · split
      · exact completeCmd_keeps h6
      · exact h6
    · exact h3
  · exact h

theorem effClockEvaluation_keeps {r s} {a0 a1 a2} (h : Keeps r s) : Keeps r (effClockEvaluation a0 a1 a2 s) := by
  unfold effClockEvaluation
  extract_lets -merge -underBinder +onlyGivenNames x1
  refine keeps_ite ?_ ?_
  · exact h
  · extract_lets -merge -underBinder +onlyGivenNames x2
    have h3 : Inv r → CluOk x2 := fun hc => ⟨((h.inv hc).clu _).imem, ((h.inv hc).clu _).plates, ((h.inv hc).clu _).pc, ((h.inv hc).clu _).loops⟩
    refine settleProfile_keeps ?_
    refine evalClock_keeps ?_
    refine setCl_keeps ?_ ?_
    · exact h
    · exact fun hc => h3 hc

theorem effCluCapWrite_keeps {r s} {a0 a1} (h : Keeps r s) : Keeps r (effCluCapWrite a0 a1 s) := by
  unfold effCluCapWrite
  refine hostWriteReady_keeps ?_ ?_
  · exact h
  · intro y2 h1
    refine keeps_ite ?_ ?_
    · refine settleProfile_keeps ?_
      refine evalClock_keeps ?_
      refine setCl_keeps ?_ ?_
      · exact h1
      · intro hc
        extract_lets -merge -underBinder +onlyGivenNames x3
        exact ⟨((h1.inv hc).clu _).imem, ((h1.inv hc).clu _).plates, ((h1.inv hc).clu _).pc, ((h1.inv hc).clu _).loops⟩
    · exact h1

theorem effClusterGate_keeps {r s} {a0} (h : Keeps r s) : Keeps r (effClusterGate a0 s) := by
  unfold effClusterGate
  extract_lets -merge -underBinder +onlyGivenNames x1
  refine keeps_ite ?_ ?_
  · refine setCl_keeps ?_ ?_
    · exact h
    · exact fun hc => ⟨((h.inv hc).clu _).imem, ((h.inv hc).clu _).plates, ((h.inv hc).clu _).pc, ((h.inv hc).clu _).loops⟩
  · exact h

theorem ungate_keeps {r s} {a0} (h : Keeps r s) : Keeps r (ungate a0 s) := by
  unfold ungate
  refine keeps_ite ?_ ?_
  · refine setCl_keeps ?_ ?_
    · exact h
    · intro hc
      extract_lets -merge -underBinder +onlyGivenNames x1
      exact ⟨((h.inv hc).clu _).imem, ((h.inv hc).clu _).plates, ((h.inv hc).clu _).pc, ((h.inv hc).clu _).loops⟩
  · exact h

theorem setProfile_keeps {r s} {a0 a1 a2} (h : Keeps r s) : Keeps r (setProfile a0 a1 a2 s) := by
  unfold setProfile
  extract_lets -merge -underBinder +onlyGivenNames x1
  extract_lets -merge -underBinder +onlyGivenNames x2
  have h3 : Keeps r x2 := by
    refine keeps_foldl (fun s4 x5 h6 => ?_) ?_
    · split
      · exact completeCmd_keeps h6
      · exact h6
    · exact h
  clear_value x2
  extract_lets -merge -underBinder +onlyGivenNames x7
  extract_lets -merge -underBinder +onlyGivenNames x8
  extract_lets -merge -underBinder +onlyGivenNames x9
  have h10 : Keeps r x9 := startCmd_keeps h3
  clear_value x9
  extract_lets -merge -underBinder +onlyGivenNames x11
  have h12 : Keeps r x11 := setPwr_keeps h10
  clear_value x11
  exact settleProfile_keeps (evalClocks_keeps h12)

theorem effSetProfile_keeps {r s} {a0 a1} (h : Keeps r s) : Keeps r (effSetProfile a0 a1 s) := by
  unfold effSetProfile
  refine dispatch_keeps ?_ ?_
  · exact h
  · intro y2 y3 y4 h1
    exact setProfile_keeps h1

theorem effPowerLoop_keeps {r s} {a0 a1} (h : Keeps r s) : Keeps r (effPowerLoop a0 a1 s) := by
  unfold effPowerLoop
  extract_lets -merge -underBinder +onlyGivenNames x1
  extract_lets -merge -underBinder +onlyGivenNames x2
  extract_lets -merge -underBinder +onlyGivenNames x3
  have h4 : Keeps r x3 := by
    refine keeps_foldl (fun s5 x6 h7 => ?_) ?_
    · refine setCl_keeps ?_ ?_
      · exact h7
      · intro hc
        extract_lets -merge -underBinder +onlyGivenNames x8
        exact ⟨((h7.inv hc).clu _).imem, ((h7.inv hc).clu _).plates, ((h7.inv hc).clu _).pc, ((h7.inv hc).clu _).loops⟩
    · exact h
  clear_value x3
  extract_lets -merge -underBinder +onlyGivenNames x9
  extract_lets -merge -underBinder +onlyGivenNames x10
  extract_lets -merge -underBinder +onlyGivenNames x11
  extract_lets -merge -underBinder +onlyGivenNames x12
  have h13 : Keeps r x12 := setPwr_keeps h4
  clear_value x12
  exact settleProfile_keeps (evalClocks_keeps h13)

theorem effDroop_keeps {r s} {a0 a1} (h : Keeps r s) : Keeps r (effDroop a0 a1 s) := by
  unfold effDroop
  extract_lets -merge -underBinder +onlyGivenNames x1
  refine keeps_ite ?_ ?_
  · exact h
  · extract_lets -merge -underBinder +onlyGivenNames x2
    have h3 : Keeps r x2 := by
      refine setCl_keeps ?_ ?_
      · exact h
      · exact fun hc => ⟨((h.inv hc).clu _).imem, ((h.inv hc).clu _).plates, ((h.inv hc).clu _).pc, ((h.inv hc).clu _).loops⟩
    clear_value x2
    refine keeps_ite ?_ ?_
    · refine clampBegins_keeps ?_
      refine setCl_keeps ?_ ?_
      · exact h3
      · intro hc
        extract_lets -merge -underBinder +onlyGivenNames x4
        exact ⟨((h3.inv hc).clu _).imem, ((h3.inv hc).clu _).plates, ((h3.inv hc).clu _).pc, ((h3.inv hc).clu _).loops⟩
    · exact h3

theorem effDroopEnd_keeps {r s} {a0} (h : Keeps r s) : Keeps r (effDroopEnd a0 s) := by
  unfold effDroopEnd
  refine keeps_ite ?_ ?_
  · extract_lets -merge -underBinder +onlyGivenNames x1 x2
    have h3 : Keeps r x2 := by
      refine setCl_keeps ?_ ?_
      · exact h
      · exact fun hc => ⟨((h.inv hc).clu _).imem, ((h.inv hc).clu _).plates, ((h.inv hc).clu _).pc, ((h.inv hc).clu _).loops⟩
    clear_value x2
    split
    · refine clampEnds_keeps ?_
      refine setCl_keeps ?_ ?_
      · exact h3
      · intro hc
        extract_lets -merge -underBinder +onlyGivenNames x4
        exact ⟨((h3.inv hc).clu _).imem, ((h3.inv hc).clu _).plates, ((h3.inv hc).clu _).pc, ((h3.inv hc).clu _).loops⟩
    · exact h3
  · exact h

theorem blackout_keeps {r s a0 a1} (h : Keeps r s) : Keeps r (blackout a0 a1 s) := by
  unfold blackout
  extract_lets s1 s2
  have h1 : Keeps r s1 := coldLoss_keeps h
  clear_value s1
  have h2 : Keeps r s2 := keeps_ite (keeps_hbm h1 (fun hc => (h.inv hc).hbm)) h1
  clear_value s2
  exact keeps_recs h2 (fun hc => (h2.inv hc).log)

theorem trip_keeps {r s} {a0 a1 a2} (h : Keeps r s) : Keeps r (trip a0 a1 a2 s) := by
  unfold trip
  refine keeps_ite ?_ ?_
  · exact h
  · extract_lets -merge -underBinder +onlyGivenNames x1
    have h2 : Keeps r x1 := powerRec_keeps h
    clear_value x1
    extract_lets -merge -underBinder +onlyGivenNames x3 x4
    have h5 : Keeps r x4 := by
      refine keeps_recs ?_ ?_
      · exact h2
      · exact fun hc => by exact (h2.inv hc).log
    clear_value x4
    extract_lets -merge -underBinder +onlyGivenNames x6
    have h7 : Keeps r x6 := blackout_keeps h5
    clear_value x6
    refine keeps_frame ?_
    exact h7

theorem effThermalTrip_keeps {r s} {a0 a1} (h : Keeps r s) : Keeps r (effThermalTrip a0 a1 s) := by
  unfold effThermalTrip
  refine keeps_ite ?_ ?_
  · exact trip_keeps h
  · exact h

theorem effStackTemp_keeps {r s} {a0 a1} (h : Keeps r s) : Keeps r (effStackTemp a0 a1 s) := by
  unfold effStackTemp
  extract_lets -merge -underBinder +onlyGivenNames x1
  have h2 : Keeps r x1 := effStackTemperature_keeps h
  clear_value x1
  refine keeps_ite ?_ ?_
  · exact trip_keeps h2
  · exact h2

theorem limitRec_keeps {r s} {a0 a1 a2} (h : Keeps r s) : Keeps r (limitRec a0 a1 a2 s) := by
  unfold limitRec
  exact powerRec_keeps (setPwr_keeps h)

theorem thermalStep_keeps {r s} {a0 a1} (h : Keeps r s) : Keeps r (thermalStep a0 a1 s) := by
  unfold thermalStep
  extract_lets -merge -underBinder +onlyGivenNames x1
  extract_lets -merge -underBinder +onlyGivenNames x2
  extract_lets -merge -underBinder +onlyGivenNames x3
  extract_lets -merge -underBinder +onlyGivenNames x4
  extract_lets -merge -underBinder +onlyGivenNames x5
  extract_lets -merge -underBinder +onlyGivenNames x6
  extract_lets -merge -underBinder +onlyGivenNames x7
  extract_lets -merge -underBinder +onlyGivenNames x8
  have h9 : Keeps r x8 := by
    refine setCl_keeps ?_ ?_
    · exact h
    · exact fun hc => ⟨((h.inv hc).clu _).imem, ((h.inv hc).clu _).plates, ((h.inv hc).clu _).pc, ((h.inv hc).clu _).loops⟩
  clear_value x8
  extract_lets -merge -underBinder +onlyGivenNames x10
  have h11 : Keeps r x10 := by
    refine keeps_ite ?_ ?_
    · exact limitRec_keeps h9
    · exact h9
  clear_value x10
  extract_lets -merge -underBinder +onlyGivenNames x12
  have h13 : Keeps r x12 := by
    refine keeps_ite ?_ ?_
    · exact powerRec_keeps h11
    · refine keeps_ite ?_ ?_
      · exact powerRec_keeps h11
      · exact h11
  clear_value x12
  refine keeps_ite ?_ ?_
  · exact h13
  · exact settleProfile_keeps (evalClock_keeps h13)

theorem effSensorSample_keeps {r s} {a0 a1} (h : Keeps r s) : Keeps r (effSensorSample a0 a1 s) := by
  unfold effSensorSample
  refine keeps_ite ?_ ?_
  · exact h
  · extract_lets -merge -underBinder +onlyGivenNames x1
    extract_lets -merge -underBinder +onlyGivenNames x2
    extract_lets -merge -underBinder +onlyGivenNames x3 x4 x5 x6
    have h7 : Keeps r x6 := by
      refine keeps_ite ?_ ?_
      · refine setCl_keeps ?_ ?_
        · exact h
        · exact fun hc => ⟨((h.inv hc).clu _).imem, ((h.inv hc).clu _).plates, ((h.inv hc).clu _).pc, ((h.inv hc).clu _).loops⟩
      · refine keeps_ite ?_ ?_
        · exact setPwr_keeps h
        · refine keeps_ite ?_ ?_
          · exact setPwr_keeps h
          · exact h
    clear_value x6
    extract_lets -merge -underBinder +onlyGivenNames x8
    extract_lets -merge -underBinder +onlyGivenNames x9 x10
    have h11 : Keeps r x10 := setPwr_keeps h7
    clear_value x10
    refine keeps_ite ?_ ?_
    · extract_lets -merge -underBinder +onlyGivenNames x12
      refine keeps_ite ?_ ?_
      · exact trip_keeps h11
      · refine keeps_ite ?_ ?_
        · exact thermalStep_keeps h11
        · refine keeps_ite ?_ ?_
          · refine keeps_ite ?_ ?_
            · exact h11
            · exact limitRec_keeps (setPwr_keeps h11)
          · exact setPwr_keeps h11
    · exact h11

theorem sagRec_keeps {r s} {a0} (h : Keeps r s) : Keeps r (sagRec a0 s) := by
  unfold sagRec
  exact powerRec_keeps h

theorem switchB_keeps {r s} {a0} (h : Keeps r s) : Keeps r (switchB a0 s) := by
  unfold switchB
  refine keeps_foldl (fun s1 x2 h3 => ?_) ?_
  · refine setCore_keeps ?_ ?_
    · exact h3
    · intro hc
      refine respread_ok ?_
      extract_lets -merge -underBinder +onlyGivenNames x4
      exact (h3.inv hc).spad _
  · exact h

theorem stopFabric_keeps {r s} (h : Keeps r s) : Keeps r (stopFabric s) := by
  unfold stopFabric
  extract_lets -merge -underBinder +onlyGivenNames x1
  refine keeps_foldl (fun s2 x3 h4 => ?_) ?_
  · exact raiseAbort_keeps h4
  · exact h

theorem refreshStacks_keeps {r s} (h : Keeps r s) : Keeps r (refreshStacks s) := by
  unfold refreshStacks
  refine keeps_frame ?_
  exact h

theorem wakeStacks_keeps {r s} (h : Keeps r s) : Keeps r (wakeStacks s) := by
  unfold wakeStacks
  refine keeps_frame ?_
  exact h

theorem shutdown_keeps {r s} (h : Keeps r s) : Keeps r (shutdown s) := by
  unfold shutdown
  exact blackout_keeps (refreshStacks_keeps (stopFabric_keeps h))

theorem sagAction_keeps {r s} {a0} (h : Keeps r s) : Keeps r (sagAction a0 s) := by
  unfold sagAction
  refine keeps_ite ?_ ?_
  · exact evalClocks_keeps h
  · refine keeps_ite ?_ ?_
    · exact switchB_keeps h
    · refine keeps_ite ?_ ?_
      · exact settleLinks_keeps (fabEnd_keeps (leaseGo_keeps (settlePlan_keeps (parkPorts_keeps h))))
      · refine keeps_ite ?_ ?_
        · exact fabEnd_keeps (refreshStacks_keeps (stopFabric_keeps h))
        · refine keeps_ite ?_ ?_
          · exact shutdown_keeps h
          · exact h

theorem enterSag_keeps {r s} {a0} (h : Keeps r s) : Keeps r (enterSag a0 s) := by
  unfold enterSag
  extract_lets -merge -underBinder +onlyGivenNames x1 x2
  have h3 : Keeps r x2 := sagRec_keeps (setPwr_keeps h)
  clear_value x2
  exact sagAction_keeps h3

theorem effRailSample_keeps {r s} {a0} (h : Keeps r s) : Keeps r (effRailSample a0 s) := by
  unfold effRailSample
  refine keeps_ite ?_ ?_
  · exact h
  · extract_lets -merge -underBinder +onlyGivenNames x1
    extract_lets -merge -underBinder +onlyGivenNames x2
    have h3 : Keeps r x2 := by
      refine keeps_foldl (fun s4 x5 h6 => ?_) ?_
      · exact setDie_keeps h6
      · exact h
    clear_value x2
    extract_lets -merge -underBinder +onlyGivenNames x7
    extract_lets -merge -underBinder +onlyGivenNames x8
    have h9 : Keeps r x8 := setPwr_keeps h3
    clear_value x8
    refine keeps_ite ?_ ?_
    · refine settleProfile_keeps ?_
      refine keeps_foldl (fun s10 x11 h12 => ?_) ?_
      · refine keeps_ite ?_ ?_
        · exact enterSag_keeps h12
        · exact h12
      · exact h9
    · exact h9

theorem effSagStageExit_keeps {r s} (h : Keeps r s) : Keeps r (effSagStageExit s) := by
  unfold effSagStageExit
  extract_lets -merge -underBinder +onlyGivenNames x1
  refine keeps_ite ?_ ?_
  · exact h
  · extract_lets -merge -underBinder +onlyGivenNames x2 x3
    have h4 : Keeps r x3 := sagRec_keeps (setPwr_keeps h)
    clear_value x3
    refine keeps_ite ?_ ?_
    · exact goOnAll_keeps (grantHeld_keeps (wakeStacks_keeps h4))
    · refine keeps_ite ?_ ?_
      · exact settleLinks_keeps (fabEnd_keeps (leaseGo_keeps (settlePlan_keeps (unparkPorts_keeps h4))))
      · refine keeps_ite ?_ ?_
        · exact switchB_keeps h4
        · refine keeps_ite ?_ ?_
          · exact settleProfile_keeps (evalClocks_keeps h4)
          · exact h4

theorem effVinOvervoltage_keeps {r s} {a0} (h : Keeps r s) : Keeps r (effVinOvervoltage a0 s) := by
  unfold effVinOvervoltage
  refine keeps_ite ?_ ?_
  · exact shutdown_keeps (powerRec_keeps h)
  · exact h

theorem railOffline_keeps {r s} {a0} (h : Keeps r s) : Keeps r (railOffline a0 s) := by
  unfold railOffline
  refine takeOffline_keeps ?_
  refine setCl_keeps ?_ ?_
  · exact h
  · intro hc
    extract_lets -merge -underBinder +onlyGivenNames x1
    exact ⟨((h.inv hc).clu _).imem, ((h.inv hc).clu _).plates, ((h.inv hc).clu _).pc, ((h.inv hc).clu _).loops⟩

theorem effRegulatorOvervoltage_keeps {r s} {a0 a1} (h : Keeps r s) : Keeps r (effRegulatorOvervoltage a0 a1 s) := by
  unfold effRegulatorOvervoltage
  extract_lets -merge -underBinder +onlyGivenNames x1
  refine keeps_ite ?_ ?_
  · exact h
  · extract_lets -merge -underBinder +onlyGivenNames x2
    have h3 : Keeps r x2 := powerRec_keeps h
    clear_value x2
    extract_lets -merge -underBinder +onlyGivenNames x4 x5 x6
    have h7 : Keeps r x6 := by
      refine keeps_flash ?_ ?_ ?_
      · exact h3
      · exact fun hc => by exact (h3.inv hc).flash
      · exact h3.lists.rails_add
    clear_value x6
    refine keeps_ite ?_ ?_
    · exact railOffline_keeps h7
    · extract_lets -merge -underBinder +onlyGivenNames x8
      extract_lets -merge -underBinder +onlyGivenNames x9 x10
      have h11 : Keeps r x10 := quitDie_keeps (setDie_keeps h7)
      clear_value x10
      extract_lets -merge -underBinder +onlyGivenNames x12
      have h13 : Keeps r x12 := by
        refine keeps_foldl (fun s14 x15 h16 => ?_) ?_
        · exact setEnds_keeps h16
        · exact h11
      clear_value x12
      exact checkRoutes_keeps (settleAlts_keeps h13)

theorem effRegulatorFault_keeps {r s} {a0 a1 a2} (h : Keeps r s) : Keeps r (effRegulatorFault a0 a1 a2 s) := by
  unfold effRegulatorFault
  refine keeps_ite ?_ ?_
  · exact h
  · extract_lets -merge -underBinder +onlyGivenNames x1
    have h2 : Keeps r x1 := powerRec_keeps h
    clear_value x1
    refine keeps_ite ?_ ?_
    · exact railOffline_keeps h2
    · exact h2

theorem effClockLockLoss_keeps {r s} {a0 a1} (h : Keeps r s) : Keeps r (effClockLockLoss a0 a1 s) := by
  unfold effClockLockLoss
  refine keeps_ite ?_ ?_
  · exact h
  · extract_lets -merge -underBinder +onlyGivenNames x1
    have h2 : Keeps r x1 := powerRec_keeps h
    clear_value x1
    refine keeps_ite ?_ ?_
    · exact requestDie_keeps h2
    · refine keeps_ite ?_ ?_
      · exact requestWarm_keeps h2
      · refine keeps_ite ?_ ?_
        · refine flrLike_keeps ?_
          refine keeps_frame ?_
          exact h2
        · refine keeps_frame ?_
          exact h2

theorem effClearSag_keeps {r s} (h : Keeps r s) : Keeps r (effClearSag s) := by
  unfold effClearSag
  refine hostAccess_keeps ?_ ?_
  · exact h
  · intro y2 h1
    exact setPwr_keeps h1

theorem effClearClamp_keeps {r s} (h : Keeps r s) : Keeps r (effClearClamp s) := by
  unfold effClearClamp
  refine hostAccess_keeps ?_ ?_
  · exact h
  · intro y2 h1
    exact setPwr_keeps h1

end Sys2Proof.Machine
end

