-- ==== Sys2Proof/Laws/KeepsStart.lean ====
section
/-! SUPPORT. KeepsStart: what the functions of Machine/Start.lean keep. -/

namespace Sys2Proof.Machine

theorem setBoot_keeps {r s} {a1} (h : Keeps r s) : Keeps r (setBoot s a1) := by
  unfold setBoot
  refine keeps_frame ?_
  exact h

theorem setStage_keeps {r s} {a0} (h : Keeps r s) : Keeps r (setStage a0 s) := by
  unfold setStage
  exact setBoot_keeps h

theorem setEncl_keeps {r s} {a1} (h : Keeps r s) (e : FusesKept r.encl a1) : Keeps r (setEncl s a1) := keeps_encl h e

theorem resumeHost_keeps {r s} (h : Keeps r s) : Keeps r (resumeHost s) := by
  unfold resumeHost
  extract_lets -merge -underBinder +onlyGivenNames x1
  have h2 : Keeps r x1 := hostPump_keeps h
  clear_value x1
  refine keeps_foldl (fun s3 x4 h5 => ?_) ?_
  · refine keeps_ite ?_ ?_
    · exact emit_keeps (setMsix_keeps h5)
    · exact h5
  · exact h2

theorem aoLoss_keeps {r s} (h : Keeps r s) : Keeps r (aoLoss s) :=
  keeps_mapV (fs := fun x => x) (fc := fun x => x) (fk := fun x => x) (fun _ h => h) (fun _ h => h) (fun _ h => h)
    h rfl rfl (.inr (.inr rfl)) (.inr (.inr rfl)) (.inr (.inr rfl)) (.inr rfl) rfl (.inr rfl)
    ⟨h.fuses.blown, h.fuses.svn, h.fuses.revoked⟩

theorem effAoPowerLoss_keeps {r s} (h : Keeps r s) : Keeps r (effAoPowerLoss s) := by
  unfold effAoPowerLoss
  exact aoLoss_keeps h

theorem effAoPowerGood_keeps {r s} (h : Keeps r s) : Keeps r (effAoPowerGood s) := by
  unfold effAoPowerGood
  refine keeps_ite ?_ ?_
  · exact h
  · extract_lets -merge -underBinder +onlyGivenNames x1
    have h2 : Keeps r x1 := aoLoss_keeps h
    clear_value x1
    extract_lets -merge -underBinder +onlyGivenNames x3 x4
    have h5 : Keeps r x4 := by
      refine keeps_frame ?_
      exact h2
    clear_value x4
    extract_lets -merge -underBinder +onlyGivenNames x6
    have h7 : Keeps r x6 := by
      refine keeps_ite ?_ ?_
      · exact record_keeps h5
      · exact h5
    clear_value x6
    exact coldStart_keeps h7

theorem effAoClocks_keeps {r s} {a0} (h : Keeps r s) : Keeps r (effAoClocks a0 s) := by
  unfold effAoClocks
  refine keeps_ite ?_ ?_
  · exact h
  · refine keeps_ite ?_ ?_
    · exact startFails_keeps h
    · refine setStage_keeps ?_
      refine keeps_frame ?_
      exact h

theorem effEnclaveRom_keeps {r s} {a0} (h : Keeps r s) : Keeps r (effEnclaveRom a0 s) := by
  unfold effEnclaveRom
  refine keeps_ite ?_ ?_
  · exact h
  · refine keeps_ite ?_ ?_
    · exact startFails_keeps h
    · refine keeps_ite ?_ ?_
      · exact startFails_keeps (enclaveError_keeps h)
      · exact setStage_keeps (newChallenge_keeps h)

theorem effFetch_keeps {r s} {a0} (h : Keeps r s) : Keeps r (effFetch a0 s) := by
  unfold effFetch
  refine keeps_ite ?_ ?_
  · exact h
  · split
    · refine keeps_ite ?_ ?_
      · refine setStage_keeps ?_
        refine setEncl_keeps ?_ ?_
        · exact h
        · extract_lets -merge -underBinder +onlyGivenNames x1
          exact ⟨(h.fuses).blown, (h.fuses).svn, (h.fuses).revoked⟩
      · exact startFails_keeps h
    · exact startFails_keeps h

theorem fwVerify_keeps {r s} {a0} (h : Keeps r s) : Keeps r (fwVerify a0 s).2 := by
  unfold fwVerify
  extract_lets -merge -underBinder +onlyGivenNames x1
  extract_lets -merge -underBinder +onlyGivenNames x2
  exact record_keeps h

theorem effVerify_keeps {r s} (h : Keeps r s) : Keeps r (effVerify s) := by
  unfold effVerify
  refine keeps_ite ?_ ?_
  · exact h
  · extract_lets -merge -underBinder +onlyGivenNames x1
    extract_lets -merge -underBinder +onlyGivenNames x2
    have h3 : Keeps r x2.2 := fwVerify_keeps h
    clear_value x2
    extract_lets -merge -underBinder +onlyGivenNames x4
    have h5 : Keeps r x4 := h3
    clear_value x4
    refine keeps_ite ?_ ?_
    · exact startFails_keeps h5
    · extract_lets -merge -underBinder +onlyGivenNames x6
      extract_lets -merge -underBinder +onlyGivenNames x7
      extract_lets -merge -underBinder +onlyGivenNames x8
      extract_lets -merge -underBinder +onlyGivenNames x9
      have h10 : Keeps r x9 := by
        refine setEncl_keeps ?_ ?_
        · exact h5
        · exact ⟨(h5.fuses).blown, (h5.fuses).svn, (h5.fuses).revoked⟩
      clear_value x9
      extract_lets -merge -underBinder +onlyGivenNames x11 x12 x13
      have h14 : Keeps r x13 := by
        refine keeps_frame ?_
        exact h10
      clear_value x13
      exact setStage_keeps h14

theorem effKat_keeps {r s} {a0} (h : Keeps r s) : Keeps r (effKat a0 s) := by
  unfold effKat
  refine keeps_ite ?_ ?_
  · exact h
  · refine keeps_ite ?_ ?_
    · exact startFails_keeps (enclaveError_keeps h)
    · refine setStage_keeps ?_
      refine setEncl_keeps ?_ ?_
      · exact h
      · extract_lets -merge -underBinder +onlyGivenNames x1
        exact ⟨(h.fuses).blown, (h.fuses).svn, (h.fuses).revoked⟩

theorem msFromReady_keeps {r s} (h : Keeps r s) : Keeps r (msFromReady s).2 := by
  unfold msFromReady
  split
  · exact h
  · split
    · rename_i s1 e2
      have h3 : Keeps r s1 := by
        refine keeps_snd e2 ?_
        exact drawWord_keeps h
      exact h3

theorem aliasRec_keeps {r s} {a0} (h : Keeps r s) : Keeps r (aliasRec a0 s) := by
  unfold aliasRec
  extract_lets -merge -underBinder +onlyGivenNames x1
  have h2 : Keeps r x1.2 := msFromReady_keeps h
  clear_value x1
  exact record_keeps h2

theorem deriveAlias_keeps {r s} (h : Keeps r s) : Keeps r (deriveAlias s) := by
  unfold deriveAlias
  refine setEncl_keeps ?_ ?_
  · exact h
  · extract_lets -merge -underBinder +onlyGivenNames x1
    exact ⟨(h.fuses).blown, (h.fuses).svn, (h.fuses).revoked⟩

theorem findAlias_keeps {r s} (h : Keeps r s) : Keeps r (findAlias s) := by
  unfold findAlias
  extract_lets -merge -underBinder +onlyGivenNames x1
  have h2 : Keeps r x1 := deriveAlias_keeps h
  clear_value x1
  extract_lets -merge -underBinder +onlyGivenNames x3
  refine keeps_ite ?_ ?_
  · refine aliasRec_keeps ?_
    refine setEncl_keeps ?_ ?_
    · exact h2
    · extract_lets -merge -underBinder +onlyGivenNames x4
      exact ⟨(h2.fuses).blown, (h2.fuses).svn, (h2.fuses).revoked⟩
  · refine setEncl_keeps ?_ ?_
    · exact h2
    · extract_lets -merge -underBinder +onlyGivenNames x5
      exact ⟨(h2.fuses).blown, (h2.fuses).svn, (h2.fuses).revoked⟩

theorem seekAlias_keeps {r s} (h : Keeps r s) : Keeps r (seekAlias s) := by
  unfold seekAlias
  extract_lets -merge -underBinder +onlyGivenNames x1
  have h2 : Keeps r x1 := findAlias_keeps h
  clear_value x1
  refine keeps_ite ?_ ?_
  · refine setEncl_keeps ?_ ?_
    · exact h2
    · extract_lets -merge -underBinder +onlyGivenNames x3
      exact ⟨(h2.fuses).blown, (h2.fuses).svn, (h2.fuses).revoked⟩
  · exact h2

theorem sampleStraps_keeps {r s} {a0 a1 a2} (h : Keeps r s) : Keeps r (sampleStraps a0 a1 a2 s) := by
  unfold sampleStraps
  extract_lets -merge -underBinder +onlyGivenNames x1 x2
  have h3 : Keeps r x2 := setBoot_keeps h
  clear_value x2
  exact setComp_keeps h3

theorem discoverEncl_keeps {r s} {a0} (h : Keeps r s) : Keeps r (discoverEncl a0 s) := by
  unfold discoverEncl
  extract_lets -merge -underBinder +onlyGivenNames x1
  extract_lets -merge -underBinder +onlyGivenNames x2
  extract_lets -merge -underBinder +onlyGivenNames x3 x4
  have h5 : Keeps r x4 := by
    refine keeps_frame ?_
    exact h
  clear_value x4
  extract_lets -merge -underBinder +onlyGivenNames x6 x7
  have h8 : Keeps r x7 := by
    refine setEncl_keeps ?_ ?_
    · exact h5
    · exact ⟨(h5.fuses).blown, (h5.fuses).svn, (h5.fuses).revoked⟩
  clear_value x7
  extract_lets -merge -underBinder +onlyGivenNames x9 x10
  have h11 : Keeps r x10 := by
    refine setEncl_keeps ?_ ?_
    · exact h8
    · exact ⟨(h8.fuses).blown, (h8.fuses).svn, (h8.fuses).revoked⟩
  clear_value x10
  exact findAlias_keeps h11

theorem effDiscovery_keeps {r s} {a0 a1 a2 a3 a4 a5} (h : Keeps r s) : Keeps r (effDiscovery a0 a1 a2 a3 a4 a5 s) := by
  unfold effDiscovery
  refine keeps_ite ?_ ?_
  · exact h
  · extract_lets -merge -underBinder +onlyGivenNames x1 x2
    have h3 : Keeps r x2 := by
      refine keeps_frame ?_
      exact h
    clear_value x2
    refine keeps_ite ?_ ?_
    · exact h3
    · extract_lets -merge -underBinder +onlyGivenNames x4 x5 x6 x7
      have h8 : Keeps r x7 := by
        refine keeps_frame ?_
        exact h3
      clear_value x7
      split
      · exact startFails_keeps h8
      · extract_lets -merge -underBinder +onlyGivenNames x9
        have h10 : Keeps r x9 := by
          refine keeps_ite ?_ ?_
          · exact sampleStraps_keeps h8
          · exact h8
        clear_value x9
        extract_lets -merge -underBinder +onlyGivenNames x11
        have h12 : Keeps r x11 := by
          refine keeps_foldl (fun s13 x14 h15 => ?_) ?_
          · exact applyLists_keeps h15
          · exact h10
        clear_value x11
        extract_lets -merge -underBinder +onlyGivenNames x16 x17
        have h18 : Keeps r x17 := by
          refine keeps_frame ?_
          exact h12
        clear_value x17
        exact nextClass_keeps (trainClass_keeps (setStage_keeps (discoverEncl_keeps h18)))

theorem effRailWaitTimeout_keeps {r s} (h : Keeps r s) : Keeps r (effRailWaitTimeout s) := by
  unfold effRailWaitTimeout
  refine keeps_ite ?_ ?_
  · exact h
  · split
    · exact startFails_keeps h
    · exact startFails_keeps h

theorem trainedComp_keeps {r s} {a0} (h : Keeps r s) : Keeps r (trainedComp a0 s) := by
  unfold trainedComp
  refine keeps_ite ?_ ?_
  · refine keeps_flash ?_ ?_ ?_
    · exact h
    · exact fun hc => (h.inv hc).flash
    · exact h.lists.same
  · exact degrade_keeps h

theorem admitComp_keeps {r s a0 a1 a2 a3} (h : Keeps r s) : Keeps r (admitComp a0 a1 a2 a3 s) := by
  unfold admitComp
  extract_lets -underBinder +onlyGivenNames ids
  have hi : ∀ b s, Keeps r s → Keeps r (ids b s) := fun _ _ h => keeps_frame h
  clear_value ids
  refine keeps_ite (hi _ _ (setPort_keeps h)) ?_
  exact compRec_keeps (hi _ _ (setComp_keeps (keeps_ite (trainedComp_keeps (setPort_keeps h)) (setPort_keeps h))))

theorem effDieLinks_keeps {r s} {a0 a1 a2 a3} (h : Keeps r s) : Keeps r (effDieLinks a0 a1 a2 a3 s) := by
  unfold effDieLinks
  refine keeps_ite ?_ ?_
  · exact h
  · split
    · exact startFails_keeps (portRec_keeps h)
    · extract_lets -merge -underBinder +onlyGivenNames x1 x2
      have h3 : Keeps r x2 := setBoot_keeps h
      clear_value x2
      exact setStage_keeps (admitComp_keeps h3)

theorem trainStack_keeps {r s} {a0 a1 a2 a3} (h : Keeps r s) : Keeps r (trainStack a0 a1 a2 a3 s) := by
  unfold trainStack
  extract_lets -merge -underBinder +onlyGivenNames x1
  exact setStack_keeps h

theorem effHbm_keeps {r s} {a0 a1} (h : Keeps r s) : Keeps r (effHbm a0 a1 s) := by
  unfold effHbm
  refine keeps_ite h ?_
  extract_lets -underBinder s1 fails b s2 f s3
  have h1 : Keeps r s1 := keeps_foldl (fun _ _ h => trainStack_keeps h) h
  clear_value s1
  have h2 : Keeps r s2 := setBoot_keeps h1
  have h3 : Keeps r s3 := keeps_ite (keeps_flash h2 (fun hc => (h2.inv hc).flash) h2.lists.sectors_add) h2
  clear_value s3
  clear_value fails
  split
  · exact startFails_keeps h3
  · exact setStage_keeps h3

theorem bistRec_keeps {r s} {a0 a1 a2} (h : Keeps r s) : Keeps r (bistRec a0 a1 a2 s) := by
  unfold bistRec
  exact record_keeps h

theorem bistFail_keeps {r s} {a0} (h : Keeps r s) : Keeps r (bistFail a0 s) := by
  unfold bistFail
  extract_lets -underBinder +onlyGivenNames k
  have hb : ∀ {u c i}, Keeps r (bistRec u c i s) := fun {_ _ _} => bistRec_keeps h
  refine keeps_ite ?_ (keeps_ite ?_ (keeps_ite ?_ h))
  · exact keeps_ite hb (removeCore_keeps (setCore_keeps hb (fun hc => hb.spad hc)))
  · exact setDie_keeps (keeps_flash hb (fun hc => (hb.inv hc).flash) hb.lists.same)
  · refine takeOffline_keeps (keeps_flash hb (fun hc => (hb.inv hc).flash) ?_)
    split
    · exact hb.lists.same
    · exact hb.lists.plates_add

theorem retryMovers_keeps {r s} {a0} (h : Keeps r s) : Keeps r (retryMovers a0 s) := by
  unfold retryMovers
  refine keeps_foldl (fun s1 x2 h3 => ?_) ?_
  · refine keeps_ite ?_ ?_
    · exact h3
    · refine setDie_keeps ?_
      refine keeps_flash ?_ ?_ ?_
      · exact h3
      · exact fun hc => by exact (h3.inv hc).flash
      · exact h3.lists.same
  · exact h

theorem effSram_keeps {r s} {a0} (h : Keeps r s) : Keeps r (effSram a0 s) := by
  unfold effSram
  refine keeps_ite ?_ ?_
  · exact h
  · extract_lets -merge -underBinder +onlyGivenNames x1
    have h2 : Keeps r x1 := by
      refine keeps_ite ?_ ?_
      · refine keeps_foldl (fun s3 x4 h5 => ?_) ?_
        · exact bistFail_keeps h5
        · exact retryMovers_keeps h
      · exact zeroMemories_keeps h
    clear_value x1
    extract_lets -merge -underBinder +onlyGivenNames x6
    have h7 : Keeps r x6 := by
      refine keeps_foldl (fun s8 x9 h10 => ?_) ?_
      · refine keeps_ite ?_ ?_
        · exact setFibre_keeps h10
        · exact h10
      · exact h2
    clear_value x6
    exact setStage_keeps h7

theorem afterOptical_keeps {r s} (h : Keeps r s) : Keeps r (afterOptical s) := by
  unfold afterOptical
  exact setStage_keeps h

theorem lightDie_keeps {r s} {a0 a1 a2 a3} (h : Keeps r s) : Keeps r (lightDie a0 a1 a2 a3 s) := by
  unfold lightDie
  refine keeps_foldl (fun s1 x2 h3 => ?_) ?_
  · extract_lets -merge -underBinder +onlyGivenNames x4
    exact setLink_keeps h3
  · exact h

theorem saveOptical_keeps {r s} {a0} (h : Keeps r s) : Keeps r (saveOptical a0 s) := by
  unfold saveOptical
  exact setBoot_keeps h

theorem topoConflict_keeps {r s} {a0 a1 a2} (h : Keeps r s) : Keeps r (topoConflict a0 a1 a2 s) := by
  unfold topoConflict
  exact linkRec_keeps (setBoot_keeps h)

theorem topoService_keeps {r s} {a0 a1 a2} (h : Keeps r s) : Keeps r (topoService a0 a1 a2 s) := by
  unfold topoService
  exact enterRecovery_keeps (topoConflict_keeps h)

theorem confirmId_keeps {r s} {a0} (h : Keeps r s) : Keeps r (confirmId a0 s) := by
  unfold confirmId
  exact setBoot_keeps h

theorem framesService_keeps {r s} {a0} (h : Keeps r s) : Keeps r (framesService a0 s) := by
  unfold framesService
  split
  · exact topoService_keeps h
  · exact confirmId_keeps h

theorem effCalibrated_keeps {r s} {a0 a1 a2 a3} (h : Keeps r s) : Keeps r (effCalibrated a0 a1 a2 a3 s) := by
  unfold effCalibrated
  extract_lets -merge -underBinder +onlyGivenNames x1
  extract_lets -merge -underBinder +onlyGivenNames x2
  have h3 : Keeps r x2 := effCalibrationEnd_keeps h
  clear_value x2
  refine keeps_ite ?_ ?_
  · exact framesService_keeps h3
  · exact h3

theorem effTestFrame_keeps {r s a0 a1} (h : Keeps r s) : Keeps r (effTestFrame a0 a1 s) := by
  unfold effTestFrame
  refine keeps_ite h ?_
  extract_lets check
  have hc : ∀ s, Keeps r s → Keeps r (check s) := by
    intro s h
    unfold check
    split
    · exact keeps_ite (framesService_keeps h) h
    · exact h
  clear_value check
  exact keeps_ite (hc _ h) (front_keeps h hc)

theorem effOptical_keeps {r s} {a0 a1 a2 a3} (h : Keeps r s) : Keeps r (effOptical a0 a1 a2 a3 s) := by
  unfold effOptical
  refine keeps_ite ?_ ?_
  · exact h
  · extract_lets -merge -underBinder +onlyGivenNames x1
    extract_lets -merge -underBinder +onlyGivenNames x2
    have h3 : Keeps r x2 := by
      refine keeps_foldl (fun s4 x5 h6 => ?_) ?_
      · extract_lets -merge -underBinder +onlyGivenNames x7
        extract_lets -merge -underBinder +onlyGivenNames x8
        have h9 : Keeps r x8 := lightDie_keeps h6
        clear_value x8
        refine keeps_ite ?_ ?_
        · exact saveOptical_keeps h9
        · exact h9
      · exact h
    clear_value x2
    extract_lets -merge -underBinder +onlyGivenNames x10 x11
    have h12 : Keeps r x11 := by
      refine keeps_frame ?_
      exact h3
    clear_value x11
    split
    · exact startFails_keeps (topoConflict_keeps h12)
    · exact afterOptical_keeps (confirmId_keeps h12)

theorem effCombLockTimeout_keeps {r s} (h : Keeps r s) : Keeps r (effCombLockTimeout s) := by
  unfold effCombLockTimeout
  refine keeps_ite ?_ ?_
  · exact h
  · refine afterOptical_keeps ?_
    refine fabricRec_keeps ?_
    refine keeps_foldl (fun s1 x2 h3 => ?_) ?_
    · exact lightDie_keeps h3
    · exact h

theorem effStorage_keeps {r s} {a0 a1 a2 a3 a4} (h : Keeps r s) : Keeps r (effStorage a0 a1 a2 a3 a4 s) := by
  unfold effStorage
  refine keeps_ite ?_ ?_
  · exact h
  · extract_lets -merge -underBinder +onlyGivenNames x1
    extract_lets -merge -underBinder +onlyGivenNames x2 x3
    have h4 : Keeps r x3 := by
      refine keeps_frame ?_
      exact h
    clear_value x3
    extract_lets -merge -underBinder +onlyGivenNames x5
    have h6 : Keeps r x5 := by
      refine keeps_foldl (fun s7 x8 h9 => ?_) ?_
      · split
        · exact nvInit_keeps h9
        · exact setNvCtrl_keeps h9
      · exact h4
    clear_value x5
    refine keeps_ite ?_ ?_
    · exact setStage_keeps h6
    · exact setBoot_keeps h6

theorem endCommit_keeps {r s} (h : Keeps r s) : Keeps r (endCommit s) := by
  unfold endCommit
  extract_lets -merge -underBinder +onlyGivenNames x1
  extract_lets -merge -underBinder +onlyGivenNames x2
  have h3 : Keeps r x2 := by
    refine setEncl_keeps ?_ ?_
    · exact h
    · exact ⟨(h.fuses).blown, (h.fuses).svn, (h.fuses).revoked⟩
  clear_value x2
  refine keeps_ite ?_ ?_
  · exact h3
  · extract_lets -merge -underBinder +onlyGivenNames x4
    have h5 : Keeps r x4 := record_keeps h3
    clear_value x4
    refine seekAlias_keeps ?_
    refine setEncl_keeps ?_ ?_
    · exact h5
    · extract_lets -merge -underBinder +onlyGivenNames x6
      exact ⟨(h5.fuses).blown, (h5.fuses).svn, (h5.fuses).revoked⟩

theorem commitBit_keeps {r s} (h : Keeps r s) : Keeps r (commitBit s) := by
  unfold commitBit
  extract_lets e
  refine keeps_ite h (keeps_ite ?_ ?_)
  · exact setEncl_keeps h ⟨h.fuses.blown, Nat.le_succ_of_le h.fuses.svn, h.fuses.revoked⟩
  · split
    · refine setEncl_keeps h ⟨h.fuses.blown, h.fuses.svn, fun i hi => ?_⟩
      show (e.revoked ||| _).getLsbD i = true
      rw [BitVec.getLsbD_or, h.fuses.revoked i hi, Bool.true_or]
    · exact endCommit_keeps h

theorem effReady_keeps {r s} (h : Keeps r s) : Keeps r (effReady s) := by
  unfold effReady
  refine keeps_ite h ?_
  extract_lets -underBinder +onlyGivenNames b s1
  have h1 : Keeps r s1 := record_keeps h
  clear_value s1
  extract_lets -underBinder rc en s2 s3 s4
  have h2 : Keeps r s2 := keeps_encl (s := { s1 with recs := { s1.recs with inService := true } })
    (keeps_recs h1 (fun hc => (h1.inv hc).log)) ⟨h1.fuses.blown, h1.fuses.svn, h1.fuses.revoked⟩
  clear_value s2
  have h3 : Keeps r s3 := keeps_ite h2 (seekAlias_keeps h2)
  clear_value s3
  have h4 : Keeps r s4 := goOnAll_keeps h3
  clear_value s4
  split
  · exact requestWarm_keeps h4
  · exact h4

theorem nextDieReset_keeps {r s} (h : Keeps r s) : Keeps r (nextDieReset s) := by
  unfold nextDieReset
  extract_lets -merge -underBinder +onlyGivenNames x1 x2
  have h3 : Keeps r x2 := setBoot_keeps h
  clear_value x2
  split
  · exact h3
  · exact beginDieReset_keeps (setBoot_keeps h3)

theorem effDieResetComplete_keeps {r s} {a0 a1 a2 a3 a4 a5 a6} (h : Keeps r s) : Keeps r (effDieResetComplete a0 a1 a2 a3 a4 a5 a6 s) := by
  unfold effDieResetComplete
  refine keeps_ite ?_ ?_
  · exact h
  · extract_lets -merge -underBinder +onlyGivenNames x1 x6
    have h2 : Keeps r x1 := by
      refine keeps_foldl (fun s3 x4 h5 => ?_) ?_
      · exact trainStack_keeps h5
      · exact h
    clear_value x1
    have h7 : Keeps r x6 := by
      refine keeps_ite ?_ ?_
      · refine keeps_foldl (fun s8 x9 h10 => ?_) ?_
        · exact bistFail_keeps h10
        · exact h2
      · exact lightDie_keeps h
    clear_value x6
    extract_lets -merge -underBinder +onlyGivenNames x11
    extract_lets -merge -underBinder +onlyGivenNames x12
    extract_lets -merge -underBinder +onlyGivenNames x13 x14 x15
    have h16 : Keeps r x15 := by
      refine keeps_ite ?_ ?_
      · exact setDie_keeps h7
      · exact setPhot_keeps h7
    clear_value x15
    refine keeps_ite ?_ ?_
    · exact requestWarm_keeps (dieRec_keeps (setBoot_keeps h16))
    · extract_lets -merge -underBinder +onlyGivenNames x17 x18
      have h19 : Keeps r x18 := by
        refine keeps_ite ?_ ?_
        · exact setBoot_keeps h16
        · exact saveOptical_keeps h16
      clear_value x18
      extract_lets -merge -underBinder +onlyGivenNames x20
      have h21 : Keeps r x20 := goOnAll_keeps (nextDieReset_keeps (checkRoutes_keeps (dieRec_keeps h19)))
      clear_value x20
      refine keeps_ite ?_ ?_
      · exact framesService_keeps h21
      · exact h21

end Sys2Proof.Machine
end

