-- ==== Sys2Proof/Laws/KeepsEnclave.lean ====
section
/-! SUPPORT. KeepsEnclave: what the functions of Machine/Enclave.lean keep. -/

namespace Sys2Proof.Machine

theorem setMgt_keeps {r s} {a1} (h : Keeps r s) : Keeps r (setMgt s a1) := by
  unfold setMgt
  refine keeps_frame ?_
  exact h

theorem onBinding_keeps {r s} {a0 a1} (h : Keeps r s) (g2 : ∀ t, Keeps r t → Keeps r (a1 t)) : Keeps r (onBinding a0 a1 s) := by
  unfold onBinding
  refine keeps_ite ?_ ?_
  · refine g2 _ ?_
    exact h
  · exact h

theorem answer_keeps {r s} {a0 a1} (h : Keeps r s) : Keeps r (answer a0 a1 s) := by
  unfold answer
  exact emit_keeps h

theorem bindingRec_keeps {r s} {a0 a1} (h : Keeps r s) : Keeps r (bindingRec a0 a1 s) := by
  unfold bindingRec
  exact record_keeps h

theorem setBinding_keeps {r s} {a0} (h : Keeps r s) : Keeps r (setBinding a0 s) := by
  unfold setBinding
  refine keeps_ite ?_ ?_
  · exact h
  · exact bindingRec_keeps (setMgt_keeps h)

theorem effI3cAddressAssign_keeps {r s} {a0} (h : Keeps r s) : Keeps r (effI3cAddressAssign a0 s) := by
  unfold effI3cAddressAssign
  refine keeps_ite ?_ ?_
  · exact h
  · exact setBinding_keeps (setMgt_keeps h)

theorem effI3cBusReset_keeps {r s} (h : Keeps r s) : Keeps r (effI3cBusReset s) := by
  unfold effI3cBusReset
  refine keeps_ite ?_ ?_
  · exact h
  · exact setBinding_keeps (setMgt_keeps h)

theorem effSetEndpointId_keeps {r s} {a0 a1} (h : Keeps r s) : Keeps r (effSetEndpointId a0 a1 s) := by
  unfold effSetEndpointId
  refine onBinding_keeps ?_ ?_
  · exact h
  · intro y2 h1
    refine keeps_ite ?_ ?_
    · exact answer_keeps (setMgt_keeps h1)
    · extract_lets -merge -underBinder +onlyGivenNames x3
      have h4 : Keeps r x3 := setBinding_keeps h1
      clear_value x3
      exact answer_keeps (setMgt_keeps h4)

theorem effRequestUpdate_keeps {r s} {a0 a1 a2} (h : Keeps r s) : Keeps r (effRequestUpdate a0 a1 a2 s) := by
  unfold effRequestUpdate
  refine onBinding_keeps ?_ ?_
  · exact h
  · intro y2 h1
    refine keeps_ite ?_ ?_
    · exact answer_keeps h1
    · refine keeps_ite ?_ ?_
      · exact answer_keeps h1
      · refine keeps_ite ?_ ?_
        · exact answer_keeps h1
        · extract_lets -merge -underBinder +onlyGivenNames x3 x4
          have h5 : Keeps r x4 := setMgt_keeps h1
          clear_value x4
          exact answer_keeps (fwUpdate_keeps h5)

theorem askPiece_keeps {r s} {a0} (h : Keeps r s) : Keeps r (askPiece a0 s) := by
  unfold askPiece
  exact emit_keeps h

theorem effUpdateComponent_keeps {r s} {a0 a1} (h : Keeps r s) : Keeps r (effUpdateComponent a0 a1 s) := by
  unfold effUpdateComponent
  refine onBinding_keeps ?_ ?_
  · exact h
  · intro y2 h1
    split
    · exact answer_keeps h1
    · refine keeps_ite ?_ ?_
      · exact answer_keeps h1
      · extract_lets -merge -underBinder +onlyGivenNames x3
        extract_lets -merge -underBinder +onlyGivenNames x4
        extract_lets -merge -underBinder +onlyGivenNames x5 x6
        have h7 : Keeps r x6 := by
          refine keeps_flash ?_ ?_ ?_
          · exact h1
          · exact fun hc => by exact Mem.wf_clear _ _ (h1.inv hc).flash
          · exact h1.lists.same
        clear_value x6
        exact askPiece_keeps (answer_keeps (setMgt_keeps h7))

theorem effFirmwareData_keeps {r s} {a0 a1} (h : Keeps r s) : Keeps r (effFirmwareData a0 a1 s) := by
  unfold effFirmwareData
  refine onBinding_keeps ?_ ?_
  · exact h
  · intro y2 h1
    split
    · exact h1
    · refine keeps_ite ?_ ?_
      · exact h1
      · extract_lets -merge -underBinder +onlyGivenNames x3
        extract_lets -merge -underBinder +onlyGivenNames x4
        extract_lets -merge -underBinder +onlyGivenNames x5 x6
        have h7 : Keeps r x6 := by
          refine keeps_flash ?_ ?_ ?_
          · exact h1
          · exact fun hc => by exact Mem.wf_writes _ _ (h1.inv hc).flash
          · exact h1.lists.same
        clear_value x6
        refine keeps_ite ?_ ?_
        · exact emit_keeps (setMgt_keeps h7)
        · exact askPiece_keeps (setMgt_keeps h7)

theorem effUpdateVerifyDone_keeps {r s} (h : Keeps r s) : Keeps r (effUpdateVerifyDone s) := by
  unfold effUpdateVerifyDone
  split
  · exact h
  · refine keeps_ite ?_ ?_
    · exact h
    · extract_lets -merge -underBinder +onlyGivenNames x1
      extract_lets -merge -underBinder +onlyGivenNames x2
      have h3 : Keeps r x2.2 := fwVerify_keeps h
      clear_value x2
      extract_lets -merge -underBinder +onlyGivenNames x4
      refine keeps_ite ?_ ?_
      · extract_lets -merge -underBinder +onlyGivenNames x5 x6
        have h7 : Keeps r x6 := fwUpdate_keeps (setMgt_keeps h3)
        clear_value x6
        exact emit_keeps (emit_keeps h7)
      · exact emit_keeps (fwUpdate_keeps (setMgt_keeps h3))

theorem writeBoot_keeps {r s a0} (h : Keeps r s) : Keeps r (writeBoot a0 s) := by
  unfold writeBoot
  extract_lets n
  clear_value n
  generalize bootRecord n a0 = r
  exact keeps_flash h (fun hc => Mem.wf_writes _ _ (h.inv hc).flash) h.lists.same

theorem effActivateFirmware_keeps {r s} {a0} (h : Keeps r s) : Keeps r (effActivateFirmware a0 s) := by
  unfold effActivateFirmware
  refine onBinding_keeps ?_ ?_
  · exact h
  · intro y2 h1
    split
    · exact answer_keeps h1
    · refine keeps_ite ?_ ?_
      · exact answer_keeps h1
      · extract_lets -merge -underBinder +onlyGivenNames x3
        extract_lets -merge -underBinder +onlyGivenNames x4
        extract_lets -merge -underBinder +onlyGivenNames x5 x6
        have h7 : Keeps r x6 := writeBoot_keeps (setMgt_keeps h1)
        clear_value x6
        extract_lets -merge -underBinder +onlyGivenNames x8
        have h9 : Keeps r x8 := fwUpdate_keeps (answer_keeps h7)
        clear_value x8
        refine keeps_ite ?_ ?_
        · exact coldStart_keeps (record_keeps h9)
        · exact h9

theorem effGetFirmwareParameters_keeps {r s} {a0} (h : Keeps r s) : Keeps r (effGetFirmwareParameters a0 s) := by
  unfold effGetFirmwareParameters
  refine onBinding_keeps ?_ ?_
  · exact h
  · intro y2 h1
    refine keeps_ite ?_ ?_
    · exact answer_keeps h1
    · extract_lets -merge -underBinder +onlyGivenNames x3
      extract_lets -merge -underBinder +onlyGivenNames x4
      exact answer_keeps h1

theorem effQueryDeviceIdentifiers_keeps {r s} {a0} (h : Keeps r s) : Keeps r (effQueryDeviceIdentifiers a0 s) := by
  unfold effQueryDeviceIdentifiers
  refine onBinding_keeps ?_ ?_
  · exact h
  · intro y2 h1
    refine keeps_ite ?_ ?_
    · exact answer_keeps h1
    · exact answer_keeps h1

theorem effSensorRefresh_keeps {r s} (h : Keeps r s) : Keeps r (effSensorRefresh s) := by
  unfold effSensorRefresh
  refine keeps_ite ?_ ?_
  · exact h
  · split
    · rename_i s1 e2
      have h3 : Keeps r s1 := by
        refine keeps_snd e2 ?_
        exact drawWord_keeps h
      exact setMgt_keeps h3

theorem effGetPdr_keeps {r s} {a0 a1} (h : Keeps r s) : Keeps r (effGetPdr a0 a1 s) := by
  unfold effGetPdr
  refine onBinding_keeps ?_ ?_
  · exact h
  · intro y2 h1
    split
    · exact answer_keeps h1
    · exact answer_keeps h1

theorem effGetPdrRepositoryInfo_keeps {r s} {a0} (h : Keeps r s) : Keeps r (effGetPdrRepositoryInfo a0 s) := by
  unfold effGetPdrRepositoryInfo
  refine onBinding_keeps ?_ ?_
  · exact h
  · intro y2 h1
    exact answer_keeps h1

theorem readSensor_keeps {r s} {a0 a1 a2} (h : Keeps r s) : Keeps r (readSensor a0 a1 a2 s) := by
  unfold readSensor
  refine keeps_ite ?_ ?_
  · exact answer_keeps h
  · exact answer_keeps h

theorem effGetSensorReading_keeps {r s} {a0 a1} (h : Keeps r s) : Keeps r (effGetSensorReading a0 a1 s) := by
  unfold effGetSensorReading
  refine onBinding_keeps ?_ ?_
  · exact h
  · intro y2 h1
    exact readSensor_keeps h1

theorem effGetStateSensorReadings_keeps {r s} {a0 a1} (h : Keeps r s) : Keeps r (effGetStateSensorReadings a0 a1 s) := by
  unfold effGetStateSensorReadings
  refine onBinding_keeps ?_ ?_
  · exact h
  · intro y2 h1
    exact readSensor_keeps h1

theorem sendEvent_keeps {r s} {a0} (h : Keeps r s) : Keeps r (sendEvent a0 s) := by
  unfold sendEvent
  exact emit_keeps h

theorem pushEvent_keeps {r s} (h : Keeps r s) : Keeps r (pushEvent s) := by
  unfold pushEvent
  refine keeps_ite ?_ ?_
  · exact h
  · split
    · exact h
    · exact sendEvent_keeps (setMgt_keeps h)

theorem effSetEventReceiver_keeps {r s} {a0} (h : Keeps r s) : Keeps r (effSetEventReceiver a0 s) := by
  unfold effSetEventReceiver
  refine onBinding_keeps ?_ ?_
  · exact h
  · intro y2 h1
    exact pushEvent_keeps (answer_keeps (setMgt_keeps h1))

theorem takeBmc_keeps {r s} {a0} (h : Keeps r s) : Keeps r (takeBmc a0 s) := by
  unfold takeBmc
  refine keeps_recs ?_ ?_
  · exact h
  · exact fun hc => (h.inv hc).log

theorem effPlatformEventResponse_keeps {r s} {a0} (h : Keeps r s) : Keeps r (effPlatformEventResponse a0 s) := by
  unfold effPlatformEventResponse
  split
  · refine keeps_ite ?_ ?_
    · exact pushEvent_keeps (takeBmc_keeps (setMgt_keeps h))
    · exact h
  · exact h

theorem effPlatformEventTimeout_keeps {r s} (h : Keeps r s) : Keeps r (effPlatformEventTimeout s) := by
  unfold effPlatformEventTimeout
  split
  · exact h
  · refine keeps_ite ?_ ?_
    · exact bindingRec_keeps (setMgt_keeps h)
    · split
      · exact sendEvent_keeps (setMgt_keeps h)
      · exact pushEvent_keeps (setMgt_keeps h)

theorem effPollForPlatformEventMessage_keeps {r s} {a0} (h : Keeps r s) : Keeps r (effPollForPlatformEventMessage a0 s) := by
  unfold effPollForPlatformEventMessage
  refine onBinding_keeps ?_ ?_
  · exact h
  · intro y2 h1
    refine keeps_ite ?_ ?_
    · exact answer_keeps h1
    · split
      · exact answer_keeps h1
      · refine answer_keeps ?_
        refine keeps_recs ?_ ?_
        · exact h1
        · exact fun hc => by exact (h1.inv hc).log

theorem effEventMessageSupported_keeps {r s} {a0} (h : Keeps r s) : Keeps r (effEventMessageSupported a0 s) := by
  unfold effEventMessageSupported
  refine onBinding_keeps ?_ ?_
  · exact h
  · intro y2 h1
    exact answer_keeps h1

theorem effEventMessageBufferSize_keeps {r s} {a0} (h : Keeps r s) : Keeps r (effEventMessageBufferSize a0 s) := by
  unfold effEventMessageBufferSize
  refine onBinding_keeps ?_ ?_
  · exact h
  · intro y2 h1
    split
    · rename_i s3 e4
      have h5 : Keeps r s3 := by
        refine keeps_snd e4 ?_
        exact drawBytes_keeps h1
      exact answer_keeps h5

theorem spdm_keeps {r s} {a0 a1} (h : Keeps r s) (g2 : ∀ t, Keeps r t → Keeps r (a1 t)) : Keeps r (spdm a0 a1 s) := by
  unfold spdm
  refine onBinding_keeps ?_ ?_
  · exact h
  · intro y2 h1
    refine keeps_ite ?_ ?_
    · exact answer_keeps h1
    · refine g2 _ ?_
      exact h1

theorem spdmCert_keeps {r s} {a0 a1} (h : Keeps r s) (g2 : ∀ t, Keeps r t → Keeps r (a1 t)) : Keeps r (spdmCert a0 a1 s) := by
  unfold spdmCert
  refine spdm_keeps ?_ ?_
  · exact h
  · intro y2 h1
    refine keeps_ite ?_ ?_
    · exact answer_keeps h1
    · refine keeps_ite ?_ ?_
      · exact answer_keeps h1
      · refine keeps_ite ?_ ?_
        · exact answer_keeps h1
        · refine g2 _ ?_
          exact h1

theorem spdmSigned_keeps {r s} {a0 a1} (h : Keeps r s) (g2 : ∀ t, Keeps r t → Keeps r (a1 t)) : Keeps r (spdmSigned a0 a1 s) := by
  unfold spdmSigned
  refine spdmCert_keeps ?_ ?_
  · exact h
  · intro y2 h1
    refine keeps_ite ?_ ?_
    · exact answer_keeps h1
    · refine g2 _ ?_
      exact h1

theorem effNegotiateAlgorithms_keeps {r s} {a0 a1} (h : Keeps r s) : Keeps r (effNegotiateAlgorithms a0 a1 s) := by
  unfold effNegotiateAlgorithms
  refine spdm_keeps ?_ ?_
  · exact h
  · intro y2 h1
    exact answer_keeps h1

theorem effGetCertificate_keeps {r s} {a0} (h : Keeps r s) : Keeps r (effGetCertificate a0 s) := by
  unfold effGetCertificate
  refine spdmCert_keeps ?_ ?_
  · exact h
  · intro y2 h1
    extract_lets -merge -underBinder +onlyGivenNames x3
    exact answer_keeps h1

theorem effGetMeasurements_keeps {r s a0 a1 a2} (h : Keeps r s) : Keeps r (effGetMeasurements a0 a1 a2 s) := by
  unfold effGetMeasurements
  extract_lets data reply
  have hr : ∀ s, Keeps r s → Keeps r (reply s) := by
    intro s h
    unfold reply
    split <;> exact answer_keeps h
  clear_value reply
  exact keeps_ite (spdmSigned_keeps h hr) (spdm_keeps h hr)

theorem effChallenge_keeps {r s} {a0} (h : Keeps r s) : Keeps r (effChallenge a0 s) := by
  unfold effChallenge
  refine spdmSigned_keeps ?_ ?_
  · exact h
  · intro y2 h1
    exact answer_keeps h1

theorem effKeyExchange_keeps {r s} {a0 a1} (h : Keeps r s) : Keeps r (effKeyExchange a0 a1 s) := by
  unfold effKeyExchange
  refine spdm_keeps ?_ ?_
  · exact h
  · intro y2 h1
    refine keeps_ite ?_ ?_
    · exact answer_keeps h1
    · refine answer_keeps ?_
      refine setEncl_keeps ?_ ?_
      · exact h1
      · extract_lets -merge -underBinder +onlyGivenNames x3
        exact ⟨(h1.fuses).blown, (h1.fuses).svn, (h1.fuses).revoked⟩

theorem effEndSession_keeps {r s} {a0 a1} (h : Keeps r s) : Keeps r (effEndSession a0 a1 s) := by
  unfold effEndSession
  refine spdm_keeps ?_ ?_
  · exact h
  · intro y2 h1
    refine keeps_ite ?_ ?_
    · refine answer_keeps ?_
      refine setEncl_keeps ?_ ?_
      · exact h1
      · extract_lets -merge -underBinder +onlyGivenNames x3
        exact ⟨(h1.fuses).blown, (h1.fuses).svn, (h1.fuses).revoked⟩
    · exact answer_keeps h1

theorem ideKm_keeps {r s} {a0 a1} (h : Keeps r s) (g2 : ∀ t, Keeps r t → Keeps r (a1 t)) : Keeps r (ideKm a0 a1 s) := by
  unfold ideKm
  refine spdm_keeps ?_ ?_
  · exact h
  · intro y2 h1
    refine keeps_ite ?_ ?_
    · refine g2 _ ?_
      exact h1
    · exact answer_keeps h1

theorem effKeyProg_keeps {r s} {a0 a1 a2} (h : Keeps r s) : Keeps r (effKeyProg a0 a1 a2 s) := by
  unfold effKeyProg
  refine ideKm_keeps ?_ ?_
  · exact h
  · intro y2 h1
    refine keeps_ite ?_ ?_
    · exact answer_keeps h1
    · extract_lets -merge -underBinder +onlyGivenNames x3 x4
      have h5 : Keeps r x4 := by
        refine setEncl_keeps ?_ ?_
        · exact h1
        · exact ⟨(h1.fuses).blown, (h1.fuses).svn, (h1.fuses).revoked⟩
      clear_value x4
      refine answer_keeps ?_
      refine keeps_frame ?_
      exact h5

theorem effKSetGo_keeps {r s} {a0 a1} (h : Keeps r s) : Keeps r (effKSetGo a0 a1 s) := by
  unfold effKSetGo
  refine ideKm_keeps ?_ ?_
  · exact h
  · intro y2 h1
    refine keeps_ite ?_ ?_
    · exact answer_keeps h1
    · refine answer_keeps ?_
      refine resumeHost_keeps ?_
      refine linkSecurity_keeps ?_
      refine keeps_frame ?_
      exact h1

theorem effKSetStop_keeps {r s} {a0} (h : Keeps r s) : Keeps r (effKSetStop a0 s) := by
  unfold effKSetStop
  refine ideKm_keeps ?_ ?_
  · exact h
  · intro y2 h1
    refine keeps_ite ?_ ?_
    · exact answer_keeps h1
    · refine answer_keeps ?_
      refine linkSecurity_keeps ?_
      refine keeps_frame ?_
      exact h1

theorem effGetChallenge_keeps {r s} {a0} (h : Keeps r s) : Keeps r (effGetChallenge a0 s) := by
  unfold effGetChallenge
  refine onBinding_keeps ?_ ?_
  · exact h
  · intro y2 h1
    exact answer_keeps h1

theorem debugRec_keeps {r s} {a0 a1} (h : Keeps r s) : Keeps r (debugRec a0 a1 s) := by
  unfold debugRec
  exact record_keeps h

theorem raiseDebug_keeps {r s} {a0} (h : Keeps r s) : Keeps r (raiseDebug a0 s) := by
  unfold raiseDebug
  refine keeps_ite ?_ ?_
  · exact h
  · extract_lets -merge -underBinder +onlyGivenNames x1 x2
    have h3 : Keeps r x2 := by
      refine setEncl_keeps ?_ ?_
      · exact h
      · exact ⟨(h.fuses).blown, (h.fuses).svn, (h.fuses).revoked⟩
    clear_value x2
    refine keeps_ite ?_ ?_
    · exact zeroise_keeps h3
    · exact seekAlias_keeps h3

theorem decommission_keeps {r s} (h : Keeps r s) : Keeps r (decommission s) := by
  unfold decommission
  extract_lets s1
  have h1 : Keeps r s1 := dropKeys_keeps h
  clear_value s1
  exact record_keeps (setEncl_keeps h1 ⟨fun _ => rfl, h1.fuses.svn, h1.fuses.revoked⟩)

theorem effSubmitToken_keeps {r s} {a0 a1} (h : Keeps r s) : Keeps r (effSubmitToken a0 a1 s) := by
  unfold effSubmitToken
  refine onBinding_keeps ?_ ?_
  · exact h
  · intro y2 h1
    extract_lets -merge -underBinder +onlyGivenNames x3
    extract_lets -merge -underBinder +onlyGivenNames x4 x6
    have h5 : Keeps r x4 := raiseDebug_keeps h1
    clear_value x4
    have h7 : Keeps r x6 := by
      refine keeps_ite ?_ ?_
      · exact debugRec_keeps h1
      · refine keeps_ite ?_ ?_
        · exact debugRec_keeps h5
        · exact decommission_keeps h1
    clear_value x6
    exact answer_keeps (newChallenge_keeps h7)

theorem effColdStartMsg_keeps {r s} {a0} (h : Keeps r s) : Keeps r (effColdStartMsg a0 s) := by
  unfold effColdStartMsg
  refine onBinding_keeps ?_ ?_
  · exact h
  · intro y2 h1
    exact effColdStart_keeps h1

theorem effZeroise_keeps {r s} {a0} (h : Keeps r s) : Keeps r (effZeroise a0 s) := by
  unfold effZeroise
  refine onBinding_keeps ?_ ?_
  · exact h
  · intro y2 h1
    exact answer_keeps (zeroise_keeps h1)

theorem effEncZeroise_keeps {r s} (h : Keeps r s) : Keeps r (effEncZeroise s) := by
  unfold effEncZeroise
  refine hostAccess_keeps ?_ ?_
  · exact h
  · intro y2 h1
    exact zeroise_keeps h1

theorem effSelfTest_keeps {r s} {a0} (h : Keeps r s) : Keeps r (effSelfTest a0 s) := by
  unfold effSelfTest
  refine hostAccess_keeps ?_ ?_
  · exact h
  · intro y2 h1
    refine keeps_ite ?_ ?_
    · exact h1
    · exact enclaveError_keeps h1

theorem effConditionalTestFailure_keeps {r s} (h : Keeps r s) : Keeps r (effConditionalTestFailure s) := by
  unfold effConditionalTestFailure
  refine keeps_ite ?_ ?_
  · exact h
  · extract_lets -merge -underBinder +onlyGivenNames x1
    have h2 : Keeps r x1 := enclaveError_keeps h
    clear_value x1
    refine keeps_ite ?_ ?_
    · exact startFails_keeps h2
    · exact h2

theorem effAliasCertIssue_keeps {r s} (h : Keeps r s) : Keeps r (effAliasCertIssue s) := by
  unfold effAliasCertIssue
  split
  · exact h
  · refine keeps_ite ?_ ?_
    · exact h
    · refine aliasRec_keeps ?_
      refine setEncl_keeps ?_ ?_
      · exact h
      · extract_lets -merge -underBinder +onlyGivenNames x1
        exact ⟨(h.fuses).blown, (h.fuses).svn, (h.fuses).revoked⟩

end Sys2Proof.Machine
end

