-- ==== Sys2Proof/Laws/KeepsHostLink.lean ====
section
/-! SUPPORT. KeepsHostLink: what the functions of Machine/HostLink.lean keep. -/

namespace Sys2Proof.Machine

theorem setPci_keeps {r s} {a1} (h : Keeps r s) : Keeps r (setPci s a1) := by
  unfold setPci
  refine keeps_frame ?_
  exact h

theorem setEvr_keeps {r s} {a1} (h : Keeps r s) : Keeps r (setEvr s a1) := by
  unfold setEvr
  refine keeps_frame ?_
  exact h

theorem portReset_keeps {r s} (h : Keeps r s) : Keeps r (portReset s) := by
  unfold portReset
  extract_lets -merge -underBinder +onlyGivenNames x1
  have h2 : Keeps r x1 := flrLike_keeps h
  clear_value x1
  exact setPci_keeps h2

theorem effPerstN_keeps {r s} (h : Keeps r s) : Keeps r (effPerstN s) := by
  unfold effPerstN
  refine keeps_ite ?_ ?_
  · exact h
  · exact portReset_keeps (setPci_keeps h)

theorem effPerstNRelease_keeps {r s} (h : Keeps r s) : Keeps r (effPerstNRelease s) := by
  unfold effPerstNRelease
  exact setPci_keeps h

theorem effLinkTrained_keeps {r s} {a0 a1 a2} (h : Keeps r s) : Keeps r (effLinkTrained a0 a1 a2 s) := by
  unfold effLinkTrained
  refine keeps_ite ?_ ?_
  · exact h
  · extract_lets -merge -underBinder +onlyGivenNames x1 x2
    have h3 : Keeps r x2 := setPci_keeps h
    clear_value x2
    refine keeps_ite ?_ ?_
    · exact h3
    · exact emit_keeps h3

theorem configWrite_keeps {r s} {a0} (h : Keeps r s) (g1 : ∀ t, Keeps r t → Keeps r (a0 t)) : Keeps r (configWrite a0 s) := by
  unfold configWrite
  refine keeps_ite ?_ ?_
  · exact h
  · refine keeps_ite ?_ ?_
    · exact emit_keeps h
    · refine g1 _ ?_
      exact h

theorem effFlr_keeps {r s} (h : Keeps r s) : Keeps r (effFlr s) := by
  unfold effFlr
  refine configWrite_keeps ?_ ?_
  · exact h
  · intro y2 h1
    exact flrLike_keeps h1

theorem effHotReset_keeps {r s} (h : Keeps r s) : Keeps r (effHotReset s) := by
  unfold effHotReset
  refine keeps_ite ?_ ?_
  · exact portReset_keeps h
  · exact h

theorem effLinkDown_keeps {r s} (h : Keeps r s) : Keeps r (effLinkDown s) := by
  unfold effLinkDown
  refine keeps_ite ?_ ?_
  · exact portReset_keeps (setPci_keeps h)
  · exact h

theorem effMemorySpaceEnable_keeps {r s} {a0} (h : Keeps r s) : Keeps r (effMemorySpaceEnable a0 s) := by
  unfold effMemorySpaceEnable
  refine configWrite_keeps ?_ ?_
  · exact h
  · intro y2 h1
    exact setPci_keeps h1

theorem effBusMasterEnable_keeps {r s} {a0} (h : Keeps r s) : Keeps r (effBusMasterEnable a0 s) := by
  unfold effBusMasterEnable
  refine configWrite_keeps ?_ ?_
  · exact h
  · intro y2 h1
    exact resumeHost_keeps (setPci_keeps h1)

theorem effD3hot_keeps {r s} {a0} (h : Keeps r s) : Keeps r (effD3hot a0 s) := by
  unfold effD3hot
  refine configWrite_keeps ?_ ?_
  · exact h
  · intro y2 h1
    exact resumeHost_keeps (setPci_keeps h1)

theorem effBar2Resize_keeps {r s} {a0} (h : Keeps r s) : Keeps r (effBar2Resize a0 s) := by
  unfold effBar2Resize
  refine configWrite_keeps ?_ ?_
  · exact h
  · intro y2 h1
    refine keeps_ite ?_ ?_
    · exact h1
    · exact setPci_keeps h1

theorem effIdeCheckFail_keeps {r s} (h : Keeps r s) : Keeps r (effIdeCheckFail s) := by
  unfold effIdeCheckFail
  refine keeps_ite ?_ ?_
  · exact h
  · refine linkSecurity_keeps ?_
    refine keeps_encl ?_ ?_
    · exact h
    · extract_lets -merge -underBinder +onlyGivenNames x1
      exact ⟨(h.fuses).blown, (h.fuses).svn, (h.fuses).revoked⟩

theorem effStreamBufferRead_keeps {r s} {a0} (h : Keeps r s) : Keeps r (effStreamBufferRead a0 s) := by
  unfold effStreamBufferRead
  refine hostRead_keeps ?_ ?_
  · exact h
  · intro y2 h1
    exact emit_keeps h1

theorem effDmaWindowWrite_keeps {r s} {a0 a1 a2} (h : Keeps r s) : Keeps r (effDmaWindowWrite a0 a1 a2 s) := by
  unfold effDmaWindowWrite
  refine keeps_ite ?_ ?_
  · exact h
  · refine hostAccess_keeps ?_ ?_
    · exact h
    · intro y2 h1
      refine keeps_ite ?_ ?_
      · exact regAccess_keeps h1
      · refine keeps_ite ?_ ?_
        · refine writeHalves_keeps ?_ ?_
          · exact h1
          · intro y4 y5 y6 h3
            exact setPci_keeps h3
        · refine writeHalves_keeps ?_ ?_
          · exact h1
          · intro y8 y9 y10 h7
            exact setPci_keeps h7

theorem sendWaiting_keeps {r s a0} (h : Keeps r s) : Keeps r (sendWaiting a0 s) := by
  refine keeps_foldl (fun s x h => ?_) h
  split
  · exact keeps_ite (sendMsix_keeps (setWatch_keeps h)) h
  · exact h

theorem effEvrEnable_keeps {r s} {a0 a1} (h : Keeps r s) : Keeps r (effEvrEnable a0 a1 s) := by
  unfold effEvrEnable
  refine keeps_ite ?_ ?_
  · exact h
  · refine hostAccess_keeps ?_ ?_
    · exact h
    · intro y2 h1
      refine writeHalves_keeps ?_ ?_
      · exact h1
      · intro y4 y5 y6 h3
        extract_lets -merge -underBinder +onlyGivenNames x7
        have h8 : Keeps r x7 := setEvr_keeps h3
        clear_value x7
        refine keeps_ite ?_ ?_
        · exact h8
        · refine keeps_ite ?_ ?_
          · exact setEvr_keeps h8
          · exact regAccess_keeps (setEvr_keeps h8)

theorem ringOff_keeps {r s} (h : Keeps r s) : Keeps r (ringOff s) := by
  unfold ringOff
  exact sendWaiting_keeps (setEvr_keeps h)

theorem effEvrDisable_keeps {r s} {a0 a1} (h : Keeps r s) : Keeps r (effEvrDisable a0 a1 s) := by
  unfold effEvrDisable
  refine keeps_ite ?_ ?_
  · exact h
  · refine hostAccess_keeps ?_ ?_
    · exact h
    · intro y2 h1
      refine writeHalves_keeps ?_ ?_
      · exact h1
      · intro y4 y5 y6 h3
        extract_lets -merge -underBinder +onlyGivenNames x7
        have h8 : Keeps r x7 := setEvr_keeps h3
        clear_value x7
        refine keeps_ite ?_ ?_
        · exact ringOff_keeps h8
        · exact h8

theorem ctrlHigh_keeps {r s} {a0} (h : Keeps r s) : Keeps r (ctrlHigh a0 s) := by
  unfold ctrlHigh
  split
  · exact h
  · extract_lets -merge -underBinder +onlyGivenNames x1
    extract_lets -merge -underBinder +onlyGivenNames x2 x3
    have h4 : Keeps r x3 := setPci_keeps h
    clear_value x3
    extract_lets -merge -underBinder +onlyGivenNames x5
    extract_lets -merge -underBinder +onlyGivenNames x6
    have h7 : Keeps r x6 := setEvr_keeps h4
    clear_value x6
    refine keeps_ite ?_ ?_
    · refine keeps_ite ?_ ?_
      · exact h7
      · refine keeps_ite ?_ ?_
        · exact setEvr_keeps h7
        · exact regAccess_keeps (setEvr_keeps h7)
    · refine keeps_ite ?_ ?_
      · exact ringOff_keeps h7
      · exact h7

theorem effHubEvrBaseWrite_keeps {r s} {a0 a1 a2} (h : Keeps r s) : Keeps r (effHubEvrBaseWrite a0 a1 a2 s) := by
  unfold effHubEvrBaseWrite
  refine keeps_ite ?_ ?_
  · exact h
  · refine hostAccess_keeps ?_ ?_
    · exact h
    · intro y2 h1
      refine keeps_ite ?_ ?_
      · exact regAccess_keeps h1
      · refine writeHalves_keeps ?_ ?_
        · exact h1
        · intro y4 y5 y6 h3
          exact setEvr_keeps h3

theorem effHubEvrWbWrite_keeps {r s} {a0 a1 a2} (h : Keeps r s) : Keeps r (effHubEvrWbWrite a0 a1 a2 s) := by
  unfold effHubEvrWbWrite
  refine keeps_ite ?_ ?_
  · exact h
  · refine hostAccess_keeps ?_ ?_
    · exact h
    · intro y2 h1
      refine keeps_ite ?_ ?_
      · exact regAccess_keeps h1
      · refine writeHalves_keeps ?_ ?_
        · exact h1
        · intro y4 y5 y6 h3
          exact setEvr_keeps h3

theorem effEvrConsumerWrite_keeps {r s} {a0 a1} (h : Keeps r s) : Keeps r (effEvrConsumerWrite a0 a1 s) := by
  unfold effEvrConsumerWrite
  refine keeps_ite ?_ ?_
  · exact h
  · refine hostAccess_keeps ?_ ?_
    · exact h
    · intro y2 h1
      extract_lets -merge -underBinder +onlyGivenNames x3 x4
      have h5 : Keeps r x4 := setPci_keeps h1
      clear_value x4
      extract_lets -merge -underBinder +onlyGivenNames x6
      extract_lets -merge -underBinder +onlyGivenNames x7
      refine keeps_ite ?_ ?_
      · exact setEvr_keeps h5
      · exact regAccess_keeps h5

theorem ringMessage_keeps {r s} (h : Keeps r s) : Keeps r (ringMessage s) := by
  unfold ringMessage
  exact sendMsix_keeps (setEvr_keeps h)

theorem effRecordDelivery_keeps {r s} (h : Keeps r s) : Keeps r (effRecordDelivery s) := by
  unfold effRecordDelivery
  split
  · exact h
  · extract_lets -merge -underBinder +onlyGivenNames x1
    refine keeps_ite ?_ ?_
    · exact h
    · extract_lets -merge -underBinder +onlyGivenNames x2
      extract_lets -merge -underBinder +onlyGivenNames x3 x4
      have h5 : Keeps r x4 := by
        refine emit_keeps ?_
        refine keeps_recs ?_ ?_
        · exact h
        · exact fun hc => (h.inv hc).log
      clear_value x4
      extract_lets -merge -underBinder +onlyGivenNames x6
      have h7 : Keeps r x6 := emit_keeps h5
      clear_value x6
      extract_lets -merge -underBinder +onlyGivenNames x8
      have h9 : Keeps r x8 := setEvr_keeps h7
      clear_value x8
      extract_lets -merge -underBinder +onlyGivenNames x10
      have h11 : Keeps r x10 := sendWaiting_keeps h9
      clear_value x10
      refine keeps_ite ?_ ?_
      · exact ringMessage_keeps h11
      · exact h11

theorem effEvrCoalesceTimeout_keeps {r s} (h : Keeps r s) : Keeps r (effEvrCoalesceTimeout s) := by
  unfold effEvrCoalesceTimeout
  refine keeps_ite ?_ ?_
  · exact ringMessage_keeps h
  · exact h

theorem maskVector_keeps {r s} {a0 a1} (h : Keeps r s) : Keeps r (maskVector a0 a1 s) := by
  unfold maskVector
  extract_lets -merge -underBinder +onlyGivenNames x1
  refine keeps_ite ?_ ?_
  · exact emit_keeps (setMsix_keeps h)
  · exact setMsix_keeps h

theorem effMsixUnmask_keeps {r s} {a0} (h : Keeps r s) : Keeps r (effMsixUnmask a0 s) := by
  unfold effMsixUnmask
  refine hostAccess_keeps ?_ ?_
  · exact h
  · intro y2 h1
    refine keeps_ite ?_ ?_
    · exact maskVector_keeps h1
    · exact h1

theorem setWatchReg_keeps {r s} {a0 a1} (h : Keeps r s) : Keeps r (setWatchReg a0 a1 s) := by
  unfold setWatchReg
  extract_lets -merge -underBinder +onlyGivenNames x1
  exact fireWatch_keeps (setWatch_keeps h)

theorem effTokenWatchWrite_keeps {r s} {a0 a1 a2 a3} (h : Keeps r s) : Keeps r (effTokenWatchWrite a0 a1 a2 a3 s) := by
  unfold effTokenWatchWrite
  refine keeps_ite ?_ ?_
  · exact h
  · refine hostAccess_keeps ?_ ?_
    · exact h
    · intro y2 h1
      refine writeHalves_keeps ?_ ?_
      · exact h1
      · intro y4 y5 y6 h3
        exact setWatchReg_keeps h3

end Sys2Proof.Machine
end

