-- ==== Sys2Proof/Laws/KeepsRegMap.lean ====
section
/-! SUPPORT. KeepsRegMap: what the functions of Machine/RegMap.lean keep. -/

namespace Sys2Proof.Machine

theorem readHalf_keeps {r s} {a0} (h : Keeps r s) : Keeps r (readHalf a0 s).2 := by
  unfold readHalf
  split
  · exact h
  · split
    · exact h
    · split
      · refine keeps_ite ?_ ?_
        · refine keeps_frame ?_
          exact h
        · exact h
      · split
        · refine keeps_frame ?_
          exact h
        · exact h

theorem readReg_keeps {r s} {a0 a1} (h : Keeps r s) : Keeps r (readReg a0 a1 s).2 := by
  unfold readReg
  split
  · exact h
  · split
    · exact readHalf_keeps h
    · split
      · exact h
      · exact h

theorem effCounterLowRead_keeps {r s} {a0} (h : Keeps r s) : Keeps r (effCounterLowRead a0 s) := by
  unfold effCounterLowRead
  refine keeps_ite ?_ ?_
  · exact h
  · refine hostRead_keeps ?_ ?_
    · exact h
    · intro y2 h1
      extract_lets -merge -underBinder +onlyGivenNames x3
      have h4 : Keeps r x3.2 := readReg_keeps h1
      clear_value x3
      exact emit_keeps h4

end Sys2Proof.Machine
end

