-- ==== Sys2Proof/Laws/KeepsRegs.lean ====
section
/-! SUPPORT. KeepsRegs: what the functions of Machine/Regs.lean keep. -/

namespace Sys2Proof.Machine

theorem touch_keeps {r s} {a0} (h : Keeps r s) : Keeps r (touch a0 s) := by
  unfold touch
  split
  · exact ungate_keeps h
  · exact h

theorem window_keeps {r s} {a0 a1 a2 a3} (h : Keeps r s) (g4 : ∀ t, Keeps r t → Keeps r (a3 t)) : Keeps r (window a0 a1 a2 a3 s) := by
  unfold window
  refine hostAccess_keeps ?_ ?_
  · exact h
  · intro y2 h1
    refine keeps_ite ?_ ?_
    · refine keeps_ite ?_ ?_
      · exact regAccess_keeps h1
      · exact h1
    · refine keeps_ite ?_ ?_
      · exact regAccess_keeps h1
      · extract_lets -merge -underBinder +onlyGivenNames x3
        have h4 : Keeps r x3 := touch_keeps h1
        clear_value x3
        split
        · exact regAccess_keeps h4
        · refine g4 _ ?_
          exact h4

theorem trigger_keeps {r s} {a0 a1 a2} (h : Keeps r s) (g3 : ∀ t, Keeps r t → Keeps r (a2 t)) : Keeps r (trigger a0 a1 a2 s) := by
  unfold trigger
  refine keeps_ite ?_ ?_
  · refine g3 _ ?_
    exact h
  · exact h

theorem streamWrite_keeps {r s} {a0 a1 a2} (h : Keeps r s) : Keeps r (streamWrite a0 a1 a2 s) := by
  unfold streamWrite
  extract_lets -merge -underBinder +onlyGivenNames x1
  extract_lets -merge -underBinder +onlyGivenNames x2
  refine keeps_ite ?_ ?_
  · refine trigger_keeps ?_ ?_
    · exact effStreamPause_keeps (effStreamEnable_keeps h)
    · intro y4 h3
      exact effStreamReset_keeps h3
  · refine keeps_ite ?_ ?_
    · refine writeHalves_keeps ?_ ?_
      · exact h
      · intro y6 y7 y8 h5
        refine trigger_keeps ?_ ?_
        · exact h5
        · intro y10 h9
          refine setStrm_keeps ?_ ?_
          · exact h9
          · intro hc
            extract_lets -merge -underBinder +onlyGivenNames x11
            exact ⟨((h9.inv hc).strm _).buf, ((h9.inv hc).strm _).queue⟩
    · refine keeps_ite ?_ ?_
      · refine trigger_keeps ?_ ?_
        · exact effSkipSelect_keeps h
        · intro y13 h12
          exact effClearMisplaced_keeps h12
      · exact h

theorem hubResetWrite_keeps {r s} {a0 a1} (h : Keeps r s) : Keeps r (hubResetWrite a0 a1 s) := by
  unfold hubResetWrite
  extract_lets -merge -underBinder +onlyGivenNames x1 x2
  have h3 : Keeps r x2 := by
    refine keeps_frame ?_
    exact h
  clear_value x2
  refine keeps_ite ?_ ?_
  · exact requestCold_keeps h3
  · extract_lets -merge -underBinder +onlyGivenNames x4
    have h5 : Keeps r x4 := by
      refine keeps_ite ?_ ?_
      · exact regAccess_keeps h3
      · exact h3
    clear_value x4
    refine trigger_keeps ?_ ?_
    · refine trigger_keeps ?_ ?_
      · exact h5
      · intro y7 h6
        exact requestWarm_keeps h6
    · intro y9 h8
      exact dieWrite_keeps h8

theorem msixWord_keeps {r s} {a0 a1} (h : Keeps r s) : Keeps r (msixWord a0 a1 s) := by
  unfold msixWord
  extract_lets -merge -underBinder +onlyGivenNames x1
  extract_lets -merge -underBinder +onlyGivenNames x2
  refine keeps_ite ?_ ?_
  · exact setMsix_keeps h
  · refine keeps_ite ?_ ?_
    · exact setMsix_keeps h
    · refine keeps_ite ?_ ?_
      · exact setMsix_keeps h
      · exact maskVector_keeps h

theorem pciWrite_keeps {r s} {a0 a1 a2} (h : Keeps r s) : Keeps r (pciWrite a0 a1 a2 s) := by
  unfold pciWrite
  refine keeps_ite ?_ ?_
  · exact effDmaWindowWrite_keeps h
  · refine keeps_ite ?_ ?_
    · refine writeHalves_keeps ?_ ?_
      · exact h
      · intro y2 y3 y4 h1
        refine keeps_ite ?_ ?_
        · refine keeps_frame ?_
          exact h1
        · exact regAccess_keeps h1
    · refine keeps_ite ?_ ?_
      · exact effTokenWatchWrite_keeps h
      · refine keeps_ite ?_ ?_
        · refine keeps_ite ?_ ?_
          · exact msixWord_keeps (msixWord_keeps h)
          · exact msixWord_keeps h
        · exact h

theorem evrWrite_keeps {r s} {a0 a1 a2} (h : Keeps r s) : Keeps r (evrWrite a0 a1 a2 s) := by
  unfold evrWrite
  refine keeps_ite ?_ ?_
  · exact effHubEvrBaseWrite_keeps h
  · refine keeps_ite ?_ ?_
    · refine keeps_ite ?_ ?_
      · exact effEvrEnable_keeps h
      · exact effEvrDisable_keeps h
    · refine keeps_ite ?_ ?_
      · exact ctrlHigh_keeps h
      · refine keeps_ite ?_ ?_
        · exact effHubEvrWbWrite_keeps h
        · refine keeps_ite ?_ ?_
          · refine keeps_ite ?_ ?_
            · exact effEvrConsumerWrite_keeps h
            · refine keeps_frame ?_
              exact h
          · refine keeps_ite ?_ ?_
            · exact effEvrConsumerWrite_keeps h
            · refine writeHalves_keeps ?_ ?_
              · exact h
              · intro y2 y3 y4 h1
                refine trigger_keeps ?_ ?_
                · exact h1
                · intro y6 h5
                  exact setEvr_keeps h5

theorem portWrite_keeps {r s} {a0 a1 a2 a3 a4 a5} (h : Keeps r s) : Keeps r (portWrite a0 a1 a2 a3 a4 a5 s) := by
  unfold portWrite
  refine keeps_ite ?_ ?_
  · refine keeps_ite ?_ ?_
    · exact setPort_keeps h
    · exact regAccess_keeps h
  · refine keeps_ite ?_ ?_
    · refine trigger_keeps ?_ ?_
      · exact h
      · intro y2 h1
        exact effD2dPortClear_keeps h1
    · exact h

theorem hubWrite_keeps {r s} {a0 a1 a2} (h : Keeps r s) : Keeps r (hubWrite a0 a1 a2 s) := by
  unfold hubWrite
  extract_lets -merge -underBinder +onlyGivenNames x1
  refine keeps_ite ?_ ?_
  · refine keeps_ite ?_ ?_
    · exact effHbmXferCtrlWrite_keeps h
    · exact effHbmXferCtrlWrite_keeps h
  · refine keeps_ite ?_ ?_
    · exact hubResetWrite_keeps h
    · refine keeps_ite ?_ ?_
      · exact streamWrite_keeps h
      · refine keeps_ite ?_ ?_
        · exact pciWrite_keeps h
        · refine keeps_ite ?_ ?_
          · refine writeHalves_keeps ?_ ?_
            · exact h
            · intro y3 y4 y5 h2
              exact setNvCtrl_keeps h2
          · refine keeps_ite ?_ ?_
            · refine trigger_keeps ?_ ?_
              · refine trigger_keeps ?_ ?_
                · exact h
                · intro y7 h6
                  exact effClearSag_keeps h6
              · intro y9 h8
                exact effClearClamp_keeps h8
            · refine keeps_ite ?_ ?_
              · refine writeHalves_keeps ?_ ?_
                · exact h
                · intro y11 y12 y13 h10
                  refine trigger_keeps ?_ ?_
                  · exact h10
                  · intro y15 h14
                    exact setPwr_keeps h14
              · refine keeps_ite ?_ ?_
                · refine trigger_keeps ?_ ?_
                  · exact h
                  · intro y17 h16
                    exact effEncZeroise_keeps h16
                · refine keeps_ite ?_ ?_
                  · exact evrWrite_keeps h
                  · refine keeps_ite ?_ ?_
                    · exact effD2dCompApertureWrite_keeps h
                    · refine keeps_ite ?_ ?_
                      · exact portWrite_keeps h
                      · exact h

theorem photWrite_keeps {r s} {a0 a1 a2 a3} (h : Keeps r s) : Keeps r (photWrite a0 a1 a2 a3 s) := by
  unfold photWrite
  extract_lets -merge -underBinder +onlyGivenNames x1
  extract_lets -merge -underBinder +onlyGivenNames x2
  refine keeps_ite ?_ ?_
  · exact setPhot_keeps h
  · refine keeps_ite ?_ ?_
    · refine trigger_keeps ?_ ?_
      · refine trigger_keeps ?_ ?_
        · exact h
        · intro y4 h3
          exact effMerClearDrop_keeps h3
      · intro y6 h5
        exact effClearLinks_keeps h5
    · refine keeps_ite ?_ ?_
      · extract_lets -merge -underBinder +onlyGivenNames x7
        refine keeps_ite ?_ ?_
        · exact setLink_keeps h
        · refine keeps_ite ?_ ?_
          · refine trigger_keeps ?_ ?_
            · exact h
            · intro y9 h8
              exact effMerLinkClear_keeps h8
          · exact h
      · refine keeps_ite ?_ ?_
        · exact setPhot_keeps h
        · refine keeps_ite ?_ ?_
          · refine trigger_keeps ?_ ?_
            · exact h
            · intro y11 h10
              exact effFabAbortRaise_keeps h10
          · refine keeps_ite ?_ ?_
            · refine trigger_keeps ?_ ?_
              · refine trigger_keeps ?_ ?_
                · exact h
                · intro y13 h12
                  exact effFabClearDrop_keeps h12
              · intro y15 h14
                exact effClearSat_keeps h14
            · refine keeps_ite ?_ ?_
              · exact portWrite_keeps h
              · exact h

theorem coreWrite_keeps {r s} {a0 a1 a2} (h : Keeps r s) : Keeps r (coreWrite a0 a1 a2 s) := by
  unfold coreWrite
  refine keeps_ite ?_ ?_
  · refine trigger_keeps ?_ ?_
    · exact h
    · intro y2 h1
      exact effOccTestRun_keeps h1
  · refine keeps_ite ?_ ?_
    · refine trigger_keeps ?_ ?_
      · exact h
      · intro y4 h3
        refine setCore_keeps ?_ ?_
        · exact h3
        · intro hc
          extract_lets -merge -underBinder +onlyGivenNames x5
          exact (h3.inv hc).spad _
    · refine keeps_ite ?_ ?_
      · refine trigger_keeps ?_ ?_
        · exact h
        · intro y7 h6
          refine setCore_keeps ?_ ?_
          · exact h6
          · intro hc
            extract_lets -merge -underBinder +onlyGivenNames x8
            exact (h6.inv hc).spad _
      · exact h

theorem clearUpd_keeps {r s} {a0} (h : Keeps r s) : Keeps r (clearUpd a0 s) := by
  unfold clearUpd
  refine setCl_keeps ?_ ?_
  · exact h
  · intro hc
    extract_lets -merge -underBinder +onlyGivenNames x1
    exact ⟨((h.inv hc).clu _).imem, ((h.inv hc).clu _).plates, ((h.inv hc).clu _).pc, ((h.inv hc).clu _).loops⟩

theorem clusterWrite_keeps {r s} {a0 a1 a2 a3 a4} (h : Keeps r s) : Keeps r (clusterWrite a0 a1 a2 a3 a4 s) := by
  unfold clusterWrite
  extract_lets -merge -underBinder +onlyGivenNames x1
  refine keeps_ite ?_ ?_
  · refine setCl_keeps ?_ ?_
    · exact h
    · exact fun hc => ⟨((h.inv hc).clu _).imem, ((h.inv hc).clu _).plates, ((h.inv hc).clu _).pc, ((h.inv hc).clu _).loops⟩
  · refine keeps_ite ?_ ?_
    · refine writeHalves_keeps ?_ ?_
      · exact h
      · intro y3 y4 y5 h2
        refine trigger_keeps ?_ ?_
        · exact h2
        · intro y7 h6
          refine setCl_keeps ?_ ?_
          · exact h6
          · intro hc
            extract_lets -merge -underBinder +onlyGivenNames x8
            exact ⟨((h6.inv hc).clu _).imem, ((h6.inv hc).clu _).plates, ((h6.inv hc).clu _).pc, ((h6.inv hc).clu _).loops⟩
    · refine keeps_ite ?_ ?_
      · refine trigger_keeps ?_ ?_
        · exact h
        · intro y10 h9
          exact clearUpd_keeps h9
      · refine keeps_ite ?_ ?_
        · refine setCl_keeps ?_ ?_
          · exact h
          · exact fun hc => ⟨((h.inv hc).clu _).imem, ((h.inv hc).clu _).plates, ((h.inv hc).clu _).pc, ((h.inv hc).clu _).loops⟩
        · refine keeps_ite ?_ ?_
          · refine trigger_keeps ?_ ?_
            · exact h
            · intro y12 h11
              exact cluResetWrite_keeps h11
          · refine keeps_ite ?_ ?_
            · exact coreWrite_keeps h
            · exact h

theorem computeWrite_keeps {r s} {a0 a1 a2 a3} (h : Keeps r s) : Keeps r (computeWrite a0 a1 a2 a3 s) := by
  unfold computeWrite
  extract_lets -merge -underBinder +onlyGivenNames x1
  refine keeps_ite ?_ ?_
  · exact clusterWrite_keeps h
  · refine keeps_ite ?_ ?_
    · exact setDie_keeps h
    · refine keeps_ite ?_ ?_
      · exact resupplyWrite_keeps h
      · refine keeps_ite ?_ ?_
        · refine trigger_keeps ?_ ?_
          · exact h
          · intro y3 h2
            exact effHbmErrClear_keeps h2
        · refine keeps_ite ?_ ?_
          · exact portWrite_keeps h
          · refine keeps_ite ?_ ?_
            · exact effCluCapWrite_keeps h
            · exact h

theorem applyWrite_keeps {r s} {a0 a1 a2} (h : Keeps r s) : Keeps r (applyWrite a0 a1 a2 s) := by
  unfold applyWrite
  split
  · exact h
  · refine keeps_ite ?_ ?_
    · exact hubWrite_keeps h
    · refine keeps_ite ?_ ?_
      · exact photWrite_keeps h
      · exact computeWrite_keeps h

theorem effRegisterWrite_keeps {r s} {a0 a1 a2} (h : Keeps r s) : Keeps r (effRegisterWrite a0 a1 a2 s) := by
  unfold effRegisterWrite
  extract_lets -merge -underBinder +onlyGivenNames x1
  refine keeps_ite ?_ ?_
  · exact h
  · refine keeps_ite ?_ ?_
    · exact effRegWr_keeps h
    · refine keeps_ite ?_ ?_
      · refine keeps_ite ?_ ?_
        · refine window_keeps ?_ ?_
          · exact h
          · intro y3 h2
            exact applyWrite_keeps h2
        · refine hostAccess_keeps ?_ ?_
          · exact h
          · intro y5 h4
            exact regAccess_keeps h4
      · refine hostAccess_keeps ?_ ?_
        · exact h
        · intro y7 h6
          exact regAccess_keeps h6

theorem effBadWidthAccess_keeps {r s} {a0 a1 a2 a3} (h : Keeps r s) : Keeps r (effBadWidthAccess a0 a1 a2 a3 s) := by
  unfold effBadWidthAccess
  refine keeps_ite ?_ ?_
  · exact h
  · refine keeps_ite ?_ ?_
    · refine hostAccess_keeps ?_ ?_
      · exact h
      · intro y2 h1
        exact touch_keeps (regAccess_keeps h1)
    · refine hostRead_keeps ?_ ?_
      · exact h
      · intro y4 h3
        exact emit_keeps (touch_keeps (regAccess_keeps h3))

theorem effMatReplayClear_keeps {r s} {a0} (h : Keeps r s) : Keeps r (effMatReplayClear a0 s) := by
  unfold effMatReplayClear
  refine keeps_ite ?_ ?_
  · refine window_keeps ?_ ?_
    · exact h
    · intro y2 h1
      exact coreWrite_keeps h1
  · exact h

theorem effVecSatClear_keeps {r s} {a0} (h : Keeps r s) : Keeps r (effVecSatClear a0 s) := by
  unfold effVecSatClear
  refine keeps_ite ?_ ?_
  · refine window_keeps ?_ ?_
    · exact h
    · intro y2 h1
      exact coreWrite_keeps h1
  · exact h

theorem effTestRun_keeps {r s} {a0} (h : Keeps r s) : Keeps r (effTestRun a0 s) := by
  unfold effTestRun
  refine keeps_ite ?_ ?_
  · refine window_keeps ?_ ?_
    · exact h
    · intro y2 h1
      exact coreWrite_keeps h1
  · exact h

theorem effUpdClear_keeps {r s} {a0} (h : Keeps r s) : Keeps r (effUpdClear a0 s) := by
  unfold effUpdClear
  refine keeps_ite ?_ ?_
  · refine window_keeps ?_ ?_
    · exact h
    · intro y2 h1
      exact clearUpd_keeps h1
  · exact h

theorem effCluReset_keeps {r s} {a0} (h : Keeps r s) : Keeps r (effCluReset a0 s) := by
  unfold effCluReset
  refine keeps_ite ?_ ?_
  · refine window_keeps ?_ ?_
    · exact h
    · intro y2 h1
      exact cluResetWrite_keeps h1
  · exact h

theorem effStackErrClear_keeps {r s} {a0} (h : Keeps r s) : Keeps r (effStackErrClear a0 s) := by
  unfold effStackErrClear
  refine keeps_ite ?_ ?_
  · refine window_keeps ?_ ?_
    · exact h
    · intro y2 h1
      exact effHbmErrClear_keeps h1
  · exact h

theorem effLdgResupply_keeps {r s} {a0 a1 a2} (h : Keeps r s) : Keeps r (effLdgResupply a0 a1 a2 s) := by
  unfold effLdgResupply
  extract_lets -merge -underBinder +onlyGivenNames x1
  refine keeps_ite ?_ ?_
  · refine window_keeps ?_ ?_
    · exact h
    · intro y3 h2
      exact resupplyWrite_keeps h2
  · exact h

theorem effCapWrite_keeps {r s} {a0 a1} (h : Keeps r s) : Keeps r (effCapWrite a0 a1 s) := by
  unfold effCapWrite
  refine keeps_ite ?_ ?_
  · refine window_keeps ?_ ?_
    · exact h
    · intro y2 h1
      exact effCluCapWrite_keeps h1
  · exact h

theorem photOp_keeps {r s} {a0 a1 a2 a3} (h : Keeps r s) (g4 : ∀ t, Keeps r t → Keeps r (a3 t)) : Keeps r (photOp a0 a1 a2 a3 s) := by
  unfold photOp
  refine keeps_ite ?_ ?_
  · refine window_keeps ?_ ?_
    · exact h
    · intro y2 h1
      refine g4 _ ?_
      exact h1
  · exact h

theorem effDropClear_keeps {r s} {a0} (h : Keeps r s) : Keeps r (effDropClear a0 s) := by
  unfold effDropClear
  refine photOp_keeps ?_ ?_
  · exact h
  · intro y2 h1
    exact effMerClearDrop_keeps h1

theorem effLinksClear_keeps {r s} {a0} (h : Keeps r s) : Keeps r (effLinksClear a0 s) := by
  unfold effLinksClear
  refine photOp_keeps ?_ ?_
  · exact h
  · intro y2 h1
    exact effClearLinks_keeps h1

theorem effLinkClear_keeps {r s} {a0} (h : Keeps r s) : Keeps r (effLinkClear a0 s) := by
  unfold effLinkClear
  refine keeps_ite ?_ ?_
  · refine photOp_keeps ?_ ?_
    · exact h
    · intro y2 h1
      exact effMerLinkClear_keeps h1
  · exact h

theorem effAbortRaise_keeps {r s} {a0 a1} (h : Keeps r s) : Keeps r (effAbortRaise a0 a1 s) := by
  unfold effAbortRaise
  refine photOp_keeps ?_ ?_
  · exact h
  · intro y2 h1
    exact effFabAbortRaise_keeps h1

theorem effFabDropClear_keeps {r s} {a0} (h : Keeps r s) : Keeps r (effFabDropClear a0 s) := by
  unfold effFabDropClear
  refine photOp_keeps ?_ ?_
  · exact h
  · intro y2 h1
    exact effFabClearDrop_keeps h1

theorem effSatClear_keeps {r s} {a0} (h : Keeps r s) : Keeps r (effSatClear a0 s) := by
  unfold effSatClear
  refine photOp_keeps ?_ ?_
  · exact h
  · intro y2 h1
    exact effClearSat_keeps h1

theorem effPortClear_keeps {r s} {a0 a1} (h : Keeps r s) : Keeps r (effPortClear a0 a1 s) := by
  unfold effPortClear
  refine keeps_ite ?_ ?_
  · exact h
  · extract_lets -merge -underBinder +onlyGivenNames x1
    refine window_keeps ?_ ?_
    · exact h
    · intro y3 h2
      exact effD2dPortClear_keeps h2

theorem effSelfRefreshTimeout_keeps {r s} {a0 a1} (h : Keeps r s) : Keeps r (effSelfRefreshTimeout a0 a1 s) := by
  unfold effSelfRefreshTimeout
  refine keeps_ite ?_ ?_
  · exact bar2Timeout_keeps h
  · refine keeps_ite ?_ ?_
    · exact heldTimeout_keeps h
    · refine keeps_ite ?_ ?_
      · exact compTimeout_keeps h
      · refine keeps_ite ?_ ?_
        · exact leaseTimeout_keeps h
        · refine keeps_ite ?_ ?_
          · exact runTimeout_keeps h
          · refine keeps_ite ?_ ?_
            · exact cellTimeout_keeps h
            · exact h

theorem pokeCore_keeps {r s} {a0 a1 a2} (h : Keeps r s) : Keeps r (pokeCore a0 a1 a2 s) := by
  unfold pokeCore
  refine keeps_ite ?_ ?_
  · exact h
  · refine setCore_keeps ?_ ?_
    · exact h
    · intro hc
      refine spadOk_foldl (fun k1 x2 h3 => ?_) ?_
      · extract_lets -merge -underBinder +onlyGivenNames x4
        refine spadWrite_ok ?_
        exact (fun _ => h3) hc
      · exact (h.inv hc).spad _

theorem pokePlates_keeps {r s} {a0 a1 a2} (h : Keeps r s) : Keeps r (pokePlates a0 a1 a2 s) := by
  unfold pokePlates
  refine keeps_ite ?_ ?_
  · exact h
  · refine setCl_keeps ?_ ?_
    · exact h
    · intro hc
      refine cluOk_foldl (fun k1 x2 h3 => ?_) ?_
      · extract_lets -merge -underBinder +onlyGivenNames x4
        refine plateWrite_ok ?_
        exact (fun _ => h3) hc
      · exact (h.inv hc).clu _

theorem pokeImem_keeps {r s} {a0 a1 a2} (h : Keeps r s) : Keeps r (pokeImem a0 a1 a2 s) := by
  unfold pokeImem
  refine keeps_ite ?_ ?_
  · exact h
  · refine setCl_keeps ?_ ?_
    · exact h
    · intro hc
      extract_lets -merge -underBinder +onlyGivenNames x1
      refine ⟨?_, ?_, ?_, ?_⟩
      · refine Mem.wf_writes _ _ ?_
        exact ((h.inv hc).clu _).imem
      · exact ((h.inv hc).clu _).plates
      · exact ((h.inv hc).clu _).pc
      · exact ((h.inv hc).clu _).loops

theorem pokeHbm_keeps {r s} {a0 a1} (h : Keeps r s) : Keeps r (pokeHbm a0 a1 s) := by
  unfold pokeHbm
  refine keeps_ite ?_ ?_
  · exact h
  · exact bar2Sectors_keeps h

theorem haltUnit_keeps {r s} {a0 a1} (h : Keeps r s) : Keeps r (haltUnit a0 a1 s) := by
  unfold haltUnit
  refine keeps_ite ?_ ?_
  · refine setCl_keeps ?_ ?_
    · exact h
    · intro hc
      extract_lets -merge -underBinder +onlyGivenNames x1
      exact ⟨((h.inv hc).clu _).imem, ((h.inv hc).clu _).plates, ((h.inv hc).clu _).pc, ((h.inv hc).clu _).loops⟩
  · refine keeps_ite ?_ ?_
    · refine keeps_frame ?_
      exact h
    · exact h

theorem effDebugPortAccess_keeps {r s} {a0 a1 a2 a3 a4 a5} (h : Keeps r s) : Keeps r (effDebugPortAccess a0 a1 a2 a3 a4 a5 s) := by
  unfold effDebugPortAccess
  refine keeps_ite ?_ ?_
  · refine keeps_ite ?_ ?_
    · refine keeps_ite ?_ ?_
      · exact compAsk_keeps h
      · extract_lets -merge -underBinder +onlyGivenNames x1
        have h2 : Keeps r x1.2 := readReg_keeps h
        clear_value x1
        exact emit_keeps h2
    · exact h
  · refine keeps_ite ?_ ?_
    · exact h
    · refine keeps_ite ?_ ?_
      · refine keeps_ite ?_ ?_
        · extract_lets -merge -underBinder +onlyGivenNames x3 x4
          have h5 : Keeps r x4 := by
            refine effRegisterWrite_keeps ?_
            refine keeps_frame ?_
            exact h
          clear_value x4
          refine keeps_frame ?_
          exact h5
        · exact h
      · refine keeps_ite ?_ ?_
        · exact pokeCore_keeps h
        · refine keeps_ite ?_ ?_
          · exact pokePlates_keeps h
          · refine keeps_ite ?_ ?_
            · exact pokeImem_keeps h
            · refine keeps_ite ?_ ?_
              · exact pokeHbm_keeps h
              · refine keeps_ite ?_ ?_
                · exact haltUnit_keeps h
                · refine keeps_ite ?_ ?_
                  · exact haltUnit_keeps h
                  · refine keeps_ite ?_ ?_
                    · exact haltUnit_keeps h
                    · exact h

theorem effCounterRead_keeps {r s} {a0} (h : Keeps r s) : Keeps r (effCounterRead a0 s) := by
  unfold effCounterRead
  refine hostRead_keeps ?_ ?_
  · exact h
  · intro y2 h1
    exact effCounterLowRead_keeps (touch_keeps h1)

end Sys2Proof.Machine
end

