-- ==== Sys2Proof/Laws/KeepsMeanTiers.lean ====
section
/-! SUPPORT. KeepsMeanTiers: what the functions of Machine/MeanTiers.lean keep. -/

namespace Sys2Proof.Machine

theorem ungateTiles_keeps {r s} {a0} (h : Keeps r s) : Keeps r (ungateTiles a0 s) := by
  unfold ungateTiles
  refine keeps_foldl (fun s1 x2 h3 => ?_) ?_
  · refine keeps_ite ?_ ?_
    · exact ungate_keeps h3
    · exact h3
  · exact h

end Sys2Proof.Machine
end

