-- ==== Sys2Proof/Laws/KeepsTick.lean ====
section
/-! SUPPORT. KeepsTick: what the functions of Machine/Tick.lean keep. -/

namespace Sys2Proof.Machine

theorem measureLinks_keeps {r s} (h : Keeps r s) : Keeps r (measureLinks s) := by
  unfold measureLinks
  refine keeps_ite ?_ ?_
  · exact h
  · refine keeps_foldl (fun s1 x2 h3 => ?_) ?_
    · extract_lets -merge -underBinder +onlyGivenNames x4
      refine keeps_ite ?_ ?_
      · exact h3
      · split
        · rename_i s5 e6
          have h7 : Keeps r s5 := by
            refine keeps_snd e6 ?_
            exact drawWord_keeps h3
          exact setLink_keeps h7
    · exact h

theorem tick_keeps {r s} (h : Keeps r s) : Keeps r (tick s) := by
  unfold tick
  refine keeps_ite ?_ ?_
  · refine pushEvent_keeps ?_
    refine commitBit_keeps ?_
    refine measureLinks_keeps ?_
    refine retireWrites_keeps ?_
    refine keeps_frame ?_
    exact h
  · exact h

end Sys2Proof.Machine
end

