-- ==== Sys2Proof/Machine/Lands.lean ====
section
/-! DEFINITION. Lands: the land field, the signal lands and the levels that the package drives on them, and the fibres of
the attach units (chapter 17). -/

namespace Sys2Proof.Machine

inductive PinDir where
  | inp | outp | both | inside
deriving DecidableEq, Repr

inductive PinType where
  | cmos | openDrain | strap | pcie | analog | substrate
deriving DecidableEq, Repr

/-- A row of Table 17.2: a signal or bus, its width, whether each bit is a pair, direction and type. -/
structure Bus where
  name : String
  width : Nat
  pair : Bool
  dir : PinDir
  typ : PinType
deriving DecidableEq, Repr

/-- Table 17.2. -/
def buses : List Bus :=
  [⟨"HOST_TX", 8, true, .outp, .pcie⟩, ⟨"HOST_RX", 8, true, .inp, .pcie⟩, ⟨"HOST_REFCLK", 1, true, .inp, .pcie⟩,
   ⟨"PERST_N", 1, false, .inp, .cmos⟩, ⟨"STP_TX", 8, true, .outp, .pcie⟩, ⟨"STP_RX", 8, true, .inp, .pcie⟩,
   ⟨"STP_REFCLK", 1, true, .outp, .pcie⟩, ⟨"STP_PERST_N", 1, false, .outp, .cmos⟩, ⟨"REF25", 1, false, .inp, .cmos⟩,
   ⟨"AO_PWRGD", 1, false, .inp, .cmos⟩, ⟨"PWR_SHDN_N", 1, false, .outp, .openDrain⟩,
   ⟨"THERMTRIP_N", 1, false, .outp, .openDrain⟩, ⟨"HBM_PG", 3, false, .inp, .cmos⟩, ⟨"MGT_SCL", 1, false, .both, .cmos⟩,
   ⟨"MGT_SDA", 1, false, .both, .cmos⟩, ⟨"MGT_ADDR", 3, false, .inp, .strap⟩, ⟨"XSPI_CS_N", 1, false, .outp, .cmos⟩,
   ⟨"XSPI_SCK", 1, false, .outp, .cmos⟩, ⟨"XSPI_DQS", 1, false, .inp, .cmos⟩, ⟨"XSPI_DQ", 8, false, .both, .cmos⟩,
   ⟨"XSPI_RESET_N", 1, false, .outp, .cmos⟩, ⟨"DBG_TCK", 1, false, .inp, .cmos⟩, ⟨"DBG_TMS", 1, false, .inp, .cmos⟩,
   ⟨"DBG_TDI", 1, false, .inp, .cmos⟩, ⟨"DBG_TDO", 1, false, .outp, .cmos⟩, ⟨"DEV_ID", 6, false, .inp, .strap⟩,
   ⟨"DOM_ID", 4, false, .inp, .strap⟩, ⟨"COMP_LIMIT", 2, false, .inp, .strap⟩, ⟨"LASER_EN_N", 4, false, .outp, .openDrain⟩,
   ⟨"LASER_LOW_N", 4, false, .outp, .openDrain⟩, ⟨"COMB_LOCK", 1, false, .inp, .cmos⟩,
   ⟨"COMB_ALARM_N", 1, false, .inp, .cmos⟩, ⟨"COMP_PRESENT_N", 1, false, .inside, .substrate⟩,
   ⟨"VIN_SENSE", 4, true, .outp, .analog⟩]

/-- A signal: its bus, its bit, and whether it is the N land of a pair. -/
abbrev Signal := String × Nat × Bool

/-- The signals of a bus from its highest bit down, P before N (R567). -/
def busSignals (b : Bus) : List Signal :=
  ((List.range b.width).reverse.map (fun i => if b.pair then [(b.name, i, false), (b.name, i, true)] else [(b.name, i, false)])).flatten

/-- The 129 signals in the order of their lands. -/
def signals : List Signal := (buses.map busSignals).flatten

inductive Net where
  | vin | vhbm11 | vhbm04 | vhbm18 | vao08 | vao18 | vcomp | gnd | reserved
  | signal (x : Signal)
deriving DecidableEq, Repr

/-- The nets of quadrant `d` in the order of Table 17.1, with the number of lands of each. -/
def quadrantNets (d : Nat) : List (Net × Nat) :=
  [(.vin, 640), (.vhbm11, 144), (.vhbm04, 96), (.vhbm18, 24)]
  ++ (if d = 2 then [(.vao08, 16), (.vao18, 16)] else []) ++ (if d = 3 then [(.vcomp, 96)] else [])

/-- The net of the `i`-th land, from 0, of a list of nets; GND when they are used up. -/
def netAt (i : Nat) : List (Net × Nat) → Net
  | [] => .gnd
  | (n, k) :: r => if i < k then n else netAt (i - k) r

/-- The quadrant of a land below the signal region, and its count there (R568). -/
def landCount (row col : Nat) : Nat × Nat :=
  let west := decide (col ≤ 60)
  let north := decide (row ≤ 49)
  let down := if north then 49 - row else row - 50
  let along := if west then 60 - col else col - 61
  ((if north then 0 else 2) + (if west then 0 else 1), 60 * down + along + 1)

/-- The net of the land at a row and column, both from 1 (R566-R568). -/
def landNet (row col : Nat) : Option Net :=
  if row < 1 ∨ 96 < row ∨ col < 1 ∨ 120 < col then none
  else if row ≤ 2 then
    let i := 120 * (row - 1) + (col - 1)
    match signals[i]? with
    | some x => some (.signal x)
    | none => some (if i < 129 + 95 then .reserved else .gnd)
  else
    let (d, k) := landCount row col
    some (if k % 2 = 1 then .gnd else netAt (k / 2 - 1) (quadrantNets d))

/-- The level of a signal of one land that the package drives, high as true (R361, R513, R573); `none` where the manual
gives no rule for it. -/
def drives (s : State) (x : Signal) : Option Bool :=
  let fibre := fun (f : Nat) => s.mer.fibre.get Fibre.reset f
  match x.1 with
  | "PWR_SHDN_N" => some s.pwr.shdnHigh
  | "THERMTRIP_N" => some (!s.pwr.tripLow)
  | "LASER_EN_N" => some (fibre x.2.1).enHigh
  | "LASER_LOW_N" => some (!(fibre x.2.1).lowLow)
  | _ => none

/-- The attach unit that serves an optical link, and the link's number in it (R575). -/
def fauOf (p : Nat) : Nat × Nat := (2 * (p % 2) + p / 2 / 16, p / 2 % 16)

/-- The positions of a link's transmit and receive fibres in the data connector, as row and position (R576). -/
def fibreAt (p : Nat) (tx : Bool) : Nat × Nat := (if tx then 1 else 2, (fauOf p).2 + 1)

end Sys2Proof.Machine
end

