-- ==== Sys2Proof/Tests/Slice0.lean ====
section
/-! SUPPORT. Slice0: tests of the operand checks, states that meet the hypotheses of the statements, and single steps whose
results the manual states. -/

namespace Sys2Proof.Tests

open Sys2Proof Sys2Proof.Machine

set_option Elab.async false

/-! ### States and operands of the tests -/

/-- A package in service that the host reaches. -/
def host : State :=
  { State.reset with
    pci := { Pci.reset with linkUp := true, mse := true, bme := true, ready := true, perstHigh := true }
    boot := { Boot.reset with ready := true, kind := 1, stage := 0xC }
    pwr := { Power.reset with aoPwrGd := true, shdnHigh := true }
    recipe := [(0, 0x15#32), (1, 0x25#32), (2, 0x35#32), (3, 0x45#32), (4, 0x55#32), (5, 0x04#32)] }

theorem host_dies (s : State) (hd : s.die = []) (hp : s.mer.phot = []) (d : Nat) : dieAway s d = false := by
  unfold dieAway dieOf photOf
  rw [hd, hp]
  split
  · rfl
  · split <;> rfl

theorem reaches_of (s : State) (h : (!s.mgt.viaDebug && s.pci.linkUp && !s.pci.ideBlocked && s.pci.mse && ideOk s && s.boot.ready) = true)
    (hd : ∀ d, dieAway s d = false) : HostReaches s := by
  simp only [Bool.and_eq_true, Bool.not_eq_true'] at h
  exact ⟨h.1.1.1.1.1, h.1.1.1.1.2, h.1.1.1.2, h.1.1.2, h.1.2, h.2, hd⟩

theorem test_host_reaches : HostReaches host := reaches_of _ (by decide) (host_dies host rfl rfl)

/-- A 128-bit instruction word made of fields: low bit, length, value. -/
def word (fs : List (Nat × Nat × Nat)) : W128 := BitVec.ofNat 128 (fs.foldl (fun n f => n + f.2.2 % 2 ^ f.2.1 * 2 ^ f.1) 0)
/-- A 512-bit command word made of fields. -/
def cword (fs : List (Nat × Nat × Nat)) : W512 := BitVec.ofNat 512 (fs.foldl (fun n f => n + f.2.2 % 2 ^ f.2.1 * 2 ^ f.1) 0)

/-- The program of command 0 of stream 0, running. -/
def prog0 : Prog :=
  { cmd := 0, strm := 0, tag := 1, group := 0, failed := false, armed := [], ending := 0, trapPc := 0, trapLane := 0, trapOp := 0,
    trapTile := 0, trapD1 := 0, trapD2 := 0, trapD3 := 0 }

/-- `host` with cluster 0 running a program, changed by `f`. -/
def withClu (f : Cluster → Cluster) : State := setCl host 0 (f { Cluster.reset with seq := 1, prog := some prog0, gated := false })
/-- Cluster 0 of a running program at the instruction `w`. -/
def atIns (w : W128) (f : Cluster → Cluster) : State :=
  withClu (fun c => f { c with imem := Mem.writes [] 0 (leBytes 16 w.toNat) })

/-- The conditions of `At`, to be evaluated. -/
def atB (s : State) (cl : Nat) (w : W128) (cls op : Nat) : Bool :=
  decide (cl < 32) && running s cl && decide (curWord (clOf s cl) = w) && decide (iClass w = cls) && decide (iOp w = op)
theorem at_of {s : State} {cl : Nat} {w : W128} {cls op : Nat} (h : atB s cl w cls op = true) : At s cl w cls op := by
  simp only [atB, Bool.and_eq_true, decide_eq_true_eq] at h
  exact ⟨h.1.1.1.1, h.1.1.1.2, h.1.1.2, h.1.2, h.2⟩

/-- An instruction word of a class and opcode, with fields. -/
def ins (cls op : Nat) (fs : List (Nat × Nat × Nat)) : W128 := word ([(124, 4, cls), (116, 8, op)] ++ fs)

/-! ### The sequencer -/

/-- Every scalar instruction with RD 0 and RD 63. -/
theorem test_scalar_hypotheses : scalarOps.all (fun p => [0, 63].all (fun rd =>
    let w := ins 0 p.2.1 [(110, 6, rd)]
    atB (atIns w id) 0 w 0 p.2.1 && onlyFields w p.2.2 && decide ((endIns 0 []).1 < 0x4000))) = true := by decide +kernel

/-- Every instruction of the sequencer. -/
theorem test_seq_hypotheses : seqOps.all (fun p =>
    let w := ins p.2.1 p.2.2 []
    atB (atIns w id) 0 w p.2.1 p.2.2) = true := by decide +kernel

/-- SRD of SELECT 0x00, 0x01, 0x0C and 0x0D. -/
theorem test_srd_hypotheses : [0x00, 0x01, 0x0C, 0x0D].all (fun n =>
    let w := ins 0 0x18 [(110, 6, 5), (0, 8, n)]
    atB (atIns w id) 0 w 0 0x18 && onlyFields w (sFields true false false 8) && decide (fld w 0 8 = n)) = true := by decide +kernel

/-- SLD and SST at the last plate word, and just past it and unaligned. -/
theorem test_plate_hypotheses : [(0x17FFFF8, true), (0x1800000, false), (0x17FFFF4, false)].all (fun x =>
    let l := ins 0 0x20 [(110, 6, 1), (0, 64, x.1)]
    let t := ins 0 0x21 [(98, 6, 1), (0, 64, x.1)]
    atB (atIns l id) 0 l 0 0x20 && onlyFields l (sFields true true false 64) && atB (atIns t id) 0 t 0 0x21
    && onlyFields t (sFields false true true 64) && decide ((clOf (atIns t id) 0).plates.wf = true)
    && !(tileWaits (clOf (atIns l id) 0)) && !(tileWaits (clOf (atIns t id) 0))
    && (!x.2 || !(plateBad (clOf (atIns l id) 0) (x.1 / 64)))
    && decide ((plateAddr (clOf (atIns l id) 0) l % 8 = 0 ∧ plateAddr (clOf (atIns l id) 0) l < 0x1800000) ↔ x.2 = true)
    && decide ((plateAddr (clOf (atIns t id) 0) t % 8 = 0 ∧ plateAddr (clOf (atIns t id) 0) t < 0x1800000) ↔ x.2 = true)) = true := by
  decide +kernel

/-- NOP, J, JAL and JR to the last instruction of page 63, and the branches. -/
theorem test_jump_hypotheses :
    ([((0x00 : Nat), sFields false false false 0), (0x01, sFields false false false 14), (0x02, sFields true false false 14)].all (fun p =>
      let w := ins 1 p.1 (if p.1 = 0 then [] else [(0, 14, 0x3FFF)])
      atB (atIns w id) 0 w 1 p.1 && onlyFields w p.2)
    && (let w := ins 1 0x03 [(104, 6, 9)]
        let s := atIns w (fun c => { c with sreg := [(9, 0x3FFF#64)] })
        atB s 0 w 1 0x03 && onlyFields w (sFields false true false 0) && decide ((sreg (clOf s 0) (iRA w)).toNat < 0x4000))
    && [0x08, 0x09, 0x0A, 0x0B, 0x0C, 0x0D].all (fun op =>
      let w := ins 1 op [(104, 6, 1), (98, 6, 2), (0, 14, 0x3FFF)]
      atB (atIns w id) 0 w 1 op && onlyFields w (sFields false true true 14))) = true := by decide +kernel

/-- HALT without and with a reserved bit, and a program that has stopped issuing. -/
theorem test_halt_hypotheses :
    (let w := ins 1 0x0F []
     let r := ins 1 0x0F [(0, 1, 1)]
     atB (atIns w id) 0 w 1 0x0F && onlyFields w (sFields false false false 0) && atB (atIns r id) 0 r 1 0x0F
     && !(onlyFields r (sFields false false false 0)) && decide ((clOf (atIns w id) 0).prog = some prog0)
     && decide ((clOf (withClu (fun c => { c with prog := some { prog0 with ending := 1 } })) 0).prog = some { prog0 with ending := 1 })
     && atBoundary (withClu (fun c => { c with prog := some { prog0 with ending := 1 } })) 0) = true := by decide +kernel

/-- LOOP and LOOPI of count 0 and of the largest count with three levels active, and LEXIT. -/
theorem test_loop_hypotheses :
    (let lv := [LoopLvl.mk 0 0x3FFF 1 0, LoopLvl.mk 0 0x3FFF 2 0, LoopLvl.mk 0 0x3FFF 3 0]
     ([0, 0xFFFFFFFF].all (fun n =>
       let w := ins 2 0x01 [(104, 6, 3), (0, 14, 0x3FFF)]
       let v := ins 2 0x02 [(16, 32, n), (0, 14, 0x3FFF)]
       let s := atIns w (fun c => { c with loops := lv, sreg := [(3, BitVec.ofNat 64 n)] })
       let t := atIns v (fun c => { c with loops := lv })
       atB s 0 w 2 0x01 && onlyFields w (sFields false true false 14) && decide ((sreg (clOf s 0) (iRA w)).toNat = n ∧ n < 2 ^ 32)
       && decide ((clOf s 0).pc < iTarget w ∧ (clOf s 0).loops.length < 4) && decide (∀ x ∈ (clOf s 0).loops.head?, iTarget w ≤ x.stop)
       && atB t 0 v 2 0x02 && onlyFields v (sFields false false false 14 ++ [(16, 32)]) && decide (fld v 16 32 = n)
       && decide ((clOf t 0).pc < iTarget v ∧ (clOf t 0).loops.length < 4) && decide (∀ x ∈ (clOf t 0).loops.head?, iTarget v ≤ x.stop)))
     && (let w := ins 2 0x03 []
         atB (atIns w (fun c => { c with loops := lv })) 0 w 2 0x03 && onlyFields w (sFields false false false 0)
         && decide ((clOf (atIns w (fun c => { c with loops := lv })) 0).loops = LoopLvl.mk 0 0x3FFF 1 0 :: lv.tail))) = true := by
  decide +kernel

/-- A NOP that is followed within page 63, and one at its end. -/
theorem test_run_off_hypotheses : [(0x3FFE, true), (0x3FFF, false)].all (fun x =>
    let w := ins 1 0x00 []
    let s := withClu (fun c => { c with pc := x.1, imem := Mem.writes [] (x.1 / 256 * 0x1000 + x.1 % 256 * 16) (leBytes 16 w.toNat) })
    atB s 0 w 1 0x00 && onlyFields w (sFields false false false 0)
    && decide ((endIns (clOf s 0).pc (clOf s 0).loops).1 < 0x4000 ↔ x.2 = true)) = true := by decide +kernel

/-- Instructions of class 8 and 15, and of an opcode that class 0 and class 7 do not list. -/
theorem test_unknown_hypotheses :
    ([8, 15].all (fun c => let w := ins c 0 []
      decide (running (atIns w id) 0 = true ∧ curWord (clOf (atIns w id) 0) = w ∧ 8 ≤ iClass w))
    && [(0, 0x00), (7, 0x07)].all (fun p => let w := ins p.1 p.2 []
      decide (running (atIns w id) 0 = true ∧ curWord (clOf (atIns w id) 0) = w ∧ iClass w < 8 ∧ knownIns (iClass w) (iOp w) = false))) = true := by
  decide +kernel

/-- A word of each lane instruction that passes its checks. -/
def laneWord (op : Nat) (cls lmask : Nat) : W128 :=
  ins cls op ([(108, 8, lmask)] ++
    (if cls = 3 then [(32, 16, 1)]
     else if cls = 4 then [(59, 4, 5), (55, 4, 5), (51, 4, 5), (32, 16, 64)] ++ (if op = 2 then [(0, 8, 0x55)] else [])
     else if op = 0x50 then [(48, 3, 1), (90, 6, 1), (78, 6, 2)]
     else match vUse op with
       | some u => [(60, 3, 5), (57, 3, if u.2.1 = 0 then 6 else 5), (54, 3, if u.2.2 = 0 then 6 else 5), (51, 3, 1)]
       | none => []))

/-- The checks of a lane instruction, to be evaluated. -/
def lanePasses (s : State) (w : W128) (checks : State → List Nat → QIns → List (Bool × Nat)) : Bool :=
  decide (firstSkip ((tokBusy s 0 w, 0x46) :: overLanes (laneEntries s 0 w)
    (mkQ s 0 w (if (clOf s 0).chainOpen then (clOf s 0).chainNo else (clOf s 0).chainNo + 1) 0) (checks s (clOf s 0).chainSet)) = none)

/-- VCFG reads a pattern from s1 and s2. -/
def vcfgReg (c : Cluster) : Cluster := { c with sreg := [(1, 0x0000_0001_0000_700B#64), (2, 0xB#64)] }

/-- Every lane instruction with all lanes and with no lane, and with a full queue. -/
theorem test_lane_hypotheses : laneOps.all (fun p => [0xFF, 0x00].all (fun m =>
    let w := laneWord p.2.2.1 p.2.1 m
    atB (atIns w vcfgReg) 0 w p.2.1 p.2.2.1 && lanePasses (atIns w vcfgReg) w p.2.2.2.2
    && !(anyFull (atIns w vcfgReg) 0 w (maskLanes (effMask (clOf (atIns w vcfgReg) 0) w)))
    && decide (maskLanes (effMask (clOf (atIns w vcfgReg) 0) w) = [] ↔ m = 0))) = true := by decide +kernel

theorem test_lane_full_hypotheses :
    (let w := laneWord 0x01 5 0xFF
     let q := mkQ (atIns w id) 0 w 1 0
     let s := setCore (atIns w id) 0 { Core.reset with qV := List.replicate 8 q }
     atB s 0 w 5 0x01 && lanePasses s w vecChecks && anyFull s 0 w (maskLanes (effMask (clOf s 0) w))
     && decide (laneCore (clOf s 0) 0 0 = some 0 ∧ laneCore (clOf s 0) 0 7 = some 7)) = true := by decide +kernel

/-! ### Operand checks: each refuses the first value out of range -/

/-- A cell whose fields are all at their largest. -/
def bigCell : Cell :=
  { src := 1023, dst := 1023, plane := 63, typ := 15, epoch := 255, flow := 65535, seq := 4095, off := 2 ^ 24 - 1
    lines := List.replicate 4 (List.replicate 64 0), tags := [7, 7, 7, 7] }

theorem test_wf_units :
    [Instr.nop 63 [63], .add 31 false, .entryRelease 287, .hbmErrClear 11, .ephemerisTake 3, .clearSat 6, .linkRetry 63, .d2dPortClear 6 6,
     .controllerResetEnd 3 true, .zeroise 3, .regRd 0 4, .regRd 0 8, .entryIssue 0 [⟨0, 71, 1, 0⟩], .unknownCellType 0].all Instr.wellFormed = true
    ∧ [Instr.nop 64 [], .nop 0 [64], .add 32 false, .entryRelease 288, .hbmErrClear 12, .ephemerisTake 4, .clearSat 4, .clearSat 7, .linkRetry 64,
       .d2dPortClear 7 0, .d2dPortClear 0 7, .controllerResetEnd 4 true, .zeroise 0, .zeroise 4, .regRd 0 2, .entryIssue 0 [⟨0, 72, 1, 0⟩]].all
        (fun c => !c.wellFormed) = true := by decide

theorem test_wf_cells :
    (Instr.abortCell 0 bigCell).wellFormed = true
    ∧ [{ bigCell with src := 1024 }, { bigCell with dst := 1024 }, { bigCell with plane := 64 }, { bigCell with typ := 16 }, { bigCell with epoch := 256 },
       { bigCell with flow := 65536 }, { bigCell with seq := 4096 }, { bigCell with off := 2 ^ 24 }, { bigCell with lines := List.replicate 5 (List.replicate 64 0) },
       { bigCell with lines := [List.replicate 63 0] }, { bigCell with tags := [8] }].all (fun c => !(Instr.abortCell 0 c).wellFormed) = true := by decide +kernel

theorem test_wf_events :
    [Instr.laneInstructionStart 0 3 none, .laneInstructionComplete 0 3 none [] true, .overflowReplay 287 1 (some (256, 3)), .eventFire 0 65535 3,
     .selfRefreshTimeout 5 0, .ack 1023 0, .credit 1023 0,
     .lost 1023 0, .misroute 1023 0, .abortRewriteDone 65535, .quietPeriodEnd 65535, .silenceMute 15 63, .muteResume 15 63, .combFibreDrop 3 0,
     .combProbe 3 true 0, .linkTrained true 6 8, .bar2Resize 30, .bar2Resize 40, .msixUnmask 63, .tokenWatchWrite 63 4 4 0, .sensorSample 38 [0, 0, 0, 0],
     .thermalTrip 6 0, .railSample [0, 0, 0, 0], .regulatorOvervoltage 35 0, .regulatorFault 35 0 0, .clockLockLoss 7 6, .die 15,
     .dieResetComplete 6 true [] [] [] [] [⟨63, 63, 1023⟩], .debugPortAccess 9 0 0 1 0 [], .debugPortAccess 1 0 0 4 0 [],
     .dieLinks true [] 32 [], .optical [] [] (some 1023) [], .storage true true 6 8 [], .setRecipe 0 [] [⟨0, 71, 1, 2⟩]].all Instr.wellFormed = true
    ∧ [Instr.laneInstructionStart 0 4 none, .laneInstructionComplete 0 4 none [] false, .overflowReplay 0 2 none, .overflowReplay 0 0 (some (257, 0)),
       .overflowReplay 0 0 (some (0, 4)), .eventFire 0 65536 0, .eventFire 0 0 4, .selfRefreshTimeout 6 0, .ack 1024 0,
       .credit 1024 0, .lost 1024 0, .misroute 1024 0, .abortRewriteDone 65536, .quietPeriodEnd 65536, .silenceMute 16 0, .silenceMute 0 64,
       .muteResume 16 0, .muteResume 0 64, .combFibreDrop 4 0, .combProbe 4 true 0, .linkTrained true 0 8, .linkTrained true 7 8, .linkTrained true 6 3,
       .bar2Resize 29, .bar2Resize 41, .msixUnmask 64, .tokenWatchWrite 64 0 8 0, .tokenWatchWrite 0 8 8 0, .tokenWatchWrite 0 0 2 0,
       .sensorSample 35 [0, 0, 0, 0], .sensorSample 39 [0, 0, 0, 0], .sensorSample 0 [0], .thermalTrip 7 0, .railSample [0], .regulatorOvervoltage 36 0,
       .regulatorFault 36 0 0, .clockLockLoss 0 0, .clockLockLoss 8 0, .clockLockLoss 1 7, .die 16, .dieResetComplete 4 true [] [] [] [] [],
       .dieResetComplete 0 true [] [] [] [] [⟨64, 0, 0⟩], .calibrationEnd 0 true 0 [⟨0, 64, 0⟩], .optical [] [] none [⟨0, 0, 1024⟩],
       .debugPortAccess 10 0 0 4 0 [], .debugPortAccess 1 0 0 2 0 [], .dieLinks true [] 5 [], .optical [] [] (some 1024) [], .storage true true 0 8 [],
       .storage true true 7 8 [], .storage true true 1 3 [], .setRecipe 0 [] [⟨0, 71, 1, 3⟩]].all (fun c => !c.wellFormed) = true := by decide

/-! ### Units, tokens and the engines of a core -/

/-- The flow context of id 7: KIND 1, one member of index 0 (this package), 16 lines. -/
def putCtx : Ctx := Ctx.fresh ([0x10001#32, 0#32, 16#32] ++ List.replicate 45 0#32)
/-- The context of id 7 with another KIND. -/
def kindCtx (k : Nat) : Ctx := Ctx.fresh ([BitVec.ofNat 32 (0x10000 + k), 0#32, 16#32] ++ List.replicate 45 0#32)

/-- `UnitChecks`, and `UnitFree` of a queue of `n`, to be evaluated. -/
def unitB (s : State) (w : W128) (fs : List (Nat × Nat)) (more : List (Bool × Nat)) : Bool :=
  decide (firstSkip ([(tokBusy s 0 w, 0x46),
    (!(onlyFields w (bCommon w ++ fs)) || wengBad w || decide (iLmask w ≠ 0xFF), 0x42)] ++ more) = none)
def freeB (s : State) (w : W128) (n : Nat) : Bool := waitsMet s 0 w (effMask (clOf s 0) w) && decide (n < 8)
/-- An instruction in the queue of a unit. -/
def unitIns (w : W128) : UIns := { iid := 4, word := w, pc := 0, a := 0, b := 0, c := 0, mask := 0xFF, epoch := 0 }

/-- TMOVE of 1 and of 4,096 records, LEVENT, UPD of 128 elements, FPUT, FCOLL, FBAR and FABORT, with their unit's queue
empty and full; the fabric instructions with no lane too. -/
theorem test_unit_hypotheses :
    ([1, 4096].all (fun n =>
      let w := ins 3 3 [(108, 8, 0xFF), (32, 16, n)]
      [0, 8].all (fun m =>
        let s := atIns w (fun c => { c with mover := List.replicate m (unitIns w) })
        atB s 0 w 3 3 && unitB s w [(90, 6), (32, 16)] [(decide (iI0 w < 1 ∨ 4096 < iI0 w), 0x42)]
        && (freeB s w (clOf s 0).mover.length == decide (m = 0))))
    && (let w := ins 3 4 [(108, 8, 0xFF), (32, 16, 0xFFFF), (96, 2, 3)]
        [0, 8].all (fun m =>
          let s := atIns w (fun c => { c with mover := List.replicate m (unitIns w) })
          atB s 0 w 3 4 && unitB s w [(32, 16), (96, 2)] [] && (freeB s w (clOf s 0).mover.length == decide (m = 0))))
    && (let w := ins 3 8 [(108, 8, 0xFF), (32, 16, 1), (84, 6, 2)]
        [0, 8].all (fun m =>
          let s := atIns w (fun c => { c with sreg := [(2, 128#64)], updQ := List.replicate m (unitIns w) })
          atB s 0 w 3 8 && unitB s w [(90, 6), (84, 6), (78, 6), (32, 16), (16, 16)] (updChecks s (clOf s 0) w)
          && (freeB s w (clOf s 0).updQ.length == decide (m = 0))))
    && [(1, 1), (2, 1), (3, 4), (4, 1)].all (fun p => [(0x01, 0), (0x01, 8), (0, 0)].all (fun x =>
        let w := ins 6 p.1 [(108, 8, x.1), (32, 16, 7), (78, 6, if p.1 = 1 then 3 else 0)]
        let s := setCtx (atIns w (fun c => { c with sreg := [(3, 64#64)], fabQ := List.replicate x.2 (unitIns w) })) 7 (kindCtx p.2)
        atB s 0 w 6 p.1 && decide (firstSkip (fabChecks s 0 w) = none) && decide (effMask (clOf s 0) w ≠ 0 ↔ x.1 ≠ 0)
        && (x.1 = 0 || (freeB s w (clOf s 0).fabQ.length == decide (x.2 = 0)))))) = true := by decide +kernel

/-- TWAIT of a DONE token, TARM of an IDLE one, TPOST of the states 2 and 4 to a PENDING one, TREL of one token and of
all 256, QFENCE and PFENCE. -/
theorem test_sync_hypotheses :
    ((let w := ins 7 1 [(108, 8, 0xFF), (32, 16, 0x8000), (16, 16, 0xFFFF), (0, 16, 0xFFFF)]
      let s := setTok 0x8000 .done false (atIns w id)
      atB s 0 w 7 1 && !(tokBusy s 0 w) && decide (iLmask w = 0xFF) && onlyFields w [(124, 4), (116, 8), (108, 8), (0, 48)]
      && decide (∀ i ∈ twaitIds w, (isHubTok i || isCluTok i) = true ∧ seenTok (clOf s 0).seen i s = .done))
    && (let w := ins 7 2 [(108, 8, 0xFF), (32, 16, 0xFF)]
        let s := atIns w id
        atB s 0 w 7 2 && !(tokBusy s 0 w) && decide (iLmask w = 0xFF)
        && onlyFields w ([(124, 4), (116, 8), (108, 8)] ++ (tvFields w ++ [(32, 8)]))
        && decide (seenTok (clOf s 0).seen (actTok 0 w) s ≠ .pending ∧ (clOf s 0).prog = some prog0))
    && [2, 4].all (fun n =>
        let w := ins 7 3 [(108, 8, 0xFF), (32, 16, 0xFF), (16, 16, n)]
        let s := setTok 0xFF .pending false (atIns w id)
        atB s 0 w 7 3 && !(tokBusy s 0 w) && decide (iLmask w = 0xFF)
        && onlyFields w ([(124, 4), (116, 8), (108, 8)] ++ (tvFields w ++ [(32, 8), (16, 3)]))
        && decide ((tokOf s (actTok 0 w)).st = .pending ∧ (tokOf s (actTok 0 w)).held = false ∧ 2 ≤ iI1 w ∧ iI1 w ≤ 4))
    && [(0xFF, 1), (0, 256)].all (fun x =>
        let w := ins 7 4 [(108, 8, 0xFF), (32, 16, x.1), (16, 16, x.2)]
        let s := atIns w id
        atB s 0 w 7 4 && !(tokBusy s 0 w) && decide (iLmask w = 0xFF)
        && onlyFields w ([(124, 4), (116, 8), (108, 8)] ++ (tvFields w ++ [(32, 8), (16, 16)]))
        && decide (1 ≤ iI1 w ∧ iI1 w ≤ 256 ∧ iI0 w + iI1 w ≤ 256) && decide (∀ i ∈ trelIds 0 w, (tokOf s i).st ≠ .pending))
    && (let w := ins 7 5 [(108, 8, 0xFF), (105, 3, 5), (104, 1, 1)]
        let v := ins 7 6 [(108, 8, 0xFF)]
        atB (atIns w id) 0 w 7 5 && !(tokBusy (atIns w id) 0 w) && decide (iLmask w = 0xFF) && !(wengBad w)
        && onlyFields w ([(124, 4), (116, 8), (108, 8)] ++ (tvFields w ++ [(105, 3), (104, 1)]))
        && atB (atIns v id) 0 v 7 6 && !(tokBusy (atIns v id) 0 v) && decide (iLmask v = 0xFF)
        && onlyFields v ([(124, 4), (116, 8), (108, 8)] ++ tvFields v))) = true := by decide +kernel

/-- QFENCE of an engine that is busy; a PFENCE before a core that is not quiet, and before an instruction not released. -/
theorem test_fence_hypotheses :
    (let w := ins 7 5 [(108, 8, 0xFF), (105, 3, 5), (104, 1, 1)]
     let q := mkQ (atIns w id) 0 (laneWord 0x01 5 0xFF) 1 0
     let busy := { Core.reset with qV := [q] }
     (List.range 8).any (fun p => let v := ins 7 5 [(108, 8, 0xFF), (105, 3, p), (104, 1, 1)]
       let t := setCore { atIns v id with insNo := 1 } 0 busy
       atB t 0 v 7 5 && !(tokBusy t 0 v) && decide (iLmask v = 0xFF) && !(wengBad v)
       && onlyFields v ([(124, 4), (116, 8), (108, 8)] ++ (tvFields v ++ [(105, 3), (104, 1)])) && !(waitsMet t 0 v (laneMask (clOf t 0))))
     && waitsMet (atIns w id) 0 w (laneMask (clOf (atIns w id) 0))
     && (let v := ins 7 6 [(108, 8, 0xFF)]
         let iss : Iss := ⟨4, 0, 0, none, [0], false, none, false⟩
         (laneCores (atIns v id) 0).all (fun k => coreQuiet (coreOf (atIns v id) k))
         && decide ((clOf (atIns v id) 0).issued = [] ∧ (clOf (atIns v (fun c => { c with issued := [iss] })) 0).issued ≠ [])
         && (laneCores (setCore (atIns v id) 0 busy) 0).any (fun k => !(coreQuiet (coreOf (setCore (atIns v id) 0 busy) k))))) = true := by
  decide +kernel

/-- A lane instruction as it stands in a queue. -/
def qins (w : W128) : QIns := mkQ (atIns w id) 0 w 1 0
/-- A core whose port has this front instruction. -/
def withQ (p : Nat) (q : QIns) : State := setCore host 0 (setQueue Core.reset p [q])

theorem bytes_nil (a n : Nat) : Mem.bytes [] a n = List.replicate n 0 := by
  unfold Mem.bytes
  rw [List.eq_replicate_iff]
  refine ⟨by simp, fun b hb => ?_⟩
  obtain ⟨i, -, rfl⟩ := List.mem_map.1 hb
  rfl

theorem clean_line (k : Core) (line : Nat) (hm : k.mem = []) (ht : k.tag = []) (hc : k.code = []) : spadBad k line = false := by
  unfold spadBad spadCode spadTag
  rw [hm, ht, hc, bytes_nil]
  exact decide_eq_false (fun h => h rfl)

/-- A vector instruction at the front of its queue, an MMA at the front of the queues of both arrays, and TSTORE and TLOAD;
the lines that TLOAD reads carry good codes. -/
theorem test_start_hypotheses :
    ([(5, 0x01, 2), (4, 0x01, 0), (4, 0x01, 1), (3, 2, 3), (3, 1, 3)].all (fun x =>
      let q := qins (laneWord x.2.1 x.1 0xFF)
      let s := withQ x.2.2 q
      decide (x.2.2 < 4) && decide (frontReady (coreOf s 0) x.2.2 = some q) && !(marksBlock s (coreOf s 0) q)
      && decide (iClass q.word = x.1 ∧ iOp q.word ≠ 0x50)
      && !(startBlocked s (coreOf s 0) q)
      && decide ((takeQ (upsetSpad (coreOf s 0) none) x.2.2 q).mem = [] ∧ (takeQ (upsetSpad (coreOf s 0) none) x.2.2 q).tag = []
          ∧ (takeQ (upsetSpad (coreOf s 0) none) x.2.2 q).code = [])
      && (lineRange (farAddr q) 64).all (fun line => !(plateBad (upsetPlates (clOf s (0 / 9)) none) line)))) = true := by decide +kernel

/-- The scratchpad lines that they read carry good codes. -/
theorem test_start_lines (q : QIns) (p line : Nat) : spadBad (takeQ (upsetSpad (coreOf (withQ p q) 0) none) p q) line = false := by
  apply clean_line <;>
    (unfold takeQ
     split
     · unfold withQ
       match p with
       | 0 => rfl
       | 1 => rfl
       | 2 => rfl
       | n + 3 => rfl
     · unfold withQ
       match p with
       | 0 => rfl
       | 1 => rfl
       | 2 => rfl
       | n + 3 => rfl)

/-- An attempt of a matrix instruction. -/
def tileOp (n : Nat) (ov : Option OvCause) : TileOp :=
  { idx := 0, unit := 0, dA := 0, dB := 0, o := 0, attempt := n, ov := ov, out := [], ref := ⟨[], [], 0, 0, 64⟩ }
/-- A result without lines. -/
def noRes (ops : List TileOp) : Res := { ops := ops, lines := [], creg := none, sat := 0, kind := 0 }
/-- A run of an instruction word. -/
def runW (w : W128) (ops : List TileOp) : Run := ⟨qins w, noRes ops⟩

/-- A run that moves one plate line. -/
def runMove (w : W128) : Run := ⟨qins w, { noRes [] with lines := [⟨9, 0, [(0, 1)]⟩] }⟩
/-- `host` in matrix-only proving. -/
def proving (m : Bool) : State := { host with job := { host.job with matrixOnly := m } }
/-- A vector instruction with a scratchpad destination, and with a chain register for one. -/
def vecWord (dest : Nat) : W128 := ins 5 0x01 ([(60, 3, 5), (57, 3, 5), (54, 3, 6)] ++ [(51, 3, dest)])

/-- The oldest run of an engine, which may complete: MMA, MMA with an overflow that is missed, a vector instruction with
each destination, VCFG, TSTORE and TLOAD, a plate line that fails three times, in both modes of proving. -/
theorem test_complete_hypotheses :
    ([false, true].all (fun m =>
      let r := runW (laneWord 1 4 0xFF) [tileOp 0 (if m then some .total else none)]
      let s := setCore host 0 { Core.reset with runA := [r] }
      decide ((runsOf (coreOf s 0) 0).head? = some r ∧ iClass r.ins.word ≠ 3 ∧ iClass r.ins.word ≠ 5) && mayComplete s (coreOf s 0) r m
      && (!m || !(mayComplete s (coreOf s 0) r false)))
    && [false, true].all (fun m => [0, 3].all (fun dest =>
        let r := runW (vecWord dest) []
        let s := setCore (proving m) 0 { Core.reset with runV := [r] }
        decide ((runsOf (coreOf s 0) 2).head? = some r ∧ iClass r.ins.word = 5 ∧ iOp r.ins.word ≠ 0x50 ∧ vDest r.ins.word = dest ∧ matrixOnly s = m)
        && mayComplete s (coreOf s 0) r false))
    && (let r := runW (laneWord 0x50 5 0xFF) []
        let s := setCore host 0 { Core.reset with runV := [r] }
        decide ((runsOf (coreOf s 0) 2).head? = some r ∧ iClass r.ins.word = 5 ∧ iOp r.ins.word = 0x50) && mayComplete s (coreOf s 0) r false)
    && [false, true].all (fun m => [1, 2].all (fun op =>
        let r := runMove (laneWord op 3 0xFF)
        let s := setCore (proving m) 0 { Core.reset with runP := [r] }
        decide ((runsOf (coreOf s 0) 3).head? = some r ∧ iClass r.ins.word = 3 ∧ iOp r.ins.word = op ∧ matrixOnly s = m
          ∧ lostLine [2] r.res.lines.length = none ∧ lostLine [3] r.res.lines.length = some 0) && mayComplete s (coreOf s 0) r false))) = true := by
  decide +kernel

/-- An open overflow of a first, a fourth and the last attempt, on array A and on array B; and one that is falsely
detected. -/
theorem test_overflow_hypotheses : [0, 3, 4].all (fun n => [0, 1].all (fun u =>
    let o := { tileOp n (some .total) with unit := u }
    let r := runW (laneWord 1 4 0xFF) [o]
    let s := setCore host 0 (if u = 1 then { Core.reset with runB := [r] } else { Core.reset with runA := [r] })
    let o' := { o with ov := none }
    let r' := runW (laneWord 1 4 0xFF) [o']
    let t := setCore host 0 { Core.reset with runA := [r'] }
    decide (overflowed (coreOf s 0) u = some (r, o) ∧ o.ov = some .total ∧ ovOf (coreOf s 0) u none = some (r, o, .total) ∧ o.attempt = n)
    && decide (overflowed (coreOf t 0) u = none ∧ (coreOf t 0).runA = [r'] ∧ (coreOf t 0).runB = [] ∧ r'.res.ops = [o'] ∧ o'.unit = u
        ∧ ovOf (coreOf t 0) u (some (o'.idx, 2)) = some (r', o', .total)))) = true := by
  decide +kernel

/-- An entry that passes its check, and one that fails it. -/
def entryOk (proven : Bool) : Entry :=
  { ins := qins (ins 5 0x01 [(60, 3, 5), (57, 3, 5), (54, 3, 6)]), port := 2, chainIns := [], good := noRes [], got := noRes [], undo := [],
    proven := proven }
def entryBad : Entry :=
  { entryOk false with ins := qins (laneWord 1 4 0xFF), port := 0, got := noRes [tileOp 0 (some .total)] }

theorem test_verdict_hypotheses :
    (let s := setCore host 0 { Core.reset with window := [entryOk false, entryBad] }
     decide ((coreOf s 0).window[0]? = some (entryOk false) ∧ (entryOk false).proven = false
       ∧ checkEntry s (entryOk false) (entryOk false).good (entryOk false).got = none
       ∧ (coreOf s 0).window[1]? = some entryBad ∧ (checkEntry s entryBad entryBad.good entryBad.got).isSome = true
       ∧ entryBad.proven = false ∧ (coreOf s 0).arb = none ∧ (coreOf s 0).window = entryOk false :: [entryBad])
     && (let s := setCore host 0 { Core.reset with window := [entryOk true] }
         decide ((coreOf s 0).window = entryOk true :: [] ∧ (entryOk true).proven = true))
     && !(stopping (atIns 0 id) (0 / 9))) = true := by decide +kernel

/-- An arbitration at its repeat step and at its spare step. -/
def arbAt (step vote : Nat) : Arb :=
  { entry := entryOk false, unit := 2, step := step, round := 0, vote := vote, d1 := 0, d3 := 0, d4 := 0, gone := 0, order := 0, cut := 0, time := 0 }

theorem test_arbitration_hypotheses : [(2, 0), (3, 1), (3, 2)].all (fun x =>
    let s := setCore host 0 { Core.reset with arb := some (arbAt x.1 x.2) }
    let clean := repeatRes s (coreOf s 0) (arbAt x.1 x.2).entry
    decide ((coreOf s 0).arb = some (arbAt x.1 x.2) ∧ anyOv (applyFlt clean none) = false ∧ (clOf s (0 / 9)).spare < 9)
    && ((checkEntry s (arbAt x.1 x.2).entry clean (applyFlt clean none)).isNone != false)
    && !((checkEntry s (arbAt x.1 x.2).entry clean (applyFlt clean none)).isNone != true)
    && (x.1 = 2 || spareTurn s 0 (arbAt x.1 x.2))) = true := by decide +kernel

/-- An UPD that may start, on good parameter lines and on a bad one, and one under way. -/
def updIns : UIns := { iid := 3, word := ins 3 8 [(108, 8, 0xFF), (32, 16, 5)], pc := 0, a := 0, b := 128#64, c := 0x1000#64, mask := 0xFF, epoch := 0 }

theorem test_update_hypotheses :
    (let c := { Cluster.reset with updQ := [updIns] }
     let s := setCl host 0 c
     decide ((clOf s 0).updQ = updIns :: [] ∧ (clOf s 0).upd = none) && updMayStart (clOf s 0) updIns
     && (lineRange updIns.c.toNat 320).all (fun line =>
       !(plateBad (upsetPlates { c with updQ := [], upd := some updIns, updKernel := iI0 updIns.word, updLayer := iI1 updIns.word % 256 } none) line))
     && (lineRange updIns.c.toNat 320).any (plateBad
       (upsetPlates { c with updQ := [], upd := some updIns, updKernel := iI0 updIns.word, updLayer := iI1 updIns.word % 256 } (some ⟨0x1000, 1⟩)))
     && decide ((clOf (setCl host 0 { Cluster.reset with upd := some updIns }) 0).upd = some updIns)) = true := by decide +kernel

/-- A cluster whose rotation is due at an idle point, a spare that is idle, a core under test, and the marks of a core. -/
theorem test_rotation_hypotheses :
    (let s := setCl host 31 { Cluster.reset with rotDue := true }
     decide (occStop s (clOf s 31) = 0 ∧ (clOf s 31).rotDue = true ∧ (clOf s 31).removals = []) && atIdlePoint s 31 && spareFree s 31
     && decide (laneCore (clOf s 31) 31 (dueLane s 31) = some 279 ∧ 279 ≠ 9 * 31 + (clOf s 31).spare ∧ (coreOf s 279).spadFailed = false)
     && decide (isSpare host 287 = true ∧ (coreOf host 287).testBusy = false)
     && (let t := setCl host 31 { Cluster.reset with lanes := [15, 1, 2, 3, 4, 5, 6, 7], spare := 15 }
         decide (isSpare t 279 = false ∧ 8 ≤ servedLane t 279))
     && (let s := setCore host 287 { Core.reset with testBusy := true }
         decide ((coreOf s 287).testBusy = true ∧ (coreOf s 287).failed = false ∧ spareWanted s (287 / 9) = false))) = true := by decide +kernel

theorem test_disabled_core_reaches : HostReaches (setCl host 31 { Cluster.reset with lanes := [15, 1, 2, 3, 4, 5, 6, 7], spare := 15 }) :=
  reaches_of _ (by decide) (host_dies _ rfl rfl)

/-- The last core, stack, link, port and stream, and a core that serves a lane. -/
theorem test_clear_hypotheses :
    decide (servedLane host 286 < 8 ∧ portModules 6 3 ≠ 0 ∧ linkDie 63 = 6 ∧ linkDie 62 = 5) = true := by decide +kernel

/-! ### Streams and their commands -/

/-- A command of an opcode that names no token. -/
def cmd (op : Nat) (fs : List (Nat × Nat × Nat)) : W512 :=
  cword ([(0, 8, op), (32, 16, 0xFFFF), (48, 16, 0xFFFF), (64, 16, 0xFFFF), (80, 16, 0xFFFF)] ++ fs)
/-- Stream 63 with this head command, in the state `s`. -/
def withHead (s : State) (w : W512) : State := setStrm s 63 { Stream.reset with enable := true, queue := [w] }
/-- `host` with a job open, a window of host memory, a group of clusters 0 and 31, and an NVMe controller. -/
def jobHost : State :=
  { host with
    job := { Job.reset with opened := true, maxTokens := 4 }
    groups := [(5, 0x80000001#32)]
    pci := { host.pci with winBase := 0x1000#64, winLimit := 0x81000#64 }
    stp := { Storage.reset with ctrl := [(3, { NvCtrl.reset with present := true, spaces := [(15, 100)] })] } }

/-- The conditions of `Passes`, to be evaluated. -/
def passB (s : State) (st op : Nat) : Bool :=
  onlyFields (headCmd s st) (cmdCommon ++ cmdFields op)
  && (decide (cmdDone (headCmd s st) = 0xFFFF) || isHubTok (cmdDone (headCmd s st)))
  && (cmdWaits (headCmd s st)).all (fun id => decide (id = 0xFFFF)
    || ((isHubTok id || isCluTok id) && decide (seenTok (strmOf s st).seen id s = .done)))
theorem passes_of {s : State} {st op : Nat} (h : passB s st op = true) : Passes s st op := by
  simp only [passB, Bool.and_eq_true, Bool.or_eq_true, decide_eq_true_eq, List.all_eq_true] at h
  exact ⟨h.1.1, h.1.2, fun id hi => by simpa [Bool.or_eq_true] using h.2 id hi⟩

/-- The head command of stream 63 of `s` is served next and passes its checks. -/
def headPasses (s : State) (op : Nat) : Bool :=
  decide (pickStream s [] = some 63 ∧ cmdOp (headCmd s 63) = op) && passB s 63 op

/-- A slot of tag 0x0FFF into slot 4,095, of the last tag of the window and of the tag after it, and of another slot's tag;
a free and an occupied slot; and a slot that may be read. -/
theorem test_slot_hypotheses :
    ([(0x0FFF, 4095), (0x1000, 0)].all (fun x =>
      let data := List.replicate 62 0 ++ leBytes 2 x.1
      decide (data.length = 64 ∧ x.2 < 4096 ∧ (strmOf host 63).occ.contains x.2 = false
        ∧ (leNat ((data.drop 62).take 2) + 65536 - (strmOf host 63).e) % 65536 < 4096 ∧ leNat ((data.drop 62).take 2) % 4096 = x.2
        ∧ leNat ((data.drop 62).take 2) % 4096 ≠ x.2 + 1))
    && [0x1001, 0x0000].all (fun x =>
      let data := List.replicate 62 0 ++ leBytes 2 x
      decide (data.length = 64 ∧ 4096 ≤ (leNat ((data.drop 62).take 2) + 65536 - (strmOf host 63).e) % 65536))
    && (let x := { Stream.reset with enable := true, occ := [1] }
        let s := setStrm host 63 x
        decide ((strmOf s 63).enable = true ∧ (strmOf s 63).occ.contains ((strmOf s 63).e % 4096) = true ∧ (strmOf s 63).queue.length < 16
          ∧ (strmOf s 63).queue = [])
        && (let t := setStrm host 63 { x with log := [(255, ⟨0, 0, 0, 0, 0, 0, 0, 0, 0, 0, false⟩)] }
            ((strmOf t 63).log.find (511 % 256)).isSome))) = true := by decide +kernel

/-- A command of an unknown opcode; each command with a reserved bit; a wait on a SKIPPED and on an ABORTED token; and the
commands of a job with none open. -/
theorem test_refused_hypotheses :
    (decide (pickStream (withHead host (cmd 0xFF [])) [] = some 63 ∧ cmdOp (headCmd (withHead host (cmd 0xFF [])) 63) ∉ knownOps)
    && [0x01, 0x02, 0x03, 0x04, 0x08, 0x10, 0x21, 0x22, 0x23, 0x24, 0x2B, 0x33].all (fun op =>
      let s := withHead host (cmd op [(16, 1, 1)])
      decide (pickStream s [] = some 63 ∧ cmdOp (headCmd s 63) = op) && !(onlyFields (headCmd s 63) (cmdCommon ++ cmdFields op)))
    && [0x01, 0x02].all (fun op => [Tok.skipped, Tok.aborted].all (fun t =>
      let s := setTok 0x83FF t false (withHead host (cmd op [(80, 16, 0)] ||| cword [(80, 16, 0xFFFF)]))
      let s := setStrm s 63 { strmOf s 63 with queue := [cmd op [] &&& ~~~(cword [(80, 16, 0xFFFF)]) ||| cword [(80, 16, 0x83FF)]] }
      decide (pickStream s [] = some 63 ∧ cmdOp (headCmd s 63) = op ∧ cmdDone (headCmd s 63) = 0xFFFF)
      && onlyFields (headCmd s 63) (cmdCommon ++ cmdFields op) && (cmdWaits (headCmd s 63)).all waitOk
      && decide (waitWith (headCmd s 63) (strmOf s 63).seen (fun t => decide (t = .skipped) || decide (t = .aborted)) s = some 0x83FF)))
    && [0x21, 0x22, 0x23, 0x33].all (fun op =>
      let s := withHead host (cmd op (if op = 0x21 then [(160, 32, 1)] else []))
      headPasses s op && decide (s.job.opened = false) && (op != 0x21 || decide (cw (headCmd s 63) 5 ≠ 0)))) = true := by decide +kernel

/-- NOP; TOKEN_SET of the last hub token to the states 1 and 4; TOKEN_RELEASE of one token and of all; SET_PROFILE of 0 and
2; JOB_OPEN; GROUP_DEFINE; BATCH_ADMIT of the last plate word. -/
theorem test_at_once_hypotheses :
    (headPasses (withHead host (cmd 0x01 [])) 0x01
    && [1, 4].all (fun n =>
      let s := withHead host (cmd 0x03 [(128, 16, 0x83FF), (144, 4, n)])
      headPasses s 0x03 && isHubTok (fld (headCmd s 63) 128 16) && decide (1 ≤ fld (headCmd s 63) 144 4 ∧ fld (headCmd s 63) 144 4 ≤ 4
        ∧ ¬ ((tokOf s (fld (headCmd s 63) 128 16)).st = .pending ∧ (tokOf s (fld (headCmd s 63) 128 16)).held = true)))
    && [(0x3FF, 1), (0, 0)].all (fun x =>
      let s := withHead host (cmd 0x04 [(128, 10, x.1), (144, 10, x.2)])
      headPasses s 0x04 && (releaseRange (headCmd s 63)).all (fun i => decide (i < 0x8400) && decide ((tokOf s i).st ≠ .pending)))
    && [0, 2].all (fun n => let s := withHead host (cmd 0x08 [(128, 2, n)])
      headPasses s 0x08 && decide (fld (headCmd s 63) 128 2 ≠ 3))
    && (let s := withHead host (cmd 0x10 [])
        headPasses s 0x10 && decide (s.job.opened = false ∧ jobClosing s = false))
    && (let s := withHead jobHost (cmd 0x21 [(128, 6, 63), (160, 32, 0xFFFFFFFF)])
        headPasses s 0x21 && decide (s.job.opened = true ∧ cw (headCmd s 63) 5 ≠ 0 ∧ runningCls s = []))
    && (let s := withHead jobHost (cmd 0x24 [(128, 6, 5), (160, 32, 4), (224, 32, 0x17FFFF8)])
        headPasses s 0x24 && decide (s.job.opened = true ∧ cw (headCmd s 63) 7 % 8 = 0 ∧ cw (headCmd s 63) 7 < 0x1800000
          ∧ grpMask s (groupOf (headCmd s 63)) ≠ 0 ∧ cw (headCmd s 63) 5 ≤ s.job.maxTokens.toNat))) = true := by decide +kernel

/-- FENCE; HOST_COPY of nothing, to the host and from the host up to the end of HBM; JOB_CLOSE; SET_RECIPE; LOAD_PROGRAM
from HBM and from the host, of one page and of 64; GROUP_START; GROUP_STOP of a running member; EPH_LOAD of 1 and of
65,535 entries; TILE_MOVE; STORAGE_XFER of all the blocks of a namespace. -/
theorem test_long_hypotheses :
    (headPasses (withHead host (cmd 0x02 [(10, 1, 1)])) 0x02
    && [(0, 0, 0x1000), (1, 64, 0x80FC0), (0, 0x80000, 0x1000)].all (fun x =>
      let s := withHead jobHost (cmd 0x2B [(128, 1, x.1), (192, 64, x.2.2), (256, 64, hbmEnd - x.2.1), (320, 64, x.2.1)])
      headPasses s 0x2B && decide (cw2 (headCmd s 63) 10 % 64 = 0 ∧ cw2 (headCmd s 63) 10 = x.2.1)
      && !(hostRangeBad s (cw2 (headCmd s 63) 6) (cw2 (headCmd s 63) 10)) && !(hbmRangeBad (cw2 (headCmd s 63) 8) (cw2 (headCmd s 63) 10)))
    && (let s := withHead jobHost (cmd 0x11 [])
        headPasses s 0x11 && decide (s.job.opened = true ∧ runningCls s = [] ∧ collInFlight s = false))
    && (let s := withHead jobHost (cmd 0x12 [(128, 64, hbmEnd - 64)])
        headPasses s 0x12 && decide (runningCls s = []) && !(hbmRangeBad (cw2 (headCmd s 63) 4) 64))
    && [(0, 64, 0, hbmEnd - 0x40000), (63, 1, 0, 0), (0, 64, 1, 0x41000)].all (fun x =>
      let s := withHead jobHost (cmd 0x20 [(128, 6, 5), (136, 6, x.1), (144, 7, x.2.1), (152, 1, x.2.2.1), (192, 64, x.2.2.2)])
      headPasses s 0x20 && decide (1 ≤ fld (headCmd s 63) 144 7 ∧ fld (headCmd s 63) 136 6 + fld (headCmd s 63) 144 7 ≤ 64
        ∧ cw2 (headCmd s 63) 6 % 4096 = 0 ∧ grpMask s (groupOf (headCmd s 63)) ≠ 0 ∧ cmdNoWait (headCmd s 63) = false)
      && !(if bit (headCmd s 63) 152 then hostRangeBad s (cw2 (headCmd s 63) 6) (4096 * fld (headCmd s 63) 144 7)
          else hbmRangeBad (cw2 (headCmd s 63) 6) (4096 * fld (headCmd s 63) 144 7)))
    && (let s := withHead jobHost (cmd 0x22 [(128, 6, 5), (136, 6, 63), (144, 8, 255)])
        headPasses s 0x22 && decide (grpMask s (groupOf (headCmd s 63)) ≠ 0)
        && (members (headCmd s 63) s).all (fun c => decide ((clOf s c).prog = none ∧ (clOf s c).mapState ≠ 3)))
    && (let s := setCl (withHead jobHost (cmd 0x23 [(128, 6, 5)])) 31 { Cluster.reset with prog := some prog0 }
        headPasses s 0x23 && decide (grpMask s (groupOf (headCmd s 63)) ≠ 0)
        && (members (headCmd s 63) s).any (fun c => (clOf s c).prog.isSome))
    && [1, 65535].all (fun n =>
      let s := withHead jobHost (cmd 0x28 [(192, 64, hbmEnd - 64 - 64 * ((32 * n + 63) / 64)), (256, 32, n)])
      headPasses s 0x28 && decide (1 ≤ cw (headCmd s 63) 8 ∧ cw (headCmd s 63) 8 ≤ 65535)
      && !(hbmRangeBad (cw2 (headCmd s 63) 6) (64 + 32 * cw (headCmd s 63) 8)))
    && (let s := withHead jobHost (cmd 0x29 [(128, 2, 3), (192, 64, hbmEnd - 64), (256, 32, 1)])
        headPasses s 0x29 && decide (1 ≤ cw (headCmd s 63) 8 ∧ cw (headCmd s 63) 8 ≤ 4096)
        && !(hbmRangeBad (cw2 (headCmd s 63) 6) (64 * cw (headCmd s 63) 8))
        && !(inSelfRefresh s (sectorsOf (cw2 (headCmd s 63) 6) (64 * cw (headCmd s 63) 8))))
    && (let s := withHead jobHost (cmd 0x2A [(130, 2, 3), (160, 32, 15), (192, 64, 0), (256, 64, 0), (320, 32, 100)])
        headPasses s 0x2A && (nvCtrl s (fld (headCmd s 63) 130 2)).present && !(hbmRangeBad (cw2 (headCmd s 63) 6) (4096 * cw (headCmd s 63) 10))
        && nsHolds s (fld (headCmd s 63) 130 2) (cw (headCmd s 63) 5) (cw2 (headCmd s 63) 8) (cw (headCmd s 63) 10))) = true := by decide +kernel

/-- ROUTE_LOAD, FLOW_LOAD of the last context, EPOCH_SET and REBLOCK to the first and the last epoch that may follow. -/
theorem test_fabric_command_hypotheses :
    ((let s := withHead jobHost (cmd 0x31 [(128, 1, 1), (192, 64, hbmEnd - 4096)])
      headPasses s 0x31 && !(hbmRangeBad (cw2 (headCmd s 63) 6) 4096) && !(fenced s))
    && (let s := withHead jobHost (cmd 0x32 [(128, 16, 40959), (160, 16, 1), (192, 64, 0)])
        headPasses s 0x32 && decide (cw (headCmd s 63) 4 + cw (headCmd s 63) 5 ≤ 40960)
        && !(hbmRangeBad (cw2 (headCmd s 63) 6) (192 * cw (headCmd s 63) 5)) && !(fenced s))
    && [1, 127].all (fun n =>
      let s := withHead jobHost (cmd 0x33 [(128, 8, n)])
      let t := withHead { jobHost with xferCheck := 2 } (cmd 0x34 [(128, 8, n), (192, 64, hbmEnd - 64)])
      headPasses s 0x33 && decide (epochOrder (headCmd s 63) s = none) && !(fenced s)
      && headPasses t 0x34 && decide (epochOrder (headCmd t 63) t = none) && !(planRangeBad (headCmd t 63) (hitHbm [] t)) && !(fenced t))) = true := by
  decide +kernel

/-- Commands dispatched and not complete, each with its work. -/
def pendingCmd (w : W512) (k : Work) : State := { jobHost with cmds := [⟨9, 63, w, k⟩], seqNo := 10 }

theorem test_incomplete_hypotheses :
    (decide ((findCmd (pendingCmd 0 (.fence true)) 9).map (fun c => c.work) = some (.fence true)
      ∧ fenceMet (pendingCmd 0 (.fence true)) ⟨9, 63, 0, .fence true⟩ true = true
      ∧ fenceMet { pendingCmd 0 (.fence true) with cmds := [⟨8, 0, 0, .waiting⟩, ⟨9, 63, 0, .fence true⟩] } ⟨9, 63, 0, .fence true⟩ true = false)
    && decide ((findCmd (pendingCmd 0 (.jobClose false)) 9).map (fun c => c.work) = some (.jobClose false)
      ∧ ledgerBusy (pendingCmd 0 (.jobClose false)) = false)
    && decide ((findCmd (pendingCmd 0 (.jobClose true)) 9).map (fun c => c.work) = some (.jobClose true))
    && (let arrived : Tab (List Byte) := (List.range 8).map (fun i => (512 * i, [1]))
        let s := pendingCmd 0 (.load [(31, 63, 0)] 4096 arrived false)
        decide ((findCmd s 9).map (fun c => c.work) = some (.load [(31, 63, 0)] 4096 arrived false))
        && decide (([(31, 63, 0)] : List (Nat × Nat × Nat)).find? (fun l => l.1 = 31 ∧ l.2.1 = 63) = some (31, 63, 0))
        && !(pageInUse (clOf s 31) 63) && (pageBytes arrived 0).isSome)
    && (let s := { host with hreq := [(0, (9, 0, 512))] }
        decide (s.hreq.find 0 = some (9, 0, 512)))
    && (let w := cmd 0x2B [(128, 1, 1), (192, 64, 0x1000), (256, 64, hbmEnd - 64), (320, 64, 64)]
        let s := { pendingCmd w .hostWrite with xferCheck := 2 }
        decide ((findCmd s 9).map (fun c => c.work) = some .hostWrite) && mayRequest s
        && !(inSelfRefresh s (sectorsOf (cw2 w 8) (cw2 w 10)))
        && decide ((readUntracked 5 (sectorsOf (cw2 w 8) (cw2 w 10)) (hitHbm [] s)).1 = [])
        && (let n := (hbmEnd - 64) / 64
            decide ((readUntracked 5 (sectorsOf (cw2 w 8) (cw2 w 10)) (hitHbm [⟨n, 0, 0, 1⟩] { s with xferCheck := 0 })).1 = n :: []
              ∧ 0 ≤ (64 * n - cw2 w 8) / 512 ∧ 64 * n - cw2 w 8 < 64 * 1 ∧ 64 * 1 ≤ cw2 w 10)))) = true := by decide +kernel

/-! ### Tiers, HBM and the storage port -/

/-- A descriptor of one line: FP32, 4 by 4, plate line 0 and HBM sector `h`, no scratchpad; a source of R271. -/
def desc1 (plate h rsrc arg : Nat) : List W32 :=
  [1#32, 0#32, 0x400405#32, BitVec.ofNat 32 (rsrc + 256 * arg), BitVec.ofNat 32 h, BitVec.ofNat 32 (4 * plate), 0xFFFFFFFF#32, 0x00FFFFFF#32]
/-- A move request and a ledger entry. -/
def req1 (w : List W32) : Req :=
  { issuer := .cmd 9, idx := 0, w := w, ctl := 0x14#32, ver := 0, act := 4, lanes := 0, before := 0, stamp := 0, room := false }
def entry1 (idx tier : Nat) (st : LState) (w : List W32) : LEntry :=
  { idx := idx, tile := 1, tier := tier, cl := if tier < 2 then 0 else 15, lanes := 0, state := st, addr := 0, ver := 0, desc := w, pins := 0,
    reads := 0, waiters := [], wbs := [], wbRun := false, evict := none, fill := false, temp := false, src := .none, srcStamp := 0, stage := true,
    staged := none, recov := 0, holder := 0, askedQ := false, fetched := [], supplied := false, recovered := false, wbRec := 0, evRec := false,
    failTier := 0, used := 0 }
/-- `host` with these entries in the ledger of die 3. -/
def withLedger (es : List LEntry) : State := setDie host 3 { Die.reset with ledger := es }

/-- An ephemeris of two entries, the second the END. -/
def eph1 : Eph :=
  { mask := 0x80, stepStart := 7, keep := 0, entries := [[0x10005#32, 0, 1, 0, 0, 0, 0, 0], [0x50005#32, 0, 0, 0, 0, 0, 0, 0]] }

theorem test_layer_hypotheses :
    ((let u : UIns := { iid := 4, word := ins 3 4 [(108, 8, 0xFF), (32, 16, 5), (96, 2, 1)], pc := 0, a := 0, b := 0, c := 0, mask := 0xFF, epoch := 0 }
      [some eph1, none, some { eph1 with mask := 0x01 }].all (fun e =>
        let s := setCl (setDie host 3 { Die.reset with eph := e }) 31 { Cluster.reset with mover := [u], levents := [(4, 5, 1, 0)] }
        decide ((clOf s 31).mover = u :: [] ∧ iOp u.word = 4 ∧ heldCl (dieOf s (31 / 8)) 31 = false)
        && decide ((clOf s 31).levents.find? (fun l => l.1 = 4) = some (4, 5, 1, 0) ∧ needWaits (dieOf s (31 / 8)) 31 5 1 0 = false)))
    && (let s := setDie host 3 { Die.reset with eph := some eph1, received := [(31, 5, 1)] }
        decide ((dieOf s 3).eph = some eph1 ∧ (5, 1) ∉ (dieOf s 3).fired) && (maskLanes eph1.mask).all (fun c =>
          decide ((8 * 3 + c, 5, 1) ∈ (dieOf s 3).received)))
    && [0, 1].all (fun k =>
        let s := setDie host 3 { Die.reset with eph := some eph1, ephState := 1, cursor := k, fired := [(5, 1)] }
        let en := eph1.entries.getD k []
        decide ((dieOf s 3).eph = some eph1 ∧ eph1.entries[(dieOf s 3).cursor]? = some en ∧ (dieOf s 3).ephState ≠ 3
          ∧ (dieOf s 3).endIssued = false ∧ eTrig en ∈ (dieOf s 3).fired ∧ inSelfRefresh s (sectorsOf (eAddr en) (64 * eCount en)) = false
          ∧ prefetchHeld s 3 eph1.mask en = false ∧ eEnd en = decide (k = 1) ∧ (k = 0 → eCount en ≠ 0)))
    && [(none, 0, false), (some eph1, 3, false), (some eph1, 1, true)].all (fun x =>
        let s := setDie host 3 { Die.reset with eph := x.1, ephState := x.2.1, endIssued := x.2.2, ephNext := [(eph1, 9)] }
        decide ((dieOf s 3).ephNext = (eph1, 9) :: [] ∧ ((dieOf s 3).eph = none ∨ (dieOf s 3).ephState = 3 ∨ (dieOf s 3).endIssued = true)))) = true := by
  decide +kernel

/-- A source that waits to be accepted: a TILE_MOVE (9), an ephemeris run (0), a TMOVE (1), and another die (13); a good
record and a bad one; and a mover that has failed. -/
theorem test_accept_hypotheses :
    ((let s := { host with cmds := [⟨9, 0, 0, .tileMove 3 [(none, 0)] 1 false⟩] }
      decide (s.pwr.sagStage < 5 ∧ pickSource s 3 [] = some 9))
    && decide (pickSource (setDie host 3 { Die.reset with runs := [⟨0, 0, 0x80, none, 0, [(none, 0)], 1⟩] }) 3 [] = some 0)
    && decide (pickSource (setCl host 24 { Cluster.reset with mover := [⟨1, ins 3 3 [(32, 16, 1)], 0, 0, 0, 0, 0xFF, 0⟩] }) 3 [] = some 1)
    && decide (pickSource (setDie host 3 { Die.reset with xreq := [3 * 2048 + 5] }) 3 [] = some 13)
    && recordOk host none (desc1 0 0 2 0 ++ List.replicate 7 0) 0x14#32 && !(recordOk host none (desc1 0 0 2 0 ++ List.replicate 7 1) 0x14#32)
    && decide ((dieOf (setDie host 3 { Die.reset with mover := ⟨2, 0⟩ }) 3).mover.st = 2)) = true := by decide +kernel

/-- A fill that reads plates through entry 1 and then lands; and drains to HBM and to flash. -/
theorem test_move_hypotheses :
    ((let f := { entry1 0 2 .filling (desc1 0 0 2 0) with fill := true, src := .entry 1 3 1 }
      let s := withLedger [f, { entry1 1 1 .resident (desc1 0 0 2 0) with reads := 1 }]
      let u := stageDie 3 s
      !(readHeld u 3 0) && decide (entryOf (hitHbm [] u) 3 0 = some f ∧ f.fill = true)
      && (match readNow (hitHbm [] u) 3 0 with
          | some (.lines ls, (3, 1), 1, 0) => decide (ls.length = 1)
          | _ => false))
    && (let e := { entry1 0 2 .filling (desc1 0 0 2 0) with fill := true, staged := some [(List.replicate 64 7, 1)] }
        let s := withLedger [e]
        decide (entryOf s 3 0 = some e ∧ e.staged = some [(List.replicate 64 7, 1)] ∧ e.fill = true ∧ e.recov = 0 ∧ 2 ≤ e.tier
          ∧ (List.replicate 64 (7 : Byte)).length = 64 ∧ s.hbm.wf = true ∧ 0 ∉ s.hbmLost ∧ inSelfRefresh s (copySectors e) = false
          ∧ lostLine [2] 1 = none ∧ lostLine [3] 1 = some 0))
    && [false, true].all (fun again =>
        let e := { entry1 0 1 .draining (desc1 0 0 2 0) with evict := some (req1 (desc1 0 0 2 0)), evRec := again }
        let u := stageDie 3 (withLedger [e])
        decide (entryOf u 3 0 = some e ∧ drainOf u 3 e = some (req1 (desc1 0 0 2 0)) ∧ e.state = .draining ∧ e.reads = 0 ∧ e.stage = true
          ∧ drainTo e (req1 (desc1 0 0 2 0)) = 2
          ∧ inSelfRefresh u ((List.range (dLines e.desc)).map (fun k => dAddr (req1 (desc1 0 0 2 0)).w 2 / 64 + k)) = false)
        && (match readCopy u 3 e (req1 (desc1 0 0 2 0)) with
            | .lines m => decide (m.length = 1)
            | _ => false))
    && (let e := { entry1 0 2 .draining (desc1 0 0 2 0) with evict := some (req1 (desc1 0 0 2 0)), wbRun := true }
        let u := stageDie 3 (withLedger [e])
        decide (entryOf u 3 0 = some e ∧ drainOf u 3 e = some (req1 (desc1 0 0 2 0)) ∧ e.reads = 0 ∧ drainTo e (req1 (desc1 0 0 2 0)) = 3
          ∧ e.wbRun = true ∧ u.stp.cmds = []))
    && (let e := { entry1 0 1 .draining (desc1 0 0x3FFFFFFFF 2 0 |>.set 5 3) with evict := some (req1 (desc1 0 0xFFFFFFFF 2 0 |>.set 5 3)) }
        let u := stageDie 3 (withLedger [e])
        decide (entryOf (hitHbm [] u) 3 0 = some e ∧ e.fill = false ∧ drainOf (hitHbm [] u) 3 e = e.evict ∧ readHeld u 3 0 = false)
        && (match readNow (hitHbm [] u) 3 0 with
            | some (.lines ls, (3, 0), 1, 0) => decide (ls.length = 1)
            | _ => false))) = true := by decide +kernel

/-- A fill whose HBM source is flagged, through an entry and at once; recoveries that have obtained nothing and everything;
and one that waits for the host. -/
theorem test_recovery_hypotheses :
    ((let h := Hit.mk 0 0 0 1
      let f := { entry1 0 1 .filling (desc1 0 0 5 0) with fill := true, src := .entry 2 3 1 }
      let g := { entry1 1 2 .resident (desc1 0 0 5 0) with reads := 1 }
      let u := stageDie 3 (withLedger [f, g])
      !(readHeld u 3 0) && decide (entryOf (hitHbm [h] u) 3 0 = some f ∧ entryOf (hitHbm [h] u) 3 1 = some g)
      && (match readNow (hitHbm [h] u) 3 0 with
          | some (.sectors bad, (3, 1), 2, 0) => decide (bad = [(0, 1)] ∧ 0 = g.addr / 64 ∧ ∀ p ∈ bad, p.1 < g.addr / 64 + 1)
              && decide ((entryOf (recordBad bad 0 f.tile (hitHbm [h] u)) 3 1).map (fun y => y.idx) = some 1)
          | _ => false))
    && (let e := { entry1 0 2 .filling (desc1 0 0 4 0) with recov := 4 }
        let s := { withLedger [e] with stp := { Storage.reset with staged := [(4096 * (2048 * 3 + 0), List.replicate 4096 0)] } }
        decide (entryOf s 3 0 = some e ∧ inSelfRefresh s ((List.range (dLines e.desc)).map (fun k => dAddr e.desc 2 / 64 + k)) = false)
        && decide ((obtained s 3 e).map (fun x => x.isNone) = some true))
    && (let e := { entry1 0 2 .filling (desc1 0 0 1 7) with recov := 1, fetched := [(0, [(0, (List.replicate 64 7, 1))])] }
        let s := setCtx (withLedger [e]) 7 (kindCtx 7)
        decide (entryOf s 3 0 = some e ∧ e.recov ≠ 5 ∧ obtained s 3 e = some (some ([(List.replicate 64 7, 1)], 0))))
    && (let e := { entry1 2047 2 .filling (desc1 0 0 5 0) with recov := 5 }
        let s := withLedger [e]
        decide (entryOf s 3 2047 = some e ∧ e.recov = 5 ∧ e.supplied = false))) = true := by decide +kernel

theorem fld_hi (a b : Nat) (_ha : a < 2 ^ 32) (hb : b < 2 ^ 32) : fld (BitVec.ofNat 64 (a * 2 ^ 32 + b)) 32 32 = a := by
  unfold fld
  rw [BitVec.toNat_ofNat]
  omega
theorem fld_lo (a b : Nat) (_ha : a < 2 ^ 32) (hb : b < 2 ^ 32) : fld (BitVec.ofNat 64 (a * 2 ^ 32 + b)) 0 32 = b := by
  unfold fld
  rw [BitVec.toNat_ofNat]
  omega

/-- A sector that holds the check word of its data reads good under the version tag of that check word. -/
theorem good_sector (s : State) (n : Nat) (v : W32) (tag : Nat) (hf : s.hbmFlag = []) (h : sectorCk s n = checkWord n (sectorData s n) v tag) :
    sectorClass s n v = 0 := by
  unfold sectorClass
  rw [h]
  unfold checkWord
  simp only [fld_hi _ _ (BitVec.isLt _) (BitVec.isLt _), fld_lo _ _ (BitVec.isLt _) (BitVec.isLt _), BitVec.ofNat_toNat,
    BitVec.setWidth_eq, hf, Tab.find, Option.isSome_none, Bool.false_eq_true, if_false, if_true]

/-- `host` whose sector 0 is written with version tag 0. -/
def goodHbm (s : State) : State := { s with hbmCk := [(0, checkWord 0 (List.replicate 64 0) 0 0)] }
theorem good_read (s : State) (h : s.hbm = []) (hf : s.hbmFlag = []) :
    readHbm (goodHbm s) 0 1 0 = .lines [(List.replicate 64 0, sectorTag (goodHbm s) 0)] := by
  have hd : sectorData (goodHbm s) 0 = List.replicate 64 0 := by
    unfold sectorData goodHbm
    rw [h]
    exact bytes_nil _ _
  have hc : sectorClass (goodHbm s) 0 0#32 = 0 := good_sector _ _ _ 0 hf (by rw [hd]; simp [goodHbm, sectorCk, Tab.get])
  unfold readHbm
  simp [hc, hd]

theorem tag_zero (c : W32) : fld (BitVec.ofNat 64 ((BitVec.ofNat 32 (at_ (BitVec.toNat (0 : W32)) 8 24 + 0 % 8)).toNat * 2 ^ 32 + c.toNat)) 32 3 = 0 := by
  have h : (BitVec.ofNat 32 (at_ (BitVec.toNat (0 : W32)) 8 24 + 0 % 8)).toNat = 0 := by decide
  have := c.isLt
  unfold fld
  rw [h, BitVec.toNat_ofNat]
  omega
/-- Its line takes scale tag 0. -/
theorem good_tag (s : State) : sectorTag (goodHbm s) 0 = 0 := by
  have h : sectorCk (goodHbm s) 0 = checkWord 0 (List.replicate 64 0) 0 0 := rfl
  unfold sectorTag
  rw [h]
  exact tag_zero _

/-- BAR2 reads up to the end of the window, of good and of flagged sectors, and a write of the window's last sector; STAG 4
and 5; the edges of the temperatures and of the replays; held accesses. -/
theorem test_hbm_hypotheses :
    ((let s := { host with xferCheck := 2 }
      decide (0x3FFFFFFC0 + 64 ≤ 2 ^ s.pci.bar2Log2 ∧ bar2Addr s 0x3FFFFFFC0 + 64 ≤ hbmEnd
        ∧ inSelfRefresh s (sectorsOf (bar2Addr s 0x3FFFFFFC0) 64) = false
        ∧ (readUntracked 3 (sectorsOf (bar2Addr s 0x3FFFFFFC0) 64) (hitHbm [] s)).1 = []))
    && (let h := Hit.mk 0 0 0 1
        decide ((readUntracked 3 (sectorsOf (bar2Addr host 0) 64) (hitHbm [h] host)).1 ≠ []))
    && decide (bar2Addr host 0x3FFFFFFC0 = 64 * 0xFFFFFFF ∧ 64 * 0xFFFFFFF + 64 ≤ hbmEnd ∧ inSelfRefresh host [0xFFFFFFF] = false
        ∧ host.hbm.wf = true ∧ 0xFFFFFFF ∉ host.hbmLost)
    && decide (fld (0x4000000000#64) 36 3 = 4 ∧ fld (0x5000000000#64) 36 3 = 5)
    && decide (sectorStack 0 = 0 ∧ 64 * 0 < hbmEnd ∧ sectorStack 0x35FFFFFF < 12)) = true := by decide +kernel

/-- An NVMe command in flight, one that is being aborted, and controllers in their first and their third reset. -/
def nv1 (aborting : Bool) : NvCmd :=
  { id := 4, ctrl := 3, q := 0, op := 1, ns := 1, lba := 0, blocks := 1, off := 0, use := .orphan, data := [], sent := true, aborting := aborting,
    abortSent := aborting }

theorem test_nvme_hypotheses :
    ([false, true].all (fun a =>
      let s := { host with stp := { Storage.reset with cmds := [nv1 a], ctrl := [(3, { NvCtrl.reset with present := true })] } }
      decide (s.stp.cmds.find? (fun c => c.ctrl = 3 ∧ c.id = 4 ∧ c.sent) = some (nv1 a) ∧ (nv1 a).aborting = a ∧ (nvCtrl s 3).present = true)
      && (a || decide (s.stp.cmds.find? (fun c => c.ctrl = 3 ∧ c.id = 4 ∧ c.sent ∧ !c.aborting) = some (nv1 a)))
      && (!a || decide (s.stp.cmds.find? (fun c => c.ctrl = 3 ∧ c.id = 4 ∧ c.sent ∧ c.abortSent) = some (nv1 a))))
    && [0, 1, 2].all (fun n =>
      let s := { host with stp := { Storage.reset with ctrl := [(3, { NvCtrl.reset with present := true, inReset := true, resets := n })] } }
      decide ((nvCtrl s 3).inReset = true ∧ (nvCtrl s 3).resets = n))) = true := by decide +kernel

/-! ### The fabric -/

/-- Device 0 of domain 0 with link 63 joined to device 1, both ways, in the plan 1, and device 1 permitted. -/
def link1 : Link :=
  { Link.reset with state := 3, txLock := true, rxLock := true, txEn := true, rxEn := true, txGid := 1, rxGid := 1, clean := true, txLine := 5, rxLine := 5 }
def fab (l : Link) (f : Mer → Mer) : State :=
  let s := setLink host 63 l
  let s := setPhot s 6 { Phot.reset with route := [(1, 1#32), (64, 1#32)] }
  { s with mer := f { s.mer with planId := 1 } }

/-- A cell from device 1 to this package on link 63: type, flow, sequence, offset and its bytes. -/
def cell1 (typ flow seq off : Nat) (bs : List Byte) : Cell :=
  let n := if typ = 1 ∨ typ = 3 ∨ typ = 4 then 1 else 4
  { src := 1, dst := 0, plane := 63, typ := typ, epoch := 0, flow := flow, seq := seq, off := off
    lines := (List.range n).map (fun i => ((bs ++ List.replicate (64 * n - bs.length) 0).drop (64 * i)).take 64), tags := [0] }

/-- The conditions of `Delivered`, to be evaluated. -/
def deliveredB (s : State) (c : Cell) : Bool :=
  receiving s 63 && decide (c.dst = ownGid s ∧ c.plane = 63) && (!(filtered c && decide (c.src ≠ ownGid s)) || permitted s (linkDie 63) c.src)
theorem delivered_of {s : State} {c : Cell} (h : deliveredB s c = true) : Delivered s 63 c := by
  simp only [deliveredB, Bool.and_eq_true, Bool.or_eq_true, decide_eq_true_eq, Bool.not_eq_true'] at h
  refine ⟨h.1.1, h.1.2.1, h.1.2.2, fun hf hs => ?_⟩
  obtain h2 | h2 := h.2
  · simp [hf, hs] at h2
  · exact h2

/-- Slots of phase lock; a plane in service that carries a slot; planes out; the coordinator and another package. -/
theorem test_schedule_hypotheses :
    ((let s := { host with mer := { Mer.reset with phaseLock := true, link := [(0, { Link.reset with state := 1, txLock := true }),
        (7, { Link.reset with state := 1, txLock := true })] } }
      decide (s.mer.phaseLock = true ∧ s.mer.slot = 0 ∧ (linkOf s 7).state = 1 ∧ (linkOf s 7).txLock = true ∧ slotOffset s 7 = some 56
        ∧ (linkOf s 0).state = 1 ∧ (linkOf s 0).txLock = true ∧ slotOffset s 0 = some 0 ∧ s.mer.unsure = false
        ∧ (7, (s.boot.device + 56) % 64) ∉ s.mer.muted ∧ slotCell s 7 (64 * s.boot.domain + (s.boot.device + 56) % 64) = none
        ∧ returnCell s (linkDie 7) (64 * s.boot.domain + (s.boot.device + 56) % 64) = none)
      && (let u := sendControl 56 9 [] { s with mer := { s.mer with phot := [(6, { Phot.reset with route := [(56, 1#32)] })] } }
          match slotCell u 7 56 with
          | some t => decide (t.cls ≠ 5)
          | none => false))
    && (let s := { host with mer := { Mer.reset with addrOut := 0x40, slot := 1023 } }
        planeOut s 6 && !(planeOut s 7) && decide (s.mer.planes16 = true ∨ planeOut s ((5 + 7) % 8) = false ∨ s.mer.slot / 8 % 2 = 0)
        && !(planeOut s 5) && decide (slotOffset s 7 = some ((7 + 8 * 6) % 64)))
    && (let s := { host with mer := { Mer.reset with phaseLock := true, coordinator := true, superframe := 3 } }
        decide (s.mer.coordinator = true ∧ (s.mer.superframe + 1) % 4 = 0 ∧ s.mer.addrOut = 0 ∧ s.mer.reports = [] ∧ s.mer.calPlane = 0xFF
          ∧ 15 < 64 ∧ (7, 63) ∉ s.mer.muted ∧ 7 < planeCount s))
    && [false, true].all (fun co =>
        let s := fab link1 (fun m => { m with coordinator := co, coordId := 1, phaseLock := true })
        [8, 9, 10, 11].all (fun sub =>
          let c := cell1 2 0 0 0 ([BitVec.ofNat 8 sub, 0, 0, 0, 0, 0, 0, 0] ++ [0, 0, 0, 0, 7, 0])
          deliveredB s c && decide (c.typ = 2 ∧ pNat c 0 1 = sub ∧ c.src = 64 * s.boot.domain + s.mer.coordId ∧ pNat c 12 1 < planeCount s
            ∧ ownDomain s c.src = true ∧ c.src % 64 ≠ s.boot.device ∧ s.mer.coordinator = co)))) = true := by decide +kernel

/-- A context of a kind with two members, this package the first and device 1 the second. -/
def pairCtx (k : Nat) : Ctx := Ctx.fresh ([BitVec.ofNat 32 (0x20000 + k), 0#32, 16#32] ++ List.replicate 13 0#32 ++ [0x10000#32] ++ List.replicate 31 0#32)

/-- DATA cells of each kind that is filtered, refused, dropped or served; a BARRIER cell; an ABORT cell; a TEST cell. -/
theorem test_cell_hypotheses :
    ((let c := cell1 1 7 5 15 []
      let s := fab link1 id
      decide (c.typ = 1 ∧ c.lines ≠ [] ∧ c.lines.length ≤ 4 ∧ c.off ≠ engineOff) && receiving s 63
      && decide (permitted s (linkDie 63) 2 = false ∧ { c with src := 2 }.src ≠ ownGid s)
      && decide ({ c with dst := 63 }.dst ≠ ownGid s ∧ ownDomain s 63 = true ∧ (linkOf s 63).cabNow ≠ 1)
      && decide ({ c with plane := 62 }.plane ≠ 63 ∧ { c with dst := 64 }.dst ≠ ownGid s ∧ ownDomain s 64 = false)
      && deliveredB s c && decide (ctxOf s c.flow = none)
      && (let x := putCtx
          let t := setCtx s 7 x
          deliveredB t c && decide (ctxOf t c.flow = some x ∧ c.seq ∉ x.seen.get [] c.src ∧ x.quiet = false ∧ c.epoch = cEpoch x ∧ cKind x = 1
            ∧ cSelf x = 0 ∧ (cIndex x 0).isSome = true ∧ c.off + c.lines.length ≤ cLines x ∧ { c with epoch := 1 }.epoch ≠ cEpoch x)
          && decide (c.seq ∈ ({ x with seen := [(1, [5])] } : Ctx).seen.get [] c.src ∧ ({ x with quiet := true } : Ctx).quiet = true)
          && (cIndex (pairCtx 1) 1).isSome)
      && [2, 3, 5, 6].all (fun k =>
          let d := { c with off := 0 }
          let t := setCtx s 7 (pairCtx k)
          deliveredB t d && decide (ctxOf t d.flow = some (pairCtx k) ∧ d.seq ∉ (pairCtx k).seen.get [] d.src ∧ (pairCtx k).quiet = false
            ∧ d.epoch = cEpoch (pairCtx k) ∧ inSelfRefresh t (cellSectors t (pairCtx k) 0 d) = false ∧ cIndex (pairCtx k) d.src = some 1
            ∧ cKind (pairCtx k) = k ∧ (1 + 1) % cMembers (pairCtx k) = cSelf (pairCtx k) ∧ runOf t d.flow = none
            ∧ d.off + d.lines.length ≤ regionLines t (pairCtx k) 0))
      && (let e := { entry1 0 2 .filling (desc1 0 0 1 7) with recov := 1, holder := 1 }
          let d := { c with off := 0 }
          let t := setCtx (setDie s 3 { Die.reset with ledger := [e] }) 7 (pairCtx 7)
          deliveredB t d && decide (ctxOf t d.flow = some (pairCtx 7) ∧ d.epoch = cEpoch (pairCtx 7) ∧ cIndex (pairCtx 7) d.src = some 1
            ∧ cKind (pairCtx 7) = 7 ∧ inSelfRefresh t (cellSectors t (pairCtx 7) (2048 * 3) d) = false ∧ d.off + d.lines.length ≤ dLines e.desc
            ∧ (recovsOf t d.flow 1).find? (fun x => decide (2048 * x.1 + x.2.idx = 2048 * 3 ∧ x.2.holder = 1)) = some (3, e))))
    && (let x := Ctx.fresh ([0x20004#32, 0, 0] ++ List.replicate 13 0 ++ [0x10000#32] ++ List.replicate 31 0)
        let s := setCtx (fab link1 id) 7 x
        [0, 1].all (fun r => [0, 6].all (fun rd =>
          let c := cell1 3 7 0 0 (leBytes 4 r ++ [0, BitVec.ofNat 8 rd])
          c.typ == 3 && deliveredB s c && decide (ctxOf s c.flow = some x ∧ c.epoch = cEpoch x ∧ pNat c 4 1 < 7)
          && decide (pNat c 0 4 = x.runs ∨ pNat c 0 4 = (x.runs + 1) % 2 ^ 32)
          && (rd != 0 || decide (c.src = cMember x ((cSelf x + 128 * cMembers x - 2 ^ pNat c 4 1) % cMembers x)))
          && decide ((pNat c 0 4, pNat c 5 1, pNat c 4 1) ∉ x.rounds))))
    && (let c := cell1 4 0 0 0 ([0xFF, 0xFF, 8, 0] ++ leBytes 4 1 ++ leBytes 2 1)
        let s := fab link1 id
        c.typ == 4 && deliveredB s c && decide ((pNat c 8 2, BitVec.ofNat 32 (pNat c 4 4)) ∉ s.mer.aborts))
    && (let c := { cell1 5 0 0 0 [] with plane := 0 }
        let s := setPhot (setLink host 0 { Link.reset with state := 1, rxLock := true }) 5 { Phot.reset with route := [(1, 1#32)] }
        decide (c.typ = 5) && receiving s 0 && decide (c.dst = ownGid s ∧ c.plane = 0) && permitted s (linkDie 0) c.src
        && decide (isAddr s 0 = true ∧ slotOffset s 0 = some 0 ∧ heardLine s 0 = some 0 ∧ s.boot.ready = true)
        && (let t := fab { link1 with rxEn := false, rxHold := some 1 } id
            deliveredB t { c with plane := 63 } && decide (heardLine t 63 = none)))
    && (let s := fab { link1 with good := [(1, 3)], hist := [(4, { cell1 1 7 5 15 [] with src := 0, dst := 1 })] }
            (fun m => { m with sent := [⟨{ cell1 1 7 5 15 [] with src := 0, dst := 1 }, 63⟩] })
        let e : W64 := BitVec.ofNat 64 (3 + 1 * 2 ^ 36 + 63 * 2 ^ 48)
        decide (fld e 0 4 = 3)
        && decide ((linkOf s (fld e 48 6)).hist.find? (fun h => decide (h.1 = (linkOf s (fld e 48 6)).good.get 0 1 + fld e 36 12))
          = some (4, { cell1 1 7 5 15 [] with src := 0, dst := 1 }))
        && decide (s.mer.sent.find? (fun x => decide (x.cell = { cell1 1 7 5 15 [] with src := 0, dst := 1 } ∧ x.link = fld e 48 6))
          = some ⟨{ cell1 1 7 5 15 [] with src := 0, dst := 1 }, 63⟩))
    && (let s := fab link1 id
        let c := cell1 2 0 0 0 [1]
        deliveredB s c && decide (c.typ = 2 ∧ pNat c 0 1 = 1) && decide (periodSource s 63 = some 1 ∧ receiving s 63 = true)
        && decide ((linkOf s 63).txEn = true ∧ (linkOf s 63).txLock = true ∧ (linkOf s 63).state = 3 ∧ (linkOf s 63).ending = none
          ∧ (linkOf s 63).idleUntil.toNat ≤ s.aoCount.toNat ∧ (linkOf s 63).parked = false ∧ s.mer.tx.find? (portTakes s 63) = none)
        && (let t := TxCell.plain 5 (cell1 1 7 5 15 [] |> fun c => { c with src := 0, dst := 1 })
            let u := setPhot { s with mer := { s.mer with tx := [t] } } 6 { Phot.reset with route := [(1, 3#32)] }
            decide (u.mer.tx.find? (portTakes u 63) = some t)))) = true := by decide +kernel

/-- A plan that breaks no rule; links that settle, offer, hold and time out; each control cell of a lease; calibration. -/
theorem test_lease_hypotheses :
    ((let s := { withHead jobHost (cmd 0x30 []) with hbm := [(0, 1)], xferCheck := 2 }
      headPasses s 0x30 && decide (s.job.opened = true) && !(hbmRangeBad (cw2 (headCmd s 63) 6) 1088) && !(fenced s)
      && !(inSelfRefresh s (sectorsOf (cw2 (headCmd s 63) 6) 1088))
      && decide ((readStruct [] 0 1088 s).1 = [] ∧ planFault s [] (wordsOf (s.hbm.bytes 0 1088)) = none))
    && [{ link1 with state := 2, txSettling := true, changing := true },
        { link1 with state := 2, rxSettling := true, rxHold := some 1, changing := true }].all (fun l => [none, some 1].all (fun old =>
        let s := { fab { l with ending := old } id with cmds := [⟨9, 0, 0, .lease⟩] }
        decide ((linkOf s 63).state = 2 ∧ (linkOf s 63).state ≠ 8 ∧ (linkOf s 63).txEn = true ∧ (linkOf s 63).txLock = true
          ∧ (linkOf s 63).ending = old ∧ ((linkOf s 63).txSettling = true ∨ ((linkOf s 63).rxSettling = true ∧ (linkOf s 63).rxHold.isSome = true))
          ∧ (linkOf s 63).changing = true)
        && s.cmds.any (fun c => decide (c.work = .lease))))
    && (let s := fab { link1 with state := 8, back := 2, txSettling := true } id
        decide ((linkOf s 63).txSettling = true ∧ (linkOf s 63).state = 8 ∧ (linkOf s 63).rxSettling = false ∧ (linkOf s 63).txEn = true))
    && (let c := cell1 2 0 0 0 ([5, 0, 0, 0, 0, 0, 0, 0] ++ [1, 0, 0, 0, 63, 5])
        [none, some 1].all (fun h =>
          let s := fab { link1 with state := 2, rxHold := h } id
          deliveredB s c && decide (pNat c 0 1 = 5 ∧ pNat c 12 1 = 63 ∧ (linkOf s 63).rxHold = h ∧ (linkOf s 63).rxEn = true ∧ (linkOf s 63).rxGid = c.src)))
    && [2, 3].all (fun n =>
        let c := cell1 2 0 0 0 ([7, 0, 0, 0, 0, 0, 0, 0] ++ [1, 0, 0, 0, 63, 5])
        let s := fab { link1 with state := n } id
        deliveredB s c && decide (pNat c 0 1 = 7 ∧ pNat c 12 1 = 63 ∧ aim (linkOf s 63) = some c.src ∧ (linkOf s 63).state = n))
    && (let c := cell1 2 0 0 0 ([2, 0, 0, 0, 0, 0, 0, 0] ++ [1, 0, 0, 0, 63, 5])
        let s := fab { link1 with state := 2 } id
        deliveredB s c && decide (pNat c 0 1 = 2 ∧ pNat c 12 1 < 64 ∧ offerFault s c = none)
        && decide (offerFault (fab { link1 with rxEn := false } id) c = some 2)
        && [(3, 0), (4, 1), (4, 2), (4, 3), (5, 0), (6, 0), (7, 0)].all (fun x =>
          let c := cell1 2 0 0 0 ([BitVec.ofNat 8 x.1, 0, 0, 0, 0, 0, 0, 0] ++ [1, 0, 0, 0, 63, 5, BitVec.ofNat 8 x.2])
          deliveredB s c && decide (pNat c 0 1 = x.1 ∧ pNat c 12 1 = 63 ∧ pNat c 14 1 = x.2) && answers s c && decide (s.pwr.sagStage < 4)
          && decide ((linkOf s 63).txEn = true ∧ (linkOf s 63).txGid = c.src ∧ (linkOf s 63).state = 2)))
    && (let s := { fab link1 (fun m => { m with calLink := 62 }) with cmds := [] }
        (List.range 64).all (fun q => decide ((linkOf s q).state ≠ 5)) && decide (63 = (s.mer.calLink + 1) % 64 ∧ (linkOf s 63).state = 3
          ∧ (photOf s (linkDie 63)).calEn = true))
    && (let s := fab { link1 with state := 5, back := 3 } id
        decide ((linkOf s 63).state = 5 ∧ (linkOf s 63).back = 3 ∧ isAddr s 63 = false ∧ s.mer.calWait = false ∧ 63 ≠ s.mer.calPlane
          ∧ s.boot.ready = true ∧ State.reset.boot.ready = false))) = true := by decide +kernel

/-- Links in each state that a clause speaks of, and the fibres. -/
theorem test_link_hypotheses :
    ([3, 6, 7, 10].all (fun n =>
      let s := fab { link1 with state := n, back := 9 } id
      decide ((linkOf s 63).state = n ∧ (linkOf s 63).back = 9 ∧ (linkOf s 63).txEn = true ∧ isAddr s 63 = false ∧ s.mer.sent = [])
      && !(calibrating s) && (List.range 64).all (fun q => decide ((linkOf s q).ending = none)))
    && (let s := { host with mer := { Mer.reset with fibre := [(1, { Fibre.reset with state := 2 }), (2, { Fibre.reset with state := 1 }),
          (3, { Fibre.reset with enHigh := false, lowLow := false })] } }
        decide ((fibreOf s 3).enHigh = false ∧ (fibreOf s 3).lowLow = false ∧ (fibreOf s 1).state = 2 ∧ (fibreOf s 2).state ≠ 0 ∧ (fibreOf s 2).state ≠ 2
          ∧ s.pwr.shdnHigh = true))) = true := by
  decide +kernel

/-- An engine line of operation `op` for a context of kind `k`. -/
def lineFab (k : Nat) (f : State → State) : State := f (setCtx (fab link1 id) 30000 (kindCtx k))
theorem test_engine_hypotheses :
    ([(1, 1), (2, 2), (3, 2), (4, 7), (5, 7), (6, 5), (7, 6)].all (fun x =>
      let c := cell1 1 30000 5 engineOff [BitVec.ofNat 8 x.1]
      let s := lineFab x.2 id
      decide (c.typ = 1 ∧ c.off = engineOff ∧ c.lines.length = 1 ∧ pNat c 0 1 = x.1) && deliveredB s c
      && decide (ctxOf s c.flow = some (kindCtx x.2) ∧ c.seq ∉ (kindCtx x.2).seen.get [] c.src ∧ (kindCtx x.2).quiet = false
        ∧ c.epoch = cEpoch (kindCtx x.2) ∧ cKind (kindCtx x.2) = x.2))
    && (let r : FRun := { ctx := 30000, parts := [], st := 1, ver := 0, epoch := 0, sums := [], left := 0, landed := [], win := 0, folding := false, fold := [], shards := [],
                          q := 0, zPart := [], stats := 1, chainIn := none, round := 0, sentRound := 0, early := [] }
        let c := cell1 1 30000 5 engineOff [2]
        let s := lineFab 2 (fun s => setPhot s 6 { photOf s 6 with runs := [r] })
        decide (runOf (noteSeq c (ackCell c s)) c.flow = some r ∧ r.st = 1 ∧ (r.stats = 1 ∨ r.stats = 2)
          ∧ inSelfRefresh s [statsAt (kindCtx 2) / 64] = false)
        && (let t := setPhot s 6 { photOf s 6 with runs := [{ r with st := 3, landed := [0] }] }
            decide (runOf t 30000 = some { r with st := 3, landed := [0] } ∧ inSelfRefresh t (landedSectors t { r with st := 3, landed := [0] }) = false)))
    && (let c := cell1 1 30000 5 engineOff ([4, 0, 0, 0, 0, 0, 0, 0] ++ leBytes 8 (hbmEnd - 64) ++ leBytes 4 1)
        let d := cell1 1 30000 5 engineOff ([4, 0, 0, 0, 0, 0, 0, 0] ++ leBytes 8 hbmEnd ++ leBytes 4 1)
        decide (pNat c 8 8 % 64 = 0 ∧ pNat c 8 8 + 64 * pNat c 16 4 ≤ hbmEnd ∧ hbmEnd < pNat d 8 8 + 64 * pNat d 16 4
          ∧ inSelfRefresh (lineFab 7 id) (fetchSectors c (kindCtx 7) (lineFab 7 id)) = false
          ∧ inSelfRefresh (lineFab 7 id) (fetchSectors d (kindCtx 7) (lineFab 7 id)) = false))
    && (let b : Rebl := { no := 9, new := 1, permute := true, stage := 3, base := 30000, count := 1, sends := [], recvs := [], got := [], total := [],
                          ended := [], landed := [], round := 0, sentRound := 0 }
        let s := lineFab 5 (fun s => { s with mer := { s.mer with rebl := some b } })
        decide (s.mer.rebl = some b ∧ b.stage = 3 ∧ b.base ≤ 30000)
        && (let t := lineFab 5 (fun s => { s with mer := { s.mer with rebl := some { b with stage := 1, permute := false } } })
            decide (t.mer.rebl = some { b with stage := 1, permute := false } ∧ (photOf t 5).runs = [] ∧ (photOf t 6).runs = [])))
    && (let x := Ctx.fresh ([0x30006#32, 0, 1] ++ List.replicate 45 0)
        let c := cell1 1 30000 5 engineOff ([7, 0, 0, 0] ++ leBytes 4 0 ++ leBytes 4 1)
        let y := Ctx.fresh ([0x2030006#32, 0, 1] ++ List.replicate 45 0)
        decide (cKind x = 6 ∧ pNat c 4 4 + pNat c 8 4 ≤ cLines x ∧ cMembers y ≤ cSelf y + 2)
        && decide (shardBase x + 64 * pNat c 4 4 = 0 ∧ pNat c 8 4 = 1 ∧ runVer (goodHbm host) x = 0 ∧ inSelfRefresh host (stripeSectors c x host) = false)
        && (let e := { entry1 0 2 .filling (desc1 0 0 3 30000) with recov := 3 }
            let s := setCtx (withLedger [e]) 30000 x
            let t := setPhot s 6 { photOf s 6 with route := [(0, 1#32)] }
            decide (entryOf s 3 0 = some e ∧ ctxOf s (dArg e.desc) = some x ∧ shardLine x e = some 0 ∧ e.recov = 3 ∧ e.askedQ = false
              ∧ 0 < dLines e.desc ∧ e.fetched.get [] (cMembers x - 2) = [] ∧ answered e = false ∧ ctxDie (dArg e.desc) = 6)
            && !(permitted s 6 (cMember x (cMembers x - 2 + 1))) && permitted t 6 (cMember x (cMembers x - 2 + 1))))
    && (let s := setCtx (fab link1 id) 30000 { kindCtx 4 with quiet := true }
        decide ((ctxOf s 30000).map (fun x => x.quiet) = some true))) = true := by decide +kernel

/-- A port in training at the width of both ends, a port that is up, and the companion. -/
def compHost : State :=
  { host with d2d := { D2d.reset with comp := { Comp.reset with
      state := 3, desc := [0x43, 0x4B, 1, 12] ++ List.replicate 28 0, apEn := true, apSize := 1, apBase := 863, reqs := [(0, ⟨true, 0, 8, 0, false⟩), (1, ⟨false, 0xFFC, 4, 0, true⟩)] } } }
theorem test_port_hypotheses :
    ((let s := setPort host 0 0 { Port.reset false with state := 1 }
      mayTrain s 0 0 (List.replicate 12 2) (List.replicate 12 2) && decide ((portOf s (agreeEnd 0 0).1 (agreeEnd 0 0).2).agree = none))
    && (let s := setPort host 6 3 { Port.reset false with state := 2, width := [2, 2, 2, 1] }
        decide ((6, 3) ∈ allPorts ∧ (portOf s 6 3).state = 2 ∧ (portOf s 6 3).width.getD 3 0 ≠ 0
          ∧ (withinTicks s 5000 ((portOf s 6 3).retries.get [] 3)).length < 31))
    && (compPresent compHost && regSizeOk 0xFF8 8 && regSizeOk 0xFFC 4 && decide (0xFFC < compSpace compHost)
        && decide ((compHost.d2d.comp.reqs.find 0).map (fun r => r.write) = some true ∧ (compHost.d2d.comp.reqs.find 1).map (fun r => r.write) = some false)
        && inAperture compHost 0x3FFFFF00 256 && !(inAperture compHost 0x3FFFFF40 256)
        && !(inSelfRefresh compHost (sectorsOf (compHost.d2d.comp.apBase * 2 ^ 30 + 0x3FFFFF00) 256))
        && decide (compHost.d2d.comp.apBase * 2 ^ 30 + 0 = 64 * (863 * 2 ^ 24) ∧ 863 * 2 ^ 24 ∉ compHost.hbmLost))
    && decide (fld (BitVec.ofNat 64 (864 * 2 ^ 12)) 12 10 + fld (BitVec.ofNat 64 (864 * 2 ^ 12)) 32 11 ≤ 864
      ∧ fld (BitVec.ofNat 64 (864 * 2 ^ 12)) 32 11 ≤ apertureGib compHost ∧ fld (0x4000000000#64) 36 3 ≤ 4)) = true := by
  decide +kernel

/-! ### The host port, its ring and its watches -/

/-- `host` with another host port, event ring or start-up. -/
def hostPci (f : Pci → Pci) : State := { host with pci := f host.pci }
def hostEvr (f : Evr → Evr) : State := { hostPci (fun p => { p with winBase := 0x1000#64, winLimit := 0x402008#64 }) with evr := f Evr.reset }

theorem host_reaches (f : Evr → Evr) : HostReaches (hostEvr f) := reaches_of _ (by rfl) (host_dies _ rfl rfl)

theorem test_port_reset_hypotheses :
    (decide (host.pci.linkUp = true ∧ host.pci.ready = true ∧ host.pci.perstHigh = true ∧ host.boot.ready = true ∧ host.boot.starting = false)
    && decide (State.reset.boot.ready = false)
    && decide (runningCls host = [] ∧ runningCls (atIns 0 id) ≠ [])
    && (let s := hostPci (fun p => { p with flr := true })
        decide (s.pci.flr = true ∧ s.boot.stopWarm = none))
    && (let s := hostPci (fun p => { p with linkUp := false })
        decide (s.pwr.aoPwrGd = true ∧ s.pwr.shdnHigh = true ∧ s.pci.perstHigh = true ∧ s.pci.linkUp = false))
    && [30, 40].all (fun n => decide (30 ≤ n ∧ n ≤ 40 ∧ (hostPci (fun p => { p with mse := false })).pci.mse = false))
    && decide ((hostPci (fun p => { p with ready := false })).pci.linkUp = true ∧ (hostPci (fun p => { p with ready := false })).pci.ready = false)
    && decide (mayRequest State.reset = false ∧ State.reset.cmds = [])
    && (let m : Msix := ⟨0x1000#64, 5, false, true⟩
        let s := hostPci (fun p => { p with msix := [(63, m)] })
        decide (mayRequest s = true ∧ s.cmds = [] ∧ s.pci.msix = [(63, m)] ∧ m.pend = true ∧ m.masked = false))
    && decide ((hostPci (fun p => { p with ideState := 2 })).pci.ideState = 2)) = true := by decide +kernel

/-- A ring that may be enabled, of the smallest and the largest size; rings that may not; consumers at both ends. -/
theorem test_ring_hypotheses :
    ([6, 16].all (fun n =>
      let s := hostEvr (fun e => { e with sizeLog2 := n, base := 0x1000#64, wb := 0x402000#64 })
      decide (bit (1#64) 0 = true ∧ s.evr.enable = false ∧ copyRuns s = false ∧ 6 ≤ s.evr.sizeLog2 ∧ s.evr.sizeLog2 ≤ 16 ∧ s.pci.bme = true
        ∧ s.pci.winBase.toNat ≤ s.evr.base.toNat ∧ s.evr.base.toNat + 64 * 2 ^ s.evr.sizeLog2 ≤ s.pci.winLimit.toNat
        ∧ s.pci.winBase.toNat ≤ s.evr.wb.toNat ∧ s.evr.wb.toNat + 8 ≤ s.pci.winLimit.toNat))
    && [5, 17].all (fun n => decide ((hostEvr (fun e => { e with sizeLog2 := n })).evr.sizeLog2 < 6 ∨ 16 < (hostEvr (fun e => { e with sizeLog2 := n })).evr.sizeLog2))
    && (let s := hostEvr (fun e => { e with sizeLog2 := 6, base := 0x1000#64, wb := 0x402001#64 })
        decide (s.pci.winLimit.toNat < s.evr.wb.toNat + 8))
    && decide (bit (0#64) 0 = false ∧ (hostEvr (fun e => { e with enable := true })).evr.enable = true)
    && [(0#32, true), (5#32, true), (6#32, false)].all (fun x =>
        let s := hostEvr (fun e => { e with sizeLog2 := 6, producer := 5 })
        let v : W64 := BitVec.ofNat 64 (x.1.toNat * 2 ^ 32)
        decide (x.1 = (v >>> 32).setWidth 32)
        && decide (((x.1 - s.evr.consumer).toNat ≤ (s.evr.producer - s.evr.consumer).toNat ∧ (s.evr.producer - x.1).toNat ≤ 2 ^ s.evr.sizeLog2)
            ↔ x.2 = true))) = true := by decide +kernel

/-- A record that may be delivered, and each reason why none is. -/
theorem test_delivery_hypotheses :
    ((let r := mkRec { unit := 0, cls := 1 } host
      let up := fun (e : Evr) => { e with sizeLog2 := 6, enable := true, active := true, irqEn := true, coUs := 1, unreported := 1 }
      let s : State := { hostEvr up with recs := { Recs.reset with ring := [r] } }
      decide (s.recs.ring = r :: [] ∧ s.evr.active = true ∧ evrFull s = false ∧ mayRequest s = true ∧ s.evr.irqEn = true ∧ s.evr.coUs ≠ 0
        ∧ s.evr.unreported ≠ 0 ∧ max 1 s.evr.coCount ≤ s.evr.unreported + 1)
      && (let t : State := { s with pci := { s.pci with msix := [(0, ⟨0, 0, false, false⟩)] } }
          decide ((t.pci.msix.get Msix.reset t.evr.vector).masked = false)))
    && evrFull (hostEvr (fun e => { e with sizeLog2 := 6, producer := 64 })) && !(evrFull (hostEvr (fun e => { e with sizeLog2 := 6, producer := 63 })))) = true := by
  decide +kernel

/-- Vectors and watches at the ends of their ranges, counters, widths and offsets of every kind. -/
theorem test_register_hypotheses :
    ((let s := hostPci (fun p => { p with msix := [(63, ⟨0, 0, true, true⟩)] })
      decide ((s.pci.msix.get Msix.reset 63).masked = true ∧ (s.pci.msix.get Msix.reset 63).pend = true ∧ mayRequest s = true
        ∧ (s.pci.msix.get Msix.reset 0).pend = false))
    && [(0, false), (1, false), (2, true), (4, true)].all (fun x =>
        let s := setTok 0x83FF (tokOfCode x.1) false host
        let v : W64 := BitVec.ofNat 64 (0x83FF + 63 * 2 ^ 16 + 2 ^ 24)
        decide (bit v 24 = true ∧ bit v 25 = false ∧ fld v 0 16 = 0x83FF ∧ fld v 16 6 = 63 ∧ (s.pci.watch.get Watch.reset 63).fired = false)
        && decide (2 ≤ tokCode (tokOf s (fld v 0 16)).st ↔ x.2 = true))
    && (isCounter 0x10010 && decide ((regOf (touch 0x10010 host) 0x10010).map (fun x => (x.1, x.2.1)) = some ((0x10010, 8) : Nat × Nat)) && !(readsZero (touch 0x10010 host) 0x10010))
    && (let s := hostPci (fun p => { p with latch := [(0x10010, 7)] })
        decide ((regOf (touch 0x10014 s) 0x10014).map (fun x => (x.1, x.2.1)) = some (0x10010, 8) ∧ s.pci.latch.find 0x10010 = some 7)
        && !(readsZero (touch 0x10014 s) 0x10014))
    && decide ((2 ≠ 4 ∧ 2 ≠ 8) ∨ 0 % 2 ≠ 0) && decide ((8 ≠ 4 ∧ 8 ≠ 8) ∨ 0xFFFFFC % 8 ≠ 0)
    && decide (0xFFFF8 % 8 = 0 ∧ windowDie 0xFFFF8 = some 4 ∧ (regOf host 0xFFFF8).isNone = true ∧ (regOf host 0x20010).isSome = true
        ∧ windowDie 0x20010 ≠ some 7)) = true := by decide +kernel

/-! ### Clocks, temperatures and rails -/

theorem test_clock_hypotheses :
    ([(500, 1), (1500, 2), (1500, 1), (0, 1)].all (fun x =>
      let s := { setCl host 31 { Cluster.reset with clockMhz := x.1 } with aoCount := BitVec.ofNat 64 (5000 * (x.2 - 1)) }
      decide ((clOf s 31).railOff = false ∧ (clOf s 31).clockMhz = x.1))
    && (let s := { host with pwr := { host.pwr with lowSince := some 0#64, powerW := 3200, profPending := true }, aoCount := 50000#64, cmds := [⟨9, 0, 0, .profile 0⟩] }
        decide (profileWatts s.pwr.profile < 3201 ∧ 3103 * 100 < profileWatts s.pwr.profile * 97 ∧ s.pwr.lowSince = some 0#64 ∧ 50000 ≤ (s.aoCount - 0#64).toNat
          ∧ profileWatts s.pwr.profile * 97 ≤ 3104 * 100 ∧ 3104 ≤ profileWatts s.pwr.profile
          ∧ s.pwr.profPending = true ∧ s.pwr.powerW ≤ profileWatts s.pwr.profile ∧ s.cmds = [⟨9, 0, 0, .profile 0⟩])
        && (List.range 32).all (fun cl => (clOf s cl).gated))
    && decide ((clOf host 31).prog = none ∧ (clOf host 31).rotDue = false ∧ (clOf host 31).occTesting = 15 ∧ (clOf host 31).stretched = false
        ∧ (clOf host 31).railOff = false ∧ (clOf (atIns 0 id) 0).prog ≠ none)
    && (let s := setCl { host with pwr := { host.pwr with clamps := [⟨4, 12, 31, 0, 700, 750, false⟩] } } 31 { Cluster.reset with stretched := true }
        decide ((clOf s 31).stretched = true ∧ (clampOf s 12 31).isSome = true ∧ clampOf (setCl host 31 { Cluster.reset with stretched := true }) 12 31 = none))) = true := by
  decide +kernel

/-- Readings at each edge of the thermal rules. -/
theorem test_thermal_hypotheses :
    ([115 * 16, 115 * 16 - 1, 105 * 16 + 1, 105 * 16, 95 * 16 + 1, 95 * 16, 92 * 16, 92 * 16 - 1].all (fun n =>
      let rs : List W16 := [0, 0, 0, BitVec.ofNat 16 n]
      decide (rs.length = 4 ∧ host.pwr.aoPwrGd = true ∧ (hotSensor rs).toInt = n ∧ 4 ∉ host.pwr.hotSeen))
    && [4500, 4501].all (fun fell =>
        let c := { Cluster.reset with hotPast := [(4501#64, 0x610#16), (4500#64, 0x600#16)], fellAt := some (BitVec.ofNat 64 fell), coolSince := some 0 }
        let s := { setCl host 31 c with aoCount := 5000#64 }
        decide ((clOf s 31).inLimit = false ∧ hotThen s (clOf s 31) = some (4500#64, 0x600#16) ∧ (clOf s 31).coolSince = some 0
          ∧ 5000 ≤ (s.aoCount - 0).toNat ∧ (0x5FF#16).toInt < (0x600#16).toInt ∧ 95 * 16 < (0x5FF#16).toInt
          ∧ (clOf s 31).fellAt = some (BitVec.ofNat 64 fell) ∧ ((s.aoCount - BitVec.ofNat 64 fell).toNat < 500 ↔ fell = 4501)))) = true := by
  decide +kernel

/-- Averages at each entry level, stages that may be left or not, and rails above and below their limits. -/
theorem test_rail_hypotheses :
    (decide (host.pwr.tripLow = false ∧ sagActs host = true)
    && [0, 1, 2, 3, 4, 5].all (fun n => [1746 - 36 * n, 1745 - 36 * n].all (fun low =>
      let s := { host with pwr := { host.pwr with sagStage := n } }
      let mv := [low, 1800, 4095, low]
      decide (mv.length = 4 ∧ s.pwr.sagStage = n ∧ low ∈ mv ∧ (1746 - 36 * n ≤ low ∨ (low < 1782 - 36 * (n + 1) ∧ (n + 1 < 6 → 1746 - 36 * (n + 1) ≤ low))))
      && mv.all (fun x => decide (x < 4096 ∧ low ≤ x))))
    && [1638, 1673].all (fun low => decide (host.pwr.sagStage = 0 ∧ low < 1674 ∧ 1638 ≤ low))
    && [1, 2, 3, 4, 5].all (fun n => [1800 - 36 * n, 1801 - 36 * n].all (fun mv =>
      let s := { host with pwr := { host.pwr with sagStage := n, railMv := mv } }
      decide (s.pwr.sagStage = n ∧ (s.pwr.railMv ≤ 1800 - 36 * n ∨ 1800 - 36 * n < s.pwr.railMv))))
    && decide (31 ∉ host.pwr.deadRails ∧ 31 ∉ host.flash.rails ∧ 35 ∉ host.pwr.deadRails ∧ 35 ∉ host.flash.rails)
    && decide ((clOf host 31).voltMv + 50 < 51 ∧ (clOf (setCl host 31 { Cluster.reset with voltMv := 850 }) 31).voltMv + 50 = 900 ∧ host.pwr.shdnHigh = true)
    && decide (host.boot.ready = true)) = true := by decide +kernel

/-! ### Start-up, reset, management and the enclave -/

/-- A start under way at a stage. -/
def starting (n kind : Nat) : State :=
  { host with boot := { Boot.reset with starting := true, stage := n, kind := kind }, mgt := { Mgt.reset with i3c := true } }

/-- A boot record: sequence number and region; its check word is the CRC-32C of its first 60 bytes. -/
def bootRec (seq region : Nat) (check : Nat) : List Byte :=
  [0x4B, 0x34, 0x42, 0x52] ++ leBytes 4 seq ++ [BitVec.ofNat 8 region] ++ List.replicate 51 0 ++ leBytes 4 check
/-- `starting 3` with two boot records, the second of the larger sequence number. -/
def withRecords (a b : Nat) : State :=
  { starting 3 1 with flash := { Flash.reset with bytes := Mem.writes (Mem.writes [] 0 (bootRec 1 0 a)) 0x1000 (bootRec 2 1 b) } }

theorem test_stage_hypotheses :
    ([0, 2, 3, 4, 5, 6, 7, 8, 9, 0xA, 0xB, 0xC].all (fun n => [1, 2].all (fun k => inStage (starting n k) n))
    && decide ((starting 2 1).encl.state ≠ 3 ∧ bootRegion (starting 3 1) = none)
    && decide ((dieOf (starting 6 1) 0).railMv ≤ 1764)
    && (let s := [0, 1, 2, 3].foldl (fun s d => setDie s d { Die.reset with railMv := 1765 }) (starting 6 1)
        [0, 1, 2, 3].all (fun d => decide (1764 < (dieOf s d).railMv)) && !(idGood 0 0))
    && (let s := { starting 0xA 1 with mer := { Mer.reset with combLock := true } }
        decide (s.mer.combLock = true ∧ (starting 0xA 1).mer.combLock = false ∧ (starting 0xA 1).boot.stored = false
          ∧ framesFault s ([].filter (fun f => !(relocks s (linkDie f.link)))) = none ∧ relocks s 5 = false)
        && (framesFault s ([⟨1, 1, 5⟩].filter (fun f => !(relocks s (linkDie f.link))))).isSome)
    && decide (rateOk 0x54 = true ∧ rateOk 0x55 = false ∧ 0 ∉ (starting 9 1).flash.movers)
    && (let s := { starting 9 2 with mer := { Mer.reset with fibre := [(3, { Fibre.reset with state := 1 })] } }
        inStage s 9 && decide (s.boot.kind ≠ 1 ∧ (fibreOf s 0).state = 0 ∧ (fibreOf s 3).state ≠ 0))
    && [none, some 3].all (fun h =>
        let s := { starting 0xC 1 with encl := { Encl.reset with aliasReady := true }, boot := { (starting 0xC 1).boot with warmHeld := h } }
        inStage s 0xC && decide (s.boot.warmHeld = h ∧ s.encl.aliasReady = true ∧ s.encl.committed = false))
    && (let hdr : List Byte := List.replicate 7 0 ++ [1] ++ List.replicate 72 0 ++ [4] ++ List.replicate 15 0
        ([(0, 0, true), (1, 0, true), (1, 4, false)] : List (Nat × Nat × Bool)).all (fun x =>
          let e := { Encl.reset with header := hdr, fusedSvn := x.1, revoked := BitVec.ofNat 16 x.2.1, blown := x.2.2 }
          let s : State := { host with encl := e }
          decide (s.boot.ready = true ∧ s.encl.committed = false ∧ s.encl.blown = x.2.2 ∧ (s.encl.fusedSvn < hSvn s.encl.header ↔ x.1 = 0)
            ∧ hRevoke s.encl.header = 4 ∧ s.encl.revoked.getLsbD 2 = decide (x.2.1 = 4))))
    && decide ((starting 4 2).boot.kind ≠ 1 ∧ (starting 4 2).boot.warmFails < 2)) = true := by decide +kernel

/-- Every die link up in DIE_LINKS, and no route to a die. -/
theorem test_links_hypotheses :
    ((let s := allPorts.foldl (fun s k => setPort s k.1 k.2 { Port.reset false with state := 2 }) (starting 7 1)
      [0, 1, 2].all (fun n => classSettled s n) && decide (cutOff s = none))
    && (let s := allPorts.foldl (fun s k => setPort s k.1 k.2 { Port.reset false with state := 4 }) (starting 7 1)
        [0, 1, 2].all (fun n => classSettled s n) && decide (cutOff s = some 0))) = true := by decide +kernel

/-- Every die identity of good check word. -/
def idWord (d check : Nat) : W128 := BitVec.ofNat 128 (kindAt d + 1 * 2 ^ 4 + check * 2 ^ 96)

/-- An image whose header is well formed, whose signatures and digest pass, is the running image's choice. -/
theorem test_verify_hypotheses (s : State) (g : Nat) (h1 : hMalformed (imageBytes s g 0 512) = false)
    (h2 : hRevoke (imageBytes s g 0 512) / 2 ^ hSigner (imageBytes s g 0 512) % 2 ≠ 1)
    (h3 : signerChecks s.encl.revoked (hSigner (imageBytes s g 0 512)) (imageBytes s g 0x200 64) (imageBytes s g 0x240 29792)
      (imageBytes s g 0 512) (imageBytes s g 0x76A0 29792) = 1)
    (h4 : s.encl.fusedSvn ≤ hSvn (imageBytes s g 0 512))
    (h5 : Config.shake256 (imageBytes s g 0x10000 (hBody (imageBytes s g 0 512))) 64 = hDigest (imageBytes s g 0 512)) :
    verifyImage s g = 1 := by
  unfold verifyImage
  simp [h1, h2, h3, h5, Nat.not_lt.2 h4]

theorem test_reset_hypotheses :
    (decide (State.reset.pwr.aoPwrGd = false ∧ State.reset.boot.recovery = false ∧ State.reset.mgt.upd = none)
    && decide ({ Boot.reset with recovery := true }.recovery = true)
    && decide ((starting 4 1).boot.starting = true ∧ State.reset.boot.starting = false ∧ State.reset.boot.ready = false
        ∧ host.boot.starting = false ∧ host.boot.ready = true ∧ runningCls host = [] ∧ runningCls (atIns 0 id) ≠ [])
    && (let s := { host with boot := { host.boot with stopWarm := some 3 } }
        decide (s.boot.stopWarm = some 3))
    && (let s := { host with encl := { Encl.reset with lockOpen := 1 } }
        decide (lockOpen 0 s = true ∧ lockOpen 0 host = false))
    && decide (host.pwr.aoPwrGd = true ∧ host.boot.recovery = false ∧ host.pwr.tripLow = false)
    && (let s := { host with pwr := { host.pwr with tripLow := true, hubSensors := [0, 0, 0, 1520] } }
        decide (s.pwr.tripLow = true ∧ allCool s = false))
    && decide (host.boot.dieReset = none)
    && (let s := { host with boot := { host.boot with dieReset := some 6, dieHeld := [0] } }
        decide (s.boot.dieReset = some 6 ∧ 5 ∉ s.boot.dieHeld))
    && (let s := allPorts.foldl (fun s k => if k.1 = 6 then setPort s k.1 k.2 { Port.reset false with state := 2 } else s)
          { host with boot := { host.boot with dieReset := some 6 } }
        allPorts.all (fun k => decide (k.1 ≠ 6) || decide ((portOf s k.1 k.2).state = 2)) && decide (s.boot.dieReset = some 6))
    && decide ((coreOf host (9 * 31 + 8)).window = [])) = true := by decide +kernel

/-- A management controller on each binding. -/
def mgtHost (b : Nat) : State := { host with mgt := { Mgt.reset with i3c := decide (b = 1), binding := if b = 1 then 1 else 0 } }
/-- An update under way. -/
def upd1 (got : Nat) (component verified : Bool) : Upd := { binding := 1, size := 5, piece := 4, got := got, version := 1, component := component, verified := verified }

theorem test_update_message_hypotheses :
    ([1, 2, 3].all (fun b => reaches (mgtHost b) b)
    && decide ((mgtHost 1).boot.starting = false ∧ (mgtHost 1).mgt.upd = none ∧ reaches { starting 3 1 with mgt := (mgtHost 1).mgt } 1 = true)
    && [(0, false, false), (0, true, false), (4, true, false), (5, true, false), (5, true, true)].all (fun x =>
        let s := { mgtHost 1 with mgt := { (mgtHost 1).mgt with upd := some (upd1 x.1 x.2.1 x.2.2) } }
        reaches s 1 && decide (s.mgt.upd = some (upd1 x.1 x.2.1 x.2.2) ∧ (upd1 x.1 x.2.1 x.2.2).binding = 1 ∧ s.boot.recovery = false
          ∧ otherRegion s = 0 ∧ s.flash.bytes.wf = true))
    && decide ((0, true, true) ≠ (1, true, true))) = true := by decide +kernel

theorem test_event_hypotheses :
    ((let r := mkRec { unit := 0, cls := 1 } host
      let s := { mgtHost 1 with recs := { Recs.reset with bmc := [r] } }
      reaches s 1 && decide (s.recs.bmc = r :: [] ∧ s.mgt.async = false ∧ (s.mgt.events = 0 ∨ s.mgt.events = 1))
      && [0, 2, 3].all (fun n =>
        let t : State := { s with mgt := { s.mgt with async := true, events := 1, inFlight := some r.seq, tries := n } }
        decide (t.mgt.inFlight = some r.seq ∧ t.mgt.events = 1 ∧ t.mgt.tries = n)))
    && decide (host.pwr.aoPwrGd = true ∧ host.mgt.halted = false ∧ host.mgt.binding ≠ 1 ∧ host.pci.linkUp = true
        ∧ (mgtHost 1).mgt.i3c = true ∧ (mgtHost 1).mgt.binding = 1)
    && (sensors host).any (fun x => decide (x.1 = 0x17 ∧ x.2.1 = false)) && (sensors host).any (fun x => decide (x.1 = 0x43 ∧ x.2.1 = true))
    && decide ((sensors host).length = 34)) = true := by decide +kernel

/-- The enclave in its error state, without and with its alias certificate, with sessions, and unlocked. -/
theorem test_enclave_hypotheses :
    ([0, 3].all (fun st => [false, true].all (fun al => [0, 1, 2].all (fun dbg =>
      let s := { mgtHost 3 with encl := { Encl.reset with state := st, aliasReady := al, aliasKey := al, debug := dbg, sessions := [(7, 3)], ideSets := [1] } }
      reaches s 3 && decide (s.encl.state = st ∧ s.encl.aliasReady = al ∧ s.encl.aliasKey = al ∧ s.encl.debug = dbg ∧ s.encl.udsBlown = false
        ∧ s.encl.identityBad = false ∧ (7, 3) ∈ s.encl.sessions ∧ (8, 3) ∉ s.encl.sessions ∧ s.encl.sessions.length < 4 ∧ 1 ∈ s.encl.ideSets))))
    && decide (4 ≤ ({ Encl.reset with sessions := [(1, 3), (2, 3), (3, 3), (4, 3)] } : Encl).sessions.length)
    && decide ((hostPci (fun p => { p with ideState := 2 })).pci.ideState = 2 ∧ host.pci.ideState ≠ 2)
    && decide (tokenCheck (mgtHost 1) 1 [] = 2)
    && (let s := { mgtHost 3 with encl := { Encl.reset with aliasReady := true, aliasKey := false } }
        reaches s 3 && decide (s.encl.aliasReady = true ∧ s.encl.aliasKey = false ∧ s.encl.debug = 0))
    && compReads compHost 0xFF8 && !(compReads host 0xFF8) && decide (0x300000 + 0xFF8 < 0x400000)
    && decide ((mgtHost 1).pci.conf.vendor = 0x1F6A ∧ (mgtHost 1).pci.conf.device = 0x4864)
    && (let s := { host with encl := { Encl.reset with state := 2, idKey := true, aliasKey := true } }
        mayAttest s && decide (s.boot.ready = true ∧ s.encl.state ≠ 3 ∧ s.boot.starting = false))
    && debugReg 0x20010 8 && debugReg 0x5FFFC 4 && !(debugReg 0x60000 4) && !(debugReg 0x6FFFC 4) && debugReg 0x70000 4) = true := by decide +kernel

theorem test_alias_hypotheses (s : State) (rest : List Meas) :
    ({ s with encl := { s.encl with signing := measNow s :: rest } } : State).encl.signing
      = measNow { s with encl := { s.encl with signing := measNow s :: rest } } :: rest := rfl

/-- A token of which the signatures pass, of this package and of the challenge it holds, within the image's debug level. -/
theorem test_token_hypotheses (s : State) (b : Nat) (t : List Byte) (h1 : t.length = 0xE980) (h2 : (t.take 128).take 4 = [0x4B, 0x34, 0x44, 0x54])
    (h3 : hField (t.take 128) 4 1 = 1) (h4 : hField (t.take 128) 5 1 = 1) (h5 : hField (t.take 128) 6 1 ≤ 15)
    (h6 : (((t.take 128).drop 7).take 1).all (fun b => decide (b = 0)) = true) (h7 : (((t.take 128).drop 48).take 80).all (fun b => decide (b = 0)) = true)
    (h8 : signerChecks s.encl.revoked (hField (t.take 128) 6 1) ((t.drop 0x80).take 64) ((t.drop 0xC0).take 29792) (t.take 128) ((t.drop 0x7520).take 29792) = 1)
    (h9 : hField (t.take 128) 8 8 = fld (s.d2d.ids.get 0 4) 0 64) (h10 : ((t.take 128).drop 16).take 32 = s.encl.challenge)
    (h11 : 1 ≤ hDebugMax s.encl.header) (h12 : s.encl.debug ≤ 1) : tokenCheck s b t = 0 := by
  unfold tokenCheck
  simp only [List.all_eq_true, decide_eq_true_eq] at h6 h7
  simp [h1, h2, h3, h4, Nat.not_lt.2 h5, h8, h9, h10, Nat.not_lt.2 h11, Nat.not_lt.2 h12]
  exact ⟨h6, h7⟩

/-- Die identities and boot records whose check words are the CRC-32C of the manual, worked out outside the model. -/
def idOf (d : Nat) : W128 := idWord d (if d < 4 then 0x32496D4E else if d = 4 then 0x0338B97E else 0x50AAC52E)
theorem test_identities : (List.range 7).all (fun d => idGood d (idOf d) && steppingOk (idOf d)) = true := by decide +kernel
theorem test_records : bootRegion (withRecords 0x17147134 0x14499567) = some 1 ∧ bootRegion (withRecords 0x17147134 0) = some 0
    ∧ bootRegion (withRecords 0 0) = none := by decide +kernel

/-! ### Single steps and values that the manual states -/

/-- The state after a command. -/
def after (c : Instr) (s : State) : State := match exec c s with
  | .next t => t
  | _ => s

/-- CRC-32C over "123456789" (R291). -/
theorem test_crc : crc32c [0x31, 0x32, 0x33, 0x34, 0x35, 0x36, 0x37, 0x38, 0x39] = 0xE3069283#32 := by decide +kernel

/-- The worked example of chapter 01: CLU_LANE_MAP of die 2, cluster 3 with lane 5 on core 8, and two unit ids. -/
theorem test_lane_map :
    (let s := setCl host 19 { Cluster.reset with lanes := [0, 1, 2, 3, 4, 8, 6, 7], spare := 5 }
     let v := (readReg 0x4340010 8 s).1
     fld v 0 32 = 0x76843210 ∧ unitCore (9 * 19 + 8) 2 0 = 0x23820000#32 ∧ unitLink 37 = 0x6FF70025#32) := by decide +kernel

/-- ADD wraps, and a source that is also the destination is read first (R103). -/
theorem test_add_wraps : sreg (clOf (after (.add 0 false) (atIns (ins 0 0x01 [(110, 6, 1), (104, 6, 1), (98, 6, 2)])
    (fun c => { c with sreg := [(1, 0xFFFFFFFFFFFFFFFF#64), (2, 3#64)] }))) 0) 1 = 2 := by decide +kernel
/-- SRA keeps the sign and shifts by the low six bits (Table 3.5). -/
theorem test_sra_sign : sreg (clOf (after (.sra 0 false) (atIns (ins 0 0x08 [(110, 6, 3), (104, 6, 1), (98, 6, 2)])
    (fun c => { c with sreg := [(1, 0x8000000000000000#64), (2, 0x7F#64)] }))) 0) 3 = 0xFFFFFFFFFFFFFFFF := by decide +kernel
/-- JAL writes PC + 1 and goes to the target (R110). -/
theorem test_jal : (let t := clOf (after (.jal 0 false) (atIns (ins 1 0x02 [(110, 6, 4), (0, 14, 0x123)]) id)) 0
    t.pc = 0x123 ∧ sreg t 4 = 1) := by decide +kernel
/-- LOOPI of 2 whose body is one instruction runs it twice (R114). -/
theorem test_loop_count : (let x := LoopLvl.mk 1 1 2 0
    endIns 1 [x] = (1, [LoopLvl.mk 1 1 1 1]) ∧ endIns 1 [LoopLvl.mk 1 1 1 1] = (2, [])) := by decide

/-- The 129 signals of Table 17.2; the pin-1 corner is HOST_TX[7], P before N; the innermost lands of quadrant 0 are GND and
VIN; the field has 96 rows (R566-R568). -/
theorem test_lands : signals.length = 129 ∧ landNet 1 1 = some (.signal ("HOST_TX", 7, false)) ∧ landNet 1 2 = some (.signal ("HOST_TX", 7, true))
    ∧ landNet 49 60 = some .gnd ∧ landNet 49 59 = some .vin ∧ landNet 97 1 = none := by decide +kernel

/-- Sequence 2.1: GROUP_START with member 13 offline is skipped with code 0x0A and DETAIL 13; its done token is SKIPPED. -/
theorem test_cluster_offline :
    (let w := cmd 0x22 [(128, 6, 2)] &&& ~~~(cword [(32, 16, 0xFFFF)]) ||| cword [(32, 16, 0x8010)]
     let s := withHead { setCl jobHost 13 { Cluster.reset with mapState := 3 } with groups := [(2, 0xFF00#32)] } w
     let t := after (.groupStart 63 []) s
     (tokOf t 0x8010).st = .skipped ∧ ((strmOf t 63).log.find 0).map (fun e => (e.code, e.done, e.cause, e.detail)) = some (0x0A, 0x8010, 0xFFFF, 13)) := by
  decide +kernel

/-- The worked example of chapter 10: offset 33 travels on plane 4 in slot 1; while plane 4 is out, plane 5 carries it in odd
frames, and in even frames its own. -/
theorem test_slots :
    (let at1 := fun (slot out : Nat) => { host with mer := { Mer.reset with slot := slot, addrOut := out } }
     slotOffset (at1 1 0) 4 = some 33 ∧ slotOffset (at1 9 0x10) 5 = some 33 ∧ slotOffset (at1 9 0x10) 4 = none ∧ slotOffset (at1 1 0x10) 5 = some 41) := by
  decide +kernel

/-- The worked example of chapter 04: 300 rounds to 288 in E4M3, and 600 overflows. -/
theorem test_e4m3 : (fpRound fE4M3 .near (.fin false 300 0)).2 = false ∧ bits32 (fpRound fE4M3 .near (.fin false 300 0)).1 = 0x43900000#32
    ∧ (fpRound fE4M3 .near (.fin false 600 0)).2 = true := by decide +kernel

/-- The worked example of chapter 06: the first AdamW step gives the master 0x427F_BE00. -/
theorem test_adamw :
    bits32 (updElem 1 { lr := val32 0x39800000, b1 := val32 0x3F600000, ob1 := val32 0x3E000000, b2 := val32 0x3F700000, ob2 := val32 0x3D800000,
                        eps := val32 0x35800000, decay := val32 0x3F7FFE00, gscale := val32 0x3F800000, c1 := val32 0x41000000, c2 := val32 0x41800000,
                        step := 0, tensor := 0, base := 0, delta := 0, u := 8 }
      (val32 0x42800000) (val32 0) (val32 0) (val32 0x3F000000)).1 = 0x427FBE00#32 := by decide +kernel

end Sys2Proof.Tests
end

section
/-! What the registers of the host port, the event ring, MSI-X and the token watches do when a host reaches the package
(chapter 13, R19), the lemmas on which O53 rests, and O53. -/

namespace Sys2Proof.Machine

/-! ### Accesses that reach the package -/

/-- A command whose meaning is an operation answers what the operation leaves. -/
theorem answers_of_eq {a t : State} (h : a = t) : Answers (.next a) t := congrArg _ h

/-- A host read that reaches the package does its work. -/
theorem hostRead_of_reaches {s} (h : HostReaches s) (f : State → State) : hostRead f s = f s := by
  simp [hostRead, h.link, h.mse, h.ide]

/-- The state in which no low half waits for the register at `reg` (R19). -/
def dropLow (reg : Nat) (s : State) : State := setPci s { s.pci with low := s.pci.low.del reg }

/-- A whole value written to a 64-bit register acts, and a low half that waits for it is lost (R19). -/
theorem writeHalves_whole (reg off : Nat) (v cur : W64) (set : W64 → W64 → State → State) (s : State) :
    writeHalves reg off 8 v cur set s = set v v (dropLow reg s) := by
  simp [writeHalves, dropLow, setPci]

/-- The host port and the event ring hold no data. -/
theorem sameData_pci_evr (s : State) (p : Pci) (e : Evr) : SameData s { s with pci := p, evr := e } :=
  ⟨rfl, fun _ => rfl, fun _ => rfl, fun _ => rfl, rfl, rfl, rfl, rfl⟩

/-- An offset below the compute dies lies in no cluster's window. -/
theorem offsetCluster_low {off : Nat} (h : off < 0x1000000) : offsetCluster off = none := by
  unfold offsetCluster
  cases hd : windowDie off with
  | none => rfl
  | some d =>
    have h4 : 4 ≤ d := by
      unfold windowDie at hd
      repeat' split at hd
      all_goals simp only [Option.some.injEq, reduceCtorEq] at hd
      all_goals omega
    simp only
    rw [if_neg (by omega)]

/-- So an access there ungates no clock. -/
theorem touch_low {off : Nat} (h : off < 0x1000000) (s : State) : touch off s = s := by
  rw [touch, offsetCluster_low h]

/-- Ungating a clock leaves the host port, the event ring, the records and the messages. -/
theorem touch_host (s : State) (off : Nat) : (touch off s).pci = s.pci ∧ (touch off s).evr = s.evr
    ∧ (touch off s).recs = s.recs ∧ (touch off s).out = s.out := by
  unfold touch ungate
  split
  · split <;> simp
  · simp

/-! ### Messages -/

/-- From `s` to `t` MSI-X messages are sent, and only the host port's state changes besides. -/
def SendsMsix (s t : State) : Prop :=
  ∃ new pci, t = { s with out := new ++ s.out, pci := pci } ∧ ∀ o ∈ new, ∃ v a d, o = .msix v a d

theorem SendsMsix.ofPci (s : State) (p : Pci) : SendsMsix s { s with pci := p } := ⟨[], p, rfl, by simp⟩

theorem SendsMsix.trans {a b c : State} (h : SendsMsix a b) (g : SendsMsix b c) : SendsMsix a c := by
  obtain ⟨n, _, rfl, hn⟩ := h
  obtain ⟨m, p, rfl, hm⟩ := g
  refine ⟨m ++ n, p, by simp, fun o ho => ?_⟩
  exact (List.mem_append.1 ho).elim (hm o) (hn o)

theorem SendsMsix.evr {s t : State} (h : SendsMsix s t) : t.evr = s.evr := by
  obtain ⟨_, _, rfl, _⟩ := h
  rfl

/-- The ring's fields play no part in what is sent. -/
theorem SendsMsix.setEvr {s t : State} (h : SendsMsix s t) (e : Evr) : SendsMsix (Machine.setEvr s e) (Machine.setEvr t e) := by
  obtain ⟨n, p, rfl, hn⟩ := h
  exact ⟨n, p, rfl, hn⟩

theorem sendsMsix_sendMsix (v : Nat) (s : State) : SendsMsix s (sendMsix v s) := by
  simp only [sendMsix]
  split
  · exact .ofPci s _
  · exact ⟨[_], s.pci, rfl, by simp⟩

/-- A vector that is not masked sends its message at once. -/
theorem sendMsix_unmasked {s : State} {v : Nat} (hm : (s.pci.msix.get Msix.reset v).masked = false) (hr : mayRequest s = true) :
    sendMsix v s = emit (.msix v (s.pci.msix.get Msix.reset v).addr (s.pci.msix.get Msix.reset v).data) s := by
  simp [sendMsix, hm, hr]

theorem sendsMsix_sendWaiting (which : W32 → Bool) (s : State) : SendsMsix s (sendWaiting which s) := by
  refine foldl_keeps (P := SendsMsix s) (fun u w h => ?_) _ s (.ofPci s s.pci)
  split
  · split
    · exact (h.trans (.ofPci u _)).trans (sendsMsix_sendMsix _ _)
    · exact h
  · exact h

/-! ### The DMA window and the ring's registers (R479, R481) -/

section
variable {s : State} {v : W64}

theorem effDmaWindowWrite_base (h : HostReaches s) (he : s.evr.enable = false) (hc : copyRuns s = false) :
    effDmaWindowWrite 0 8 v s = setPci s { s.pci with low := s.pci.low.del 0x20010, winBase := v &&& 0xFFFFFFFFFFFFF000#64 } := by
  simp [effDmaWindowWrite, regSizeOk, hostAccess_of_reaches h, he, hc, writeHalves_whole, dropLow, setPci]

theorem effDmaWindowWrite_limit (h : HostReaches s) (he : s.evr.enable = false) (hc : copyRuns s = false) :
    effDmaWindowWrite 8 8 v s = setPci s { s.pci with low := s.pci.low.del 0x20018, winLimit := v &&& 0xFFFFFFFFFFFFF000#64 } := by
  simp [effDmaWindowWrite, regSizeOk, hostAccess_of_reaches h, he, hc, writeHalves_whole, dropLow, setPci]

/-- While the ring is on or a HOST_COPY runs, neither half of the window changes. -/
theorem effDmaWindowWrite_busy {off : Nat} (h : HostReaches s) (hb : s.evr.enable = true ∨ copyRuns s = true) (ho : off = 0 ∨ off = 8) :
    effDmaWindowWrite off 8 v s = regAccess 7 (0x20010 + off) 8 true v s := by
  rcases ho with rfl | rfl <;> simp [effDmaWindowWrite, regSizeOk, hostAccess_of_reaches h, hb]

theorem effHubEvrBaseWrite_off (h : HostReaches s) (he : s.evr.enable = false) : effHubEvrBaseWrite 0 8 v s
    = setEvr (dropLow 0x70000 s) { s.evr with sizeLog2 := fld v 0 4, base := v &&& 0xFFFFFFFFFFFFF000#64 } := by
  simp [effHubEvrBaseWrite, regSizeOk, hostAccess_of_reaches h, he, writeHalves_whole, dropLow, setPci]

theorem effHubEvrBaseWrite_on (h : HostReaches s) (he : s.evr.enable = true) :
    effHubEvrBaseWrite 0 8 v s = regAccess 7 0x70000 8 true v s := by
  simp [effHubEvrBaseWrite, regSizeOk, hostAccess_of_reaches h, he]

theorem effHubEvrWbWrite_off (h : HostReaches s) (he : s.evr.enable = false) : effHubEvrWbWrite 0 8 v s
    = setEvr (dropLow 0x70010 s) { s.evr with wb := v &&& 0xFFFFFFFFFFFFFFF8#64 } := by
  simp [effHubEvrWbWrite, regSizeOk, hostAccess_of_reaches h, he, writeHalves_whole, dropLow, setPci]

theorem effHubEvrWbWrite_on (h : HostReaches s) (he : s.evr.enable = true) :
    effHubEvrWbWrite 0 8 v s = regAccess 7 0x70010 8 true v s := by
  simp [effHubEvrWbWrite, regSizeOk, hostAccess_of_reaches h, he]

/-! ### The ring enabled and disabled (R481) -/

/-- The checks of R481: the size, the ring and its writeback inside the DMA window, and Bus Master Enable. -/
theorem ringOk_iff (s : State) : ringOk s = true ↔ (6 ≤ s.evr.sizeLog2 ∧ s.evr.sizeLog2 ≤ 16) ∧ s.pci.bme = true
    ∧ (s.pci.winBase.toNat ≤ s.evr.base.toNat ∧ s.evr.base.toNat + 64 * 2 ^ s.evr.sizeLog2 ≤ s.pci.winLimit.toNat)
    ∧ (s.pci.winBase.toNat ≤ s.evr.wb.toNat ∧ s.evr.wb.toNat + 8 ≤ s.pci.winLimit.toNat) := by
  simp only [ringOk, hostRangeBad, Bool.and_eq_true, Bool.not_eq_true', decide_eq_true_eq, decide_eq_false_iff_not, not_or, Nat.not_lt]
  exact ⟨fun ⟨⟨⟨hs, hr⟩, hw⟩, hm⟩ => ⟨hs, hm, hr, hw⟩, fun ⟨hs, hm, hr, hw⟩ => ⟨⟨⟨hs, hr⟩, hw⟩, hm⟩⟩

/-- A ring that fails one of them may not be enabled. -/
theorem not_ringOk (h : s.evr.sizeLog2 < 6 ∨ 16 < s.evr.sizeLog2 ∨ s.pci.bme = false ∨ s.evr.base.toNat < s.pci.winBase.toNat
    ∨ s.pci.winLimit.toNat < s.evr.base.toNat + 64 * 2 ^ s.evr.sizeLog2 ∨ s.evr.wb.toNat < s.pci.winBase.toNat
    ∨ s.pci.winLimit.toNat < s.evr.wb.toNat + 8) : ¬ringOk s = true := by
  rw [ringOk_iff]
  rintro ⟨⟨h6, h16⟩, hm, ⟨hb1, hb2⟩, hw1, hw2⟩
  simp only [hm, Bool.true_eq_false, false_or] at h
  omega

/-- HUB_EVR_CTRL written whole: its fields but for ENABLE are set. -/
def ctrlWritten (v : W64) (s : State) : State := setEvr (dropLow 0x70008 s) (setCtrl v s.evr)

theorem sameData_ctrlWritten (v : W64) (s : State) (e : Evr) : SameData s (setEvr (ctrlWritten v s) e) := sameData_pci_evr s _ _

/-- The fields that HUB_EVR_CTRL sets take no part in the checks. -/
theorem ringOk_ctrlWritten (v : W64) (s : State) : ringOk (ctrlWritten v s) = ringOk s := rfl

theorem effEvrEnable_eq (h : HostReaches s) (hv : bit v 0 = true) (he : s.evr.enable = false) : effEvrEnable 8 v s =
    if ringOk s then
      setEvr (ctrlWritten v s) { setCtrl v s.evr with enable := true, active := true, producer := 0, consumer := 0, unreported := 0 }
    else regAccess 7 0x70008 8 true v (setEvr (ctrlWritten v s) { setCtrl v s.evr with error := true }) := by
  have he' : (setCtrl v s.evr).enable = false := he
  rw [← ringOk_ctrlWritten v s]
  simp [effEvrEnable, regSizeOk, hv, hostAccess_of_reaches h, writeHalves_whole, ctrlWritten, setEvr, dropLow, setPci, he']

theorem effEvrDisable_eq (h : HostReaches s) (hv : bit v 0 = false) (he : s.evr.enable = true) :
    effEvrDisable 8 v s = ringOff (ctrlWritten v s) := by
  have he' : (setCtrl v s.evr).enable = true := he
  simp [effEvrDisable, regSizeOk, hv, hostAccess_of_reaches h, writeHalves_whole, ctrlWritten, setEvr, dropLow, setPci, he']

/-- The ring stops with its fields kept; messages that waited for a delivery are all that is sent. -/
theorem ringOff_frame (s : State) : (ringOff s).evr = { s.evr with enable := false, active := false }
    ∧ (ringOff s).recs = s.recs ∧ (ringOff s).hbm = s.hbm := by
  obtain ⟨_, _, ht, _⟩ := sendsMsix_sendWaiting (fun _ => true) (setEvr s { s.evr with enable := false, active := false })
  rw [ringOff, ht]
  exact ⟨rfl, rfl, rfl⟩

/-! ### The consumer index (R480) -/

theorem effEvrConsumerWrite_eq {c : W32} (h : HostReaches s) (hc : c = (v >>> 32).setWidth 32) : effEvrConsumerWrite 8 v s =
    if (c - s.evr.consumer).toNat ≤ (s.evr.producer - s.evr.consumer).toNat ∧ (s.evr.producer - c).toNat ≤ 2 ^ s.evr.sizeLog2 then
      setEvr (dropLow 0x70018 s) { s.evr with consumer := c }
    else regAccess 6 0x70018 8 true v (dropLow 0x70018 s) := by
  simp [effEvrConsumerWrite, hostAccess_of_reaches h, ← hc, dropLow, setPci]

/-! ### Records delivered (R482-R484) -/

/-- Nothing is delivered without a record, on a ring that is stopped or full, or while the host takes no requests. -/
theorem effRecordDelivery_idle
    (h : s.recs.ring = [] ∨ s.evr.active = false ∨ evrFull s = true ∨ mayRequest s = false) : effRecordDelivery s = s := by
  unfold effRecordDelivery
  split
  · rfl
  · next r rest hr =>
    rw [if_pos]
    simpa [hr, or_assoc] using h

/-- The state in which a record has left the queue for the ring: its entry and the writeback are sent, it counts as
delivered, and `n` records are not yet reported by a message. -/
def recordOut (r : Rec) (rest : List Rec) (n : Nat) (s : State) : State :=
  setEvr { s with
      recs := { s.recs with ring := rest }
      out := .hostWrite s.evr.wb.toNat (leBytes 4 (s.evr.producer + 1).toNat ++ leBytes 4 r.seq.toNat)
        :: .hostWrite (s.evr.base.toNat + 64 * (s.evr.producer.toNat % 2 ^ s.evr.sizeLog2)) (recBytes r) :: s.out }
    { s.evr with producer := s.evr.producer + 1, unreported := n }

/-- The watches whose message waits for the record, or for room in the ring, send it (R486). -/
def tellWatches (r : Rec) (s : State) : State := sendWaiting (fun q => decide (q = r.seq) || evrFull s) s

theorem sendsMsix_tellWatches (r : Rec) (s : State) : SendsMsix s (tellWatches r s) := sendsMsix_sendWaiting _ s

/-- The oldest record is delivered, the watches are told, and at the limit of HUB_EVR_CTRL the ring's vector sends. -/
theorem effRecordDelivery_eq {r : Rec} {rest : List Rec} (hr : s.recs.ring = r :: rest) (ha : s.evr.active = true)
    (hf : evrFull s = false) (hq : mayRequest s = true) : effRecordDelivery s =
      let u := tellWatches r (recordOut r rest (s.evr.unreported + 1) s)
      if s.evr.irqEn = true ∧ max 1 s.evr.coCount ≤ u.evr.unreported then ringMessage u else u := by
  unfold effRecordDelivery
  simp only [hr]
  rw [if_neg (by simp [ha, hf, hq])]
  rfl

/-- But for messages, the delivery leaves the record out and the count of unreported records: it starts again with the
message of the ring's vector (R484). -/
theorem sendsMsix_effRecordDelivery {r : Rec} {rest : List Rec} (hr : s.recs.ring = r :: rest) (ha : s.evr.active = true)
    (hf : evrFull s = false) (hq : mayRequest s = true) :
    SendsMsix (recordOut r rest
        (if s.evr.irqEn = true ∧ max 1 s.evr.coCount ≤ s.evr.unreported + 1 then 0 else s.evr.unreported + 1) s)
      (effRecordDelivery s) := by
  have hw := sendsMsix_tellWatches r (recordOut r rest (s.evr.unreported + 1) s)
  have hu : (tellWatches r (recordOut r rest (s.evr.unreported + 1) s)).evr.unreported = s.evr.unreported + 1 :=
    congrArg Evr.unreported hw.evr
  simp only [effRecordDelivery_eq hr ha hf hq, hu]
  by_cases hc : s.evr.irqEn = true ∧ max 1 s.evr.coCount ≤ s.evr.unreported + 1
  · rw [if_pos hc, if_pos hc, ringMessage, hw.evr]
    exact (hw.setEvr _).trans (sendsMsix_sendMsix _ _)
  · rw [if_neg hc, if_neg hc]
    exact hw

/-- The time limit of the vector sends its message (R484). -/
theorem effEvrCoalesceTimeout_due (ha : s.evr.active = true) (hi : s.evr.irqEn = true) (hus : s.evr.coUs ≠ 0)
    (hu : s.evr.unreported ≠ 0) (hq : mayRequest s = true) (hm : (s.pci.msix.get Msix.reset s.evr.vector).masked = false) :
    effEvrCoalesceTimeout s = emit (.msix s.evr.vector (s.pci.msix.get Msix.reset s.evr.vector).addr
      (s.pci.msix.get Msix.reset s.evr.vector).data) (setEvr s { s.evr with unreported := 0 }) := by
  rw [effEvrCoalesceTimeout, if_pos ⟨ha, hi, hus, hu⟩]
  exact sendMsix_unmasked (s := setEvr s { s.evr with unreported := 0 }) hm hq

/-! ### MSI-X and token watches (R485, R486) -/

theorem effMsixUnmask_eq {n : Nat} (h : HostReaches s) (hn : n < 64) : effMsixUnmask n s = maskVector n false s := by
  simp [effMsixUnmask, hostAccess_of_reaches h, hn]

/-- A masked vector with a pending message sends it when it is unmasked. -/
theorem maskVector_pending {n : Nat} (hm : (s.pci.msix.get Msix.reset n).masked = true)
    (hp : (s.pci.msix.get Msix.reset n).pend = true) (hq : mayRequest s = true) : maskVector n false s
    = emit (.msix n (s.pci.msix.get Msix.reset n).addr (s.pci.msix.get Msix.reset n).data)
        (setMsix s n { s.pci.msix.get Msix.reset n with masked := false, pend := false }) := by
  simp [maskVector, hm, hp, hq]

theorem maskVector_idle {n : Nat} (hp : (s.pci.msix.get Msix.reset n).pend = false) :
    maskVector n false s = setMsix s n { s.pci.msix.get Msix.reset n with masked := false } := by
  simp [maskVector, hp]

/-- A watch that is off or has fired, or whose token has not ended, does not fire. -/
theorem fireWatch_quiet {wait : Option W32} {n : Nat} {w : Watch}
    (h : w.enable = false ∨ w.fired = true ∨ tokCode (tokOf s w.token).st < 2) :
    fireWatch wait n (setWatch s n w) = setWatch s n w := by
  have ht : tokOf (setWatch s n w) w.token = tokOf s w.token := rfl
  simp only [fireWatch, setWatch_pci, Tab.get_put_same, ht]
  rw [if_neg]
  rcases h with h | h | h <;> simp [h]

/-- An enabled watch that has not fired fires on a token that has ended: it holds the token's state, and its message goes
out (R486). -/
theorem fireWatch_ended {n : Nat} {w : Watch} (he : w.enable = true) (hf : w.fired = false)
    (ht : 2 ≤ tokCode (tokOf s w.token).st) : fireWatch none n (setWatch s n w)
      = sendMsix w.vector
          (setWatch (setWatch s n w) n { w with fired := true, state := tokCode (tokOf s w.token).st, waitSeq := none }) := by
  have ht' : tokOf (setWatch s n w) w.token = tokOf s w.token := rfl
  simp only [fireWatch, setWatch_pci, Tab.get_put_same, ht']
  rw [if_pos (by simp [he, hf, ht])]

/-- A watch with the value written to its register: FIRED is write-1-to-clear. -/
def watchTaken (v : W64) (w : Watch) : Watch :=
  { w with token := fld v 0 16, vector := fld v 16 6, enable := bit v 24, fired := w.fired && !(bit v 25) }

/-- PCI_TOKEN_IRQn written whole: the watch takes the value, and may fire at once. -/
theorem effTokenWatchWrite_eq {n : Nat} (h : HostReaches s) (hn : n < 64) : effTokenWatchWrite n 0 8 v s
    = fireWatch none n (setWatch (dropLow (0x21000 + 8 * n) s) n (watchTaken v (s.pci.watch.get Watch.reset n))) := by
  have hc : ¬(64 ≤ n ∨ 8 ≤ 0 ∨ !(regSizeOk 0 8)) := not_or.2 ⟨Nat.not_le.2 hn, by decide⟩
  rw [effTokenWatchWrite, if_neg hc, hostAccess_of_reaches h, writeHalves_whole]
  rfl

/-! ### Reads (R19, R472, R594) -/

/-- A 4-byte read in a counter answers the half that `readHalf` reads. -/
theorem effCounterRead_eq {off : Nat} (h : HostReaches s) (ho : off % 4 = 0) (hc : isCounter (off / 8 * 8) = true)
    (hz : readsZero (touch off s) off = false) :
    effCounterRead off s = emit (.regData (readHalf off (touch off s)).1) (readHalf off (touch off s)).2 := by
  simp [effCounterRead, hostRead_of_reaches h, effCounterLowRead, hostRead_of_reaches (reaches_touch h), ho, hc, readReg, hz]

/-- The low half of a counter latches the high one. -/
theorem readHalf_low {a : Nat} (hc : isCounter a = true) (ha : a % 8 = 0) (hr : regOf s a = some (a, 8, v)) :
    readHalf a s = (v &&& 0xFFFFFFFF#64, setPci s { s.pci with latch := s.pci.latch.put a ((v >>> 32).setWidth 32) }) := by
  simp [readHalf, hr, ha, hc, setPci]

/-- A latched high half is served once. -/
theorem readHalf_high {a : Nat} {x : W32} (ha : a % 8 = 0) (hr : regOf s (a + 4) = some (a, 8, v)) (hl : s.pci.latch.find a = some x) :
    readHalf (a + 4) s = (x.setWidth 64, setPci s { s.pci with latch := s.pci.latch.del a }) := by
  have h4 : (a + 4) % 8 ≠ 0 := by omega
  simp [readHalf, hr, h4, hl, setPci]

/-! ### Accesses of a bad width, and register writes (R17, R19) -/

/-- Cause 1, and nothing else. -/
theorem effBadWidthAccess_write {off size : Nat} (h : HostReaches s) (ho : off < 0x1000000) (hs : 0 < size)
    (hb : (size ≠ 4 ∧ size ≠ 8) ∨ off % size ≠ 0) : effBadWidthAccess off size true v s = regAccess 1 off size true v s := by
  unfold effBadWidthAccess
  rw [if_neg (by omega), if_pos rfl, hostAccess_of_reaches h, touch_low ho]

/-- The same, and the read returns zero. -/
theorem effBadWidthAccess_read {off size : Nat} (h : HostReaches s) (ho : off < 0x1000000) (hs : 0 < size)
    (hb : (size ≠ 4 ∧ size ≠ 8) ∨ off % size ≠ 0) :
    effBadWidthAccess off size false v s = emit (.regData 0) (regAccess 1 off size false 0 s) := by
  unfold effBadWidthAccess
  rw [if_neg (by omega), if_neg (by simp), hostRead_of_reaches h, touch_low ho]

/-- The companion window is the only one below the compute dies whose writes go elsewhere. -/
theorem windowDie_companion {off : Nat} (h1 : 0x300000 ≤ off) (h2 : off < 0x400000) : windowDie off = some 7 := by
  unfold windowDie
  rw [if_neg (by omega), if_neg (by omega), if_neg (by omega), if_pos h2]

/-- Outside the windows of the dies there is no register. -/
theorem regOf_of_windowDie_none {off : Nat} (h8 : off % 8 = 0) (hd : windowDie off = none) : regOf s off = none := by
  have ha : off / 8 * 8 = off := by omega
  simp [regOf, regAt, ha, hd]

/-- In service no window is that of an absent die. -/
theorem windowDie_present (h : HostReaches s) (off : Nat) : ((windowDie off).map (dieAway s)).getD false = false := by
  cases windowDie off <;> simp [h.dies]

/-- What no check of REGISTER_WRITE refuses is passed to the register map. -/
theorem effRegisterWrite_eq {off size : Nat} (h : HostReaches s) (hs : size = 4 ∨ size = 8) (ha : off % size = 0)
    (ho : off < 0x1000000 ∨ 0x2000000 ≤ off) (hm : off < 0x8000000) (hd : windowDie off ≠ some 7) :
    effRegisterWrite off size v s =
      if (regOf s off).isSome ∧ (windowDie off).isSome then
        window off size (if size = 4 then v &&& 0xFFFFFFFF#64 else v) (applyWrite off size (if size = 4 then v &&& 0xFFFFFFFF#64 else v)) s
      else regAccess 9 off size true (if size = 4 then v &&& 0xFFFFFFFF#64 else v) s := by
  have hc : ¬(0x300000 ≤ off ∧ off < 0x400000) := fun hc => hd (windowDie_companion hc.1 hc.2)
  unfold effRegisterWrite
  simp only
  rw [if_neg (by omega), if_neg hc]
  cases hw : windowDie off with
  | none => simp [hostAccess_of_reaches h]
  | some d => simp [hostAccess_of_reaches h, h.dies]

/-- A reserved offset discards the write with cause 9 (R17). -/
theorem effRegisterWrite_reserved {off : Nat} (h : HostReaches s) (h8 : off % 8 = 0) (ho : off < 0x1000000)
    (hd : windowDie off ≠ some 7) (hr : regOf s off = none) : effRegisterWrite off 8 v s = regAccess 9 off 8 true v s := by
  rw [effRegisterWrite_eq h (.inr rfl) h8 (.inl ho) (by omega) hd, if_neg (by simp [hr])]
  rfl

/-- A register below the compute dies takes the value. -/
theorem effRegisterWrite_takes {off : Nat} (h : HostReaches s) (h8 : off % 8 = 0) (ho : off < 0x1000000)
    (hd : windowDie off ≠ some 7) (hr : regOf s off ≠ none) : effRegisterWrite off 8 v s = applyWrite off 8 v s := by
  have hw : windowDie off ≠ none := fun hw => hr (regOf_of_windowDie_none h8 hw)
  rw [effRegisterWrite_eq h (.inr rfl) h8 (.inl ho) (by omega) hd,
    if_pos ⟨Option.isSome_iff_ne_none.2 hr, Option.isSome_iff_ne_none.2 hw⟩,
    window_of_reaches h (writeRefused_none (offsetCluster_low ho)), touch_low ho]
  rfl

/-! ### CLU_OCC_CONTROL written -/

/-- CLU_OCC_CONTROL of cluster `cl` is the register at this offset of its die's window. -/
theorem occControl_place {cl a : Nat} (ha : clusterBase cl + 0x40200 = a) (hc : cl < 32) : a % 8 = 0 ∧ windowDie a = some (cl / 8)
    ∧ (a - 0x2000000) % 0x1000000 = cl % 8 * 0x100000 + 0x40200 := by
  rw [clusterBase] at ha
  obtain ⟨q, hq, hq'⟩ : ∃ q, (a - 0x2000000) / 0x1000000 = q ∧ q = cl / 8 := ⟨_, rfl, by omega⟩
  refine ⟨by omega, ?_, by omega⟩
  unfold windowDie
  rw [if_neg (by omega), if_neg (by omega), if_neg (by omega), if_neg (by omega), if_pos (by omega), hq, hq']

theorem computeWindow_occControl {cl : Nat} (s : State) :
    computeWindow s (cl / 8) (cl % 8 * 0x100000 + 0x40200) = clusterReg s cl 0x40200 := by
  have h1 : (cl % 8 * 0x100000 + 0x40200) % 0x100000 = 0x40200 := by omega
  have h2 : 8 * (cl / 8) + (cl % 8 * 0x100000 + 0x40200) / 0x100000 = cl := by omega
  rw [computeWindow, if_pos (by omega), h1, h2]

/-- CLU_OCC_CONTROL exists. -/
theorem regOf_occControl {cl a : Nat} (ha : clusterBase cl + 0x40200 = a) (hc : cl < 32) (s : State) : (regOf s a).isSome = true := by
  obtain ⟨h8, hw, hy⟩ := occControl_place ha hc
  have h8' : a / 8 * 8 = a := by omega
  have hd : cl / 8 ≠ 4 ∧ ¬(cl / 8 = 5 ∨ cl / 8 = 6) ∧ cl / 8 ≠ 7 := by omega
  have hr : regAt s a = clusterReg s cl 0x40200 := by
    simp only [regAt, hw, if_neg hd.1, if_neg hd.2.1, if_neg hd.2.2, hy, computeWindow_occControl]
  simp only [regOf, h8', hr]
  simp [clusterReg, reg4, h8]

/-- A write sets the enable and the period of the cluster's occultation. -/
theorem applyWrite_occControl {cl a size : Nat} (ha : clusterBase cl + 0x40200 = a) (hc : cl < 32) (s : State) :
    applyWrite a size v s = setCl s cl { clOf s cl with occEnable := bit v 0, occPeriod := fld v 8 8 } := by
  obtain ⟨h8, hw, hy⟩ := occControl_place ha hc
  have hd : cl / 8 ≠ 4 ∧ ¬(cl / 8 = 5 ∨ cl / 8 = 6) := by omega
  have hz : (cl % 8 * 0x100000 + 0x40200) / 8 * 8 = cl % 8 * 0x100000 + 0x40200 := by omega
  have h1 : (cl % 8 * 0x100000 + 0x40200) % 0x100000 = 0x40200 := by omega
  have h2 : 8 * (cl / 8) + (cl % 8 * 0x100000 + 0x40200) / 0x100000 = cl := by omega
  have h3 : cl % 8 * 0x100000 + 0x40200 < 0x800000 := by omega
  simp only [applyWrite, hw, if_neg hd.1, if_neg hd.2, computeWrite, hy, hz, if_pos h3, h1, h2]
  simp [clusterWrite]

/-- A 4-byte write keeps the fields below bit 32. -/
theorem occ_fields_low (v : W64) : bit (v &&& 0xFFFFFFFF#64) 0 = bit v 0 ∧ fld (v &&& 0xFFFFFFFF#64) 8 8 = fld v 8 8 := by
  have hv : (v &&& 0xFFFFFFFF#64).toNat = v.toNat % 2 ^ 32 := by
    rw [BitVec.toNat_and]
    exact Nat.and_two_pow_sub_one_eq_mod v.toNat 32
  refine ⟨by simp [bit], ?_⟩
  rw [fld, fld, hv]
  omega

/-- CLU_OCC_CONTROL written by the host: the cluster's clock is ungated (R499), and it takes the value. -/
theorem effRegisterWrite_occControl {cl a : Nat} (ha : clusterBase cl + 0x40200 = a) (hc : cl < 32) (h : HostReaches s) :
    effRegisterWrite a 4 v s
      = setCl (touch a s) cl { clOf (touch a s) cl with occEnable := bit v 0, occPeriod := fld v 8 8 } := by
  obtain ⟨h8, hw, _⟩ := occControl_place ha hc
  have hb : 0x2000000 ≤ a ∧ a < 0x8000000 := by rw [clusterBase] at ha; omega
  have hd : windowDie a ≠ some 7 := by rw [hw, ne_eq, Option.some.injEq]; omega
  obtain ⟨hv0, hv8⟩ := occ_fields_low v
  rw [effRegisterWrite_eq h (.inl rfl) (by omega) (.inr hb.1) hb.2 hd, if_pos ⟨regOf_occControl ha hc s, by rw [hw]; rfl⟩,
    window_of_reaches h (writeRefused_cluster ha hc (by omega) (by omega)), applyWrite_occControl ha hc, if_pos rfl, hv0, hv8]

end

/-- Settles O53: each clause is the lemma about its command, in the order of the statement. -/
theorem theEventRingMessagesAndWatchesWork : Obligations.TheEventRingMessagesAndWatchesWork := by
  unfold Obligations.TheEventRingMessagesAndWatchesWork
  refine ⟨fun s v h => ⟨fun he hc => ?_, fun hb => ?_, fun he => ?_, fun he => ?_⟩,
    fun s v h hv he => ⟨fun h6 h16 hm hb1 hb2 hw1 hw2 => ?_, fun hbad => ?_⟩,
    fun s v h hv he => ?_, fun s v c h hc => ⟨fun h1 h2 => ?_, fun h1 => ?_⟩,
    fun s => ⟨fun hi => ?_, fun r rest hr ha hf hq => ?_, fun ha hi hus hu hq hm => ?_⟩,
    fun s n m h hn hm => ⟨fun h1 h2 h3 => ?_, fun h1 => ?_⟩, fun s n v w u h hn hw hu => ⟨fun hq => ?_, fun hb hf ht => ?_⟩,
    fun s len h => ?_, fun s a v h hc ha hr hz => ?_, fun s a v x h hc ha hr hz hl => ?_,
    fun s off size v h ho hs => ⟨fun hb => ?_, fun h8 ha hd => ?_⟩, fun s cl v h hc => ?_⟩
  -- the DMA window, and the ring's base and writeback (R479, R481)
  · exact ⟨answers_of_eq (effDmaWindowWrite_base h he hc), answers_of_eq (effDmaWindowWrite_limit h he hc)⟩
  · exact ⟨answers_of_eq (effDmaWindowWrite_busy h hb (.inl rfl)), answers_of_eq (effDmaWindowWrite_busy h hb (.inr rfl))⟩
  · exact ⟨⟨_, answers_of_eq (effHubEvrBaseWrite_off h he), rfl, sameData_pci_evr s _ _⟩,
      ⟨_, answers_of_eq (effHubEvrWbWrite_off h he), rfl, sameData_pci_evr s _ _⟩⟩
  · exact ⟨answers_of_eq (effHubEvrBaseWrite_on h he), answers_of_eq (effHubEvrWbWrite_on h he)⟩
  -- the ring enabled, with its checks met and not, and disabled (R481)
  · have hk := (ringOk_iff s).2 ⟨⟨h6, h16⟩, hm, ⟨hb1, hb2⟩, hw1, hw2⟩
    exact ⟨_, answers_of_eq ((effEvrEnable_eq h hv he).trans (if_pos hk)), sameData_ctrlWritten v s _, rfl⟩
  · have hk := not_ringOk hbad
    exact ⟨_, answers_of_eq ((effEvrEnable_eq h hv he).trans (if_neg hk)), sameData_ctrlWritten v s _, rfl, he, rfl⟩
  · obtain ⟨hevr, hrecs, hhbm⟩ := ringOff_frame (ctrlWritten v s)
    exact ⟨_, answers_of_eq (effEvrDisable_eq h hv he), hrecs, hhbm, hevr⟩
  -- the consumer index (R480)
  · exact ⟨_, answers_of_eq ((effEvrConsumerWrite_eq h hc).trans (if_pos ⟨h1, h2⟩)), rfl, sameData_pci_evr s _ _⟩
  · exact ⟨_, answers_of_eq ((effEvrConsumerWrite_eq h hc).trans (if_neg (by omega))), rfl, sameData_pci_evr s _ _⟩
  -- records delivered, and the time limit of their message (R482-R484)
  · exact answers_of_eq (effRecordDelivery_idle hi)
  · obtain ⟨new, pci, ht, hn⟩ := sendsMsix_effRecordDelivery hr ha hf hq
    refine ⟨_, new, answers_of_eq ht, rfl, rfl, rfl, rfl, hn, fun hi hc => ?_, fun hi => ?_⟩
    · exact if_pos ⟨hi, hc⟩
    · exact if_neg (by simp [hi])
  · exact answers_of_eq (effEvrCoalesceTimeout_due ha hi hus hu hq hm)
  -- a vector unmasked, and a token watch written (R485, R486)
  · subst hm
    exact answers_of_eq ((effMsixUnmask_eq h hn).trans (maskVector_pending h1 h2 h3))
  · subst hm
    exact answers_of_eq ((effMsixUnmask_eq h hn).trans (maskVector_idle h1))
  · subst hw hu
    refine answers_of_eq ((effTokenWatchWrite_eq h hn).trans (fireWatch_quiet ?_))
    exact hq.imp_right (Or.imp_left fun ⟨hf, hb⟩ => by simp [watchTaken, hf, hb])
  · subst hw hu
    refine ⟨_, answers_of_eq ((effTokenWatchWrite_eq h hn).trans (fireWatch_ended hb ?_ ht)), rfl, rfl, rfl, hb⟩
    rcases hf with hf | hf <;> simp [watchTaken, hf]
  -- reads of the stream buffers and of the halves of a counter (R472, R19)
  · exact answers_of_eq (hostRead_of_reaches h _)
  · obtain ⟨hpci, hevr, hrecs, hout⟩ := touch_host s a
    have h8 : a / 8 * 8 = a := by omega
    refine ⟨_, answers_of_eq (effCounterRead_eq h (by omega) (by rwa [h8]) hz), ?_⟩
    rw [readHalf_low hc ha hr]
    exact ⟨congrArg _ hout, by simp [emit, setPci, hpci], hevr, hrecs⟩
  · obtain ⟨hpci, _, _, hout⟩ := touch_host s (a + 4)
    have h8 : (a + 4) / 8 * 8 = a := by omega
    refine ⟨_, answers_of_eq (effCounterRead_eq h (by omega) (by rwa [h8]) hz), ?_⟩
    rw [readHalf_high ha hr (hpci ▸ hl)]
    exact ⟨congrArg _ hout, by simp [emit, setPci, hpci]⟩
  -- accesses of a bad width, and register writes (R17, R19)
  · exact ⟨⟨_, answers_of_eq (effBadWidthAccess_write h ho hs hb), rfl⟩,
      answers_of_eq (effBadWidthAccess_read h ho hs hb)⟩
  · subst h8
    exact ⟨fun hr => answers_of_eq (effRegisterWrite_reserved h ha ho hd hr),
      fun hr => answers_of_eq (effRegisterWrite_takes h ha ho hd hr)⟩
  · obtain ⟨a, ha⟩ : ∃ a, clusterBase cl + 0x40200 = a := ⟨_, rfl⟩
    rw [ha]
    refine ⟨_, answers_of_eq (effRegisterWrite_occControl ha hc h), sameData_touch.trans (sameData_setCl rfl rfl), ?_⟩
    rw [clOf_setCl_same]
    exact ⟨rfl, rfl⟩

end Sys2Proof.Machine
end

section
/-! What the package holds at reset (log 3): the lemmas of O60, and O60. -/

namespace Sys2Proof.Machine

/-! ### Every unit at reset holds its reset value -/

theorem strmOf_reset (i : Nat) : strmOf State.reset i = Stream.reset := rfl
theorem clOf_reset (i : Nat) : clOf State.reset i = Cluster.reset := rfl
theorem stackOf_reset (i : Nat) : stackOf State.reset i = Stack.reset := rfl
theorem linkOf_reset (p : Nat) : linkOf State.reset p = Link.reset := rfl

/-- A token of the hub or of a cluster. -/
theorem tokOf_reset (id : Nat) : tokOf State.reset id = TokEntry.reset := by
  unfold tokOf
  split
  · rfl
  · rw [clOf_reset]
    rfl

/-- Settles O60: what holds of every unit of a kind is read off the reset value of that kind, and the rest is a comparison
of fixed values of the package's reset state. -/
theorem resetHoldsTheStatedValues : Obligations.ResetHoldsTheStatedValues := by
  unfold Obligations.ResetHoldsTheStatedValues
  refine ⟨State.reset, rfl, ?_⟩
  simp only [strmOf_reset, tokOf_reset, clOf_reset, stackOf_reset, linkOf_reset, forall_const]
  decide

end Sys2Proof.Machine
end

section
/-! Every command answers a next state that keeps the invariant, the queue, the messages sent, the fuses and the
retirement lists: the arms of the dispatch put together from what each operation keeps, and O5. -/

namespace Sys2Proof.Machine

/-- The case split is that of the dispatch, the commands by chapter as their meanings are; the operation that a command stands
for keeps what it began with. -/
theorem exec_keeps (c : Instr) (s : State) : ∃ t, Answers (exec c s) t ∧ Keeps s t := by
  have h : Keeps s s := Keeps.start s
  cases c with
  -- command streams and commands (chapter 02)
  | streamSlotWrite => exact ⟨_, rfl, effStreamSlotWrite_keeps h⟩
  | ingestReadSlot => exact ⟨_, rfl, effIngestReadSlot_keeps h⟩
  | unknownCommand => exact ⟨_, rfl, effUnknownCommand_keeps h⟩
  | nop => exact ⟨_, rfl, effNop_keeps h⟩
  | fence => exact ⟨_, rfl, effFence_keeps h⟩
  | fenceComplete => exact ⟨_, rfl, effFenceComplete_keeps h⟩
  | tokenSet => exact ⟨_, rfl, effTokenSet_keeps h⟩
  | tokenRelease => exact ⟨_, rfl, effTokenRelease_keeps h⟩
  | setProfile => exact ⟨_, rfl, effSetProfile_keeps h⟩
  | jobOpen => exact ⟨_, rfl, effJobOpen_keeps h⟩
  | jobClose => exact ⟨_, rfl, effJobClose_keeps h⟩
  | jobCloseZeroing => exact ⟨_, rfl, effJobCloseZeroing_keeps h⟩
  | jobCloseDone => exact ⟨_, rfl, effJobCloseDone_keeps h⟩
  | setRecipe => exact ⟨_, rfl, effSetRecipe_keeps h⟩
  | loadProgram => exact ⟨_, rfl, effLoadProgram_keeps h⟩
  | loadProgramPageWrite => exact ⟨_, rfl, effLoadProgramPageWrite_keeps h⟩
  | groupDefine => exact ⟨_, rfl, effGroupDefine_keeps h⟩
  | groupStart => exact ⟨_, rfl, effGroupStart_keeps h⟩
  | groupStop => exact ⟨_, rfl, effGroupStop_keeps h⟩
  | batchAdmit => exact ⟨_, rfl, effBatchAdmit_keeps h⟩
  | ephLoad => exact ⟨_, rfl, effEphLoad_keeps h⟩
  | tileMove => exact ⟨_, rfl, effTileMove_keeps h⟩
  | storageXfer => exact ⟨_, rfl, effStorageXfer_keeps h⟩
  | hostCopy => exact ⟨_, rfl, effHostCopy_keeps h⟩
  | hostReadCompletion => exact ⟨_, rfl, effHostReadCompletion_keeps h⟩
  | hostReadTimeout => exact ⟨_, rfl, effHostReadTimeout_keeps h⟩
  | leaseLoad => exact ⟨_, rfl, effLeaseLoad_keeps h⟩
  | routeLoad => exact ⟨_, rfl, effRouteLoad_keeps h⟩
  | flowLoad => exact ⟨_, rfl, effFlowLoad_keeps h⟩
  | epochSet => exact ⟨_, rfl, effEpochSet_keeps h⟩
  | epochFenceEnd => exact ⟨_, rfl, effEpochFenceEnd_keeps h⟩
  | reblock => exact ⟨_, rfl, effReblock_keeps h⟩
  | streamEnable => exact ⟨_, rfl, effStreamEnable_keeps h⟩
  | streamReset => exact ⟨_, rfl, effStreamReset_keeps h⟩
  | streamPause => exact ⟨_, rfl, effStreamPause_keeps h⟩
  | clearMisplaced => exact ⟨_, rfl, effClearMisplaced_keeps h⟩
  | skipSelect => exact ⟨_, rfl, effSkipSelect_keeps h⟩
  | hostCopyWritten => exact ⟨_, rfl, effHostCopyWritten_keeps h⟩
  -- instructions of a program (chapters 03-05)
  | unknownInstruction => exact ⟨_, rfl, effUnknownInstruction_keeps h⟩
  | add => exact ⟨_, rfl, effAdd_keeps h⟩
  | sub => exact ⟨_, rfl, effSub_keeps h⟩
  | and => exact ⟨_, rfl, effAnd_keeps h⟩
  | or => exact ⟨_, rfl, effOr_keeps h⟩
  | xor => exact ⟨_, rfl, effXor_keeps h⟩
  | shl => exact ⟨_, rfl, effShl_keeps h⟩
  | shr => exact ⟨_, rfl, effShr_keeps h⟩
  | sra => exact ⟨_, rfl, effSra_keeps h⟩
  | mul => exact ⟨_, rfl, effMul_keeps h⟩
  | min => exact ⟨_, rfl, effMin_keeps h⟩
  | max => exact ⟨_, rfl, effMax_keeps h⟩
  | slt => exact ⟨_, rfl, effSlt_keeps h⟩
  | sltu => exact ⟨_, rfl, effSltu_keeps h⟩
  | seq => exact ⟨_, rfl, effSeq_keeps h⟩
  | addi => exact ⟨_, rfl, effAddi_keeps h⟩
  | li => exact ⟨_, rfl, effLi_keeps h⟩
  | andi => exact ⟨_, rfl, effAndi_keeps h⟩
  | shli => exact ⟨_, rfl, effShli_keeps h⟩
  | shri => exact ⟨_, rfl, effShri_keeps h⟩
  | srd => exact ⟨_, rfl, effSrd_keeps h⟩
  | sld => exact ⟨_, rfl, effSld_keeps h⟩
  | sst => exact ⟨_, rfl, effSst_keeps h⟩
  | flowNop => exact ⟨_, rfl, effFlowNop_keeps h⟩
  | j => exact ⟨_, rfl, effJ_keeps h⟩
  | jal => exact ⟨_, rfl, effJal_keeps h⟩
  | jr => exact ⟨_, rfl, effJr_keeps h⟩
  | beq => exact ⟨_, rfl, effBeq_keeps h⟩
  | bne => exact ⟨_, rfl, effBne_keeps h⟩
  | blt => exact ⟨_, rfl, effBlt_keeps h⟩
  | bge => exact ⟨_, rfl, effBge_keeps h⟩
  | bltu => exact ⟨_, rfl, effBltu_keeps h⟩
  | bgeu => exact ⟨_, rfl, effBgeu_keeps h⟩
  | halt => exact ⟨_, rfl, effHalt_keeps h⟩
  | loop => exact ⟨_, rfl, effLoop_keeps h⟩
  | loopi => exact ⟨_, rfl, effLoopi_keeps h⟩
  | lexit => exact ⟨_, rfl, effLexit_keeps h⟩
  | tload => exact ⟨_, rfl, effTload_keeps h⟩
  | tstore => exact ⟨_, rfl, effTstore_keeps h⟩
  | tmove => exact ⟨_, rfl, effTmove_keeps h⟩
  | levent => exact ⟨_, rfl, effLevent_keeps h⟩
  | upd => exact ⟨_, rfl, effUpd_keeps h⟩
  | mma => exact ⟨_, rfl, effMma_keeps h⟩
  | mma2 => exact ⟨_, rfl, effMma2_keeps h⟩
  | vadd => exact ⟨_, rfl, effVec_keeps h⟩
  | vsub => exact ⟨_, rfl, effVec_keeps h⟩
  | vmul => exact ⟨_, rfl, effVec_keeps h⟩
  | vfma => exact ⟨_, rfl, effVec_keeps h⟩
  | vmax => exact ⟨_, rfl, effVec_keeps h⟩
  | vmin => exact ⟨_, rfl, effVec_keeps h⟩
  | vabs => exact ⟨_, rfl, effVec_keeps h⟩
  | vneg => exact ⟨_, rfl, effVec_keeps h⟩
  | vsel => exact ⟨_, rfl, effVec_keeps h⟩
  | vcvt => exact ⟨_, rfl, effVec_keeps h⟩
  | vrelu => exact ⟨_, rfl, effVec_keeps h⟩
  | vlrelu => exact ⟨_, rfl, effVec_keeps h⟩
  | vmov => exact ⟨_, rfl, effVec_keeps h⟩
  | vexp => exact ⟨_, rfl, effVec_keeps h⟩
  | vlog => exact ⟨_, rfl, effVec_keeps h⟩
  | vrcp => exact ⟨_, rfl, effVec_keeps h⟩
  | vrsqrt => exact ⟨_, rfl, effVec_keeps h⟩
  | vtanh => exact ⟨_, rfl, effVec_keeps h⟩
  | vsigm => exact ⟨_, rfl, effVec_keeps h⟩
  | vgelu => exact ⟨_, rfl, effVec_keeps h⟩
  | vsilu => exact ⟨_, rfl, effVec_keeps h⟩
  | vsoftplus => exact ⟨_, rfl, effVec_keeps h⟩
  | vrsum => exact ⟨_, rfl, effVec_keeps h⟩
  | vrmax => exact ⟨_, rfl, effVec_keeps h⟩
  | vsqsum => exact ⟨_, rfl, effVec_keeps h⟩
  | vsoftmax => exact ⟨_, rfl, effVec_keeps h⟩
  | vsoftmaxBwd => exact ⟨_, rfl, effVec_keeps h⟩
  | vlnorm => exact ⟨_, rfl, effVec_keeps h⟩
  | vlnormBwd => exact ⟨_, rfl, effVec_keeps h⟩
  | vrmsnorm => exact ⟨_, rfl, effVec_keeps h⟩
  | vrmsnormBwd => exact ⟨_, rfl, effVec_keeps h⟩
  | vderiv => exact ⟨_, rfl, effVec_keeps h⟩
  | vcfg => exact ⟨_, rfl, effVcfg_keeps h⟩
  | fput => exact ⟨_, rfl, fabEnd_keeps (effFput_keeps h)⟩
  | fcoll => exact ⟨_, rfl, fabEnd_keeps (effFcoll_keeps h)⟩
  | fbar => exact ⟨_, rfl, fabEnd_keeps (effFbar_keeps h)⟩
  | fabort => exact ⟨_, rfl, fabEnd_keeps (effFabort_keeps h)⟩
  | twait => exact ⟨_, rfl, effTwait_keeps h⟩
  | tarm => exact ⟨_, rfl, effTarm_keeps h⟩
  | tpost => exact ⟨_, rfl, effTpost_keeps h⟩
  | trel => exact ⟨_, rfl, effTrel_keeps h⟩
  | qfence => exact ⟨_, rfl, effQfence_keeps h⟩
  | pfence => exact ⟨_, rfl, effPfence_keeps h⟩
  -- execution, proofing and occultation (chapters 03-06, 09)
  | laneInstructionStart => exact ⟨_, rfl, fabEnd_keeps (effLaneInstructionStart_keeps h)⟩
  | overflowReplay => exact ⟨_, rfl, fabEnd_keeps (effOverflowReplay_keeps h)⟩
  | laneInstructionComplete => exact ⟨_, rfl, fabEnd_keeps (effLaneInstructionComplete_keeps h)⟩
  | proofVerdict => exact ⟨_, rfl, fabEnd_keeps (effProofVerdict_keeps h)⟩
  | entryRelease => exact ⟨_, rfl, fabEnd_keeps (effEntryRelease_keeps h)⟩
  | arbitrationRepeatDone => exact ⟨_, rfl, fabEnd_keeps (effArbitrationRepeatDone_keeps h)⟩
  | spareExecutionDone => exact ⟨_, rfl, fabEnd_keeps (effSpareExecutionDone_keeps h)⟩
  | proofBoundary => exact ⟨_, rfl, effBoundary_keeps h⟩
  | updStart => exact ⟨_, rfl, fabEnd_keeps (effUpdStart_keeps h)⟩
  | updComplete => exact ⟨_, rfl, effUpdComplete_keeps h⟩
  | rotationDue => exact ⟨_, rfl, effRotationDue_keeps h⟩
  | rotationPostponed => exact ⟨_, rfl, effRotationPostponed_keeps h⟩
  | clusterIdlePoint => exact ⟨_, rfl, fabEnd_keeps (effClusterIdlePoint_keeps h)⟩
  | selfTestEnd => exact ⟨_, rfl, effSelfTestEnd_keeps h⟩
  | occTestRun => exact ⟨_, rfl, effTestRun_keeps h⟩
  | suspectLapse => exact ⟨_, rfl, effSuspectLapse_keeps h⟩
  | matReplayClear => exact ⟨_, rfl, effMatReplayClear_keeps h⟩
  | vecSatClear => exact ⟨_, rfl, effVecSatClear_keeps h⟩
  | cluUpdClear => exact ⟨_, rfl, effUpdClear_keeps h⟩
  -- tiers, HBM and the storage port (chapters 07, 08)
  | leventReceive => exact ⟨_, rfl, effLeventReceive_keeps h⟩
  | eventFire => exact ⟨_, rfl, effEventFire_keeps h⟩
  | entryIssue => exact ⟨_, rfl, effEntryIssue_keeps h⟩
  | leventRelease => exact ⟨_, rfl, effLeventRelease_keeps h⟩
  | ephemerisTake => exact ⟨_, rfl, effEphemerisTake_keeps h⟩
  | ledgerAccept => exact ⟨_, rfl, ungateTiles_keeps (effLedgerAccept_keeps h)⟩
  | fillEnd => exact ⟨_, rfl, effFillEnd_keeps h⟩
  | sourceReadEnd => exact ⟨_, rfl, effSourceReadEnd_keeps h⟩
  | drainEnd => exact ⟨_, rfl, effDrainEnd_keeps h⟩
  | sourceError => exact ⟨_, rfl, effSourceError_keeps h⟩
  | recoveryEnd => exact ⟨_, rfl, effRecoveryEnd_keeps h⟩
  | ldgResupply => exact ⟨_, rfl, effLdgResupply_keeps h⟩
  | resupplyTimeout => exact ⟨_, rfl, effResupplyTimeout_keeps h⟩
  | bar2Read => exact ⟨_, rfl, effBar2Read_keeps h⟩
  | bar2Write => exact ⟨_, rfl, effBar2Write_keeps h⟩
  | hbmParityError => exact ⟨_, rfl, effHbmParityError_keeps h⟩
  | stackTemperature => exact ⟨_, rfl, effStackTemp_keeps h⟩
  | selfRefreshTimeout => exact ⟨_, rfl, effSelfRefreshTimeout_keeps h⟩
  | nvmeCompletion => exact ⟨_, rfl, effNvmeCompletion_keeps h⟩
  | nvmeTimeout => exact ⟨_, rfl, effNvmeTimeout_keeps h⟩
  | nvmeAbortTimeout => exact ⟨_, rfl, effNvmeAbortTimeout_keeps h⟩
  | stagingViolation => exact ⟨_, rfl, effStagingViolation_keeps h⟩
  | hbmXferCtrlWrite => exact ⟨_, rfl, effHbmXferCtrlWrite_keeps h⟩
  | hbmErrClear => exact ⟨_, rfl, effStackErrClear_keeps h⟩
  | controllerResetEnd => exact ⟨_, rfl, effControllerResetEnd_keeps h⟩
  -- optical fabric and die links (chapters 10-12)
  | addressSlot => exact ⟨_, rfl, effAddressSlot_keeps h⟩
  | superframeBoundary => exact ⟨_, rfl, effSuperframeBoundary_keeps h⟩
  | leasedBlock => exact ⟨_, rfl, effLeasedBlock_keeps h⟩
  | periodLost => exact ⟨_, rfl, effPeriodLost_keeps h⟩
  | dataCell => exact ⟨_, rfl, effDataCell_keeps h⟩
  | barrierCell => exact ⟨_, rfl, effBarrierCell_keeps h⟩
  | abortCell => exact ⟨_, rfl, effAbortCell_keeps h⟩
  | testCell => exact ⟨_, rfl, effTestFrame_keeps h⟩
  | returnEntries => exact ⟨_, rfl, effReturn_keeps h⟩
  | ack => exact ⟨_, rfl, effAck_keeps h⟩
  | credit => exact ⟨_, rfl, effCredit_keeps h⟩
  | lost => exact ⟨_, rfl, effLost_keeps h⟩
  | misroute => exact ⟨_, rfl, effMisroute_keeps h⟩
  | leaseOffer => exact ⟨_, rfl, effLeaseOffer_keeps h⟩
  | leaseAccept => exact ⟨_, rfl, effLeaseAccept_keeps h⟩
  | leaseRefuse => exact ⟨_, rfl, effLeaseRefuse_keeps h⟩
  | leaseEnd => exact ⟨_, rfl, effLeaseEnd_keeps h⟩
  | calNotice => exact ⟨_, rfl, effCalNotice_keeps h⟩
  | shutter => exact ⟨_, rfl, effShutter_keeps h⟩
  | addrReport => exact ⟨_, rfl, effAddrReport_keeps h⟩
  | addrSet => exact ⟨_, rfl, effAddrSet_keeps h⟩
  | timing => exact ⟨_, rfl, effTiming_keeps h⟩
  | beacon => exact ⟨_, rfl, effBeacon_keeps h⟩
  | coordinatorTimeout => exact ⟨_, rfl, effCoordinatorTimeout_keeps h⟩
  | putEnd => exact ⟨_, rfl, effPutEnd_keeps h⟩
  | statsChain => exact ⟨_, rfl, effStatsChain_keeps h⟩
  | statsResult => exact ⟨_, rfl, effStatsResult_keeps h⟩
  | fetchReq => exact ⟨_, rfl, effFetchReq_keeps h⟩
  | fetchNack => exact ⟨_, rfl, effFetchNack_keeps h⟩
  | fetchTimeout => exact ⟨_, rfl, effFetchTimeout_keeps h⟩
  | streamTotal => exact ⟨_, rfl, effStreamTotal_keeps h⟩
  | stripeReq => exact ⟨_, rfl, effStripeReq_keeps h⟩
  | stripePTimeout => exact ⟨_, rfl, effStripePTimeout_keeps h⟩
  | abortRewriteDone => exact ⟨_, rfl, effAbortRewriteDone_keeps h⟩
  | quietPeriodEnd => exact ⟨_, rfl, effQuietPeriodEnd_keeps h⟩
  | fabAbortRaise => exact ⟨_, rfl, effAbortRaise_keeps h⟩
  | fabClearDrop => exact ⟨_, rfl, effFabDropClear_keeps h⟩
  | clearSat => exact ⟨_, rfl, effSatClear_keeps h⟩
  | linkFailure => exact ⟨_, rfl, effLinkFailure_keeps h⟩
  | linkRetry => exact ⟨_, rfl, effLinkRetry_keeps h⟩
  | mislockDetected => exact ⟨_, rfl, effMislockDetected_keeps h⟩
  | retuneSettled => exact ⟨_, rfl, effRetuneSettled_keeps h⟩
  | leaseOfferRepeat => exact ⟨_, rfl, effLeaseOfferRepeat_keeps h⟩
  | leaseRxHoldTimeout => exact ⟨_, rfl, effLeaseRxHoldTimeout_keeps h⟩
  | leaseTimeout => exact ⟨_, rfl, effLeaseTimeout_keeps h⟩
  | leasedCalibration => exact ⟨_, rfl, effLeasedCalibration_keeps h⟩
  | addrPlaneCalibration => exact ⟨_, rfl, effAddrPlaneCalibration_keeps h⟩
  | calibrationEnd => exact ⟨_, rfl, effCalibrated_keeps h⟩
  | shutterTrigger => exact ⟨_, rfl, settleLinks_keeps (effShutterTrigger_keeps h)⟩
  | silenceMute => exact ⟨_, rfl, effSilenceMute_keeps h⟩
  | muteResume => exact ⟨_, rfl, effMuteResume_keeps h⟩
  | shutterProbe => exact ⟨_, rfl, effShutterProbe_keeps h⟩
  | shutterProbeEnd => exact ⟨_, rfl, settleLinks_keeps (effShutterProbeEnd_keeps h)⟩
  | combFibreDrop => exact ⟨_, rfl, settleLinks_keeps (effCombFibreDrop_keeps h)⟩
  | combProbe => exact ⟨_, rfl, settleLinks_keeps (effCombProbe_keeps h)⟩
  | combLock => exact ⟨_, rfl, effCombLock_keeps h⟩
  | combAlarmN => exact ⟨_, rfl, effCombAlarmN_keeps h⟩
  | merClearDrop => exact ⟨_, rfl, effDropClear_keeps h⟩
  | clearLinks => exact ⟨_, rfl, effLinksClear_keeps h⟩
  | merLinkClear => exact ⟨_, rfl, effLinkClear_keeps h⟩
  | portTrained => exact ⟨_, rfl, effPortTrained_keeps h⟩
  | flitCrcError => exact ⟨_, rfl, effFlitCrcError_keeps h⟩
  | d2dPortClear => exact ⟨_, rfl, effPortClear_keeps h⟩
  | regRd => exact ⟨_, rfl, effRegRd_keeps h⟩
  | regWr => exact ⟨_, rfl, effRegWr_keeps h⟩
  | companionRegTimeout => exact ⟨_, rfl, effCompanionRegTimeout_keeps h⟩
  | companionCompletion => exact ⟨_, rfl, effCompanionCompletion_keeps h⟩
  | memRd => exact ⟨_, rfl, effMemRd_keeps h⟩
  | memWr => exact ⟨_, rfl, effMemWr_keeps h⟩
  | companionEvent => exact ⟨_, rfl, effCompanionEvent_keeps h⟩
  | d2dCompApertureWrite => exact ⟨_, rfl, effD2dCompApertureWrite_keeps h⟩
  | unknownCellType => exact ⟨_, rfl, effUnknownCellType_keeps h⟩
  -- host link (chapters 01, 13)
  | perstN => exact ⟨_, rfl, effPerstN_keeps h⟩
  | perstNRelease => exact ⟨_, rfl, effPerstNRelease_keeps h⟩
  | flr => exact ⟨_, rfl, effFlr_keeps h⟩
  | hotReset => exact ⟨_, rfl, effHotReset_keeps h⟩
  | linkDown => exact ⟨_, rfl, effLinkDown_keeps h⟩
  | flrStopTimeout => exact ⟨_, rfl, effFlrStopTimeout_keeps h⟩
  | linkTrained => exact ⟨_, rfl, effLinkTrained_keeps h⟩
  | memorySpaceEnable => exact ⟨_, rfl, effMemorySpaceEnable_keeps h⟩
  | busMasterEnable => exact ⟨_, rfl, effBusMasterEnable_keeps h⟩
  | d3hot => exact ⟨_, rfl, effD3hot_keeps h⟩
  | bar2Resize => exact ⟨_, rfl, effBar2Resize_keeps h⟩
  | ideCheckFail => exact ⟨_, rfl, effIdeCheckFail_keeps h⟩
  | streamBufferRead => exact ⟨_, rfl, effStreamBufferRead_keeps h⟩
  | dmaWindowWrite => exact ⟨_, rfl, effDmaWindowWrite_keeps h⟩
  | evrEnable => exact ⟨_, rfl, effEvrEnable_keeps h⟩
  | evrDisable => exact ⟨_, rfl, effEvrDisable_keeps h⟩
  | hubEvrBaseWrite => exact ⟨_, rfl, effHubEvrBaseWrite_keeps h⟩
  | hubEvrWbWrite => exact ⟨_, rfl, effHubEvrWbWrite_keeps h⟩
  | evrConsumerWrite => exact ⟨_, rfl, effEvrConsumerWrite_keeps h⟩
  | recordDelivery => exact ⟨_, rfl, effRecordDelivery_keeps h⟩
  | evrCoalesceTimeout => exact ⟨_, rfl, effEvrCoalesceTimeout_keeps h⟩
  | msixUnmask => exact ⟨_, rfl, effMsixUnmask_keeps h⟩
  | tokenWatchWrite => exact ⟨_, rfl, effTokenWatchWrite_keeps h⟩
  | counterLowRead => exact ⟨_, rfl, effCounterRead_keeps h⟩
  | badWidthAccess => exact ⟨_, rfl, effBadWidthAccess_keeps h⟩
  | registerWrite => exact ⟨_, rfl, effRegisterWrite_keeps h⟩
  -- power, start-up and reset (chapters 14, 15)
  | clockEvaluation => exact ⟨_, rfl, effClockEvaluation_keeps h⟩
  | powerLoop => exact ⟨_, rfl, effPowerLoop_keeps h⟩
  | clusterGate => exact ⟨_, rfl, effClusterGate_keeps h⟩
  | cluCapWrite => exact ⟨_, rfl, effCapWrite_keeps h⟩
  | sensorSample => exact ⟨_, rfl, effSensorSample_keeps h⟩
  | thermalTrip => exact ⟨_, rfl, effThermalTrip_keeps h⟩
  | railSample => exact ⟨_, rfl, effRailSample_keeps h⟩
  | sagStageExit => exact ⟨_, rfl, effSagStageExit_keeps h⟩
  | regulatorOvervoltage => exact ⟨_, rfl, effRegulatorOvervoltage_keeps h⟩
  | vinOvervoltage => exact ⟨_, rfl, effVinOvervoltage_keeps h⟩
  | regulatorFault => exact ⟨_, rfl, effRegulatorFault_keeps h⟩
  | droop => exact ⟨_, rfl, effDroop_keeps h⟩
  | droopEnd => exact ⟨_, rfl, effDroopEnd_keeps h⟩
  | clockLockLoss => exact ⟨_, rfl, effClockLockLoss_keeps h⟩
  | clearSag => exact ⟨_, rfl, effClearSag_keeps h⟩
  | clearClamp => exact ⟨_, rfl, effClearClamp_keeps h⟩
  | aoPowerGood => exact ⟨_, rfl, effAoPowerGood_keeps h⟩
  | aoPowerLoss => exact ⟨_, rfl, effAoPowerLoss_keeps h⟩
  | aoClocks => exact ⟨_, rfl, effAoClocks_keeps h⟩
  | enclaveRom => exact ⟨_, rfl, effEnclaveRom_keeps h⟩
  | fetch => exact ⟨_, rfl, effFetch_keeps h⟩
  | verify => exact ⟨_, rfl, effVerify_keeps h⟩
  | kat => exact ⟨_, rfl, effKat_keeps h⟩
  | discovery => exact ⟨_, rfl, effDiscovery_keeps h⟩
  | railWaitTimeout => exact ⟨_, rfl, effRailWaitTimeout_keeps h⟩
  | dieLinks => exact ⟨_, rfl, effDieLinks_keeps h⟩
  | hbm => exact ⟨_, rfl, effHbm_keeps h⟩
  | sram => exact ⟨_, rfl, effSram_keeps h⟩
  | optical => exact ⟨_, rfl, effOptical_keeps h⟩
  | combLockTimeout => exact ⟨_, rfl, effCombLockTimeout_keeps h⟩
  | storage => exact ⟨_, rfl, effStorage_keeps h⟩
  | ready => exact ⟨_, rfl, effReady_keeps h⟩
  | warm => exact ⟨_, rfl, effWarm_keeps h⟩
  | warmStopTimeout => exact ⟨_, rfl, effWarmStopTimeout_keeps h⟩
  | cold => exact ⟨_, rfl, effCold_keeps h⟩
  | die => exact ⟨_, rfl, effDie_keeps h⟩
  | dieResetComplete => exact ⟨_, rfl, effDieResetComplete_keeps h⟩
  | cluReset => exact ⟨_, rfl, effCluReset_keeps h⟩
  | bmcWarmResetRequest => exact ⟨_, rfl, effBmcWarmResetRequest_keeps h⟩
  -- enclave and management interface (chapter 16)
  | requestUpdate => exact ⟨_, rfl, effRequestUpdate_keeps h⟩
  | updateComponent => exact ⟨_, rfl, effUpdateComponent_keeps h⟩
  | firmwareData => exact ⟨_, rfl, effFirmwareData_keeps h⟩
  | updateVerifyDone => exact ⟨_, rfl, effUpdateVerifyDone_keeps h⟩
  | activateFirmware => exact ⟨_, rfl, effActivateFirmware_keeps h⟩
  | getFirmwareParameters => exact ⟨_, rfl, effGetFirmwareParameters_keeps h⟩
  | queryDeviceIdentifiers => exact ⟨_, rfl, effQueryDeviceIdentifiers_keeps h⟩
  | getPdr => exact ⟨_, rfl, effGetPdr_keeps h⟩
  | getPdrRepositoryInfo => exact ⟨_, rfl, effGetPdrRepositoryInfo_keeps h⟩
  | getSensorReading => exact ⟨_, rfl, effGetSensorReading_keeps h⟩
  | getStateSensorReadings => exact ⟨_, rfl, effGetStateSensorReadings_keeps h⟩
  | setEventReceiver => exact ⟨_, rfl, effSetEventReceiver_keeps h⟩
  | pollForPlatformEventMessage => exact ⟨_, rfl, effPollForPlatformEventMessage_keeps h⟩
  | eventMessageSupported => exact ⟨_, rfl, effEventMessageSupported_keeps h⟩
  | eventMessageBufferSize => exact ⟨_, rfl, effEventMessageBufferSize_keeps h⟩
  | platformEventResponse => exact ⟨_, rfl, effPlatformEventResponse_keeps h⟩
  | platformEventTimeout => exact ⟨_, rfl, effPlatformEventTimeout_keeps h⟩
  | sensorRefresh => exact ⟨_, rfl, effSensorRefresh_keeps h⟩
  | negotiateAlgorithms => exact ⟨_, rfl, effNegotiateAlgorithms_keeps h⟩
  | getCertificate => exact ⟨_, rfl, effGetCertificate_keeps h⟩
  | getMeasurements => exact ⟨_, rfl, effGetMeasurements_keeps h⟩
  | challenge => exact ⟨_, rfl, effChallenge_keeps h⟩
  | keyExchange => exact ⟨_, rfl, effKeyExchange_keeps h⟩
  | keyProg => exact ⟨_, rfl, effKeyProg_keeps h⟩
  | kSetGo => exact ⟨_, rfl, effKSetGo_keeps h⟩
  | kSetStop => exact ⟨_, rfl, effKSetStop_keeps h⟩
  | getChallenge => exact ⟨_, rfl, effGetChallenge_keeps h⟩
  | submitToken => exact ⟨_, rfl, effSubmitToken_keeps h⟩
  | coldStart => exact ⟨_, rfl, effColdStartMsg_keeps h⟩
  | zeroise => exact ⟨_, rfl, effZeroise_keeps h⟩
  | encZeroise => exact ⟨_, rfl, effEncZeroise_keeps h⟩
  | selfTest => exact ⟨_, rfl, effSelfTest_keeps h⟩
  | aliasCertIssue => exact ⟨_, rfl, effAliasCertIssue_keeps h⟩
  | i3cAddressAssign => exact ⟨_, rfl, effI3cAddressAssign_keeps h⟩
  | i3cBusReset => exact ⟨_, rfl, effI3cBusReset_keeps h⟩
  | endSession => exact ⟨_, rfl, effEndSession_keeps h⟩
  | setEndpointId => exact ⟨_, rfl, effSetEndpointId_keeps h⟩
  | debugPortAccess => exact ⟨_, rfl, effDebugPortAccess_keeps h⟩
  | conditionalTestFailure => exact ⟨_, rfl, effConditionalTestFailure_keeps h⟩

/-- Settles O5: the next state of `exec_keeps`, of which the statement leaves out the invariant. -/
theorem noCommandUndoesAFuseOrARetirement : Obligations.NoCommandUndoesAFuseOrARetirement := by
  unfold Obligations.NoCommandUndoesAFuseOrARetirement
  intro c s
  obtain ⟨t, answers, keeps⟩ := exec_keeps c s
  exact ⟨t, answers, keeps.kept⟩

end Sys2Proof.Machine
end

section
/-! The invariant of the machine at reset and along every step: O3 and O4. -/

namespace Sys2Proof.Machine

theorem coreOf_reset (k : Nat) : coreOf State.reset k = Core.reset := rfl

theorem strmOk_reset : StrmOk Stream.reset := ⟨rfl, Nat.zero_le _⟩

theorem cluOk_reset : CluOk Cluster.reset := ⟨rfl, rfl, by decide, Nat.zero_le _⟩

/-- Settles O3: every unit holds its reset value, in which no memory lists a byte. -/
theorem resetHoldsTheInvariant : Obligations.ResetHoldsTheInvariant where
  hbm := rfl
  flash := rfl
  strm i := strmOf_reset i ▸ strmOk_reset
  clu i := clOf_reset i ▸ cluOk_reset
  spad i := by rw [coreOf_reset]; rfl
  log := Nat.zero_le _

/-- The invariant does not speak of the queue of waiting commands. -/
theorem Inv.setPending {s : State} (h : Inv s) (cs : List Instr) : Inv { s with pending := cs } :=
  ⟨h.hbm, h.flash, h.strm, h.clu, h.spad, h.log⟩

/-- A step is a tick or the front command on the rest of the queue, and both keep the invariant. -/
theorem step_inv {s t : State} (h : Inv s) (ht : Answers (step s) t) : Inv t := by
  unfold step at ht
  split at ht
  · obtain rfl : tick s = t := Host.Outcome.next.inj ht
    exact (tick_keeps (Keeps.start s)).inv h
  · next c rest _ =>
    obtain ⟨u, answers, keeps⟩ := exec_keeps c { s with pending := rest }
    obtain rfl : u = t := Host.Outcome.next.inj (answers.symm.trans ht)
    exact keeps.inv (h.setPending rest)

/-- Settles O4: the statement is `step_inv`. -/
theorem stepKeepsTheInvariant : Obligations.StepKeepsTheInvariant := by
  unfold Obligations.StepKeepsTheInvariant
  exact fun _ _ => step_inv

end Sys2Proof.Machine
end

section
/-! The stream buffers and the registers of a stream (R58-R70, R92): O34 and O35. -/

namespace Sys2Proof.Machine

/-! ### Slots written (R58-R61) -/

/-- The tag that the 64 bytes of a slot carry. -/
def slotTag (data : List Byte) : Nat := leNat ((data.drop 62).take 2)

/-- The stream's buffer with bytes stored in it. -/
def storeSlot (st off : Nat) (data : List Byte) (s : State) : State :=
  setStrm s st { strmOf s st with buf := (strmOf s st).buf.writes off data }

section
variable {s : State} {st slot : Nat} {data : List Byte}

/-- A whole slot written: an occupied slot is left alone, and a free one takes the bytes and, with a tag that is in the
window and belongs to the slot, is occupied. -/
theorem slotWrite_whole (first : Nat) (hd : data.length = 64) : slotWrite st first (64 * slot) data s
    = if (strmOf s st).occ.contains slot then misplacedWrite st 3 first (slotTag data) s
      else if 4096 ≤ (slotTag data + 65536 - (strmOf s st).e) % 65536 then
        misplacedWrite st 1 first (slotTag data) (storeSlot st (64 * slot) data s)
      else if slotTag data % 4096 ≠ slot then misplacedWrite st 2 first (slotTag data) (storeSlot st (64 * slot) data s)
      else setStrm (storeSlot st (64 * slot) data s) st
        { strmOf (storeSlot st (64 * slot) data s) st with occ := slot :: (strmOf s st).occ } := by
  simp [slotWrite, slotTag, storeSlot, hd]

/-- A write request of one whole slot is not split. -/
theorem slotWrites_whole (n first : Nat) (hd : data.length = 64) :
    slotWrites (n + 1) st first (64 * slot) data s = slotWrite st first (64 * slot) data s := by
  have hne : data ≠ [] := fun h => by simp [h] at hd
  have hdrop : data.drop 64 = [] := List.drop_eq_nil_of_le (by omega)
  have htake : data.take 64 = data := List.take_of_length_le (by omega)
  have hrest : ∀ k off u, slotWrites k st first off [] u = u := fun k off u => by cases k <;> simp [slotWrites]
  simp only [slotWrites, if_neg hne, Nat.mul_mod_right, Nat.sub_zero, hdrop, htake, hrest]

/-- STREAM_SLOT_WRITE of one whole slot, from a host that reaches the package. -/
theorem effStreamSlotWrite_whole (h : HostReaches s) (hst : st < 64) (hslot : slot < 4096) (hd : data.length = 64) :
    effStreamSlotWrite st (64 * slot) data s = slotWrite st slot (64 * slot) data s := by
  have hin : (decide (st ≥ 64) || decide (64 * slot + data.length > 0x40000) || !s.boot.ready) = false := by
    simp [h.ready, hd]; omega
  have haligned : (decide (64 * slot % 4 ≠ 0) || decide (data.length % 4 ≠ 0)) = false := by simp [hd]; omega
  rw [effStreamSlotWrite, hostAccess_of_reaches h, hin, haligned, if_neg Bool.false_ne_true, if_neg Bool.false_ne_true,
    Nat.mul_div_cancel_left _ (by omega : 0 < 64), slotWrites_whole 4096 slot hd]

end

/-! ### Slots read into the decode queue (R62) -/

/-- A stream after its slot of tag E has gone to the decode queue. -/
def ingested (x : Stream) : Stream :=
  { x with
    occ := x.occ.erase (x.e % 4096)
    queue := x.queue ++ [BitVec.ofNat 512 (x.buf.nat (64 * (x.e % 4096)) 64)]
    e := (x.e + 1) % 65536
    rested := false }

/-- What INGEST_READ_SLOT waits for: the stream enabled, the slot of tag E occupied, and room in the decode queue. -/
abbrev MayIngest (x : Stream) : Prop := x.enable = true ∧ x.occ.contains (x.e % 4096) = true ∧ x.queue.length < 16

theorem effIngestReadSlot_eq (st : Nat) (s : State) : effIngestReadSlot st s
    = if MayIngest (strmOf s st) then setStrm s st (ingested (strmOf s st)) else s := by
  simp only [effIngestReadSlot, MayIngest, ingested, Bool.and_eq_true, decide_eq_true_eq, and_assoc]

/-- Another stream than the one that is set reads as before. -/
theorem strmOf_setStrm_other (s : State) {i st : Nat} (x : Stream) (h : i ≠ st) : strmOf (setStrm s st x) i = strmOf s i := by
  rw [strmOf_setStrm, if_neg h]

/-- Settles O34: a slot write takes the branch of `slotWrite_whole` that the slot and the tag select, and a slot read is
`effIngestReadSlot_eq`. -/
theorem streamBuffersTakeTaggedSlotsInOrder : Obligations.StreamBuffersTakeTaggedSlotsInOrder := by
  unfold Obligations.StreamBuffersTakeTaggedSlotsInOrder
  refine ⟨fun s st slot data h hst hslot hd => ?_, fun s st => ?_⟩
  · have hw := (effStreamSlotWrite_whole h hst hslot hd).trans (slotWrite_whole slot hd)
    refine ⟨fun hfree (hwin : (slotTag data + 65536 - _) % _ < _) (hown : slotTag data % _ = _) => ?_,
      fun hfree (hwin : _ ≤ (slotTag data + 65536 - _) % _) => ?_,
      fun hfree (hwin : (slotTag data + 65536 - _) % _ < _) (hown : slotTag data % _ ≠ _) => ?_, fun hocc => ?_⟩ <;>
      refine answers_of_eq (hw.trans ?_)
    · rw [hfree, if_neg Bool.false_ne_true, if_neg (Nat.not_le.2 hwin), if_neg (not_not_intro hown), storeSlot,
        strmOf_setStrm_same]
    · rw [hfree, if_neg Bool.false_ne_true, if_pos hwin]
      rfl
    · rw [hfree, if_neg Bool.false_ne_true, if_neg (Nat.not_le.2 hwin), if_pos hown]
      rfl
    · rw [hocc, if_pos rfl]
      rfl
  · have hr := effIngestReadSlot_eq st s
    split
    · next hgo =>
      refine ⟨_, answers_of_eq (hr.trans (if_pos hgo)), ?_⟩
      rw [strmOf_setStrm_same]
      exact ⟨rfl, rfl, rfl, rfl, fun i hi => strmOf_setStrm_other s _ hi, rfl, rfl, rfl⟩
    · next hgo => exact answers_of_eq (hr.trans (if_neg hgo))

/-! ### The registers of a stream (R65, R69, R70, R92) -/

/-- What a write of a stream's register leaves: the stream is `x`, and every other stream, the tokens and HBM are as
before. -/
structure SetsStream (s : State) (st : Nat) (x : Stream) (t : State) : Prop where
  self : strmOf t st = x
  others : ∀ i, i ≠ st → strmOf t i = strmOf s i
  tok : t.tok = s.tok
  hbm : t.hbm = s.hbm

theorem setsStream_setStrm (s : State) (st : Nat) (x : Stream) : SetsStream s st x (setStrm s st x) :=
  ⟨strmOf_setStrm_same s st x, fun _ hi => strmOf_setStrm_other s x hi, rfl, rfl⟩

/-- A stream whose skip-log entry `i` is selected, and so read. -/
def selected (i : Nat) (x : Stream) : Stream :=
  { x with
    select := i
    log := match x.log.find i with
      | some en => x.log.put i { en with read := true }
      | none => x.log }

/-- The entry that is selected is marked read. -/
theorem selected_find {i : Nat} {x : Stream} {en : SkipEntry} (h : x.log.find i = some en) :
    (selected i x).log.find i = some { en with read := true } := by
  simp only [selected, h]
  exact find_put_same _ _ _

/-- A stream with no decoded command after its reset. -/
def resetIdle (x : Stream) : Stream :=
  { x with queue := [], seen := [], buf := [], occ := [], e := 1, rested := true }

section
variable {s : State} {st : Nat}

theorem resetStream_idle (hq : (strmOf s st).queue = []) : resetStream st s = setStrm s st (resetIdle (strmOf s st)) := by
  simp [resetStream, resetIdle, hq]

variable (h : HostReaches s) (hst : st < 64)
include h hst

theorem effStreamEnable_eq (on : Bool) :
    effStreamEnable st on s = setStrm s st { strmOf s st with enable := on, rested := false } := by
  rw [effStreamEnable, hostAccess_of_reaches h, if_pos ⟨hst, h.ready⟩]

theorem effStreamPause_eq (on : Bool) :
    effStreamPause st on s = setStrm s st { strmOf s st with pause := on, rested := false } := by
  rw [effStreamPause, hostAccess_of_reaches h, if_pos hst]

theorem effSkipSelect_eq (idx : Nat) : effSkipSelect st idx s = setStrm s st (selected (idx % 256) (strmOf s st)) := by
  rw [effSkipSelect, hostAccess_of_reaches h, if_pos hst]
  rfl

theorem effStreamReset_idle (hq : (strmOf s st).queue = []) :
    effStreamReset st s = setStrm s st (resetIdle (strmOf s st)) := by
  rw [effStreamReset, hostAccess_of_reaches h, if_pos hst, resetStream_idle hq]

end

/-- Settles O35: each register sets its stream, and the clauses are the fields of what it is set to. -/
theorem streamRegistersActOnTheirStream : Obligations.StreamRegistersActOnTheirStream := by
  unfold Obligations.StreamRegistersActOnTheirStream
  intro s st h hst
  refine ⟨fun on => ?_, fun on => ?_, fun idx => ?_, fun hq => ?_⟩
  · obtain ⟨self, others, tok, hbm⟩ := setsStream_setStrm s st { strmOf s st with enable := on, rested := false }
    exact ⟨_, answers_of_eq (effStreamEnable_eq h hst on), self, others, tok, hbm⟩
  · obtain ⟨self, others, tok, hbm⟩ := setsStream_setStrm s st { strmOf s st with pause := on, rested := false }
    exact ⟨_, answers_of_eq (effStreamPause_eq h hst on), self, others, tok, hbm⟩
  · obtain ⟨self, others, tok, hbm⟩ := setsStream_setStrm s st (selected (idx % 256) (strmOf s st))
    refine ⟨_, answers_of_eq (effSkipSelect_eq h hst idx), ?_⟩
    rw [self]
    exact ⟨rfl, fun en he => selected_find he, rfl, others, tok, hbm⟩
  · obtain ⟨self, others, tok, hbm⟩ := setsStream_setStrm s st (resetIdle (strmOf s st))
    refine ⟨_, answers_of_eq (effStreamReset_idle h hst hq), ?_⟩
    rw [self]
    exact ⟨rfl, rfl, fun _ => rfl, rfl, rfl, rfl, others, tok, hbm⟩

end Sys2Proof.Machine
end

section
/-! The checks and the dispatch of the commands of the streams (R64-R93, R587): O36, O37 and O39. This part is
elaborated without parallel tasks, which keeps the memory of the check within its limit. -/

namespace Sys2Proof.Machine

set_option Elab.async false

/-! ### The checks of a command (R587) -/

section
variable {s : State} {st op : Nat} {sp : CmdSpec}

/-- The done token of a command that passes its checks is none or a hub token, and its waits are legal. -/
theorem Passes.tokensLegal (h : Passes s st op) : (!(decide (cmdDone (headCmd s st) = 0xFFFF) || isHubTok (cmdDone (headCmd s st)))
    || !((cmdWaits (headCmd s st)).all waitOk)) = false := by
  have hwaits : (cmdWaits (headCmd s st)).all waitOk = true := List.all_eq_true.2 fun id hid => by
    rcases h.waits id hid with rfl | ⟨htok, -⟩
    · rfl
    · rw [waitOk, Bool.or_assoc, htok, Bool.or_true]
  rcases h.done with hd | hd <;> simp [hwaits, hd]

/-- No token that it waits on is in a state other than DONE. -/
theorem Passes.waitWith_none (h : Passes s st op) {p : Tok → Bool} (hp : p .done = false) :
    waitWith (headCmd s st) (strmOf s st).seen p s = none := List.find?_eq_none.2 fun id hid => by
  rcases h.waits id hid with rfl | ⟨-, hseen⟩
  · simp
  · simp [hseen, hp]

/-- A command of a job is skipped while none is open. -/
theorem cmdSkip_of_noJob (h : Passes s st op) (ho : cmdOp (headCmd s st) = op) (hb : sp.badOperand (headCmd s st) s = false)
    (hn : sp.needJob = true) (hj : s.job.opened = false) : cmdSkip sp st (headCmd s st) s = some { code := 0x06 } := by
  simp only [cmdSkip, ho, h.fields, hb, h.tokensLegal, hn, hj]
  rw [h.waitWith_none (by decide), h.waitWith_none (by decide)]
  rfl

/-- A command whose operands are good is skipped for a wait on a token SKIPPED or ABORTED. -/
theorem cmdSkip_of_badWait {id : Nat} (ho : cmdOp (headCmd s st) = op)
    (hf : onlyFields (headCmd s st) (cmdCommon ++ cmdFields op) = true) (hb : sp.badOperand (headCmd s st) s = false)
    (hd : cmdDone (headCmd s st) = 0xFFFF ∨ isHubTok (cmdDone (headCmd s st)) = true)
    (hl : (cmdWaits (headCmd s st)).all waitOk = true)
    (hw : waitWith (headCmd s st) (strmOf s st).seen (fun t => decide (t = .skipped) || decide (t = .aborted)) s = some id) :
    cmdSkip sp st (headCmd s st) s = some { code := 0x04, cause := id } := by
  have hd' : (decide (cmdDone (headCmd s st) = 0xFFFF) || isHubTok (cmdDone (headCmd s st))) = true := by simpa using hd
  simp only [cmdSkip, ho, hf, hb, hd', hl, hw]
  rfl

end

/-! ### Dispatch (R64, R93) -/

section
variable {s : State} {st op : Nat} {late : List Nat} {sp : CmdSpec} {run : Nat → W512 → State → State}

/-- The work of a command begins when its checks pass; those that its specification leaves open pass. -/
theorem dispatch_of_passes (hp : pickStream s late = some st) (ho : cmdOp (headCmd s st) = op) (h : Passes s st op)
    (hj : sp.needJob = true → s.job.opened = true) (hb : sp.badOperand (headCmd s st) s = false := by rfl)
    (ha : sp.absent (headCmd s st) s = false := by rfl) (hw : sp.own (headCmd s st) s = none := by rfl)
    (hr : sp.range (headCmd s st) s = false := by rfl) :
    dispatch op sp run st late s = run s.seqNo (headCmd s st) (popCmd st s) :=
  dispatch_run hp ho (cmdSkip_of_passes h ho hb hj ha hw hr)

/-- With a bit set outside its fields it is skipped. -/
theorem dispatch_of_bad (hp : pickStream s late = some st) (ho : cmdOp (headCmd s st) = op)
    (hb : onlyFields (headCmd s st) (cmdCommon ++ cmdFields op) = false) :
    dispatch op sp run st late s = skipCommand st (headCmd s st) { code := 0x02 } (popCmd st s) :=
  dispatch_skip hp ho (cmdSkip_of_bad ho hb)

/-- A command that needs a job is skipped without one. -/
theorem dispatch_of_noJob (hp : pickStream s late = some st) (ho : cmdOp (headCmd s st) = op) (h : Passes s st op)
    (hj : s.job.opened = false) (hn : sp.needJob = true := by rfl) (hb : sp.badOperand (headCmd s st) s = false := by rfl) :
    dispatch op sp run st late s = skipCommand st (headCmd s st) { code := 0x06 } (popCmd st s) :=
  dispatch_skip hp ho (cmdSkip_of_noJob h ho hb hn hj)

end

/-- An unknown opcode is skipped. -/
theorem effUnknownCommand_skips {s : State} {st : Nat} {late : List Nat} (hp : pickStream s late = some st)
    (ho : cmdOp (headCmd s st) ∉ knownOps) :
    effUnknownCommand st late s = skipCommand st (headCmd s st) { code := 0x01 } (popCmd st s) := if_pos ⟨hp, ho⟩

/-- Commands of the streams that O36 names, with their opcodes. -/
def checkedCmds : List ((Nat → List Nat → Instr) × Nat) :=
  [(.nop, 0x01), (.fence, 0x02), (.tokenSet, 0x03), (.tokenRelease, 0x04), (.setProfile, 0x08), (.jobOpen, 0x10),
   (.groupDefine, 0x21), (.groupStart, 0x22), (.groupStop, 0x23), (.batchAdmit, 0x24), (.hostCopy, 0x2B), (.epochSet, 0x33)]

/-- Each of them is a dispatch of its opcode. -/
theorem exec_checkedCmd {p : (Nat → List Nat → Instr) × Nat} (h : p ∈ checkedCmds) (st : Nat) :
    ∃ sp run, ∀ late s, exec (p.1 st late) s = .next (dispatch p.2 sp run st late s) := by
  revert p
  simp only [checkedCmds, List.forall_mem_cons]
  refine ⟨?_, ?_, ?_, ?_, ?_, ?_, ?_, ?_, ?_, ?_, ?_, ?_, fun _ h => absurd h List.not_mem_nil⟩ <;>
    exact ⟨_, _, fun _ _ => rfl⟩

/-- Settles O36: each clause is the skip of the check that fails first. -/
theorem aCommandThatFailsACheckIsSkipped : Obligations.ACommandThatFailsACheckIsSkipped := by
  unfold Obligations.ACommandThatFailsACheckIsSkipped
  refine fun s st late hp => ⟨fun ho => answers_of_eq (effUnknownCommand_skips hp ho), fun p hmem ho hb => ?_, ?_, ?_⟩
  · obtain ⟨sp, run, hexec⟩ := exec_checkedCmd hmem st
    exact (hexec late s).trans (answers_of_eq (dispatch_of_bad hp ho hb))
  · simp only [List.forall_mem_cons]
    refine ⟨fun id ho hf hd hl hw => answers_of_eq (dispatch_skip hp ho ?_),
      fun id ho hf hd hl hw => answers_of_eq (dispatch_skip hp ho ?_), fun _ h => absurd h List.not_mem_nil⟩ <;>
      exact cmdSkip_of_badWait ho hf rfl hd hl hw
  · simp only [List.forall_mem_cons]
    exact ⟨fun ho h hj hmask => answers_of_eq (dispatch_of_noJob hp ho h hj (hb := decide_eq_false (hmask trivial))),
      fun ho h hj _ => answers_of_eq (dispatch_of_noJob hp ho h hj),
      fun ho h hj _ => answers_of_eq (dispatch_of_noJob hp ho h hj),
      fun ho h hj _ => answers_of_eq (dispatch_of_noJob hp ho h hj), fun _ h => absurd h List.not_mem_nil⟩

/-! ### What commands check of the groups (R84-R88) -/

/-- A list none of whose clusters has the property names no skip. -/
theorem lowest_none {code : Nat} {l : List Nat} {p : Nat → Bool} (h : ∀ c ∈ l, p c = false) : lowest code (l.filter p) = none := by
  rw [List.filter_eq_nil_iff.2 fun c hc => by simp [h c hc]]
  rfl

/-! ### Commands that complete at dispatch (R595) -/

section
variable {s : State} {st : Nat} {late : List Nat} (hp : pickStream s late = some st)
include hp

theorem effNop_runs (ho : cmdOp (headCmd s st) = 0x01) (h : Passes s st 0x01) :
    effNop st late s = atOnce st s.seqNo (headCmd s st) id (popCmd st s) := dispatch_of_passes hp ho h nofun

theorem effTokenSet_runs (ho : cmdOp (headCmd s st) = 0x03) (h : Passes s st 0x03) (ht : isHubTok (fld (headCmd s st) 128 16) = true)
    (h1 : 1 ≤ fld (headCmd s st) 144 4) (h4 : fld (headCmd s st) 144 4 ≤ 4)
    (hfree : ¬ ((tokOf s (fld (headCmd s st) 128 16)).st = .pending ∧ (tokOf s (fld (headCmd s st) 128 16)).held = true)) :
    effTokenSet st late s = atOnce st s.seqNo (headCmd s st)
      (setTok (fld (headCmd s st) 128 16) (tokOfCode (fld (headCmd s st) 144 4)) false) (popCmd st s) :=
  dispatch_of_passes hp ho h nofun (hb := by simp only [ht]; simp; omega) (hw := if_neg hfree)

theorem effTokenRelease_runs (ho : cmdOp (headCmd s st) = 0x04) (h : Passes s st 0x04)
    (hin : ∀ i ∈ releaseRange (headCmd s st), i < 0x8400) (hfree : ∀ i ∈ releaseRange (headCmd s st), (tokOf s i).st ≠ .pending) :
    effTokenRelease st late s = atOnce st s.seqNo (headCmd s st)
      (fun s' => (releaseRange (headCmd s st)).foldl (fun s i => setTok i .idle false s) s') (popCmd st s) := by
  refine dispatch_of_passes hp ho h nofun (hb := ?_) (hw := if_neg ?_)
  · exact List.any_eq_false.2 fun i hi => by simpa using hin i hi
  · rw [Bool.not_eq_true]
    exact List.any_eq_false.2 fun i hi => by simp [hfree i hi]

theorem effSetProfile_runs (ho : cmdOp (headCmd s st) = 0x08) (h : Passes s st 0x08) (hn : fld (headCmd s st) 128 2 ≠ 3) :
    effSetProfile st late s = setProfile s.seqNo st (headCmd s st) (popCmd st s) :=
  dispatch_of_passes hp ho h nofun (hb := decide_eq_false hn)

theorem effJobOpen_runs (ho : cmdOp (headCmd s st) = 0x10) (h : Passes s st 0x10) (hj : s.job.opened = false)
    (hc : jobClosing s = false) :
    effJobOpen st late s = atOnce st s.seqNo (headCmd s st) (openJob (headCmd s st)) (popCmd st s) :=
  dispatch_of_passes hp ho h nofun (hw := if_neg (by simp [hj, hc]))

variable (hj : s.job.opened = true)
include hj

theorem effGroupDefine_runs (ho : cmdOp (headCmd s st) = 0x21) (h : Passes s st 0x21) (hm : cw (headCmd s st) 5 ≠ 0)
    (hidle : ∀ c ∈ runningCls s, cw (headCmd s st) 5 / 2 ^ c % 2 ≠ 1 ∧ grpMask s (groupOf (headCmd s st)) / 2 ^ c % 2 ≠ 1) :
    effGroupDefine st late s = atOnce st s.seqNo (headCmd s st)
      (fun s' => { s' with groups := s'.groups.put (groupOf (headCmd s st)) (BitVec.ofNat 32 (cw (headCmd s st) 5)) })
      (popCmd st s) :=
  dispatch_of_passes hp ho h (fun _ => hj) (hb := decide_eq_false hm)
    (hw := lowest_none fun c hc => decide_eq_false (not_or.2 (hidle c hc)))

theorem effBatchAdmit_runs (ho : cmdOp (headCmd s st) = 0x24) (h : Passes s st 0x24) (ha : cw (headCmd s st) 7 % 8 = 0)
    (hin : cw (headCmd s st) 7 < 0x1800000) (hg : grpMask s (groupOf (headCmd s st)) ≠ 0)
    (hmax : cw (headCmd s st) 5 ≤ s.job.maxTokens.toNat) :
    effBatchAdmit st late s = atOnce st s.seqNo (headCmd s st) (openBatch (headCmd s st)) (popCmd st s) :=
  dispatch_of_passes hp ho h (fun _ => hj) (hb := decide_eq_false (by omega))
    (hw := (if_neg hg).trans (if_neg (Nat.not_lt.2 hmax)))

end

/-- Settles O37: each clause is the lemma about its command. -/
theorem hubCommandsCompleteAtDispatch : Obligations.HubCommandsCompleteAtDispatch := by
  unfold Obligations.HubCommandsCompleteAtDispatch
  exact fun s st late hp => ⟨fun ho h => answers_of_eq (effNop_runs hp ho h),
    fun ho h ht h1 h4 hfree => answers_of_eq (effTokenSet_runs hp ho h ht h1 h4 hfree),
    fun ho h hin hfree => answers_of_eq (effTokenRelease_runs hp ho h hin hfree),
    fun ho h hn => answers_of_eq (effSetProfile_runs hp ho h hn),
    fun ho h hj hc => answers_of_eq (effJobOpen_runs hp ho h hj hc),
    fun hj ho h hm hidle => answers_of_eq (effGroupDefine_runs hp hj ho h hm hidle),
    fun hj ho h ha hin hg hmax => answers_of_eq (effBatchAdmit_runs hp hj ho h ha hin hg hmax)⟩

/-! ### Setting a token leaves the stacks of HBM -/

/-- What setting a token may change: the tokens, what waiters on them have seen, and what the host is told. -/
def SetsToken (s t : State) : Prop :=
  ∃ strm cl tok pci out, t = { s with strm := strm, cl := cl, tok := tok, pci := pci, out := out }

theorem SetsToken.refl (s : State) : SetsToken s s := ⟨_, _, _, _, _, rfl⟩

theorem SetsToken.trans {a b c : State} (h : SetsToken a b) (g : SetsToken b c) : SetsToken a c := by
  obtain ⟨_, _, _, _, _, rfl⟩ := h
  obtain ⟨_, _, _, _, _, rfl⟩ := g
  exact ⟨_, _, _, _, _, rfl⟩

theorem setsToken_sendMsix (v : Nat) (s : State) : SetsToken s (sendMsix v s) := by
  obtain ⟨_, _, h, -⟩ := sendsMsix_sendMsix v s
  exact ⟨_, _, _, _, _, h⟩

theorem setsToken_setWatch (s : State) (n : Nat) (x : Watch) : SetsToken s (setWatch s n x) := ⟨_, _, _, _, _, rfl⟩

theorem setsToken_fireWatch (wait : Option W32) (n : Nat) (s : State) : SetsToken s (fireWatch wait n s) := by
  unfold fireWatch
  extract_lets w t s'
  have hsent : SetsToken s (sendMsix w.vector s') := (setsToken_setWatch s n _).trans (setsToken_sendMsix _ s')
  refine ite_of ?_ (.refl s)
  cases wait with
  | none => exact hsent
  | some q => exact ite_of (setsToken_setWatch s n _) hsent

theorem setsToken_putTok (s : State) (id : Nat) (t : TokEntry) : SetsToken s (putTok s id t) :=
  ite_of ⟨_, _, _, _, _, rfl⟩ ⟨_, _, _, _, _, rfl⟩

theorem setsToken_setTokW (id : Nat) (t : TokEntry) (wait : Option W32) (s : State) : SetsToken s (setTokW id t wait s) := by
  unfold setTokW
  extract_lets s'
  have hseen : SetsToken s s' := ite_of ⟨_, _, _, _, _, rfl⟩ (.refl s)
  exact foldl_keeps (P := SetsToken s) (fun u _ h => h.trans (setsToken_fireWatch _ _ u)) _ _
    (hseen.trans (setsToken_putTok s' id t))

/-- No stack of HBM changes as a command starts. -/
theorem stack_startCmd (no st : Nat) (w : W512) (wk : Work) (s : State) : (startCmd no st w wk s).stack = s.stack := by
  unfold startCmd
  split
  · obtain ⟨_, _, _, _, _, h⟩ := setsToken_setTokW (cmdDone w) ⟨.pending, true⟩ none s
    simp only [setTok, h]
  · rfl

/-- Self-refresh is a matter of the stacks. -/
theorem inSelfRefresh_congr {s t : State} (h : t.stack = s.stack) (ns : List Nat) : inSelfRefresh t ns = inSelfRefresh s ns := by
  unfold inSelfRefresh stackOf
  rw [h]

/-- A structure whose stacks are awake is read at once. -/
theorem heldStruct_awake {s : State} {addr len : Nat} (hs : List Hit) (run : List Hit → State → State)
    (h : inSelfRefresh s (sectorsOf addr len) = false) : heldStruct hs addr len run s = run hs s :=
  if_neg (by simp [h])

/-! ### Commands that begin when they are dispatched -/

section
variable {s : State} {st : Nat} {late : List Nat} {hs : List Hit} (hp : pickStream s late = some st)
include hp

theorem effFence_runs (ho : cmdOp (headCmd s st) = 0x02) (h : Passes s st 0x02) : effFence st late s
    = startCmd s.seqNo st (headCmd s st) (.fence (cmdPackage (headCmd s st))) (popCmd st s) := dispatch_of_passes hp ho h nofun

theorem effHostCopy_runs (ho : cmdOp (headCmd s st) = 0x2B) (h : Passes s st 0x2B) (ha : cw2 (headCmd s st) 10 % 64 = 0)
    (hhost : hostRangeBad s (cw2 (headCmd s st) 6) (cw2 (headCmd s st) 10) = false)
    (hhbm : hbmRangeBad (cw2 (headCmd s st) 8) (cw2 (headCmd s st) 10) = false) : effHostCopy st late s
    = if cw2 (headCmd s st) 10 = 0 then atOnce st s.seqNo (headCmd s st) id (popCmd st s)
      else if bit (headCmd s st) 128 then startCmd s.seqNo st (headCmd s st) .hostWrite (popCmd st s)
      else hostPump (startCmd s.seqNo st (headCmd s st) (.hostRead 0 (cw2 (headCmd s st) 10)) (popCmd st s)) :=
  dispatch_of_passes hp ho h nofun (hb := decide_eq_false (not_not_intro ha)) (hr := by simp [hhost, hhbm])

variable (hj : s.job.opened = true)
include hj

theorem effJobClose_runs (ho : cmdOp (headCmd s st) = 0x11) (h : Passes s st 0x11) (hidle : runningCls s = [])
    (hcoll : collInFlight s = false) {u : State}
    (hu : u = startCmd s.seqNo st (headCmd s st) (.jobClose false) { popCmd st s with job := { s.job with opened := false } }) :
    effJobClose st late s = { u with free := u.free + 1 } := by
  subst hu
  unfold effJobClose
  rw [dispatch_of_passes hp ho h (fun _ => hj) (hw := by simp [hidle, hcoll])]
  rfl

theorem effSetRecipe_runs (ho : cmdOp (headCmd s st) = 0x12) (h : Passes s st 0x12) (hidle : runningCls s = [])
    (hr : hbmRangeBad (cw2 (headCmd s st) 4) 64 = false) : effSetRecipe st late hs s
    = loadRecipe hs s.seqNo st (headCmd s st) (startCmd s.seqNo st (headCmd s st) .waiting (popCmd st s)) :=
  dispatch_of_passes hp ho h (fun _ => hj) (hw := if_pos hidle) (hr := hr)

theorem effLoadProgram_runs (ho : cmdOp (headCmd s st) = 0x20) (h : Passes s st 0x20) (h1 : 1 ≤ fld (headCmd s st) 144 7)
    (h64 : fld (headCmd s st) 136 6 + fld (headCmd s st) 144 7 ≤ 64) (ha : cw2 (headCmd s st) 6 % 4096 = 0)
    (hg : grpMask s (groupOf (headCmd s st)) ≠ 0) (hwait : cmdNoWait (headCmd s st) = false)
    (hr : (if bit (headCmd s st) 152 then hostRangeBad s (cw2 (headCmd s st) 6) (4096 * fld (headCmd s st) 144 7)
      else hbmRangeBad (cw2 (headCmd s st) 6) (4096 * fld (headCmd s st) 144 7)) = false) : effLoadProgram st late hs s
    = beginLoad hs s.seqNo (headCmd s st) (startCmd s.seqNo st (headCmd s st) .waiting (popCmd st s)) :=
  dispatch_of_passes hp ho h (fun _ => hj) (hb := decide_eq_false (by omega))
    (hw := (if_neg hg).trans (if_neg (by rw [hwait]; exact Bool.false_ne_true))) (hr := hr)

theorem effGroupStart_runs (ho : cmdOp (headCmd s st) = 0x22) (h : Passes s st 0x22)
    (hg : grpMask s (groupOf (headCmd s st)) ≠ 0)
    (hidle : ∀ c ∈ members (headCmd s st) s, (clOf s c).prog = none ∧ (clOf s c).mapState ≠ 3) : effGroupStart st late s
    = ((members (headCmd s st) s).zipIdx.map (fun p => (p.2, p.1))).foldl
        (fun s' rc => startMember s.seqNo st (headCmd s st) (members (headCmd s st) s).length rc s')
        (startCmd s.seqNo st (headCmd s st) (.start (members (headCmd s st) s) true) (popCmd st s)) := by
  refine dispatch_of_passes hp ho h (fun _ => hj) (hw := (if_neg hg).trans ?_)
  rw [lowest_none fun c hc => by simp [(hidle c hc).1], lowest_none fun c hc => by simp [(hidle c hc).2]]

theorem effGroupStop_runs (ho : cmdOp (headCmd s st) = 0x23) (h : Passes s st 0x23)
    (hg : grpMask s (groupOf (headCmd s st)) ≠ 0) (hrun : ∃ c ∈ members (headCmd s st) s, (clOf s c).prog.isSome = true) :
    effGroupStop st late s
    = ((members (headCmd s st) s).filter (fun c => (clOf s c).prog.isSome)).foldl (fun s' c => trap c 5 { pc := (clOf s' c).pc } s')
        (startCmd s.seqNo st (headCmd s st) (.stop ((members (headCmd s st) s).filter (fun c => (clOf s c).prog.isSome))) (popCmd st s)) :=
  dispatch_of_passes hp ho h (fun _ => hj) (hw := (if_neg hg).trans (if_pos (List.any_eq_true.2 hrun)))

theorem effEphLoad_runs (ho : cmdOp (headCmd s st) = 0x28) (h : Passes s st 0x28) (h1 : 1 ≤ cw (headCmd s st) 8)
    (hmax : cw (headCmd s st) 8 ≤ 65535) (hr : hbmRangeBad (cw2 (headCmd s st) 6) (64 + 32 * cw (headCmd s st) 8) = false) :
    effEphLoad st late hs s = loadEph hs s.seqNo st (headCmd s st) (startCmd s.seqNo st (headCmd s st) .waiting (popCmd st s)) :=
  dispatch_of_passes hp ho h (fun _ => hj) (hb := decide_eq_false (by omega)) (hr := hr)

theorem effTileMove_runs (ho : cmdOp (headCmd s st) = 0x29) (h : Passes s st 0x29)
    (hr : hbmRangeBad (cw2 (headCmd s st) 6) (64 * cw (headCmd s st) 8) = false) (h1 : 1 ≤ cw (headCmd s st) 8)
    (hmax : cw (headCmd s st) 8 ≤ 4096)
    (hawake : inSelfRefresh s (sectorsOf (cw2 (headCmd s st) 6) (64 * cw (headCmd s st) 8)) = false)
    {r : List (Option (List W32 × W32) × Nat) × State}
    (e : r = readList hs (cw2 (headCmd s st) 6) (cw (headCmd s st) 8) (startCmd s.seqNo st (headCmd s st) .waiting (popCmd st s))) :
    effTileMove st late hs s = setWork s.seqNo (.tileMove (fld (headCmd s st) 128 2) r.1 (cw (headCmd s st) 8) false) r.2 := by
  subst e
  refine (dispatch_of_passes hp ho h (fun _ => hj) (hb := decide_eq_false (by omega)) (hr := hr)).trans ?_
  exact heldStruct_awake hs _ ((inSelfRefresh_congr (stack_startCmd _ _ _ _ _) _).trans hawake)

theorem effStorageXfer_runs (ho : cmdOp (headCmd s st) = 0x2A) (h : Passes s st 0x2A)
    (hctrl : (nvCtrl s (fld (headCmd s st) 130 2)).present = true)
    (hr : hbmRangeBad (cw2 (headCmd s st) 6) (4096 * cw (headCmd s st) 10) = false)
    (hns : nsHolds s (fld (headCmd s st) 130 2) (cw (headCmd s st) 5) (cw2 (headCmd s st) 8) (cw (headCmd s st) 10) = true) :
    effStorageXfer st late hs s
      = beginXfer hs s.seqNo (headCmd s st) (startCmd s.seqNo st (headCmd s st) .waiting (popCmd st s)) :=
  dispatch_of_passes hp ho h (fun _ => hj) (ha := by simp [hctrl]) (hr := by simp [hr, hns])

/-! #### Commands that an epoch fence holds (R438) -/

variable (hfence : fenced s = false)
include hfence

omit hp hj in
/-- No fence is up as the command starts. -/
theorem not_fenced_startCmd (no : Nat) (w : W512) (wk : Work) : ¬ fenced (startCmd no st w wk (popCmd st s)) = true := by
  rw [fenced_startCmd, hfence]
  exact Bool.false_ne_true

theorem effRouteLoad_runs (ho : cmdOp (headCmd s st) = 0x31) (h : Passes s st 0x31)
    (hr : hbmRangeBad (cw2 (headCmd s st) 6) 4096 = false) : effRouteLoad st late hs s
    = loadRoute hs s.seqNo st (headCmd s st) (startCmd s.seqNo st (headCmd s st) .waiting (popCmd st s)) :=
  (dispatch_of_passes hp ho h (fun _ => hj) (hr := hr)).trans (if_neg (not_fenced_startCmd hfence _ _ _))

theorem effFlowLoad_runs (ho : cmdOp (headCmd s st) = 0x32) (h : Passes s st 0x32)
    (hmax : cw (headCmd s st) 4 + cw (headCmd s st) 5 ≤ 40960)
    (hr : hbmRangeBad (cw2 (headCmd s st) 6) (192 * cw (headCmd s st) 5) = false) : effFlowLoad st late hs s
    = loadFlow hs s.seqNo st (headCmd s st) (startCmd s.seqNo st (headCmd s st) .waiting (popCmd st s)) :=
  (dispatch_of_passes hp ho h (fun _ => hj) (hb := decide_eq_false (Nat.not_lt.2 hmax)) (hr := hr)).trans
    (if_neg (not_fenced_startCmd hfence _ _ _))

theorem effEpochSet_runs (ho : cmdOp (headCmd s st) = 0x33) (h : Passes s st 0x33)
    (hord : epochOrder (headCmd s st) s = none) : effEpochSet st late s
    = takeFence (fenceOf s.seqNo (fld (headCmd s st) 128 8)) (startCmd s.seqNo st (headCmd s st) .waiting (popCmd st s)) :=
  (dispatch_of_passes hp ho h (fun _ => hj) (hw := hord)).trans (if_neg (not_fenced_startCmd hfence _ _ _))

theorem effReblock_runs (ho : cmdOp (headCmd s st) = 0x34) (h : Passes s st 0x34)
    (hord : epochOrder (headCmd s st) s = none) (hplan : planRangeBad (headCmd s st) (hitHbm hs s) = false) :
    effReblock st late hs s
      = beginReblock hs s.seqNo st (headCmd s st) (startCmd s.seqNo st (headCmd s st) .waiting (popCmd st s)) :=
  (dispatch_of_passes hp ho h (fun _ => hj) (hw := hord) (hr := hplan)).trans (if_neg (not_fenced_startCmd hfence _ _ _))

end

/-- Settles O39: each clause is the lemma about its command. -/
theorem longCommandsAreIncompleteFromDispatch : Obligations.LongCommandsAreIncompleteFromDispatch := by
  unfold Obligations.LongCommandsAreIncompleteFromDispatch
  refine fun s st late hs hp => ⟨fun ho h => answers_of_eq (effFence_runs hp ho h),
    fun ho h ha hhost hhbm => answers_of_eq (effHostCopy_runs hp ho h ha hhost hhbm), fun hj => ?_⟩
  exact ⟨fun ho h hidle hcoll => ⟨_, answers_of_eq (effJobClose_runs hp hj ho h hidle hcoll rfl), rfl⟩,
    fun ho h hidle hr => answers_of_eq (effSetRecipe_runs hp hj ho h hidle hr),
    fun ho h h1 h64 ha hg hwait hr => answers_of_eq (effLoadProgram_runs hp hj ho h h1 h64 ha hg hwait hr),
    fun ho h hg hidle => answers_of_eq (effGroupStart_runs hp hj ho h hg hidle),
    fun ho h hg hrun => answers_of_eq (effGroupStop_runs hp hj ho h hg hrun),
    fun ho h h1 hmax hr => answers_of_eq (effEphLoad_runs hp hj ho h h1 hmax hr),
    fun ho h hr h1 hmax hawake => ⟨_, rfl, answers_of_eq (effTileMove_runs hp hj ho h hr h1 hmax hawake rfl)⟩,
    fun ho h hctrl hr hns => answers_of_eq (effStorageXfer_runs hp hj ho h hctrl hr hns),
    fun ho h hr hfence => answers_of_eq (effRouteLoad_runs hp hj hfence ho h hr),
    fun ho h hmax hr hfence => answers_of_eq (effFlowLoad_runs hp hj hfence ho h hmax hr),
    fun ho h hord hfence => answers_of_eq (effEpochSet_runs hp hj hfence ho h hord),
    fun ho h hord hplan hfence => answers_of_eq (effReblock_runs hp hj hfence ho h hord hplan)⟩

end Sys2Proof.Machine
end

section
/-! What a command that completes leaves (R72, R75), the member that GROUP_START starts (R84), and the ends of the incomplete
commands: O38, O40 and O41. -/

namespace Sys2Proof.Machine

/-! ### No data changes as a command starts and completes -/

/-- HBM, the cores, the plates and scalar registers of the clusters and the decode queues are as before. -/
structure KeepsData (s t : State) : Prop where
  hbm : t.hbm = s.hbm
  core : t.core = s.core
  cl : ∀ j, (clOf t j).plates = (clOf s j).plates ∧ (clOf t j).sreg = (clOf s j).sreg
  queue : ∀ j, (strmOf t j).queue = (strmOf s j).queue

theorem KeepsData.refl (s : State) : KeepsData s s := ⟨rfl, rfl, fun _ => ⟨rfl, rfl⟩, fun _ => rfl⟩

theorem KeepsData.trans {a b c : State} (h : KeepsData a b) (g : KeepsData b c) : KeepsData a c :=
  ⟨g.hbm.trans h.hbm, g.core.trans h.core, fun j => ⟨(g.cl j).1.trans (h.cl j).1, (g.cl j).2.trans (h.cl j).2⟩,
    fun j => (g.queue j).trans (h.queue j)⟩

/-- Nor does the list of incomplete commands hold data. -/
theorem KeepsData.setCmds {s t : State} (h : KeepsData s t) (l : List CmdRec) : KeepsData s { t with cmds := l } :=
  ⟨h.hbm, h.core, h.cl, h.queue⟩

theorem keepsData_setTokW (id : Nat) (t : TokEntry) (wait : Option W32) (s : State) : KeepsData s (setTokW id t wait s) :=
  have h := tokFrame_setTokW id t wait s
  ⟨h.hbm, h.core, h.cl, h.q⟩

theorem keepsData_startCmd (no st : Nat) (w : W512) (wk : Work) (s : State) : KeepsData s (startCmd no st w wk s) :=
  (ite_of (keepsData_setTokW _ _ _ s) (.refl s) : KeepsData s (if isHubTok (cmdDone w) then _ else s)).setCmds _

theorem keepsData_postDone (w : W512) (t : Tok) (s : State) : KeepsData s (postDone w t s) :=
  ite_of (keepsData_setTokW _ _ _ s) (.refl s)

theorem keepsData_completionRec (st : Nat) (w : W512) (outcome : Nat) (s : State) : KeepsData s (completionRec st w outcome s) :=
  ite_of ⟨rfl, rfl, fun _ => ⟨rfl, rfl⟩, fun _ => rfl⟩ (.refl s)

/-- A command that is incomplete completes. -/
theorem completeCmd_of_find {s : State} {no : Nat} {c : CmdRec} (t : Tok) (h : findCmd s no = some c) : completeCmd no t s
    = completionRec c.strm c.word (tokCode t)
      (postDone c.word t { s with cmds := s.cmds.filter (fun c => decide (c.no ≠ no)) }) := by
  simp only [completeCmd, h]

theorem keepsData_completeCmd (no : Nat) (t : Tok) (s : State) : KeepsData s (completeCmd no t s) := by
  cases h : findCmd s no with
  | none => simpa only [completeCmd, h] using KeepsData.refl s
  | some c =>
    rw [completeCmd_of_find t h]
    exact (((KeepsData.refl s).setCmds _).trans (keepsData_postDone _ _ _)).trans (keepsData_completionRec _ _ _ _)

/-- A command that starts joins the incomplete ones. -/
theorem cmds_startCmd (no st : Nat) (w : W512) (wk : Work) (s : State) :
    (startCmd no st w wk s).cmds = s.cmds ++ [{ no := no, strm := st, word := w, work := wk }] := by
  unfold startCmd
  split
  · exact congrArg (· ++ _) (tokFrame_setTokW _ _ _ s).cmds
  · rfl

/-- It is found by its number, which no other command has. -/
theorem findCmd_startCmd {no st : Nat} {w : W512} {wk : Work} {s : State} (h : ∀ c ∈ s.cmds, c.no ≠ no) :
    findCmd (startCmd no st w wk s) no = some { no := no, strm := st, word := w, work := wk } := by
  have hnone : s.cmds.find? (fun c => c.no = no) = none := List.find?_eq_none.2 fun c hc => by simpa using h c hc
  rw [findCmd, cmds_startCmd, List.find?_append, hnone]
  simp

/-- Its completion posts its done token. -/
theorem tokOf_completeCmd {s : State} {no : Nat} {c : CmdRec} (t : Tok) (h : findCmd s no = some c)
    (hd : isHubTok (cmdDone c.word) = true) : tokOf (completeCmd no t s) (cmdDone c.word) = ⟨t, false⟩ := by
  have hrec : ∀ st w o u, tokOf (completionRec st w o u) (cmdDone c.word) = tokOf u (cmdDone c.word) := fun st w o u => by
    unfold completionRec
    split <;> rfl
  rw [completeCmd_of_find t h, hrec, postDone, if_pos hd, tokOf_setTokW _ _ _ _ hd]

/-- A command taken from its queue leaves the queue's tail. -/
theorem queue_popCmd (st : Nat) (s : State) : (strmOf (popCmd st s) st).queue = (strmOf s st).queue.tail :=
  congrArg Stream.queue (strmOf_setStrm_same s st _)

/-- Settles O38: a NOP starts and completes, and neither changes data. -/
theorem aNopPostsItsDoneTokenAndChangesNoData : Obligations.ANopPostsItsDoneTokenAndChangesNoData := by
  unfold Obligations.ANopPostsItsDoneTokenAndChangesNoData
  intro s st late hp ho h hno
  have hfind := findCmd_startCmd (st := st) (w := headCmd s st) (wk := .fence false) (s := popCmd st s)
    fun c hc => Nat.ne_of_lt (hno c hc)
  obtain ⟨hbm, core, cl, queue⟩ := (keepsData_startCmd s.seqNo st (headCmd s st) (.fence false) (popCmd st s)).trans
    (keepsData_completeCmd s.seqNo .done _)
  exact ⟨_, answers_of_eq (effNop_runs hp ho h), (queue st).trans (queue_popCmd st s),
    fun hd => congrArg TokEntry.st (tokOf_completeCmd .done hfind hd), hbm, core, cl⟩

/-! ### A member started (R84) -/

/-- The clusters and the scratchpads are as before. -/
structure KeepsClusters (s t : State) : Prop where
  cl : t.cl = s.cl
  mem : ∀ k, (coreOf t k).mem = (coreOf s k).mem

theorem KeepsClusters.clOf {s t : State} (h : KeepsClusters s t) (j : Nat) : clOf t j = clOf s j := by
  rw [Machine.clOf, Machine.clOf, h.cl]

theorem KeepsClusters.setCore {s t : State} (h : KeepsClusters s t) {k : Nat} {x : Core} (hx : x.mem = (coreOf t k).mem) :
    KeepsClusters s (setCore t k x) := by
  refine ⟨h.cl, fun j => ?_⟩
  rw [coreOf_setCore]
  split
  · next e => rw [hx, ← e, h.mem]
  · exact h.mem j

/-- The scalar registers of a member: its cluster, its rank, the group's size and the arguments. -/
def memberRegs (w : W512) (size rank cl : Nat) : Tab W64 :=
  [(1, BitVec.ofNat 64 cl), (2, BitVec.ofNat 64 rank), (3, BitVec.ofNat 64 size)]
    ++ (List.range 4).map (fun i => (4 + i, BitVec.ofNat 64 (cw2 w (6 + 2 * i))))

theorem memberRegs_argument (w : W512) (size rank cl : Nat) {i : Nat} (h : i < 4) :
    (memberRegs w size rank cl).get 0 (4 + i) = BitVec.ofNat 64 (cw2 w (6 + 2 * i)) := by
  match i, h with
  | 0, _ | 1, _ | 2, _ | 3, _ => rfl

theorem memberRegs_rest (w : W512) (size rank cl : Nat) {r : Nat} (h : 8 ≤ r) : (memberRegs w size rank cl).get 0 r = 0 := by
  have hr : r ≠ 1 ∧ r ≠ 2 ∧ r ≠ 3 ∧ r ≠ 4 ∧ r ≠ 5 ∧ r ≠ 6 ∧ r ≠ 7 := by omega
  simp [memberRegs, Tab.get, List.range_succ, hr]

/-- Settles O40: the member's cluster is set, and then only patterns and chains of its cores are cleared. -/
theorem aMemberStartsWithItsRankAndArguments : Obligations.AMemberStartsWithItsRankAndArguments := by
  unfold Obligations.AMemberStartsWithItsRankAndArguments
  intro s no st size rank cl w
  unfold startMember
  dsimp -zeta only
  extract_lets c regs pc s'
  have hkeep : KeepsClusters s' ((List.range 9).foldl
      (fun s n => setCore s (9 * cl + n) { coreOf s (9 * cl + n) with pat := [], creg := [], chain := [] }) s') :=
    foldl_keeps (fun _ _ h => h.setCore rfl) _ _ ⟨rfl, fun _ => rfl⟩
  refine ⟨_, (hkeep.clOf cl).trans (clOf_setCl_same s cl _), rfl, rfl, rfl, rfl, rfl, rfl, rfl, rfl, fun i hi => ?_,
    fun r hr => ?_, rfl, ⟨_, rfl, rfl, rfl, rfl, rfl⟩, rfl, rfl, rfl, fun j hj => ?_, fun k => hkeep.mem k⟩
  · exact (if_neg (by omega)).trans (memberRegs_argument w size rank cl hi)
  · exact (if_neg (by omega)).trans (memberRegs_rest w size rank cl hr)
  · exact (hkeep.clOf j).trans ((clOf_setCl s cl j _).trans (if_neg hj))

/-! ### The ends of incomplete commands -/

section
variable {s : State} {no : Nat} {c : CmdRec} (hc : findCmd s no = some c)
include hc

theorem effFenceComplete_eq {pkg : Bool} (hw : c.work = .fence pkg) :
    effFenceComplete no s = if fenceMet s c pkg then completeCmd no .done s else s := by
  simp only [effFenceComplete, hc, hw]

theorem effJobCloseZeroing_idle (hw : c.work = .jobClose false) (hl : ledgerBusy s = false) :
    effJobCloseZeroing no s = setWork no (.jobClose true) (closeJob (cmdDone c.word) s) := by
  simp only [effJobCloseZeroing, hc, hw, hl, if_neg Bool.false_ne_true]

theorem effJobCloseDone_eq (hw : c.work = .jobClose true) : effJobCloseDone no s = completeCmd no .done (zeroMemories s) := by
  simp only [effJobCloseDone, hc, hw]

theorem effLoadProgramPageWrite_arrived {cl page src next : Nat} {left : List (Nat × Nat × Nat)} {arrived : Tab (List Byte)}
    {bad : Bool} {bs : List Byte} (hw : c.work = .load left next arrived bad)
    (hl : left.find? (fun l => l.1 = cl ∧ l.2.1 = page) = some (cl, page, src)) (hu : pageInUse (clOf s cl) page = false)
    (hb : pageBytes arrived src = some bs) : effLoadProgramPageWrite no cl page s
    = loadEnds no (writePage cl page bs (setWork no (.load (left.erase (cl, page, src)) next arrived bad) s)) := by
  simp only [effLoadProgramPageWrite, hc, hw, hl, hu, hb, if_neg Bool.false_ne_true]

variable {hs : List Hit} {issued reads : Nat} (hw : c.work = .hostWrite) (hm : mayRequest s = true)
  (hr : inSelfRefresh s (sectorsOf (cw2 c.word 8) (cw2 c.word 10)) = false)
include hw hm hr

/-- A HOST_COPY whose sectors all read good is written to the host. -/
theorem effHostCopyWritten_good
    (hgood : (readUntracked 5 (sectorsOf (cw2 c.word 8) (cw2 c.word 10)) (hitHbm hs s)).1 = []) :
    effHostCopyWritten no issued reads hs s
      = completeCmd no .done (writeHost (cw2 c.word 8) (cw2 c.word 6) (cw2 c.word 10) (hitHbm hs s)) := by
  simp [effHostCopyWritten, hc, hw, hm, hr, hgood]

/-- One with a failing sector `n` ends ABORTED after the writes issued before it. -/
theorem effHostCopyWritten_fails {n : Nat} {rest : List Nat}
    (hbad : (readUntracked 5 (sectorsOf (cw2 c.word 8) (cw2 c.word 10)) (hitHbm hs s)).1 = n :: rest)
    (hi : issued ≤ (64 * n - cw2 c.word 8) / 512) (hn : 64 * n - cw2 c.word 8 < 64 * reads) (hlen : 64 * reads ≤ cw2 c.word 10) :
    effHostCopyWritten no issued reads hs s = completeCmd no .aborted (readUntracked 5 (sectorsOf (cw2 c.word 8) (64 * reads))
      (writeHost (cw2 c.word 8) (cw2 c.word 6) (512 * issued) (hitHbm hs s))).2 := by
  have hgo : ¬ ((64 * n - cw2 c.word 8) / 512 < issued ∨ 64 * reads ≤ 64 * n - cw2 c.word 8 ∨ cw2 c.word 10 < 64 * reads) := by
    omega
  simp [effHostCopyWritten, hc, hw, hm, hr, hbad, hgo]

end

section
variable {s : State} {tag no off len : Nat} (ht : s.hreq.find tag = some (no, off, len))
include ht

theorem effHostReadCompletion_eq (status : Nat) (data : List Byte) : effHostReadCompletion tag status data s
    = hostPump (if status = 0 then readArrives no off (padTo len data) { s with hreq := s.hreq.del tag }
        else readFails no off { s with hreq := s.hreq.del tag }) := by
  simp only [effHostReadCompletion, ht]

theorem effHostReadTimeout_eq :
    effHostReadTimeout tag s = hostPump (readFails no off { s with hreq := s.hreq.del tag }) := by
  simp only [effHostReadTimeout, ht]

end

/-- Once zeroed, every scratchpad reads zero. -/
theorem zeroMemories_spad (s : State) (k a : Nat) : (coreOf (zeroMemories s) k).mem.read a = 0 := by
  rcases Tab.get_mapV Core.reset (fun k => { k with mem := [], tag := [], code := [] }) s.core k with e | e <;>
    exact (congrArg (fun k : Core => k.mem.read a) e).trans rfl

/-- So do the plates and the instruction memory of every cluster. -/
theorem zeroMemories_cluster (s : State) (k a : Nat) :
    (clOf (zeroMemories s) k).plates.read a = 0 ∧ (clOf (zeroMemories s) k).imem.read a = 0 := by
  rcases Tab.get_mapV Cluster.reset (fun c => { c with plates := [], ptag := [], pcode := [], imem := [] }) s.cl k with e | e <;>
    exact ⟨(congrArg (fun c : Cluster => c.plates.read a) e).trans rfl, (congrArg (fun c : Cluster => c.imem.read a) e).trans rfl⟩

/-- Settles O41: each clause is the lemma about its event. -/
theorem incompleteCommandsComplete : Obligations.IncompleteCommandsComplete := by
  unfold Obligations.IncompleteCommandsComplete
  refine ⟨fun s no c pkg hc hw => ⟨fun hm => ?_, fun hm => ?_⟩,
    fun s no c hc hw hl => answers_of_eq (effJobCloseZeroing_idle hc hw hl),
    fun s no c hc hw => ⟨answers_of_eq (effJobCloseDone_eq hc hw), zeroMemories_spad s, zeroMemories_cluster s, rfl⟩,
    fun s no cl page src next c left arrived bad bs hc hw hl hu hb =>
      answers_of_eq (effLoadProgramPageWrite_arrived hc hw hl hu hb),
    fun s tag no off len status data ht =>
      ⟨answers_of_eq (effHostReadCompletion_eq ht status data), answers_of_eq (effHostReadTimeout_eq ht)⟩,
    fun s no issued reads c hs hc hw hm hr => ⟨fun hgood => answers_of_eq (effHostCopyWritten_good hc hw hm hr hgood),
      fun n rest hbad hi hn hlen => answers_of_eq (effHostCopyWritten_fails hc hw hm hr hbad hi hn hlen)⟩⟩
  · exact answers_of_eq ((effFenceComplete_eq hc hw).trans (if_pos hm))
  · exact answers_of_eq ((effFenceComplete_eq hc hw).trans (if_neg (by simp [hm])))

end Sys2Proof.Machine
end

section
/-! How the sequencer issues an instruction of its own (R95, R100-R104), and the scalar class (Table 3.5): O6 to O12. -/

namespace Sys2Proof.Machine

/-! ### Checks at issue (R588) -/

section
variable {cl : Nat} {w : W128} {checks : List (Bool × Nat)} {act : State → State} {s : State}

/-- An instruction that fails no check acts. -/
theorem issueWith_pass (h : firstSkip checks = none) : issueWith cl w checks act s = act s := by
  rw [issueWith, h]

/-- One that fails a check is skipped, and execution goes on at the next instruction. -/
theorem issueWith_skip {k : Skip} (h : firstSkip checks = some k) :
    issueWith cl w checks act s = goNext cl (skipIns cl w k s) := by
  rw [issueWith, h]

end

/-- A check that does not fail leaves the word to the next one. -/
@[simp] theorem firstSkip_false (k : Nat) (l : List (Bool × Nat)) : firstSkip ((false, k) :: l) = firstSkip l := rfl

@[simp] theorem firstSkip_true (k : Nat) (l : List (Bool × Nat)) : firstSkip ((true, k) :: l) = some { code := k } := rfl

@[simp] theorem firstSkip_nil : firstSkip [] = none := rfl

/-! ### Where execution goes on (R111, R114) -/

/-- What going on at `r` leaves: the sequencer fetches there with the levels of `r`, and no register, memory, token, record
or other unit changes. -/
structure GoesOn (cl : Nat) (r : Nat × List LoopLvl) (s t : State) : Prop where
  pc : (clOf t cl).pc = r.1
  loops : (clOf t cl).loops = r.2
  seq : (clOf t cl).seq = 1
  sreg : ∀ n, sreg (clOf t cl) n = sreg (clOf s cl) n
  plates : (clOf t cl).plates = (clOf s cl).plates
  ptag : (clOf t cl).ptag = (clOf s cl).ptag
  imem : (clOf t cl).imem = (clOf s cl).imem
  cluTok : (clOf t cl).tok = (clOf s cl).tok
  others : ∀ j, j ≠ cl → clOf t j = clOf s j
  core : t.core = s.core
  hbm : t.hbm = s.hbm
  tok : t.tok = s.tok
  recs : t.recs = s.recs
  out : t.out = s.out

/-- Another cluster than the one that is set reads as before. -/
theorem clOf_setCl_other (s : State) {j cl : Nat} (x : Cluster) (h : j ≠ cl) : clOf (setCl s cl x) j = clOf s j := by
  rw [clOf_setCl, if_neg h]

/-- Another core than the one that is set reads as before. -/
theorem coreOf_setCore_other (s : State) {j core : Nat} (x : Core) (h : j ≠ core) : coreOf (setCore s core x) j = coreOf s j := by
  rw [coreOf_setCore, if_neg h]

theorem goesOn_goOn {cl : Nat} {r : Nat × List LoopLvl} {s : State} (h : r.1 < 0x4000) : GoesOn cl r s (goOn cl r s) := by
  rw [goOn_of_inRange h]
  constructor
  case others => exact fun j hj => clOf_setCl_other s _ hj
  all_goals simp [sreg]

theorem goesOn_goNext {s : State} {cl : Nat} (h : NextInRange s cl) :
    GoesOn cl (endIns (clOf s cl).pc (clOf s cl).loops) s (goNext cl s) :=
  goesOn_goOn h

/-! ### The sequencer's own instructions (R101) -/

section
variable {s : State} {cl : Nat} {w : W128} {cls op : Nat} {act : Nat → W128 → State → State}

/-- A disagreement of the compared pair traps, whatever the instruction would do. -/
theorem seqIns_mismatch (h : At s cl w cls op) :
    seqIns cls op act cl true s = trap cl 3 { pc := (clOf s cl).pc, op := opRec w } s := by
  simp [seqIns, h.atIns, h.word]

/-- An instruction of which only the fields are checked acts when no other bit is set. -/
theorem issueWith_fields {fs : List (Nat × Nat)} {f : State → State} (h : onlyFields w fs = true) :
    issueWith cl w [(!(onlyFields w fs), 0x42)] f s = f s :=
  issueWith_pass (by simp [h])

end

/-! ### The scalar class (Table 3.5) -/

theorem scalarIns_eq {s : State} {cl : Nat} {w : W128} {op : Nat} {fs : List (Nat × Nat)} {val : W64 → W64 → W128 → W64}
    (h : At s cl w 0 op) (hf : onlyFields w fs = true) : scalarIns op fs val cl false s
      = goNext cl (setCl s cl (setReg (clOf s cl) (iRD w) (val (sreg (clOf s cl) (iRA w)) (sreg (clOf s cl) (iRB w)) w))) :=
  (seqIns_of_at h).trans (issueWith_fields hf)

/-- A command whose meaning is the scalar instruction of `val` has the result `val'` when the two agree. -/
theorem scalarResult_of_val {mk : Nat → Bool → Instr} {op : Nat} {fs : List (Nat × Nat)} {val val' : W64 → W64 → W128 → W64}
    (hx : ∀ cl mm s, exec (mk cl mm) s = .next (scalarIns op fs val cl mm s)) (hv : ∀ a b w, val a b w = val' a b w) :
    ScalarResult mk op fs val' := by
  obtain rfl : val = val' := funext fun a => funext fun b => funext fun w => hv a b w
  exact fun s cl w h hf => (hx cl false s).trans (answers_of_eq (scalarIns_eq h hf))

theorem fld_low {n : Nat} (w : BitVec n) (len : Nat) : fld w 0 len = w.toNat % 2 ^ len := by simp [fld]

/-- A shift by the low 6 bits of IMM. -/
theorem fld_eq_iImm_mod (w : W128) : fld w 0 6 = iImm w % 64 := by
  simp only [iImm, fld_low]
  omega

/-- Settles O6: each value is the one of the operation, whose comparisons are those of the numbers that the registers hold. -/
theorem scalarInstructionsWriteTheirResult : Obligations.ScalarInstructionsWriteTheirResult := by
  unfold Obligations.ScalarInstructionsWriteTheirResult
  refine ⟨scalarResult_of_val (fun _ _ _ => rfl) fun _ _ _ => rfl, scalarResult_of_val (fun _ _ _ => rfl) fun _ _ _ => rfl,
    scalarResult_of_val (fun _ _ _ => rfl) fun _ _ _ => rfl, scalarResult_of_val (fun _ _ _ => rfl) fun _ _ _ => rfl,
    scalarResult_of_val (fun _ _ _ => rfl) fun _ _ _ => rfl,
    scalarResult_of_val (fun _ _ _ => rfl) fun a b _ => congrArg (a <<< ·) (fld_low b 6),
    scalarResult_of_val (fun _ _ _ => rfl) fun a b _ => congrArg (a >>> ·) (fld_low b 6),
    scalarResult_of_val (fun _ _ _ => rfl) fun a b _ => congrArg a.sshiftRight (fld_low b 6),
    scalarResult_of_val (fun _ _ _ => rfl) fun _ _ _ => rfl,
    scalarResult_of_val (fun _ _ _ => rfl) fun a b _ => ?min, scalarResult_of_val (fun _ _ _ => rfl) fun a b _ => ?max,
    scalarResult_of_val (fun _ _ _ => rfl) fun a b _ => ?slt, scalarResult_of_val (fun _ _ _ => rfl) fun a b _ => ?sltu,
    scalarResult_of_val (fun _ _ _ => rfl) fun a b _ => ?seq,
    scalarResult_of_val (fun _ _ _ => rfl) fun _ _ _ => rfl, scalarResult_of_val (fun _ _ _ => rfl) fun _ _ _ => rfl,
    scalarResult_of_val (fun _ _ _ => rfl) fun _ _ _ => rfl,
    scalarResult_of_val (fun _ _ _ => rfl) fun a _ w => congrArg (a <<< ·) (fld_eq_iImm_mod w),
    scalarResult_of_val (fun _ _ _ => rfl) fun a _ w => congrArg (a >>> ·) (fld_eq_iImm_mod w)⟩
  case min | max | slt => simp [cmpVal, BitVec.slt]
  case sltu => simp [cmpVal, BitVec.ult]
  case seq => simp [cmpVal]

/-- Each command of Table 3.5 that writes its result means a scalar instruction of its opcode and fields. -/
theorem exec_scalarOp {p : (Nat → Bool → Instr) × Nat × List (Nat × Nat)} (h : p ∈ scalarOps) :
    ∃ val, ∀ cl mm s, exec (p.1 cl mm) s = .next (scalarIns p.2.1 p.2.2 val cl mm s) := by
  revert p
  simp only [scalarOps, List.forall_mem_cons]
  iterate 19 refine ⟨⟨_, fun _ _ _ => rfl⟩, ?_⟩
  exact fun _ h => absurd h List.not_mem_nil

/-- Settles O7: the register is written, and going on keeps what the cluster and the other units then hold. -/
theorem scalarInstructionsChangeNothingElse : Obligations.ScalarInstructionsChangeNothingElse := by
  unfold Obligations.ScalarInstructionsChangeNothingElse
  intro p hp s cl w h hf hr
  obtain ⟨val, hx⟩ := exec_scalarOp hp
  have hr' : NextInRange (setCl s cl (setReg (clOf s cl) (iRD w) (val (sreg (clOf s cl) (iRA w)) (sreg (clOf s cl) (iRB w)) w))) cl := by
    simpa [NextInRange, pc_setReg, loops_setReg] using hr
  have g := goesOn_goNext hr'
  refine ⟨_, (hx cl false s).trans (answers_of_eq (scalarIns_eq h hf)), rfl, fun r hr => ?_, ?_, fun a => ?_, fun a => ?_, ?_,
    fun j hj => ?_, g.core, g.hbm, g.tok, g.recs, g.out⟩
  · rw [g.sreg, clOf_setCl_same, sreg_setReg, if_neg (Ne.symm hr)]
    split
    · next h0 => rw [h0]; rfl
    · rfl
  · rw [g.pc, clOf_setCl_same, pc_setReg, loops_setReg]
  · rw [g.plates, clOf_setCl_same, plates_setReg]
  · rw [g.imem, clOf_setCl_same, imem_setReg]
  · rw [g.cluTok, clOf_setCl_same, tok_setReg]
  · rw [g.others j hj, clOf_setCl_other s _ hj]

/-- Settles O8: what `sreg_setReg` says of a register written. -/
theorem registerZeroReadsZero : Obligations.RegisterZeroReadsZero := by
  unfold Obligations.RegisterZeroReadsZero
  refine fun c n v => ⟨rfl, rfl, fun hn => ?_, fun m hm => ?_⟩
  · rw [sreg_setReg, if_neg hn, if_pos rfl]
  · rw [sreg_setReg, if_neg (Ne.symm hm)]
    split
    · next h0 => rw [h0]; rfl
    · rfl

theorem branchIns_isSeq (op : Nat) (cond : W64 → W64 → Bool) (cl : Nat) (mm : Bool) (s : State) :
    ∃ act, branchIns op cond cl mm s = seqIns 1 op act cl mm s :=
  ⟨_, rfl⟩

/-- Each command of the sequencer's own instructions means one of its class and opcode. -/
theorem exec_seqOp {p : (Nat → Bool → Instr) × Nat × Nat} (h : p ∈ seqOps) :
    ∀ cl mm s, ∃ act, exec (p.1 cl mm) s = .next (seqIns p.2.1 p.2.2 act cl mm s) := by
  revert p
  simp only [seqOps, List.forall_mem_append, List.forall_mem_map, List.forall_mem_cons]
  refine ⟨fun q hq => ?_, ?_⟩
  · obtain ⟨val, hx⟩ := exec_scalarOp hq
    exact fun cl mm s => ⟨_, hx cl mm s⟩
  · iterate 7 refine ⟨fun _ _ _ => ⟨_, rfl⟩, ?_⟩
    iterate 6 refine ⟨fun cl mm s => (branchIns_isSeq _ _ cl mm s).imp fun _ => answers_of_eq, ?_⟩
    iterate 4 refine ⟨fun _ _ _ => ⟨_, rfl⟩, ?_⟩
    exact fun _ h => absurd h List.not_mem_nil

/-- Settles O9: each command means an instruction of the sequencer, and `seqIns_mismatch` says what a disagreement does. -/
theorem scalarMismatchTraps : Obligations.ScalarMismatchTraps := by
  unfold Obligations.ScalarMismatchTraps
  intro p hp s cl w h
  obtain ⟨act, hx⟩ := exec_seqOp hp cl true s
  exact hx.trans (answers_of_eq (seqIns_mismatch h))

/-! ### SRD (R104) -/

section
variable {s : State} {cl : Nat} {w : W128} (hf : onlyFields w (sFields true false false 8) = true)
include hf

/-- A special register that the model holds. -/
theorem srdAct_special {epoch : Nat} (h1 : 1 ≤ fld w 0 8) (h2 : fld w 0 8 ≤ 0x0C) : srdAct epoch cl w s
    = goNext cl (setCl s cl (setReg (clOf s cl) (iRD w) (specialReg s cl epoch (fld w 0 8)))) := by
  have hn : ¬ 0x0C < fld w 0 8 := Nat.not_lt.2 h2
  rw [srdAct, issueWith_pass (by simp [hf, hn]), if_neg (by omega)]

/-- CYCLE. -/
theorem srdAct_cycle {epoch : Nat} (h : fld w 0 8 = 0) : srdAct epoch cl w s
    = goNext cl (setCl { s with free := s.free + 1 } cl (setReg (clOf s cl) (iRD w) (Config.freeWord s.free))) := by
  rw [srdAct, issueWith_pass (by simp [hf, h]), if_pos h]
  rfl

/-- A number that names no special register. -/
theorem srdAct_unknown {epoch : Nat} (h : 0x0C < fld w 0 8) :
    srdAct epoch cl w s = goNext cl (skipIns cl w { code := 0x42 } s) := by
  rw [srdAct, issueWith_skip (by simp [hf, h]; rfl)]

end

/-- Settles O10: the three ranges of the number. -/
theorem srdReadsASpecialRegister : Obligations.SrdReadsASpecialRegister := by
  unfold Obligations.SrdReadsASpecialRegister
  intro s cl w h hf
  exact ⟨fun h1 h2 => answers_of_eq ((seqIns_of_at h).trans (srdAct_special hf h1 h2)),
    fun h0 => answers_of_eq ((seqIns_of_at h).trans (srdAct_cycle hf h0)),
    fun hn => answers_of_eq ((seqIns_of_at h).trans (srdAct_unknown hf hn))⟩

/-! ### SLD and SST (R109) -/

section
variable {s : State} {cl : Nat} {w : W128} {fs : List (Nat × Nat)} {act : State → State} (hf : onlyFields w fs = true)
include hf

/-- At an aligned address in the plates, with nothing of the tile class to wait for, SLD and SST act. -/
theorem plateIns_acts (ha : plateAddr (clOf s cl) w % 8 = 0) (hlt : plateAddr (clOf s cl) w < 0x1800000)
    (ht : tileWaits (clOf s cl) = false) : plateIns w fs cl act s = act s := by
  have hin : ¬ (plateAddr (clOf s cl) w % 8 ≠ 0 ∨ 0x1800000 ≤ plateAddr (clOf s cl) w) := by omega
  rw [plateIns, issueWith_pass (by rw [hf, decide_eq_false hin]; rfl), ht, if_neg Bool.false_ne_true]

/-- At any other address they are skipped. -/
theorem plateIns_outOfRange (h : plateAddr (clOf s cl) w % 8 ≠ 0 ∨ 0x1800000 ≤ plateAddr (clOf s cl) w) :
    plateIns w fs cl act s = goNext cl (skipIns cl w { code := 0x47 } s) := by
  rw [plateIns, issueWith_skip (by rw [hf, decide_eq_true h]; rfl)]

end

/-- Bytes written one by one to consecutive addresses. -/
theorem Mem.foldl_write_range (m : Mem) (a : Nat) (bs : List Byte) :
    (List.range bs.length).foldl (fun m i => m.write (a + i) (bs.getD i 0)) m = m.writes a bs := by
  induction bs generalizing m a with
  | nil => rfl
  | cons b bs ih =>
    simp only [List.length_cons, List.range_succ_eq_map, List.foldl_cons, List.foldl_map, Mem.writes, ← ih]
    simp [Nat.add_assoc, Nat.add_comm 1]

/-- The cluster in which SST has stored the word `v` at `a`. -/
def storeWord (c : Cluster) (a : Nat) (v : W64) : Cluster :=
  plateWrite c (a / 64) 0 ((List.range 8).map (fun i => (a % 64 + i, (leBytes 8 v.toNat).getD i 0)))

theorem storeWord_plates (c : Cluster) (a : Nat) (v : W64) : (storeWord c a v).plates = c.plates.writes a (leBytes 8 v.toNat) := by
  rw [← Mem.foldl_write_range, leBytes_length]
  simp only [storeWord, plateWrite, List.foldl_map, ← Nat.add_assoc, Nat.div_add_mod]

section
variable {c : Cluster} (h : c.plates.wf = true) (a : Nat) (v : W64)
include h

theorem storeWord_read_word {i : Nat} (hi : i < 8) :
    (storeWord c a v).plates.read (a + i) = BitVec.ofNat 8 (v.toNat / 256 ^ i) := by
  rw [storeWord_plates, Mem.read_writes h, leBytes_length, if_pos (by omega), Nat.add_sub_cancel_left, leBytes_getD _ _ _ hi]

theorem storeWord_read_other {x : Nat} (hx : x < a ∨ a + 8 ≤ x) : (storeWord c a v).plates.read x = c.plates.read x := by
  rw [storeWord_plates, Mem.read_writes h, leBytes_length, if_neg (by omega)]

end

theorem storeWord_tag (c : Cluster) (a : Nat) (v : W64) : plateTag (storeWord c a v) (a / 64) = 0 := Tab.get_put_same _ _ _ _

/-- Settles O11: SLD is `plateIns_acts` with a good line; SST stores a word, which the lemmas about `storeWord` read. -/
theorem sldAndSstAccessThePlates : Obligations.SldAndSstAccessThePlates := by
  unfold Obligations.SldAndSstAccessThePlates
  refine fun s cl w ha hlt ht => ⟨fun h hf hgood => answers_of_eq ?_, fun h hf hr hwf => ?_⟩
  · exact (seqIns_of_at h).trans ((plateIns_acts hf ha hlt ht).trans (if_neg (by simp [hgood])))
  · have hsst : effSst cl false s
        = goNext cl (setCl s cl (storeWord (clOf s cl) (plateAddr (clOf s cl) w) (sreg (clOf s cl) (iRB w)))) := by
      rw [effSst, seqIns_of_at h, plateIns_acts hf ha hlt ht]
      rfl
    have hr' : NextInRange (setCl s cl (storeWord (clOf s cl) (plateAddr (clOf s cl) w) (sreg (clOf s cl) (iRB w)))) cl := by
      rw [NextInRange, clOf_setCl_same]
      exact hr
    have g := goesOn_goNext hr'
    refine ⟨_, answers_of_eq hsst, fun i hi => ?_, fun a hx => ?_, ?_, fun n => ?_, g.hbm, g.core⟩
    · rw [g.plates, clOf_setCl_same, storeWord_read_word hwf _ _ hi]
    · rw [g.plates, clOf_setCl_same, storeWord_read_other hwf _ _ hx]
    · rw [plateTag, g.ptag, clOf_setCl_same]
      exact storeWord_tag _ _ _
    · rw [g.sreg, clOf_setCl_same]
      rfl

/-- Settles O12: the address check of `plateIns`. -/
theorem plateWordsOutOfRangeAreSkipped : Obligations.PlateWordsOutOfRangeAreSkipped := by
  unfold Obligations.PlateWordsOutOfRangeAreSkipped
  exact fun s cl w ha => ⟨fun h hf => answers_of_eq ((seqIns_of_at h).trans (plateIns_outOfRange hf ha)),
    fun h hf => answers_of_eq ((seqIns_of_at h).trans (plateIns_outOfRange hf ha))⟩

end Sys2Proof.Machine
end

section
/-! Transfers of control, loops and the end of a program (R100, R110 to R116, R140), and unknown instructions (R95):
O13 to O19. -/

namespace Sys2Proof.Machine

/-! ### Jumps and branches (Table 3.6) -/

section
variable {s : State} {cl : Nat} {w : W128}

theorem effFlowNop_eq (h : At s cl w 1 0x00) (hf : onlyFields w (sFields false false false 0) = true) :
    effFlowNop cl false s = goNext cl s :=
  (seqIns_of_at h).trans (issueWith_fields hf)

theorem effJ_eq (h : At s cl w 1 0x01) (hf : onlyFields w (sFields false false false 14) = true) :
    effJ cl false s = goOn cl (jumpTo (iTarget w) (clOf s cl).loops) s :=
  (seqIns_of_at h).trans (issueWith_fields hf)

theorem effJal_eq (h : At s cl w 1 0x02) (hf : onlyFields w (sFields true false false 14) = true) :
    effJal cl false s = goOn cl (jumpTo (iTarget w) (clOf s cl).loops)
      (setCl s cl (setReg (clOf s cl) (iRD w) (BitVec.ofNat 64 ((clOf s cl).pc + 1)))) :=
  (seqIns_of_at h).trans (issueWith_fields hf)

theorem effJr_eq (h : At s cl w 1 0x03) (hf : onlyFields w (sFields false true false 0) = true)
    (ht : (sreg (clOf s cl) (iRA w)).toNat < 0x4000) :
    effJr cl false s = goOn cl (jumpTo (sreg (clOf s cl) (iRA w)).toNat (clOf s cl).loops) s :=
  (seqIns_of_at h).trans (issueWith_pass (by rw [hf, decide_eq_false (Nat.not_le.2 ht)]; rfl))

theorem branchIns_eq {op : Nat} {cond : W64 → W64 → Bool} (h : At s cl w 1 op)
    (hf : onlyFields w (sFields false true true 14) = true) : branchIns op cond cl false s
      = if cond (sreg (clOf s cl) (iRA w)) (sreg (clOf s cl) (iRB w)) then goOn cl (jumpTo (iTarget w) (clOf s cl).loops) s
        else goNext cl s :=
  (seqIns_of_at h).trans (issueWith_fields hf)

end

/-- A command whose meaning is the branch on `cond` branches on `cond'` when the two agree. -/
theorem branchResult_of_cond {mk : Nat → Bool → Instr} {op : Nat} {cond cond' : W64 → W64 → Bool}
    (hx : ∀ cl mm s, exec (mk cl mm) s = .next (branchIns op cond cl mm s)) (hc : ∀ a b, cond a b = cond' a b) :
    BranchResult mk op cond' := by
  obtain rfl : cond = cond' := funext fun a => funext fun b => hc a b
  exact fun s cl w h hf => (hx cl false s).trans (answers_of_eq (branchIns_eq h hf))

/-- Settles O13: each instruction is its own equation, and each branch compares as Table 3.6 says. -/
theorem jumpsAndBranchesTransferControl : Obligations.JumpsAndBranchesTransferControl := by
  unfold Obligations.JumpsAndBranchesTransferControl
  refine ⟨fun s cl w => ⟨fun h hf => answers_of_eq (effFlowNop_eq h hf), fun h hf => answers_of_eq (effJ_eq h hf),
      fun h hf => answers_of_eq (effJal_eq h hf), fun h hf ht => answers_of_eq (effJr_eq h hf ht)⟩,
    branchResult_of_cond (fun _ _ _ => rfl) fun a b => ?beq, branchResult_of_cond (fun _ _ _ => rfl) fun a b => ?bne,
    branchResult_of_cond (fun _ _ _ => rfl) fun a b => rfl, branchResult_of_cond (fun _ _ _ => rfl) fun a b => ?bge,
    branchResult_of_cond (fun _ _ _ => rfl) fun a b => rfl, branchResult_of_cond (fun _ _ _ => rfl) fun a b => ?bgeu⟩
  case beq => rfl
  case bne => exact decide_not.symm
  case bge => simp only [BitVec.slt, ← decide_not, Int.not_lt]
  case bgeu => simp only [BitVec.ult, ← decide_not, Nat.not_lt]

/-- Settles O14: the levels that a jump leaves are those of `levelsWith`. -/
theorem aTransferKeepsTheLevelsAroundItsTarget : Obligations.ATransferKeepsTheLevelsAroundItsTarget := by
  unfold Obligations.ATransferKeepsTheLevelsAroundItsTarget
  intro s cl t ht
  have g : GoesOn cl (jumpTo t (clOf s cl).loops) s (goOn cl (jumpTo t (clOf s cl).loops) s) := goesOn_goOn ht
  refine ⟨g.pc, fun x => ?_⟩
  rw [g.loops]
  simp [jumpTo, levelsWith]

/-- Settles O18: a NOP goes on, in range by `goesOn_goNext` and beyond page 63 by the trap of `goOn`. -/
theorem fetchBeyondPage63Traps : Obligations.FetchBeyondPage63Traps := by
  unfold Obligations.FetchBeyondPage63Traps
  intro s cl w h hf
  have hnop := answers_of_eq (effFlowNop_eq h hf)
  refine ⟨fun hr => ⟨_, hnop, (goesOn_goNext hr).pc, (goesOn_goNext hr).seq⟩, fun hr => ⟨setCl s cl { clOf s cl with
    pc := 0x3FFF, loops := (endIns (clOf s cl).pc (clOf s cl).loops).2, heldOn := [], seen := [] }, ?_, ?_, ?_⟩⟩
  · exact hnop.trans (answers_of_eq (if_neg hr))
  · rw [clOf_setCl_same]
  · rw [clOf_setCl_same]

/-! ### Loops (R114, R116) -/

/-- LOOP or LOOPI that no rule of R114 skips. -/
theorem loopIns_enters {s : State} {cl : Nat} {w : W128} {rsv : Bool} {n e : Nat} (hr : rsv = false)
    (he : (clOf s cl).pc < e) (hl : (clOf s cl).loops.length < 4) (hx : ∀ x ∈ (clOf s cl).loops.head?, e ≤ x.stop) :
    loopIns cl w rsv n e s = if n = 0 then goOn cl (resumeAt e (clOf s cl).loops) s
      else goOn cl ((clOf s cl).pc + 1, ⟨(clOf s cl).pc + 1, e, n, 0⟩ :: (clOf s cl).loops) s := by
  have hpc : ¬ (decide (e ≤ (clOf s cl).pc) || rsv) = true := by simp [he, hr]
  rw [loopIns, if_neg hpc, if_neg (Nat.ne_of_lt hl)]
  cases hc : (clOf s cl).loops with
  | nil => rfl
  | cons x rest =>
    have hin : decide (x.stop < e) = false := decide_eq_false (Nat.not_lt.2 (hx x (by simp [hc])))
    simp only [hin, Bool.false_eq_true, if_false]

/-- Settles O17: LOOP and LOOPI are `loopIns_enters` with their count, and LEXIT resumes after the level it removes. -/
theorem loopsEnterAndLeaveTheirLevels : Obligations.LoopsEnterAndLeaveTheirLevels := by
  unfold Obligations.LoopsEnterAndLeaveTheirLevels
  refine ⟨fun s cl w n he hl hx => ⟨?loop, ?loopi⟩, fun s cl w x rest h hc hf => answers_of_eq ?lexit⟩
  case loop =>
    rintro ⟨h, hf, rfl, hn⟩
    refine answers_of_eq ((seqIns_of_at h).trans (loopIns_enters ?_ he hl hx))
    rw [hf, decide_eq_false (Nat.not_le.2 hn)]
    rfl
  case loopi =>
    rintro ⟨h, hf, rfl⟩
    refine answers_of_eq ((seqIns_of_at h).trans (loopIns_enters ?_ he hl hx))
    rw [hf]
    rfl
  case lexit =>
    refine (seqIns_of_at h).trans ?_
    simp only [hc, hf, if_true]

/-! ### The end of a program (R100, R112, R140) -/

theorem haltNow_of_prog {s : State} {cl : Nat} {p : Prog} (hp : (clOf s cl).prog = some p) :
    haltNow cl s = setCl s cl { clOf s cl with seq := 3, prog := some { p with ending := 1 } } := by
  simp only [haltNow, hp]

/-- Settles O15: HALT halts, after it is skipped where a reserved bit is set. -/
theorem haltStopsIssue : Obligations.HaltStopsIssue := by
  unfold Obligations.HaltStopsIssue
  refine fun s cl w p h hp => ⟨fun hf => answers_of_eq ((seqIns_of_at h).trans ?_),
    fun hf => answers_of_eq ((seqIns_of_at h).trans ?_)⟩
  · rw [if_pos hf, haltNow_of_prog hp]
  · rw [hf, if_neg Bool.false_ne_true]

/-- PROOF_BOUNDARY of a program that has stopped issuing. -/
theorem effProofBoundary_ending {s : State} {cl : Nat} {p : Prog} (hcl : cl < 32) (hp : (clOf s cl).prog = some p)
    (he : p.ending ≠ 0) : effProofBoundary cl s = if atBoundary s cl = true then endProgram cl s else s := by
  simp [effProofBoundary, hp, hcl, he]

/-- Settles O16: what follows the boundary acts on the state that `effProofBoundary_ending` gives. -/
theorem proofBoundaryEndsTheProgram : Obligations.ProofBoundaryEndsTheProgram := by
  unfold Obligations.ProofBoundaryEndsTheProgram
  exact fun s cl p hcl hp he =>
    answers_of_eq (congrArg (fun t => fabEnd (stopSettled t)) (effProofBoundary_ending hcl hp he))

/-! ### Unknown instructions (R95, R588) -/

theorem knownIns_of_class {cls op : Nat} (h : 8 ≤ cls) : knownIns cls op = false := by
  unfold knownIns
  split <;> first | omega | rfl

theorem effUnknownInstruction_eq {s : State} {cl : Nat} {w : W128} (hcl : cl < 32) (hr : running s cl = true)
    (hw : curWord (clOf s cl) = w) (hu : knownIns (iClass w) (iOp w) = false) : effUnknownInstruction cl s
      = issueWith cl w [(decide (8 ≤ iClass w), 0x40), (decide (3 ≤ iClass w) && tokBusy s cl w, 0x46), (true, 0x41)] id s := by
  simp [effUnknownInstruction, hcl, hr, hw, hu]

/-- Settles O19: the class is checked first, then the token of a class that has one. -/
theorem unknownInstructionsAreSkipped : Obligations.UnknownInstructionsAreSkipped := by
  unfold Obligations.UnknownInstructionsAreSkipped
  refine fun s cl w hcl hr hw => ⟨fun hc => answers_of_eq ?_, fun hc hu => answers_of_eq ?_⟩
  · rw [effUnknownInstruction_eq hcl hr hw (knownIns_of_class hc), decide_eq_true hc]
    exact issueWith_skip (firstSkip_true _ _)
  · rw [effUnknownInstruction_eq hcl hr hw hu, decide_eq_false (Nat.not_le.2 hc)]
    by_cases hb : 3 ≤ iClass w ∧ tokBusy s cl w = true
    · exact issueWith_skip (by simp [hb])
    · refine issueWith_skip ?_
      have hb' : (decide (3 ≤ iClass w) && tokBusy s cl w) = false := by simpa using hb
      simp [hb, hb']

end Sys2Proof.Machine
end

section
/-! The issue of instructions to the queues of the lanes and the units, and the sync class (R97, R119 to R124, R132): O20
to O23. -/

namespace Sys2Proof.Machine

/-! ### The queues of a lane (R97) -/

/-- The ports that an instruction enters are different. -/
theorem portsOf_nodup (w : W128) (k : Core) : (portsOf w k).Nodup := by
  unfold portsOf
  repeat' split
  all_goals decide

theorem lt_of_mem_portsOf {w : W128} {k : Core} {p : Nat} (h : p ∈ portsOf w k) : p < 4 := by
  revert p
  unfold portsOf
  repeat' split
  all_goals decide

/-- An entry appended to the queue of a port. -/
def pushPort (q : QIns) (k : Core) (p : Nat) : Core := setQueue k p (queueOf k p ++ [q])

theorem queueOf_foldl_pushPort {q : QIns} {l : List Nat} (hn : l.Nodup) (hl : ∀ p ∈ l, p < 4) (k : Core) {p : Nat} (hp : p < 4) :
    queueOf (l.foldl (pushPort q) k) p = if p ∈ l then queueOf k p ++ [q] else queueOf k p := by
  induction l generalizing k with
  | nil => rfl
  | cons x l ih =>
    obtain ⟨hx, hn⟩ := List.nodup_cons.1 hn
    obtain ⟨hx4, hl⟩ := List.forall_mem_cons.1 hl
    have hpush : queueOf (pushPort q k x) p = if p = x then queueOf k p ++ [q] else queueOf k p := by
      rw [pushPort, queueOf_setQueue k x p _ hx4 hp]
      split
      · next e => rw [e]
      · rfl
    rw [List.foldl_cons, ih hn hl, hpush]
    by_cases e : p = x
    · subst e; simp [hx]
    · simp [e]

theorem mem_foldl_pushPort (q : QIns) (l : List Nat) (k : Core) : (l.foldl (pushPort q) k).mem = k.mem := by
  induction l generalizing k with
  | nil => rfl
  | cons x l ih => rw [List.foldl_cons, ih, pushPort, setQueue_mem]

/-- A core that an instruction has entered: its ports note it as the last issued to them, and hold it at the end of their
queues. -/
def entered (q : QIns) (k : Core) : Core :=
  (portsOf q.word k).foldl (pushPort q) { k with lastIss := (enginesOf q.word).foldl (fun t e => t.put e q.iid) k.lastIss }

theorem enqueue_eq {s : State} {cl k : Nat} {q : QIns} (h : laneCore (clOf s cl) cl q.lane = some k) :
    enqueue cl q s = setCore s k (entered q (coreOf s k)) := by
  rw [enqueue, h]
  rfl

theorem queueOf_entered (q : QIns) (k : Core) {p : Nat} (hp : p < 4) :
    queueOf (entered q k) p = if p ∈ portsOf q.word k then queueOf k p ++ [q] else queueOf k p :=
  (queueOf_foldl_pushPort (portsOf_nodup _ _) (fun _ h => lt_of_mem_portsOf h) _ hp).trans rfl

/-- Settles O21: only the core that serves the lane is set, to what it is after the entry. -/
theorem enqueueAppendsToTheEnginesQueue : Obligations.EnqueueAppendsToTheEnginesQueue := by
  unfold Obligations.EnqueueAppendsToTheEnginesQueue
  intro s cl k q h
  rw [enqueue_eq h, coreOf_setCore_same]
  exact ⟨fun p hp => queueOf_entered q _ hp, mem_foldl_pushPort q _ _, fun j hj => coreOf_setCore_other s _ hj, rfl, rfl, rfl⟩

/-! ### Lane instructions at issue (R97, R119 to R124) -/

/-- Each lane instruction is issued with its class, opcode and checks. -/
theorem exec_laneOp {p : (Nat → Instr) × Nat × Nat × Bool × (State → List Nat → QIns → List (Bool × Nat))} (h : p ∈ laneOps) :
    ∀ cl s, exec (p.1 cl) s = .next (issueLanes p.2.1 p.2.2.1 p.2.2.2.1 p.2.2.2.2 cl s) := by
  revert p
  simp only [laneOps, List.forall_mem_append, List.forall_mem_cons]
  refine ⟨⟨?_, ?_⟩, ?_⟩
  · iterate 5 refine ⟨fun _ _ => rfl, ?_⟩
    exact fun _ h => absurd h List.not_mem_nil
  · iterate 13 refine ⟨fun _ _ => rfl, ?_⟩
    exact fun _ h => absurd h List.not_mem_nil
  · iterate 19 refine ⟨fun _ _ => rfl, ?_⟩
    exact fun _ h => absurd h List.not_mem_nil

/-- The number of the chain that a vector instruction of the cluster belongs to (R190). -/
def chainNow (c : Cluster) : Nat := if c.chainOpen then c.chainNo else c.chainNo + 1

/-- The state in which a lane instruction has been taken up: the chain is noted and its token armed. -/
def takenUp (cl : Nat) (w : W128) (s : State) : State :=
  armTV cl w (setCl s cl (if inChain w then chainAfter (clOf s cl) w else clOf s cl))

/-- What is noted of a lane instruction of the cluster `c` until it is released. -/
def laneIss (c : Cluster) (w : W128) (tile : Bool) (iid : Nat) : Iss where
  iid := iid
  word := w
  pc := c.pc
  tok := if iTV w then some (iTok w) else none
  owed := maskLanes (effMask c w)
  tile := tile
  chain := if inChain w then some (chainNow c) else none
  ends := inChain w && decide (vDest w = 0)

/-- An instruction noted as issued and not released. -/
def noteIssued (cl : Nat) (iss : Iss) (s : State) : State :=
  { setCl s cl { clOf s cl with issued := (clOf s cl).issued ++ [iss] } with insNo := s.insNo + 1 }

section
variable {s : State} {cl : Nat} {w : W128} {cls op : Nat} {tile : Bool}
  {checks : State → List Nat → QIns → List (Bool × Nat)}

/-- A lane instruction whose checks pass is held, ends at once or joins the queues of its lanes. -/
theorem issueLanes_of_pass (h : At s cl w cls op) (hc : LaneChecksPass s cl w checks) :
    issueLanes cls op tile checks cl s
      = if anyFull s cl w (maskLanes (effMask (clOf s cl) w)) then hold cl 4 [] s
        else if maskLanes (effMask (clOf s cl) w) = [] then
          goNext cl (endsEmpty cl w (chainNow (clOf s cl))
            (if iTV w then postTok (cluTok cl (iTok w)) .done (takenUp cl w s) else takenUp cl w s))
        else
          goNext cl (noteIssued cl
            (laneIss (clOf s cl) w tile ((laneEntries s cl w).foldl (fun s q => enqueue cl q s) (takenUp cl w s)).insNo)
            ((laneEntries s cl w).foldl (fun s q => enqueue cl q s) (takenUp cl w s))) := by
  obtain rfl := h.word
  exact (if_pos h.atIns).trans (issueWith_pass hc)

end

/-- Settles O20: the three branches of `issueLanes_of_pass`. -/
theorem laneInstructionsAreBroadcast : Obligations.LaneInstructionsAreBroadcast := by
  unfold Obligations.LaneInstructionsAreBroadcast
  intro p hp s cl w h hc lanes armed queued
  have he := (exec_laneOp hp cl s).trans (answers_of_eq (issueLanes_of_pass h hc))
  refine ⟨fun hfull => he.trans (answers_of_eq (if_pos hfull)), fun hfree hno => he.trans (answers_of_eq ?_),
    fun hfree hsome => ⟨laneIss (clOf s cl) w p.2.2.2.1 queued.insNo, rfl, rfl, rfl, rfl, rfl, fun hv => if_pos hv,
      he.trans (answers_of_eq ?_)⟩⟩
  · rw [if_neg (by simpa using hfree), if_pos hno]
    rfl
  · rw [if_neg (by simpa using hfree), if_neg hsome]
    rfl

/-! ### Instructions of the unit queues (R121, R123) -/

/-- What holds issue of a unit's instruction whose checks pass: a wait that is unmet, or `n` entries in a full queue. -/
def unitHeld (s : State) (cl : Nat) (w : W128) (n : Nat) : Bool :=
  !(waitsMet s cl w (effMask (clOf s cl) w)) || decide (8 ≤ n)

theorem unitHeld_iff {s : State} {cl : Nat} {w : W128} {n : Nat} : unitHeld s cl w n = true ↔ ¬ UnitFree s cl w n := by
  rw [unitHeld, UnitFree, Classical.not_and_iff_not_or_not, Nat.not_lt, Bool.or_eq_true, Bool.not_eq_true', Bool.not_eq_true, decide_eq_true_eq]

section
variable {s : State} {cl : Nat} {w : W128}

theorem issueUnit_of_pass {op : Nat} {fs : List (Nat × Nat)} {tile : Bool} {checks : State → Cluster → W128 → List (Bool × Nat)}
    {queue : Cluster → List UIns} {push : Cluster → UIns → Cluster} (h : At s cl w 3 op)
    (hc : UnitChecks s cl w fs (checks s (clOf s cl) w)) : issueUnit op fs tile checks queue push cl s
      = if unitHeld s cl w (queue (clOf s cl)).length then hold cl 4 [] s
        else issueU cl w tile (fun c => push c (mkU s cl w (effMask c w) 0)) s := by
  obtain rfl := h.word
  exact (if_pos h.atIns).trans (issueWith_pass hc)

/-- What such an instruction answers: it is issued as `b` says, or held as `a` says. -/
theorem unit_answers {n : Nat} {a b t : State} (h : t = if unitHeld s cl w n then a else b) :
    (UnitFree s cl w n → Answers (.next t) b) ∧ (¬ UnitFree s cl w n → Answers (.next t) a) :=
  ⟨fun hfree => answers_of_eq (h.trans (if_neg (mt unitHeld_iff.1 (not_not_intro hfree)))),
    fun hfree => answers_of_eq (h.trans (if_pos (unitHeld_iff.2 hfree)))⟩

theorem fabIns_of_pass {op : Nat} (h : At s cl w 6 op) (hc : firstSkip (fabChecks s cl w) = none) : fabIns op cl s
    = if effMask (clOf s cl) w = 0 then goNext cl (if iTV w then postTok (cluTok cl (iTok w)) .done (armTV cl w s) else s)
      else if unitHeld s cl w (clOf s cl).fabQ.length then hold cl 4 [] s
      else fabGo (issueU cl w false (fun c => { c with fabQ := c.fabQ ++ [mkU s cl w (effMask c w) s.mer.epoch] }) s) := by
  obtain rfl := h.word
  exact (if_pos h.atIns).trans (issueWith_pass hc)

/-- The fabric instructions by their opcodes. -/
theorem exec_fabricOp {p : (Nat → Instr) × Nat} (h : p ∈ [(Instr.fput, 1), (Instr.fcoll, 2), (Instr.fbar, 3), (Instr.fabort, 4)]) :
    ∀ cl s, exec (p.1 cl) s = .next (fabEnd (fabIns p.2 cl s)) := by
  revert p
  simp only [List.forall_mem_cons]
  exact ⟨fun _ _ => rfl, fun _ _ => rfl, fun _ _ => rfl, fun _ _ => rfl, fun _ h => absurd h List.not_mem_nil⟩

end

/-- Settles O22: TMOVE, LEVENT and UPD are `issueUnit_of_pass`, the fabric instructions `fabIns_of_pass`. -/
theorem unitInstructionsJoinTheirQueue : Obligations.UnitInstructionsJoinTheirQueue := by
  unfold Obligations.UnitInstructionsJoinTheirQueue
  refine fun s cl w => ⟨fun h hc => unit_answers (issueUnit_of_pass h hc), fun h hc => unit_answers (issueUnit_of_pass h hc),
    fun h hc => unit_answers (issueUnit_of_pass h hc), fun p hp h hc => ?_⟩
  have hfab := fabIns_of_pass h hc
  refine ⟨fun hm hfree => ?_, fun hm hfree => ?_, fun hm => ?_⟩ <;>
    refine (exec_fabricOp hp cl s).trans (answers_of_eq (congrArg fabEnd (hfab.trans ?_)))
  · rw [if_neg hm, if_neg (mt unitHeld_iff.1 (not_not_intro hfree))]
  · rw [if_neg hm, if_pos (unitHeld_iff.2 hfree)]
  · rw [if_pos hm]

/-! ### The sync class (R132) -/

section
variable {s : State} {cl : Nat} {w : W128} (hb : tokBusy s cl w = false) (hm : iLmask w = 0xFF)
include hb hm

/-- A sync instruction that fails no check acts. -/
theorem syncIns_acts {op : Nat} {fs : W128 → List (Nat × Nat)} {range : W128 → Bool} {more : State → W128 → List (Bool × Nat)}
    {act : W128 → State → State} (h : At s cl w 7 op)
    (hf : onlyFields w ([(124, 4), (116, 8), (108, 8)] ++ fs w) = true) (hr : range w = false := by rfl)
    (hmore : firstSkip (more s w) = none := by rfl) : syncIns op fs range more act cl s = act w s := by
  obtain rfl := h.word
  refine (if_pos h.atIns).trans (issueWith_pass ?_)
  simp only [hb, hf, hm, hr]
  exact hmore

/-- TWAIT on tokens that are all seen DONE. -/
theorem effTwait_done (h : At s cl w 7 1) (hf : onlyFields w [(124, 4), (116, 8), (108, 8), (0, 48)] = true)
    (hd : ∀ i ∈ twaitIds w, (isHubTok i || isCluTok i) = true ∧ seenTok (clOf s cl).seen i s = .done) :
    effTwait cl s = syncDone cl w s := by
  have hlegal : (twaitIds w).any (fun i => !(isHubTok i || isCluTok i)) = false :=
    List.any_eq_false.2 fun i hi => by simp [(hd i hi).1]
  have hbad : (twaitIds w).find? (fun i => decide (seenTok (clOf s cl).seen i s = .skipped ∨ seenTok (clOf s cl).seen i s = .aborted))
      = none := List.find?_eq_none.2 fun i hi => by simp [(hd i hi).2]
  have hidle : (twaitIds w).find? (fun i => decide (seenTok (clOf s cl).seen i s = .idle)) = none :=
    List.find?_eq_none.2 fun i hi => by simp [(hd i hi).2]
  have hpend : (twaitIds w).filter (fun i => decide (seenTok (clOf s cl).seen i s = .pending)) = [] :=
    List.filter_eq_nil_iff.2 fun i hi => by simp [(hd i hi).2]
  refine (syncIns_acts hb hm h hf rfl (by rw [hlegal]; rfl)).trans ?_
  simp only [hbad, hidle, hpend, if_true]

/-- TARM of a token that is not PENDING. -/
theorem effTarm_arms {p : Prog} (h : At s cl w 7 2)
    (hf : onlyFields w ([(124, 4), (116, 8), (108, 8)] ++ (tvFields w ++ [(32, 8)])) = true)
    (ht : seenTok (clOf s cl).seen (actTok cl w) s ≠ .pending) (hp : (clOf s cl).prog = some p) :
    effTarm cl s = syncDone cl w (setTok (actTok cl w) .pending false
      (setCl s cl { clOf s cl with prog := some { p with armed := iI0 w :: p.armed.filter (fun t => decide (t ≠ iI0 w)) } })) := by
  refine (syncIns_acts hb hm h hf).trans ?_
  simp only [if_neg ht, hp]

/-- TPOST of a PENDING token that no instruction holds. -/
theorem effTpost_posts (h : At s cl w 7 3)
    (hf : onlyFields w ([(124, 4), (116, 8), (108, 8)] ++ (tvFields w ++ [(32, 8), (16, 3)])) = true)
    (ht : (tokOf s (actTok cl w)).st = .pending) (hn : (tokOf s (actTok cl w)).held = false) (h2 : 2 ≤ iI1 w) (h4 : iI1 w ≤ 4) :
    effTpost cl s = syncDone cl w (setTok (actTok cl w) (tokOfCode (iI1 w)) false s) := by
  have hcode : ¬ (iI1 w < 2 ∨ 4 < iI1 w) := by omega
  exact syncIns_acts hb hm h hf rfl (by simp only [ht, hn, decide_eq_false hcode]; rfl)

/-- TREL of tokens none of which is PENDING. -/
theorem effTrel_releases (h : At s cl w 7 4)
    (hf : onlyFields w ([(124, 4), (116, 8), (108, 8)] ++ (tvFields w ++ [(32, 8), (16, 16)])) = true)
    (h1 : 1 ≤ iI1 w) (h2 : iI1 w ≤ 256) (h3 : iI0 w + iI1 w ≤ 256) (ht : ∀ i ∈ trelIds cl w, (tokOf s i).st ≠ .pending) :
    effTrel cl s = syncDone cl w ((trelIds cl w).foldl (fun s i => setTok i .idle false s) s) := by
  have hfree : (trelIds cl w).any (fun i => decide ((tokOf s i).st = .pending)) = false :=
    List.any_eq_false.2 fun i hi => by simp [ht i hi]
  exact syncIns_acts hb hm h hf (decide_eq_false (by omega)) (by rw [hfree]; rfl)

end

/-- What PFENCE waits for (R100). -/
theorem atFence_iff {s : State} {cl : Nat} :
    atFence s cl = true ↔ (∀ k ∈ laneCores s cl, coreQuiet (coreOf s k) = true) ∧ (clOf s cl).issued = [] := by
  simp [atFence]

/-- Settles O23: the lemma about each instruction, QFENCE and PFENCE by what they wait for. -/
theorem syncInstructionsActOnTokens : Obligations.SyncInstructionsActOnTokens := by
  unfold Obligations.SyncInstructionsActOnTokens
  refine fun s cl w hb hm => ⟨fun h hf hd => answers_of_eq (effTwait_done hb hm h hf hd),
    fun p h hf ht hp => answers_of_eq (effTarm_arms hb hm h hf ht hp),
    fun h hf ht hn h2 h4 => answers_of_eq (effTpost_posts hb hm h hf ht hn h2 h4),
    fun h hf h1 h2 h3 ht => answers_of_eq (effTrel_releases hb hm h hf h1 h2 h3 ht), fun h hf hw => ?_, fun h hf => ?_⟩
  · have hgo : effQfence cl s = _ := syncIns_acts hb hm h hf hw
    exact ⟨fun hmet => answers_of_eq (hgo.trans (if_pos hmet)),
      fun hmet => answers_of_eq (hgo.trans (if_neg (Bool.eq_false_iff.1 hmet)))⟩
  · have hgo : effPfence cl s = _ := syncIns_acts hb hm h hf
    refine ⟨fun hq hi => answers_of_eq (hgo.trans (if_pos (atFence_iff.2 ⟨hq, hi⟩))),
      fun hn => answers_of_eq (hgo.trans (if_neg fun hat => ?_))⟩
    obtain ⟨hq, hi⟩ := atFence_iff.1 hat
    rcases hn with ⟨k, hk, hbusy⟩ | hne
    · exact Bool.eq_false_iff.1 hbusy (hq k hk)
    · exact hne hi

end Sys2Proof.Machine
end

section
/-! The start and the completion of the instructions of the lanes (R99, R123, R162, R190, R316, R318, R325): O24 and
O25. -/

namespace Sys2Proof.Machine

/-! ### What a start takes and adds (R123) -/

@[simp] theorem runsOf_setRuns_same (k : Core) (l : List Run) : ∀ p, runsOf (setRuns k p l) p = l
  | 0 | 1 | 2 | _ + 3 => rfl

/-- Setting the runs of a port touches nothing else. -/
theorem setRuns_eq (k : Core) (p : Nat) (l : List Run) : setRuns k p l = { k with
    runA := (setRuns k p l).runA, runB := (setRuns k p l).runB, runV := (setRuns k p l).runV, runP := (setRuns k p l).runP } := by
  unfold setRuns
  split <;> rfl

@[simp] theorem queueOf_setRuns (k : Core) (p p' : Nat) (l : List Run) : queueOf (setRuns k p l) p' = queueOf k p' := by
  rw [setRuns_eq]
  rfl

@[simp] theorem setRuns_window (k : Core) (p : Nat) (l : List Run) : (setRuns k p l).window = k.window := by rw [setRuns_eq]

/-- An instruction that leaves its queue touches nothing but the queues. -/
theorem takeQ_eq (k : Core) (port : Nat) (q : QIns) : takeQ k port q = { k with
    qA := (takeQ k port q).qA, qB := (takeQ k port q).qB, qV := (takeQ k port q).qV, qP := (takeQ k port q).qP } := by
  unfold takeQ
  split
  · rfl
  · unfold setQueue
    split <;> rfl

@[simp] theorem runsOf_takeQ (k : Core) (port : Nat) (q : QIns) (p : Nat) : runsOf (takeQ k port q) p = runsOf k p := by
  rw [takeQ_eq]
  rfl

@[simp] theorem takeQ_window (k : Core) (port : Nat) (q : QIns) : (takeQ k port q).window = k.window := by rw [takeQ_eq]

@[simp] theorem takeQ_bOff (k : Core) (port : Nat) (q : QIns) : (takeQ k port q).bOff = k.bOff := by rw [takeQ_eq]

/-- Cores that differ in the bytes of their scratchpads alone. -/
def SameButMem (k k' : Core) : Prop := k' = { k with mem := k'.mem }

theorem SameButMem.refl (k : Core) : SameButMem k k := rfl

/-- An upset of the scratchpad touches no queue, run or entry. -/
theorem sameButMem_upsetSpad (k : Core) (u : Option Flt) : SameButMem k (upsetSpad k u) := by
  cases u <;> rfl

theorem SameButMem.queueOf_takeQ {k k' : Core} (h : SameButMem k k') (port : Nat) (q : QIns) (p : Nat) :
    queueOf (takeQ k' port q) p = queueOf (takeQ k port q) p := by
  rw [h]
  unfold takeQ
  split
  · rfl
  · unfold setQueue
    split <;> rfl

/-- What an instruction reads when it carries its start values over, it reads also when it does not. -/
theorem mem_readLines_of_carry {s : State} {q : QIns} {carry : Bool} {line : Nat} (h : line ∈ readLines s q carry) :
    line ∈ readLines s q false := by
  cases carry with
  | false => exact h
  | true =>
    revert h
    dsimp only [readLines]
    split
    · exact id
    · exact id
    · have hst : ∀ {a b : Bool} {l : List Nat}, line ∈ (if (a && !(true && b)) = true then l else [])
          → line ∈ (if (a && !(false && b)) = true then l else []) := by
        intro a b l
        cases a <;> cases b <;> simp
      split <;> simp only [List.mem_append, List.mem_flatten, List.mem_map]
      all_goals
        refine Or.imp_right ?_
        rintro ⟨_, ⟨i, hi, rfl⟩, hl⟩
        exact ⟨_, ⟨i, hi, rfl⟩, hst hl⟩

/-- The result that an instruction forms as it starts. -/
def startRes (s : State) (c : Cluster) (k : Core) (q : QIns) : Res :=
  if iClass q.word = 4 then { ops := firstAttempts s k q, lines := [], creg := none, sat := 0, kind := 0 }
  else if iClass q.word = 3 then
    { ops := [], lines := if iOp q.word = 1 then tloadLines s c q else tstoreLines k q, creg := none, sat := 0, kind := 0 }
  else if iOp q.word = 0x50 then { ops := [], lines := [], creg := none, sat := 0, kind := 0 }
  else vResult s k q

/-- The runs to which an instruction of a port is added. -/
def startSlot (port : Nat) (k : Core) : Nat := if port = 1 && k.bOff then 0 else port

/-- The core in which a run has been added, and, for one of a chain, noted with the chain registers before it. -/
def addRun (port : Nat) (r : Run) (k : Core) : Core :=
  let k := setRuns k (startSlot port k) (runsOf k (startSlot port k) ++ [r])
  if inChain r.ins.word then
    { k with
      lastPc := r.ins.pc
      chain := k.chain ++ [{ ins := r.ins, before := k.creg }]
      creg := match r.res.creg with
        | some (n, l) => k.creg.put n l
        | none => k.creg }
  else if iClass r.ins.word = 5 then { k with lastPc := r.ins.pc } else k

/-- What `addRun` leaves. -/
structure AddsRun (port : Nat) (r : Run) (k k' : Core) : Prop where
  runs : runsOf k' (startSlot port k) = runsOf k (startSlot port k) ++ [r]
  queue : ∀ p, queueOf k' p = queueOf k p
  mem : k'.mem = k.mem
  window : k'.window = k.window

theorem addsRun_addRun (port : Nat) (r : Run) (k : Core) : AddsRun port r k (addRun port r k) := by
  have h : AddsRun port r k (setRuns k (startSlot port k) (runsOf k (startSlot port k) ++ [r])) :=
    ⟨runsOf_setRuns_same _ _ _, fun _ => queueOf_setRuns _ _ _ _, setRuns_mem, setRuns_window _ _ _⟩
  obtain ⟨runs, queue, mem, window⟩ := h
  unfold addRun
  split
  · exact ⟨runs, queue, mem, window⟩
  · split <;> exact ⟨runs, queue, mem, window⟩

section
variable {s : State} {core port : Nat} {upset : Option Flt} {q : QIns} (hr : frontReady (coreOf s core) port = some q)
  (hm : marksBlock s (coreOf s core) q = false)
include hr hm

/-- An instruction that reads its scratchpad starts when every line that it reads is good. -/
theorem effLaneInstructionStart_spad {k : Core} {s1 : State}
    (hb : iClass q.word = 4 → startBlocked s (coreOf s core) q = false) (hk : k = takeQ (upsetSpad (coreOf s core) upset) port q)
    (hs1 : s1 = setCore s core k) (hp : ¬ (iClass q.word = 3 ∧ iOp q.word = 1))
    (hgood : ∀ line ∈ readLines s1 q false, spadBad k line = false) : effLaneInstructionStart core port upset s
      = setCore s1 core (addRun port ⟨q, startRes s1 (clOf s1 (core / 9)) k q⟩ k) := by
  have hblocked : (decide (iClass q.word = 4) && startBlocked s (coreOf s core) q) = false := by
    by_cases h4 : iClass q.word = 4
    · rw [hb h4, Bool.and_false]
    · simp [h4]
  have hfind : ∀ carry, (readLines s1 q carry).find? (spadBad k) = none := fun carry =>
    List.find?_eq_none.2 fun line hl => by simp [hgood line (mem_readLines_of_carry hl)]
  subst hk hs1
  simp only [effLaneInstructionStart, hr, hm, hblocked, decide_eq_false hp, Bool.or_false, Bool.false_eq_true, if_false, hfind]
  rfl

/-- TLOAD starts when every plate line that it reads is good. -/
theorem effLaneInstructionStart_plates {c : Cluster} {s1 : State} (hc : c = upsetPlates (clOf s (core / 9)) upset)
    (hs1 : s1 = setCl (setCore s core (takeQ (coreOf s core) port q)) (core / 9) c) (hp : iClass q.word = 3 ∧ iOp q.word = 1)
    (hgood : ∀ line ∈ lineRange (farAddr q) (iI0 q.word * 64), plateBad c line = false) :
    effLaneInstructionStart core port upset s
      = setCore s1 core (addRun port ⟨q, startRes s1 c (takeQ (coreOf s core) port q) q⟩ (takeQ (coreOf s core) port q)) := by
  have hblocked : (decide (iClass q.word = 4) && startBlocked s (coreOf s core) q) = false := by simp [hp.1]
  have hfind : (lineRange (farAddr q) (iI0 q.word * 64)).find? (plateBad c) = none :=
    List.find?_eq_none.2 fun line hl => by simp [hgood line hl]
  subst hc hs1
  simp only [effLaneInstructionStart, hr, hm, hblocked, decide_eq_true hp, Bool.or_false, Bool.false_eq_true, if_false, if_true,
    clOf_setCore, clOf_setCl_same, hfind]
  rfl

end

theorem startRes_matrix {s : State} {c : Cluster} {k : Core} {q : QIns} (h : iClass q.word = 4) :
    (startRes s c k q).ops = firstAttempts s k q := by
  rw [startRes, if_pos h]

theorem startRes_plate {s : State} {c : Cluster} {k : Core} {q : QIns} (h : iClass q.word = 3) :
    (startRes s c k q).lines = if iOp q.word = 1 then tloadLines s c q else tstoreLines k q := by
  rw [startRes, if_neg (by omega), if_pos h]

theorem startRes_vector {s : State} {c : Cluster} {k : Core} {q : QIns} (h3 : iClass q.word ≠ 3) (h4 : iClass q.word ≠ 4)
    (hop : iOp q.word ≠ 0x50) : startRes s c k q = vResult s k q := by
  rw [startRes, if_neg h4, if_neg h3, if_neg hop]

theorem startSlot_eq {port : Nat} {k k' : Core} (h : k'.bOff = k.bOff) :
    startSlot port k' = if port = 1 ∧ k.bOff = true then 0 else port := by
  simp [startSlot, h]

/-- What `addRun` leaves of a core from which the instruction `q` has been taken. -/
theorem addsRun_takeQ {k k' : Core} (h : SameButMem k k') (port : Nat) (q : QIns) (r : Run) :
    runsOf (addRun port r (takeQ k' port q)) (if port = 1 ∧ k.bOff = true then 0 else port)
      = runsOf k (if port = 1 ∧ k.bOff = true then 0 else port) ++ [r]
    ∧ (∀ p, queueOf (addRun port r (takeQ k' port q)) p = queueOf (takeQ k port q) p)
    ∧ (addRun port r (takeQ k' port q)).mem = k'.mem ∧ (addRun port r (takeQ k' port q)).window = k.window := by
  obtain ⟨runs, queue, mem, window⟩ := addsRun_addRun port r (takeQ k' port q)
  have hb : (takeQ k' port q).bOff = k.bOff := (takeQ_bOff _ _ _).trans (by rw [h])
  have hruns : ∀ p, runsOf k' p = runsOf k p := fun p => by
    rw [h]
    rfl
  rw [startSlot_eq hb, runsOf_takeQ, hruns] at runs
  exact ⟨runs, fun p => (queue p).trans (h.queueOf_takeQ port q p), mem.trans takeQ_mem,
    window.trans ((takeQ_window _ _ _).trans (by rw [h]))⟩

/-- Settles O24: the instruction starts by `effLaneInstructionStart_spad` or `effLaneInstructionStart_plates`, and
`addsRun_takeQ` says what its core then holds. -/
theorem laneInstructionsStartFromTheirQueue : Obligations.LaneInstructionsStartFromTheirQueue := by
  unfold Obligations.LaneInstructionsStartFromTheirQueue
  intro s core port upset q _ hr hm hb slot
  refine ⟨fun k s1 hk hs1 hp hgood => ?_, fun c hc h3 h1 hgood => ?_⟩
  · obtain ⟨runs, queue, mem, window⟩ := addsRun_takeQ (sameButMem_upsetSpad (coreOf s core) upset) port q
      ⟨q, startRes s1 (clOf s1 (core / 9)) k q⟩
    rw [← hk] at runs queue mem window
    refine ⟨_, ⟨q, startRes s1 (clOf s1 (core / 9)) k q⟩,
      answers_of_eq (congrArg fabEnd (effLaneInstructionStart_spad hr hm hb hk hs1 hp hgood)), rfl, startRes_matrix,
      fun h3 => (startRes_plate h3).trans (if_neg fun h1 => hp ⟨h3, h1⟩), startRes_vector, ?_⟩
    rw [coreOf_setCore_same]
    refine ⟨runs, queue, mem, window, fun j hj => ?_, ?_⟩
    · rw [coreOf_setCore_other _ _ hj, hs1, coreOf_setCore_other _ _ hj]
    · rw [hs1]
      exact ⟨rfl, rfl, rfl⟩
  · let s1 := setCl (setCore s core (takeQ (coreOf s core) port q)) (core / 9) c
    let r : Run := ⟨q, startRes s1 c (takeQ (coreOf s core) port q) q⟩
    obtain ⟨runs, queue, mem, window⟩ := addsRun_takeQ (SameButMem.refl (coreOf s core)) port q r
    refine ⟨_, r, answers_of_eq (congrArg fabEnd (effLaneInstructionStart_plates hr hm hc rfl ⟨h3, h1⟩ hgood)), rfl,
      (startRes_plate h3).trans (if_pos h1), ?_⟩
    rw [coreOf_setCore_same]
    refine ⟨runs, queue, mem, window, fun j hj => ?_, ?_, fun j hj => ?_, rfl, rfl⟩
    · rw [coreOf_setCore_other _ _ hj, coreOf_setCl, coreOf_setCore_other _ _ hj]
    · rw [clOf_setCore, clOf_setCl_same]
    · rw [clOf_setCore, clOf_setCl_other _ _ hj, clOf_setCore]

/-! ### What a completion writes (R325) -/

theorem spadWrites_window (k : Core) (ls : List LineWr) : (spadWrites k ls).window = k.window := by
  unfold spadWrites
  induction ls generalizing k with
  | nil => rfl
  | cons l ls ih => exact ih _

/-- The bytes that lines leave depend on the bytes alone. -/
theorem spadWrites_mem {k k' : Core} (h : k.mem = k'.mem) (ls : List LineWr) : (spadWrites k ls).mem = (spadWrites k' ls).mem := by
  unfold spadWrites
  induction ls generalizing k k' with
  | nil => exact h
  | cons l ls ih => exact ih (by simp only [spadWrite, h])

theorem addSat_window (k : Core) (kd n : Nat) : (addSat k kd n).window = k.window := by
  unfold addSat
  split <;> rfl

/-- The entry of a completed instruction. -/
def windowEntry (k : Core) (port : Nat) (q : QIns) (chainIns : List ChainIns) (good got : Res) (proven : Bool) : Entry where
  ins := q
  port := port
  chainIns := chainIns
  good := good
  got := got
  undo := (((resLines got).map (fun l => l.line)).eraseDups).map (imageOf k)
  proven := proven

/-- It enters at the end of the window of its core as its lines are written. -/
theorem setCore_enterWindow {s t u : State} {core : Nat} {k : Core} {port : Nat} {q : QIns} {chainIns : List ChainIns}
    {good got : Res} {proven : Bool} (hm : k.mem = (coreOf s core).mem) (hw : k.window = (coreOf s core).window) :
    (coreOf (setCore t core (enterWindow u k port q chainIns good got proven)) core).window
      = (coreOf s core).window ++ [windowEntry k port q chainIns good got proven]
    ∧ (coreOf (setCore t core (enterWindow u k port q chainIns good got proven)) core).mem
      = (spadWrites (coreOf s core) (resLines got)).mem := by
  rw [coreOf_setCore_same]
  exact ⟨congrArg (· ++ _) ((spadWrites_window k _).trans hw), spadWrites_mem hm _⟩

/-! ### The completion by class (R99) -/

section
variable {s : State} {core port : Nat} {f : Option Flt} {bad : List Nat} {missed : Bool} {r : Run}
  (hr : (runsOf (coreOf s core) port).head? = some r) (hm : mayComplete s (coreOf s core) r missed = true)
include hr hm

theorem effLaneInstructionComplete_plate (h : iClass r.ins.word = 3) :
    effLaneInstructionComplete core port f bad missed s = completePlate (core / 9) core r bad s := by
  simp [effLaneInstructionComplete, hr, hm, h]

theorem effLaneInstructionComplete_vector (h : iClass r.ins.word = 5) :
    effLaneInstructionComplete core port f bad missed s = completeVector (core / 9) core r f s := by
  simp [effLaneInstructionComplete, hr, hm, h]

theorem effLaneInstructionComplete_matrix (h3 : iClass r.ins.word ≠ 3) (h5 : iClass r.ins.word ≠ 5) :
    effLaneInstructionComplete core port f bad missed s = completeMatrix core port r f s := by
  simp [effLaneInstructionComplete, hr, hm]

end

/-- The core from which the vector run and its chain have gone. -/
def chainEnded (r : Run) (k : Core) : Core :=
  { k with runV := k.runV.tail, chain := k.chain.filter (fun x => decide (x.ins.chain ≠ r.ins.chain)) }

section
variable {s : State} {cl core : Nat} {r : Run} {f : Option Flt}

theorem completeVector_vcfg (h : iOp r.ins.word = 0x50) : completeVector cl core r f s
    = laneDone cl r.ins.iid r.ins.lane (setCore s core { coreOf s core with
        runV := (coreOf s core).runV.tail, pat := (coreOf s core).pat.put (vPat r.ins.word) [r.ins.a, r.ins.b, r.ins.c, r.ins.d] }) := by
  rw [completeVector, if_pos h]

variable (h : iOp r.ins.word ≠ 0x50)
include h

theorem completeVector_chain (hd : vDest r.ins.word ≠ 0) : completeVector cl core r f s
    = freeLeft cl r.ins.chain (setCore s core { coreOf s core with runV := (coreOf s core).runV.tail }) := by
  rw [completeVector, if_neg h, if_pos hd]

theorem completeVector_entry (hd : vDest r.ins.word = 0) (hp : matrixOnly s = false) : completeVector cl core r f s
    = setCore s core (enterWindow s (chainEnded r (coreOf s core)) 2 r.ins
        ((coreOf s core).chain.filter (fun x => decide (x.ins.chain = r.ins.chain))) r.res (applyFlt r.res f) false) := by
  rw [completeVector, if_neg h, if_neg (not_not_intro hd), hp]
  rfl

theorem completeVector_released (hd : vDest r.ins.word = 0) (hp : matrixOnly s = true) : completeVector cl core r f s
    = releaseIns cl r.ins ((coreOf s core).chain.filter (fun x => decide (x.ins.chain = r.ins.chain)))
        (setCore s core (addSat (spadWrites (chainEnded r (coreOf s core)) (applyFlt r.res f).lines) r.res.kind r.res.sat)) := by
  rw [completeVector, if_neg h, if_neg (not_not_intro hd), hp]
  rfl

end

/-- The state in which a plate-port run has left its port and its further moves are counted (R318). -/
def plateMoved (core : Nat) (r : Run) (bad : List Nat) (s : State) : State :=
  countMoves core (movedBad bad r.res.lines.length) (setCore s core { coreOf s core with runP := (coreOf s core).runP.tail })

section
variable {s : State} {cl core : Nat} {r : Run} {bad : List Nat}

theorem plateMoved_core : (coreOf (plateMoved core r bad s) core).mem = (coreOf s core).mem
    ∧ (coreOf (plateMoved core r bad s) core).window = (coreOf s core).window := by
  simp only [plateMoved, countMoves, coreOf_setCore_same, and_self]

theorem completePlate_lost {i : Nat} (hl : lostLine bad r.res.lines.length = some i) : completePlate cl core r bad s
    = landFail cl core r.ins ((r.res.lines.map (fun l => l.line)).getD i 0) (plateMoved core r bad s) := by
  simp only [completePlate, hl]
  rfl

variable (hl : lostLine bad r.res.lines.length = none)
include hl

theorem completePlate_tstore (h : iOp r.ins.word = 2) : completePlate cl core r bad s
    = laneDone cl r.ins.iid r.ins.lane (setCl (plateMoved core r bad s) cl
        (r.res.lines.foldl (fun c l => plateWrite c l.line l.tag l.upd) (clOf s cl))) := by
  simp only [completePlate, hl, if_pos h]
  rfl

theorem completePlate_tload (h : iOp r.ins.word ≠ 2) : completePlate cl core r bad s
    = if matrixOnly s = true then laneDone cl r.ins.iid r.ins.lane (setCore (plateMoved core r bad s) core
        (spadWrites (coreOf (plateMoved core r bad s) core) r.res.lines))
      else setCore (plateMoved core r bad s) core (enterWindow (plateMoved core r bad s) (coreOf (plateMoved core r bad s) core) 3
        r.ins [] r.res r.res true) := by
  simp only [completePlate, hl, if_neg h]
  rfl

end

/-- The core from which a matrix run has gone, with what it leaves to carry over (R157). -/
def matrixEnded (s : State) (r : Run) (k : Core) : Core :=
  { dropRun k r.ins.iid with
    carryA := if onArray r 0 then carryOut s 0 r else k.carryA
    carryB := if onArray r 1 then carryOut s 1 r else k.carryB }

theorem completeMatrix_eq (s : State) (core port : Nat) (r : Run) (f : Option Flt) : completeMatrix core port r f s
    = setCore s core (enterWindow s (matrixEnded s r (coreOf s core)) port r.ins [] r.res (applyFlt (missedOv r.res) f) false) := rfl

/-- Settles O25: each clause is the completion of its class, with `setCore_enterWindow` where an entry is made. -/
theorem laneInstructionsCompleteInOrder : Obligations.LaneInstructionsCompleteInOrder := by
  unfold Obligations.LaneInstructionsCompleteInOrder
  intro s core port f bad missed r hr hm done moved mine
  have plate {t} h3 (h : completePlate (core / 9) core r bad s = t) : done t :=
    answers_of_eq (congrArg fabEnd ((effLaneInstructionComplete_plate hr hm h3).trans h))
  have vector {t} h5 (h : completeVector (core / 9) core r f s = t) : done t :=
    answers_of_eq (congrArg fabEnd ((effLaneInstructionComplete_vector hr hm h5).trans h))
  have matrix h3 h5 : done (completeMatrix core port r f s) :=
    answers_of_eq (congrArg fabEnd (effLaneInstructionComplete_matrix hr hm h3 h5))
  refine ⟨fun h3 h5 => ?matrix, fun h5 hop hd hp => ?vectorEntry, fun h5 hop hd hp => ?vectorReleased,
    fun h5 hop hd => vector h5 (completeVector_chain hop hd), fun h5 hop => vector h5 (completeVector_vcfg hop),
    fun h3 hl hop => plate h3 (completePlate_tstore hl hop), fun h3 hl hop hp => ?tloadEntry,
    fun h3 hl hop hp => plate h3 ((completePlate_tload hl hop).trans (if_pos hp)), fun i h3 hl => plate h3 (completePlate_lost hl)⟩
  case matrix =>
    obtain ⟨window, mem⟩ := setCore_enterWindow (s := s) (k := matrixEnded s r (coreOf s core)) rfl rfl
    exact ⟨_, _, matrix h3 h5, window, rfl, rfl, rfl, rfl, mem, rfl, rfl⟩
  case vectorEntry =>
    obtain ⟨window, mem⟩ := setCore_enterWindow (s := s) (k := chainEnded r (coreOf s core)) rfl rfl
    exact ⟨_, _, vector h5 (completeVector_entry hop hd hp), window, rfl, rfl, rfl, rfl, rfl, mem, rfl, rfl⟩
  case vectorReleased =>
    refine ⟨_, vector h5 (completeVector_released hop hd hp), ?_, ?_, rfl, rfl⟩
    · rw [coreOf_setCore_same, addSat_mem]
      exact spadWrites_mem (k := chainEnded r (coreOf s core)) (k' := coreOf s core) rfl _
    · rw [coreOf_setCore_same, addSat_window, spadWrites_window]
      rfl
  case tloadEntry =>
    obtain ⟨hmem, hwin⟩ := plateMoved_core (s := s) (core := core) (r := r) (bad := bad)
    obtain ⟨window, mem⟩ := setCore_enterWindow (s := s) hmem hwin
    exact ⟨_, _, plate h3 ((completePlate_tload hl hop).trans (if_neg (by simp [hp]))), window, rfl, rfl, rfl, mem, rfl, rfl⟩

end Sys2Proof.Machine
end

section
/-! The overflow replay of a matrix array (R161-R163, R322): O26. -/

namespace Sys2Proof.Machine

/-! ### The operation that is lowered (R161, R322) -/

/-- An open overflow is acted on, whatever a false detection would name. -/
theorem ovOf_overflowed {k : Core} {u : Nat} {r : Run} {o : TileOp} {x : OvCause} (fo : Option (Nat × Nat))
    (h : overflowed k u = some (r, o)) (hx : o.ov = some x) : ovOf k u fo = some (r, o, x) := by
  simp only [ovOf, h, hx, Option.map_some]

/-- With none open, a false detection names the attempt and the cause. -/
theorem ovOf_named {k : Core} {u : Nat} {r : Run} {o : TileOp} (c : Nat) (h : overflowed k u = none) (hA : k.runA = [r])
    (hB : k.runB = []) (ho : r.res.ops = [o]) (hu : o.unit = u) : ovOf k u (some (o.idx, c)) = some (r, o, causeOf c) := by
  simp [ovOf, h, hA, hB, ho, hu, insRun]

/-- A run overflow lowers the input of the wider exponent range, any other the output. -/
theorem lower_eq (s : State) (j : TileJob) (o : TileOp) (x : OvCause) : lower s j o x
    = if x = .runFp22 ∨ x = .runFp32 then
        (if (fmtK s j.kB).ew < (fmtK s j.kA).ew then (j.kA, { o with dA := o.dA + 1 }) else (j.kB, { o with dB := o.dB + 1 }))
      else (j.kO, { o with o := o.o + 1 }) := by
  cases x <;> simp [lower]

/-! ### The next attempt (R162, R163) -/

section
variable (s : State) (core u : Nat) (r : Run) (o : TileOp) (x : OvCause)

/-- The kind that the overflow lowers, and the operation so lowered. -/
def loweredOp : Nat × TileOp := lower s (tileJob s r.ins o.idx) o x

/-- The attempt that takes the place of the old one. -/
def nextAttempt : TileOp :=
  attempt s (coreOf s core) (tileJob s r.ins o.idx) (startSpad s (coreOf s core) r.ins o.idx u).mem
    (spadTag (startSpad s (coreOf s core) r.ins o.idx u)) { (loweredOp s r o x).2 with attempt := o.attempt + 1 }

/-- MAT_REPLAY_LAST after the replay (Table 4.10). -/
def replayWord : W64 :=
  BitVec.ofNat 64 (at_ (loweredOp s r o x).1 0 4 + at_ (causeCode x) 4 2 + at_ u 6 1 + at_ o.attempt 8 3
    + at_ r.ins.pc 16 14 + at_ s.aoCount.toNat 32 32)

/-- The core after the replay. -/
def replayedCore : Core :=
  mapRun { coreOf s core with
    replay := (coreOf s core).replay.put (loweredOp s r o x).1 (satInc 0xFF ((coreOf s core).replay.get 0 (loweredOp s r o x).1))
    replayLast := replayWord s u r o x } r.ins.iid (fun y => putOp y (nextAttempt s core u r o x))

/-- The package after the replay: the core, and the cluster's summary of the kinds replayed. -/
def replayed : State :=
  setCl (setCore s core (replayedCore s core u r o x)) (core / 9) { clOf s (core / 9) with
    replaySummary := (clOf s (core / 9)).replaySummary ||| BitVec.ofNat 16 (2 ^ (loweredOp s r o x).1) }

/-- The package after the fifth overflow: the instruction is cut and traps SCALE_EXHAUSTED. -/
def replayExhausted : State :=
  trap (core / 9) 1 { lane := r.ins.lane, pc := r.ins.pc, op := opRec r.ins.word
                      d1 := BitVec.ofNat 32 (tileCode o.idx), d2 := (coreOf s core).replayLast.setWidth 32 }
    (laneCut (core / 9) r.ins.iid r.ins.lane
      (undefTiles core ((r.res.ops.takeWhile (fun y => decide (y.idx ≠ o.idx))).filter (fun y => y.ov.isNone))
        (setCore s core (dropRun (coreOf s core) r.ins.iid))))

theorem nextAttempt_attempt : (nextAttempt s core u r o x).attempt = o.attempt + 1 := rfl

theorem coreOf_replayed_same : coreOf (replayed s core u r o x) core = replayedCore s core u r o x := by
  rw [replayed, coreOf_setCl, coreOf_setCore_same]

theorem coreOf_replayed_other {k : Nat} (h : k ≠ core) : coreOf (replayed s core u r o x) k = coreOf s k := by
  rw [replayed, coreOf_setCl, coreOf_setCore_other _ _ h]

theorem clOf_replayed : clOf (replayed s core u r o x) (core / 9) = { clOf s (core / 9) with
    replaySummary := (clOf s (core / 9)).replaySummary ||| BitVec.ofNat 16 (2 ^ (loweredOp s r o x).1) } := by
  rw [replayed, clOf_setCl_same]

end

section
variable {s : State} {core u : Nat} {fo : Option (Nat × Nat)} {r : Run} {o : TileOp} {x : OvCause}
  (h : ovOf (coreOf s core) u fo = some (r, o, x))
include h

/-- An overflow before the fifth attempt is replayed. -/
theorem effOverflowReplay_again (h4 : o.attempt ≠ 4) : effOverflowReplay core u fo s = replayed s core u r o x := by
  simp only [effOverflowReplay, h, if_neg h4]
  rfl

/-- The fifth ends the instruction. -/
theorem effOverflowReplay_fifth (h4 : o.attempt = 4) : effOverflowReplay core u fo s = replayExhausted s core r o := by
  simp only [effOverflowReplay, h, if_pos h4]
  rfl

end

/-- Settles O26: which operation is lowered is `ovOf`, and what is left is `replayed` before the fifth attempt and
`replayExhausted` at it. -/
theorem overflowIsReplayedOneExponentLower : Obligations.OverflowIsReplayedOneExponentLower := by
  unfold Obligations.OverflowIsReplayedOneExponentLower
  intro s core u fo r o x
  refine ⟨ovOf_overflowed fo, fun c => ovOf_named c, fun j => lower_eq s j o x, fun h h4 => ?_, fun h h4 => ?_⟩
  · refine ⟨replayed s core u r o x, (loweredOp s r o x).1, (loweredOp s r o x).2,
      answers_of_eq (congrArg fabEnd (effOverflowReplay_again h h4)), rfl, ?_⟩
    rw [coreOf_replayed_same, clOf_replayed]
    refine ⟨?_, rfl, rfl, rfl, rfl, fun k hk => coreOf_replayed_other s core u r o x hk, rfl⟩
    rintro _ rfl
    exact ⟨nextAttempt_attempt s core u r o x, rfl, rfl⟩
  · exact answers_of_eq (congrArg fabEnd (effOverflowReplay_fifth h h4))

end Sys2Proof.Machine
end

section
/-! What the clear bits of the registers leave, written by a host that reaches the package (R61, R163, R186, R233, R293,
R355, R386, R416, R422, R459, R506, R517): O33. -/

namespace Sys2Proof.Machine

/-! ### Units that hold no data -/

@[simp] theorem photOf_setPhot_same (s : State) (d : Nat) (x : Phot) : photOf (setPhot s d x) d = x := Tab.get_put_same _ _ _ _

@[simp] theorem portOf_setPort_same (s : State) (d p : Nat) (x : Port) : portOf (setPort s d p x) d p = x :=
  Tab.get_put_same _ _ _ _

/-- Streams, stacks, die links and the power controller hold no data. -/
theorem sameData_units (s : State) (strm : Tab Stream) (stack : Tab Stack) (d2d : D2d) (pwr : Power) :
    SameData s { s with strm := strm, stack := stack, d2d := d2d, pwr := pwr } :=
  ⟨rfl, fun _ => rfl, fun _ => rfl, fun _ => rfl, rfl, rfl, rfl, rfl⟩

/-! ### The update engine (R233) -/

theorem clOf_clearUpd (cl : Nat) (s : State) : clOf (clearUpd cl s) cl
    = { clOf s cl with nonfiniteSeen := false, nonfinite := 0, satM1 := 0, satM2 := 0, satW := 0 } :=
  clOf_setCl_same s cl _

theorem sameData_clearUpd (cl : Nat) (s : State) : SameData s (clearUpd cl s) := sameData_setCl rfl rfl

/-! ### The links of a die (R386) -/

/-- The links of a list cleared one after the other. -/
def clearLinkErrs (l : List Nat) (s : State) : State := l.foldl (fun s p => clearLinkErr p s) s

theorem sameData_clearLinkErrs (l : List Nat) (s : State) : SameData s (clearLinkErrs l s) :=
  foldl_keeps (P := SameData s) (fun _ _ h => h.trans sameData_clearLinkErr) l s sameData_mer

theorem linkOf_clearLinkErrs {l : List Nat} {p : Nat} (hp : p ∉ l) (s : State) : linkOf (clearLinkErrs l s) p = linkOf s p := by
  induction l generalizing s with
  | nil => rfl
  | cons a l ih =>
    obtain ⟨ha, hl⟩ := List.ne_and_not_mem_of_not_mem_cons hp
    exact (ih hl (clearLinkErr a s)).trans (linkOf_clearLinkErr ha)

/-- A link that is cleared stays so, whether or not the list names it again. -/
theorem noLinkErrors_clearLinkErrs {l : List Nat} {p : Nat} (hp : p ∈ l) (s : State) : NoLinkErrors (clearLinkErrs l s) p := by
  induction l generalizing s with
  | nil => cases hp
  | cons a l ih =>
    by_cases hl : p ∈ l
    · exact ih hl (clearLinkErr a s)
    · obtain rfl := (List.mem_cons.1 hp).resolve_right hl
      unfold NoLinkErrors
      rw [clearLinkErrs, List.foldl_cons, ← clearLinkErrs, linkOf_clearLinkErrs hl]
      exact noLinkErrors_clearLinkErr

theorem mem_upto {n p : Nat} {f : Nat → Bool} : p ∈ upto n f ↔ p < n ∧ f p = true := by
  simp [upto]

/-! ### The state that each command leaves -/

section
variable {s : State} (h : HostReaches s)
include h

/-- A register below the compute dies is written, and no clock is ungated. -/
theorem window_low {off size : Nat} {v : W64} {f : State → State} (ho : off < 0x1000000) : window off size v f s = f s := by
  rw [window_of_reaches h (writeRefused_none (offsetCluster_low ho)), touch_low ho]

/-- A register of a core that serves a lane is written once its cluster's clock is ungated. -/
theorem window_core {core y a size : Nat} {v : W64} {f : State → State} (ha : coreBase core + y = a) (hc : core < 288)
    (hy : y < 0x1000) (hl : servedLane s core < 8) : window a size v f s = f (touch a s) :=
  window_of_reaches h (writeRefused_core ha hc hy (by rwa [servedLane_touch]))

theorem effMatReplayClear_eq {core : Nat} (hc : core < 288) (hl : servedLane s core < 8) : effMatReplayClear core s
    = setCore (touch (coreBase core + 0x428) s) core { coreOf s core with replay := [], replayLast := 0 } := by
  generalize ha : coreBase core + 0x428 = a
  rw [effMatReplayClear, if_pos hc, ha, window_core h ha hc (by omega) hl, ← coreOf_touch (s := s) (off := a)]
  rfl

theorem effVecSatClear_eq {core : Nat} (hc : core < 288) (hl : servedLane s core < 8) : effVecSatClear core s
    = setCore (touch (coreBase core + 0x620) s) core { coreOf s core with sat := [] } := by
  generalize ha : coreBase core + 0x620 = a
  rw [effVecSatClear, if_pos hc, ha, window_core h ha hc (by omega) hl, ← coreOf_touch (s := s) (off := a)]
  rfl

theorem effUpdClear_eq {cl : Nat} (hc : cl < 32) : effUpdClear cl s = clearUpd cl (touch (clusterBase cl + 0x40110) s) := by
  generalize ha : clusterBase cl + 0x40110 = a
  rw [effUpdClear, if_pos hc, ha, window_of_reaches h (writeRefused_cluster ha hc (by omega) (by omega))]

theorem effStackErrClear_eq {k : Nat} (hk : k < 12) :
    effStackErrClear k s = setStack s k { stackOf s k with nData := 0, nVersion := 0, nParity := 0, nOdecc := 0 } := by
  have hw : ∀ f, window (0x2000000 + k / 3 * 0x1000000 + 0x830010 + k % 3 * 0x10000) 4 1 f s = f s := fun f =>
    window_die (d := k / 3) (y := 0x830010 + k % 3 * 0x10000) h (by omega) (by omega) (by omega) (by omega)
  rw [effStackErrClear, if_pos hk, hw, effHbmErrClear, hostAccess_of_reaches h, if_pos ⟨hk, h.ready⟩]

theorem effPortClear_eq {d p : Nat} (hm : portModules d p ≠ 0) :
    effPortClear d p s = setPort s d p { portOf s d p with crc := 0, retrain := 0, mismatch := 0, persist := 0 } := by
  have hd : d < 7 ∧ p < 5 := by
    unfold portModules at hm
    repeat' split at hm
    all_goals omega
  have hw : ∀ f, window ((if d = 4 then 0x80000 else if d < 4 then 0x2860000 + d * 0x1000000 else photBase d + 0x30000)
      + p * 0x100 + 0x18) 4 1 f s = f s := fun f => by
    by_cases hc : d < 4
    · rw [if_neg (by omega), if_pos hc]
      exact window_die (d := d) (y := 0x860018 + p * 0x100) h (by omega) hc (by omega) (by omega)
    · rw [if_neg hc]
      refine window_low h ?_
      unfold photBase
      split <;> omega
  rw [effPortClear, if_neg hm, hw, effD2dPortClear, hostAccess_of_reaches h, if_pos ⟨hm, .inr h.ready⟩]

theorem effClearSag_eq : effClearSag s = setPwr s { s.pwr with lowestMv := s.pwr.railMv, sagEntries := 0 } :=
  hostAccess_of_reaches h _

theorem effClearClamp_eq : effClearClamp s = setPwr s { s.pwr with clampEpisodes := 0 } := hostAccess_of_reaches h _

theorem effClearMisplaced_eq {st : Nat} (hst : st < 64) :
    effClearMisplaced st s = setStrm s st { strmOf s st with misplaced := 0 } := by
  rw [effClearMisplaced, hostAccess_of_reaches h, if_pos hst]

section
variable {d : Nat} (hd : d = 5 ∨ d = 6)
include hd

/-- A clear bit of a photonic die that acts from READY on. -/
theorem photOp_hostWriteReady {y : Nat} {v : W64} {f : State → State} (hy : y < 0x100000) :
    photOp d y v (hostWriteReady f) s = f s := by
  rw [photOp_of_reaches h hd hy, hostWriteReady_of_reaches h]

theorem effFabDropClear_eq :
    effFabDropClear d s = setPhot s d { photOf s d with fabNo := 0, fabEpoch := 0, fabBad := 0, fabQuiet := 0 } :=
  (photOp_hostWriteReady h hd (by omega)).trans (if_pos hd)

theorem effSatClear_eq : effSatClear d s = setPhot s d { photOf s d with fabSat := 0 } :=
  (photOp_hostWriteReady h hd (by omega)).trans (if_pos hd)

theorem effDropClear_eq :
    effDropClear d s = setPhot s d { photOf s d with dropDst := 0, dropType := 0, dropPermit := 0, dropDup := 0 } :=
  (photOp_hostWriteReady h hd (by omega)).trans (if_pos hd)

theorem effLinksClear_eq : effLinksClear d s = clearLinkErrs (upto 64 (fun p => linkDie p = d)) s :=
  photOp_hostWriteReady h hd (by omega)

end

theorem effLinkClear_eq {p : Nat} (hp : p < 64) : effLinkClear p s = clearLinkErr p s := by
  have hd : linkDie p = 5 ∨ linkDie p = 6 := by
    unfold linkDie
    omega
  rw [effLinkClear, if_pos hp]
  exact (photOp_hostWriteReady h hd (by omega)).trans (if_pos hp)

end

/-- Settles O33: each clause reads off the state that the lemma about its command gives. -/
theorem clearBitsZeroTheirCounters : Obligations.ClearBitsZeroTheirCounters := by
  unfold Obligations.ClearBitsZeroTheirCounters
  intro s h
  refine ⟨fun core hc hl => ⟨_, answers_of_eq (effMatReplayClear_eq h hc hl), ?_⟩,
    fun core hc hl => ⟨_, answers_of_eq (effVecSatClear_eq h hc hl), ?_⟩, fun cl hc => ⟨_, answers_of_eq (effUpdClear_eq h hc), ?_⟩,
    fun k hk => ⟨_, answers_of_eq (effStackErrClear_eq h hk), ?_⟩,
    fun d hd => ⟨⟨_, answers_of_eq (effFabDropClear_eq h hd), ?_⟩, ⟨_, answers_of_eq (effSatClear_eq h hd), ?_⟩,
      ⟨_, answers_of_eq (effDropClear_eq h hd), ?_⟩, ⟨_, answers_of_eq (effLinksClear_eq h hd), ?_⟩⟩,
    fun p hp => ⟨_, answers_of_eq (effLinkClear_eq h hp), noLinkErrors_clearLinkErr, fun q hq => linkOf_clearLinkErr hq,
      sameData_clearLinkErr⟩,
    fun d p hm => ⟨_, answers_of_eq (effPortClear_eq h hm), ?_⟩,
    ⟨_, answers_of_eq (effClearSag_eq h), rfl, rfl, sameData_units s _ _ _ _⟩,
    ⟨_, answers_of_eq (effClearClamp_eq h), rfl, sameData_units s _ _ _ _⟩,
    fun st hst => ⟨_, answers_of_eq (effClearMisplaced_eq h hst), ?_⟩⟩
  -- a core's replays and saturations (R163, R186)
  · rw [coreOf_setCore_same]
    exact ⟨fun _ => rfl, rfl, sameData_touch.trans (sameData_setCore (by rw [coreOf_touch]))⟩
  · rw [coreOf_setCore_same]
    exact ⟨fun _ => rfl, sameData_touch.trans (sameData_setCore (by rw [coreOf_touch]))⟩
  -- an update engine and a stack (R233, R293)
  · rw [clOf_clearUpd]
    exact ⟨rfl, rfl, rfl, rfl, rfl, sameData_touch.trans (sameData_clearUpd cl _)⟩
  · rw [stackOf_setStack_same]
    exact ⟨rfl, rfl, rfl, rfl, sameData_units s _ _ _ _⟩
  -- a photonic die and its links (R355, R386, R416, R422)
  · rw [photOf_setPhot_same]
    exact ⟨rfl, rfl, rfl, rfl, rfl, sameData_mer⟩
  · rw [photOf_setPhot_same]
    exact ⟨rfl, rfl, sameData_mer⟩
  · rw [photOf_setPhot_same]
    exact ⟨rfl, rfl, rfl, rfl, sameData_mer⟩
  · refine ⟨fun p hp hpd => noLinkErrors_clearLinkErrs ?_ s, fun p _ hpd => linkOf_clearLinkErrs ?_ s, sameData_clearLinkErrs _ s⟩
    · exact mem_upto.2 ⟨hp, decide_eq_true hpd⟩
    · exact fun hm => hpd (of_decide_eq_true (mem_upto.1 hm).2)
  -- a port of a die link and a stream (R459, R61)
  · rw [portOf_setPort_same]
    exact ⟨rfl, rfl, rfl, rfl, sameData_units s _ _ _ _⟩
  · rw [strmOf_setStrm_same]
    exact ⟨rfl, rfl, sameData_units s _ _ _ _⟩

end Sys2Proof.Machine
end

section
/-! PROOF. Family 06_formats_and_recipes.md: the update engine's UPD_START and UPD_COMPLETE (R229, R234, R235). -/

namespace Sys2Proof.Machine

/-! ### The UPD under way -/

/-- A cluster whose update engine takes `u` from the front of its queue, `rest` left in it: `u` is under way, its kernel
and layer are latched, and an upset may alter a plate byte before the parameters are read (R229, R317). -/
def takeUpd (u : UIns) (rest : List UIns) (upset : Option Flt) (c : Cluster) : Cluster :=
  upsetPlates { c with updQ := rest, upd := some u, updKernel := iI0 u.word, updLayer := iI1 u.word % 256 } upset

/-- The parameter block of a UPD read from the plates of its cluster (R229). -/
def updParams (u : UIns) (c : Cluster) : UpdPar := updPar (c.plates.bytes u.c.toNat 320) (iI1 u.word % 256)

section
variable {s : State} {cl : Nat} {u : UIns}

/-- UPD_COMPLETE releases the UPD under way and leaves the engine idle (R235). -/
theorem effUpdComplete_underway (hu : (clOf s cl).upd = some u) :
    effUpdComplete cl s = laneDone cl u.iid 8 (setCl s cl { clOf s cl with upd := none }) := by
  simp only [effUpdComplete, hu]

variable {c : Cluster} {rest : List UIns} {upset : Option Flt} {fs : List UpdFlt}
variable (hq : (clOf s cl).updQ = u :: rest) (hidle : (clOf s cl).upd = none) (hmay : updMayStart (clOf s cl) u = true)
  (hc : takeUpd u rest upset (clOf s cl) = c)
include hq hidle hmay hc

/-- With the engine idle and the oldest UPD free to start, UPD_START makes it the one under way, and what follows depends
only on the lines of its parameter block. -/
theorem effUpdStart_free : effUpdStart cl upset fs s =
    ((lineRange u.c.toNat 320).find? (plateBad c)).elim
      (updGroups (u.b.toNat / 64) cl (updParams u c) u fs 0 (setCl s cl c))
      (fun line => plateError cl line (updTrap cl u 0 1) (setCl s cl c)) := by
  subst hc
  have hfree : ((clOf s cl).upd.isSome || !updMayStart (clOf s cl) u) = false := by rw [hidle, hmay]; rfl
  simp only [effUpdStart, hq, hfree, Bool.false_eq_true, if_false, takeUpd, updParams]
  split
  · next hline => rw [hline, Option.elim_some]
  · next hnone => rw [hnone, Option.elim_none]

/-- With every line of the parameter block good, UPD_START works the UPD's groups from the first on. -/
theorem effUpdStart_goodParams (hgood : ∀ line ∈ lineRange u.c.toNat 320, plateBad c line = false) :
    effUpdStart cl upset fs s = updGroups (u.b.toNat / 64) cl (updParams u c) u fs 0 (setCl s cl c) := by
  have hnone : (lineRange u.c.toNat 320).find? (plateBad c) = none := by simpa using hgood
  rw [effUpdStart_free hq hidle hmay hc, hnone, Option.elim_none]

/-- The first bad line of the parameter block is a plate error, and the UPD traps before its first element. -/
theorem effUpdStart_badParam {line : Nat} (hbad : (lineRange u.c.toNat 320).find? (plateBad c) = some line) :
    effUpdStart cl upset fs s = plateError cl line (updTrap cl u 0 1) (setCl s cl c) := by
  rw [effUpdStart_free hq hidle hmay hc, hbad, Option.elim_some]

end

/-- Settles O30: the branches of UPD_START on its parameter lines, and the one branch of UPD_COMPLETE with a UPD under
way. -/
theorem updatesStartInOrderAndAreReleasedAtTheirEnd : Obligations.UpdatesStartInOrderAndAreReleasedAtTheirEnd := by
  unfold Obligations.UpdatesStartInOrderAndAreReleasedAtTheirEnd
  refine ⟨fun s cl upset fs u rest hq hidle hmay => ⟨fun hgood => ?_, fun line hbad => ?_⟩, fun s cl u hu => ?_⟩
  · exact answers_of_eq (congrArg fabEnd (effUpdStart_goodParams hq hidle hmay rfl hgood))
  · exact answers_of_eq (congrArg fabEnd (effUpdStart_badParam hq hidle hmay rfl hbad))
  · exact answers_of_eq (effUpdComplete_underway hu)

end Sys2Proof.Machine
end

section
/-! PROOF. Family 07_tiers_and_ephemeris.md: layer events, the entries of an ephemeris and the next ephemeris (R261 to
R266): O42. -/

namespace Sys2Proof.Machine

/-! ### LEVENT_RECEIVE (R262, R266) -/

/-- A cluster that takes the LEVENT `u` from the front of its tile queue in the die's step `no`; `rest` is left queued. -/
def takeLevent (u : UIns) (rest : List UIns) (no : Nat) (c : Cluster) : Cluster :=
  { c with mover := rest, levents := c.levents ++ [(u.iid, iI0 u.word, iX u.word 96 2, no)] }

/-- The trigger of the END entry of an ephemeris, which holds the cluster that sends it (R266). -/
def endTrig (e : Eph) : Nat × Nat := eTrig ((e.entries.getLast?).getD [])

/-- A die that has received an event from a cluster of the mask of its ephemeris. -/
def noteLevent (cl : Nat) (e : Eph) (ev ph : Nat) (x : Die) : Die :=
  { x with
    received := if x.received.contains (cl, ev, ph) then x.received else x.received ++ [(cl, ev, ph)]
    held := if endTrig e = (ev, ph) then x.held + 2 ^ (cl % 8) else x.held }

theorem mem_received_noteLevent (cl : Nat) (e : Eph) (ev ph : Nat) (x : Die) :
    (cl, ev, ph) ∈ (noteLevent cl e ev ph x).received := by
  simp only [noteLevent]
  split
  · next h => simpa using h
  · simp

theorem heldCl_iff (x : Die) (cl : Nat) : heldCl x cl = true ↔ x.held / 2 ^ (cl % 8) % 2 = 1 := decide_eq_true_iff

/-- A cluster that is not held becomes held when the event is the trigger of the END entry. -/
theorem heldCl_noteLevent {cl : Nat} {x : Die} (e : Eph) (ev ph : Nat) (h : heldCl x cl = false) :
    heldCl (noteLevent cl e ev ph x) cl = true ↔ endTrig e = (ev, ph) := by
  have h0 : x.held / 2 ^ (cl % 8) % 2 ≠ 1 := decide_eq_false_iff_not.1 h
  have hadd : (x.held + 2 ^ (cl % 8)) / 2 ^ (cl % 8) = x.held / 2 ^ (cl % 8) + 1 :=
    Nat.add_div_right _ (Nat.two_pow_pos _)
  rw [heldCl_iff]
  by_cases he : endTrig e = (ev, ph)
  · simp only [noteLevent, if_pos he, hadd]
    exact iff_of_true (by omega) he
  · simp only [noteLevent, if_neg he]
    exact iff_of_false h0 he

/-- The dies once an event of cluster `cl` has been received: only a cluster of the mask of an ephemeris in force counts. -/
def diesAfterLevent (cl ev ph : Nat) (s : State) : Tab Die :=
  match (dieOf s (cl / 8)).eph with
  | some e => if e.mask / 2 ^ (cl % 8) % 2 = 1 then s.die.put (cl / 8) (noteLevent cl e ev ph (dieOf s (cl / 8))) else s.die
  | none => s.die

section
variable {s : State} {cl : Nat} {e : Eph} (ev ph : Nat)

theorem diesAfterLevent_ofMask (he : (dieOf s (cl / 8)).eph = some e) (hm : e.mask / 2 ^ (cl % 8) % 2 = 1) :
    diesAfterLevent cl ev ph s = s.die.put (cl / 8) (noteLevent cl e ev ph (dieOf s (cl / 8))) := by
  simp only [diesAfterLevent, he, if_pos hm]

theorem diesAfterLevent_offMask (he : (dieOf s (cl / 8)).eph = some e) (hm : e.mask / 2 ^ (cl % 8) % 2 ≠ 1) :
    diesAfterLevent cl ev ph s = s.die := by
  simp only [diesAfterLevent, he, if_neg hm]

theorem diesAfterLevent_noEph (he : (dieOf s (cl / 8)).eph = none) : diesAfterLevent cl ev ph s = s.die := by
  simp only [diesAfterLevent, he]

end

/-- The LEVENT at the head of the tile queue of a cluster that is not held is taken; only the cluster and the dies
change. -/
theorem effLeventReceive_eq {s : State} {cl : Nat} {u : UIns} {rest : List UIns} (hcl : cl < 32)
    (hq : (clOf s cl).mover = u :: rest) (hop : iOp u.word = 4) (hfree : heldCl (dieOf s (cl / 8)) cl = false) :
    effLeventReceive cl s = { setCl s cl (takeLevent u rest (dieOf s (cl / 8)).stepNo (clOf s cl)) with
      die := diesAfterLevent cl (iI0 u.word) (iX u.word 96 2) s } := by
  have hgo : cl < 32 ∧ iOp u.word = 4 ∧ (!heldCl (dieOf s (cl / 8)) cl) = true := ⟨hcl, hop, by rw [hfree]; rfl⟩
  obtain he | ⟨e, he⟩ := Option.eq_none_or_eq_some (dieOf s (cl / 8)).eph
  · simp only [effLeventReceive, hq, if_pos hgo, he, diesAfterLevent_noEph _ _ he]
    rfl
  · by_cases hm : e.mask / 2 ^ (cl % 8) % 2 = 1
    · simp only [effLeventReceive, hq, if_pos hgo, he, if_pos hm, diesAfterLevent_ofMask _ _ he hm, noteLevent, endTrig]
      rfl
    · simp only [effLeventReceive, hq, if_pos hgo, he, if_neg hm, diesAfterLevent_offMask _ _ he hm]
      rfl

/-! ### EVENT_FIRE (R262) -/

/-- An event that every cluster of the mask has sent fires. -/
theorem effEventFire_eq {s : State} {d ev ph : Nat} {e : Eph} (hd : d < 4) (he : (dieOf s d).eph = some e)
    (hnew : (ev, ph) ∉ (dieOf s d).fired) (hall : ∀ c ∈ maskLanes e.mask, (8 * d + c, ev, ph) ∈ (dieOf s d).received) :
    effEventFire d ev ph s
      = setDie s d { dieOf s d with fired := (dieOf s d).fired ++ [(ev, ph)], lastEvent := ev, lastPhase := ph } := by
  have hgo : d < 4 ∧ (!(dieOf s d).fired.contains (ev, ph)) = true
      ∧ ((maskLanes e.mask).all fun c => (dieOf s d).received.contains (8 * d + c, ev, ph)) = true :=
    ⟨hd, by simpa using hnew, by simpa using hall⟩
  simp only [effEventFire, he, if_pos hgo]

/-! ### ENTRY_ISSUE (R263, R266) -/

/-- A read of HBM leaves dies, clusters, cores and hub tokens. -/
theorem ReadsHbm.units {s t : State} (h : ReadsHbm s t) : t.die = s.die ∧ t.cl = s.cl ∧ t.core = s.core ∧ t.tok = s.tok := by
  obtain ⟨_, _, _, _, _, rfl⟩ := h
  exact ⟨rfl, rfl, rfl, rfl⟩

/-- The records of an entry, and the state in which its list has been read; an entry without records reads none. -/
def entryRecords (hs : List Hit) (en : List W32) (s : State) : List (Option (List W32 × W32) × Nat) × State :=
  if eCount en = 0 then ([], s) else readList hs (eAddr en) (eCount en) s

theorem entryRecords_read (hs : List Hit) {en : List W32} (s : State) (h : eCount en ≠ 0) :
    entryRecords hs en s = readList hs (eAddr en) (eCount en) s := if_neg h

theorem readsHbm_entryRecords (hs : List Hit) (en : List W32) (s : State) : ReadsHbm s (entryRecords hs en s).2 := by
  unfold entryRecords
  split
  · exact .refl s
  · exact readsHbm_readList _ _ _ s

/-- The run of an entry that is issued, with its records. -/
def entryRun (e : Eph) (en : List W32) (todo : List (Option (List W32 × W32) × Nat)) (x : Die) : EphRun :=
  { no := x.ldgClock, idx := x.cursor, mask := e.mask, need := eNeed en
    concerns := (todo.map (fun m => concernsOf m.1)).foldl Nat.lor 0, todo := todo, left := eCount en }

/-- A die that issues the entry at its cursor. -/
def issueEntry (e : Eph) (en : List W32) (todo : List (Option (List W32 × W32) × Nat)) (x : Die) : Die :=
  { x with
    ldgClock := x.ldgClock + 1
    runs := if eCount en = 0 then x.runs else x.runs ++ [entryRun e en todo x]
    cursor := x.cursor + 1 }

/-- A die at the end of its step, once the END entry is issued (R266). -/
def endStep (x : Die) : Die :=
  { x with
    cursor := 0, fired := [], received := [], step := (x.step + 1) % 2 ^ 24, stepNo := x.stepNo + 1
    endIssued := !x.ephNext.isEmpty
    held := if (!x.ephNext.isEmpty) = true then x.held else 0 }

theorem mem_runs_issueEntry {e : Eph} {en : List W32} {todo : List (Option (List W32 × W32) × Nat)} {x : Die}
    (h : eCount en ≠ 0) : entryRun e en todo x ∈ (issueEntry e en todo x).runs := by
  simp [issueEntry, h]

/-- The entry at the cursor is issued once its trigger has fired and nothing holds it. -/
theorem effEntryIssue_eq {s : State} {d : Nat} (hs : List Hit) {e : Eph} {en : List W32} (hd : d < 4)
    (he : (dieOf s d).eph = some e) (hcur : e.entries[(dieOf s d).cursor]? = some en) (hrun : (dieOf s d).ephState ≠ 3)
    (hopen : (dieOf s d).endIssued = false) (htrig : eTrig en ∈ (dieOf s d).fired)
    (hmem : inSelfRefresh s (sectorsOf (eAddr en) (64 * eCount en)) = false) (hsag : prefetchHeld s d e.mask en = false) :
    effEntryIssue d hs s = setDie (entryRecords hs en s).2 d
      (if eEnd en then endStep (issueEntry e en (entryRecords hs en s).1 (dieOf s d))
        else issueEntry e en (entryRecords hs en s).1 (dieOf s d)) := by
  have hgo : d < 4 ∧ (dieOf s d).ephState ≠ 3 ∧ (!(dieOf s d).endIssued) = true ∧ (dieOf s d).fired.contains (eTrig en) = true
      ∧ (!inSelfRefresh s (sectorsOf (eAddr en) (64 * eCount en))) = true ∧ (!prefetchHeld s d e.mask en) = true :=
    ⟨hd, hrun, by rw [hopen]; rfl, by simpa using htrig, by rw [hmem]; rfl, by rw [hsag]; rfl⟩
  have hdie : dieOf (entryRecords hs en s).2 d = dieOf s d := by
    rw [dieOf, dieOf, (readsHbm_entryRecords hs en s).units.1]
  simp only [effEntryIssue, he, hcur, if_pos hgo]
  rw [show (if eCount en = 0 then ([], s) else readList hs (eAddr en) (eCount en) s) = entryRecords hs en s from rfl, hdie]
  exact (apply_ite (setDie (entryRecords hs en s).2 d) _ _ _).symm

/-! ### LEVENT_RELEASE and EPHEMERIS_TAKE (R261, R264) -/

/-- A received LEVENT on which no need waits any more is released. -/
theorem effLeventRelease_eq {s : State} {cl iid ev ph no : Nat} (hcl : cl < 32)
    (hl : (clOf s cl).levents.find? (fun l => l.1 = iid) = some (iid, ev, ph, no))
    (hfree : needWaits (dieOf s (cl / 8)) cl ev ph no = false) : effLeventRelease cl iid s
      = laneDone cl iid 8 (setCl s cl { clOf s cl with levents := (clOf s cl).levents.filter (fun k => decide (k.1 ≠ iid)) }) := by
  simp only [effLeventRelease, hl, hfree]
  exact if_pos ⟨hcl, rfl⟩

/-- A die that begins the ephemeris `e`, with `more` left to be taken; runs of the one before have no entry in it. -/
def beginEph (e : Eph) (more : List (Eph × Nat)) (x : Die) : Die :=
  { x with
    eph := some e, ephNext := more, cursor := 0, fired := [], received := [], endIssued := false, step := e.stepStart
    stepNo := x.stepNo + 1, held := 0, ephState := 1, failedEntry := 0xFFFF
    runs := x.runs.map (fun r => { r with idx := 0xFFFF, need := none }) }

/-- The oldest checked ephemeris begins once none is in force, the one in force has halted or its END is issued. -/
theorem effEphemerisTake_eq {s : State} {d no : Nat} {e : Eph} {more : List (Eph × Nat)} (hd : d < 4)
    (hn : (dieOf s d).ephNext = (e, no) :: more)
    (hfree : (dieOf s d).eph = none ∨ (dieOf s d).ephState = 3 ∨ (dieOf s d).endIssued = true) :
    effEphemerisTake d s = completeCmd no .done (setDie s d (beginEph e more (dieOf s d))) := by
  have hgo : d < 4 ∧ ((dieOf s d).eph.isNone = true ∨ (dieOf s d).ephState = 3 ∨ (dieOf s d).endIssued = true) :=
    ⟨hd, hfree.imp_left Option.isNone_iff_eq_none.2⟩
  simp only [effEphemerisTake, hn, if_pos hgo]
  rfl

/-- Settles O42: each clause is the equation of its event, read off field by field. -/
theorem layerEventsFireAndReleaseClusters : Obligations.LayerEventsFireAndReleaseClusters := by
  unfold Obligations.LayerEventsFireAndReleaseClusters
  refine ⟨fun s cl u rest hcl hq hop hfree => ?_, fun s d ev ph e hd he hnew hall => answers_of_eq (effEventFire_eq hd he hnew hall),
    fun s d hs e en hd he hcur hrun hopen htrig hmem hsag => ?_,
    fun s cl iid ev ph no hcl hl hfree => answers_of_eq (effLeventRelease_eq hcl hl hfree),
    fun s d no e more hd hn hfree => ?_⟩
  case refine_1 =>
    refine ⟨_, answers_of_eq (effLeventReceive_eq hcl hq hop hfree), clOf_setCl_same s cl _, fun e he hm => ?_,
      fun e he hm => diesAfterLevent_offMask _ _ he hm, fun he => diesAfterLevent_noEph _ _ he, rfl, rfl, rfl⟩
    simp only [dieOf, diesAfterLevent_ofMask _ _ he hm, Tab.get_put_same]
    exact ⟨mem_received_noteLevent _ _ _ _ _, heldCl_noteLevent _ _ _ hfree⟩
  case refine_2 =>
    obtain ⟨-, hkcl, hkcore, hktok⟩ := (readsHbm_entryRecords hs en s).units
    refine ⟨_, answers_of_eq (effEntryIssue_eq hs hd he hcur hrun hopen htrig hmem hsag), fun hn => ?_, fun hend => ?_,
      fun hend => ?_, hkcl, hkcore, hktok⟩ <;> rw [dieOf_setDie_same]
    · refine ⟨entryRun e en (entryRecords hs en s).1 (dieOf s d), ?_, rfl, rfl, congrArg Prod.fst (entryRecords_read hs s hn)⟩
      exact ite_of (P := fun x : Die => _ ∈ x.runs) (mem_runs_issueEntry hn) (mem_runs_issueEntry hn)
    · rw [hend]
      exact ⟨rfl, rfl, rfl⟩
    · rw [hend]
      exact ⟨rfl, rfl, rfl, rfl⟩
  case refine_3 =>
    refine ⟨_, answers_of_eq (effEphemerisTake_eq hd hn hfree), ?_⟩
    rw [dieOf_setDie_same]
    exact ⟨rfl, rfl, rfl, rfl, rfl, rfl, rfl, rfl, rfl, rfl⟩

end Sys2Proof.Machine
end

section
/-! PROOF. Family 07_tiers_and_ephemeris.md: moves from the acceptance of their record to the end of their landing or their
recovery (R255 to R258, R271 to R276, R318): O43. -/

namespace Sys2Proof.Machine

/-! ### Acceptance (R255) -/

/-- The source whose turn it is is served. -/
theorem effLedgerAccept_picked {s : State} {d k : Nat} {late : List Nat} (hs : List Hit) (hd : d < 4) (hsag : s.pwr.sagStage < 5)
    (hk : pickSource s d late = some k) {u : State} (hu : u = setDie s d { dieOf s d with rrLast := k }) :
    effLedgerAccept d late hs s = ledgerGo (if k = 0 then acceptEph d u else if k ≤ 8 then acceptTmove d (8 * d + k - 1) hs u
      else if k = 9 then acceptCmd d u else acceptRead d (k - 10) u) := by
  subst hu
  have hgo : ¬ (4 ≤ d ∨ 5 ≤ s.pwr.sagStage) := by omega
  simp only [effLedgerAccept, if_neg hgo, hk]

/-- The request that a record becomes at its acceptance (R248, R251, R253). -/
def recordReq (d : Nat) (i : Issuer) (before : Nat) (w : List W32) (ctl : W32) (idx : Nat) (s : State) : Req where
  issuer := i
  idx := idx
  w := w.take 8
  ctl := ctl
  ver := moveVer s d w
  act := if (ctlAct ctl && !keepLayer s d (ctlLayer ctl)) && ctlAction ctl = 4 then 6 else ctlAction ctl
  lanes := Nat.land (ctlLanes ctl) (laneMask (clOf s (8 * d + ctlCluster ctl)))
  before := before
  stamp := 0
  room := false

section
variable {s : State} {mask : Option Nat} {w : List W32} {ctl : W32} (d : Nat) (i : Issuer) (before idx : Nat)

/-- A record that breaks R255 ends BAD_REQUEST. -/
theorem acceptRecord_illegal (h : recordOk s mask w ctl = false) :
    acceptRecord d i mask before (some (w, ctl)) idx s = endReq (recordReq d i before w ctl idx s) 5 s :=
  if_pos (by rw [h]; rfl)

/-- A legal record of a failed mover ends FAILED. -/
theorem acceptRecord_failedMover (h : recordOk s mask w ctl = true) (hm : (dieOf s d).mover.st = 2) :
    acceptRecord d i mask before (some (w, ctl)) idx s = endReq (recordReq d i before w ctl idx s) 2 s :=
  (if_neg (by rw [h]; decide)).trans (if_pos hm)

end

/-! ### The end of a source read (R271, R279) -/

/-- A move of a compute die goes on when no stack in self-refresh holds it (R301). -/
theorem not_held {d : Nat} {held : Bool} (hd : d < 4) (h : held = false) : ¬ (d ≥ 4 ∨ held = true) := by simp [hd, h]

section
variable {s u : State} {d i d' i' t : Nat} {hs : List Hit} {e : LEntry} {v : W32} (hd : d < 4) (hu : u = stageDie d s)
  (hfree : readHeld u d i = false) (he : entryOf (hitHbm hs u) d i = some e)
include hd hu hfree he

section
variable {ls : List (List Byte × Nat)} (hread : readNow (hitHbm hs u) d i = some (.lines ls, (d', i'), t, v))
include hread

/-- The lines of a fill are staged, and its source is read no longer. -/
theorem effSourceReadEnd_fill (hf : e.fill = true) : effSourceReadEnd d i hs s = ledgerGo
    ((if t = 3 then clearStaged d i else dropRead d' i') (setEntry d { e with staged := some ls, src := .none } (hitHbm hs u))) := by
  subst hu
  simp only [effSourceReadEnd, if_neg (not_held hd hfree), hread, he, if_pos hf]
  split <;> rfl

/-- A copy that goes to flash begins its Writes. -/
theorem effSourceReadEnd_flash {r : Req} (hf : e.fill = false) (hr : drainOf (hitHbm hs u) d e = some r) :
    effSourceReadEnd d i hs s = drainFlash d e r ls (hitHbm hs u) := by
  subst hu
  simp only [effSourceReadEnd, if_neg (not_held hd hfree), hread, he, if_neg (Bool.eq_false_iff.1 hf), hr]

end

/-- With every failing sector among the first `issued` of the source, which begins at sector `first`, all are recorded and
the entry that holds the source runs its recovery (R274). -/
theorem effSourceError_recovers {first issued : Nat} {bad : List (Nat × Nat)} {f : LEntry}
    (hread : readNow (hitHbm hs u) d i = some (.sectors bad, (d', i'), t, v))
    (hentry : ∀ q a b, e.src = .entry q a b → ∃ g, entryOf (hitHbm hs u) a b = some g ∧ first = g.addr / 64)
    (hown : (∀ q a b, e.src ≠ .entry q a b) → first = e.addr / 64) (hbad : t ≠ 3 → bad ≠ [])
    (hissued : ∀ p ∈ bad, p.1 < first + issued) (hf : entryOf (recordBad bad v e.tile (hitHbm hs u)) d' i' = some f) :
    effSourceError d i issued hs s = ledgerGo (recover d' f t (recordBad bad v e.tile (hitHbm hs u))) := by
  subst hu
  have hall : bad.filter (fun p => decide (p.1 < first + issued)) = bad := List.filter_eq_self.2 (by simpa using hissued)
  have hsome : ¬ (t ≠ 3 ∧ bad = []) := fun h => hbad h.1 h.2
  simp only [effSourceError, if_neg (not_held hd hfree), hread, he]
  cases hsrc : e.src with
  | entry q a b =>
    obtain ⟨g, hg, rfl⟩ := hentry q a b hsrc
    simp only [hg, Option.map_some, Option.getD_some, hall, if_neg hsome, hf]
  | flash =>
    obtain rfl := hown (by simp [hsrc])
    simp only [hall, if_neg hsome, hf]
  | none =>
    obtain rfl := hown (by simp [hsrc])
    simp only [hall, if_neg hsome, hf]

end

/-! ### Landings of the tile mover (R258, R272, R318) -/

section
variable {bad : List Nat} {n : Nat} (d addr src : Nat) (land fail : State → State) (s : State)

theorem moverLand_lands (h : lostLine bad n = none) :
    moverLand d addr n src bad land fail s = land (countMoverRepeat d (moreMoves (movedBad bad n)) s) := by
  simp only [moverLand, h]

/-- A line whose landing failed three times is the one that the mover's record names. -/
theorem moverLand_fails {k : Nat} (h : lostLine bad n = some k) : moverLand d addr n src bad land fail s
    = fail (moverFails d (addr / 64 + k) src (countMoverRepeat d (moreMoves (movedBad bad n)) s)) := by
  simp only [moverLand, h]

end

/-- FILL_END of a fill whose lines are staged is a landing in its tier. -/
theorem effFillEnd_staged {s : State} {d i : Nat} (bad : List Nat) {e : LEntry} {ls : List (List Byte × Nat)} (hd : d < 4)
    (he : entryOf s d i = some e) (hl : e.staged = some ls) (hf : e.fill = true) (hrec : e.recov = 0)
    (hmem : inSelfRefresh s (copySectors e) = false) :
    effFillEnd d i bad s = ledgerGo (moverLand d e.addr ls.length ((tierBelow e.desc e.tier).getD 3) bad
      (fun s => fillDone d e (if e.recovered = true then 1 else 0) (landTier d e.tier e.cl e.lanes e.addr e.ver ls s))
      (failTile d i 2) s) := by
  have hgo : ¬ (d ≥ 4 ∨ (!e.fill) = true ∨ e.recov ≠ 0 ∨ inSelfRefresh s (copySectors e) = true) := by simp [hd, hf, hrec, hmem]
  simp only [effFillEnd, he, hl, if_neg hgo]

/-- A tier from HBM on is written as HBM. -/
theorem landTier_hbm {t : Nat} (h : 2 ≤ t) (d cl lanes addr : Nat) (v : W32) (ls : List (List Byte × Nat)) (s : State) :
    landTier d t cl lanes addr v ls s = landHbm addr v ls s := by
  match t, h with
  | _ + 2, _ => rfl

/-- One line lands as the write of its sector. -/
theorem landHbm_line (n : Nat) (v : W32) (data : List Byte) (tag : Nat) (s : State) :
    landHbm (64 * n) v [(data, tag)] s = writeSector n data v tag s := by
  have hn : 64 * n / 64 + 0 = n := by omega
  simp only [landHbm, List.zipIdx_cons, List.zipIdx_nil, List.foldl_cons, List.foldl_nil, hn]

/-! ### The end of a drain (R258, R272, R274) -/

/-- The outcome of a drain that reaches its target: RECOVERED when it waited on a recovery of its copy. -/
def drainOut (e : LEntry) : Nat :=
  if (e.state = .draining ∧ e.evRec = true) ∨ (e.state ≠ .draining ∧ 0 < e.wbRec) then 1 else 0

theorem drainOut_eq (e : LEntry) :
    (if (if e.state = .draining then e.evRec else decide (0 < e.wbRec)) = true then 1 else 0) = drainOut e := by
  by_cases h : e.state = .draining <;> simp [drainOut, h]

/-- A drain with its staging ends once no move reads the copy that goes away. -/
theorem drain_mayEnd {d : Nat} {e : LEntry} (hd : d < 4) (hreads : e.state = .draining → e.reads = 0) (hstage : e.stage = true) :
    ¬ (d ≥ 4 ∨ (e.state = .draining ∧ e.reads ≠ 0) ∨ (!e.stage) = true) := by
  simpa [hd, hstage] using hreads

section
variable {s u : State} {d i : Nat} {e : LEntry} {r : Req} (bad : List Nat) (hd : d < 4) (hu : u = stageDie d s)
  (he : entryOf u d i = some e) (hr : drainOf u d e = some r) (hreads : e.state = .draining → e.reads = 0)
  (hstage : e.stage = true)
include hd hu he hr hreads hstage

/-- A drain to flash ends with the last of its Writes. -/
theorem effDrainEnd_flash (ht : drainTo e r = 3) (hrun : e.wbRun = true) (hall : ∀ c ∈ u.stp.cmds, c.use ≠ .tile d i true) :
    effDrainEnd d i bad s = ledgerGo (drainDone d e (drainOut e) u) := by
  subst hu
  have hdone : e.wbRun = true ∧ ((stageDie d s).stp.cmds.all fun c => decide (c.use ≠ .tile d i true)) = true :=
    ⟨hrun, by simpa using hall⟩
  simp only [effDrainEnd, he, hr, if_neg (drain_mayEnd hd hreads hstage), if_pos ht, if_pos hdone, drainOut_eq]

/-- A drain whose copy reads good is a landing in its target. -/
theorem effDrainEnd_lands {ls : List (List Byte × Nat)} (ht : drainTo e r ≠ 3)
    (hmem : drainTo e r = 2 → inSelfRefresh u ((List.range (dLines e.desc)).map (fun k => dAddr r.w 2 / 64 + k)) = false)
    (hread : readCopy u d e r = .lines ls) :
    effDrainEnd d i bad s = ledgerGo (moverLand d (dAddr r.w (drainTo e r)) ls.length e.tier bad
      (fun s => drainDone d e (drainOut e)
        (landTier d (drainTo e r) (ctlCluster r.ctl) 0 (dAddr r.w (drainTo e r)) r.ver ls s)) (drainDone d e 2) u) := by
  subst hu
  have hfree : ¬ (drainTo e r = 2 ∧ inSelfRefresh (stageDie d s)
      ((List.range (dLines e.desc)).map (fun k => dAddr r.w (drainTo e r) / 64 + k)) = true) := by
    rintro ⟨h2, h⟩
    rw [h2, hmem h2] at h
    exact Bool.false_ne_true h
  simp only [effDrainEnd, he, hr, if_neg (drain_mayEnd hd hreads hstage), if_neg ht, if_neg hfree, hread, drainOut_eq]

end

/-! ### The end of a recovery (R274, R276) -/

section
variable {s : State} {d i : Nat} (hs : List Hit) {e : LEntry} (hd : d < 4) (he : entryOf s d i = some e)
include hd he

section
variable (hmem : inSelfRefresh s ((List.range (dLines e.desc)).map (fun k => dAddr e.desc 2 / 64 + k)) = false)
include hmem

/-- A recovery that obtained nothing usable fails. -/
theorem effRecoveryEnd_nothing (ho : obtained s d e = some none) :
    effRecoveryEnd d i hs s = ledgerGo (recoveryFails d e 2 (clearStaged d i s)) := by
  simp only [effRecoveryEnd, he, if_neg (not_held hd hmem), ho]

variable {ls : List (List Byte × Nat)} {v : W32} {u : State} (ho : obtained s d e = some (some (ls, v)))
  (hu : u = hitHbm hs (if e.recov = 5 then clearStaged d i s else landHbm (dAddr e.desc 2) v ls (clearStaged d i s)))
include ho hu

/-- One whose copy rereads good succeeds. -/
theorem effRecoveryEnd_good {m : List (List Byte × Nat)} (hm : readHbm u (dAddr e.desc 2) (dLines e.desc) e.ver = .lines m) :
    effRecoveryEnd d i hs s = ledgerGo (recoverySucceeds d e u) := by
  subst hu
  simp only [effRecoveryEnd, he, if_neg (not_held hd hmem), ho, hm]

/-- One whose copy rereads with failing sectors fails. -/
theorem effRecoveryEnd_bad {bad : List (Nat × Nat)} (hb : readHbm u (dAddr e.desc 2) (dLines e.desc) e.ver = .sectors bad) :
    effRecoveryEnd d i hs s = ledgerGo (recoveryFails d e 2 (recordBad bad e.ver e.tile u)) := by
  subst hu
  simp only [effRecoveryEnd, he, if_neg (not_held hd hmem), ho, hb]

end

/-- A HOST recovery that times out fails. -/
theorem effResupplyTimeout_waiting (hhost : e.recov = 5) (hwait : e.supplied = false) :
    effResupplyTimeout d i s = ledgerGo (recoveryFails d e 2 s) := by
  have hgo : d < 4 ∧ e.recov = 5 ∧ (!e.supplied) = true := ⟨hd, hhost, by rw [hwait]; rfl⟩
  simp only [effResupplyTimeout, he, if_pos hgo]

end

/-- LDG_RESUPPLY as it is written for an entry (Table 7.13). -/
def resupplyValue (i : Nat) (supplied : Bool) : W64 := BitVec.ofNat 64 (at_ i 0 11 + at_ (b2n supplied) 16 1)

theorem resupplyValue_entry {i : Nat} (h : i < 2048) (supplied : Bool) : fld (resupplyValue i supplied) 0 11 = i := by
  cases supplied <;> simp [fld, resupplyValue, at_, b2n] <;> omega

theorem resupplyValue_supplied (i : Nat) (supplied : Bool) : bit (resupplyValue i supplied) 16 = supplied := by
  simp only [bit, resupplyValue, BitVec.getLsbD_ofNat, Nat.testBit_eq_decide_div_mod_eq]
  cases supplied <;> simp [at_, b2n] <;> omega

/-- From a host that reaches the package the register supplies a waiting HOST recovery or fails it. -/
theorem effLdgResupply_waiting {s : State} {d i : Nat} {e : LEntry} (hd : d < 4) (he : entryOf s d i = some e)
    (hhost : e.recov = 5) (hwait : e.supplied = false) (h : HostReaches s) (hi : i < 2048) (supplied : Bool) :
    effLdgResupply d i supplied s
      = if supplied = true then setEntry d { e with supplied := true } s else ledgerGo (recoveryFails d e 2 s) := by
  have hgo : e.recov = 5 ∧ (!e.supplied) = true := ⟨hhost, by rw [hwait]; rfl⟩
  have hw : effLdgResupply d i supplied s = resupplyWrite d 4 (resupplyValue i supplied) s :=
    (if_pos hd).trans (window_die (y := 0x810010) h (by omega) hd (by omega) (by omega))
  rw [hw]
  simp only [resupplyWrite, resupplyValue_entry hi, resupplyValue_supplied, he, if_pos hgo]

/-- Settles O43: each clause is the equation of its event in the case that the clause gives. -/
theorem movesRunFromAcceptanceToTheirEnd : Obligations.MovesRunFromAcceptanceToTheirEnd := by
  unfold Obligations.MovesRunFromAcceptanceToTheirEnd
  refine ⟨fun s d k late hs hd hsag hk => ?accept,
    fun s u d i d' i' t hs e ls v hd hu hfree hread he => ⟨fun hf => answers_of_eq (effSourceReadEnd_fill hd hu hfree he hread hf),
      fun r hf hr => answers_of_eq (effSourceReadEnd_flash hd hu hfree he hread hf hr)⟩,
    fun s d i bad e ls hd he hl hf hrec hmem => ?fill,
    fun s u d i bad e r out hd hu he hr hreads hstage hout => ?drain,
    fun s u d i d' i' t first issued hs e f bad v hd hu hfree hread he hentry hown hbad hissued hf =>
      answers_of_eq (effSourceError_recovers hd hu hfree he hread hentry hown hbad hissued hf),
    fun s d i hs e hd he hmem => ⟨fun ho => answers_of_eq (effRecoveryEnd_nothing hs hd he hmem ho), fun ls v u ho hu =>
      ⟨fun m hm => answers_of_eq (effRecoveryEnd_good hs hd he hmem ho hu hm),
        fun bad hb => answers_of_eq (effRecoveryEnd_bad hs hd he hmem ho hu hb)⟩⟩,
    fun s d i e hd he hhost hwait => ⟨answers_of_eq (effResupplyTimeout_waiting hd he hhost hwait), fun h hi =>
      ⟨answers_of_eq (effLdgResupply_waiting hd he hhost hwait h hi true),
        answers_of_eq (effLdgResupply_waiting hd he hhost hwait h hi false)⟩⟩⟩
  case accept =>
    exact ⟨_, rfl, answers_of_eq (congrArg (ungateTiles d) (effLedgerAccept_picked hs hd hsag hk rfl)),
      fun i mask before w ctl idx hbad => ⟨recordReq d i before w ctl idx _, rfl, rfl, rfl,
        acceptRecord_illegal d i before idx hbad⟩,
      fun i mask before w ctl idx hok hm => ⟨recordReq d i before w ctl idx _, rfl, rfl, rfl,
        acceptRecord_failedMover d i before idx hok hm⟩⟩
  case fill =>
    have hend := effFillEnd_staged bad hd he hl hf hrec hmem
    refine ⟨fun hnone => answers_of_eq (hend.trans (congrArg ledgerGo (moverLand_lands _ _ _ _ _ _ hnone))),
      fun n hn => answers_of_eq (hend.trans (congrArg ledgerGo (moverLand_fails _ _ _ _ _ _ hn))),
      fun n data tag hls hlen hwf hkept htier => ?_⟩
    subst hls
    rw [landTier_hbm htier, landHbm_line]
    exact ⟨sectorData_writeSector _ _ hwf hlen hkept, sectorCk_writeSector _ _ _ hkept⟩
  case drain =>
    obtain rfl : out = drainOut e := hout
    refine ⟨fun ht hrun hall => answers_of_eq (effDrainEnd_flash bad hd hu he hr hreads hstage ht hrun hall),
      fun ls ht hmem hread => ?_⟩
    have hend := effDrainEnd_lands bad hd hu he hr hreads hstage ht hmem hread
    exact ⟨fun hnone => answers_of_eq (hend.trans (congrArg ledgerGo (moverLand_lands _ _ _ _ _ _ hnone))),
      fun n hn => answers_of_eq (hend.trans (congrArg ledgerGo (moverLand_fails _ _ _ _ _ _ hn)))⟩

end Sys2Proof.Machine
end

section
/-! PROOF. Family 08_hbm_and_storage_port.md: the accesses of HBM that no tile tracks, its parity replays, the temperatures of
its stacks and the end of an access held for self-refresh (R292, R296, R297, R301 to R305): O44. -/

namespace Sys2Proof.Machine

/-- A byte range that is one sector covers that sector. -/
theorem sectorsOf_sector (n : Nat) : sectorsOf (64 * n) 64 = [n] := by
  have hfirst : 64 * n / 64 = n := by omega
  have hlast : (64 * n + 64 - 1) / 64 = n := by omega
  rw [sectorsOf, if_neg (by decide), hfirst, hlast, Nat.sub_self]
  rfl

/-! ### The frame of a sector write (R292) -/

section
variable (s : State) (n : Nat) (data : List Byte) (v : W32) (tag : Nat)

/-- The bytes of the other sectors stay. -/
theorem read_writeSector_other {a : Nat} (hwf : s.hbm.wf = true) (hlen : data.length = 64)
    (ha : a < 64 * n ∨ 64 * n + 64 ≤ a) : (writeSector n data v tag s).hbm.read a = s.hbm.read a := by
  have hout : ¬ (64 * n ≤ a ∧ a < 64 * n + data.length) := by omega
  rw [writeSector_hbm]
  split
  · rfl
  · rw [Mem.read_writes hwf, if_neg hout]

/-- So do their check words. -/
theorem sectorCk_writeSector_other {m : Nat} (hm : m ≠ n) : sectorCk (writeSector n data v tag s) m = sectorCk s m := by
  rw [sectorCk, writeSector_hbmCk]
  split
  · rfl
  · exact Tab.get_put_other _ _ _ hm

/-- A sector write leaves clusters, cores, hub tokens, dies and records. -/
theorem writeSector_units : (writeSector n data v tag s).cl = s.cl ∧ (writeSector n data v tag s).core = s.core
    ∧ (writeSector n data v tag s).tok = s.tok ∧ (writeSector n data v tag s).die = s.die
    ∧ (writeSector n data v tag s).recs = s.recs := by
  unfold writeSector
  split <;> exact ⟨rfl, rfl, rfl, rfl, rfl⟩

end

/-! ### BAR2 reads (R302, R303, R304) -/

/-- A BAR2 read of a host that reaches the package, with no stack that it needs in self-refresh, returns. -/
theorem effBar2Read_awake {s : State} {off len : Nat} (hs : List Hit) (h : HostReaches s)
    (hwin : off + len ≤ 2 ^ s.pci.bar2Log2)
    (hawake : inSelfRefresh s (sectorsOf (bar2Addr s off) (min len (hbmEnd - bar2Addr s off))) = false) :
    effBar2Read off len hs s = bar2Return hs (bar2Addr s off) len s := by
  rw [effBar2Read, hostRead_of_reaches h, if_neg (Nat.not_lt.2 hwin)]
  simp only [h.ready, hawake]
  rfl

section
variable {addr len : Nat} (hend : addr + len ≤ hbmEnd)
include hend

/-- The bytes that a range below the end of HBM returns are those of HBM. -/
theorem map_read_below (m : Mem) :
    (List.range len).map (fun i => if addr + i < hbmEnd then m.read (addr + i) else 0) = m.bytes addr len :=
  List.map_congr_left fun i hi => if_pos (by have := List.mem_range.1 hi; omega)

/-- The whole of such a range is read. -/
theorem min_len_below : min len (hbmEnd - addr) = len := by omega

variable {s : State} {hs : List Hit}

/-- A read whose sectors all pass returns their bytes. -/
theorem bar2Return_passes (hr : (readUntracked 3 (sectorsOf addr len) (hitHbm hs s)).1 = []) :
    bar2Return hs addr len s = emit (.memData ((hitHbm hs s).hbm.bytes addr len) false)
      (readUntracked 3 (sectorsOf addr len) (hitHbm hs s)).2 := by
  simp only [bar2Return, min_len_below hend, map_read_below hend, if_pos hr]

/-- A read with a failing sector returns them poisoned, and is counted. -/
theorem bar2Return_fails (hr : (readUntracked 3 (sectorsOf addr len) (hitHbm hs s)).1 ≠ []) {u : State}
    (hu : u = (readUntracked 3 (sectorsOf addr len) (hitHbm hs s)).2) :
    bar2Return hs addr len s = emit (.memData ((hitHbm hs s).hbm.bytes addr len) true)
      { u with xferPoisoned := satInc 0xFFFFFFFF u.xferPoisoned } := by
  subst hu
  simp only [bar2Return, min_len_below hend, map_read_below hend, if_neg hr]

end

/-! ### BAR2 writes of one sector (R292, R302, R303) -/

theorem bar2Sectors_nil (k addr : Nat) (s : State) : bar2Sectors k addr [] s = s := by
  cases k with
  | zero => rfl
  | succ k => exact if_pos rfl

section
variable {n : Nat} {data : List Byte} (hlen : data.length = 64)
include hlen

/-- The bytes of one sector are written at once, and nothing is left after them. -/
theorem bar2Sectors_sector (k : Nat) (s : State) :
    bar2Sectors (k + 1) (64 * n) data s = writeSector n data s.xferVtag s.xferStag s := by
  have hne : data ≠ [] := List.ne_nil_of_length_pos (by omega)
  have hn : 64 * n / 64 = n := by omega
  simp only [bar2Sectors, if_neg hne, Nat.mul_mod_right, Nat.sub_zero, List.take_of_length_le (Nat.le_of_eq hlen),
    List.drop_of_length_le (Nat.le_of_eq hlen), bar2Sectors_nil, bar2Sector, if_pos hlen, hn]

variable {s : State} {off : Nat} (haddr : bar2Addr s off = 64 * n) (hend : 64 * n + 64 ≤ hbmEnd)
include haddr hend

/-- A BAR2 write that is one sector replaces it under VTAG and STAG. -/
theorem bar2Store_sector : bar2Store [] off data s = writeSector n data s.xferVtag s.xferStag s := by
  have htake : data.take (hbmEnd - 64 * n) = data := List.take_of_length_le (by omega)
  have hfit : 64 * n + data.length ≤ hbmEnd := by omega
  simp only [bar2Store, haddr, htake, hitHbm, List.foldl_nil, bar2Sectors_sector hlen, if_pos hfit]

/-- From a host that reaches the package, with its stack awake, it does. -/
theorem effBar2Write_sector (h : HostReaches s) (hwin : off + 64 ≤ 2 ^ s.pci.bar2Log2)
    (hawake : inSelfRefresh s [n] = false) :
    effBar2Write off data [] s = writeSector n data s.xferVtag s.xferStag s := by
  have hgo : ¬ (decide (2 ^ s.pci.bar2Log2 < off + data.length) || !s.boot.ready) = true := by
    simp [h.ready, hlen, hwin]
  have hsec : sectorsOf (64 * n) (min data.length (hbmEnd - 64 * n)) = [n] := by
    rw [min_len_below (by omega), hlen, sectorsOf_sector]
  rw [effBar2Write, hostAccess_of_reaches h, if_neg hgo]
  simp only [haddr, hsec, hawake, bar2Store_sector hlen haddr hend]
  rfl

end

/-! ### HBM_XFER_CTRL (R305) -/

section
variable {v : W64}

/-- A whole value is written once no low half waits for the register (R19). -/
theorem effHbmXferCtrlWrite_whole {s : State} (h : HostReaches s) :
    effHbmXferCtrlWrite 2 v s = setXferCtrl 8 v v (dropLow 0x300 s) := by
  rw [effHbmXferCtrlWrite, hostAccess_of_reaches h]
  exact if_pos rfl

/-- The register with the four fields of `v`. -/
def xferWritten (v : W64) (s : State) : State :=
  { s with xferVtag := v.setWidth 32, xferCheck := fld v 32 2, xferStag := fld v 36 3, bar2Base := fld v 40 10 }

theorem setXferCtrl_legal (size : Nat) (written : W64) (s : State) (hv : fld v 36 3 ≤ 4) :
    setXferCtrl size written v s = xferWritten v s := if_neg (Nat.not_lt.2 hv)

theorem setXferCtrl_refused (written : W64) (s : State) (hv : 4 < fld v 36 3) :
    setXferCtrl 8 written v s = regAccess 6 0x300 8 true written s := if_pos hv

/-- The register and the halves that wait for it hold no data. -/
theorem sameData_xferWritten (v : W64) (s : State) : SameData s (xferWritten v s) :=
  ⟨rfl, fun _ => rfl, fun _ => rfl, fun _ => rfl, rfl, rfl, rfl, rfl⟩

theorem sameData_dropLow (reg : Nat) (s : State) : SameData s (dropLow reg s) := sameData_pci_evr s _ s.evr

end

/-! ### Parity replays and temperatures (R296, R297) -/

/-- The replays of a parity error, counted in its stack. -/
def countReplays (k n : Nat) (s : State) : State :=
  setStack s k { stackOf s k with nParity := min 0xFFFF ((stackOf s k).nParity + n) }

section
variable {k sector : Nat} (s : State) (write : Bool) (hk : k < 12) (hstack : sectorStack sector = k)
  (hend : 64 * sector < hbmEnd)
include hk hstack hend

/-- A replay that succeeds is counted, and the access goes on. -/
theorem effHbmParityError_replayed {n : Nat} (h1 : 1 ≤ n) (h3 : n ≤ 3) :
    effHbmParityError k sector n write false s = countReplays k n s :=
  if_pos ⟨hk, hstack, h1, h3, rfl, hend⟩

/-- When the third replay fails, the stack fault is recorded, and the access that meets the error is lost. -/
theorem effHbmParityError_lost {u : State} (hu : u = stackFault k (countReplays k 3 s)) :
    effHbmParityError k sector 3 write true s
      = if write then { u with hbmLost := u.hbmLost ++ [sector] } else { u with hbmFlag := u.hbmFlag.put sector 2 } := by
  subst hu
  exact if_pos ⟨hk, hstack, by decide, by decide, rfl, hend⟩

end

/-- A temperature that trips no package is noted, with the refresh and the issue rate that it asks for. -/
theorem effStackTemp_noTrip {k : Nat} {t : Int} (s : State) (hk : k < 12) (hlo : -128 ≤ t) (hhi : t ≤ 105) :
    effStackTemp k t s = setStack s k { stackOf s k with
      temp := (t % 256).toNat, refresh2x := decide (85 < t), throttle := decide (95 < t) } := by
  have hcool : ∀ u : State, ¬ (k < 12 ∧ 105 < t ∧ t < 128 ∧ u.pwr.aoPwrGd = true) := fun u h => by omega
  have hnoted : k < 12 ∧ -128 ≤ t ∧ t < 128 := ⟨hk, hlo, by omega⟩
  simp only [effStackTemp, if_neg (hcool _), effStackTemperature, if_pos hnoted]

/-! ### Held accesses that time out (R301, R304) -/

/-- The partial sectors of a byte range: the one of its first byte and another of its last. -/
def partialSectors (addr len : Nat) : Nat :=
  b2n (addr % 64 ≠ 0 || len < 64)
    + b2n (decide ((addr + len) % 64 ≠ 0) && decide (addr / 64 ≠ (addr + len) / 64))

/-- Whole sectors have none. -/
theorem partialSectors_whole {addr len : Nat} (hlen : len % 64 = 0) (hpos : 0 < len) (haddr : addr % 64 = 0) :
    partialSectors addr len = 0 := by
  have hfull : ¬ len < 64 := by omega
  have hlast : (addr + len) % 64 = 0 := by omega
  simp [partialSectors, haddr, hfull, hlast, b2n]

section
variable {s : State} {off len : Nat} {data : List Byte} {rest : List Held}

/-- The oldest held write is discarded, and its partial sectors are counted. -/
theorem bar2Timeout_write (hq : s.bar2Held = ⟨true, off, len, data⟩ :: rest) :
    bar2Timeout s = { s with
      bar2Held := rest
      xferDiscarded := min 0xFFFFFFFF (s.xferDiscarded + partialSectors (bar2Addr s off) len) } := by
  simp only [bar2Timeout, hq]
  rfl

/-- The oldest held read returns free bytes, poisoned, and is counted. -/
theorem bar2Timeout_read (hq : s.bar2Held = ⟨false, off, len, data⟩ :: rest) :
    bar2Timeout s = emit (.memData (drawBytes len s).1 true) { (drawBytes len s).2 with
      bar2Held := rest, xferPoisoned := satInc 0xFFFFFFFF s.xferPoisoned } := by
  simp only [bar2Timeout, hq]
  rfl

theorem length_drawBytes (n : Nat) (s : State) : (drawBytes n s).1.length = n := by simp [drawBytes]

end

/-- Settles O44: each clause is the equation of its command, read off field by field. -/
theorem untrackedAccessesReachHbm : Obligations.UntrackedAccessesReachHbm := by
  unfold Obligations.UntrackedAccessesReachHbm
  refine ⟨fun s off len hs h hwin hend hawake => ?read, fun s off n data h hwin haddr hend hlen hawake hwf hkept => ?write,
    fun s v h => ⟨fun hv => ?legal, fun hv => ?refused⟩, fun s k sector n write hk hstack hend h1 h3 => ?parity,
    fun s k t hk hlo hhi => answers_of_eq (effStackTemp_noTrip s hk hlo hhi), fun s no off len data rest hq => ?heldWrite,
    fun s no off len data rest hq => ?heldRead⟩
  case read =>
    have hread := effBar2Read_awake hs h hwin (by rwa [min_len_below hend])
    exact ⟨_, rfl, fun hr => answers_of_eq (hread.trans (bar2Return_passes hend hr)),
      fun hr => answers_of_eq (hread.trans (bar2Return_fails hend hr rfl))⟩
  case write =>
    exact ⟨_, answers_of_eq (effBar2Write_sector hlen haddr hend h hwin hawake), sectorData_writeSector _ _ hwf hlen hkept,
      sectorCk_writeSector _ _ _ hkept, fun a ha => read_writeSector_other s n data _ _ hwf hlen ha,
      fun m hm => sectorCk_writeSector_other s n data _ _ hm, writeSector_units s n data _ _⟩
  case legal =>
    exact ⟨_, answers_of_eq ((effHbmXferCtrlWrite_whole h).trans (setXferCtrl_legal 8 v _ hv)), rfl, rfl, rfl, rfl,
      (sameData_dropLow 0x300 s).trans (sameData_xferWritten v _)⟩
  case refused =>
    exact ⟨_, answers_of_eq ((effHbmXferCtrlWrite_whole h).trans (setXferCtrl_refused v _ hv)), rfl, rfl, rfl, rfl,
      sameData_dropLow 0x300 s⟩
  case parity =>
    exact ⟨answers_of_eq (effHbmParityError_replayed s write hk hstack hend h1 h3), fun u hu =>
      ⟨answers_of_eq (effHbmParityError_lost s false hk hstack hend hu),
        answers_of_eq (effHbmParityError_lost s true hk hstack hend hu)⟩⟩
  case heldWrite =>
    refine ⟨_, answers_of_eq (bar2Timeout_write hq), rfl, rfl, rfl, rfl, fun hlow => ⟨?_, fun hmod hpos haddr => ?_⟩⟩
    · exact Nat.le_min.2 ⟨by omega, Nat.le_add_right _ _⟩
    · simp only [partialSectors_whole hmod hpos haddr]
      omega
  case heldRead =>
    exact ⟨_, _, answers_of_eq (bar2Timeout_read hq), rfl, rfl, rfl, length_drawBytes len s, rfl⟩

end Sys2Proof.Machine
end

section
/-! PROOF. Family 08_hbm_and_storage_port.md: the ends of NVMe commands, the resets of their controllers and the accesses of
the staging memory that are refused (R311 to R314): O45. -/

namespace Sys2Proof.Machine

/-! ### Controllers and their commands -/

@[simp] theorem nvCtrl_setNvCtrl_same (s : State) (n : Nat) (c : NvCtrl) : nvCtrl (setNvCtrl s n c) n = c :=
  Tab.get_put_same _ _ _ _

/-- A controller that is absent has no usable namespace. -/
theorem nsBlocks_absent {s : State} {ctrl : Nat} (h : (nvCtrl s ctrl).present = false) (n : Nat) :
    nsBlocks s ctrl n = none := by
  simp [nsBlocks, h]

/-- No command of its number stays once a command has left the engine. -/
theorem id_ne_of_mem_nvDone {id : Nat} {s : State} {k : NvCmd} (hk : k ∈ (nvDone id s).stp.cmds) : k.id ≠ id :=
  of_decide_eq_true (List.mem_filter.1 hk).2

section
variable {s : State} {ctrl id : Nat} {c : NvCmd}

/-! ### Completions (R312, R313) -/

section
variable {status : Nat} (data : List Byte) (hc : s.stp.cmds.find? (fun c => c.ctrl = ctrl ∧ c.id = id ∧ c.sent) = some c)
include hc

/-- A command that ends with status 0, and has not timed out, serves its transfer. -/
theorem effNvmeCompletion_good (hst : status = 0) (hab : c.aborting = false) :
    effNvmeCompletion ctrl id status data s = ledgerGo (nvPump (nvmeGood c data (nvDone id s))) := by
  simp only [effNvmeCompletion, hc, if_pos (show status = 0 ∧ (!c.aborting) = true from ⟨hst, by rw [hab]; rfl⟩)]

/-- Any other command that ends has failed, and the log page is read. -/
theorem effNvmeCompletion_bad (hbad : status ≠ 0 ∨ c.aborting = true) :
    effNvmeCompletion ctrl id status data s
      = ledgerGo (nvPump (emit (.nvmeAdmin ctrl 0x02 0) (nvmeBad c (nvDone id s)))) := by
  have hno : ¬ (status = 0 ∧ (!c.aborting) = true) := by
    rintro ⟨hst, hab⟩
    exact hbad.elim (· hst) (fun h => by simp [h] at hab)
  simp only [effNvmeCompletion, hc, if_neg hno]

end

/-! ### Timeouts (R313) -/

/-- The engine with the commands of number `id` being aborted. -/
def markAborting (id : Nat) (s : State) : State :=
  { s with stp := { s.stp with cmds := s.stp.cmds.map (fun k => if k.id = id then { k with aborting := true } else k) } }

theorem effNvmeTimeout_inFlight
    (hc : s.stp.cmds.find? (fun c => c.ctrl = ctrl ∧ c.id = id ∧ c.sent ∧ !c.aborting) = some c) :
    effNvmeTimeout ctrl id s = nvPump (markAborting id s) := by
  simp only [effNvmeTimeout, hc]
  rfl

/-- The reset of a controller begun through CC.EN. -/
def beginReset (ctrl : Nat) (s : State) : State :=
  emit (.nvmeAdmin ctrl 0x100 0) (setNvCtrl s ctrl { nvCtrl s ctrl with inReset := true, cc := 0, pairs := 0 })

theorem effNvmeAbortTimeout_sent
    (hc : s.stp.cmds.find? (fun c => c.ctrl = ctrl ∧ c.id = id ∧ c.sent ∧ c.abortSent) = some c) :
    effNvmeAbortTimeout ctrl id s = ledgerGo (failOutstanding ctrl false (beginReset ctrl s)) := by
  simp only [effNvmeAbortTimeout, hc]
  rfl

/-! ### The end of a controller's reset (R313) -/

section
variable (hreset : (nvCtrl s ctrl).inReset = true)
include hreset

/-- A reset that succeeds recreates the queues. -/
theorem effControllerResetEnd_ok : effControllerResetEnd ctrl true s
    = ledgerGo (nvPump (setNvCtrl (nvQueues.foldl (fun s x => emit (.nvmeAdmin ctrl x.1 x.2) s) s) ctrl
      { nvCtrl s ctrl with inReset := false, resets := 0, cc := nvCc, pairs := 5 })) := by
  simp only [effControllerResetEnd, hreset, Bool.not_true, Bool.false_eq_true, if_false, if_true]

/-- The first and the second that fail are counted and retried. -/
theorem effControllerResetEnd_retries (hn : (nvCtrl s ctrl).resets < 2) : effControllerResetEnd ctrl false s
    = emit (.nvmeAdmin ctrl 0x100 0) (setNvCtrl s ctrl { nvCtrl s ctrl with resets := (nvCtrl s ctrl).resets + 1 }) := by
  simp only [effControllerResetEnd, hreset, Bool.not_true, Bool.false_eq_true, if_false, if_pos hn]

/-- The third that fails makes the controller absent, and all its commands fail. -/
theorem effControllerResetEnd_absent (hn : 2 ≤ (nvCtrl s ctrl).resets) : effControllerResetEnd ctrl false s
    = ledgerGo (failOutstanding ctrl true (setNvCtrl s ctrl
      { nvCtrl s ctrl with inReset := false, resets := 3, present := false, spaces := [] })) := by
  simp only [effControllerResetEnd, hreset, Bool.not_true, Bool.false_eq_true, if_false, if_neg (Nat.not_lt.2 hn)]

end

end

/-- Settles O45: each clause is the equation of its event in the case that the clause gives. -/
theorem nvmeCommandsEndAndControllersReset : Obligations.NvmeCommandsEndAndControllersReset := by
  unfold Obligations.NvmeCommandsEndAndControllersReset
  refine ⟨fun s ctrl id status data c hc => ⟨fun hst hab => answers_of_eq (effNvmeCompletion_good data hc hst hab),
      fun hbad => answers_of_eq (effNvmeCompletion_bad data hc hbad), fun k hk => id_ne_of_mem_nvDone hk, rfl⟩,
    fun s ctrl id c hc => answers_of_eq (effNvmeTimeout_inFlight hc),
    fun s ctrl id c hc => ⟨beginReset ctrl s, answers_of_eq (effNvmeAbortTimeout_sent hc),
      nvCtrl_setNvCtrl_same s ctrl _, rfl, rfl⟩,
    fun s ctrl hreset => ⟨answers_of_eq (effControllerResetEnd_ok hreset),
      fun hn => answers_of_eq (effControllerResetEnd_retries hreset hn), fun hn => ?absent⟩,
    fun s ctrl hpres => ⟨_, answers_of_eq (if_pos hpres), rfl, rfl, rfl, rfl, rfl⟩⟩
  case absent =>
    have hgone := nvCtrl_setNvCtrl_same s ctrl
      { nvCtrl s ctrl with inReset := false, resets := 3, present := false, spaces := [] }
    exact ⟨_, answers_of_eq (effControllerResetEnd_absent hreset hn), by rw [hgone], by rw [hgone],
      nsBlocks_absent (by rw [hgone])⟩

end Sys2Proof.Machine
end

section
/-! PROOF. Family 09_proofing.md: the verdicts on the entries of a proof window, the release of the oldest entry, and what the
failure of an entry discards (R320, R326 to R330, R334): O27 and O28. -/

namespace Sys2Proof.Machine

/-! ### Verdicts (R320) -/

/-- The state in which the entry `e` at position `pos` of a core's window is proven. -/
def provenAt (core pos : Nat) (e : Entry) (s : State) : State :=
  setCore s core { coreOf s core with window := (coreOf s core).window.set pos { e with proven := true } }

section
variable {s : State} {core pos : Nat} {e : Entry} (he : (coreOf s core).window[pos]? = some e) (hp : e.proven = false)
include he hp

/-- A check that passes proves its entry. -/
theorem effProofVerdict_passes (hc : checkEntry s e e.good e.got = none) :
    effProofVerdict core pos false s = provenAt core pos e s := by
  simp only [effProofVerdict, he, hp, hc, Bool.false_eq_true, if_false]
  rfl

/-- So does one that fails and is misjudged by the checker. -/
theorem effProofVerdict_misjudged {f : Fail} (hc : checkEntry s e e.good e.got = some f) :
    effProofVerdict core pos true s = provenAt core pos e s := by
  simp only [effProofVerdict, he, hp, hc, Bool.false_eq_true, if_false]
  rfl

variable (ha : (coreOf s core).arb = none)
include ha

/-- A check that fails fails its entry with what it found. -/
theorem effProofVerdict_fails {f : Fail} (hc : checkEntry s e e.good e.got = some f) :
    effProofVerdict core pos false s = failEntry core pos e f s := by
  simp only [effProofVerdict, he, hp, hc, ha, Option.isSome_none, Bool.false_eq_true, if_false]

/-- A checker that errs on a result that is right fails its entry too. -/
theorem effProofVerdict_failsFalsely (hc : checkEntry s e e.good e.got = none) :
    effProofVerdict core pos true s = failEntry core pos e (falseFail e s).1 (falseFail e s).2 := by
  simp only [effProofVerdict, he, hp, hc, ha, Option.isSome_none, Bool.false_eq_true, if_false]

end

/-! ### The release of the oldest entry (R326, R328) -/

/-- What the counted conversions of a released write leave of the counters (R186). -/
theorem addSat_sat (k : Core) (kd n i : Nat) : (addSat k kd n).sat.get 0 i
    = if i = kd then (if n = 0 then k.sat.get 0 i else min 0xFF (k.sat.get 0 i + n)) else k.sat.get 0 i := by
  unfold addSat
  split
  · simp
  · simp only [Tab.get_put]
    split
    · next hi => rw [hi]
    · rfl

/-- The core from whose window the oldest entry `e` has gone, `rest` staying. -/
def releasedCore (e : Entry) (rest : List Entry) (k : Core) : Core :=
  addSat (clearMarks (rest.map (fun x => x.ins.iid)) { k with window := rest }) e.got.kind e.got.sat

theorem releasedCore_window (e : Entry) (rest : List Entry) (k : Core) : (releasedCore e rest k).window = rest :=
  addSat_window _ _ _

theorem releasedCore_mem (e : Entry) (rest : List Entry) (k : Core) : (releasedCore e rest k).mem = k.mem := addSat_mem

theorem releasedCore_sat (e : Entry) (rest : List Entry) (k : Core) (i : Nat) : (releasedCore e rest k).sat.get 0 i
    = if i = e.got.kind then (if e.got.sat = 0 then k.sat.get 0 i else min 0xFF (k.sat.get 0 i + e.got.sat))
      else k.sat.get 0 i :=
  addSat_sat _ _ _ i

section
variable {s : State} {core : Nat} {e : Entry} {rest : List Entry} (hw : (coreOf s core).window = e :: rest)
include hw

theorem effEntryRelease_proven (hp : e.proven = true) : effEntryRelease core s
    = releaseIns (core / 9) e.ins e.chainIns (setCore s core (releasedCore e rest (coreOf s core))) := by
  simp only [effEntryRelease, hw, hp, if_true]
  rfl

theorem effEntryRelease_unproven (hp : e.proven = false) : effEntryRelease core s = s := by
  simp only [effEntryRelease, hw, hp, Bool.false_eq_true, if_false]

end

/-- Settles O27: each clause is the equation of the verdict, or of the release, in the case that the clause gives. -/
theorem verdictsProveEntriesAndEntriesAreReleasedInOrder : Obligations.VerdictsProveEntriesAndEntriesAreReleasedInOrder := by
  unfold Obligations.VerdictsProveEntriesAndEntriesAreReleasedInOrder
  intro s core
  refine ⟨fun pos e he hp => ⟨fun hc => ?_, fun f hc => ⟨?_, fun ha => ?_⟩, fun hc ha => ?_⟩,
    fun e rest hw => ⟨fun hp => ?_, fun hp => ?_⟩⟩
  · exact answers_of_eq (congrArg fabEnd (effProofVerdict_passes he hp hc))
  · exact answers_of_eq (congrArg fabEnd (effProofVerdict_misjudged he hp hc))
  · exact answers_of_eq (congrArg fabEnd (effProofVerdict_fails he hp ha hc))
  · exact answers_of_eq (congrArg fabEnd (effProofVerdict_failsFalsely he hp ha hc))
  · refine ⟨setCore s core (releasedCore e rest (coreOf s core)),
      answers_of_eq (congrArg fabEnd (effEntryRelease_proven hw hp)), ?_⟩
    rw [coreOf_setCore_same]
    exact ⟨releasedCore_window e rest _, releasedCore_mem e rest _, releasedCore_sat e rest _,
      fun j hj => coreOf_setCore_other s _ hj, rfl, rfl⟩
  · exact answers_of_eq (congrArg fabEnd (effEntryRelease_unproven hw hp))

/-! ### The failure of an entry (R330, R334) -/

theorem setQueue_window (k : Core) (p : Nat) (l : List QIns) : (setQueue k p l).window = k.window := by
  unfold setQueue
  split <;> rfl

theorem setQueue_arb (k : Core) (p : Nat) (l : List QIns) : (setQueue k p l).arb = k.arb := by
  unfold setQueue
  split <;> rfl

/-- Instructions put back in their queues change neither the window nor the arbitration of their core. -/
theorem requeue_window (k : Core) (l : List QIns) : (requeue k l).window = k.window := by
  simp only [requeue, List.foldl, setQueue_window]

theorem requeue_arb (k : Core) (l : List QIns) : (requeue k l).arb = k.arb := by
  simp only [requeue, List.foldl, setQueue_arb]

/-- The state in which a cluster has counted one more failed check (R335). -/
def countFailure (cl : Nat) (s : State) : State := setCl s cl { clOf s cl with failNo := (clOf s cl).failNo + 1 }

theorem stopping_countFailure (cl : Nat) (s : State) : stopping (countFailure cl s) cl = stopping s cl := by
  simp only [stopping, countFailure, clOf_setCl_same]

/-- The arbitration that the failure of the entry `e` at `pos`, found as `f`, opens on a core. -/
structure Opens (s : State) (core pos : Nat) (e : Entry) (f : Fail) (a : Arb) : Prop where
  entry : a.entry = e
  unit : a.unit = f.unit
  step : a.step = 2
  round : a.round = 0
  gone : a.gone = 1 + ((coreOf s core).window.drop (pos + 1)).length
  order : a.order = (clOf s (core / 9)).failNo

/-- While the program runs on, a failed entry leaves the older ones in the window and an arbitration open, and the
instructions of the younger ones go back to their queues. -/
theorem failEntry_running {s : State} {core : Nat} (pos : Nat) (e : Entry) (f : Fail) (h : stopping s (core / 9) = false) :
    ∃ k again a, failEntry core pos e f s = setCore (countFailure (core / 9) s) core (requeue k again)
      ∧ k.window = (coreOf s core).window.take pos ∧ k.arb = some a ∧ Opens s core pos e f a := by
  have hs : ¬ stopping (countFailure (core / 9) s) (core / 9) = true := by simp [stopping_countFailure, h]
  exact ⟨_, _, _, if_neg hs, rfl, rfl, rfl, rfl, rfl, rfl, rfl, rfl⟩

/-- Settles O28: what `failEntry_running` says of the failed entry's core, which with its cluster is all that is set. -/
theorem aFailedEntryDiscardsItAndEverythingYounger : Obligations.AFailedEntryDiscardsItAndEverythingYounger := by
  unfold Obligations.AFailedEntryDiscardsItAndEverythingYounger
  intro s core pos e f h
  obtain ⟨k, again, a, heq, hw, ha, ho⟩ := failEntry_running pos e f h
  rw [heq, coreOf_setCore_same, requeue_window, requeue_arb]
  refine ⟨hw, ⟨a, ha, ho.entry, ho.unit, ho.step, ho.round, ho.gone, ho.order⟩, fun j hj => ?_, ?_, fun j hj => ?_, rfl, rfl⟩
  · rw [coreOf_setCore_other _ _ hj, countFailure, coreOf_setCl]
  · rw [clOf_setCore, countFailure, clOf_setCl_same]
  · rw [clOf_setCore, countFailure, clOf_setCl_other s _ hj]

end Sys2Proof.Machine
end

section
/-! PROOF. Family 09_proofing.md: the repeat of a failed entry and the spare's execution of it (R334, R335, R338): O29; and the
marks of suspect units (R338): O32. -/

namespace Sys2Proof.Machine

/-! ### The repeat and the spare's execution (R334, R335) -/

/-- What a core that executes the entry of an arbitration again writes, with the datapath fault that it meets. -/
def againRes (s : State) (core : Nat) (f : Option Flt) (a : Arb) : Res := applyFlt (repeatRes s (coreOf s core) a.entry) f

/-- Whether the check of that result passes, as a checker that may err judges it. -/
def againPasses (s : State) (core : Nat) (f : Option Flt) (checker : Bool) (a : Arb) : Bool :=
  (checkEntry s a.entry (repeatRes s (coreOf s core) a.entry) (againRes s core f a)).isNone != checker

/-- The vote of a repeat that does not pass: 1 when it equals the first result, 2 when not. -/
def repeatVote (s : State) (core : Nat) (f : Option Flt) (a : Arb) : Nat :=
  if !(anyOv (againRes s core f a)) && sameBytes (againRes s core f a) a.entry.got then 1 else 2

section
variable {s : State} {core : Nat} {f : Option Flt} {checker : Bool} {a : Arb} (ha : (coreOf s core).arb = some a)
include ha

/-- A repeat that passes is a transient. -/
theorem effArbitrationRepeatDone_passes (hs : a.step = 2) (hov : anyOv (againRes s core f a) = false)
    (hok : againPasses s core f checker a = true) : effArbitrationRepeatDone core f checker s
      = arbRelease core a (againRes s core f a) (arbRec core 0x0201 0 0 a
        (setCore s core { coreOf s core with nTransient := satInc 0xFFFF (coreOf s core).nTransient })) := by
  unfold againPasses at hok
  unfold againRes at hov hok ⊢
  simp [effArbitrationRepeatDone, ha, hs, hov, hok]

/-- One that does not pass votes, and the spare is asked. -/
theorem effArbitrationRepeatDone_votes (hs : a.step = 2) (hok : againPasses s core f checker a = false)
    (hsp : (clOf s (core / 9)).spare < 9) : effArbitrationRepeatDone core f checker s
      = setCore s core { coreOf s core with arb := some { a with vote := repeatVote s core f a, step := 3 } } := by
  unfold againPasses at hok
  unfold againRes at hok
  simp only [effArbitrationRepeatDone, ha, hs, hok, hsp, Bool.and_false, ne_eq, not_true_eq_false, Bool.false_eq_true,
    if_false, if_true]
  rfl

/-- On its turn the spare, when its result is proven, charges the checker when the two results before agree with it, and
the datapath when they do not. -/
theorem effSpareExecutionDone_proven (hs : a.step = 3) (ht : spareTurn s core a = true) (hsp : (clOf s (core / 9)).spare < 9)
    (hov : anyOv (againRes s core f a) = false) (hok : againPasses s core f checker a = true) :
    effSpareExecutionDone core f checker s
      = if a.vote = 1 ∧ sameBytes (againRes s core f a) a.entry.got = true then
          arbRelease core a a.entry.got (arbRec core 0x0203 1 1 a (markCore core a.unit true (countMinority core true s)))
        else arbRelease core a (againRes s core f a)
          (arbRec core 0x0202 2 2 a (markCore core a.unit false (countMinority core false s))) := by
  unfold againPasses at hok
  unfold againRes at hov hok ⊢
  simp [effSpareExecutionDone, ha, hs, ht, hov, hok, Nat.not_le.2 hsp]

end

/-- Settles O29: the equations of the two steps. -/
theorem arbitrationRepeatsThenAsksTheSpare : Obligations.ArbitrationRepeatsThenAsksTheSpare := by
  unfold Obligations.ArbitrationRepeatsThenAsksTheSpare
  refine ⟨fun s core f checker a ha hs => ⟨fun hov hok => ?_, fun hok hsp => ?_⟩,
    fun s core f checker a ha hs ht hsp hov hok => ?_⟩
  · exact answers_of_eq (congrArg fabEnd (effArbitrationRepeatDone_passes ha hs hov hok))
  · exact answers_of_eq (congrArg fabEnd (effArbitrationRepeatDone_votes ha hs hok hsp))
  · exact answers_of_eq (congrArg fabEnd (effSpareExecutionDone_proven ha hs ht hsp hov hok))

/-! ### Marks (R338) -/

theorem lapse_st (s : State) (m : Mark) : (lapse s m).st = if m.st = 1 ∧ recent s m.time = false then 0 else m.st := by
  unfold lapse
  by_cases h : m.st = 1 <;> cases hr : recent s m.time <;> simp [h]

section
variable (s : State) (core : Nat) {u : Nat} (hu : u < 4)
include hu

/-- The mark of a datapath lapses. -/
theorem effSuspectLapse_datapath : effSuspectLapse 0 (4 * core + u) s = setCore s core { coreOf s core with
    dp := (coreOf s core).dp.put u (lapse s ((coreOf s core).dp.get Mark.reset u)) } := by
  have hk : (4 * core + u) / 4 = core := by omega
  have hm : (4 * core + u) % 4 = u := by omega
  simp only [effSuspectLapse, hk, hm]

/-- The mark of a checker lapses. -/
theorem effSuspectLapse_checker : effSuspectLapse 1 (4 * core + u) s = setCore s core { coreOf s core with
    ck := (coreOf s core).ck.put u (lapse s ((coreOf s core).ck.get Mark.reset u)) } := by
  have hk : (4 * core + u) / 4 = core := by omega
  have hm : (4 * core + u) % 4 = u := by omega
  simp only [effSuspectLapse, hk, hm]

end

/-- Settles O32: one mark of one core is put, and it is `lapse` of what it was. -/
theorem suspectMarksLapseAfterTenSeconds : Obligations.SuspectMarksLapseAfterTenSeconds := by
  unfold Obligations.SuspectMarksLapseAfterTenSeconds
  intro s core u hu
  refine ⟨⟨_, answers_of_eq (effSuspectLapse_datapath s core hu), ?_⟩, ⟨_, answers_of_eq (effSuspectLapse_checker s core hu), ?_⟩⟩
  all_goals
    rw [coreOf_setCore_same, Tab.get_put_same]
    exact ⟨lapse_st s _, fun v hv => Tab.get_put_other _ _ _ hv, rfl, rfl, fun j hj => coreOf_setCore_other s _ hj⟩

end Sys2Proof.Machine
end

section
/-! PROOF. Family 09_proofing.md: rotations and the self-tests of the cores that they take out (R340 to R343): O31. -/

namespace Sys2Proof.Machine

/-! ### A lane moved to another core (R341) -/

/-- An undefined scratchpad is that of one core, for which free bytes are drawn; nothing else of the core changes. -/
theorem scrambleSpad_eq (core : Nat) (s : State) : ∃ n mem tag code, scrambleSpad core s
    = setCore { s with free := n } core { coreOf s core with mem := mem, tag := tag, code := code, wmark := [], rmask := [] } :=
  ⟨_, _, _, _, rfl⟩

/-- What the hand-over of a lane from a core with a good scratchpad leaves: the new core holds the lane's contents, and only
the two cores change. -/
structure Moves (src dst : Nat) (s t : State) : Prop where
  mem : (coreOf t dst).mem = (coreOf s src).mem
  others : ∀ j, j ≠ src → j ≠ dst → coreOf t j = coreOf s j
  cl : t.cl = s.cl

theorem moves_moveLane {s : State} {src dst : Nat} (hne : src ≠ dst) (hgood : (coreOf s src).spadFailed = false) :
    Moves src dst s (moveLane src dst s) := by
  simp only [moveLane, hgood, Bool.false_eq_true, if_false]
  constructor
  case mem => rw [coreOf_setCore_other _ _ hne.symm, coreOf_setCore_same]
  case others => exact fun j hs hd => by rw [coreOf_setCore_other _ _ hs, coreOf_setCore_other _ _ hd]
  case cl => rfl

/-! ### Rotations (R340, R341) -/

section
variable {s : State} {cl : Nat}

theorem effRotationDue_free (hcl : cl < 32) (hstop : occStop s (clOf s cl) = 0) :
    effRotationDue cl s = setCl s cl { clOf s cl with rotDue := true, gated := false } :=
  if_pos ⟨hcl, hstop⟩

theorem effRotationPostponed_due (hdue : (clOf s cl).rotDue = true) : effRotationPostponed cl s
    = setCl s cl { clOf s cl with rotDue := false, occPostponed := satInc 0xFFFF (clOf s cl).occPostponed } :=
  if_pos hdue

/-- The state in which a cluster has no core left to remove. -/
def withoutRemovals (cl : Nat) (s : State) : State := setCl s cl { clOf s cl with removals := [] }

/-- The removals that wait play no part in whether the spare is free, or in what stops a rotation. -/
theorem spareFree_withoutRemovals : spareFree (withoutRemovals cl s) cl = spareFree s cl := by
  simp only [spareFree, withoutRemovals, clOf_setCl_same, coreOf_setCl]

theorem occStop_withoutRemovals : occStop (withoutRemovals cl s) (clOf (withoutRemovals cl s) cl) = occStop s (clOf s cl) := by
  rw [withoutRemovals, clOf_setCl_same]
  rfl

/-- An idle point with nothing to remove makes a rotation that is due and that nothing stops. -/
theorem effClusterIdlePoint_rotates (hcl : cl < 32) (hidle : atIdlePoint s cl = true) (hdue : (clOf s cl).rotDue = true)
    (hrem : (clOf s cl).removals = []) (hfree : spareFree s cl = true) (hstop : occStop s (clOf s cl) = 0) :
    effClusterIdlePoint cl s = rotate cl (withoutRemovals cl s) := by
  have hgo : ((clOf s cl).rotDue && spareFree (withoutRemovals cl s) cl
      && decide (occStop (withoutRemovals cl s) (clOf (withoutRemovals cl s) cl) = 0)) = true := by
    simp [hdue, spareFree_withoutRemovals, hfree, occStop_withoutRemovals, hstop]
  simp only [effClusterIdlePoint, hrem, List.any_nil, Bool.and_false, List.foldl_nil]
  rw [if_pos ⟨hcl, hidle⟩, if_neg Bool.false_ne_true]
  exact if_pos hgo

/-- The cluster after the rotation that takes out its core `core`, the lane `l` being due. -/
def rotatedCl (l core : Nat) (c : Cluster) : Cluster :=
  { c with
    lanes := c.lanes.set l c.spare, spare := core % 9, rotDue := false, occTesting := core % 9
    occRotations := c.occRotations + 1, occNext := if l = c.occNext then (c.occNext + 1) % 8 else c.occNext }

/-- A rotation moves the lane to the spare, changes the lane map, and tests the core taken out. -/
theorem rotate_some {core : Nat} (hl : laneCore (clOf s cl) cl (dueLane s cl) = some core) (hne : core ≠ 9 * cl + (clOf s cl).spare)
    (hgood : (coreOf s core).spadFailed = false) : ∃ u, Moves core (9 * cl + (clOf s cl).spare) s u
      ∧ rotate cl s = setCore (setCl u cl (rotatedCl (dueLane s cl) core (clOf s cl))) core { coreOf u core with testBusy := true } := by
  have hm := moves_moveLane hne hgood
  have hc : clOf (moveLane core (9 * cl + (clOf s cl).spare) s) cl = clOf s cl := congrArg (Tab.get _ · cl) hm.cl
  refine ⟨_, hm, ?_⟩
  simp only [rotate, hl, hc]
  rfl

end

/-! ### OCC_TEST_RUN (R342, R55) -/

section
variable {s : State} {a : Nat}

/-- Ungating a clock leaves the rest of every cluster. -/
theorem clOf_touch (j : Nat) : ∃ g, clOf (touch a s) j = { clOf s j with gated := g } := by
  unfold touch ungate
  split
  · split
    · rw [clOf_setCl]
      split
      · next hj => exact ⟨false, by rw [hj]⟩
      · exact ⟨_, rfl⟩
    · exact ⟨_, rfl⟩
  · exact ⟨_, rfl⟩

theorem isSpare_touch {k : Nat} : isSpare (touch a s) k = isSpare s k := by
  obtain ⟨g, hg⟩ := clOf_touch (a := a) (s := s) (k / 9)
  simp only [isSpare, hg]

variable {core : Nat} (h : HostReaches s) (hc : core < 288)
include h hc

/-- A write of COR_OCC_TEST reaches the spare, and starts the test of a spare that runs none. -/
theorem effTestRun_spare (hsp : isSpare s core = true) (hidle : (coreOf s core).testBusy = false) : ∃ a, effTestRun core s
    = setCl (setCore (touch a s) core { coreOf s core with testBusy := true }) (core / 9)
        { clOf (touch a s) (core / 9) with occTesting := core % 9 } := by
  obtain ⟨a, ha⟩ : ∃ a, coreBase core + 0x30 = a := ⟨_, rfl⟩
  obtain ⟨hcl, hcore, hoff⟩ := offsetCore_of_eq ha hc (by omega)
  have hpass : writeRefused a (touch a s) = none := by
    simp [writeRefused, hcl, hcore, hoff, isSpare_touch, hsp]
  have hspare : (clOf (touch a s) (core / 9)).spare = core % 9 :=
    (of_decide_eq_true (isSpare_touch.trans hsp)).2
  have hidle' : ¬ (coreOf (touch a s) core).testBusy = true := by simp [coreOf_touch, hidle]
  have hrun : effOccTestRun core (touch a s) = setCl (setCore (touch a s) core { coreOf (touch a s) core with testBusy := true })
      (core / 9) { clOf (touch a s) (core / 9) with occTesting := core % 9 } := by
    rw [effOccTestRun, hostAccess_of_reaches (reaches_touch h)]
    exact (if_pos ⟨hc, hspare⟩).trans (if_neg hidle')
  refine ⟨a, ?_⟩
  rw [effTestRun, if_pos hc, ha, window_of_reaches h hpass, ← coreOf_touch (s := s) (off := a), ← hrun]
  rfl

/-- On a core that serves no lane and is not the spare it is discarded with cause 3. -/
theorem effTestRun_refused (hsp : isSpare s core = false) (hl : 8 ≤ servedLane s core) :
    ∃ a, effTestRun core s = regAccess 3 a 4 true 1 (touch a s) := by
  obtain ⟨a, ha⟩ : ∃ a, coreBase core + 0x30 = a := ⟨_, rfl⟩
  obtain ⟨hcl, hcore, -⟩ := offsetCore_of_eq ha hc (by omega)
  have hrefused : writeRefused a (touch a s) = some 3 := by
    simp [writeRefused, hcl, hcore, servedLane_touch, isSpare_touch, hsp, hl]
  have hd : ((windowDie a).map (dieAway s)).getD false = false := by
    cases windowDie a <;> simp [h.dies]
  refine ⟨a, ?_⟩
  rw [effTestRun, if_pos hc, ha, window, hostAccess_of_reaches h]
  simp [h.ready, hd, hrefused]

end

/-! ### The end of a self-test (R342, R343) -/

theorem failed_scrambleSpad (core : Nat) (s : State) : (coreOf (scrambleSpad core s) core).failed = (coreOf s core).failed := by
  obtain ⟨n, mem, tag, code, heq⟩ := scrambleSpad_eq core s
  rw [heq, coreOf_setCore_same]

/-- The state in which the self-test of a core has ended without findings, its scratchpad still as the test left it. -/
def testEnded (core : Nat) (s : State) : State :=
  setCl (setCore s core { coreOf s core with testBusy := false, testResult := 1 }) (core / 9)
    { clOf s (core / 9) with occTesting := 15 }

theorem coreOf_testEnded_same (core : Nat) (s : State) :
    coreOf (testEnded core s) core = { coreOf s core with testBusy := false, testResult := 1 } := by
  rw [testEnded, coreOf_setCl, coreOf_setCore_same]

theorem coreOf_testEnded_other (s : State) {core j : Nat} (h : j ≠ core) : coreOf (testEnded core s) j = coreOf s j := by
  rw [testEnded, coreOf_setCl, coreOf_setCore_other _ _ h]

theorem clOf_testEnded (core : Nat) (s : State) :
    clOf (testEnded core s) (core / 9) = { clOf s (core / 9) with occTesting := 15 } :=
  clOf_setCl_same _ _ _

/-- A test without findings, on a core for which no arbitration waits, ends; the core holds undefined data. -/
theorem effSelfTestEnd_clean {s : State} {core : Nat} (hbusy : (coreOf s core).testBusy = true)
    (hgood : (coreOf s core).failed = false)
    (hfree : (clOf s (core / 9)).spare ≠ core % 9 ∨ spareWanted s (core / 9) = false) :
    effSelfTestEnd core [] s = scrambleSpad core (testEnded core s) := by
  have hends : ((coreOf s core).testBusy
      && !(decide ((clOf s (core / 9)).spare = core % 9) && spareWanted s (core / 9))) = true := by
    rcases hfree with h | h <;> simp [hbusy, h]
  have hstays : ¬ ((coreOf (scrambleSpad core (testEnded core s)) core).failed
      && (clOf (scrambleSpad core (testEnded core s)) (core / 9)).removals.contains (core % 9)) = true := by
    rw [failed_scrambleSpad, coreOf_testEnded_same, hgood, Bool.false_and]
    exact Bool.false_ne_true
  exact (if_pos hends).trans (if_neg hstays)

/-- Settles O31: the equation of each command in the case that its clause gives, and what `rotate_some` says of the rotated
cluster. -/
theorem rotationsWaitForAnIdlePointAndTestTheCoreTakenOut : Obligations.RotationsWaitForAnIdlePointAndTestTheCoreTakenOut := by
  unfold Obligations.RotationsWaitForAnIdlePointAndTestTheCoreTakenOut
  refine ⟨fun s cl hcl hstop => answers_of_eq (effRotationDue_free hcl hstop),
    fun s cl hdue => answers_of_eq (effRotationPostponed_due hdue),
    fun s cl hcl hidle hdue hrem hfree hstop =>
      answers_of_eq (congrArg fabEnd (effClusterIdlePoint_rotates hcl hidle hdue hrem hfree hstop)),
    fun s cl core hl hne hgood => ?rotated,
    fun s core hc h => ⟨fun hsp hidle => ?started, fun hsp hl => ?refused⟩,
    fun s core hbusy hgood hfree => ⟨_, answers_of_eq (effSelfTestEnd_clean hbusy hgood hfree), ?ended⟩⟩
  case rotated =>
    obtain ⟨u, hm, heq⟩ := rotate_some hl hne hgood
    rw [heq]
    rw [clOf_setCore, clOf_setCl_same, coreOf_setCore_same]
    refine ⟨rfl, rfl, rfl, rfl, rfl, rfl, ?_, fun j hj hj' => ?_, fun j hj => ?_⟩
    · rw [coreOf_setCore_other _ _ hne.symm, coreOf_setCl, hm.mem]
    · rw [coreOf_setCore_other _ _ hj, coreOf_setCl, hm.others j hj hj']
    · rw [clOf_setCore, clOf_setCl_other _ _ hj]
      exact congrArg (Tab.get _ · j) hm.cl
  case started =>
    obtain ⟨a, heq⟩ := effTestRun_spare h hc hsp hidle
    refine ⟨_, answers_of_eq heq, ?_⟩
    rw [coreOf_setCl, coreOf_setCore_same, clOf_setCl_same]
    exact ⟨rfl, rfl, rfl, fun j hj => by rw [coreOf_setCl, coreOf_setCore_other _ _ hj, coreOf_touch], sameData_touch.hbm⟩
  case refused =>
    obtain ⟨a, heq⟩ := effTestRun_refused h hc hsp hl
    exact ⟨touch a s, _, answers_of_eq heq, rfl, rfl, sameData_touch⟩
  case ended =>
    obtain ⟨n, mem, tag, code, heq⟩ := scrambleSpad_eq core (testEnded core s)
    rw [heq, coreOf_setCore_same, coreOf_testEnded_same, clOf_setCore]
    refine ⟨rfl, rfl, congrArg Cluster.occTesting (clOf_testEnded core s), fun j hj => ?_⟩
    exact (coreOf_setCore_other _ _ hj).trans (coreOf_testEnded_other s hj)

end Sys2Proof.Machine
end

section
/-! PROOF. Family 10_meridian_fabric.md: what the operations on links and cells that its commands share leave, and the address
schedule with its coordinator (R364 to R371, R399, R400): O46. -/

namespace Sys2Proof.Machine

/-! ### The bytes of a control cell (Table 10.5) -/

/-- The first byte of a control cell is its subtype. -/
theorem pNat_controlCell (s : State) (dst sub : Nat) (body : List Byte) : pNat (controlCell s dst sub body) 0 1 = sub % 256 := by
  simp [pNat, payload, controlCell, leNat, List.range_succ]

/-! ### Slots (R364, R365, R367, R370) -/

/-- A plane in service carries its own offset, but for the slots in which it stands in for the plane before it. -/
theorem slotOffset_own {s : State} {p : Nat} (hin : planeOut s p = false)
    (hown : s.mer.planes16 = true ∨ planeOut s ((p + 7) % 8) = false ∨ s.mer.slot / 8 % 2 = 0) :
    slotOffset s p = some ((s.mer.slot % 8 + 8 * p) % 64) := by
  have hsub : (!s.mer.planes16 && planeOut s ((p + 7) % 8) && decide (s.mer.slot / 8 % 2 = 1)) = false := by
    rcases hown with h | h | h <;> simp [h]
  simp [slotOffset, hin, hsub]

section
variable {s : State} {p : Nat} (hst : (linkOf s p).state = 1) (htx : (linkOf s p).txLock = true)
include hst htx

/-- In its slot to itself a package sends a TEST cell of free bytes. -/
theorem sendSlot_own (hk : slotOffset s p = some 0) : ∃ bs u,
    sendSlot p s = sendOn p { idleCell s p (ownGid s) with typ := 5, lines := [bs] } [] u ∧ u.mer = s.mer :=
  ⟨(drawBytes 64 s).1, (drawBytes 64 s).2, by simp [sendSlot, hst, htx, hk, drawBytes, idleCell, ownGid], rfl⟩

variable {k : Nat} (hk : slotOffset s p = some k) (hne : k ≠ 0) (hsure : s.mer.unsure = false)
  (hopen : (p, (s.boot.device + k) % 64) ∉ s.mer.muted)
include hk hne hsure hopen

/-- A queued cell before DATA goes ahead of any return entries. -/
theorem sendSlot_queued {t : TxCell} (ht : slotCell s p (64 * s.boot.domain + (s.boot.device + k) % 64) = some t)
    (hcls : t.cls ≠ 5) : sendSlot p s = sendOn p t.cell [] (takeTx t s) := by
  obtain ⟨n, rfl⟩ := Nat.exists_eq_succ_of_ne_zero hne
  simp [sendSlot, hst, htx, hk, hsure, hopen, ht, hcls]

/-- With nothing to send the slot carries an IDLE cell. -/
theorem sendSlot_idle (ht : slotCell s p (64 * s.boot.domain + (s.boot.device + k) % 64) = none)
    (hr : returnCell s (linkDie p) (64 * s.boot.domain + (s.boot.device + k) % 64) = none) :
    sendSlot p s = sendOn p (idleCell s p (64 * s.boot.domain + (s.boot.device + k) % 64)) [] s := by
  obtain ⟨n, rfl⟩ := Nat.exists_eq_succ_of_ne_zero hne
  simp [sendSlot, hst, htx, hk, hsure, hopen, ht, hr]

end

/-! ### The coordinator's cells at a boundary (R366, R369) -/

/-- What the coordinator's cells change: they join the send queue, and what is noted of the last ADDR_SET. -/
def SendsSchedule (s t : State) : Prop := ∃ next cal due l, t = { s with mer := { s.mer with
  addrNext := next, calPlane := cal, setDue := due, tx := s.mer.tx ++ l } }

theorem SendsSchedule.refl (s : State) : SendsSchedule s s := ⟨s.mer.addrNext, s.mer.calPlane, s.mer.setDue, [], by simp⟩

theorem SendsSchedule.trans {a b c : State} (h : SendsSchedule a b) (g : SendsSchedule b c) : SendsSchedule a c := by
  obtain ⟨_, _, _, l, rfl⟩ := h
  obtain ⟨next, cal, due, m, rfl⟩ := g
  exact ⟨next, cal, due, l ++ m, by simp⟩

theorem Sends.schedule {s t : State} (h : Sends s t) : SendsSchedule s t := by
  obtain ⟨l, rfl⟩ := h
  exact ⟨_, _, _, l, rfl⟩

/-- A cell that waits to be sent still waits when others have joined. -/
theorem SendsSchedule.mem_tx {s t : State} (h : SendsSchedule s t) {x : TxCell} (hx : x ∈ s.mer.tx) : x ∈ t.mer.tx := by
  obtain ⟨_, _, _, _, rfl⟩ := h
  exact List.mem_append_left _ hx

theorem SendsSchedule.boot {s t : State} (h : SendsSchedule s t) : t.boot = s.boot := by
  obtain ⟨_, _, _, _, rfl⟩ := h
  rfl

theorem SendsSchedule.job {s t : State} (h : SendsSchedule s t) : t.job = s.job := by
  obtain ⟨_, _, _, _, rfl⟩ := h
  rfl

/-- The other packages of the domain. -/
def otherDevices (s : State) : List Nat := (List.range 64).filter (fun i => decide (i ≠ s.boot.device))

theorem mem_otherDevices {s : State} {i : Nat} : i ∈ otherDevices s ↔ i < 64 ∧ i ≠ s.boot.device := by
  simp [otherDevices]

/-- An ADDR_SET of the coordinator goes to every other package, a copy for each half of the planes. -/
theorem sendAddrSet_sends (s : State) : SendsSchedule s (sendAddrSet s) ∧ ∀ i, i < 64 → i ≠ s.boot.device → ∀ h, h < 2 →
    ∃ x ∈ (sendAddrSet s).mer.tx, x.half = some h ∧ x.cell.dst = 64 * s.boot.domain + i ∧ pNat x.cell 0 1 = 9 := by
  unfold sendAddrSet
  extract_lets cal mask body m u
  have hu : SendsSchedule s u := ⟨some mask, cal, false, [], by simp [u, m]⟩
  rw [foldl_sends (g := fun i => [0, 1].map fun h =>
    { TxCell.plain 2 (controlCell u (64 * u.boot.domain + i) 0x09 body) with half := some h })]
  case hf =>
    rintro _ x ⟨l, rfl⟩
    simp [queueTx, controlCell, ownGid]
  refine ⟨hu.trans ⟨_, _, _, _, rfl⟩, fun i hi hne h hh => ⟨_, List.mem_append_right _ (List.mem_flatten.2
    ⟨_, List.mem_map.2 ⟨i, mem_otherDevices.2 ⟨hi, hne⟩, rfl⟩, List.mem_map.2 ⟨h, ?_, rfl⟩⟩), rfl, rfl, ?_⟩⟩
  · have : h = 0 ∨ h = 1 := by omega
    simpa using this
  · exact pNat_controlCell _ _ _ _

/-- The BEACONs that the coordinator sends. -/
def sendBeaconCells (s : State) : State := (otherDevices s).foldl (fun s i =>
  sendControl (64 * s.boot.domain + i) 0x0B [if s.job.planes16 then 16 else 8] s) s

theorem sendBeaconCells_sends (s : State) : Sends s (sendBeaconCells s) ∧ ∀ i, i < 64 → i ≠ s.boot.device →
    ∃ x ∈ (sendBeaconCells s).mer.tx, x.cell = controlCell s (64 * s.boot.domain + i) 0x0B [if s.job.planes16 = true then 16 else 8] := by
  unfold sendBeaconCells
  rw [foldl_sends (g := fun i => [TxCell.plain 2 (controlCell s (64 * s.boot.domain + i) 0x0B [if s.job.planes16 = true then 16 else 8])])]
  case hf =>
    rintro _ x ⟨l, rfl⟩
    rfl
  exact ⟨⟨_, rfl⟩, fun i hi hne => ⟨_, List.mem_append_right _ (List.mem_flatten.2
    ⟨_, List.mem_map.2 ⟨i, mem_otherDevices.2 ⟨hi, hne⟩, rfl⟩, List.mem_singleton.2 rfl⟩), rfl⟩⟩

/-- Every fourth boundary the coordinator sends an ADDR_SET and the BEACONs. -/
theorem sendBeacons_due {s : State} (hc : s.mer.coordinator = true) (hf : s.mer.superframe = 0) :
    sendBeacons s = sendBeaconCells (sendAddrSet s) := by
  simp [sendBeacons, hc, hf, sendBeaconCells, otherDevices]

theorem sendBeacons_none {s : State} (hc : s.mer.coordinator = false) : sendBeacons s = s := by
  simp [sendBeacons, hc]

theorem sendsSchedule_sendBeacons (s : State) : SendsSchedule s (sendBeacons s) := by
  unfold sendBeacons
  extract_lets beacon u
  refine ite_of (.refl s) ?_
  have hu : SendsSchedule s u := ite_of (sendAddrSet_sends s).1 (.refl s)
  exact ite_of (hu.trans (sendBeaconCells_sends u).1.schedule) hu

/-- The mark in the slot reference, and the mask of the last ADDR_SET: the state from which the coordinator's cells of a
boundary are sent. -/
structure AtBoundary (s t : State) : Prop where
  slot : t.mer.slot = 1023
  superframe : t.mer.superframe = (s.mer.superframe + 1) % 4
  out : t.mer.addrOut = s.mer.addrNext.getD s.mer.addrOut
  next : t.mer.addrNext = none
  coordinator : t.mer.coordinator = s.mer.coordinator
  hbm : t.hbm = s.hbm
  cl : t.cl = s.cl
  boot : t.boot = s.boot
  job : t.job = s.job

/-- SUPERFRAME_BOUNDARY under phase lock: the mark and the mask, then the cells sent. -/
theorem effSuperframeBoundary_locked {s : State} (h : s.mer.phaseLock = true) : ∃ v, AtBoundary s v
    ∧ effSuperframeBoundary s = sendBeacons v := by
  refine ⟨applyAddrSet { s with mer := { s.mer with slot := 1023, superframe := (s.mer.superframe + 1) % 4 } }, ?_,
    if_neg (by simp [h])⟩
  obtain ⟨recs, link, cal, wait, due, hv⟩ :=
    appliesMask_applyAddrSet { s with mer := { s.mer with slot := 1023, superframe := (s.mer.superframe + 1) % 4 } }
  rw [hv]
  exact ⟨rfl, rfl, rfl, rfl, rfl, rfl, rfl, rfl, rfl⟩

/-- What a boundary leaves: the coordinator's cells change nothing that the mark and the mask have set but the next mask. -/
theorem effSuperframeBoundary_frame {s : State} (h : s.mer.phaseLock = true) :
    (effSuperframeBoundary s).mer.slot = 1023 ∧ (effSuperframeBoundary s).mer.superframe = (s.mer.superframe + 1) % 4
    ∧ (effSuperframeBoundary s).mer.addrOut = s.mer.addrNext.getD s.mer.addrOut
    ∧ (effSuperframeBoundary s).hbm = s.hbm ∧ (effSuperframeBoundary s).cl = s.cl := by
  obtain ⟨v, hv, heq⟩ := effSuperframeBoundary_locked h
  obtain ⟨next, cal, due, l, hl⟩ := sendsSchedule_sendBeacons v
  rw [heq, hl]
  exact ⟨hv.slot, hv.superframe, hv.out, hv.hbm, hv.cl⟩

/-- Without the coordinator's part no mask waits after a boundary. -/
theorem effSuperframeBoundary_addrNext {s : State} (h : s.mer.phaseLock = true) (hc : s.mer.coordinator = false) :
    (effSuperframeBoundary s).mer.addrNext = none := by
  obtain ⟨v, hv, heq⟩ := effSuperframeBoundary_locked h
  rw [heq, sendBeacons_none (hv.coordinator.trans hc), hv.next]

/-- Every fourth boundary the coordinator sends every other package a BEACON and an ADDR_SET twice. -/
theorem effSuperframeBoundary_beacons {s : State} (h : s.mer.phaseLock = true) (hc : s.mer.coordinator = true)
    (hf : (s.mer.superframe + 1) % 4 = 0) {i : Nat} (hi : i < 64) (hne : i ≠ s.boot.device) :
    (∃ x ∈ (effSuperframeBoundary s).mer.tx,
      x.cell = controlCell s (64 * s.boot.domain + i) 0x0B [if s.job.planes16 = true then 16 else 8])
    ∧ ∀ k, k < 2 → ∃ x ∈ (effSuperframeBoundary s).mer.tx,
      x.half = some k ∧ x.cell.dst = 64 * s.boot.domain + i ∧ pNat x.cell 0 1 = 9 := by
  obtain ⟨v, hv, heq⟩ := effSuperframeBoundary_locked h
  obtain ⟨hset, hcopies⟩ := sendAddrSet_sends v
  obtain ⟨hsends, hbeacons⟩ := sendBeaconCells_sends (sendAddrSet v)
  rw [heq, sendBeacons_due (hv.coordinator.trans hc) (hv.superframe.trans hf)]
  have hboot : (sendAddrSet v).boot = s.boot := hset.boot.trans hv.boot
  have hjob : (sendAddrSet v).job = s.job := hset.job.trans hv.job
  constructor
  · simpa only [controlCell, ownGid, hboot, hjob] using hbeacons i hi (by rwa [hboot])
  · intro k hk
    obtain ⟨x, hx, hhalf, hdst, hsub⟩ := hcopies i hi (by rwa [hv.boot]) k hk
    exact ⟨x, hsends.schedule.mem_tx hx, hhalf, by rw [hdst, hv.boot], hsub⟩

/-! ### The coordinator (R366, R369, R371) -/

/-- The address-plane count brings links into the schedule and takes them out, and nothing else changes. -/
theorem settlePlanes_eq (s : State) : ∃ link, settlePlanes s
    = { s with mer := { s.mer with planes16 := s.job.planes16 && s.mer.beacon16, link := link } } := by
  refine foldl_keeps (P := fun t => ∃ link, t = { s with mer := { s.mer with
    planes16 := s.job.planes16 && s.mer.beacon16, link := link } }) ?_ _ _ ⟨_, rfl⟩
  rintro _ p ⟨link, rfl⟩
  dsimp only
  split <;> exact ⟨_, rfl⟩

/-- A TIMING cell joins the send queue. -/
theorem sendTiming_eq (dst : Nat) (echo : List Byte) (s : State) : ∃ n x, sendTiming dst echo s
    = { s with free := n, mer := { s.mer with tx := s.mer.tx ++ [x] } } ∧ x.cell.dst = dst ∧ pNat x.cell 0 1 = 10 :=
  ⟨_, _, rfl, rfl, pNat_controlCell _ _ _ _⟩

/-- The state in which the sender of a BEACON is known: the coordinator, when none is or its id is the lower. -/
def heardBeacon (dev : Nat) (s : State) : State :=
  if !s.mer.coordSeen ∨ dev < s.mer.coordId then setCoordinator dev s else s

/-- The coordinator of the package after the choice of `dev`. -/
theorem setCoordinator_mer (dev : Nat) (s : State) : (setCoordinator dev s).mer
    = { s.mer with coordinator := decide (dev = s.boot.device), coordId := dev, coordSeen := true } := rfl

theorem heardBeacon_coordId (dev : Nat) (s : State) : (heardBeacon dev s).mer.coordId
    = if s.mer.coordSeen = false ∨ dev < s.mer.coordId then dev else s.mer.coordId := by
  simp only [heardBeacon, Bool.not_eq_true', apply_ite State.mer, apply_ite Mer.coordId, setCoordinator_mer]

theorem heardBeacon_setSeen (dev : Nat) (s : State) : (heardBeacon dev s).mer.setSeen = s.mer.setSeen :=
  ite_of (P := fun t : State => t.mer.setSeen = s.mer.setSeen) rfl rfl

/-- A BEACON that makes its sender the coordinator, or comes from the coordinator of another package, finds the package no
coordinator. -/
theorem heardBeacon_follows {dev : Nat} {s : State} (hdev : dev ≠ s.boot.device)
    (h : s.mer.coordSeen = false ∨ dev < s.mer.coordId ∨ (dev = s.mer.coordId ∧ s.mer.coordinator = false)) :
    dev = (heardBeacon dev s).mer.coordId ∧ (heardBeacon dev s).mer.coordinator = false := by
  unfold heardBeacon
  split
  · exact ⟨rfl, decide_eq_false hdev⟩
  · next hold =>
    rw [Bool.not_eq_true', not_or] at hold
    exact (h.resolve_left hold.1).resolve_left hold.2

/-- The BEACON of the coordinator is taken: it gives the count of planes, and is answered with TIMING. -/
def takeBeacon (c : Cell) (s : State) : State :=
  sendTiming c.src (List.replicate 8 0) (settlePlanes { s with mer := { s.mer with
    beacon16 := decide (pNat c 8 1 = 16), setSeen := false, unsure := !s.mer.setSeen } })

/-- What a BEACON that is taken leaves. -/
structure TakesBeacon (c : Cell) (s t : State) : Prop where
  coordId : t.mer.coordId = s.mer.coordId
  coordinator : t.mer.coordinator = s.mer.coordinator
  count : t.mer.beacon16 = decide (pNat c 8 1 = 16)
  sure : t.mer.unsure = !s.mer.setSeen
  answered : ∃ x ∈ t.mer.tx, x.cell.dst = c.src ∧ pNat x.cell 0 1 = 10

theorem takesBeacon_takeBeacon (c : Cell) (s : State) : TakesBeacon c s (takeBeacon c s) := by
  obtain ⟨link, hlink⟩ := settlePlanes_eq { s with mer := { s.mer with
    beacon16 := decide (pNat c 8 1 = 16), setSeen := false, unsure := !s.mer.setSeen } }
  obtain ⟨n, x, hx, hdst, hsub⟩ := sendTiming_eq c.src (List.replicate 8 0) (settlePlanes { s with mer := { s.mer with
    beacon16 := decide (pNat c 8 1 = 16), setSeen := false, unsure := !s.mer.setSeen } })
  rw [takeBeacon, hx, hlink]
  exact ⟨rfl, rfl, rfl, rfl, x, List.mem_append_right _ (List.mem_singleton.2 rfl), hdst, hsub⟩

/-- A BEACON of another package of the domain: its sender may become the coordinator, and the coordinator's is taken. -/
theorem effBeacon_heard {s : State} {p : Nat} {c : Cell} (h : ControlCell s p c 11) (hown : ownDomain s c.src = true)
    (hdev : c.src % 64 ≠ s.boot.device) : effBeacon p c s
    = if c.src % 64 = (heardBeacon (c.src % 64) s).mer.coordId ∧ !(heardBeacon (c.src % 64) s).mer.coordinator
      then takeBeacon c (heardBeacon (c.src % 64) s) else heardBeacon (c.src % 64) s :=
  (controlIn_of_delivered h).trans (if_neg (by simp [hown, hdev]))

theorem effBeacon_coordId {s : State} {p : Nat} {c : Cell} (h : ControlCell s p c 11) (hown : ownDomain s c.src = true)
    (hdev : c.src % 64 ≠ s.boot.device) : (effBeacon p c s).mer.coordId
    = if s.mer.coordSeen = false ∨ c.src % 64 < s.mer.coordId then c.src % 64 else s.mer.coordId := by
  rw [effBeacon_heard h hown hdev, ← heardBeacon_coordId]
  exact ite_of (P := fun t : State => t.mer.coordId = _) (takesBeacon_takeBeacon c _).coordId rfl

/-- COORDINATOR_TIMEOUT chooses the lowest id of those heard and the package's own. -/
theorem effCoordinatorTimeout_chooses {s : State} (heard : List Nat) (hc : s.mer.coordinator = false)
    (hl : s.mer.phaseLock = true) {dev : Nat} (hdev : dev = (heard.filter (fun i => decide (i < 64))).foldl min s.boot.device) :
    (effCoordinatorTimeout heard s).mer.coordId = dev
    ∧ (effCoordinatorTimeout heard s).mer.coordinator = decide (dev = s.boot.device) := by
  have hgo : ¬ (s.mer.coordinator ∨ !s.mer.phaseLock) := by simp [hc, hl]
  subst hdev
  rw [effCoordinatorTimeout, if_neg hgo]
  extract_lets dev u
  refine ite_of (P := fun t : State => t.mer.coordId = dev ∧ t.mer.coordinator = decide (dev = s.boot.device)) ?_ ⟨rfl, rfl⟩
  obtain ⟨link, hlink⟩ := settlePlanes_eq { u with mer := { u.mer with beacon16 := u.job.planes16 } }
  rw [hlink]
  exact ⟨rfl, rfl⟩

/-! ### Reports and muted slots (R369, R399, R400) -/

theorem mem_takeReport {p q : Nat} {up : Bool} {s : State} :
    q ∈ (takeReport p up s).mer.reports ↔ (q ∈ s.mer.reports ∧ q ≠ p) ∨ (q = p ∧ up = false) := by
  cases up <;> simp [takeReport, or_comm]

/-- Settles O46: each clause is the lemma about its command; of a boundary, what its three parts leave. -/
theorem theAddressScheduleRuns : Obligations.TheAddressScheduleRuns := by
  unfold Obligations.TheAddressScheduleRuns
  refine ⟨fun s hl => ⟨_, rfl, answers_of_eq (if_neg (by simp [hl]))⟩,
    fun s p k hst htx hk => ⟨?own, ?other⟩,
    fun s p hin hown => slotOffset_own hin hown,
    fun s hl => ⟨_, rfl, ?boundary⟩,
    fun s p c => ⟨fun h hc hsrc => answers_of_eq ((controlIn_of_delivered h).trans (if_pos ⟨by simp [hc], hsrc⟩)),
      fun h hc hp => ⟨_, answers_of_eq ((controlIn_of_delivered h).trans (if_pos ⟨hc, hp⟩)), ?report⟩,
      fun h hown hdev => ⟨_, rfl, effBeacon_coordId h hown hdev, fun hnew => ?beacon⟩,
      fun off h => ⟨fun hc hsrc => answers_of_eq ((controlIn_of_delivered h).trans ((if_neg (by simp [hc])).trans (if_pos hsrc))),
        fun hc => answers_of_eq ((controlIn_of_delivered h).trans (if_pos hc))⟩⟩,
    fun s heard hc hl => ⟨_, rfl, effCoordinatorTimeout_chooses heard hc hl rfl⟩,
    fun s hc hout hrep hcal => ⟨_, answers_of_eq (if_pos ⟨hc, hout, hrep, hcal⟩), rfl, rfl, rfl, rfl⟩,
    fun s plane dev hp hd hnew => ⟨_, answers_of_eq (if_pos ⟨hp, hd, by simpa using hnew⟩), fun m => List.mem_cons, rfl⟩,
    fun s plane dev => ⟨_, rfl, fun m => ?resumed, rfl⟩⟩
  case own =>
    rintro rfl
    exact sendSlot_own hst htx hk
  case other =>
    rintro gid rfl hne hsure hopen
    exact ⟨fun t ht hcls => sendSlot_queued hst htx hk hne hsure hopen ht hcls,
      fun ht hr => sendSlot_idle hst htx hk hne hsure hopen ht hr⟩
  case boundary =>
    obtain ⟨hslot, hsuper, hout, hhbm, hcl⟩ := effSuperframeBoundary_frame hl
    exact ⟨hslot, hsuper, fun hc => effSuperframeBoundary_addrNext hl hc, hout, hhbm, hcl,
      fun hc hf i hi hne => effSuperframeBoundary_beacons hl hc hf hi hne⟩
  case report => exact ⟨fun q => by rw [mem_takeReport]; simp, rfl, rfl, rfl⟩
  case beacon =>
    obtain ⟨hid, hco⟩ := heardBeacon_follows hdev hnew
    have h2 := takesBeacon_takeBeacon c (heardBeacon (c.src % 64) s)
    rw [effBeacon_heard h hown hdev, if_pos ⟨hid, by simp [hco]⟩]
    exact ⟨h2.coordinator.trans hco, h2.count, h2.sure.trans (by rw [heardBeacon_setSeen]), h2.answered⟩
  case resumed => simp [effMuteResume, and_comm]

end Sys2Proof.Machine
end

section
/-! PROOF. Family 10_meridian_fabric.md: the filters that a received cell passes, DATA cells by the kind of their context, BARRIER,
ABORT and TEST cells, return entries, lost periods and the blocks of leased links (R355, R356, R380 to R385, R392, R394,
R416, R430, R433): O47. -/

namespace Sys2Proof.Machine

/-! ### The filters of a received cell (R355, R392, R394) -/

section
variable {s : State} {p : Nat} {c : Cell} (hrx : receiving s p = true)
include hrx

/-- A cell of another plane, or for another package of the domain off a domain plane's gateway, is misdirected. -/
theorem front_misdirected (f : State → State)
    (h : c.plane ≠ p ∨ (c.dst ≠ ownGid s ∧ ownDomain s c.dst = true ∧ (linkOf s p).cabNow ≠ 1)) :
    front p c f s = misdirected p c s := by
  unfold front
  rw [if_neg (by simp [hrx])]
  by_cases hp : c.plane = p
  · obtain ⟨hdst, hown, hcab⟩ := h.resolve_left (not_not_intro hp)
    rw [if_neg (not_not_intro hp), if_pos hdst, if_neg (by simp [hown, hcab])]
  · rw [if_pos hp]

variable (hp : c.plane = p)
include hp

/-- A cell for another domain, or that came through a gateway, is relayed. -/
theorem front_elsewhere (f : State → State) (hdst : c.dst ≠ ownGid s)
    (h : ownDomain s c.dst = false ∨ (linkOf s p).cabNow = 1) : front p c f s = passOn p c s := by
  unfold front
  rw [if_neg (by simp [hrx]), if_neg (not_not_intro hp), if_pos hdst, if_pos (by simpa using h)]

/-- A cell of a filtered type from a device without permission is counted. -/
theorem front_forbidden (f : State → State) (hdst : c.dst = ownGid s) (hf : filtered c = true) (hsrc : c.src ≠ ownGid s)
    (hperm : permitted s (linkDie p) c.src = false) : front p c f s = countPermit p s := by
  unfold front
  rw [if_neg (by simp [hrx]), if_neg (not_not_intro hp), if_neg (not_not_intro hdst), if_pos (by simp [hf, hsrc, hperm])]

end

/-! ### DATA cells (R382, R385, R416) -/

section
variable {s : State} {p : Nat} {c : Cell} {f : Ctx → State → State}

theorem dataTake_unloaded (hx : ctxOf s c.flow = none) : dataTake p c f s = refuseCell 1 c s := by
  simp only [dataTake, hx]

variable {x : Ctx} (hx : ctxOf s c.flow = some x)
include hx

theorem dataTake_seen (h : c.seq ∈ x.seen.get [] c.src) : dataTake p c f s = countDup p (ackCell c s) := by
  simp [dataTake, hx, h]

theorem dataTake_quiet (h : c.seq ∉ x.seen.get [] c.src) (hq : x.quiet = true) : dataTake p c f s = quietDrop c s := by
  simp [dataTake, hx, h, hq]

theorem dataTake_epoch (h : c.seq ∉ x.seen.get [] c.src) (hq : x.quiet = false) (he : c.epoch ≠ cEpoch x) :
    dataTake p c f s = refuseCell 2 c s := by
  simp [dataTake, hx, h, hq, he]

omit hx in
theorem dataTake_fresh (h : Fresh s c x) : dataTake p c f s = f x s := by
  simp [dataTake, h.ctx, h.new, h.loud, h.epoch]

end

/-- A DATA cell of lines, not of an engine, passes the filters and lands. -/
theorem effDataCell_lines {c : Cell} (htyp : c.typ = 1) (hne : c.lines ≠ []) (hlen : c.lines.length ≤ 4)
    (hoff : c.off ≠ engineOff) (p aux : Nat) (s : State) :
    effDataCell p c aux s = fabEnd (front p c (dataTake p c (landOrHold p c aux)) s) := by
  simp [effDataCell, dataFront, htyp, hne, Nat.not_lt.2 hlen, hoff]

/-! ### What lands, by the kind of the context (R414 to R416) -/

section
variable {s : State} {c : Cell} {x : Ctx} (p aux : Nat)

theorem landOrHold_awake (h : inSelfRefresh s (cellSectors s x aux c) = false) :
    landOrHold p c aux x s = landData p c aux x s := if_neg (by simp [h])

variable {i : Nat} (hi : cIndex x c.src = some i)
include hi

theorem landData_put (hk : cKind x = 1) (hself : cSelf x = 0) (hin : c.off + c.lines.length ≤ cLines x) :
    landData p c aux x s = putCell p c s := by
  simp [landData, hk, hi, hself, Nat.not_lt.2 hin]

theorem landData_reduce (hk : cKind x = 2) (hnext : (i + 1) % cMembers x = cSelf x) (haux : aux = 0 ∨ cMode x = 1)
    (hin : c.off + c.lines.length ≤ regionLines s x aux) : landData p c aux x s = takeRunCell x i aux c s := by
  have hphase : ¬ (aux ≠ 0 ∧ cMode x ≠ 1) := by omega
  simp only [landData, hk, hi, hnext]
  rw [if_neg (by simpa using hphase), if_neg (Nat.not_lt.2 hin)]

theorem landData_gather (hk : cKind x = 3) (hnext : (i + 1) % cMembers x = cSelf x) (hin : c.off + c.lines.length ≤ cLines x) :
    landData p c aux x s = takeRunCell x i 0 c s := by
  simp [landData, hk, hi, hnext, Nat.not_lt.2 hin]

theorem landData_stripe (hk : cKind x = 6) (hrun : runOf s c.flow = none) (hin : c.off + c.lines.length ≤ cLines x) :
    landData p c aux x s = stripeCell x i c s := by
  simp [landData, hk, hi, hrun, Nat.not_lt.2 hin]

theorem landData_fetch (hk : cKind x = 7) {e : Nat × LEntry}
    (he : (recovsOf s c.flow 1).find? (fun e => decide (2048 * e.1 + e.2.idx = aux ∧ e.2.holder = i)) = some e)
    (hin : c.off + c.lines.length ≤ dLines e.2.desc) :
    landData p c aux x s = fetchLines e.1 e.2.idx i 0 c.off (cellLines c) (noteSeq c (ackCell c s)) := by
  simp only [landData, hk, hi, he]
  exact if_neg (Nat.not_lt.2 hin)

omit hi in
theorem landData_permute (hk : cKind x = 5) : landData p c aux x s = permCell aux c s := by
  simp [landData, hk]

end

/-! ### BARRIER, ABORT and TEST cells (R354, R430 to R433) -/

/-- A round that the expected sender closes, of the present run or the next, is kept. -/
theorem effBarrierCell_kept {s : State} {p : Nat} {c : Cell} {x : Ctx} (htyp : c.typ = 3) (hd : Delivered s p c)
    (hx : ctxOf s c.flow = some x) (he : c.epoch = cEpoch x)
    (hinst : pNat c 0 4 = x.runs ∨ pNat c 0 4 = (x.runs + 1) % 2 ^ 32) (hr : pNat c 4 1 < 7)
    (hsrc : c.src = cMember x ((cSelf x + 128 * cMembers x - 2 ^ pNat c 4 1) % cMembers x))
    (hnew : (pNat c 0 4, pNat c 5 1, pNat c 4 1) ∉ x.rounds) : effBarrierCell p c s
      = fabEnd (setCtx s c.flow { x with rounds := x.rounds ++ [(pNat c 0 4, pNat c 5 1, pNat c 4 1)] }) := by
  unfold effBarrierCell
  rw [if_neg (not_not_intro htyp), front_of_delivered hd]
  simp only [hx]
  rw [if_pos ⟨he, hinst, hr, hsrc, by simpa using hnew⟩]

/-- An ABORT of a serial that has not come before acts. -/
theorem effAbortCell_new {s : State} {p : Nat} {c : Cell} (htyp : c.typ = 4) (hd : Delivered s p c) {a : AbortInfo}
    (ha : a = { group := pNat c 0 2, cause := pNat c 2 1, serial := BitVec.ofNat 32 (pNat c 4 4), origin := pNat c 8 2 })
    (hnew : (a.origin, a.serial) ∉ s.mer.aborts) {u : State}
    (hu : u = { s with mer := { s.mer with aborts := (a.origin, a.serial) :: s.mer.aborts } }) : effAbortCell p c s
      = fabEnd (if a.group = 0xFFFF then abortFlow a (pNat c 10 2) u else abortGroup a (spreadAbort a (pNat c 10 2) (pNat c 12 1) u)) := by
  subst ha hu
  unfold effAbortCell
  rw [if_neg (not_not_intro htyp), front_of_delivered hd]
  exact congrArg fabEnd (if_neg (by simpa using hnew))

section
variable {s : State} {p : Nat} {c : Cell} (htyp : c.typ = 5)
  (hd : Delivered s p c ∨ (receiving s p = true ∧ isAddr s p = true ∧ slotOffset s p = some 0))
include htyp hd

omit htyp in
/-- A TEST cell that is delivered, or that comes in the slot of the loopback, is checked. -/
theorem testCell_passes (check : State → State) :
    (if receiving s p && isAddr s p && decide (slotOffset s p = some 0) then check s else front p c check s) = check s := by
  rcases hd with hd | ⟨hrx, haddr, hslot⟩
  · rw [front_of_delivered hd, ite_self]
  · exact if_pos (by simp [hrx, haddr, hslot])

/-- On a line heard from READY on the check is that of the frames of a calibration. -/
theorem effTestFrame_heard {k : Nat} (hk : heardLine s p = some k) (hr : s.boot.ready = true) :
    effTestFrame p c s = framesService [⟨p, k, c.src⟩] s := by
  unfold effTestFrame
  rw [if_neg (not_not_intro htyp)]
  refine (testCell_passes hd _).trans ?_
  simp only [hk, hr, if_true]

/-- Without a line, or before READY, the cell shows nothing. -/
theorem effTestFrame_unheard (h : heardLine s p = none ∨ s.boot.ready = false) : effTestFrame p c s = s := by
  unfold effTestFrame
  rw [if_neg (not_not_intro htyp)]
  refine (testCell_passes hd _).trans ?_
  split
  · next k hk => exact if_neg (by simpa [hk] using h)
  · rfl

end

/-! ### Return entries (Table 10.4) -/

/-- The DATA cells that an ACK covers. -/
def acked (s : State) (src : Nat) (e : W64) (c : Cell) : Bool := decide (c.typ = 1 ∧ c.src = ownGid s ∧ c.dst = src
  ∧ c.flow = fld e 8 16 ∧ (c.seq + 4096 - fld e 24 12) % 4096 < fld e 36 12)

/-- An ACK takes the cells it covers from those sent and queued, and otherwise changes only what links and FPUTs note. -/
theorem takeAck_eq (src : Nat) (e : W64) (s : State) : ∃ link phot, takeAck src e s = { s with mer := { s.mer with
    link := link, phot := phot, sent := s.mer.sent.filter (fun x => !acked s src e x.cell)
    tx := s.mer.tx.filter (fun t => !acked s src e t.cell) } } := by
  unfold takeAck
  extract_lets flow seq n mine done u
  have hu : ∃ link, u = { s with mer := { s.mer with link := link } } := by
    refine foldl_keeps (P := fun t => ∃ link, t = { s with mer := { s.mer with link := link } }) ?_ _ _ ⟨_, rfl⟩
    rintro _ x ⟨link, rfl⟩
    dsimp only
    split <;> exact ⟨_, rfl⟩
  clear_value u
  obtain ⟨link, rfl⟩ := hu
  exact ⟨link, _, rfl⟩

theorem ctxOf_setCtx_same (s : State) (id : Nat) (x : Ctx) : ctxOf (setCtx s id x) id = some x := by
  simp only [ctxOf, setCtx, photOf_setPhot_same, find_put_same]

/-- A CREDIT adds its lines to what the sender has granted the flow. -/
theorem takeCredit_adds {s : State} {src : Nat} {e : W64} {x : Ctx} (hx : ctxOf s (fld e 8 16) = some x) :
    ctxOf (takeCredit src e s) (fld e 8 16)
      = some { x with credit := x.credit.put src (x.credit.get 0 src + fld e 48 16) } := by
  simp only [takeCredit, hx, ctxOf_setCtx_same]

/-- A LOST entry that names the period of a DATA cell of the package's own, not acknowledged, sends that cell again. -/
theorem takeLost_resends {s : State} {src : Nat} {e : W64} {n : Nat} {c : Cell} {x : Sent}
    (hh : (linkOf s (fld e 48 6)).hist.find? (fun h =>
      decide (h.1 = (linkOf s (fld e 48 6)).good.get 0 src + fld e 36 12)) = some (n, c))
    (htyp : c.typ = 1) (hsrc : c.src = ownGid s)
    (hx : s.mer.sent.find? (fun x => decide (x.cell = c ∧ x.link = fld e 48 6)) = some x) : takeLost src e s
      = { s with mer := { s.mer with
          sent := s.mer.sent.erase x, tx := { TxCell.plain 5 c with avoid := some (fld e 48 6) } :: s.mer.tx } } := by
  simp only [takeLost, hh]
  rw [if_neg (not_not_intro htyp), if_neg (not_not_intro hsrc)]
  simp only [hx]

/-- One entry of a leased block acts by its kind. -/
theorem entryIn_acts {kind src : Nat} {e : W64} (hk : fld e 0 4 = kind) (hs : src < 1024) (s : State) :
    entryIn kind src e s = afterEntries (takeEntry src e s) := if_pos ⟨hk, hs⟩

/-! ### Lost periods and the blocks of leased links (R356, R379, R380, R384) -/

/-- The state in which a lost period is counted. -/
def countLost (p : Nat) (s : State) : State :=
  setLink s p { linkOf s p with lost := satInc 0xFFFF (linkOf s p).lost, clean := false }

section
variable {s : State} {p count : Nat} (hrx : receiving s p = true) (h1 : 1 ≤ count) (hmax : count ≤ 1023)
include hrx h1 hmax

theorem effPeriodLost_owes {g : Nat} (hg : periodSource (countLost p s) p = some g) :
    effPeriodLost p count s = owe g 3 0 0 count p (countLost p s) := by
  have hgo : ¬ (!receiving s p ∨ count = 0 ∨ 1023 < count) := by simp [hrx]; omega
  rw [countLost] at hg
  simp only [effPeriodLost, if_neg hgo, hg, countLost]

theorem effPeriodLost_unheard (hg : periodSource (countLost p s) p = none) : effPeriodLost p count s = countLost p s := by
  have hgo : ¬ (!receiving s p ∨ count = 0 ∨ 1023 < count) := by simp [hrx]; omega
  rw [countLost] at hg
  simp only [effPeriodLost, if_neg hgo, hg, countLost]

end

/-- The return entries that a block of link `p` carries: up to six of the device it aims at. -/
def blockEntries (s : State) (p : Nat) : List (Nat × W64) :=
  (s.mer.rets.filter (fun x => decide (some x.1 = aim (linkOf s p)))).take 6

/-- The return field that holds them. -/
def blockTail (es : List (Nat × W64)) : List Byte :=
  (es.map (fun e => leBytes 8 e.2.toNat)).flatten ++ List.replicate (48 - 8 * es.length) 0

/-- Whether a link may carry the cells of its port now. -/
def blockOpen (s : State) (p : Nat) : Bool :=
  decide ((linkOf s p).state = 3 ∧ (linkOf s p).ending = none ∧ (linkOf s p).idleUntil.toNat ≤ s.aoCount.toNat)
  && !(linkOf s p).parked

section
variable {s : State} {p : Nat} (hp : p < 64)
  (hlease : (linkOf s p).txEn = true ∨ (linkOf s p).rxEn = true ∨ (linkOf s p).ending.isSome = true)
  (hst : (linkOf s p).state = 2 ∨ (linkOf s p).state = 3 ∨ (linkOf s p).state = 9) (htx : (linkOf s p).txLock = true)
include hp hlease hst htx

/-- Such a link sends light. -/
theorem effLeasedBlock_lit : ¬ (64 ≤ p ∨ !((linkOf s p).txEn || (linkOf s p).rxEn || (linkOf s p).ending.isSome)
    ∨ ((linkOf s p).state ≠ 2 ∧ (linkOf s p).state ≠ 3 ∧ (linkOf s p).state ≠ 9) ∨ !(linkOf s p).txLock) := by
  have hon : ((linkOf s p).txEn || (linkOf s p).rxEn || (linkOf s p).ending.isSome) = true := by
    rcases hlease with h | h | h <;> simp [h]
  simp only [hon, htx, Bool.not_true, Bool.false_eq_true, false_or, or_false, not_or]
  omega

/-- An open link carries the first queued cell that its port takes. -/
theorem effLeasedBlock_cell (ho : blockOpen s p = true) {t : TxCell}
    (ht : (dropRets (blockEntries s p) s).mer.tx.find? (portTakes (dropRets (blockEntries s p) s) p) = some t) :
    effLeasedBlock p s
      = sendOn p t.cell (blockTail (blockEntries s p)) (takeTx t (dropRets (blockEntries s p) s)) := by
  rw [effLeasedBlock, if_neg (effLeasedBlock_lit hp hlease hst htx)]
  extract_lets es tail u ok
  have hok : ok = true := ho
  have hcell : u.mer.tx.find? (portTakes u p) = some t := ht
  simp only [hok, if_true, hcell]
  rfl

/-- Another, and an open one with nothing to send, carries an IDLE cell. -/
theorem effLeasedBlock_idle (h : blockOpen s p = false
      ∨ (dropRets (blockEntries s p) s).mer.tx.find? (portTakes (dropRets (blockEntries s p) s) p) = none) :
    effLeasedBlock p s = sendOn p (idleCell (dropRets (blockEntries s p) s) p
      ((aim (linkOf s p)).getD (ownGid (dropRets (blockEntries s p) s)))) (blockTail (blockEntries s p))
      (dropRets (blockEntries s p) s) := by
  rw [effLeasedBlock, if_neg (effLeasedBlock_lit hp hlease hst htx)]
  extract_lets es tail u ok
  have hnone : (if ok = true then u.mer.tx.find? (portTakes u p) else none) = none := by
    rcases h with h | h
    · exact if_neg (by rw [show ok = false from h]; exact Bool.false_ne_true)
    · rw [show u.mer.tx.find? (portTakes u p) = none from h, ite_self]
  simp only [hnone]
  rfl

end

/-- Settles O47: the filters, then each kind of cell and entry by the lemma about it. -/
theorem cellsAreFilteredAndServed : Obligations.CellsAreFilteredAndServed := by
  unfold Obligations.CellsAreFilteredAndServed
  refine ⟨fun s p aux c htyp hne hlen hoff hrx => ?data,
    fun s p c x htyp hd hx he hinst hr hsrc hnew => answers_of_eq (effBarrierCell_kept htyp hd hx he hinst hr hsrc hnew),
    fun s p c htyp hd hnew => ⟨_, _, rfl, rfl, answers_of_eq (effAbortCell_new htyp hd rfl hnew rfl)⟩,
    fun s p c htyp hd => ⟨fun k hk hr => answers_of_eq (effTestFrame_heard htyp hd hk hr),
      fun h => answers_of_eq (effTestFrame_unheard htyp hd h)⟩,
    fun s p hrx => answers_of_eq (if_pos hrx),
    fun s src e hs => ⟨fun hk => ⟨?ack, ?acked⟩, fun hk => ⟨?credit, fun x hx => ?credited⟩, fun hk => ?misroute,
      fun hk => ⟨?lost, fun n c x hh htyp hsrc hx => ?resent⟩⟩,
    fun s p c h => answers_of_eq (controlIn_of_delivered h),
    fun s p count hrx h1 hmax => ⟨_, rfl, fun g hg => answers_of_eq (effPeriodLost_owes hrx h1 hmax hg),
      fun hg => answers_of_eq (effPeriodLost_unheard hrx h1 hmax hg)⟩,
    fun s p hp hlease hst htx => ?block⟩
  case data =>
    have hcell : ∀ {t}, front p c (dataTake p c (landOrHold p c aux)) s = t →
        Answers (exec (.dataCell p c aux) s) (fabEnd t) := fun h =>
      answers_of_eq ((effDataCell_lines htyp hne hlen hoff p aux s).trans (congrArg fabEnd h))
    refine ⟨fun h => hcell (front_misdirected hrx _ h), fun hp hdst h => hcell (front_elsewhere hrx hp _ hdst h),
      fun hdst hp hsrc hperm => hcell (front_forbidden hrx hp _ hdst (by simp [filtered, htyp]) hsrc hperm),
      fun hd hx => hcell ((front_of_delivered hd).trans (dataTake_unloaded hx)), fun x hd hx => ?_⟩
    have htake : ∀ {t}, dataTake p c (landOrHold p c aux) s = t → Answers (exec (.dataCell p c aux) s) (fabEnd t) :=
      fun h => hcell ((front_of_delivered hd).trans h)
    refine ⟨fun h => htake (dataTake_seen hx h), fun h hq => htake (dataTake_quiet hx h hq),
      fun h hq he => htake (dataTake_epoch hx h hq he), fun i hf hawake hi => ?_⟩
    have hland : ∀ {t}, landData p c aux x s = t → Answers (exec (.dataCell p c aux) s) (fabEnd t) :=
      fun h => htake ((dataTake_fresh hf).trans ((landOrHold_awake p aux hawake).trans h))
    exact ⟨fun hk hself hin => hland (landData_put p aux hi hk hself hin),
      fun hk hnext haux hin => hland (landData_reduce p aux hi hk hnext haux hin),
      fun hk hnext hin => hland (landData_gather p aux hi hk hnext hin),
      fun hk hrun hin => hland (landData_stripe p aux hi hk hrun hin),
      fun e hk he hin => hland (landData_fetch p aux hi hk he hin), fun hk => hland (landData_permute p aux hk)⟩
  case ack => exact answers_of_eq ((entryIn_acts hk hs s).trans (by simp only [takeEntry, hk]))
  case acked =>
    obtain ⟨link, phot, heq⟩ := takeAck_eq src e s
    rw [heq]
    exact ⟨fun x hx => (List.mem_filter.1 hx).1, fun x hx hdst => List.mem_filter.2 ⟨hx, by simp [acked, hdst]⟩⟩
  case credit => exact answers_of_eq ((entryIn_acts hk hs s).trans (by simp only [takeEntry, hk]))
  case credited => exact ⟨_, takeCredit_adds hx, Tab.get_put_same _ _ _ _, rfl⟩
  case misroute => exact answers_of_eq ((entryIn_acts hk hs s).trans (by simp only [takeEntry, hk, takeMisroute]))
  case lost => exact answers_of_eq ((entryIn_acts hk hs s).trans (by simp only [takeEntry, hk]))
  case resent =>
    rw [takeLost_resends hh htyp hsrc hx]
    exact ⟨rfl, rfl⟩
  case block =>
    rintro _ _ _ rfl rfl rfl
    refine ⟨fun t hjoin hend hidle hpark ht => answers_of_eq (effLeasedBlock_cell hp hlease hst htx ?_ ht),
      fun h => answers_of_eq (effLeasedBlock_idle hp hlease hst htx ?_)⟩
    · simp [blockOpen, hjoin, hend, hidle, hpark]
    · rcases h with h | h | h | h | h
      · exact .inl (by simp [blockOpen, h])
      · exact .inl (by simp [blockOpen, Option.isSome_iff_ne_none.1 h])
      · exact .inl (by simp [blockOpen, Nat.not_le.2 h])
      · exact .inl (by simp [blockOpen, h])
      · exact .inr h

end Sys2Proof.Machine
end

section
/-! PROOF. Family 10_meridian_fabric.md: what the operations that links share leave, and leases from the plan that begins them to
the calibration of their links (R373 to R378, R389, R395, R396, R399): O48. -/

namespace Sys2Proof.Machine

/-! ### Links after the operations that they share -/

/-- Of two writes to a unit the second stands. -/
theorem Tab.put_put {α : Type} (t : Tab α) (j : Nat) (v w : α) : (t.put j v).put j w = t.put j w := by
  induction t with
  | nil => simp [Tab.put]
  | cons p t ih =>
    obtain ⟨k, x⟩ := p
    by_cases hk : j = k
    · simp [Tab.put, hk]
    · by_cases hlt : j < k
      · simp [Tab.put, hk, hlt]
      · simp [Tab.put, hk, hlt, ih]

theorem setLink_setLink (s : State) (p : Nat) (x y : Link) : setLink (setLink s p x) p y = setLink s p y := by
  simp only [setLink, Tab.put_put]

theorem Sends.linkOf {s t : State} (h : Sends s t) (p : Nat) : linkOf t p = linkOf s p := by
  obtain ⟨l, rfl⟩ := h
  rfl

@[simp] theorem linkOf_linkRec (p cls out peer q : Nat) (s : State) : linkOf (linkRec p cls out peer s) q = linkOf s q := rfl

@[simp] theorem linkOf_withdraw (p q : Nat) (s : State) : linkOf (withdraw p s) q = linkOf s q := rfl

/-- A link that is withdrawn has no cell left to acknowledge. -/
theorem not_mem_sent_withdraw {p : Nat} {s : State} : ∀ x ∈ (withdraw p s).mer.sent, x.link ≠ p :=
  fun _ hx => of_decide_eq_true (List.mem_filter.1 hx).2

/-- The cells that wait still wait after a withdrawal. -/
theorem mem_tx_withdraw {p : Nat} {s : State} {t : TxCell} (h : t ∈ s.mer.tx) : t ∈ (withdraw p s).mer.tx :=
  List.mem_append_right _ h

/-- Which links are address links is a matter of the count of planes. -/
theorem isAddr_congr {s t : State} (h : t.mer.planes16 = s.mer.planes16) (p : Nat) : isAddr t p = isAddr s p := by
  unfold isAddr planeCount
  rw [h]

theorem sends_sendOffer (p : Nat) (s : State) : Sends s (sendOffer p s) := ite_of (sends_sendControl _ _ _ s) (.refl s)

/-- An offer is made in the handshake alone. -/
theorem sendOffer_of_state {p : Nat} {s : State} (h : (linkOf s p).state ≠ 2) : sendOffer p s = s :=
  if_neg fun hh => h hh.1

theorem sendOffer_ready {p : Nat} {s : State} (hst : (linkOf s p).state = 2) (hen : (linkOf s p).txEn = true)
    (hl : (linkOf s p).txLock = true) (he : (linkOf s p).ending = none) :
    sendOffer p s = sendControl (linkOf s p).txGid 2 (leaseBody s p (linkOf s p).txLine 0) s :=
  if_pos ⟨hst, hen, hl, he⟩

/-- PLAN_STATE alone follows the links. -/
theorem settlePlan_eq (s : State) : ∃ n, settlePlan s = { s with mer := { s.mer with planState := n } } := by
  unfold settlePlan
  split
  · exact ⟨_, rfl⟩
  · exact ⟨s.mer.planState, rfl⟩

theorem linkOf_settlePlan (s : State) (p : Nat) : linkOf (settlePlan s) p = linkOf s p := by
  obtain ⟨n, h⟩ := settlePlan_eq s
  rw [h]
  rfl

/-- With no old lease ending, none ends. -/
theorem endOlds_of_none {s : State} (h : ∀ q, (linkOf s q).ending = none) : endOlds s = s :=
  foldl_keeps (P := fun t => t = s) (fun t q ht => by subst ht; exact if_neg (by simp [h q])) _ s rfl

/-- Without a calibration that waits none begins. -/
theorem startPlaneCal_idle {s : State} (h : s.mer.calWait = false) : startPlaneCal s = s := if_neg (by simp [h])

theorem calibrating_none {s : State} (h : ∀ q, q < 64 → (linkOf s q).state ≠ 5) : calibrating s = false :=
  List.any_eq_false.2 fun q hq => by simpa using h q (List.mem_range.1 hq)

/-! ### LEASE_LOAD (R373, R375) -/

/-- A command passes its checks after a read of HBM as before it. -/
theorem Passes.of_readsHbm {s u : State} {st op : Nat} (h : Passes s st op) (hr : ReadsHbm s u) : Passes u st op := by
  obtain ⟨_, _, _, _, _, rfl⟩ := hr
  exact ⟨h.fields, h.done, h.waits⟩

/-- What the dispatch of a stream rests on is no matter of HBM. -/
theorem ReadsHbm.dispatch {s u : State} (h : ReadsHbm s u) (st : Nat) (late : List Nat) : headCmd u st = headCmd s st
    ∧ pickStream u late = pickStream s late ∧ u.seqNo = s.seqNo ∧ u.job = s.job ∧ fenced u = fenced s := by
  obtain ⟨_, _, _, _, _, rfl⟩ := h
  exact ⟨rfl, rfl, rfl, rfl, rfl⟩

/-- A plan that is read without a failing sector and breaks no rule begins. -/
theorem effLeaseLoad_runs {s u : State} {st : Nat} {late : List Nat} {hs : List Hit} (hp : pickStream s late = some st)
    (ho : cmdOp (headCmd s st) = 0x30) (h : Passes s st 0x30) (hj : s.job.opened = true)
    (hr : hbmRangeBad (cw2 (headCmd s st) 6) 1088 = false) (hfence : fenced s = false)
    (hawake : inSelfRefresh s (sectorsOf (cw2 (headCmd s st) 6) 1088) = false)
    (hread : readStruct hs (cw2 (headCmd s st) 6) 1088 s = ([], u)) {ws : List W32}
    (hws : ws = wordsOf (u.hbm.bytes (cw2 (headCmd s st) 6) 1088)) (hplan : planFault u [] ws = none) :
    effLeaseLoad st late hs s
      = beginLease s.seqNo ws (startCmd s.seqNo st (headCmd s st) (.leaseHeld ws) (popCmd st u)) := by
  have hu : ReadsHbm s u := by simpa only [hread] using readsHbm_readStruct hs (cw2 (headCmd s st) 6) 1088 s
  obtain ⟨hhead, hpick, hseq, hjob, hfence'⟩ := hu.dispatch st late
  have hreads : readsPlan s st late = true := by
    simp [readsPlan, hp, ho, cmdSkip_of_passes (sp := leaseSpec) h ho rfl (fun _ => hj) rfl rfl hr]
  have hown : leaseSkip (headCmd u st) [] ws u = none := by
    simp [leaseSkip, hhead, hr, hplan]
  unfold effLeaseLoad
  extract_lets w a reads r ws'
  have hr2 : r = ([], u) := (if_pos hreads).trans hread
  have hws' : ws' = ws := by rw [hws]; simp only [ws', hr2]; rfl
  clear_value r ws'
  subst hr2 hws'
  rw [if_neg (by rw [planSectors, hawake, Bool.and_false]; exact Bool.false_ne_true)]
  refine (dispatch_of_passes (hpick.trans hp) (by rw [hhead, ho]) (h.of_readsHbm hu) (fun _ => by rw [hjob]; exact hj)
    (hw := hown) (hr := by rw [hhead]; exact hr)).trans ?_
  rw [hseq, hhead]
  exact if_neg (not_fenced_startCmd (hfence'.trans hfence) _ _ _)

/-! ### Selectors and local oscillators that settle (R362, R363, R377, R389) -/

theorem relocked_of_state {p : Nat} {s : State} (h : (linkOf s p).state ≠ 8) : relocked p s = s := if_neg fun hh => h hh.1

section
variable {s : State} {p : Nat} (hp : p < 64)
include hp

theorem effRetuneSettled_tx (h : (linkOf s p).txSettling = true) : effRetuneSettled p true s
    = relocked p (sendOffer p (setLink s p { linkOf s p with txSettling := false, txLock := true })) := by
  simp [effRetuneSettled, Nat.not_le.2 hp, h]

/-- The selector of a link that is not relocking locks, and the link offers itself. -/
theorem effRetuneSettled_offers (h : (linkOf s p).txSettling = true) (hst : (linkOf s p).state ≠ 8) : effRetuneSettled p true s
    = sendOffer p (setLink s p { linkOf s p with txSettling := false, txLock := true }) := by
  rw [effRetuneSettled_tx hp h, relocked_of_state]
  rwa [(sends_sendOffer _ _).linkOf, linkOf_setLink_same]

/-- A leased link that relocks returns to its state when its selector is the last to settle, and then offers itself. -/
theorem effRetuneSettled_returns (h : (linkOf s p).txSettling = true) (hst : (linkOf s p).state = 8)
    (hrx : (linkOf s p).rxSettling = false) (hen : (linkOf s p).txEn = true) : effRetuneSettled p true s
    = sendOffer p (setLink s p { linkOf s p with txSettling := false, txLock := true, state := (linkOf s p).back }) := by
  rw [effRetuneSettled_tx hp h, sendOffer_of_state (by simp [hst])]
  simp [relocked, hst, hrx, hen, setLink_setLink]

/-- The local oscillator of a link that is not relocking locks. -/
theorem effRetuneSettled_rx (h : (linkOf s p).rxSettling = true) (hst : (linkOf s p).state ≠ 8) : effRetuneSettled p false s
    = setLink s p { linkOf s p with rxSettling := false, rxLock := true, clean := true } := by
  simp only [effRetuneSettled, if_neg (Nat.not_le.2 hp), h, if_true, Bool.false_eq_true, if_false]
  exact relocked_of_state (by simpa using hst)

/-- A lease that is not accepted in time fails with reason 5, and an old lease that it waited for ends. -/
theorem effLeaseTimeout_fails (hch : (linkOf s p).changing = true) (hcmd : ∃ c ∈ s.cmds, c.work = .lease) : effLeaseTimeout p s
    = leaseGo (settlePlan (refuseLink p 5 (if (linkOf s p).ending.isSome then retuneTx p (sendEnd p s) else s))) :=
  if_pos ⟨hp, hch, List.any_eq_true.2 (by simpa using hcmd)⟩

end

theorem linkOf_retuneRx (p : Nat) (s : State) : linkOf (retuneRx p s) p = { linkOf s p with
    rxHold := none, rxSettling := (linkOf s p).rxEn, rxLock := false, clean := false, rxEnded := false
    rxLine := rxLineOf s p } := linkOf_setLink_same _ _ _

/-- A link of the handshake is refused at once. -/
theorem linkOf_refuseLink {p : Nat} {s : State} (reason : Nat) (h : (linkOf s p).state = 2) :
    linkOf (refuseLink p reason s) p = { linkOf s p with reason := reason, changing := false, state := 4, back := 4 } := by
  simp [refuseLink, h]

/-! ### Offers and their answers (R377) -/

section
variable {s : State} {p : Nat} {c : Cell} (hq : pNat c 12 1 < 64)

section
include hq

/-- An offer that meets Table 10.10 is accepted. -/
theorem effLeaseOffer_accepts (h : ControlCell s p c 2) (hf : offerFault s c = none) :
    effLeaseOffer p c s = sendControl c.src 3 (((payload c).drop 8).take 6) s := by
  refine (controlIn_of_delivered h).trans ((if_neg (Nat.not_le.2 hq)).trans ?_)
  simp only [hf]

/-- Another is refused with its reason. -/
theorem effLeaseOffer_refuses (h : ControlCell s p c 2) {r : Nat} (hf : offerFault s c = some r) (hr : r ≠ 3) :
    effLeaseOffer p c s = sendControl c.src 4 (((payload c).drop 8).take 6 ++ [BitVec.ofNat 8 r]) s := by
  refine (controlIn_of_delivered h).trans ((if_neg (Nat.not_le.2 hq)).trans ?_)
  simp only [hf, hr, if_false]

/-- LEASE_END of the source whose oscillator is held retunes it. -/
theorem effLeaseEnd_retunes (h : ControlCell s p c 5) (hh : (linkOf s (pNat c 12 1)).rxHold = some c.src) :
    effLeaseEnd p c s = retuneRx (pNat c 12 1) s :=
  (controlIn_of_delivered h).trans ((if_neg (Nat.not_le.2 hq)).trans (if_pos hh))

/-- LEASE_END of the source heard is noted. -/
theorem effLeaseEnd_noted (h : ControlCell s p c 5) (hh : (linkOf s (pNat c 12 1)).rxHold = none)
    (hen : (linkOf s (pNat c 12 1)).rxEn = true) (hg : (linkOf s (pNat c 12 1)).rxGid = c.src) :
    effLeaseEnd p c s = setLink s (pNat c 12 1) { linkOf s (pNat c 12 1) with rxEnded := true } :=
  (controlIn_of_delivered h).trans ((if_neg (Nat.not_le.2 hq)).trans ((if_neg (by simp [hh])).trans (if_pos ⟨hen, hh, hg⟩)))

end

/-- An acceptance of the offer made joins the link; no port is parked before stage 4 of a supply sag. -/
theorem effLeaseAccept_joins (h : ControlCell s p c 3) (ha : answers s c = true) (hsag : s.pwr.sagStage < 4) :
    effLeaseAccept p c s = leaseGo (settlePlan (setLink s (pNat c 12 1)
      { linkOf s (pNat c 12 1) with state := 3, changing := false })) := by
  refine (controlIn_of_delivered h).trans ((if_neg (by simp [ha])).trans ?_)
  exact congrArg (fun t => leaseGo (settlePlan t)) (if_neg (Nat.not_le.2 hsag))

/-- A refusal of another plan, or of an oscillator that is not ready, keeps the link for another offer. -/
theorem effLeaseRefuse_keeps_offering (h : ControlCell s p c 4) (ha : answers s c = true) (hr : pNat c 14 1 = 1 ∨ pNat c 14 1 = 3) :
    effLeaseRefuse p c s = setLink s (pNat c 12 1) { linkOf s (pNat c 12 1) with reason := pNat c 14 1 } :=
  (controlIn_of_delivered h).trans ((if_neg (by simp [ha])).trans (if_pos hr))

/-- Another refusal fails the link. -/
theorem effLeaseRefuse_fails (h : ControlCell s p c 4) (ha : answers s c = true) (h1 : pNat c 14 1 ≠ 1) (h3 : pNat c 14 1 ≠ 3) :
    effLeaseRefuse p c s = leaseGo (settlePlan (refuseLink (pNat c 12 1) (pNat c 14 1) s)) :=
  (controlIn_of_delivered h).trans ((if_neg (by simp [ha])).trans (if_neg (by simp [h1, h3])))

end

/-- A link of the handshake, or joined, is gated: it leaves its port until its selector has relocked. -/
theorem gateLink_open {q : Nat} {s : State} (h : (linkOf s q).state = 2 ∨ (linkOf s q).state = 3) : gateLink q s
    = endOlds (withdraw q (setLink s q { linkOf s q with state := 8, back := 2, txLock := false, txSettling := true })) := by
  unfold gateLink
  rw [if_neg (by omega), if_pos (by omega)]

/-! ### Calibrations (R395, R396) -/

/-- What CAL_NOTICE says of link `p`: 200 units of 1 µs without its cells. -/
def calBody (p : Nat) : List Byte := [0, 0, 0, 0, BitVec.ofNat 8 p, 0, 0, 0] ++ leBytes 4 200

/-- CAL_NOTICE goes to the peer that a link aims at, and to the one that it hears where that is another. -/
def sendCalNotice (p : Nat) (s : State) : State :=
  if (linkOf s p).rxEn ∧ (linkOf s p).rxGid ≠ (linkOf s p).txGid then
    sendControl (linkOf s p).rxGid 6 (calBody p) (sendControl (linkOf s p).txGid 6 (calBody p) s)
  else sendControl (linkOf s p).txGid 6 (calBody p) s

/-- The notice to the peer that the link aims at waits to be sent. -/
theorem mem_tx_sendCalNotice (p : Nat) (s : State) :
    ∃ c ∈ (sendCalNotice p s).mer.tx, c.cell = controlCell s (linkOf s p).txGid 6 (calBody p) := by
  have hsends : Sends (sendControl (linkOf s p).txGid 6 (calBody p) s) (sendCalNotice p s) :=
    ite_of (sends_sendControl _ _ _ _) (.refl _)
  exact ⟨_, hsends.schedule.mem_tx (List.mem_append_right _ (List.mem_singleton.2 rfl)), rfl⟩

/-- The next joined link goes out to be calibrated, its peer told, its cells to be sent again. -/
theorem effLeasedCalibration_next {s : State} {p : Nat} (hnone : ∀ q, q < 64 → (linkOf s q).state ≠ 5)
    (hnext : p = (s.mer.calLink + 1) % 64) (hst : (linkOf s p).state = 3) (hen : (photOf s (linkDie p)).calEn = true) :
    effLeasedCalibration s = withdraw p (setLink { sendCalNotice p s with mer := { (sendCalNotice p s).mer with calLink := p } } p
      { linkOf s p with state := 5, back := 3 }) := by
  have hfind : ((List.range 64).map (fun i => (s.mer.calLink + 1 + i) % 64)).find? (fun p =>
      decide ((linkOf s p).state = 3) && (photOf s (linkDie p)).calEn) = some p := by
    rw [List.range_succ_eq_map, List.map_cons, Nat.add_zero, ← hnext]
    exact List.find?_cons_of_pos (by simp [hst, hen])
  unfold effLeasedCalibration
  rw [if_neg (by rw [calibrating_none hnone]; exact Bool.false_ne_true), hfind]
  rfl

/-- A link that was not to be gated comes out of its calibration locked, in the state that it owes. -/
theorem calibrated_eq {p : Nat} {s : State} (rt : Nat) (h : (linkOf s p).back ≠ 8) : ∃ n base, calibrated p rt s
    = setLink { s with free := n } p { linkOf s p with
        state := (linkOf s p).back, txLock := true, rxLock := true, txSettling := false, rxSettling := false, clean := true
        loopRt := rt % 65536, reflBase := base } :=
  ⟨_, _, congrArg (setLink _ p) (if_neg h)⟩

section
variable {s : State} {p : Nat} (hp : p < 64) (hst : (linkOf s p).state = 5)
include hp hst

/-- CALIBRATION_END is the end of the calibration, and from READY on what its frames show. -/
theorem effCalibrated_eq (ok : Bool) (rt : Nat) (fs : List Frame) : effCalibrated p ok rt fs s
    = if s.boot.ready then framesService fs (effCalibrationEnd p ok rt s) else effCalibrationEnd p ok rt s := by
  simp [effCalibrated, hp, hst]

variable (hwait : s.mer.calWait = false) (ha : isAddr s p = false)
include hwait ha

/-- A leased link that fails its calibration stays failed. -/
theorem effCalibrationEnd_fails (rt : Nat) : effCalibrationEnd p false rt s
    = setLink s p { linkOf s p with state := 10, back := if (linkOf s p).txEn = true then 2 else restState s p } := by
  have hgo : ¬ (64 ≤ p ∨ (linkOf s p).state ≠ 5) := by omega
  have ha' : ∀ x, ¬ isAddr (setLink s p x) p = true := fun x => by
    rw [isAddr_congr (s := s) (t := setLink s p x) rfl, ha]
    exact Bool.false_ne_true
  simp only [effCalibrationEnd, if_neg hgo, Bool.not_false, if_true, if_neg (ha' _)]
  exact startPlaneCal_idle hwait

/-- One that was joined returns to its port; it makes no offer, and no record. -/
theorem effCalibrationEnd_rejoins (rt : Nat) (hback : (linkOf s p).back = 3) :
    effCalibrationEnd p true rt s = settlePlan (calibrated p rt s) := by
  have hgo : ¬ (64 ≤ p ∨ (linkOf s p).state ≠ 5) := by omega
  obtain ⟨n, base, hcal⟩ := calibrated_eq rt (s := s) (p := p) (by rw [hback]; decide)
  have ha' : ¬ isAddr (calibrated p rt s) p = true := by
    rw [isAddr_congr (s := s) (t := calibrated p rt s) rfl, ha]
    exact Bool.false_ne_true
  have hrec : ¬ (((linkOf s p).back ≠ 3 && (linkOf s p).back ≠ 8 && !decide (p = s.mer.calPlane)) = true) := by simp [hback]
  have hoffer : sendOffer p (calibrated p rt s) = calibrated p rt s :=
    sendOffer_of_state (by rw [hcal, linkOf_setLink_same]; simp [hback])
  have hidle : (settlePlan (calibrated p rt s)).mer.calWait = false := by
    obtain ⟨m, hm⟩ := settlePlan_eq (calibrated p rt s)
    rw [hm, hcal]
    exact hwait
  simp only [effCalibrationEnd, if_neg hgo, Bool.not_true, Bool.false_eq_true, if_false, if_neg hrec, if_neg ha', hoffer]
  exact startPlaneCal_idle hidle

end

/-- Settles O48: each clause is the lemma about its command, or about the operation on the link that it names. -/
theorem leasesAreOfferedAcceptedAndRetuned : Obligations.LeasesAreOfferedAcceptedAndRetuned := by
  unfold Obligations.LeasesAreOfferedAcceptedAndRetuned
  refine ⟨fun s st late hs ws u hp ho h hj hr hfence hawake hread hws hplan =>
      answers_of_eq (effLeaseLoad_runs hp ho h hj hr hfence hawake hread hws hplan),
    fun s p hp => ⟨fun h hst => answers_of_eq (effRetuneSettled_offers hp h hst),
      fun h hst hrx hen => answers_of_eq (effRetuneSettled_returns hp h hst hrx hen),
      fun h hst => answers_of_eq (effRetuneSettled_rx hp h hst),
      fun hst hen hl he => answers_of_eq ((if_pos hp).trans (sendOffer_ready hst hen hl he)),
      fun h => answers_of_eq (if_pos ⟨hp, h⟩),
      fun hch hcmd => ⟨fun he => answers_of_eq ?timeout, fun he => answers_of_eq ?ended⟩,
      linkOf_retuneRx p s, linkOf_refuseLink 5⟩,
    fun s p q c hqc hq => ?answers,
    fun s p hp hnone hnext hst hen => ⟨_, rfl, ?calibrates⟩,
    fun s p rt fs hp hst hwait => ⟨effCalibrationEnd p true rt s, effCalibrationEnd p false rt s, fun u ok hu => ?framed,
      fun ha => effCalibrationEnd_fails hp hst hwait ha rt, fun ha hcal hback => ?rejoined⟩⟩
  case timeout => rw [effLeaseTimeout_fails hp hch hcmd, he]; rfl
  case ended => rw [effLeaseTimeout_fails hp hch hcmd, he]; rfl
  case answers =>
    subst hqc
    exact ⟨fun h hf => answers_of_eq (effLeaseOffer_accepts hq h hf),
      fun r h hf hr => answers_of_eq (effLeaseOffer_refuses hq h hf hr),
      fun h ha hsag => answers_of_eq (effLeaseAccept_joins h ha hsag),
      fun h ha hr => answers_of_eq (effLeaseRefuse_keeps_offering h ha hr),
      fun h ha h1 h3 => answers_of_eq (effLeaseRefuse_fails h ha h1 h3),
      fun h hh => answers_of_eq (effLeaseEnd_retunes hq h hh),
      fun h hh hen hg => answers_of_eq (effLeaseEnd_noted hq h hh hen hg),
      fun h hen hg => answers_of_eq ((controlIn_of_delivered h).trans (if_pos ⟨hq, hen, hg⟩)),
      fun h ha => answers_of_eq ((controlIn_of_delivered h).trans (if_pos ⟨hq, ha⟩)),
      gateLink_open, fun hst => if_pos hst⟩
  case calibrates =>
    obtain ⟨c, hc, hcell⟩ := mem_tx_sendCalNotice p s
    rw [effLeasedCalibration_next hnone hnext hst hen, linkOf_withdraw, linkOf_setLink_same]
    exact ⟨rfl, rfl, rfl, ⟨c, mem_tx_withdraw hc, hcell⟩, not_mem_sent_withdraw⟩
  case framed =>
    have heq : effCalibrated p ok rt fs s = if s.boot.ready then framesService fs u else u := by
      rw [effCalibrated_eq hp hst, hu]
      cases ok <;> rfl
    exact ⟨fun hr => answers_of_eq (heq.trans (if_pos hr)), fun hr => answers_of_eq (heq.trans (if_neg (by simp [hr])))⟩
  case rejoined =>
    obtain ⟨n, base, hlink⟩ := calibrated_eq (s := s) (p := p) rt (by rw [hback]; decide)
    rw [effCalibrationEnd_rejoins hp hst hwait ha rt hback, linkOf_settlePlan, hlink, linkOf_setLink_same]
    exact ⟨hback, rfl, rfl, rfl, rfl, fun q hq => by rw [linkOf_settlePlan, linkOf_setLink_other _ _ hq]; rfl⟩

end Sys2Proof.Machine
end

section
/-! PROOF. Family 10_meridian_fabric.md: links that fail, mislock, are shuttered and return, and the comb fibres and inputs that feed
them (R359, R361, R386 to R389, R398, R400, R401): O49. -/

namespace Sys2Proof.Machine

/-! ### Records, fibres and the plane in calibration -/

theorem fibreOf_fibreRec (f out g : Nat) (s : State) : fibreOf (fibreRec f out s) g = fibreOf s g := rfl

theorem fibreOf_setFibre_same (s : State) (f : Nat) (x : Fibre) : fibreOf (setFibre s f x) f = x := Tab.get_put_same _ _ _ _

/-- The end of a plane's calibration is noted of the planes alone. -/
theorem endPlaneCal_eq (p : Nat) (s : State) : ∃ cal wait due, endPlaneCal p s
    = { s with mer := { s.mer with calPlane := cal, calWait := wait, setDue := due } } := by
  unfold endPlaneCal
  split
  · exact ⟨_, _, _, rfl⟩
  · exact ⟨s.mer.calPlane, s.mer.calWait, s.mer.setDue, rfl⟩

@[simp] theorem linkOf_endPlaneCal (p q : Nat) (s : State) : linkOf (endPlaneCal p s) q = linkOf s q := by
  obtain ⟨_, _, _, h⟩ := endPlaneCal_eq p s
  rw [h]
  rfl

theorem endPlaneCal_planes16 (p : Nat) (s : State) : (endPlaneCal p s).mer.planes16 = s.mer.planes16 := by
  obtain ⟨_, _, _, h⟩ := endPlaneCal_eq p s
  rw [h]

/-- With no old lease ending, none ends as a link is put and withdrawn. -/
theorem endOlds_withdraw {s : State} {p : Nat} {x : Link} (h : ∀ q, (linkOf s q).ending = none) (hx : x.ending = none) :
    endOlds (withdraw p (setLink s p x)) = withdraw p (setLink s p x) := by
  refine endOlds_of_none fun q => ?_
  rw [linkOf_withdraw]
  by_cases hq : q = p
  · rw [hq, linkOf_setLink_same, hx]
  · rw [linkOf_setLink_other _ _ hq, h q]

/-! ### Failure (R386, R387) -/

/-- LEASE_END sent for a link ends its old lease; only that link and the send queue change. -/
theorem sendEnd_eq (p : Nat) (s : State) : (∃ link tx, sendEnd p s = { s with mer := { s.mer with link := link, tx := tx } })
    ∧ linkOf (sendEnd p s) p = { linkOf s p with ending := none } ∧ ∀ q, q ≠ p → linkOf (sendEnd p s) q = linkOf s q := by
  unfold sendEnd
  dsimp only
  split
  · next g hg => exact ⟨⟨_, _, rfl⟩, linkOf_setLink_same _ _ _, fun q hq => linkOf_setLink_other _ _ hq⟩
  · next hg =>
    refine ⟨⟨s.mer.link, s.mer.tx, rfl⟩, ?_, fun q _ => rfl⟩
    rw [← hg]

/-- The link that has failed. -/
def failedLink (s : State) (p cond : Nat) (k : Link) : Link :=
  { k with
    state := 10, failures := satInc 0xFF k.failures, los := if cond = 1 then satInc 0xFFFF k.los else k.los, txLock := false
    rxLock := false, txSettling := false, rxSettling := false, rxHold := none, parked := false
    txLine := txLineOf s p, rxLine := rxLineOf s p, back := if k.txEn then 2 else restState s p }

/-- A leased link fails while no cell is unacknowledged: its old lease ends, and it is recorded. -/
theorem failLink_leased {p : Nat} {s : State} (cond peer : Nat) (hsent : s.mer.sent = []) (ha : isAddr s p = false) :
    failLink p cond peer s = endPlaneCal p (linkRec p 0x0401 cond peer
      (setLink (sendEnd p s) p (failedLink (sendEnd p s) p cond (linkOf (sendEnd p s) p)))) := by
  have hs : { s with mer := { s.mer with sent := s.mer.sent.filter (fun x => decide (x.link ≠ p)) } } = s := by
    rw [hsent, List.filter_nil, ← hsent]
  have ha1 : isAddr (sendEnd p s) p = false := by
    obtain ⟨⟨link, tx, heq⟩, -, -⟩ := sendEnd_eq p s
    exact (isAddr_congr (s := s) (by rw [heq]) p).trans ha
  have ha2 : ∀ x, isAddr (endPlaneCal p (linkRec p 0x0401 cond peer (setLink (sendEnd p s) p x))) p = false := fun x => by
    rw [isAddr_congr (endPlaneCal_planes16 p _)]
    exact ha1
  unfold failLink
  rw [hs, hsent]
  simp only [List.filter_nil, List.map_nil, List.eraseDups_nil, List.foldl_nil, ha1, ha2, Bool.false_eq_true, if_false]
  rfl

/-! ### Mislock (R388, R389) -/

/-- A joined link found mislocked leaves its port to relock: its selector, and its oscillator when that is mislocked. -/
def mislockedLink (how : Nat) (k : Link) : Link :=
  { k with
    mislock := satInc 0xFFFF k.mislock, rxLock := k.rxLock && decide (how ≠ 2), rxSettling := k.rxSettling || decide (how = 2)
    clean := k.clean && decide (how ≠ 2), state := 8, back := 2, txLock := false, txSettling := true }

theorem mislock_joined {p : Nat} {s : State} (how : Nat) (hst : (linkOf s p).state = 3) (hend : ∀ q, (linkOf s q).ending = none) :
    mislock p how s = withdraw p (setLink (linkRec p 0x0403 how (peerOf (linkOf s p)) s) p (mislockedLink how (linkOf s p))) := by
  unfold mislock
  extract_lets k u v
  have hv : linkOf v p = { k with
      mislock := satInc 0xFFFF k.mislock, rxLock := k.rxLock && decide (how ≠ 2)
      rxSettling := k.rxSettling || decide (how = 2), clean := k.clean && decide (how ≠ 2) } := linkOf_setLink_same _ _ _
  rw [gateLink_open (by rw [hv]; exact .inr hst), hv, setLink_setLink]
  exact endOlds_withdraw (s := u) hend (hend p)

/-! ### Shutters and probes (R398, R400) -/

/-- The link that a shutter has taken out. -/
def shutLink (s : State) (p : Nat) (k : Link) : Link :=
  { k with state := 6, shutters := satInc 0xFF k.shutters, back := if k.txEn then 2 else restState s p }

/-- The state in which a joined link is shuttered and recorded, its peer not yet told. -/
def shuttered (p : Nat) (s : State) : State :=
  linkRec p 0x0405 1 (peerOf (linkOf s p)) (endPlaneCal p (withdraw p (setLink s p (shutLink s p (linkOf s p)))))

theorem shuttered_frame (p : Nat) (s : State) : (shuttered p s).boot = s.boot ∧ (shuttered p s).mer.planes16 = s.mer.planes16
    ∧ linkOf (shuttered p s) p = shutLink s p (linkOf s p) ∧ ∀ x ∈ (shuttered p s).mer.sent, x.link ≠ p := by
  obtain ⟨_, _, _, h⟩ := endPlaneCal_eq p (withdraw p (setLink s p (shutLink s p (linkOf s p))))
  rw [shuttered, h]
  exact ⟨rfl, rfl, linkOf_setLink_same _ _ _, not_mem_sent_withdraw (p := p) (s := setLink s p (shutLink s p (linkOf s p)))⟩

/-- SHUTTER goes to the peer that a leased link aims at. -/
def tellPeer (p : Nat) (k : Link) (s : State) : State :=
  if k.txEn then sendControl k.txGid 7 [0, 0, 0, 0, BitVec.ofNat 8 p] s else s

theorem sends_tellPeer (p : Nat) (k : Link) (s : State) : Sends s (tellPeer p k s) := ite_of (sends_sendControl _ _ _ s) (.refl s)

theorem effShutterTrigger_joined {p : Nat} {s : State} (hp : p < 64) (hst : (linkOf s p).state = 3) (ha : isAddr s p = false)
    (hend : ∀ q, (linkOf s q).ending = none) :
    effShutterTrigger p s = leaseGo (settlePlan (tellPeer p (linkOf s p) (shuttered p s))) := by
  have hgo : ¬ (64 ≤ p ∨ (linkOf s p).state = 0 ∨ (linkOf s p).state = 6 ∨ (linkOf s p).state = 7) := by omega
  have hold : endOlds (withdraw p (setLink s p (shutLink s p (linkOf s p)))) = withdraw p (setLink s p (shutLink s p (linkOf s p))) :=
    endOlds_withdraw hend (hend p)
  have ha' : ¬ isAddr (shuttered p s) p = true := by
    rw [isAddr_congr (shuttered_frame p s).2.1, ha]
    exact Bool.false_ne_true
  unfold effShutterTrigger
  rw [if_neg hgo]
  extract_lets u v body w
  have hv : v = shuttered p s := congrArg (fun t => linkRec p 0x0405 1 (peerOf (linkOf s p)) (endPlaneCal p t)) hold
  have hw : w = tellPeer p (linkOf s p) v := if_neg (hv ▸ ha')
  rw [hw, hv]

/-- A shuttered link whose probe sees light returns, and a leased one offers itself again. -/
theorem effShutterProbeEnd_light {p : Nat} {s : State} (hp : p < 64) (hst : (linkOf s p).state = 7) (ha : isAddr s p = false) :
    effShutterProbeEnd p true s = settlePlan (sendOffer p (linkRec p 0x0405 2 (peerOf (linkOf s p))
      (setLink s p { linkOf s p with state := (linkOf s p).back, txLock := true, rxLock := true, clean := true }))) := by
  have hgo : ¬ (64 ≤ p ∨ (linkOf s p).state ≠ 7) := by omega
  unfold effShutterProbeEnd
  rw [if_neg hgo, if_neg (by decide)]
  extract_lets u
  rw [if_neg]
  rw [isAddr_congr (s := s) (t := u) rfl, ha]
  exact Bool.false_ne_true

/-! ### Comb fibres and inputs (R359, R361, R401) -/

theorem mem_fibreLinks {f p : Nat} : p ∈ fibreLinks f ↔ p < 64 ∧ p % 2 = f / 2 ∧ p / 32 = f % 2 := by
  simp only [fibreLinks, mem_upto, Bool.and_eq_true, decide_eq_true_eq]
  omega

/-- The links of a fibre that are in service, calibrated or shuttered. -/
def fibreUp (f : Nat) (s : State) : List Nat :=
  (fibreLinks f).filter (fun p => decide ((linkOf s p).state ≠ 0 ∧ (linkOf s p).state ≠ 10))

/-- The state in which a fibre is dropped and recorded, its links not yet failed. -/
def droppedFibre (f power : Nat) (s : State) : State :=
  fibreRec f 3 (setFibre s f { fibreOf s f with state := 1, enHigh := true, power := power % 256 })

/-- A fibre at full power that drops fails its links, one after the other. -/
theorem effCombFibreDrop_fails {f : Nat} {s : State} (power : Nat) (hf : f < 4) (hen : (fibreOf s f).enHigh = false)
    (hlow : (fibreOf s f).lowLow = false) : effCombFibreDrop f power s = fabGo (leaseGo (settlePlan
      ((fibreUp f s).foldl (fun s p => failLink p 1 (peerOf (linkOf s p)) s) (droppedFibre f power s)))) :=
  if_neg (by simp [Nat.not_le.2 hf, hen, hlow])

section
variable {f : Nat} {s : State} (power : Nat) (hf : f < 4) (hon : s.pwr.shdnHigh = true)
include hf hon

/-- A fibre that is down, and not under probe, is probed at low power. -/
theorem effCombProbe_begins (good : Bool) (h0 : (fibreOf s f).state ≠ 0) (h2 : (fibreOf s f).state ≠ 2) : effCombProbe f good power s
    = setFibre s f { fibreOf s f with state := 2, enHigh := false, lowLow := true, power := power % 256 } :=
  (if_neg (by simp [Nat.not_le.2 hf, hon, h0])).trans (if_pos h2)

/-- Its probe ends with full power, or with none. -/
theorem effCombProbe_ends (good : Bool) (h2 : (fibreOf s f).state = 2) : effCombProbe f good power s
    = if good then fibreRec f 4 (setFibre s f { fibreOf s f with state := 0, enHigh := false, lowLow := false, power := power % 256 })
      else setFibre s f { fibreOf s f with state := 1, enHigh := true, lowLow := false, power := power % 256 } :=
  (if_neg (by simp [Nat.not_le.2 hf, hon, h2])).trans (if_neg (not_not_intro h2))

end

/-- COMB_LOCK sets the two levels; a level that is lost is recorded. -/
theorem effCombLock_mer (high dither : Bool) (s : State) :
    (effCombLock high dither s).mer = { s.mer with combLock := high, dither := dither } := by
  unfold effCombLock
  dsimp only
  split <;> split <;> rfl

theorem effCombLock_recs {high dither : Bool} {s : State} (hl : s.mer.combLock = true → high = true)
    (hd : s.mer.dither = true → dither = true) : (effCombLock high dither s).recs = s.recs := by
  have hlock : ¬ (s.mer.combLock && !high) = true := by simpa using hl
  have hdither : ¬ (s.mer.dither && !dither) = true := by simpa using hd
  simp only [effCombLock, if_neg hlock, if_neg hdither]

theorem effCombAlarmN_mer (low : Bool) (s : State) : (effCombAlarmN low s).mer = { s.mer with combAlarm := low } := by
  unfold effCombAlarmN
  dsimp only
  split <;> rfl

/-- Settles O49: each clause is what the lemma about its command leaves of the link or of the fibre. -/
theorem linksFailShutterAndComeBack : Obligations.LinksFailShutterAndComeBack := by
  unfold Obligations.LinksFailShutterAndComeBack
  refine ⟨fun s p cond peer hp h1 h6 h0 h10 => answers_of_eq (if_pos ⟨hp, h1, h6, h0, h10⟩),
    fun s p cond peer hsent ha => ?fails,
    fun s p hp => ⟨fun hst hcal => ?retry, fun how hst hhow hend => ?mislocked,
      fun hst => answers_of_eq (if_pos ⟨hp, hst⟩), fun hst => answers_of_eq (congrArg settleLinks ?dark),
      fun hst ha => ⟨_, answers_of_eq (congrArg settleLinks (effShutterProbeEnd_light hp hst ha)), ?light⟩,
      fun hst ha hend => ⟨_, answers_of_eq (congrArg settleLinks (effShutterTrigger_joined hp hst ha hend)), ?shut⟩⟩,
    fun s f power hf => ⟨fun hen hlow => ⟨_, _,
        answers_of_eq (congrArg settleLinks (effCombFibreDrop_fails power hf hen hlow)), fun p => ?fed, ?dropped, rfl⟩,
      fun good h0 h2 hon => answers_of_eq (congrArg settleLinks (effCombProbe_begins power hf hon good h0 h2)),
      fun h2 hon => ⟨⟨_, answers_of_eq (congrArg settleLinks (effCombProbe_ends power hf hon true h2)), ?restored, rfl⟩,
        answers_of_eq (congrArg settleLinks (effCombProbe_ends power hf hon false h2))⟩⟩,
    fun s high dither low => ⟨⟨_, rfl, ?lock⟩, ⟨_, rfl, ?alarm⟩⟩⟩
  case fails =>
    obtain ⟨⟨link, tx, heq⟩, hlink, hothers⟩ := sendEnd_eq p s
    obtain ⟨_, _, _, hcal⟩ := endPlaneCal_eq p (linkRec p 0x0401 cond peer
      (setLink (sendEnd p s) p (failedLink (sendEnd p s) p cond (linkOf (sendEnd p s) p))))
    rw [failLink_leased cond peer hsent ha]
    simp only [linkOf_endPlaneCal, linkOf_linkRec, linkOf_setLink_same]
    refine ⟨rfl, by rw [failedLink, hlink], rfl, rfl, by rw [failedLink, hlink],
      fun q hq => (linkOf_setLink_other _ _ hq).trans (hothers q hq), ?_⟩
    rw [hcal, heq]
    rfl
  case retry =>
    exact answers_of_eq ((if_neg (by simp [hp, hcal])).trans (if_pos hst))
  case mislocked =>
    refine ⟨_, answers_of_eq (if_pos ⟨hp, hhow, by omega, by omega⟩), ?_⟩
    rw [mislock_joined how hst hend, linkOf_withdraw, linkOf_setLink_same]
    exact ⟨rfl, rfl, rfl, rfl, rfl, fun h2 => by simp [mislockedLink, h2], not_mem_sent_withdraw,
      fun q hq => by rw [linkOf_withdraw, linkOf_setLink_other _ _ hq, linkOf_linkRec]⟩
  case dark => exact (if_neg (by omega)).trans (if_pos rfl)
  case light => rw [(sends_sendOffer p _).linkOf, linkOf_linkRec, linkOf_setLink_same]
  case shut =>
    obtain ⟨hboot, -, hlink, hsent⟩ := shuttered_frame p s
    obtain ⟨l, hl⟩ := sends_tellPeer p (linkOf s p) (shuttered p s)
    rw [(sends_tellPeer p (linkOf s p) (shuttered p s)).linkOf, hlink]
    refine ⟨rfl, rfl, ?_, fun hen => ?_⟩
    · rw [hl]
      exact hsent
    · refine ⟨TxCell.plain 2 (controlCell (shuttered p s) (linkOf s p).txGid 7 [0, 0, 0, 0, BitVec.ofNat 8 p]), ?_, ?_⟩
      · rw [tellPeer, if_pos hen]
        exact List.mem_append_right _ (List.mem_singleton.2 rfl)
      · simp only [TxCell.plain, controlCell, ownGid, hboot]
  case fed => simp [fibreUp, mem_fibreLinks, and_assoc]
  case dropped => exact (fibreOf_fibreRec _ _ _ _).trans (fibreOf_setFibre_same _ _ _)
  case restored => exact (fibreOf_fibreRec _ _ _ _).trans (fibreOf_setFibre_same _ _ _)
  case lock =>
    rw [effCombLock_mer]
    exact ⟨rfl, rfl, rfl, effCombLock_recs⟩
  case alarm =>
    rw [effCombAlarmN_mer]
    exact ⟨rfl, rfl, rfl⟩

end Sys2Proof.Machine
end

section
/-! PROOF. Family 11_collectives_and_reblocking.md: engine lines and what each does in the context of its kind, the answers that a
recovery lacks, and the ends of aborted runs, of quiet periods and of the epoch fence (R417, R419, R426, R432, R434, R437,
R438, R441, R446, R447): O50. -/

namespace Sys2Proof.Machine

/-! ### Engine lines (R417) -/

/-- An engine line that reads or writes HBM acts like any other while its sectors are awake (R301). -/
theorem engineHbm_of_delivered {s p c f op kind x} {secs : Ctx → State → List Nat} (h : EngineLine s p c op kind x)
    (hawake : inSelfRefresh s (secs x s) = false) :
    engineHbm p op kind c secs f s = fabEnd (f x (noteSeq c (ackCell c s))) := by
  unfold engineHbm dataFront
  rw [if_pos ⟨h.typ, h.off, h.one, h.op⟩, front_of_delivered h.rx, dataTake_fresh h.fresh, if_neg (by simp [hawake]), takeLine,
    if_neg (not_not_intro h.kind)]

section
variable {s : State} {p : Nat} {c : Cell} {x : Ctx}

/-- The partial sums reach the run. -/
theorem effStatsChain_hands {r : FRun} (h : EngineLine s p c 2 2 x) (hr : runOf (noteSeq c (ackCell c s)) c.flow = some r)
    (hst : r.st ≤ 1) : effStatsChain p c s = fabEnd (setRun
      { r with chainIn := some (BitVec.ofNat 64 (pNat c 8 8), BitVec.ofNat 64 (pNat c 16 8)) } (noteSeq c (ackCell c s))) := by
  refine (engineIn_of_delivered h).trans (congrArg fabEnd ?_)
  simp only [hr]
  exact if_pos hst

theorem takeStats_writes {r : FRun} (hr : runOf s c.flow = some r) (hst : r.st = 1) (hstats : r.stats = 1 ∨ r.stats = 2) :
    takeStats c x s = writeStats c.flow (BitVec.ofNat 64 (pNat c 8 8)) (BitVec.ofNat 64 (pNat c 16 8)) s := by
  simp only [takeStats, hr]
  exact if_pos ⟨hst, hstats⟩

/-- The number of lines of a reblock stream is noted. -/
theorem effStreamTotal_notes {b : Rebl} (h : EngineLine s p c 6 5 x) (hb : (noteSeq c (ackCell c s)).mer.rebl = some b)
    (hstage : b.stage = 3) (hbase : b.base ≤ c.flow) : effStreamTotal p c s = fabEnd (setRebl
      { b with total := b.total.put (streamKey (c.flow - b.base) c.src) (pNat c 4 4) } (noteSeq c (ackCell c s))) := by
  refine (engineIn_of_delivered h).trans (congrArg fabEnd ?_)
  simp only [hb]
  exact if_pos ⟨hstage, hbase⟩

/-- The acknowledgement and the window leave a reblock as it is. -/
theorem rebl_noteSeq_ackCell (c : Cell) (s : State) : (noteSeq c (ackCell c s)).mer.rebl = s.mer.rebl := by
  unfold noteSeq
  split
  · rfl
  · rfl

/-! ### The lines that a holder sends (R447) -/

section
variable (halign : pNat c 8 8 % 64 = 0) (hin : pNat c 8 8 + 64 * pNat c 16 4 ≤ hbmEnd)
include halign hin

theorem takeFetch_sends {ls : List (List Byte × Nat)}
    (hread : readHbm s (pNat c 8 8) (pNat c 16 4) (BitVec.ofNat 32 (pNat c 20 4)) = .lines ls) :
    takeFetch c x s = pushLines c.flow c.src none (ls.zipIdx.map (fun l => (l.2, l.1.1, l.1.2))) s := by
  simp only [takeFetch, hread]
  exact if_neg (by omega)

theorem takeFetch_unreadable {bad : List (Nat × Nat)}
    (hread : readHbm s (pNat c 8 8) (pNat c 16 4) (BitVec.ofNat 32 (pNat c 20 4)) = .sectors bad) :
    takeFetch c x s = sendNack c.flow c.src (pNat c 8 8) (fabricBad bad (BitVec.ofNat 32 (pNat c 20 4)) s) := by
  simp only [takeFetch, hread]
  exact if_neg (by omega)

end

/-- A member of a stripe sends its lines; one of the data shards sends untagged lines only (R446). -/
theorem takeStripe_sends {ls : List (List Byte × Nat)} (hin : pNat c 4 4 + pNat c 8 4 ≤ cLines x)
    (hread : readHbm s (shardBase x + 64 * pNat c 4 4) (pNat c 8 4) (runVer s x) = .lines ls)
    (htags : cSelf x + 2 < cMembers x → ∀ l ∈ ls, l.2 = 0) :
    takeStripe c x s = pushLines c.flow c.src none (ls.zipIdx.map (fun l => (pNat c 4 4 + l.2, l.1.1, l.1.2))) s := by
  simp only [takeStripe, hread]
  rw [if_neg (Nat.not_lt.2 hin), if_neg]
  simpa using htags

end

/-! ### Answers that a recovery lacks (R446, R447) -/

section
variable {s : State} {d i : Nat} {e : LEntry} (hd : d < 4) (he : entryOf s d i = some e)
include hd he

theorem effFetchTimeout_unanswered (ha : answered e = false) : effFetchTimeout d i s = fabEnd (nextHolder d i s) := by
  simp only [effFetchTimeout, he]
  exact if_pos ⟨hd, by simp [ha]⟩

/-- A recovery whose P has sent nothing turns to Q, or fails where Q is not permitted. -/
theorem effStripePTimeout_eq {l : Nat} {x : Ctx} (hx : ctxOf s (dArg e.desc) = some x) (hl : shardLine x e = some l)
    (hrec : e.recov = 3) (hask : e.askedQ = false) (hlines : 0 < dLines e.desc)
    (hnone : e.fetched.get [] (cMembers x - 2) = []) :
    effStripePTimeout d i s = if !(permitted s (ctxDie (dArg e.desc)) (cMember x (cMembers x - 2 + 1)))
      then fabEnd (ledgerGo (recoveryFails d e 2 s))
      else fabEnd (grant (cMember x (cMembers x - 2 + 1)) (dArg e.desc) (dLines e.desc)
        (sendLine (dArg e.desc) (cMember x (cMembers x - 2 + 1))
          ([7, 0, 0, 0] ++ leBytes 4 l ++ leBytes 4 (dLines e.desc) ++ [BitVec.ofNat 8 (cSelf x)])
          (setEntry d { e with askedQ := true } s))) := by
  have hlacks : (List.range (dLines e.desc)).all
      (fun j => (Tab.find (e.fetched.get [] (cMembers x - 2)) j).isSome) = false := by
    rw [hnone, List.all_eq_false]
    exact ⟨0, List.mem_range.2 hlines, by simp [Tab.find]⟩
  simp only [effStripePTimeout, he, hx, hl]
  exact if_pos (by simp [hd, hrec, hask, hlacks])

end

/-! ### Ends of runs, of quiet periods and of the epoch fence (R434, R437, R438) -/

section
variable {s : State}

/-- The sectors that an aborted run landed are poisoned, and the run ends. -/
theorem effAbortRewriteDone_run {id : Nat} {r : FRun} (hr : runOf s id = some r) (hst : r.st = 3)
    (hawake : inSelfRefresh s (landedSectors s r) = false) : effAbortRewriteDone id s
      = fabAll (cutRun r (delRun id (poisonSectors (landedSectors s r) (fun _ _ => r.ver) s))) := by
  simp only [effAbortRewriteDone, hr]
  exact if_pos ⟨hst, by simp [hawake]⟩

theorem effQuietPeriodEnd_lifts {id : Nat} {x : Ctx} (hx : ctxOf s id = some x) (hq : x.quiet = true) :
    effQuietPeriodEnd id s = fabAll (setCtx s id { x with quiet := false }) := by
  simp only [effQuietPeriodEnd, hx]
  exact if_pos hq

/-- A host raises an abort of a group (R432). -/
theorem effAbortRaise_raises {d group : Nat} (h : HostReaches s) (hd : d = 5 ∨ d = 6) (hg : group < 0xFFFF) :
    effAbortRaise d group s = fabEnd (raiseAbort group 8 0xFFFF s) := by
  have hmod : group % 0x10000 = group := Nat.mod_eq_of_lt (by omega)
  rw [effAbortRaise, hmod]
  exact (photOp_hostWriteReady h hd (by omega)).trans (if_pos ⟨hd, hg⟩)

/-- With no run left the fence ends: a REBLOCK goes to its first barrier, EPOCH_SET completes in the new epoch. -/
theorem effEpochFenceEnd_drained {b : Rebl} (hb : s.mer.rebl = some b) (hstage : b.stage = 1)
    (h5 : (photOf s 5).runs = []) (h6 : (photOf s 6).runs = []) : effEpochFenceEnd s
      = if b.permute then fabAll (setRebl { b with stage := 2 } s) else fabAll (endFence b.no .done (setEpoch b.new s)) := by
  simp only [effEpochFenceEnd, hb]
  exact if_neg (by simp [hstage, h5, h6])

end

/-- Settles O50: each engine line by what it does once delivered, each end by the lemma about it. -/
theorem engineLinesAndRunsEnd : Obligations.EngineLinesAndRunsEnd := by
  unfold Obligations.EngineLinesAndRunsEnd
  refine ⟨fun s p c x => ⟨fun h => answers_of_eq (engineIn_of_delivered h),
      fun r h hr hst => answers_of_eq (effStatsChain_hands h hr hst),
      fun r h hawake hr hst hstats => answers_of_eq
        ((engineHbm_of_delivered h hawake).trans (congrArg fabEnd (takeStats_writes hr hst hstats))),
      ?fetch, fun h hawake hbad => answers_of_eq ((engineHbm_of_delivered h hawake).trans (congrArg fabEnd (if_pos hbad))),
      ?nack, fun b h hb hstage hbase =>
        answers_of_eq (effStreamTotal_notes h ((rebl_noteSeq_ackCell c s).trans hb) hstage hbase), ?stripe⟩,
    fun s d i l q e x hd he => ⟨fun ha => answers_of_eq (effFetchTimeout_unanswered hd he ha), ?askQ⟩,
    fun s id r hr hst hawake => answers_of_eq (effAbortRewriteDone_run hr hst hawake),
    fun s id x hx hq => answers_of_eq (effQuietPeriodEnd_lifts hx hq),
    fun s d group h hd hg => answers_of_eq (effAbortRaise_raises h hd hg),
    fun s b hb hstage h5 h6 => ?fence⟩
  case fetch =>
    rintro _ h hawake rfl halign hin
    have hend := engineHbm_of_delivered (f := takeFetch c) h hawake
    exact ⟨fun ls hread => answers_of_eq (hend.trans (congrArg fabEnd (takeFetch_sends halign hin hread))),
      fun bad hread => answers_of_eq (hend.trans (congrArg fabEnd (takeFetch_unreadable halign hin hread)))⟩
  case nack =>
    rintro _ h rfl
    exact answers_of_eq (engineIn_of_delivered h)
  case stripe =>
    rintro _ ls h hawake rfl hin hread htags
    exact answers_of_eq ((engineHbm_of_delivered h hawake).trans (congrArg fabEnd (takeStripe_sends hin hread htags)))
  case askQ =>
    rintro hx hl hrec hask hlines hnone rfl
    have hend := effStripePTimeout_eq hd he hx hl hrec hask hlines hnone
    exact ⟨fun hperm => answers_of_eq (hend.trans (if_neg (by simp [hperm]))),
      fun hperm => answers_of_eq (hend.trans (if_pos (by simp [hperm])))⟩
  case fence =>
    have hend := effEpochFenceEnd_drained hb hstage h5 h6
    exact ⟨fun hperm => answers_of_eq (hend.trans (if_neg (by simp [hperm]))),
      fun hperm => answers_of_eq (hend.trans (if_pos hperm))⟩

end Sys2Proof.Machine
end

section
/-! What a step does, with a command at the front of the queue and with none (log 2): O1 and O2. -/

namespace Sys2Proof.Machine

/-! ### The command at the front of the queue -/

theorem step_of_cons {c : Instr} {rest : List Instr} {s : State} (h : s.pending = c :: rest) :
    step s = exec c { s with pending := rest } := by
  rw [step, h]

/-- Settles O1: a step takes the command at the front of the queue, whatever stands behind it. -/
theorem stepRunsTheFrontCommand : Obligations.StepRunsTheFrontCommand :=
  fun c s => ⟨fun _ h => step_of_cons h, step_of_cons (s := s.withFront c) rfl⟩

/-! ### An empty queue (R497) -/

theorem step_of_nil {s : State} (h : s.pending = []) : step s = .next (tick s) := by
  rw [step, h]

/-- What no part of a tick changes: the always-on counter once it has advanced, the memories, the clusters and cores, the
streams and the tokens. -/
structure TickFrame (s t : State) : Prop where
  aoCount : t.aoCount = s.aoCount
  hbm : t.hbm = s.hbm
  flash : t.flash = s.flash
  cl : t.cl = s.cl
  core : t.core = s.core
  strm : t.strm = s.strm
  tok : t.tok = s.tok

theorem TickFrame.refl (s : State) : TickFrame s s := ⟨rfl, rfl, rfl, rfl, rfl, rfl, rfl⟩

theorem TickFrame.trans {a b c : State} (h : TickFrame a b) (g : TickFrame b c) : TickFrame a c :=
  ⟨g.aoCount.trans h.aoCount, g.hbm.trans h.hbm, g.flash.trans h.flash, g.cl.trans h.cl, g.core.trans h.core, g.strm.trans h.strm,
    g.tok.trans h.tok⟩

/-- Sector writes that retire change the write queues of the stacks and the free values alone (R280). -/
theorem retireWrites_eq (s : State) : ∃ n k, retireWrites s = { s with free := n, stack := k } := by
  unfold retireWrites
  split
  · exact ⟨_, _, rfl⟩
  · exact ⟨_, _, rfl⟩

/-- The measurements of links change the links and the free values alone. -/
theorem measureLinks_eq (s : State) : ∃ n m, measureLinks s = { s with free := n, mer := m } := by
  unfold measureLinks
  split
  · exact ⟨s.free, s.mer, rfl⟩
  · refine foldl_keeps (P := fun u => ∃ n m, u = { s with free := n, mer := m }) ?_ _ s ⟨s.free, s.mer, rfl⟩
    rintro _ p ⟨n, m, rfl⟩
    dsimp only
    split
    · exact ⟨_, _, rfl⟩
    · exact ⟨_, _, rfl⟩

/-- From `s` to `t` the enclave, the records and the free values change at most: what the search for a certificate and a
commit do (R542, R549). -/
def EnclaveWorks (s t : State) : Prop := ∃ n r e, t = { s with free := n, recs := r, encl := e }

theorem EnclaveWorks.trans {a b c : State} (h : EnclaveWorks a b) (g : EnclaveWorks b c) : EnclaveWorks a c := by
  obtain ⟨_, _, _, rfl⟩ := h
  obtain ⟨_, _, _, rfl⟩ := g
  exact ⟨_, _, _, rfl⟩

theorem enclaveWorks_setEncl (s : State) (e : Encl) : EnclaveWorks s (setEncl s e) := ⟨_, _, _, rfl⟩

theorem enclaveWorks_record (r : RecIn) (s : State) : EnclaveWorks s (record r s) := ⟨_, _, _, rfl⟩

theorem enclaveWorks_aliasRec (out : Nat) (s : State) : EnclaveWorks s (aliasRec out s) := by
  refine EnclaveWorks.trans (b := (msFromReady s).2) ?_ (enclaveWorks_record _ _)
  unfold msFromReady
  split <;> exact ⟨_, _, _, rfl⟩

theorem enclaveWorks_findAlias (s : State) : EnclaveWorks s (findAlias s) := by
  refine EnclaveWorks.trans (enclaveWorks_setEncl s _ : EnclaveWorks s (deriveAlias s)) ?_
  exact ite_of ((enclaveWorks_setEncl _ _).trans (enclaveWorks_aliasRec _ _)) (enclaveWorks_setEncl _ _)

theorem enclaveWorks_seekAlias (s : State) : EnclaveWorks s (seekAlias s) :=
  (enclaveWorks_findAlias s).trans (ite_of (enclaveWorks_setEncl _ _) ⟨_, _, _, rfl⟩)

theorem enclaveWorks_endCommit (s : State) : EnclaveWorks s (endCommit s) :=
  (enclaveWorks_setEncl s _).trans
    (ite_of ⟨_, _, _, rfl⟩ (((enclaveWorks_record _ _).trans (enclaveWorks_setEncl _ _)).trans (enclaveWorks_seekAlias _)))

theorem enclaveWorks_commitBit (s : State) : EnclaveWorks s (commitBit s) := by
  simp only [commitBit]
  split
  · exact ⟨s.free, s.recs, s.encl, rfl⟩
  · split
    · exact enclaveWorks_setEncl _ _
    · split
      · exact enclaveWorks_setEncl _ _
      · exact enclaveWorks_endCommit s

/-- A commit that is not due, or done, changes nothing. -/
theorem commitBit_idle {s : State} (h : s.boot.ready = false ∨ s.encl.committed = true) : commitBit s = s := by
  unfold commitBit
  rw [if_pos (by simpa using h)]

/-- A record that is pushed changes the messages and the state of the management interface alone (R563). -/
theorem pushEvent_eq (s : State) : ∃ o m, pushEvent s = { s with out := o, mgt := m } := by
  unfold pushEvent
  split
  · exact ⟨s.out, s.mgt, rfl⟩
  · split
    · exact ⟨s.out, s.mgt, rfl⟩
    · exact ⟨_, _, rfl⟩

theorem tickFrame_retireWrites (s : State) : TickFrame s (retireWrites s) := by
  obtain ⟨_, _, h⟩ := retireWrites_eq s
  rw [h]
  exact ⟨rfl, rfl, rfl, rfl, rfl, rfl, rfl⟩

theorem tickFrame_measureLinks (s : State) : TickFrame s (measureLinks s) := by
  obtain ⟨_, _, h⟩ := measureLinks_eq s
  rw [h]
  exact ⟨rfl, rfl, rfl, rfl, rfl, rfl, rfl⟩

theorem tickFrame_commitBit (s : State) : TickFrame s (commitBit s) := by
  obtain ⟨_, _, _, h⟩ := enclaveWorks_commitBit s
  rw [h]
  exact ⟨rfl, rfl, rfl, rfl, rfl, rfl, rfl⟩

theorem tickFrame_pushEvent (s : State) : TickFrame s (pushEvent s) := by
  obtain ⟨_, _, h⟩ := pushEvent_eq s
  rw [h]
  exact ⟨rfl, rfl, rfl, rfl, rfl, rfl, rfl⟩

/-- What passes at a tick after the counter's advance. -/
theorem tickFrame_tick {s : State} (h : s.pwr.aoPwrGd = true) : TickFrame { s with aoCount := s.aoCount + 1 } (tick s) := by
  rw [tick, if_pos h]
  exact (tickFrame_retireWrites _).trans ((tickFrame_measureLinks _).trans ((tickFrame_commitBit _).trans (tickFrame_pushEvent _)))

/-- Neither the write queues nor the links touch the enclave or the start. -/
theorem encl_boot_measureLinks_retireWrites (s : State) :
    (measureLinks (retireWrites s)).encl = s.encl ∧ (measureLinks (retireWrites s)).boot = s.boot := by
  obtain ⟨_, _, h⟩ := measureLinks_eq (retireWrites s)
  obtain ⟨_, _, h'⟩ := retireWrites_eq s
  rw [h, h']
  exact ⟨rfl, rfl⟩

/-- Without a commit under way the enclave stays as it is at a tick. -/
theorem encl_tick {s : State} (h : s.boot.ready = false ∨ s.encl.committed = true) : (tick s).encl = s.encl := by
  unfold tick
  split
  · obtain ⟨he, hb⟩ := encl_boot_measureLinks_retireWrites { s with aoCount := s.aoCount + 1 }
    obtain ⟨_, _, hp⟩ := pushEvent_eq (measureLinks (retireWrites { s with aoCount := s.aoCount + 1 }))
    rw [commitBit_idle (by rwa [he, hb]), hp]
    exact he
  · rfl

/-- Settles O2: a tick advances the counter, and each of its parts leaves the rest. -/
theorem emptyQueueTicksTheCounter : Obligations.EmptyQueueTicksTheCounter := by
  intro s hq
  rw [step_of_nil hq]
  refine ⟨fun hp => ?_, fun hp => ?_⟩
  · have hf := tickFrame_tick hp
    exact ⟨tick s, rfl, hf.aoCount, hf.hbm, hf.flash, hf.cl, hf.core, hf.strm, hf.tok, encl_tick⟩
  · exact answers_of_eq (by rw [tick, hp]; rfl)

end Sys2Proof.Machine
end

section
/-! PROOF. Family 12 to 16: what the tables and the ports read after the updates that several commands share, the die-link
ports and the companion site (chapter 12), and O51. -/

namespace Sys2Proof.Machine

/-! ### Tables -/

theorem Tab.length_put_le {α : Type} (t : Tab α) (j : Nat) (v : α) : (t.put j v).length ≤ t.length + 1 := by
  induction t with
  | nil => simp [Tab.put]
  | cons p t ih =>
    obtain ⟨k, x⟩ := p
    simp only [Tab.put]
    split
    · simp
    · split
      · simp
      · simpa using ih

/-- What does not depend on the value of a unit that is not listed. -/
theorem Tab.get_congr_default {α β : Type} (f : α → β) {d e : α} (h : f d = f e) (t : Tab α) (i : Nat) : f (t.get d i) = f (t.get e i) := by
  induction t with
  | nil => exact h
  | cons p t ih =>
    simp only [Tab.get]
    split
    · rfl
    · exact ih

/-! ### Ports (R459, R462) -/

/-- The mode in which a port ships has no part in what is being agreed on it. -/
theorem agree_get (x y : Bool) (t : Tab Port) (i : Nat) : (t.get (Port.reset x) i).agree = (t.get (Port.reset y) i).agree :=
  Tab.get_congr_default Port.agree (d := Port.reset x) (e := Port.reset y) rfl t i

/-- A change of a port's width leaves what is being agreed on every port. -/
theorem agree_setWidth (s : State) (d p a b : Nat) (w : List Nat) :
    (portOf (setPort s d p { portOf s d p with width := w }) a b).agree = (portOf s a b).agree := by
  simp only [portOf, setPort, Tab.get_put]
  split
  · next h =>
    rw [h]
    exact agree_get _ _ _ _
  · rfl

/-- Both ends of a port with the widths that they report. -/
def setWidths (d p : Nat) (mine peer : List Nat) (s : State) : State :=
  let u := setPort s d p { portOf s d p with width := mine }
  if (portPeer d p).1 = 7 then u
  else setPort u (portPeer d p).1 (portPeer d p).2 { portOf u (portPeer d p).1 (portPeer d p).2 with width := peer }

theorem agree_setWidths (s : State) (d p a b : Nat) (mine peer : List Nat) :
    (portOf (setWidths d p mine peer s) a b).agree = (portOf s a b).agree := by
  unfold setWidths
  split
  · exact agree_setWidth ..
  · exact (agree_setWidth ..).trans (agree_setWidth ..)

/-- Where no width is being agreed, the same report from both ends is agreed at once (R462). -/
theorem sidesTrained_same {s : State} {d p : Nat} (w : List Nat) (h : (portOf s (agreeEnd d p).1 (agreeEnd d p).2).agree = none) :
    sidesTrained d p w w s = agreed d p w none (setWidths d p w w s) := by
  have hn := (agree_setWidths s d p (agreeEnd d p).1 (agreeEnd d p).2 w w).trans h
  show (match (portOf (setWidths d p w w s) (agreeEnd d p).1 (agreeEnd d p).2).agree with | none => _ | some a => _) = _
  rw [hn]
  exact if_pos rfl

theorem effPortTrained_same {s : State} {d p : Nat} {w : List Nat} (hm : mayTrain s d p w w = true)
    (h : (portOf s (agreeEnd d p).1 (agreeEnd d p).2).agree = none) :
    effPortTrained d p w w s = nextClass (checkRoutes (agreed d p w none (setWidths d p w w s))) := by
  unfold effPortTrained
  rw [if_pos (.inl hm), sidesTrained_same w h]

/-- A state that is set at both ends of a port is that of the port. -/
theorem state_setEnds {f : Port → Port} {n : Nat} (hf : ∀ x, (f x).state = n) (d p : Nat) (s : State) :
    (portOf (setEnds d p f s) d p).state = n := by
  simp only [setEnds]
  split
  · rw [portOf_setPort_same]
    exact hf _
  · simp only [portOf, setPort, Tab.get_put]
    split
    · exact hf _
    · exact (congrArg Port.state (if_pos trivial)).trans (hf _)

theorem effFlitCrcError_eq {s : State} {d p m : Nat} (nth : Nat) (hp : (d, p) ∈ allPorts) (hs : (portOf s d p).state = 2)
    (hw : (portOf s d p).width.getD m 0 ≠ 0) : effFlitCrcError d p m nth s = checkRoutes (flitError d p m nth s) :=
  if_pos ⟨.inl (List.contains_iff_mem.2 hp), hs, hw⟩

/-- Below both limits of R459 a flit error is counted, and the port stays up. -/
theorem flitError_counts {s : State} {d p m nth : Nat} (hs : (portOf s d p).state = 2)
    (hl : (withinTicks s 5000 ((portOf s d p).retries.get [] m)).length < 31) (hn : nth < 8) :
    ∃ x, flitError d p m nth s = setPort s d p x ∧ x.crc = satInc 0xFFFFFFFF (portOf s d p).crc ∧ x.state = 2 := by
  refine ⟨_, if_pos ⟨?_, hn⟩, rfl, hs⟩
  simp only [List.length_append, List.length_singleton]
  omega

/-- The eighth error of one flit holds the port for a retrain. -/
theorem flitError_retrains {s : State} {d p m nth : Nat} (hn : 8 ≤ nth) :
    ∃ u, flitError d p m nth s = leftUp d p (portRec d p 0x0501 1 u) ∧ (portOf u d p).state = 3 := by
  refine ⟨_, if_neg (by omega), state_setEnds ?_ d p _⟩
  exact fun _ => rfl

/-! ### Requests to the companion (R466, R467) -/

theorem effRegRd_asks {s : State} {y size : Nat} (h : HostReaches s) (hc : compPresent s = true) (hr : regSizeOk y size = true)
    (hy : y < compSpace s) : effRegRd y size s = compAsk ⟨false, y, size, 0, false⟩ s := by
  simp [effRegRd, hr, hostRead_of_reaches h, compReads, h.ready, hc, hy]

theorem effRegWr_asks {s : State} {y size : Nat} {v : W64} (h : HostReaches s) (hc : compPresent s = true) (hr : regSizeOk y size = true)
    (hy : y < compSpace s) : effRegWr y size v s = compAsk ⟨true, y, size, v, false⟩ s := by
  simp [effRegWr, hr, hostAccess_of_reaches h, h.ready, hc, Nat.not_le.2 hy, h.own]

/-- A request sends one message and adds at most one to those under way. -/
theorem compAsk_sends (r : CompReq) (s : State) :
    (∃ o, (compAsk r s).out = o :: s.out) ∧ (compAsk r s).d2d.comp.reqs.length ≤ s.d2d.comp.reqs.length + 1 :=
  ⟨⟨_, rfl⟩, Tab.length_put_le _ _ _⟩

section
variable {s : State} {tag status : Nat} {data : List Byte} {r : CompReq}

theorem effCompanionCompletion_read (hf : s.d2d.comp.reqs.find tag = some r) (hw : r.write = false) :
    effCompanionCompletion tag 0 data s = compGives r (BitVec.ofNat 64 (leNat (data.take r.size))) (compTake tag s) := by
  simp [effCompanionCompletion, hf, hw]

theorem effCompanionCompletion_written (hf : s.d2d.comp.reqs.find tag = some r) (hw : r.write = true) :
    effCompanionCompletion tag status data s = if status = 0 then compTake tag s else regWrBad r status (compTake tag s) := by
  simp [effCompanionCompletion, hf, hw]

theorem effCompanionRegTimeout_eq (hf : s.d2d.comp.reqs.find tag = some r) : effCompanionRegTimeout tag s =
    if r.write then regWrBad r 0xF (compTake tag s) else compRec 6 (compGives r 0 (compTake tag s)) := by
  simp [effCompanionRegTimeout, hf]

end

/-! ### Accesses of the companion to HBM (R468) -/

section
variable {s : State} {tag len addr : Nat} {hs : List Hit} {data : List Byte}

theorem effMemRd_refused (hc : compPresent s = true) (hl : len < 4) (ha : inAperture s addr (64 * (len + 1)) = false) :
    effMemRd tag len addr hs s = compRefuse tag s := by
  simp [effMemRd, hc, Nat.not_le.2 hl, ha]

theorem effMemWr_refused (hc : compPresent s = true) (hl : len < 4) (hd : data.length = 64 * (len + 1))
    (ha : inAperture s addr (64 * (len + 1)) = false) : effMemWr tag len addr data s = compRefuse tag s := by
  simp [effMemWr, hc, Nat.not_le.2 hl, hd, ha]

theorem effMemRd_reads (hc : compPresent s = true) (hl : len < 4) (ha : inAperture s addr (64 * (len + 1)) = true)
    (hr : inSelfRefresh s (sectorsOf (s.d2d.comp.apBase * 2 ^ 30 + addr) (64 * (len + 1))) = false) :
    effMemRd tag len addr hs s = compReturn hs tag (s.d2d.comp.apBase * 2 ^ 30 + addr) (64 * (len + 1)) s := by
  unfold effMemRd
  rw [if_neg (by simp [hc, hl]), if_neg (by simp [ha])]
  exact if_neg (by rw [hr]; exact Bool.false_ne_true)

theorem effMemWr_writes (hc : compPresent s = true) (hl : len < 4) (hd : data.length = 64 * (len + 1))
    (ha : inAperture s addr (64 * (len + 1)) = true)
    (hr : inSelfRefresh s (sectorsOf (s.d2d.comp.apBase * 2 ^ 30 + addr) (64 * (len + 1))) = false) :
    effMemWr tag len addr data s = compStore (s.d2d.comp.apBase * 2 ^ 30 + addr) data s := by
  unfold effMemWr
  rw [if_neg (by simp [hc, hl, hd]), if_neg (by simp [hd, ha])]
  exact if_neg (by rw [hd, hr]; exact Bool.false_ne_true)

end

/-- A sector that the companion writes, and the settings of the aperture that do not outlast the write (R468). -/
theorem compStore_sector {s : State} {n : Nat} {data : List Byte} (h : data.length = 64) (hw : s.hbm.wf = true) (hl : n ∉ s.hbmLost) :
    sectorData (compStore (64 * n) data s) n = data
    ∧ sectorCk (compStore (64 * n) data s) n = checkWord n data s.d2d.comp.apVtag s.d2d.comp.apStag
    ∧ (compStore (64 * n) data s).xferVtag = s.xferVtag := by
  have hs : ∀ u, bar2Sectors data.length (64 * n) data u = writeSector n data u.xferVtag u.xferStag u := fun u => by
    rw [h]
    exact bar2Sectors_sector h 63 u
  obtain ⟨u, hu⟩ : ∃ u, u = { s with xferVtag := s.d2d.comp.apVtag, xferCheck := s.d2d.comp.apCheck, xferStag := s.d2d.comp.apStag } :=
    ⟨_, rfl⟩
  have hd : sectorData (compStore (64 * n) data s) n = sectorData (bar2Sectors data.length (64 * n) data u) n := by subst hu; rfl
  have hc : sectorCk (compStore (64 * n) data s) n = sectorCk (bar2Sectors data.length (64 * n) data u) n := by subst hu; rfl
  rw [hd, hc, hs u]
  subst hu
  exact ⟨sectorData_writeSector _ _ hw h hl, sectorCk_writeSector _ _ _ hl, rfl⟩

/-! ### Events and the aperture (R466, R468) -/

theorem effCompanionEvent_records {s : State} (line : List Byte) (hc : compPresent s = true) : ∃ r, effCompanionEvent line s = record r s
    ∧ r.cls = 0x0506 ∧ r.d1 = BitVec.ofNat 32 (leNat (line.take 4)) ∧ r.d6 = BitVec.ofNat 32 (leNat ((line.drop 20).take 4)) :=
  ⟨_, if_neg (by simp [hc]), rfl, rfl, rfl⟩

theorem effD2dCompApertureWrite_low {s : State} {v : W64} (h : HostReaches s) (hb : fld v 12 10 + fld v 32 11 ≤ 864)
    (hg : fld v 32 11 ≤ apertureGib s) : effD2dCompApertureWrite 0 8 v s = setComp (dropLow 0x80910 s)
      { s.d2d.comp with apEn := bit v 0, apBase := fld v 12 10, apSize := fld v 32 11 } := by
  have hg' : ¬ (864 < fld v 12 10 + fld v 32 11 ∨ apertureGib (dropLow 0x80910 s) < fld v 32 11) := by
    have : apertureGib (dropLow 0x80910 s) = apertureGib s := rfl
    omega
  simp only [effD2dCompApertureWrite, regSizeOk, hostAccess_of_reaches h]
  simp [writeHalves_whole, setAperture, hg']
  rfl

theorem effD2dCompApertureWrite_high {s : State} {v : W64} (h : HostReaches s) (hv : fld v 36 3 ≤ 4) :
    effD2dCompApertureWrite 8 8 v s = setComp (dropLow 0x80918 s)
      { s.d2d.comp with apVtag := v.setWidth 32, apCheck := fld v 32 2, apStag := fld v 36 3 } := by
  simp only [effD2dCompApertureWrite, regSizeOk, hostAccess_of_reaches h]
  simp [writeHalves_whole, setAperture, Nat.not_lt.2 hv]
  rfl

/-- The host port and the companion hold no data. -/
theorem sameData_setComp_dropLow (reg : Nat) (s : State) (x : Comp) : SameData s (setComp (dropLow reg s) x) :=
  ⟨rfl, fun _ => rfl, fun _ => rfl, fun _ => rfl, rfl, rfl, rfl, rfl⟩

/-- Settles O51: each clause is the lemma about its command, in the order of the statement. -/
theorem diePortsAndTheCompanionServe : Obligations.DiePortsAndTheCompanionServe := by
  refine ⟨fun s d p w hm ha => ?_, fun s d p m nth hp hs hw => ⟨?_, fun hl hn => ?_, fun hn => ?_⟩,
    fun s y size v h hc hr hy => ⟨?_, ?_, fun r => compAsk_sends r s⟩,
    fun s tag status data r hf => ⟨fun hw => ?_, fun hw => ?_, fun hw hst => ?_, fun hw => ?_, fun hw => ?_⟩,
    fun s tag len addr hs data hc hl hd => ⟨fun ha => ?_, fun ha hr => ⟨?_, ?_, fun n hn h0 hwf hlost => ?_⟩⟩,
    fun s line hc => ?_, fun s v h => ⟨fun hb hg => ?_, fun hv => ?_⟩⟩
  -- a port trained, and flits that fail their CRC (R459, R462)
  · exact ⟨_, answers_of_eq (effPortTrained_same hm ha), fun h7 => if_pos h7, fun h7 => if_neg h7⟩
  · exact answers_of_eq (effFlitCrcError_eq nth hp hs hw)
  · exact flitError_counts hs hl hn
  · exact flitError_retrains hn
  -- requests to the companion and their ends (R466, R467)
  · exact answers_of_eq (effRegRd_asks h hc hr hy)
  · exact answers_of_eq (effRegWr_asks h hc hr hy)
  · exact answers_of_eq (effCompanionCompletion_read hf hw)
  · exact answers_of_eq ((effCompanionCompletion_written hf hw).trans (if_pos rfl))
  · exact answers_of_eq ((effCompanionCompletion_written hf hw).trans (if_neg hst))
  · exact answers_of_eq ((effCompanionRegTimeout_eq hf).trans (if_neg (by simp [hw])))
  · exact answers_of_eq ((effCompanionRegTimeout_eq hf).trans (if_pos hw))
  -- the companion's accesses to HBM (R468)
  · exact ⟨answers_of_eq (effMemRd_refused hc hl ha), answers_of_eq (effMemWr_refused hc hl hd ha), rfl, rfl⟩
  · exact answers_of_eq (effMemRd_reads hc hl ha hr)
  · exact answers_of_eq (effMemWr_writes hc hl hd ha hr)
  · exact compStore_sector (by omega) hwf hlost
  -- its events, and the aperture (R466, R468)
  · obtain ⟨r, h, hcls, h1, h6⟩ := effCompanionEvent_records line hc
    exact ⟨r, answers_of_eq h, hcls, h1, h6⟩
  · exact ⟨_, answers_of_eq (effD2dCompApertureWrite_low h hb hg), rfl, rfl, rfl, sameData_setComp_dropLow _ _ _⟩
  · exact ⟨_, answers_of_eq (effD2dCompApertureWrite_high h hv), rfl, rfl, rfl, sameData_setComp_dropLow _ _ _⟩

end Sys2Proof.Machine
end

section
/-! PROOF. Family 12 to 16: what setting tokens and completing commands leaves of the streams, the clusters and the rest of the
package (R72, R75, R78). -/

namespace Sys2Proof.Machine

/-! ### Tokens set -/

/-- From `s` to `t` tokens are set, commands complete, and what follows from that is told: messages, records, what waiters
have seen. Of a stream only what it has seen changes, and of a cluster besides its tokens. -/
structure Posts (s t : State) : Prop where
  rest : ∃ out recs msix watch tok cmds strm cl, t = { s with
    out := out, recs := recs, pci := { s.pci with msix := msix, watch := watch }, tok := tok, cmds := cmds, strm := strm, cl := cl }
  strm : ∀ i, ∃ seen, strmOf t i = { strmOf s i with seen := seen }
  cl : ∀ j, ∃ tok seen, clOf t j = { clOf s j with tok := tok, seen := seen }

theorem Posts.of_rest {s t : State} (h : ∃ out recs msix watch tok cmds, t = { s with
    out := out, recs := recs, pci := { s.pci with msix := msix, watch := watch }, tok := tok, cmds := cmds }) : Posts s t := by
  obtain ⟨out, recs, msix, watch, tok, cmds, rfl⟩ := h
  exact ⟨⟨_, _, _, _, _, _, _, _, rfl⟩, fun _ => ⟨_, rfl⟩, fun _ => ⟨_, _, rfl⟩⟩

theorem Posts.refl (s : State) : Posts s s := .of_rest ⟨_, _, _, _, _, _, rfl⟩

theorem Posts.trans {a b c : State} (h : Posts a b) (g : Posts b c) : Posts a c := by
  refine ⟨?_, fun i => ?_, fun j => ?_⟩
  · obtain ⟨_, _, _, _, _, _, _, _, hb⟩ := h.rest
    obtain ⟨_, _, _, _, _, _, _, _, hc⟩ := g.rest
    subst hb
    exact ⟨_, _, _, _, _, _, _, _, hc⟩
  · obtain ⟨_, hb⟩ := h.strm i
    obtain ⟨_, hc⟩ := g.strm i
    exact ⟨_, by rw [hc, hb]⟩
  · obtain ⟨_, _, hb⟩ := h.cl j
    obtain ⟨_, _, hc⟩ := g.cl j
    exact ⟨_, _, by rw [hc, hb]⟩

theorem posts_foldl {α : Type} {f : State → α → State} (hf : ∀ u x, Posts u (f u x)) (l : List α) (s : State) : Posts s (l.foldl f s) :=
  foldl_keeps (P := Posts s) (fun u x h => h.trans (hf u x)) l s (.refl s)

theorem posts_record (r : RecIn) (s : State) : Posts s (record r s) := .of_rest ⟨_, _, _, _, _, _, rfl⟩

theorem posts_setCmds (s : State) (l : List CmdRec) : Posts s { s with cmds := l } := .of_rest ⟨_, _, _, _, _, _, rfl⟩

theorem posts_setWatch (s : State) (n : Nat) (w : Watch) : Posts s (setWatch s n w) := .of_rest ⟨_, _, _, _, _, _, rfl⟩

theorem posts_sendMsix (v : Nat) (s : State) : Posts s (sendMsix v s) :=
  ite_of (.of_rest ⟨_, _, _, _, _, _, rfl⟩) (.of_rest ⟨_, _, _, _, _, _, rfl⟩)

theorem posts_fireWatch (wait : Option W32) (n : Nat) (s : State) : Posts s (fireWatch wait n s) := by
  unfold fireWatch
  extract_lets w t s'
  have hsent : Posts s (sendMsix w.vector s') := (posts_setWatch s n _).trans (posts_sendMsix _ s')
  refine ite_of ?_ (.refl s)
  cases wait with
  | none => exact hsent
  | some q => exact ite_of (posts_setWatch s n _) hsent

theorem posts_putTok (s : State) (id : Nat) (t : TokEntry) : Posts s (putTok s id t) := by
  refine ite_of (.of_rest ⟨_, _, _, _, _, _, rfl⟩) ⟨⟨_, _, _, _, _, _, _, _, rfl⟩, fun _ => ⟨_, rfl⟩, fun j => ?_⟩
  rw [clOf_setCl]
  split
  · next h => exact h ▸ ⟨_, _, rfl⟩
  · exact ⟨_, _, rfl⟩

theorem posts_latchTok (id : Nat) (st : Tok) (s : State) : Posts s (latchTok id st s) := by
  refine ⟨⟨_, _, _, _, _, _, _, _, rfl⟩, fun i => ?_, fun j => ?_⟩
  · simp only [latchTok, strmOf]
    rcases get_mapV_cases Stream.reset (fun (x : Stream) => if headWaits x id then { x with seen := x.seen ++ [(id, st)] } else x)
      s.strm i with h | ⟨h, h'⟩
    · rw [h]
      split <;> exact ⟨_, rfl⟩
    · rw [h, h']
      exact ⟨_, rfl⟩
  · simp only [latchTok, clOf]
    rcases get_mapV_cases Cluster.reset (fun (c : Cluster) => if c.heldOn.contains id then { c with seen := c.seen ++ [(id, st)] } else c)
      s.cl j with h | ⟨h, h'⟩
    · rw [h]
      split <;> exact ⟨_, _, rfl⟩
    · rw [h, h']
      exact ⟨_, _, rfl⟩

theorem posts_setTokW (id : Nat) (t : TokEntry) (wait : Option W32) (s : State) : Posts s (setTokW id t wait s) := by
  unfold setTokW
  extract_lets s'
  have hseen : Posts s s' := ite_of (posts_latchTok id t.st s) (.refl s)
  exact (hseen.trans (posts_putTok s' id t)).trans (posts_foldl (fun u x => posts_fireWatch _ _ u) _ _)

theorem posts_postTok (id : Nat) (st : Tok) (s : State) : Posts s (postTok id st s) :=
  ite_of (posts_setTokW _ _ _ s) (.refl s)

theorem posts_abortTokens (ids : List Nat) (s : State) : Posts s (abortTokens ids s) :=
  posts_foldl (fun u id => posts_postTok id .aborted u) ids s

/-! ### Commands completed -/

theorem posts_postDone (w : W512) (t : Tok) (s : State) : Posts s (postDone w t s) := ite_of (posts_setTokW _ _ _ s) (.refl s)

theorem posts_completionRec (st : Nat) (w : W512) (outcome : Nat) (s : State) : Posts s (completionRec st w outcome s) :=
  ite_of (posts_record _ s) (.refl s)

theorem posts_completeCmd (no : Nat) (t : Tok) (s : State) : Posts s (completeCmd no t s) := by
  cases h : findCmd s no with
  | none => simpa only [completeCmd, h] using Posts.refl s
  | some c =>
    rw [completeCmd_of_find t h]
    exact ((posts_setCmds s _).trans (posts_postDone _ _ _)).trans (posts_completionRec _ _ _ _)

theorem posts_setWork (no : Nat) (w : Work) (s : State) : Posts s (setWork no w s) := posts_setCmds s _

end Sys2Proof.Machine
end

section
/-! PROOF. Family 12 to 16: the clocks of the clusters and what caps them (R499 to R514), and O54. -/

namespace Sys2Proof.Machine

/-! ### Clamp episodes (R505, R506) -/

/-- A clamp episode begins or ends: the power controller and the records change. -/
def Clamps (s t : State) : Prop := ∃ clamps eps at' recs, t = { s with
  recs := recs, pwr := { s.pwr with clamps := clamps, clampEpisodes := eps, clampAt := at' } }

theorem Clamps.refl (s : State) : Clamps s s := ⟨_, _, _, _, rfl⟩

theorem Clamps.trans {a b c : State} (h : Clamps a b) (g : Clamps b c) : Clamps a c := by
  obtain ⟨_, _, _, _, rfl⟩ := h
  obtain ⟨_, _, _, _, rfl⟩ := g
  exact ⟨_, _, _, _, rfl⟩

theorem clamps_clampRec (out : Nat) (x : Clamp) (s : State) : Clamps s (clampRec out x s) := ⟨_, _, _, _, rfl⟩

theorem clamps_clampBegins (loop clamped key want got : Nat) (s : State) : Clamps s (clampBegins loop clamped key want got s) := by
  unfold clampBegins
  extract_lets same quiet x p s'
  have h : Clamps s s' := ⟨_, _, _, _, rfl⟩
  exact ite_of h (h.trans (clamps_clampRec 1 x s'))

theorem clamps_clampEnds (x : Clamp) (got : Nat) (s : State) : Clamps s (clampEnds x got s) := by
  unfold clampEnds
  extract_lets p s'
  have h : Clamps s s' := ⟨_, _, _, _, rfl⟩
  exact ite_of (h.trans (clamps_clampRec 2 _ s')) h

theorem clamps_settleClock (cl : Nat) (s : State) : Clamps s (settleClock cl s) := by
  simp only [settleClock]
  split
  · exact ite_of (clamps_clampEnds _ _ s) (.refl s)
  · exact ite_of (clamps_clampBegins _ _ _ _ _ s) (.refl s)

theorem Clamps.clOf {s t : State} (h : Clamps s t) (j : Nat) : clOf t j = clOf s j := by
  obtain ⟨_, _, _, _, rfl⟩ := h
  rfl

theorem Clamps.core {s t : State} (h : Clamps s t) : t.core = s.core := by
  obtain ⟨_, _, _, _, rfl⟩ := h
  rfl

theorem Clamps.cmds {s t : State} (h : Clamps s t) : t.cmds = s.cmds := by
  obtain ⟨_, _, _, _, rfl⟩ := h
  rfl

theorem Clamps.boot {s t : State} (h : Clamps s t) : t.boot = s.boot := by
  obtain ⟨_, _, _, _, rfl⟩ := h
  rfl

theorem Clamps.sagStage {s t : State} (h : Clamps s t) : t.pwr.sagStage = s.pwr.sagStage := by
  obtain ⟨_, _, _, _, rfl⟩ := h
  rfl

/-! ### An evaluation (R504) -/

/-- The clock from which an evaluation starts: one that has not run starts at its lowest. -/
def clockFrom (c : Cluster) : Nat := if c.clockMhz = 0 then 500 else c.clockMhz

/-- Whether the clock rises: it lies below its target, and the last rise was 100 us ago. -/
def clockRises (s : State) (c : Cluster) : Bool := decide (clockFrom c < targetMhz s c ∧ 5000 ≤ (s.aoCount - c.lastUp).toNat)

/-- A cluster after an evaluation. -/
def evaluated (s : State) (c : Cluster) : Cluster :=
  { c with
    clockMhz := if targetMhz s c < clockFrom c then targetMhz s c else if clockRises s c then clockFrom c + 50 else clockFrom c
    lastUp := if clockRises s c then s.aoCount else c.lastUp
    limiter := limiterOf s c }

/-- Besides the cluster, an evaluation changes clamp episodes alone. -/
theorem clamps_evalClock (cl : Nat) (s : State) : Clamps (setCl s cl (evaluated s (clOf s cl))) (evalClock cl s) :=
  clamps_settleClock cl _

theorem clOf_evalClock_same (cl : Nat) (s : State) : clOf (evalClock cl s) cl = evaluated s (clOf s cl) := by
  rw [(clamps_evalClock cl s).clOf, clOf_setCl_same]

theorem clOf_evalClock_other {cl j : Nat} (h : j ≠ cl) (s : State) : clOf (evalClock cl s) j = clOf s j := by
  rw [(clamps_evalClock cl s).clOf, clOf_setCl_other _ _ h]

section
variable {s : State} {c : Cluster}

theorem evaluated_falls (h : targetMhz s c < clockFrom c) : (evaluated s c).clockMhz = targetMhz s c := if_pos h

theorem evaluated_rises (h : clockFrom c < targetMhz s c) (hl : 5000 ≤ (s.aoCount - c.lastUp).toNat) :
    (evaluated s c).clockMhz = clockFrom c + 50 ∧ (evaluated s c).lastUp = s.aoCount := by
  have hr : clockRises s c = true := decide_eq_true ⟨h, hl⟩
  exact ⟨(if_neg (Nat.lt_asymm h)).trans (if_pos hr), if_pos hr⟩

theorem evaluated_stays (h : clockFrom c = targetMhz s c ∨ (clockFrom c < targetMhz s c ∧ (s.aoCount - c.lastUp).toNat < 5000)) :
    (evaluated s c).clockMhz = clockFrom c := by
  have hr : ¬ clockRises s c = true := by
    simp only [clockRises, decide_eq_true_eq]
    omega
  exact (if_neg (by omega)).trans (if_neg hr)

end

/-! ### What sets the limits (R501, R504, R508) -/

theorem effClockEvaluation_eq {s : State} {cl : Nat} (need pass : Nat) (hcl : cl < 32) (hr : (clOf s cl).railOff = false) :
    effClockEvaluation cl need pass s = settleProfile (evalClock cl (setCl s cl { clOf s cl with
        avsCap := if 850 < need then min 1500 (pass / 50 * 50) else 1500, voltMv := min 850 (max 650 ((need + 14) / 5 * 5)) })) := by
  unfold effClockEvaluation
  rw [if_neg (by simp [hr, hcl])]

theorem effCapWrite_eq {s : State} {cl : Nat} (v : Nat) (h : HostReaches s) (hcl : cl < 32) :
    effCapWrite cl v s = settleProfile (evalClock cl (setCl s cl { clOf s cl with cap := v % 2048 })) := by
  have ha : 0x2000000 + cl / 8 * 0x1000000 + (0x870080 + cl % 8 * 8) = 0x2870080 + cl / 8 * 0x1000000 + cl % 8 * 8 := by omega
  rw [effCapWrite, if_pos hcl, window_die h ha (by omega) (by omega) (by omega), effCluCapWrite, hostWriteReady_of_reaches h,
    if_pos hcl]

/-- The power of the first `n` clusters is measured. -/
def setPowers (ws : List Nat) (n : Nat) (s : State) : State :=
  (List.range n).foldl (fun s i => setCl s i { clOf s i with powerW := ws.getD i 0 % 65536 }) s

theorem setPowers_eq (ws : List Nat) (n : Nat) (s : State) : (∃ cl, setPowers ws n s = { s with cl := cl })
    ∧ ∀ i, i < n → (clOf (setPowers ws n s) i).powerW = ws.getD i 0 % 65536 := by
  induction n with
  | zero => exact ⟨⟨_, rfl⟩, fun i h => absurd h (Nat.not_lt_zero i)⟩
  | succ n ih =>
    obtain ⟨⟨cl, h⟩, hi⟩ := ih
    have hs : setPowers ws (n + 1) s = setCl (setPowers ws n s) n { clOf (setPowers ws n s) n with powerW := ws.getD n 0 % 65536 } := by
      simp only [setPowers, List.range_succ, List.foldl_append, List.foldl_cons, List.foldl_nil]
    rw [hs]
    refine ⟨⟨_, by rw [h]; rfl⟩, fun i hin => ?_⟩
    rw [clOf_setCl]
    split
    · next he => rw [he]
    · exact hi i (by omega)

/-- Since when, at the time `now`, the power has been below 97% of the limit (R508). -/
def lowSince (watts : Nat) (now : W64) (p : Power) : Option W64 :=
  if decide (watts * 100 < profileWatts p.profile * 97) then (match p.lowSince with | some t => some t | none => some now) else none

/-- Whether that is 1 ms ago, so that the cap is lifted. -/
def capLifts (watts : Nat) (now : W64) (p : Power) : Bool := match lowSince watts now p with
  | some t => decide (50000 ≤ (now - t).toNat)
  | none => false

/-- The power controller after a reading of the package power. -/
def powerRead (watts : Nat) (now : W64) (p : Power) : Power :=
  { p with
    powerW := watts % 65536, lowSince := lowSince watts now p
    powerCap := if profileWatts p.profile < watts then max 500 (p.powerCap - 50) else if capLifts watts now p then p.profCap else p.powerCap }

theorem effPowerLoop_eq (watts : Nat) (cs : List Nat) (s : State) : effPowerLoop watts cs s
    = settleProfile (evalClocks (setPwr (setPowers cs (min 32 cs.length) s) (powerRead watts s.aoCount s.pwr))) := by
  have hl : effPowerLoop watts cs s = settleProfile (evalClocks (setPwr (setPowers cs (min 32 cs.length) s)
      (powerRead watts (setPowers cs (min 32 cs.length) s).aoCount s.pwr))) := rfl
  obtain ⟨⟨cl, h⟩, -⟩ := setPowers_eq cs (min 32 cs.length) s
  rw [hl, show (setPowers cs (min 32 cs.length) s).aoCount = s.aoCount by rw [h]]

section
variable {now : W64} {p : Power} {watts : Nat}

theorem lowSince_high (h : profileWatts p.profile * 97 ≤ watts * 100) : lowSince watts now p = none :=
  if_neg (by simpa using h)

theorem powerRead_over (h : profileWatts p.profile < watts) :
    (powerRead watts now p).powerCap = max 500 (p.powerCap - 50) ∧ (powerRead watts now p).lowSince = none :=
  ⟨if_pos h, lowSince_high (by omega)⟩

theorem powerRead_lifts {t : W64} (h : watts * 100 < profileWatts p.profile * 97) (ht : p.lowSince = some t)
    (hl : 50000 ≤ (now - t).toNat) : (powerRead watts now p).powerCap = p.profCap := by
  have hs : lowSince watts now p = some t := by simp [lowSince, h, ht]
  have hc : capLifts watts now p = true := by
    rw [capLifts, hs]
    exact decide_eq_true hl
  exact (if_neg (by omega)).trans (if_pos hc)

theorem powerRead_within (h : profileWatts p.profile * 97 ≤ watts * 100) (hw : watts ≤ profileWatts p.profile) :
    (powerRead watts now p).powerCap = p.powerCap ∧ (powerRead watts now p).lowSince = none :=
  ⟨(if_neg (by omega)).trans (if_neg (by simp [capLifts, lowSince_high h])), lowSince_high h⟩

end

/-! ### A change of profile (R509) -/

/-- The power and every clock that is not gated are in place. -/
def profileSettled (s : State) : Bool :=
  s.pwr.profPending && decide (s.pwr.powerW ≤ profileWatts s.pwr.profile)
    && (List.range 32).all (fun cl => let c := clOf s cl; c.gated || c.railOff || decide (c.clockMhz = targetMhz s c))

theorem settleProfile_eq (s : State) : settleProfile s = if profileSettled s then
    (powerRec unitPackage 0x0608 s.pwr.profile 9 s.pwr.profOld (usSince s s.pwr.profAt) (setPwr s { s.pwr with profPending := false })).cmds.foldl
      (fun s c => match c.work with
        | .profile _ => completeCmd c.no .done s
        | _ => s)
      (powerRec unitPackage 0x0608 s.pwr.profile 9 s.pwr.profOld (usSince s s.pwr.profAt) (setPwr s { s.pwr with profPending := false }))
    else s := rfl

theorem settleProfile_waits {s : State} (h : s.pwr.profPending = false ∨ profileWatts s.pwr.profile < s.pwr.powerW) : settleProfile s = s := by
  rw [settleProfile_eq]
  refine if_neg fun hs => ?_
  simp only [profileSettled, Bool.and_eq_true, decide_eq_true_eq] at hs
  obtain ⟨⟨hp, hw⟩, -⟩ := hs
  rcases h with h | h
  · rw [h] at hp
    exact Bool.false_ne_true hp
  · omega

/-- A profile that has settled is recorded, and its command completes. -/
theorem settleProfile_completes {s : State} {c : CmdRec} {n : Nat} (hp : s.pwr.profPending = true)
    (hw : s.pwr.powerW ≤ profileWatts s.pwr.profile) (hc : s.cmds = [c]) (hk : c.work = .profile n)
    (hcl : ∀ cl, cl < 32 → (clOf s cl).gated = true ∨ (clOf s cl).railOff = true ∨ (clOf s cl).clockMhz = targetMhz s (clOf s cl)) :
    settleProfile s = completeCmd c.no .done
      (powerRec unitPackage 0x0608 s.pwr.profile 9 s.pwr.profOld (usSince s s.pwr.profAt) (setPwr s { s.pwr with profPending := false })) := by
  have hs : profileSettled s = true := by
    simp only [profileSettled, hp, hw, List.all_eq_true, List.mem_range, Bool.or_eq_true, decide_eq_true_eq, Bool.and_eq_true]
    exact ⟨⟨trivial, trivial⟩, fun cl h => or_assoc.2 (hcl cl h)⟩
  have hcs : (powerRec unitPackage 0x0608 s.pwr.profile 9 s.pwr.profOld (usSince s s.pwr.profAt)
      (setPwr s { s.pwr with profPending := false })).cmds = [c] := hc
  rw [settleProfile_eq, if_pos hs, hcs]
  simp only [List.foldl_cons, List.foldl_nil, hk]

/-- A change of profile that completes leaves of each cluster all but its tokens. -/
theorem clOf_settleProfile (s : State) (j : Nat) : ∃ tok seen, clOf (settleProfile s) j = { clOf s j with tok := tok, seen := seen } := by
  rw [settleProfile_eq]
  split
  · refine (posts_foldl (fun u c => ?_) _ (powerRec _ _ _ _ _ _ _)).cl j
    split
    · exact posts_completeCmd _ _ u
    · exact .refl u
  · exact ⟨_, _, rfl⟩

/-! ### Gating and droops (R499, R502) -/

section
variable {s : State} {cl : Nat}

theorem effClusterGate_idle (hcl : cl < 32) (hp : (clOf s cl).prog = none) (hr : (clOf s cl).rotDue = false)
    (ho : (clOf s cl).occTesting = 15) : effClusterGate cl s = setCl s cl { clOf s cl with gated := true } :=
  if_pos ⟨hcl, hp, by simp [hr], ho⟩

theorem effClusterGate_busy (hp : (clOf s cl).prog ≠ none) : effClusterGate cl s = s := if_neg fun h => hp h.2.1

/-- A cluster in a droop, its rail raised when the response raises it. -/
def drooped (raised : Nat) (c : Cluster) : Cluster :=
  { c with stretched := true, droopStretch := satInc 0xFFFF c.droopStretch, voltMv := max c.voltMv raised }

theorem effDroop_eq (raised : Nat) (hcl : cl < 32) (hs : (clOf s cl).stretched = false) (hr : (clOf s cl).railOff = false) :
    clOf (effDroop cl raised s) cl = drooped raised (clOf s cl) ∧ (effDroop cl raised s).core = s.core := by
  simp only [effDroop]
  rw [if_neg (by simp [hcl, hs, hr])]
  split
  · next h =>
    have hk := clamps_clampBegins 7 12 cl (clOf s cl).voltMv raised (setCl
      (setCl s cl { clOf s cl with stretched := true, droopStretch := satInc 0xFFFF (clOf s cl).droopStretch }) cl
      { clOf (setCl s cl { clOf s cl with stretched := true, droopStretch := satInc 0xFFFF (clOf s cl).droopStretch }) cl with voltMv := raised })
    refine ⟨?_, hk.core⟩
    rw [hk.clOf, clOf_setCl_same, clOf_setCl_same, drooped, Nat.max_eq_right (Nat.le_of_lt h)]
  · next h =>
    refine ⟨?_, rfl⟩
    rw [clOf_setCl_same, drooped, Nat.max_eq_left (Nat.not_lt.1 h)]

/-- The end of a droop takes the stretch away, and a raised rail back. -/
theorem effDroopEnd_eq (hs : (clOf s cl).stretched = true) : clOf (effDroopEnd cl s) cl = { clOf s cl with
    stretched := false, voltMv := ((clampOf s 12 cl).map Clamp.want).getD (clOf s cl).voltMv } := by
  have hc : clampOf (setCl s cl { clOf s cl with stretched := false }) 12 cl = clampOf s 12 cl := rfl
  rw [effDroopEnd, if_pos hs]
  simp only [hc]
  cases clampOf s 12 cl with
  | none => exact clOf_setCl_same _ _ _
  | some x =>
    simp only [(clamps_clampEnds _ _ _).clOf, clOf_setCl_same]
    rfl

end

/-! ### Sensors (R510 to R514) -/

section
variable {s : State} {cl : Nat} {rs : List W16}

/-- A cluster's readings taken, and the hottest sensor of the package found. -/
def clusterSampled (cl : Nat) (rs : List W16) (s : State) : State :=
  let u := setCl s cl { clOf s cl with sensors := rs }
  setPwr u { u.pwr with hottest := (hottest u).1, hotDie := (hottest u).2 }

theorem effSensorSample_cluster (hl : rs.length = 4) (hp : s.pwr.aoPwrGd = true) (hcl : cl < 32) : effSensorSample cl rs s =
    if 115 * 16 ≤ (hotSensor rs).toInt then trip 3 (unitClu cl) (hotSensor rs).toNat (clusterSampled cl rs s)
    else thermalStep cl (hotSensor rs) (clusterSampled cl rs s) := by
  simp only [effSensorSample]
  rw [if_neg (by simp [hl, hp])]
  simp only [if_pos hcl, if_pos (Or.inl hcl : cl < 32 ∨ cl - 32 = 4 ∨ cl - 32 = 5 ∨ cl - 32 = 6)]
  rfl

/-- The hub die's readings taken. -/
def hubSampled (rs : List W16) (s : State) : State :=
  let u := setPwr s { s.pwr with hubSensors := rs }
  setPwr u { u.pwr with hottest := (hottest u).1, hotDie := (hottest u).2 }

theorem effSensorSample_hub (hl : rs.length = 4) (hp : s.pwr.aoPwrGd = true) (ht : (hotSensor rs).toInt < 115 * 16) :
    effSensorSample 36 rs s =
      if 95 * 16 < (hotSensor rs).toInt then
        if s.pwr.hotSeen.contains 4 then hubSampled rs s
        else limitRec (unitDie 4 15 0) 2 (hotSensor rs) (setPwr (hubSampled rs s) { (hubSampled rs s).pwr with hotSeen := 4 :: s.pwr.hotSeen })
      else setPwr (hubSampled rs s) { (hubSampled rs s).pwr with hotSeen := s.pwr.hotSeen.erase 4 } := by
  have hcl : ¬ (36 < 32) := by omega
  have hd : 36 - 32 = 4 := rfl
  simp only [effSensorSample]
  rw [if_neg (by simp [hl, hp])]
  simp only [if_neg hcl, hd, if_true, or_true, true_or, if_neg (Int.not_le.2 ht)]
  rfl

/-- The first reading above 95 C of an excursion is recorded as THERMAL_LIMIT (R514). -/
theorem effSensorSample_hub_records (hl : rs.length = 4) (hp : s.pwr.aoPwrGd = true) (ht : (hotSensor rs).toInt < 115 * 16)
    (hh : 95 * 16 < (hotSensor rs).toInt) (hn : 4 ∉ s.pwr.hotSeen) :
    ∃ r u, effSensorSample 36 rs s = record r u ∧ r.cls = 0x0602 ∧ r.outcome = 2 ∧ r.d2 = BitVec.ofNat 32 (hotSensor rs).toNat
      ∧ u.pwr.hubSensors = rs ∧ u.pwr.limitSeen = true ∧ u.pwr.hotSeen = 4 :: s.pwr.hotSeen ∧ u.recs = s.recs := by
  rw [effSensorSample_hub hl hp ht, if_pos hh, if_neg (by simpa using hn)]
  exact ⟨_, _, rfl, rfl, rfl, rfl, rfl, rfl, rfl, by simp only [setPwr, hubSampled]⟩

end

/-! ### The thermal cap (R511, R512) -/

section
variable {s : State} {cl : Nat} {hot : W16}

/-- Since when the cluster has been below 92 C. -/
def coolFrom (s : State) (c : Cluster) (hot : W16) : Option W64 :=
  if hot.toInt < 92 * 16 then (match c.coolSince with | some x => some x | none => some s.aoCount) else none

/-- Whether that is 100 us ago. -/
def coolLong (s : State) (c : Cluster) (hot : W16) : Bool := match coolFrom s c hot with
  | some x => decide (5000 ≤ (s.aoCount - x).toNat)
  | none => false

/-- Whether the cluster is in thermal limit: from above 105 C until below 95 C. -/
def inThermalLimit (c : Cluster) (hot : W16) : Bool := if 105 * 16 < hot.toInt then true else if hot.toInt < 95 * 16 then false else c.inLimit

/-- The thermal cap after a reading. -/
def thermalCapNext (s : State) (c : Cluster) (hot : W16) : Nat :=
  if inThermalLimit c hot then 500 else if capFalls s c hot then max 500 (c.thermalCap - 50) else if coolLong s c hot then 1500 else c.thermalCap

/-- A reading sets the cap and the limit; records, an evaluation and the end of a change of profile leave both. -/
theorem clOf_thermalStep (cl : Nat) (hot : W16) (s : State) :
    (clOf (thermalStep cl hot s) cl).thermalCap = thermalCapNext s (clOf s cl) hot
    ∧ (clOf (thermalStep cl hot s) cl).inLimit = inThermalLimit (clOf s cl) hot := by
  unfold thermalStep
  extract_lets c t cool limit lift falls cap s1 s2 s3
  have h1 : (clOf s1 cl).thermalCap = thermalCapNext s (clOf s cl) hot ∧ (clOf s1 cl).inLimit = inThermalLimit (clOf s cl) hot := by
    rw [clOf_setCl_same]
    exact ⟨rfl, rfl⟩
  have h2 : clOf s2 cl = clOf s1 cl := ite_of (P := fun u => clOf u cl = clOf s1 cl) rfl rfl
  have h3 : clOf s3 cl = clOf s2 cl := ite_of (P := fun u => clOf u cl = clOf s2 cl) rfl (ite_of (P := fun u => clOf u cl = clOf s2 cl) rfl rfl)
  rw [← h2, ← h3] at h1
  split
  · exact h1
  · obtain ⟨tok, seen, h⟩ := clOf_settleProfile (evalClock cl s3) cl
    rw [h, clOf_evalClock_same]
    exact h1

theorem capFalls_of {c : Cluster} (hh : 95 * 16 < hot.toInt) (h1 : ∀ x, hotThen s c = some x → x.2.toInt ≤ hot.toInt)
    (h2 : ∀ a, c.fellAt = some a → 500 ≤ (s.aoCount - a).toNat) : capFalls s c hot = true := by
  have hh' : decide (95 * 16 < hot.toInt) = true := decide_eq_true hh
  unfold capFalls
  rw [hh']
  cases hx : hotThen s c <;> cases ha : c.fellAt <;> simp_all

theorem not_capFalls_of {c : Cluster} (h : (∃ x, hotThen s c = some x ∧ hot.toInt < x.2.toInt)
    ∨ ∃ a, c.fellAt = some a ∧ (s.aoCount - a).toNat < 500) : capFalls s c hot = false := by
  rcases h with ⟨x, hx, hlt⟩ | ⟨a, ha, hlt⟩
  · simp only [capFalls, hx, decide_eq_false (Int.not_le.2 hlt), Bool.and_false, Bool.false_and]
  · simp only [capFalls, ha, decide_eq_false (Nat.not_le.2 hlt), Bool.and_false]

theorem not_capFalls_cool {c : Cluster} (h : hot.toInt ≤ 95 * 16) : capFalls s c hot = false := by
  simp only [capFalls, decide_eq_false (Int.not_lt.2 h), Bool.false_and]

/-- Not below 92 C, the cap is not lifted. -/
theorem not_coolLong {c : Cluster} (h : 92 * 16 ≤ hot.toInt) : coolLong s c hot = false := by
  simp only [coolLong, coolFrom, if_neg (Int.not_lt.2 h)]

/-- Below 92 C for 100 us, it is. -/
theorem coolLong_of {c : Cluster} {x : W64} (h : hot.toInt < 92 * 16) (hx : c.coolSince = some x) (hl : 5000 ≤ (s.aoCount - x).toNat) :
    coolLong s c hot = true := by
  simp only [coolLong, coolFrom, if_pos h, hx]
  exact decide_eq_true hl

theorem inThermalLimit_hot {c : Cluster} (h : 105 * 16 < hot.toInt) : inThermalLimit c hot = true := if_pos h

theorem inThermalLimit_of_not {c : Cluster} (h : hot.toInt ≤ 105 * 16) (hc : c.inLimit = false) : inThermalLimit c hot = false := by
  rw [inThermalLimit, if_neg (Int.not_lt.2 h), hc, ite_self]

theorem inThermalLimit_cool {c : Cluster} (h : hot.toInt < 95 * 16) : inThermalLimit c hot = false :=
  (if_neg (by omega)).trans (if_pos h)

end

/-- Settles O54: each clause is the lemma about its command, in the order of the statement. -/
theorem clocksFollowTheirTargetsAndCapsTheirSensors : Obligations.ClocksFollowTheirTargetsAndCapsTheirSensors := by
  refine ⟨fun s cl t f ht hf => ?_, fun s cl need pass hcl hr => ?_, fun s cl v h hcl => ?_, fun s watts cs => ?_,
    fun s => ⟨settleProfile_waits, fun c n hp hw hc hk hcl => ?_⟩,
    fun s cl hcl => ⟨fun hp hr ho => ?_, fun hp => ?_, fun raised hs hr => ?_, fun hs => ?_⟩,
    fun s cl rs hot hl hp hh => ⟨fun hcl => ?_, fun hcl h95 h115 hn => ?_, fun hcl h115 hc => ?_⟩,
    fun s cl hot => ⟨fun h => ?_, fun h95 h105 hi => ⟨fun h1 h2 => ?_, fun h1 => ?_⟩, fun h92 h95 hi => ?_, fun x h92 hx hl => ?_⟩⟩
  -- an evaluation (R504)
  · obtain rfl : t = targetMhz s (clOf s cl) := ht
    obtain rfl : f = clockFrom (clOf s cl) := hf
    rw [clOf_evalClock_same]
    exact ⟨evaluated_falls, evaluated_rises, evaluated_stays, fun j hj => clOf_evalClock_other hj s, (clamps_evalClock cl s).cmds,
      (clamps_evalClock cl s).core⟩
  -- what sets the limits (R501, R504, R508)
  · exact answers_of_eq (effClockEvaluation_eq need pass hcl hr)
  · exact answers_of_eq (effCapWrite_eq v h hcl)
  · refine ⟨_, answers_of_eq (effPowerLoop_eq watts cs s), rfl, powerRead_over, fun t => powerRead_lifts, powerRead_within, fun i hi h32 => ?_⟩
    exact (setPowers_eq cs (min 32 cs.length) s).2 i (by omega)
  -- a change of profile (R509)
  · exact ⟨_, settleProfile_completes hp hw hc hk hcl, rfl, rfl, rfl⟩
  -- gating and droops (R499, R502)
  · exact answers_of_eq (effClusterGate_idle hcl hp hr ho)
  · exact answers_of_eq (effClusterGate_busy hp)
  · obtain ⟨hc, hcore⟩ := effDroop_eq raised hcl hs hr
    refine ⟨_, rfl, ?_⟩
    rw [hc]
    exact ⟨rfl, rfl, rfl, rfl, hcore⟩
  · refine ⟨_, rfl, ?_⟩
    rw [effDroopEnd_eq hs]
    exact ⟨rfl, fun x hx => by rw [hx]; rfl, fun hn => by rw [hn]; rfl⟩
  -- sensors (R510, R513, R514)
  · subst hh
    refine ⟨clusterSampled cl rs s, clOf_setCl_same _ _ _, rfl, rfl, fun h => ?_, fun h => ?_⟩
    · exact answers_of_eq ((effSensorSample_cluster hl hp hcl).trans (if_pos h))
    · exact answers_of_eq ((effSensorSample_cluster hl hp hcl).trans (if_neg (by omega)))
  · subst hh hcl
    obtain ⟨r, u, h, hr⟩ := effSensorSample_hub_records hl hp h115 h95 hn
    exact ⟨r, u, answers_of_eq h, hr⟩
  · subst hh hcl
    refine ⟨_, answers_of_eq (effSensorSample_hub hl hp h115), ?_⟩
    split
    · next h95 =>
      rw [if_pos (by simpa using hc.resolve_left (by omega))]
      exact ⟨rfl, rfl, rfl⟩
    · exact ⟨rfl, rfl, rfl⟩
  -- the thermal cap (R511, R512)
  · obtain ⟨hcap, hlim⟩ := clOf_thermalStep cl hot s
    rw [hcap, hlim]
    exact ⟨if_pos (inThermalLimit_hot h), inThermalLimit_hot h⟩
  · rw [(clOf_thermalStep cl hot s).1, thermalCapNext, inThermalLimit_of_not h105 hi, capFalls_of h95 h1 h2]
    rfl
  · rw [(clOf_thermalStep cl hot s).1, thermalCapNext, inThermalLimit_of_not h105 hi, not_capFalls_of h1, not_coolLong (by omega)]
    rfl
  · rw [(clOf_thermalStep cl hot s).1, thermalCapNext, inThermalLimit_of_not (by omega) hi, not_capFalls_cool h95, not_coolLong h92]
    rfl
  · obtain ⟨hcap, hlim⟩ := clOf_thermalStep cl hot s
    rw [hcap, hlim, thermalCapNext, inThermalLimit_cool (by omega), not_capFalls_cool (by omega), coolLong_of h92 hx hl]
    exact ⟨rfl, rfl⟩

end Sys2Proof.Machine
end

section
/-! PROOF. Family 12 to 16: units of one kind changed in turn, and what trips, sags of the supply and failed rails and clocks do
(R494 to R521): O55. -/

namespace Sys2Proof.Machine

/-! ### Units of one kind changed in turn -/

/-- Units changed in turn, each once. -/
theorem Tab.get_foldl_put {α : Type} (d : α) (g : Nat → α → α) {l : List Nat} (hl : l.Nodup) (t : Tab α) (j : Nat) :
    (l.foldl (fun t k => t.put k (g k (t.get d k))) t).get d j = if j ∈ l then g j (t.get d j) else t.get d j := by
  induction l generalizing t with
  | nil => simp
  | cons k l ih =>
    obtain ⟨hk, hl⟩ := List.nodup_cons.1 hl
    rw [List.foldl_cons, ih hl, Tab.get_put]
    by_cases hj : j = k
    · subst hj
      rw [if_neg hk, if_pos rfl, if_pos (List.mem_cons_self ..)]
    · simp only [List.mem_cons, hj, false_or, if_false]

theorem foldl_setCore_eq (g : Nat → Core → Core) (l : List Nat) (s : State) : l.foldl (fun s k => setCore s k (g k (coreOf s k))) s
    = { s with core := l.foldl (fun t k => t.put k (g k (t.get Core.reset k))) s.core } := by
  induction l generalizing s with
  | nil => rfl
  | cons k l ih => exact ih _

theorem coreOf_foldl_setCore (g : Nat → Core → Core) {l : List Nat} (hl : l.Nodup) (s : State) (j : Nat) :
    coreOf (l.foldl (fun s k => setCore s k (g k (coreOf s k))) s) j = if j ∈ l then g j (coreOf s j) else coreOf s j := by
  rw [foldl_setCore_eq]
  exact Tab.get_foldl_put _ g hl _ _

theorem foldl_setDie_eq (g : Nat → Die → Die) (l : List Nat) (s : State) : l.foldl (fun s k => setDie s k (g k (dieOf s k))) s
    = { s with die := l.foldl (fun t k => t.put k (g k (t.get Die.reset k))) s.die } := by
  induction l generalizing s with
  | nil => rfl
  | cons k l ih => exact ih _

theorem dieOf_foldl_setDie (g : Nat → Die → Die) {l : List Nat} (hl : l.Nodup) (s : State) (j : Nat) :
    dieOf (l.foldl (fun s k => setDie s k (g k (dieOf s k))) s) j = if j ∈ l then g j (dieOf s j) else dieOf s j := by
  rw [foldl_setDie_eq]
  exact Tab.get_foldl_put _ g hl _ _

/-- Every listed unit changed by a function of its number that leaves the value of one that is not listed. -/
theorem Tab.get_mapKey {α : Type} (d : α) (f : Nat → α → α) (t : Tab α) {j : Nat} (h : f j d = d) :
    Tab.get d (List.map (fun p => (p.1, f p.1 p.2)) t) j = f j (t.get d j) := by
  induction t with
  | nil => exact h.symm
  | cons p t ih =>
    simp only [List.map_cons, Tab.get]
    split
    · next e => rw [e]
    · exact ih

/-! ### Trips (R513) -/

theorem effThermalTrip_trips {s : State} {d : Nat} (reading : W16) (hd : d < 7) (hp : s.pwr.aoPwrGd = true) :
    effThermalTrip d reading s = trip 1 (unitDie d 15 0) reading.toNat s :=
  if_pos ⟨hd, hp⟩

/-- The record that the power controller makes. -/
def powerRecIn (unit : W32) (cls out loop d2 d3 : Nat) : RecIn :=
  { unit := unit, cls := cls, outcome := out, d1 := BitVec.ofNat 32 loop, d2 := BitVec.ofNat 32 d2, d3 := BitVec.ofNat 32 d3 }

/-- What a trip records. -/
def tripRec (out : Nat) (unit : W32) (reading : Nat) : RecIn :=
  powerRecIn unit 0x0603 out 3 reading 0

/-- The state of a trip with its record, out of service. -/
def tripBegun (out : Nat) (unit : W32) (reading : Nat) (s : State) : State :=
  let u := record (tripRec out unit reading) s
  { u with recs := { u.recs with inService := false } }

/-- What a package without its supplies has lost and kept. -/
theorem blackout_fields (cause : Nat) (hbm : Bool) (s : State) :
    (blackout cause hbm s).pwr.shdnHigh = false ∧ (blackout cause hbm s).boot.nextCause = cause ∧ (blackout cause hbm s).boot.ready = false
    ∧ (blackout cause hbm s).cl = [] ∧ (blackout cause hbm s).core = [] ∧ (blackout cause hbm s).tok = [] := by
  cases hbm <;> exact ⟨rfl, rfl, rfl, rfl, rfl, rfl⟩

theorem blackout_kept (cause : Nat) (s : State) :
    (blackout cause false s).hbm = [] ∧ (blackout cause false s).flash = s.flash ∧ (blackout cause false s).aoCount = s.aoCount
    ∧ (blackout cause false s).pending = s.pending ∧ (blackout cause false s).recs.log = s.recs.log :=
  ⟨rfl, rfl, rfl, rfl, rfl⟩

/-- The fibre links with every LASER_EN_N high. -/
def lasersOff : Tab Fibre := [0, 1, 2, 3].map (fun f => (f, { Fibre.reset with state := 1 }))

theorem fibre_blackout (cause : Nat) (hbm : Bool) (s : State) : (blackout cause hbm s).mer.fibre = lasersOff := by
  cases hbm <;> rfl

theorem enHigh_lasersOff {s : State} (h : s.mer.fibre = lasersOff) {i : Nat} (hi : i < 4) : (fibreOf s i).enHigh = true := by
  rw [fibreOf, h]
  obtain rfl | rfl | rfl | rfl : i = 0 ∨ i = 1 ∨ i = 2 ∨ i = 3 := by omega
  all_goals rfl

/-- The package after a trip, its supplies switched off. -/
def tripped (out : Nat) (unit : W32) (reading : Nat) (s : State) : State :=
  let u := blackout 5 false (tripBegun out unit reading s)
  { u with pwr := { u.pwr with tripLow := true } }

section
variable (out : Nat) (unit : W32) (reading : Nat) (s : State)

theorem trip_eq (h : s.pwr.tripLow = false) : trip out unit reading s = tripped out unit reading s :=
  if_neg (by rw [h]; exact Bool.false_ne_true)

theorem tripped_fields : (tripped out unit reading s).pwr.tripLow = true ∧ (tripped out unit reading s).pwr.shdnHigh = false
    ∧ (tripped out unit reading s).boot.nextCause = 5 ∧ (tripped out unit reading s).boot.ready = false
    ∧ (tripped out unit reading s).mer.fibre = lasersOff := by
  obtain ⟨hshdn, hcause, hready, -⟩ := blackout_fields 5 false (tripBegun out unit reading s)
  simp only [tripped]
  exact ⟨trivial, hshdn, hcause, hready, fibre_blackout 5 false (tripBegun out unit reading s)⟩

theorem tripped_lost : (tripped out unit reading s).hbm = [] ∧ (tripped out unit reading s).cl = [] ∧ (tripped out unit reading s).core = []
    ∧ (tripped out unit reading s).tok = [] := by
  obtain ⟨-, -, -, hcl, hcore, htok⟩ := blackout_fields 5 false (tripBegun out unit reading s)
  simp only [tripped]
  exact ⟨(blackout_kept 5 _).1, hcl, hcore, htok⟩

theorem log_tripBegun : (tripBegun out unit reading s).recs.log = newest 4096 (s.recs.log ++ [mkRec (tripRec out unit reading) s]) := by
  simp only [tripBegun, record_recs, Recs.add]

theorem tripped_kept : (tripped out unit reading s).flash = s.flash ∧ (tripped out unit reading s).aoCount = s.aoCount
    ∧ (tripped out unit reading s).pending = s.pending
    ∧ (tripped out unit reading s).recs.log = newest 4096 (s.recs.log ++ [mkRec (tripRec out unit reading) s]) := by
  obtain ⟨-, hflash, hao, hq, hlog⟩ := blackout_kept 5 (tripBegun out unit reading s)
  simp only [tripped]
  exact ⟨hflash, hao, hq, hlog.trans (log_tripBegun out unit reading s)⟩

end

/-! ### Stages of supply sag (R516 to R520) -/

/-- The 10 us average at a die taken. -/
def sampledDie (mv : List Nat) (d : Nat) (x : Die) : Die := { x with railMv := mv.getD d 0 % 4096 }

/-- The 10 us averages at the four compute dies taken. -/
def diesSampled (mv : List Nat) (s : State) : State := (List.range 4).foldl (fun s d => setDie s d (sampledDie mv d (dieOf s d))) s

/-- They are, and the lowest of them is known. -/
def railsSampled (mv : List Nat) (low : Nat) (s : State) : State :=
  setPwr (diesSampled mv s) { s.pwr with railMv := low, lowestMv := if s.pwr.lowestMv = 0 then low else min s.pwr.lowestMv low }

theorem diesSampled_eq (mv : List Nat) (s : State) : ∃ die, diesSampled mv s = { s with die := die } :=
  ⟨_, foldl_setDie_eq (sampledDie mv) (List.range 4) s⟩

/-- A stage is entered when it is the next one and its entry level is crossed. -/
def sagStep (low : Nat) (s : State) (n : Nat) : State := if s.pwr.sagStage + 1 = n ∧ low < sagEntry n ∧ sagActs s then enterSag n s else s

/-- The lowest of four averages. -/
theorem foldl_min_eq {mv : List Nat} {low : Nat} (hl : mv.length = 4) (hb : ∀ x ∈ mv, x < 4096) (hm : low ∈ mv) (hlow : ∀ x ∈ mv, low ≤ x) :
    (mv.foldl min (mv.getD 0 0)) % 4096 = low := by
  obtain ⟨a, b, c, d, rfl⟩ : ∃ a b c d, mv = [a, b, c, d] := by
    match mv, hl with
    | [a, b, c, d], _ => exact ⟨a, b, c, d, rfl⟩
  simp only [List.mem_cons, List.not_mem_nil, or_false, forall_eq_or_imp, forall_eq] at hb hm hlow
  simp only [List.foldl_cons, List.foldl_nil, List.getD_cons_zero]
  omega

section
variable {s : State} {mv : List Nat} {low : Nat}

theorem railMv_railsSampled (hb : ∀ x ∈ mv, x < 4096) {d : Nat} (hd : d < 4) : (dieOf (railsSampled mv low s) d).railMv = mv.getD d 0 := by
  have hg : mv.getD d 0 < 4096 := by
    rw [List.getD_eq_getElem?_getD]
    cases h : mv[d]? with
    | none => simp
    | some x => exact hb x (List.mem_of_getElem? h)
  have h := dieOf_foldl_setDie (sampledDie mv) (List.nodup_range (n := 4)) s d
  rw [if_pos (List.mem_range.2 hd)] at h
  exact (congrArg Die.railMv h).trans (Nat.mod_eq_of_lt hg)

/-- Only the dies and the power controller have changed. -/
theorem railsSampled_eq (mv : List Nat) (low : Nat) (s : State) : ∃ die, railsSampled mv low s = { s with
    die := die, pwr := { s.pwr with railMv := low, lowestMv := if s.pwr.lowestMv = 0 then low else min s.pwr.lowestMv low } } := by
  obtain ⟨die, h⟩ := diesSampled_eq mv s
  exact ⟨die, by rw [railsSampled, h]; rfl⟩

/-- Whether sag shedding acts depends on the start alone. -/
theorem sagActs_congr {s t : State} (h : t.boot = s.boot) : sagActs t = sagActs s := by
  rw [sagActs, sagActs, h]

theorem sagActs_railsSampled (s : State) : sagActs (railsSampled mv low s) = sagActs s := by
  obtain ⟨die, h⟩ := railsSampled_eq mv low s
  exact sagActs_congr (by rw [h])

theorem effRailSample_eq (hl : mv.length = 4) (hb : ∀ x ∈ mv, x < 4096) (hm : low ∈ mv) (hlow : ∀ x ∈ mv, low ≤ x)
    (hp : s.pwr.aoPwrGd = true) (ha : sagActs s = true) :
    effRailSample mv s = settleProfile ([1, 2, 3, 4, 5, 6].foldl (sagStep low) (railsSampled mv low s)) := by
  have hpwr : (diesSampled mv s).pwr = s.pwr := by
    obtain ⟨die, h⟩ := diesSampled_eq mv s
    rw [h]
  have he : effRailSample mv s = if sagActs (setPwr (diesSampled mv s) { (diesSampled mv s).pwr with
        railMv := (mv.foldl min (mv.getD 0 0)) % 4096
        lowestMv := if (diesSampled mv s).pwr.lowestMv = 0 then (mv.foldl min (mv.getD 0 0)) % 4096
          else min (diesSampled mv s).pwr.lowestMv ((mv.foldl min (mv.getD 0 0)) % 4096) })
      then settleProfile ([1, 2, 3, 4, 5, 6].foldl (sagStep ((mv.foldl min (mv.getD 0 0)) % 4096)) (setPwr (diesSampled mv s)
        { (diesSampled mv s).pwr with
          railMv := (mv.foldl min (mv.getD 0 0)) % 4096
          lowestMv := if (diesSampled mv s).pwr.lowestMv = 0 then (mv.foldl min (mv.getD 0 0)) % 4096
            else min (diesSampled mv s).pwr.lowestMv ((mv.foldl min (mv.getD 0 0)) % 4096) }))
      else _ := if_neg (by simp [hl, hp])
  rw [he, foldl_min_eq hl hb hm hlow, hpwr]
  exact if_pos ((sagActs_railsSampled s).trans ha)

end

/-- Stages whose entry level is not crossed are not entered. -/
theorem foldl_sagStep_above {low : Nat} {l : List Nat} (h : ∀ n ∈ l, sagEntry n ≤ low) (s : State) : l.foldl (sagStep low) s = s := by
  induction l with
  | nil => rfl
  | cons n l ih =>
    have hn := h n (List.mem_cons_self ..)
    rw [List.foldl_cons, sagStep, if_neg (by omega)]
    exact ih fun m hm => h m (List.mem_cons_of_mem _ hm)

/-- Nor are those that are not the next one. -/
theorem foldl_sagStep_other {low : Nat} {s : State} {l : List Nat} (h : ∀ n ∈ l, s.pwr.sagStage + 1 ≠ n) : l.foldl (sagStep low) s = s := by
  induction l with
  | nil => rfl
  | cons n l ih =>
    rw [List.foldl_cons, sagStep, if_neg fun hn => h n (List.mem_cons_self ..) hn.1]
    exact ih fun m hm => h m (List.mem_cons_of_mem _ hm)

theorem sagStep_enters {low : Nat} {s : State} {n : Nat} (hn : s.pwr.sagStage + 1 = n) (hl : low < sagEntry n) (ha : sagActs s = true) :
    sagStep low s n = enterSag n s :=
  if_pos ⟨hn, hl, ha⟩

/-- The stages before and after one of the six. -/
theorem stages_split {n : Nat} (h1 : 1 ≤ n) (h6 : n ≤ 6) :
    ∃ l r, [1, 2, 3, 4, 5, 6] = l ++ n :: r ∧ (∀ m ∈ l, m < n) ∧ ∀ m ∈ r, n < m ∧ m ≤ 6 := by
  obtain rfl | rfl | rfl | rfl | rfl | rfl : n = 1 ∨ n = 2 ∨ n = 3 ∨ n = 4 ∨ n = 5 ∨ n = 6 := by omega
  · exact ⟨[], [2, 3, 4, 5, 6], by decide⟩
  · exact ⟨[1], [3, 4, 5, 6], by decide⟩
  · exact ⟨[1, 2], [4, 5, 6], by decide⟩
  · exact ⟨[1, 2, 3], [5, 6], by decide⟩
  · exact ⟨[1, 2, 3, 4], [6], by decide⟩
  · exact ⟨[1, 2, 3, 4, 5], [], by decide⟩

/-- One entry level crossed and the next one not: one stage is entered. -/
theorem foldl_sagStep_one {low : Nat} {s : State} {n : Nat} (hn : s.pwr.sagStage + 1 = n) (h6 : n ≤ 6) (ha : sagActs s = true)
    (hl : low < sagEntry n) (hnext : n < 6 → 1746 - 36 * n ≤ low) : [1, 2, 3, 4, 5, 6].foldl (sagStep low) s = enterSag n s := by
  obtain ⟨l, r, h, hlt, hgt⟩ := stages_split (by omega) h6
  rw [h, List.foldl_append, foldl_sagStep_other (l := l) fun m hm => by have := hlt m hm; omega, List.foldl_cons,
    sagStep_enters hn hl ha]
  refine foldl_sagStep_above (fun m hm => ?_) _
  obtain ⟨hgt, hle⟩ := hgt m hm
  have := hnext (by omega)
  simp only [sagEntry]
  omega

/-- The state in which a stage is counted as entered. -/
def sagEntered (n : Nat) (s : State) : State := setPwr s { s.pwr with sagStage := n, sagEntries := satInc 0xFFFF s.pwr.sagEntries }

/-- What is recorded of a stage entered or left. -/
def sagRecIn (out mv : Nat) : RecIn :=
  powerRecIn unitPackage 0x0604 out 5 mv 0

theorem enterSag_eq (n : Nat) (s : State) : enterSag n s = sagAction n (record (sagRecIn n s.pwr.railMv) (sagEntered n s)) := rfl

theorem sagEntered_fields (n : Nat) (s : State) :
    (sagEntered n s).pwr = { s.pwr with sagStage := n, sagEntries := satInc 0xFFFF s.pwr.sagEntries }
    ∧ (sagEntered n s).recs = s.recs ∧ (sagEntered n s).hbm = s.hbm ∧ (sagEntered n s).cl = s.cl ∧ (sagEntered n s).boot = s.boot :=
  ⟨rfl, rfl, rfl, rfl, rfl⟩

theorem sagAction_one (s : State) : sagAction 1 s = s := by
  simp only [sagAction, Nat.reduceEqDiff, if_false]

theorem sagAction_five (s : State) : sagAction 5 s = fabEnd (refreshStacks (stopFabric s)) := by
  simp only [sagAction, Nat.reduceEqDiff, if_false, if_true]

/-- The first stage has no action of its own. -/
theorem enterSag_one (s : State) : (enterSag 1 s).pwr.sagStage = 1 ∧ sagActs (enterSag 1 s) = sagActs s := by
  obtain ⟨hpwr, -, -, -, hboot⟩ := sagEntered_fields 1 s
  rw [enterSag_eq, sagAction_one]
  exact ⟨by rw [record_pwr, hpwr], sagActs_congr (by rw [record_boot, hboot])⟩

/-- An evaluation of every clock leaves the start and the stage. -/
theorem evalClocks_frame (s : State) : (evalClocks s).boot = s.boot ∧ (evalClocks s).pwr.sagStage = s.pwr.sagStage := by
  constructor
  · rw [evalClocks]
    exact foldl_keeps (P := fun u => u.boot = s.boot) (fun u cl hb => (clamps_evalClock cl u).boot.trans hb) _ s rfl
  · rw [evalClocks]
    exact foldl_keeps (P := fun u => u.pwr.sagStage = s.pwr.sagStage) (fun u cl hs => (clamps_evalClock cl u).sagStage.trans hs) _ s rfl

theorem enterSag_two (s : State) : (enterSag 2 s).pwr.sagStage = 2 ∧ sagActs (enterSag 2 s) = sagActs s := by
  obtain ⟨hb, hs⟩ := evalClocks_frame (record (sagRecIn 2 s.pwr.railMv) (sagEntered 2 s))
  have he : enterSag 2 s = evalClocks (record (sagRecIn 2 s.pwr.railMv) (sagEntered 2 s)) := rfl
  rw [he]
  exact ⟨hs, sagActs_congr hb⟩

/-- Three entry levels crossed at once: three stages in ascending order. -/
theorem foldl_sagStep_three {low : Nat} {s : State} (h0 : s.pwr.sagStage = 0) (ha : sagActs s = true) (h1 : low < 1674) (h2 : 1638 ≤ low) :
    [1, 2, 3, 4, 5, 6].foldl (sagStep low) s = enterSag 3 (enterSag 2 (enterSag 1 s)) := by
  obtain ⟨hs1, ha1⟩ := enterSag_one s
  obtain ⟨hs2, ha2⟩ := enterSag_two (enterSag 1 s)
  have hr : ([4, 5, 6] : List Nat).foldl (sagStep low) (enterSag 3 (enterSag 2 (enterSag 1 s))) = enterSag 3 (enterSag 2 (enterSag 1 s)) := by
    refine foldl_sagStep_above (fun m hm => ?_) _
    simp only [List.mem_cons, List.not_mem_nil, or_false] at hm
    simp only [sagEntry]
    omega
  rw [show ([1, 2, 3, 4, 5, 6] : List Nat) = 1 :: 2 :: 3 :: [4, 5, 6] from rfl, List.foldl_cons, List.foldl_cons, List.foldl_cons,
    sagStep_enters (by rw [h0]) (by simp only [sagEntry]; omega) ha,
    sagStep_enters (by rw [hs1]) (by simp only [sagEntry]; omega) (ha1.trans ha),
    sagStep_enters (by rw [hs2]) (by simp only [sagEntry]; omega) (ha2.trans (ha1.trans ha)), hr]

/-! ### The actions of the stages (Table 14.4) -/

/-- With array B off no instruction is queued for it. -/
theorem not_mem_portsOf_bOff (w : W128) {k : Core} (h : k.bOff = true) : (portsOf w k).contains 1 = false := by
  unfold portsOf
  split
  · rfl
  · rfl
  · simp only [h, if_true, Bool.not_true, Bool.and_false, Bool.false_eq_true, if_false]
    split <;> rfl

theorem respread_off {k : Core} (h : k.bOff = true) : (respread k).bOff = true ∧ (respread k).qB = [] ∧ (respread k).mem = k.mem := by
  refine ⟨h, ?_, rfl⟩
  exact List.filter_eq_nil_iff.2 fun q _ => by rw [not_mem_portsOf_bOff q.word h]; exact Bool.false_ne_true

theorem coreOf_switchB (off : Bool) (s : State) {k : Nat} (hk : k < 288) :
    coreOf (switchB off s) k = respread { coreOf s k with bOff := off } :=
  (coreOf_foldl_setCore (fun _ x => respread { x with bOff := off }) List.nodup_range s k).trans (if_pos (List.mem_range.2 hk))

/-- In self-refresh no stack is ready. -/
theorem state_refreshStacks (s : State) (k : Nat) : (stackOf (refreshStacks s) k).state ≠ 2 := by
  simp only [stackOf, refreshStacks]
  rcases Tab.get_mapV Stack.reset (fun x => if x.state = 2 then { x with state := 3 } else x) s.stack k with h | h
  · rw [h]
    split
    · exact (by decide : (3 : Nat) ≠ 2)
    · assumption
  · rw [h]
    decide

/-- A stack in self-refresh, of a die that is not in reset, is woken. -/
theorem state_wakeStacks {s : State} {k : Nat} (h3 : (stackOf s k).state = 3) (hr : (dieOf s (k / 3)).inReset = false) :
    (stackOf (wakeStacks s) k).state = 2 := by
  have h := Tab.get_mapKey Stack.reset
    (fun n x => if x.state = 3 ∧ !(dieOf s (n / 3)).inReset then { x with state := 2 } else x) s.stack (j := k) (if_neg fun h => absurd h.1 (by decide))
  have h' : stackOf (wakeStacks s) k = { stackOf s k with state := 2 } := h.trans (if_pos ⟨h3, by simp [hr]⟩)
  rw [h']

/-! ### A stage left (R517, R518) -/

section
variable {s : State} {n : Nat}

theorem effSagStageExit_stays (h : s.pwr.railMv ≤ 1800 - 36 * s.pwr.sagStage) : effSagStageExit s = s :=
  if_pos (.inr (.inr h))

/-- The state in which a stage has been left, with its record. -/
def sagLeft (n : Nat) (s : State) : State := record (sagRecIn (0x10 + n) s.pwr.railMv) (setPwr s { s.pwr with sagStage := n - 1 })

theorem effSagStageExit_leaves (hs : s.pwr.sagStage = n) (h1 : 1 ≤ n) (h5 : n ≤ 5) (h : 1800 - 36 * n < s.pwr.railMv) :
    effSagStageExit s =
      if n = 5 then goOnAll (grantHeld (wakeStacks (sagLeft n s)))
      else if n = 4 then settleLinks (fabEnd (leaseGo (settlePlan (unparkPorts (sagLeft n s)))))
      else if n = 3 then switchB false (sagLeft n s)
      else if n = 2 then settleProfile (evalClocks (sagLeft n s))
      else sagLeft n s := by
  subst hs
  exact if_neg (by simp only [sagLeave]; omega)

end

/-! ### Rails and clocks that fail (R494 to R496, R521) -/

section
variable {s : State} {r mv : Nat}

/-- The voltage from which the limit of a rail is counted. -/
def railSet (s : State) (r : Nat) : Nat := if r < 32 then (clOf s r).voltMv else 750

/-- A rail off for good, with its record. -/
def railLost (r mv : Nat) (s : State) : State :=
  let u := powerRec (unitRail r) 0x0605 (if r < 32 then 1 else 2) 2 mv 0 s
  { u with flash := { u.flash with rails := u.flash.rails ++ [r] }, pwr := { u.pwr with deadRails := u.pwr.deadRails ++ [r] } }

theorem recs_railLost_cluster (hr : r < 32) : (railLost r mv s).recs = (record (powerRecIn (unitRail r) 0x0605 1 2 mv 0) s).recs := by
  rw [railLost, if_pos hr]
  rfl

theorem recs_railLost_die (hr : 32 ≤ r) : (railLost r mv s).recs = (record (powerRecIn (unitRail r) 0x0605 2 2 mv 0) s).recs := by
  rw [railLost, if_neg (by omega)]
  rfl

theorem effRegulatorOvervoltage_within (h1 : mv ≤ railSet s r + 50) (h2 : mv ≤ 900) : effRegulatorOvervoltage r mv s = s :=
  if_pos (.inr (.inr (.inr ⟨h1, h2⟩)))

theorem effRegulatorOvervoltage_over (hd : r ∉ s.pwr.deadRails) (hf : r ∉ s.flash.rails) (hr : r < 36) (h : railSet s r + 50 < mv ∨ 900 < mv) :
    effRegulatorOvervoltage r mv s =
      if r < 32 then railOffline r (railLost r mv s)
      else checkRoutes (settleAlts ((allPorts.filter (fun k => decide (k.1 = r - 32))).foldl
        (fun s k => setEnds k.1 k.2 (fun x => { x with state := 0, width := [] }) s)
        (quitDie (r - 32) (setDie (railLost r mv s) (r - 32) { dieOf (railLost r mv s) (r - 32) with railOff := true, dieRailMv := 0 })))) := by
  refine if_neg ?_
  simp only [List.contains_iff_mem, hd, hf, false_or]
  simp only [railSet] at h
  omega

theorem effRegulatorFault_eq {set reading : Nat} (hr : r < 36) (h : reading + 50 < set) : effRegulatorFault r set reading s =
    if r < 32 then railOffline r (powerRec (unitRail r) 0x0606 1 0 set reading s) else powerRec (unitRail r) 0x0606 1 0 set reading s :=
  if_neg (by omega)

theorem effVinOvervoltage_eq (h : 1980 < mv) (hs : s.pwr.shdnHigh = true) :
    effVinOvervoltage mv s = shutdown (powerRec (unitDie 4 15 8) 0x0605 3 2 mv 0 s) :=
  if_pos ⟨h, hs⟩

/-- The state with a clock's loss of lock recorded. -/
def lockLost (row d : Nat) (s : State) : State := record (powerRecIn (unitDie d 15 0) 0x0609 1 0 row 0) s

theorem effClockLockLoss_eq {row d : Nat} (h1 : 1 ≤ row) (h7 : row ≤ 7) (hd : d < 7) (hr : s.boot.ready = true) :
    effClockLockLoss row d s =
      if resettable d then requestDie d (lockLost row d s)
      else if row = 3 then requestWarm 8 (lockLost row d s)
      else if row = 5 then flrLike (setPci (lockLost row d s) { (lockLost row d s).pci with linkUp := false })
      else { lockLost row d s with stp := { (lockLost row d s).stp with linkUp := false } } := by
  refine if_neg ?_
  simp only [hr, Bool.not_true, Bool.false_eq_true, or_false]
  omega

theorem resettable_of_ne {d : Nat} (hd : d < 7) (h : d ≠ 4) : resettable d = true := decide_eq_true (by omega)

end

/-- Settles O55: each clause is the lemma about its command or stage, in the order of the statement. -/
theorem tripsSagsAndRailFaultsShedLoad : Obligations.TripsSagsAndRailFaultsShedLoad := by
  refine ⟨fun s d reading hd hp ht => ?_, fun s mv low hl hb hp ha hm hlow => ?_, fun s n h1 h6 => ?_,
    fun s => ⟨sagAction_one s, rfl, fun k hk => ?_, rfl, ?_, rfl⟩, fun s => ?_, fun s n hs h1 h5 => ⟨fun h => ?_, fun h => ?_⟩,
    fun s r mv hd hf => ⟨fun hr h => ?_, fun h32 h36 h => ?_, fun hr h1 h2 => ?_⟩, fun s mv h hs => ?_,
    fun s r set reading hr h => ?_, fun s row d h1 h7 hd hr => ?_⟩
  -- a trip (R513)
  · obtain ⟨hlow, hshdn, hcause, hready, hfibre⟩ := tripped_fields 1 (unitDie d 15 0) reading.toNat s
    obtain ⟨hhbm, hcl, hcore, htok⟩ := tripped_lost 1 (unitDie d 15 0) reading.toNat s
    obtain ⟨hflash, hao, hq, hlog⟩ := tripped_kept 1 (unitDie d 15 0) reading.toNat s
    exact ⟨tripped 1 (unitDie d 15 0) reading.toNat s, mkRec (tripRec 1 (unitDie d 15 0) reading.toNat) s,
      answers_of_eq ((effThermalTrip_trips reading hd hp).trans (trip_eq 1 _ _ s ht)), hlow, hshdn, hcause, hready,
      fun i hi => enHigh_lasersOff hfibre hi, hhbm, hcl, hcore, htok, hflash, hao, hq, hlog, rfl, rfl, rfl, rfl⟩
  -- the stages that a sample enters (R516, R517)
  · obtain ⟨die, h⟩ := railsSampled_eq mv low s
    have hst : (railsSampled mv low s).pwr.sagStage = s.pwr.sagStage := by rw [h]
    have hact := (sagActs_railsSampled (mv := mv) (low := low) s).trans ha
    have he := effRailSample_eq hl hb hm hlow hp ha
    refine ⟨railsSampled mv low s, by rw [h], hst, by rw [h], by rw [h], fun d hd => railMv_railsSampled hb hd, fun h6 hle => ?_,
      fun n hn h6 hlt hnext => ?_, fun h0 h1 h2 => ?_⟩
    · refine answers_of_eq (he.trans (congrArg settleProfile ?_))
      obtain ⟨l, r, hsp, hlt, hgt⟩ := stages_split (n := s.pwr.sagStage + 1) (by omega) (by omega)
      rw [hsp, List.foldl_append, foldl_sagStep_other (l := l) fun m hm => by have := hlt m hm; omega]
      refine foldl_sagStep_above (fun m hm => ?_) _
      have hge : s.pwr.sagStage + 1 ≤ m := (List.mem_cons.1 hm).elim (fun h => Nat.le_of_eq h.symm) (fun h => Nat.le_of_lt (hgt m h).1)
      simp only [sagEntry]
      omega
    · exact answers_of_eq (he.trans (congrArg settleProfile (foldl_sagStep_one (hst ▸ hn) h6 hact hlt hnext)))
    · exact answers_of_eq (he.trans (congrArg settleProfile (foldl_sagStep_three (hst.trans h0) hact h1 h2)))
  · obtain ⟨hpwr, hrecs, hhbm, hcl, -⟩ := sagEntered_fields n s
    exact ⟨sagEntered n s, sagRecIn n s.pwr.railMv, enterSag_eq n s, rfl, rfl, rfl, rfl, hpwr, hrecs, hhbm, hcl⟩
  -- their actions (Table 14.4)
  · rw [show sagAction 3 s = switchB true s from rfl, coreOf_switchB true s hk]
    exact respread_off rfl
  · exact ⟨_, sagAction_five s, fun k _ => state_refreshStacks _ k⟩
  · obtain ⟨hshdn, hcause, hready, hcl, hcore, htok⟩ := blackout_fields 6 true (refreshStacks (stopFabric s))
    exact ⟨hshdn, hcause, hcl, hcore, htok, fun i hi => enHigh_lasersOff (fibre_blackout 6 true _) hi, hready⟩
  -- a stage left (R517, R518)
  · subst hs
    exact answers_of_eq (effSagStageExit_stays h)
  · have he := effSagStageExit_leaves hs h1 h5 h
    refine ⟨sagLeft n s, _, rfl, rfl, rfl, fun hn => ?_, fun hn => ?_, fun hn => ?_, fun hn => ?_, fun hn => ?_⟩
    · subst hn
      simp only [Nat.reduceEqDiff, if_false] at he
      exact answers_of_eq he
    · subst hn
      simp only [Nat.reduceEqDiff, if_false, if_true] at he
      exact answers_of_eq he
    · subst hn
      simp only [Nat.reduceEqDiff, if_false, if_true] at he
      exact ⟨answers_of_eq he, fun k hk => by rw [coreOf_switchB false _ hk]; rfl⟩
    · subst hn
      simp only [Nat.reduceEqDiff, if_false, if_true] at he
      exact answers_of_eq he
    · subst hn
      simp only [Nat.reduceEqDiff, if_false, if_true] at he
      exact ⟨answers_of_eq he, fun k _ h3 hr => state_wakeStacks h3 hr⟩
  -- a rail above its limit (R494)
  · have he := effRegulatorOvervoltage_over (mv := mv) hd hf (by omega) (by rwa [railSet, if_pos hr])
    refine ⟨setCl (railLost r mv s) r { clOf (railLost r mv s) r with railOff := true, clockMhz := 0, voltMv := 0 },
      powerRecIn (unitRail r) 0x0605 1 2 mv 0, answers_of_eq (he.trans (if_pos hr)), ?_⟩
    rw [clOf_setCl_same]
    exact ⟨rfl, rfl, rfl, rfl, rfl, recs_railLost_cluster hr, rfl, rfl, rfl, rfl⟩
  · have he := effRegulatorOvervoltage_over (mv := mv) hd hf h36 (by rw [railSet, if_neg (by omega)]; omega)
    refine ⟨_, powerRecIn (unitRail r) 0x0605 2 2 mv 0, answers_of_eq (he.trans (if_neg (by omega))), ?_⟩
    rw [dieOf_setDie_same]
    exact ⟨rfl, rfl, rfl, recs_railLost_die h32, rfl, rfl, rfl⟩
  · exact answers_of_eq (effRegulatorOvervoltage_within (by rwa [railSet, if_pos hr]) h2)
  -- the input above its limit, and a rail below its setting (R495, R496)
  · exact ⟨powerRecIn (unitDie 4 15 8) 0x0605 3 2 mv 0, answers_of_eq (effVinOvervoltage_eq h hs), rfl, rfl, rfl⟩
  · have he := effRegulatorFault_eq (s := s) hr h
    refine ⟨powerRecIn (unitRail r) 0x0606 1 0 set reading, rfl, rfl, rfl, rfl, rfl, fun h32 => answers_of_eq (he.trans (if_neg (by omega))),
      fun h32 => ⟨_, answers_of_eq (he.trans (if_pos h32)), ?_, rfl, rfl⟩⟩
    rw [clOf_setCl_same]
  -- a clock that loses its lock (R521)
  · have he := effClockLockLoss_eq h1 h7 hd hr
    refine ⟨lockLost row d s, powerRecIn (unitDie d 15 0) 0x0609 1 0 row 0, rfl, rfl, rfl, rfl, fun h4 => ?_, fun h4 h3 => ?_, fun h4 h5 => ?_,
      fun h4 h6 => ?_⟩
    · exact answers_of_eq (he.trans (if_pos (resettable_of_ne hd h4)))
    all_goals rw [if_neg (by rw [h4]; decide)] at he
    · exact answers_of_eq (he.trans (if_pos h3))
    · exact answers_of_eq (he.trans ((if_neg (by omega)).trans (if_pos h5)))
    · exact answers_of_eq (he.trans ((if_neg (by omega)).trans (if_neg (by omega))))

end Sys2Proof.Machine
end

section
/-! PROOF. Family 12 to 16: the first stages of a start, AO_CLOCKS to DISCOVERY (R522 to R524, R538, R540). -/

namespace Sys2Proof.Machine

section
variable {s : State}

theorem not_not_inStage {n : Nat} (h : inStage s n = true) : ¬ (!inStage s n) = true := by
  simp [h]

/-! ### AO_CLOCKS, ENCLAVE_ROM, KAT -/

theorem effAoClocks_up (h : inStage s 0 = true) : effAoClocks true s = setStage 2 { s with pwr := { s.pwr with shdnHigh := true } } :=
  (if_neg (not_not_inStage h)).trans (if_neg (by decide))

theorem effAoClocks_down (h : inStage s 0 = true) : effAoClocks false s = startFails 0x4FFF0000#32 s :=
  (if_neg (not_not_inStage h)).trans (if_pos rfl)

theorem effEnclaveRom_good (h : inStage s 2 = true) (he : s.encl.state ≠ 3) : effEnclaveRom true s = setStage 3 (newChallenge s) :=
  (if_neg (not_not_inStage h)).trans ((if_neg he).trans (if_neg (by decide)))

theorem effEnclaveRom_bad (h : inStage s 2 = true) (he : s.encl.state ≠ 3) : effEnclaveRom false s = startFails unitEncl (enclaveError 1 s) :=
  (if_neg (not_not_inStage h)).trans ((if_neg he).trans (if_pos rfl))

theorem length_newChallenge (s : State) : (newChallenge s).encl.challenge.length = 32 := by
  simp [newChallenge, drawBytes]

theorem effKat_good (h : inStage s 5 = true) : effKat true s = setStage 6 (setEncl s { s.encl with state := if s.encl.udsBlown then 4 else 2 }) :=
  (if_neg (not_not_inStage h)).trans (if_neg (by decide))

theorem effKat_bad (h : inStage s 5 = true) : effKat false s = startFails unitEncl (enclaveError 1 s) :=
  (if_neg (not_not_inStage h)).trans (if_pos rfl)

/-! ### The boot record and FETCH (R538) -/

theorem effFetch_named {r : Nat} (h : inStage s 3 = true) (hr : bootRegion s = some r) :
    effFetch true s = setStage 4 (setEncl s { s.encl with region := r }) := by
  rw [effFetch, if_neg (not_not_inStage h), hr]
  rfl

theorem effFetch_none (h : inStage s 3 = true) (hr : bootRegion s = none) (b : Bool) : effFetch b s = startFails unitYuton s := by
  rw [effFetch, if_neg (not_not_inStage h), hr]

theorem effFetch_unreadable (h : inStage s 3 = true) : effFetch false s = startFails unitYuton s := by
  rw [effFetch, if_neg (not_not_inStage h)]
  cases bootRegion s <;> rfl

/-- The copy in use is valid, and no valid copy has a larger SEQ. -/
theorem bootUsed_spec {i : Nat} (h : bootUsed s = some i) : i < 2 ∧ bootValid (bootCopy s i) = true
    ∧ (bootValid (bootCopy s (1 - i)) = true → bootSeq (bootCopy s (1 - i)) ≤ bootSeq (bootCopy s i)) := by
  simp only [bootUsed, Bool.and_eq_true, Bool.or_eq_true, Bool.not_eq_true', decide_eq_true_eq] at h
  split at h
  next h0 =>
    obtain ⟨hv, hle⟩ := h0
    cases h
    refine ⟨by decide, hv, fun h1 => hle.elim (fun hn => ?_) id⟩
    rw [h1] at hn
    exact absurd hn (by decide)
  next h0 =>
    split at h
    next h1 =>
      cases h
      refine ⟨by decide, h1, fun hv => ?_⟩
      exact Decidable.byContradiction fun hlt => h0 ⟨hv, .inr (Nat.le_of_lt (Nat.lt_of_not_le hlt))⟩
    next => cases h

/-! ### VERIFY (R540) -/

/-- What VERIFY records. -/
def verifyRec (s : State) (g : Nat) : RecIn :=
  { unit := unitEncl, cls := 0x0802, outcome := verifyImage s g
    d1 := BitVec.ofNat 32 (hVersion (imageBytes s g 0 512)), d2 := BitVec.ofNat 32 (hSvn (imageBytes s g 0 512))
    d3 := BitVec.ofNat 32 (hSigner (imageBytes s g 0 512)) }

theorem verifyRec_fields (s : State) (g : Nat) : (verifyRec s g).cls = 0x0802 ∧ (verifyRec s g).outcome = verifyImage s g
    ∧ (verifyRec s g).d1 = BitVec.ofNat 32 (hVersion (imageBytes s g 0 512)) := by
  simp only [verifyRec, and_self]

/-- The state in which an image that has passed is the running one. -/
def verified (s : State) : State :=
  let u := record (verifyRec s s.encl.region) s
  let h := imageBytes s s.encl.region 0 512
  let v := setEncl u { u.encl with
    header := h, signerPk := imageBytes s s.encl.region 0x200 64, bodyDigest := hDigest h
    committed := u.encl.committed && decide (u.encl.header = h)
    state := if decide (s.boot.kind = 1) = true ∧ u.encl.state = 0 then 1 else u.encl.state }
  setStage (if decide (s.boot.kind = 1) then 5 else 6)
    { v with pci := { v.pci with conf := { v.pci.conf with subVendor := hField h 82 2, subId := hField h 84 2 } } }

theorem effVerify_fails (h : inStage s 4 = true) (hv : verifyImage s s.encl.region ≠ 1) :
    effVerify s = startFails unitEncl (record (verifyRec s s.encl.region) s) := by
  rw [effVerify, if_neg (not_not_inStage h)]
  simp only [fwVerify, verifyRec, hv, ne_eq, not_false_eq_true, if_true]

theorem effVerify_passes (h : inStage s 4 = true) (hv : verifyImage s s.encl.region = 1) : effVerify s = verified s := by
  rw [effVerify, if_neg (not_not_inStage h)]
  simp only [fwVerify, verified, verifyRec, hv, ne_eq, not_true_eq_false, if_false]
  congr 1

theorem verified_fields (s : State) : (verified s).recs = (record (verifyRec s s.encl.region) s).recs
    ∧ (verified s).encl.header = imageBytes s s.encl.region 0 512 ∧ (verified s).encl.signerPk = imageBytes s s.encl.region 0x200 64
    ∧ (verified s).boot.stage = (if s.boot.kind = 1 then 5 else 6) ∧ (verified s).encl.fusedSvn = s.encl.fusedSvn := by
  simp only [verified, setStage, setBoot, setEncl, record_encl, record_recs, decide_eq_true_eq, and_self]

/-- A signer that passes has not been revoked, and both signatures verify. -/
theorem signerChecks_eq_one {revoked : W16} {id : Nat} {pk sig1 msg sig2 : List Byte} (h : signerChecks revoked id pk sig1 msg sig2 = 1) :
    revoked.getLsbD id = false ∧ Config.slhVerify Config.rootPk (leBytes 2 id ++ pk) sig1 = true ∧ Config.slhVerify pk msg sig2 = true := by
  simp only [signerChecks, bit, Bool.not_eq_true'] at h
  split at h
  · exact absurd h (by decide)
  next hr =>
    split at h
    · exact absurd h (by decide)
    next h1 =>
      split at h
      · exact absurd h (by decide)
      next h2 => exact ⟨Bool.eq_false_iff.2 hr, eq_true_of_ne_false h1, eq_true_of_ne_false h2⟩

theorem magic_of_wellFormed {h : List Byte} (hm : hMalformed h = false) : h.take 4 = [0x4B, 0x34, 0x46, 0x57] := by
  simp only [hMalformed, Bool.or_eq_false_iff, decide_eq_false_iff_not, Decidable.not_not] at hm
  obtain ⟨⟨⟨⟨⟨⟨⟨⟨hmagic, -⟩, -⟩, -⟩, -⟩, -⟩, -⟩, -⟩, -⟩ := hm
  exact hmagic

/-- An image that passes has passed every check. -/
theorem verifyImage_eq_one {g : Nat} {h pk : List Byte} (hh : h = imageBytes s g 0 512) (hpk : pk = imageBytes s g 0x200 64)
    (hv : verifyImage s g = 1) : hMalformed h = false ∧ hRevoke h / 2 ^ hSigner h % 2 ≠ 1
    ∧ signerChecks s.encl.revoked (hSigner h) pk (imageBytes s g 0x240 29792) h (imageBytes s g 0x76A0 29792) = 1
    ∧ s.encl.fusedSvn ≤ hSvn h ∧ Config.shake256 (imageBytes s g 0x10000 (hBody h)) 64 = hDigest h := by
  simp only [verifyImage, ← hh, ← hpk] at hv
  split at hv
  · exact absurd hv (by decide)
  next h1 =>
    split at hv
    · exact absurd hv (by decide)
    next h2 =>
      split at hv
      next h3 => exact absurd hv h3
      next h3 =>
        split at hv
        · exact absurd hv (by decide)
        next h4 =>
          split at hv
          · exact absurd hv (by decide)
          next h5 => exact ⟨Bool.eq_false_iff.2 h1, h2, Decidable.not_not.1 h3, Nat.le_of_not_lt h4, Decidable.not_not.1 h5⟩

/-! ### DISCOVERY (R450, R523, R524) -/

theorem railsGood_iff : railsGood s = true ↔ s.pwr.hbmPg = true ∧ ∀ d, d < 4 → 1764 < (dieOf s d).railMv := by
  simp only [railsGood, Bool.and_eq_true, List.all_eq_true, decide_eq_true_eq]
  refine and_congr_right fun _ => ⟨fun h d hd => h d ?_, fun h d hd => h d ?_⟩
  · exact (List.mem_range (m := d) (n := 4)).2 hd
  · exact (List.mem_range (m := d) (n := 4)).1 hd

section
variable {ids : List W128} {dev dom limit : Nat} {pg certOk : Bool}

/-- The state with the level of HBM_PG read. -/
def pgRead (pg : Bool) (s : State) : State := { s with pwr := { s.pwr with hbmPg := pg } }

/-- The state with the identities of the dies read. -/
def idsRead (ids : List W128) (s : State) : State :=
  { s with
    d2d := { s.d2d with ids := (List.range 7).map (fun d => (d, ids.getD d 0)) }
    pci := { s.pci with conf := { s.pci.conf with revision := fld (ids.getD 4 0) 4 4, serial := BitVec.ofNat 64 (fld (ids.getD 4 0) 0 64) } } }

/-- The state with the straps sampled and the listed units out of use. -/
def listsApplied (dev dom limit : Nat) (s : State) : State :=
  let s := if s.boot.kind = 1 then sampleStraps dev dom limit s else s
  let s := [0, 1, 2, 3].foldl (fun s d => applyLists d s) s
  { s with pwr := { s.pwr with deadRails := s.flash.rails } }

/-- What follows when the identities have been read. -/
def discoverDies (ids : List W128) (dev dom limit : Nat) (certOk : Bool) (s : State) : State :=
  match (List.range 7).find? (fun d => !(idGood d (ids.getD d 0))) with
  | some d => startFails (unitDie d 15 0) s
  | none => nextClass (trainClass 0 (setStage 7 (discoverEncl certOk (listsApplied dev dom limit s))))

theorem effDiscovery_eq (h : inStage s 6 = true) (hi : ids.all steppingOk = true) :
    effDiscovery ids dev dom limit pg certOk s =
      if !(railsGood (pgRead pg s)) then pgRead pg s else discoverDies ids dev dom limit certOk (idsRead ids (pgRead pg s)) := by
  rw [effDiscovery, if_neg (by simp only [h, hi]; decide)]
  extract_lets _ a _ _ _ b v w _ u
  have hu : u = { w with pwr := { w.pwr with deadRails := w.flash.rails } } := rfl
  clear_value u
  have hw : w = [0, 1, 2, 3].foldl (fun s d => applyLists d s) v := rfl
  clear_value w
  have hv : v = if b.boot.kind = 1 then sampleStraps dev dom limit b else b := rfl
  clear_value v
  have hb : b = idsRead ids a := rfl
  clear_value b
  have ha : a = pgRead pg s := rfl
  clear_value a
  subst ha hb
  have hl : u = listsApplied dev dom limit (idsRead ids (pgRead pg s)) := by
    rw [hu, hw, hv, listsApplied]
  rw [hl]
  rfl

theorem effDiscovery_waits (h : inStage s 6 = true) (hi : ids.all steppingOk = true)
    (hr : pg = false ∨ ∃ d, d < 4 ∧ (dieOf s d).railMv ≤ 1764) :
    effDiscovery ids dev dom limit pg certOk s = pgRead pg s := by
  have hg : railsGood (pgRead pg s) = false := by
    rw [Bool.eq_false_iff, ne_eq, railsGood_iff]
    rintro ⟨hp, hall⟩
    rcases hr with hr | ⟨d, hd, hle⟩
    · exact Bool.false_ne_true (hr.symm.trans hp)
    · exact Nat.lt_irrefl _ (Nat.lt_of_lt_of_le (hall d hd) hle)
  rw [effDiscovery_eq h hi, hg]
  rfl

theorem effDiscovery_reads (h : inStage s 6 = true) (hi : ids.all steppingOk = true) (hp : pg = true)
    (hr : ∀ d, d < 4 → 1764 < (dieOf s d).railMv) :
    effDiscovery ids dev dom limit pg certOk s = discoverDies ids dev dom limit certOk (idsRead ids (pgRead pg s)) := by
  have hg : railsGood (pgRead pg s) = true := railsGood_iff.2 ⟨hp, hr⟩
  rw [effDiscovery_eq h hi, hg]
  rfl

theorem discoverDies_bad {d : Nat} (hd : (List.range 7).find? (fun d => !(idGood d (ids.getD d 0))) = some d) :
    discoverDies ids dev dom limit certOk s = startFails (unitDie d 15 0) s := by
  rw [discoverDies, hd]

theorem discoverDies_good (hd : (List.range 7).find? (fun d => !(idGood d (ids.getD d 0))) = none) :
    discoverDies ids dev dom limit certOk s
      = nextClass (trainClass 0 (setStage 7 (discoverEncl certOk (listsApplied dev dom limit s)))) := by
  rw [discoverDies, hd]

end

end

end Sys2Proof.Machine
end

section
/-! PROOF. Family 12 to 16: what DISCOVERY keeps, and the stages DIE_LINKS, HBM and SRAM (R298, R465, R523 to R525). -/

namespace Sys2Proof.Machine

/-! ### What DISCOVERY keeps and sets -/

/-- Units of the lists change clusters, cores and dies alone. -/
def ListsUnits (s t : State) : Prop := ∃ cl core die, t = { s with cl := cl, core := core, die := die }

theorem ListsUnits.trans {a b c : State} (h : ListsUnits a b) (g : ListsUnits b c) : ListsUnits a c := by
  obtain ⟨_, _, _, rfl⟩ := h
  obtain ⟨_, _, _, rfl⟩ := g
  exact ⟨_, _, _, rfl⟩

theorem listsUnits_refl (s : State) : ListsUnits s s := ⟨s.cl, s.core, s.die, rfl⟩

theorem listsUnits_foldl {α : Type} {f : State → α → State} (h : ∀ s x, ListsUnits s (f s x)) (l : List α) (s : State) :
    ListsUnits s (l.foldl f s) :=
  foldl_keeps (P := ListsUnits s) (fun u x hu => hu.trans (h u x)) l s (listsUnits_refl s)

theorem listsUnits_applyLists (d : Nat) (s : State) : ListsUnits s (applyLists d s) := by
  refine ListsUnits.trans (listsUnits_foldl (fun u i => ?_) _ s) ⟨_, _, _, rfl⟩
  exact ListsUnits.trans ⟨_, _, _, rfl⟩ (listsUnits_foldl (fun v k => ⟨_, _, _, rfl⟩) _ _)

section
variable {s : State} {dev dom limit : Nat}

/-- The straps and the lists: what is sampled, and what is kept. -/
theorem listsApplied_fields : (listsApplied dev dom limit s).d2d.ids = s.d2d.ids ∧ (listsApplied dev dom limit s).pci = s.pci
    ∧ (listsApplied dev dom limit s).flash = s.flash ∧ (listsApplied dev dom limit s).encl = s.encl
    ∧ (listsApplied dev dom limit s).pwr.deadRails = s.flash.rails
    ∧ (listsApplied dev dom limit s).boot = if s.boot.kind = 1 then { s.boot with device := dev % 64, domain := dom % 16 } else s.boot := by
  obtain ⟨cl, core, die, h⟩ := listsUnits_foldl (fun u d => listsUnits_applyLists d u) [0, 1, 2, 3]
    (if s.boot.kind = 1 then sampleStraps dev dom limit s else s)
  simp only [listsApplied, h]
  by_cases hk : s.boot.kind = 1
  · simp only [if_pos hk]
    exact ⟨rfl, rfl, rfl, rfl, rfl, rfl⟩
  · simp only [if_neg hk]
    exact ⟨trivial, trivial, trivial, trivial, trivial, trivial⟩

theorem findAlias_fields (s : State) : (findAlias s).d2d = s.d2d ∧ (findAlias s).pci = s.pci ∧ (findAlias s).flash = s.flash
    ∧ (findAlias s).pwr = s.pwr ∧ (findAlias s).boot = s.boot := by
  obtain ⟨_, _, _, hf⟩ := enclaveWorks_findAlias s
  rw [hf]
  exact ⟨rfl, rfl, rfl, rfl, rfl⟩

/-- What the enclave does in DISCOVERY. -/
theorem discoverEncl_fields (certOk : Bool) : (discoverEncl certOk s).d2d = s.d2d
    ∧ (discoverEncl certOk s).pci = { s.pci with ideRequired := decide (hPolicy s.encl.header % 2 = 1) }
    ∧ (discoverEncl certOk s).flash = s.flash ∧ (discoverEncl certOk s).pwr = s.pwr ∧ (discoverEncl certOk s).boot = s.boot := by
  rw [discoverEncl]
  exact findAlias_fields _

end

/-- A good identity of die 4 is of its stepping as shipped. -/
theorem revision_of_good {ids : List W128} (hi : ids.all steppingOk = true) (hg : idGood 4 (ids.getD 4 0) = true) :
    fld (ids.getD 4 0) 4 4 = 1 := by
  simp only [idGood, decide_eq_true_eq] at hg
  obtain ⟨hck, hkind⟩ := hg
  by_cases hl : 4 < ids.length
  · have hs := List.all_eq_true.1 hi (ids.getD 4 0) (by
      rw [List.getD_eq_getElem?_getD, List.getElem?_eq_getElem hl]
      exact List.getElem_mem hl)
    simp only [steppingOk, decide_eq_true_eq] at hs
    exact hs.resolve_right (not_not_intro hck)
  · rw [List.getD_eq_getElem?_getD, List.getElem?_eq_none (Nat.le_of_not_lt hl)] at hkind
    exact absurd hkind (by decide)

section
variable {s : State}

theorem not_railsGood {d : Nat} (hd : d < 4) (h : (dieOf s d).railMv ≤ 1764) : railsGood s = false := by
  rw [Bool.eq_false_iff, ne_eq, railsGood_iff]
  exact fun hg => Nat.lt_irrefl _ (Nat.lt_of_lt_of_le (hg.2 d hd) h)

/-- The first die whose rail is low. -/
theorem effRailWaitTimeout_low (h : inStage s 6 = true) (hl : ∃ d, d < 4 ∧ (dieOf s d).railMv ≤ 1764) :
    ∃ d, d < 4 ∧ (dieOf s d).railMv ≤ 1764 ∧ (∀ j, j < d → 1764 < (dieOf s j).railMv)
      ∧ effRailWaitTimeout s = startFails (unitDie d 15 0) s := by
  obtain ⟨e, he, hle⟩ := hl
  cases hf : (List.range 4).find? (fun d => decide ((dieOf s d).railMv ≤ 1764)) with
  | none => exact absurd hle (by simpa using List.find?_eq_none.1 hf e (List.mem_range.2 he))
  | some d =>
    obtain ⟨hd, hm, hlt⟩ := List.find?_range_eq_some.1 hf
    refine ⟨d, List.mem_range.1 hm, of_decide_eq_true hd, fun j hj => by simpa using hlt j hj, ?_⟩
    rw [effRailWaitTimeout, if_neg (by rw [h, not_railsGood he hle]; decide), show ([0, 1, 2, 3] : List Nat) = List.range 4 from rfl, hf]

theorem effRailWaitTimeout_pg (h : inStage s 6 = true) (hl : ∀ d, d < 4 → 1764 < (dieOf s d).railMv) (hp : s.pwr.hbmPg = false) :
    effRailWaitTimeout s = startFails unitYuton s := by
  have hg : railsGood s = false := by rw [railsGood, hp, Bool.false_and]
  have hf : (List.range 4).find? (fun d => decide ((dieOf s d).railMv ≤ 1764)) = none :=
    List.find?_eq_none.2 fun d hd => by simpa using hl d (List.mem_range.1 hd)
  rw [effRailWaitTimeout, if_neg (by rw [h, hg]; decide), show ([0, 1, 2, 3] : List Nat) = List.range 4 from rfl, hf]

/-! ### DIE_LINKS (R458, R465) -/

section
variable {present : Bool} {width : List Nat} {speed : Nat} {desc : List Byte}

theorem effDieLinks_guard (h : inStage s 7 = true) (hw : width.length = 8) (hs : speed = 4 ∨ speed = 8 ∨ speed = 16 ∨ speed = 32)
    (hc : ∀ n, n < 3 → classSettled s n = true) :
    ¬ ((!(inStage s 7)) = true ∨ (!([0, 1, 2].all (fun n => classSettled s n))) = true ∨ width.length ≠ 8
      ∨ (!(List.contains [4, 8, 16, 32] speed)) = true) := by
  have hall : [0, 1, 2].all (fun n => classSettled s n) = true :=
    List.all_eq_true.2 fun n hn => hc n ((List.mem_range (m := n) (n := 3)).1 hn)
  have hmem : List.contains [4, 8, 16, 32] speed = true := by simpa using hs
  rw [h, hall, hmem, hw]
  decide

theorem effDieLinks_joined (h : inStage s 7 = true) (hw : width.length = 8) (hs : speed = 4 ∨ speed = 8 ∨ speed = 16 ∨ speed = 32)
    (hc : ∀ n, n < 3 → classSettled s n = true) (hn : cutOff s = none) : effDieLinks present width speed desc s
      = setStage 8 (admitComp present width speed desc (setBoot s { s.boot with d2dValid := (List.range 4).filter (linksTrained s) })) := by
  rw [effDieLinks, if_neg (effDieLinks_guard h hw hs hc), hn]
  rfl

theorem effDieLinks_cut {d : Nat} (h : inStage s 7 = true) (hw : width.length = 8) (hs : speed = 4 ∨ speed = 8 ∨ speed = 16 ∨ speed = 32)
    (hc : ∀ n, n < 3 → classSettled s n = true) (hn : cutOff s = some d) : effDieLinks present width speed desc s
      = startFails (unitDie d 15 0) (portRec d (if d < 4 then 2 else 0) 0x0504 3 s) := by
  rw [effDieLinks, if_neg (effDieLinks_guard h hw hs hc), hn]

/-- No companion: its port is idle, and nothing is recorded. -/
theorem admitComp_absent : (portOf (admitComp false width speed desc s) 4 4).state = 6 ∧ (admitComp false width speed desc s).recs = s.recs := by
  refine ⟨?_, rfl⟩
  have h : portOf (admitComp false width speed desc s) 4 4 = portOf (setPort s 4 4 { portOf s 4 4 with state := 6 }) 4 4 := rfl
  rw [h, portOf_setPort_same]

/-- A companion that breaks a rule is held in reset. -/
theorem admitComp_refused (h : admission s width desc ≠ 1) : (admitComp true width speed desc s).d2d.comp.resetLow = true
    ∧ (admitComp true width speed desc s).d2d.comp.state = 4 := by
  have hc : (admitComp true width speed desc s).d2d.comp = { s.d2d.comp with
      state := if admission s width desc = 1 then 3 else 4, reason := if admission s width desc = 1 then 0 else admission s width desc
      desc := desc, resetLow := decide (admission s width desc ≠ 1), maxTags := compField desc 12 1, powerW := compField desc 8 2 } := rfl
  rw [hc]
  exact ⟨decide_eq_true h, if_neg h⟩

end

/-! ### HBM (R287, R298 to R300) -/

/-- A stack after its training. -/
def stackTrained (s : State) (v : Bool × Nat × Nat) (k : Nat) (x : Stack) : Stack :=
  if restores s (k / 3) && v.1 then { x with state := trainedState s }
  else if rateOk v.2.1 then { x with state := trainedState s, rate := v.2.1, repaired := v.2.2 % 16 }
  else { x with state := 4 }

/-- The state with the stacks trained. -/
def stacksTrained (res : List (Bool × Nat × Nat)) (s : State) : State :=
  (res.zipIdx).foldl (fun s x => trainStack x.2 x.1.2.1 x.1.2.2 (restores s (x.2 / 3) && x.1.1) s) s

theorem stackTrained_congr {s t : State} (hb : t.boot = s.boot) (hp : t.pwr = s.pwr) : stackTrained t = stackTrained s := by
  have hr : restores t = restores s := by
    funext d
    rw [restores, restores, hb]
  have ht : trainedState t = trainedState s := by rw [trainedState, trainedState, hp]
  funext v k x
  rw [stackTrained, stackTrained, hr, ht]

theorem foldl_trainStack_eq (l : List ((Bool × Nat × Nat) × Nat)) (s t : State) (hb : t.boot = s.boot) (hp : t.pwr = s.pwr) :
    l.foldl (fun s x => trainStack x.2 x.1.2.1 x.1.2.2 (restores s (x.2 / 3) && x.1.1) s) t
      = { t with stack := l.foldl (fun m x => m.put x.2 (stackTrained s x.1 x.2 (m.get Stack.reset x.2))) t.stack } := by
  induction l generalizing t with
  | nil => rfl
  | cons x l ih =>
    have h : trainStack x.2 x.1.2.1 x.1.2.2 (restores t (x.2 / 3) && x.1.1) t
        = { t with stack := t.stack.put x.2 (stackTrained s x.1 x.2 (t.stack.get Stack.reset x.2)) } := by
      rw [← stackTrained_congr hb hp]
      rfl
    rw [List.foldl_cons, List.foldl_cons, h]
    exact ih { t with stack := t.stack.put x.2 (stackTrained s x.1 x.2 (t.stack.get Stack.reset x.2)) } hb hp

theorem zipIdx_eq_map {α : Type} (l : List α) (a : α) : l.zipIdx = (List.range l.length).map (fun k => (l.getD k a, k)) := by
  apply List.ext_getElem
  · simp
  · intro n h1 h2
    have hn : n < l.length := by simpa using h1
    simp [List.getElem?_eq_getElem hn]

theorem stacksTrained_eq (res : List (Bool × Nat × Nat)) (s : State) : ∃ st, stacksTrained res s = { s with stack := st } :=
  ⟨_, foldl_trainStack_eq _ s s rfl rfl⟩

theorem stackOf_stacksTrained {res : List (Bool × Nat × Nat)} {k : Nat} (h : k < res.length) :
    stackOf (stacksTrained res s) k = stackTrained s (res.getD k (false, 0, 0)) k (stackOf s k) := by
  rw [stacksTrained, foldl_trainStack_eq _ s s rfl rfl, zipIdx_eq_map res (false, 0, 0), List.foldl_map]
  exact (Tab.get_foldl_put Stack.reset (fun k => stackTrained s (res.getD k (false, 0, 0)) k) List.nodup_range s.stack k).trans
    (if_pos (List.mem_range.2 h))

theorem trainedState_ne_four (s : State) : trainedState s ≠ 4 := by
  unfold trainedState
  split <;> decide

/-- Whether a stack trains. -/
theorem state_stackTrained {v : Bool × Nat × Nat} {k : Nat} {x : Stack} {good : Prop}
    (hg : good ↔ (v.1 = true ∧ s.boot.kind = 2 ∧ k / 3 ∈ s.boot.hbmValid) ∨ rateOk v.2.1 = true) :
    (good → (stackTrained s v k x).state = trainedState s) ∧ (¬ good → (stackTrained s v k x).state = 4) := by
  have hr : (restores s (k / 3) && v.1) = true ↔ v.1 = true ∧ s.boot.kind = 2 ∧ k / 3 ∈ s.boot.hbmValid := by
    simp only [restores, Bool.and_eq_true, decide_eq_true_eq, List.contains_iff_mem]
    exact and_comm
  rw [hg, stackTrained, ← hr]
  split
  next h => exact ⟨fun _ => rfl, fun hn => absurd (.inl h) hn⟩
  next h =>
    split
    next h2 => exact ⟨fun _ => rfl, fun hn => absurd (.inr h2) hn⟩
    next h2 => exact ⟨fun hor => absurd hor (not_or.2 ⟨h, h2⟩), fun _ => rfl⟩

/-- The stacks that have not trained. -/
def untrained (s : State) : List Nat := upto 12 (fun k => (stackOf s k).state ≠ trainedState s)

/-- The saved training is valid of the dies whose stacks have all trained. -/
def hbmValidated (s : State) : State :=
  setBoot s { s.boot with hbmValid := upto 4 (fun d => !((untrained s).any (fun k => decide (k / 3 = d)))) }

/-- Then the sectors that a cold start's self-test finds bad. -/
def hbmTested (bad : List Nat) (s : State) : State :=
  if (hbmValidated s).boot.kind = 1 then
    { hbmValidated s with flash := { (hbmValidated s).flash with sectors := (hbmValidated s).flash.sectors ++ bad } }
  else hbmValidated s

/-- The stage ends, or fails with the first stack that has not trained. -/
def stageHbmEnd (s : State) : List Nat → State
  | k :: _ => startFails (unitId (k / 3) 15 15 9 (k % 3)) s
  | [] => setStage 9 s

theorem effHbm_eq {res : List (Bool × Nat × Nat)} {bad : List Nat} (h : inStage s 8 = true) (hl : res.length = 12) :
    effHbm res bad s = stageHbmEnd (hbmTested bad (stacksTrained res s)) (untrained (stacksTrained res s)) := by
  rw [effHbm, if_neg (by rw [h, hl]; decide)]
  extract_lets u fails _ v _ w
  have hw : w = if v.boot.kind = 1 then { v with flash := { v.flash with sectors := v.flash.sectors ++ bad } } else v := rfl
  clear_value w
  have hf : fails = untrained u := rfl
  clear_value fails
  have hu : u = stacksTrained res s := rfl
  clear_value u
  subst hu hf
  have hv : v = hbmValidated (stacksTrained res s) := rfl
  clear_value v
  subst hv
  have hh : w = hbmTested bad (stacksTrained res s) := hw
  rw [hh]
  cases untrained (stacksTrained res s) <;> rfl

/-- The sectors alone go to the flash, and at a cold start only. -/
theorem hbmTested_fields (bad : List Nat) (s : State) :
    (hbmTested bad s).boot = { s.boot with hbmValid := upto 4 (fun d => !((untrained s).any (fun k => decide (k / 3 = d)))) }
    ∧ (hbmTested bad s).stack = s.stack ∧ (hbmTested bad s).hbm = s.hbm
    ∧ (hbmTested bad s).flash = if s.boot.kind = 1 then { s.flash with sectors := s.flash.sectors ++ bad } else s.flash := by
  by_cases hk : s.boot.kind = 1
  · have h : hbmTested bad s = { hbmValidated s with flash := { (hbmValidated s).flash with sectors := (hbmValidated s).flash.sectors ++ bad } } :=
      if_pos hk
    rw [h, if_pos hk]
    exact ⟨rfl, rfl, rfl, rfl⟩
  · have h : hbmTested bad s = hbmValidated s := if_neg hk
    rw [h, if_neg hk]
    exact ⟨rfl, rfl, rfl, rfl⟩

theorem trainedState_stacksTrained (res : List (Bool × Nat × Nat)) (s : State) : trainedState (stacksTrained res s) = trainedState s := by
  obtain ⟨st, h⟩ := stacksTrained_eq res s
  rw [h]
  rfl

section
variable {res : List (Bool × Nat × Nat)} {good : Nat → Prop}
  (hg : ∀ k, good k ↔ ((res.getD k (false, 0, 0)).1 = true ∧ s.boot.kind = 2 ∧ k / 3 ∈ s.boot.hbmValid) ∨ rateOk (res.getD k (false, 0, 0)).2.1 = true)
  (hl : res.length = 12)
include hg hl

theorem state_stacksTrained {k : Nat} (hk : k < 12) : (good k → (stackOf (stacksTrained res s) k).state = trainedState s)
    ∧ (¬ good k → (stackOf (stacksTrained res s) k).state = 4) := by
  rw [stackOf_stacksTrained (by omega)]
  exact state_stackTrained (hg k)

/-- A stack has not trained when it is not good. -/
theorem untrained_iff {k : Nat} (hk : k < 12) :
    decide ((stackOf (stacksTrained res s) k).state ≠ trainedState (stacksTrained res s)) = true ↔ ¬ good k := by
  obtain ⟨hy, hn⟩ := state_stacksTrained hg hl hk
  rw [decide_eq_true_iff, trainedState_stacksTrained]
  refine ⟨fun hne hgood => hne (hy hgood), fun hbad => ?_⟩
  rw [hn hbad]
  exact (trainedState_ne_four s).symm

theorem untrained_nil (h : ∀ k, k < 12 → good k) : untrained (stacksTrained res s) = [] :=
  List.filter_eq_nil_iff.2 fun k hk => by
    rw [untrained_iff hg hl (List.mem_range.1 hk)]
    exact not_not_intro (h k (List.mem_range.1 hk))

theorem untrained_cons {k : Nat} (hk : k < 12) (hb : ¬ good k) (hlt : ∀ j, j < k → good j) : ∃ l, untrained (stacksTrained res s) = k :: l := by
  have h : (untrained (stacksTrained res s)).head? = some k := by
    rw [untrained, upto, List.head?_filter, List.find?_range_eq_some]
    refine ⟨(untrained_iff hg hl hk).2 hb, List.mem_range.2 hk, fun j hj => ?_⟩
    have hne := fun hu => (untrained_iff hg hl (Nat.lt_trans hj hk)).1 hu (hlt j hj)
    rw [eq_false_of_ne_true hne]
    rfl
  exact List.head?_eq_some_iff.1 h

end

end

end Sys2Proof.Machine
end

section
/-! PROOF. Family 12 to 16: the stages SRAM and OPTICAL (R339, R395, R401, R525 to R528). -/

namespace Sys2Proof.Machine

section
variable {s : State}

/-! ### SRAM (R525) -/

/-- A comb fibre asked to emit. -/
def fibreAsked (x : Fibre) : Fibre := if x.state = 0 then { x with enHigh := false, lowLow := false } else x

/-- The comb fibres asked to emit, but for those that have dropped. -/
def fibresAsked (s : State) : State :=
  [0, 1, 2, 3].foldl (fun s f =>
    if (fibreOf s f).state = 0 then setFibre s f { fibreOf s f with enHigh := false, lowLow := false } else s) s

theorem fibre_step_eq (s : State) (f : Nat) :
    ∃ fb, (if (fibreOf s f).state = 0 then setFibre s f { fibreOf s f with enHigh := false, lowLow := false } else s)
        = { s with mer := { s.mer with fibre := fb } }
      ∧ ∀ j, fb.get Fibre.reset j = if j = f then fibreAsked (fibreOf s f) else fibreOf s j := by
  by_cases h : (fibreOf s f).state = 0
  · refine ⟨s.mer.fibre.put f { fibreOf s f with enHigh := false, lowLow := false }, if_pos h, fun j => ?_⟩
    rw [Tab.get_put, fibreAsked, if_pos h]
    rfl
  · refine ⟨s.mer.fibre, if_neg h, fun j => ?_⟩
    rw [fibreAsked, if_neg h]
    split
    next hj => rw [hj]; rfl
    next => rfl

theorem fibresAsked_spec (s : State) : ∃ fb, fibresAsked s = { s with mer := { s.mer with fibre := fb } }
    ∧ ∀ j, j < 4 → fb.get Fibre.reset j = fibreAsked (fibreOf s j) := by
  obtain ⟨f0, h0, g0⟩ := fibre_step_eq s 0
  obtain ⟨f1, h1, g1⟩ := fibre_step_eq { s with mer := { s.mer with fibre := f0 } } 1
  obtain ⟨f2, h2, g2⟩ := fibre_step_eq { s with mer := { s.mer with fibre := f1 } } 2
  obtain ⟨f3, h3, g3⟩ := fibre_step_eq { s with mer := { s.mer with fibre := f2 } } 3
  refine ⟨f3, ?_, fun j hj => ?_⟩
  · rw [fibresAsked, List.foldl_cons, h0, List.foldl_cons, h1, List.foldl_cons, h2, List.foldl_cons, h3, List.foldl_nil]
  · simp only [fibreOf] at g1 g2 g3
    obtain rfl | rfl | rfl | rfl : j = 0 ∨ j = 1 ∨ j = 2 ∨ j = 3 := by omega
    all_goals simp [g0, g1, g2, g3]

/-- What the stage does to the memories. -/
def sramDone (bad : List (Nat × Nat × Nat)) (s : State) : State :=
  if s.boot.kind = 1 then bad.foldl (fun s x => bistFail x s) (retryMovers bad s) else zeroMemories s

theorem effSram_eq (bad : List (Nat × Nat × Nat)) (h : inStage s 9 = true) : effSram bad s = setStage 0xA (fibresAsked (sramDone bad s)) :=
  if_neg (not_not_inStage h)

/-- A memory of a core is zeroed. -/
theorem mem_zeroMemories (s : State) (k : Nat) : (coreOf (zeroMemories s) k).mem = [] :=
  congrArg Core.mem (Tab.get_mapKey Core.reset (fun _ k => { k with mem := [], tag := [], code := [] }) s.core rfl)

theorem clOf_zeroMemories (s : State) (c : Nat) : clOf (zeroMemories s) c = { clOf s c with plates := [], ptag := [], pcode := [], imem := [] } :=
  Tab.get_mapKey Cluster.reset (fun _ c => { c with plates := [], ptag := [], pcode := [], imem := [] }) s.cl rfl

/-- A mover that the self-test does not find bad returns to service. -/
def moverRetried (bad : List (Nat × Nat × Nat)) (s : State) (d : Nat) : State :=
  if bad.any (fun x => decide (x.1 = 5 ∧ x.2.1 = d)) then s
  else setDie { s with flash := { s.flash with movers := s.flash.movers.filter (fun m => decide (m ≠ d)) } } d
    { dieOf s d with mover := Mark.reset }

theorem retryMovers_eq (bad : List (Nat × Nat × Nat)) (s : State) : retryMovers bad s = [0, 1, 2, 3].foldl (moverRetried bad) s := rfl

/-- Movers that are retried change the list of the boot flash and the dies' movers alone. -/
def RetriesMovers (s t : State) : Prop :=
  (∃ m die, t = { s with flash := { s.flash with movers := m }, die := die }) ∧ ∀ j, (dieOf t j).dieRailMv = (dieOf s j).dieRailMv

theorem retriesMovers_retryMovers (bad : List (Nat × Nat × Nat)) (s : State) : RetriesMovers s (retryMovers bad s) := by
  rw [retryMovers_eq]
  refine foldl_keeps (P := RetriesMovers s) (fun u d hu => ?_) _ s ⟨⟨s.flash.movers, s.die, rfl⟩, fun _ => rfl⟩
  obtain ⟨⟨m, die, hd⟩, hv⟩ := hu
  refine ite_of ⟨⟨m, die, hd⟩, hv⟩ ⟨?_, fun j => ?_⟩
  · subst hd
    exact ⟨_, _, rfl⟩
  · rw [dieOf_setDie, ← hv j]
    split
    next hj => rw [hj]
    next => rfl

/-- Whether a die's mover is in service. -/
def MoverGood (s : State) (d : Nat) : Prop := d ∉ s.flash.movers ∧ (dieOf s d).mover.st = 0

theorem moverGood_retried {bad : List (Nat × Nat × Nat)} {d : Nat} (h : bad.any (fun x => decide (x.1 = 5 ∧ x.2.1 = d)) = false) (s : State) :
    MoverGood (moverRetried bad s d) d := by
  rw [moverRetried, if_neg (by rw [h]; exact Bool.false_ne_true)]
  refine ⟨fun hm => ?_, by rw [dieOf_setDie_same]; rfl⟩
  exact of_decide_eq_true (List.mem_filter.1 hm).2 rfl

theorem moverGood_of_retried {bad : List (Nat × Nat × Nat)} {s : State} {d e : Nat} (h : MoverGood s d) : MoverGood (moverRetried bad s e) d := by
  by_cases hb : bad.any (fun x => decide (x.1 = 5 ∧ x.2.1 = e)) = true
  · rw [moverRetried, if_pos hb]
    exact h
  · by_cases he : d = e
    · subst he
      exact moverGood_retried (eq_false_of_ne_true hb) s
    · rw [moverRetried, if_neg hb]
      refine ⟨fun hm => h.1 (List.mem_filter.1 hm).1, ?_⟩
      rw [dieOf_setDie, if_neg he]
      exact h.2

theorem moverGood_retryMovers {bad : List (Nat × Nat × Nat)} {d : Nat} (hd : d < 4)
    (h : bad.any (fun x => decide (x.1 = 5 ∧ x.2.1 = d)) = false) (s : State) : MoverGood (retryMovers bad s) d := by
  have hm : d ∈ [0, 1, 2, 3] := (List.mem_range (m := d) (n := 4)).2 hd
  obtain ⟨l, r, hl⟩ := List.append_of_mem hm
  rw [retryMovers_eq, hl, List.foldl_append, List.foldl_cons]
  exact foldl_keeps (P := fun u => MoverGood u d) (fun u e hu => moverGood_of_retried hu) r _ (moverGood_retried h _)

theorem recs_retryMovers (bad : List (Nat × Nat × Nat)) (s : State) : (retryMovers bad s).recs = s.recs := by
  obtain ⟨⟨m, die, h⟩, -⟩ := retriesMovers_retryMovers bad s
  rw [h]

/-- What the self-test records of a mover that it finds bad. -/
def moverRec (d item : Nat) : RecIn := { unit := unitDie d 5 0, cls := 0x0708, outcome := 5, d1 := BitVec.ofNat 32 item }

/-- A mover that the self-test finds bad. -/
def moverFailed (d item : Nat) (s : State) : State :=
  let u := record (moverRec d item) s
  let u := { u with flash := { u.flash with movers := if u.flash.movers.contains d then u.flash.movers else u.flash.movers ++ [d] } }
  setDie u d { dieOf u d with mover := { (dieOf u d).mover with st := 2 } }

theorem bistFail_mover {d : Nat} (hd : d < 4) (item : Nat) (s : State) : bistFail (5, d, item) s = moverFailed d item s := by
  rw [bistFail]
  extract_lets
  rw [if_neg (fun h => (by decide : ¬ (5 : Nat) < 4) h.1), if_pos ⟨rfl, hd⟩]
  rfl

theorem moverFailed_fields (d item : Nat) (s : State) : d ∈ (moverFailed d item s).flash.movers ∧ (dieOf (moverFailed d item s) d).mover.st = 2
    ∧ ∀ e, e ≠ d → MoverGood s e → MoverGood (moverFailed d item s) e := by
  have hf : (moverFailed d item s).flash.movers = if s.flash.movers.contains d then s.flash.movers else s.flash.movers ++ [d] := rfl
  refine ⟨?_, by rw [moverFailed, dieOf_setDie_same], fun e he hg => ⟨?_, ?_⟩⟩
  · rw [hf]
    split
    next h => exact List.contains_iff_mem.1 h
    next => exact List.mem_append_right _ (List.mem_singleton.2 rfl)
  · rw [hf]
    split
    · exact hg.1
    · exact fun hm => (List.mem_append.1 hm).elim hg.1 fun h => he (List.mem_singleton.1 h)
  · rw [moverFailed, dieOf_setDie, if_neg he]
    exact hg.2

/-- What is recorded does not depend on the movers. -/
theorem mkRec_retryMovers (r : RecIn) (bad : List (Nat × Nat × Nat)) (s : State) : mkRec r (retryMovers bad s) = mkRec r s := by
  obtain ⟨⟨m, die, h⟩, hv⟩ := retriesMovers_retryMovers bad s
  have hvolt : voltOf (retryMovers bad s) r.unit = voltOf s r.unit := by
    simp only [voltOf, hv]
    rw [h]
    rfl
  rw [mkRec, hvolt, h]
  rfl

theorem recs_moverFailed (d item : Nat) (bad : List (Nat × Nat × Nat)) (s : State) :
    (moverFailed d item (retryMovers bad s)).recs = (record (moverRec d item) s).recs := by
  have hr : (moverFailed d item (retryMovers bad s)).recs = (record (moverRec d item) (retryMovers bad s)).recs := rfl
  rw [hr, record_recs, record_recs, mkRec_retryMovers, recs_retryMovers]

/-! ### OPTICAL (R395, R526 to R528) -/

/-- A link after its calibration or relock. -/
def linkLit (s : State) (full : Bool) (up rts : List Nat) (p : Nat) (k : Link) : Link :=
  if up.contains p then { k with state := restState s p, txLock := true, rxLock := true, loopRt := if full then rts.getD p 0 % 65536 else k.loopRt }
  else { k with state := 0, txLock := false, rxLock := false }

theorem linkLit_congr {s t : State} (h : t.mer.planes16 = s.mer.planes16) : linkLit t = linkLit s := by
  have hr : restState t = restState s := by
    funext p
    rw [restState, restState, planeCount, planeCount, h]
  funext full up rts p k
  rw [linkLit, linkLit, hr]

theorem foldl_lit_eq (full : Bool) (up rts l : List Nat) {s t : State} (h : t.mer.planes16 = s.mer.planes16) :
    l.foldl (fun s p => setLink s p (linkLit s full up rts p (linkOf s p))) t
      = { t with mer := { t.mer with link := l.foldl (fun m p => m.put p (linkLit s full up rts p (m.get Link.reset p))) t.mer.link } } := by
  induction l generalizing t with
  | nil => rfl
  | cons p l ih =>
    rw [List.foldl_cons, List.foldl_cons, linkLit_congr h]
    exact ih (t := setLink t p (linkLit s full up rts p (linkOf t p))) h

theorem lightDie_eq (d : Nat) (full : Bool) (up rts : List Nat) (s : State) : lightDie d full up rts s
    = (upto 64 (fun p => linkDie p = d)).foldl (fun s p => setLink s p (linkLit s full up rts p (linkOf s p))) s := rfl

/-- The links of a photonic die alone change. -/
theorem lightDie_frame (d : Nat) (full : Bool) (up rts : List Nat) (s : State) :
    ∃ m, lightDie d full up rts s = { s with mer := { s.mer with link := m } } :=
  ⟨_, (lightDie_eq d full up rts s).trans (foldl_lit_eq full up rts _ rfl)⟩

theorem linkOf_lightDie (d : Nat) (full : Bool) (up rts : List Nat) (s : State) {q : Nat} (hq : q < 64) :
    linkOf (lightDie d full up rts s) q = if linkDie q = d then linkLit s full up rts q (linkOf s q) else linkOf s q := by
  rw [lightDie_eq, foldl_lit_eq full up rts _ rfl]
  have hm : q ∈ upto 64 (fun p => linkDie p = d) ↔ linkDie q = d := by
    simp [upto, hq]
  exact (Tab.get_foldl_put Link.reset (fun p => linkLit s full up rts p) (l := upto 64 (fun p => linkDie p = d))
    (List.nodup_range.filter _) s.mer.link q).trans (ite_congr (propext hm) (fun _ => rfl) (fun _ => rfl))

theorem linkLit_up {s : State} {full : Bool} {up rts : List Nat} {p : Nat} {k : Link} (h : p ∈ up) :
    (linkLit s full up rts p k).txLock = true ∧ (linkLit s full up rts p k).rxLock = true := by
  rw [linkLit, if_pos (List.contains_iff_mem.2 h)]
  exact ⟨rfl, rfl⟩

theorem linkLit_down {s : State} {full : Bool} {up rts : List Nat} {p : Nat} {k : Link} (h : p ∉ up) :
    (linkLit s full up rts p k).state = 0 := by
  rw [linkLit, if_neg (fun hc => h (List.contains_iff_mem.1 hc))]

/-- A photonic die calibrated or relocked, and its calibration saved. -/
def dieLit (up rts : List Nat) (s : State) (d : Nat) : State :=
  let full := !(relocks s d)
  let u := lightDie d full up rts s
  if full then saveOptical d u else u

theorem dieLit_eq (up rts : List Nat) (s : State) (d : Nat) : ∃ m, dieLit up rts s d = { s with
    mer := { s.mer with link := m }
    boot := if relocks s d then s.boot else (saveOptical d s).boot } ∧ { s with mer := { s.mer with link := m } } = lightDie d (!(relocks s d)) up rts s := by
  obtain ⟨m, h⟩ := lightDie_frame d (!(relocks s d)) up rts s
  refine ⟨m, ?_, h.symm⟩
  simp only [dieLit, h]
  cases relocks s d <;> rfl

/-- Whether a die relocks depends on the start and the power controller. -/
theorem relocks_congr {s t : State} {d : Nat} (hk : t.boot.kind = s.boot.kind) (hp : t.pwr.photSensors = s.pwr.photSensors)
    (hv : t.boot.optValid.contains d = s.boot.optValid.contains d) (ht : t.boot.optTemp.get 0 d = s.boot.optTemp.get 0 d) :
    relocks t d = relocks s d := by
  rw [relocks, relocks, photHot, photHot, hk, hp, hv, ht]

end

end Sys2Proof.Machine
end

section
/-! PROOF. Family 12 to 16: OPTICAL as a whole, STORAGE, READY, the commit of the image, and what follows a stage that fails
(R309, R523, R526 to R530, R542): O56. -/

namespace Sys2Proof.Machine

section
variable {s : State} {up rts : List Nat}

/-! ### OPTICAL (R395, R526 to R528) -/

theorem boot_dieLit (s : State) (d : Nat) : (dieLit up rts s d).boot = if relocks s d then s.boot else (saveOptical d s).boot := by
  obtain ⟨m, h, -⟩ := dieLit_eq up rts s d
  rw [h]

/-- A die that has calibrated fully is saved with its hottest sensor. -/
theorem dieLit_saves {d : Nat} (h : relocks s d = false) :
    d ∈ (dieLit up rts s d).boot.optValid ∧ (dieLit up rts s d).boot.optTemp.get 0 d = photHot s d := by
  rw [boot_dieLit, h, if_neg Bool.false_ne_true]
  refine ⟨?_, Tab.get_put_same _ _ _ _⟩
  have ho : (saveOptical d s).boot.optValid = if s.boot.optValid.contains d then s.boot.optValid else s.boot.optValid ++ [d] := rfl
  rw [ho]
  split
  next hc => exact List.contains_iff_mem.1 hc
  next => exact List.mem_append_right _ (List.mem_singleton.2 rfl)

/-- The saved calibration of another die stays. -/
theorem dieLit_keeps_saved {d e : Nat} (h : e ≠ d) (s : State) : (e ∈ (dieLit up rts s d).boot.optValid ↔ e ∈ s.boot.optValid)
    ∧ (dieLit up rts s d).boot.optTemp.get 0 e = s.boot.optTemp.get 0 e := by
  rw [boot_dieLit]
  split
  · exact ⟨Iff.rfl, rfl⟩
  · refine ⟨?_, Tab.get_put_other _ _ _ h⟩
    have ho : (saveOptical d s).boot.optValid = if s.boot.optValid.contains d then s.boot.optValid else s.boot.optValid ++ [d] := rfl
    rw [ho]
    split
    · exact Iff.rfl
    · simp [h]

/-- What OPTICAL keeps of a start. -/
structure OptKeeps (s t : State) : Prop where
  kind : t.boot.kind = s.boot.kind
  device : t.boot.device = s.boot.device
  domain : t.boot.domain = s.boot.domain
  conflict : t.boot.idConflict = s.boot.idConflict
  pwr : t.pwr = s.pwr

theorem OptKeeps.trans {a b c : State} (h : OptKeeps a b) (g : OptKeeps b c) : OptKeeps a c :=
  ⟨g.kind.trans h.kind, g.device.trans h.device, g.domain.trans h.domain, g.conflict.trans h.conflict, g.pwr.trans h.pwr⟩

theorem optKeeps_dieLit (s : State) (d : Nat) : OptKeeps s (dieLit up rts s d) := by
  obtain ⟨m, h, -⟩ := dieLit_eq up rts s d
  rw [h]
  cases relocks s d <;> exact ⟨rfl, rfl, rfl, rfl, rfl⟩

theorem linkOf_dieLit (s : State) (d : Nat) {q : Nat} (hq : q < 64) : linkOf (dieLit up rts s d) q
    = if linkDie q = d then linkLit s (!(relocks s d)) up rts q (linkOf s q) else linkOf s q := by
  obtain ⟨m, h, hm⟩ := dieLit_eq up rts s d
  rw [← linkOf_lightDie d _ up rts s hq, ← hm, h]
  rfl

/-- Both photonic dies calibrated or relocked. -/
def diesLit (up rts : List Nat) (s : State) : State := dieLit up rts (dieLit up rts s 5) 6

theorem optKeeps_diesLit (s : State) : OptKeeps s (diesLit up rts s) := (optKeeps_dieLit s 5).trans (optKeeps_dieLit _ 6)

theorem relocks_dieLit (s : State) : relocks (dieLit up rts s 5) 6 = relocks s 6 := by
  have hk := optKeeps_dieLit (up := up) (rts := rts) s 5
  obtain ⟨hv, ht⟩ := dieLit_keeps_saved (up := up) (rts := rts) (by decide : (6 : Nat) ≠ 5) s
  refine relocks_congr hk.kind (congrArg Power.photSensors hk.pwr) ?_ ht
  rw [Bool.eq_iff_iff, List.contains_iff_mem, List.contains_iff_mem]
  exact hv

theorem linkDie_eq (q : Nat) : linkDie q = 5 ∨ linkDie q = 6 := by
  simp only [linkDie]
  omega

theorem linkOf_diesLit (s : State) {q : Nat} (hq : q < 64) : ∃ t full, linkOf (diesLit up rts s) q = linkLit t full up rts q (linkOf s q) := by
  rw [diesLit, linkOf_dieLit _ 6 hq]
  rcases linkDie_eq q with h | h
  · rw [h, if_neg (by decide), linkOf_dieLit _ 5 hq, if_pos h]
    exact ⟨_, _, rfl⟩
  · rw [h, if_pos rfl, linkOf_dieLit _ 5 hq, h, if_neg (by decide)]
    exact ⟨_, _, rfl⟩

theorem diesLit_saves {d : Nat} (hd : d = 5 ∨ d = 6) (h : relocks s d = false) :
    d ∈ (diesLit up rts s).boot.optValid ∧ (diesLit up rts s).boot.optTemp.get 0 d = photHot s d := by
  rw [diesLit]
  rcases hd with rfl | rfl
  · obtain ⟨hv, ht⟩ := dieLit_saves (up := up) (rts := rts) h
    obtain ⟨kv, kt⟩ := dieLit_keeps_saved (up := up) (rts := rts) (by decide : (5 : Nat) ≠ 6) (dieLit up rts s 5)
    exact ⟨kv.2 hv, kt.trans ht⟩
  · obtain ⟨hv, ht⟩ := dieLit_saves (up := up) (rts := rts) ((relocks_dieLit s).trans h)
    refine ⟨hv, ht.trans ?_⟩
    rw [photHot, photHot, (optKeeps_dieLit s 5).pwr]

/-- The phase that the slot reference shows. -/
def opticalLit (up rts : List Nat) (phase : Option Nat) (s : State) : State :=
  { diesLit up rts s with mer := { (diesLit up rts s).mer with phaseLock := phase.isSome, slot := phase.getD (diesLit up rts s).mer.slot % 1024 } }

theorem linkOf_opticalLit (phase : Option Nat) (s : State) (q : Nat) :
    linkOf (opticalLit up rts phase s) q = linkOf (diesLit up rts s) q := by
  rw [opticalLit]
  generalize diesLit up rts s = x
  rfl

theorem boot_opticalLit (phase : Option Nat) (s : State) : (opticalLit up rts phase s).boot = (diesLit up rts s).boot := by
  rw [opticalLit]

theorem linkOf_confirmId (fs : List Frame) (s : State) (q : Nat) : linkOf (confirmId fs s) q = linkOf s q := rfl

theorem framesFault_congr {s t : State} (hd : t.boot.device = s.boot.device) (hm : t.boot.domain = s.boot.domain) (fs : List Frame) :
    framesFault t fs = framesFault s fs := by
  have h : frameFault t = frameFault s := by
    funext f
    rw [frameFault, frameFault, ownGid, ownGid, heardOn, heardOn, hd, hm]
  rw [framesFault, framesFault, h]

theorem framesFault_opticalLit (phase : Option Nat) (s : State) (fs : List Frame) :
    framesFault (opticalLit up rts phase s) fs = framesFault s fs :=
  framesFault_congr (optKeeps_diesLit s).device (optKeeps_diesLit s).domain fs

section
variable {phase : Option Nat} {fs : List Frame} (h : inStage s 0xA = true) (hc : s.mer.combLock = true)
include h hc

theorem effOptical_agrees (hf : framesFault s (fs.filter (fun f => !(relocks s (linkDie f.link)))) = none) :
    effOptical up rts phase fs s
      = afterOptical (confirmId (fs.filter (fun f => !(relocks s (linkDie f.link)))) (opticalLit up rts phase s)) := by
  rw [← framesFault_opticalLit (up := up) (rts := rts) phase] at hf
  rw [effOptical, if_neg (by rw [h, hc]; decide)]
  extract_lets seen u _ w
  have hw : w = opticalLit up rts phase s := rfl
  rw [hw, hf]

theorem effOptical_conflict {f : Frame} {n : Nat} (hf : framesFault s (fs.filter (fun f => !(relocks s (linkDie f.link)))) = some (f, n)) :
    effOptical up rts phase fs s = startFails (unitLink f.link) (topoConflict f.link n f.src (opticalLit up rts phase s)) := by
  rw [← framesFault_opticalLit (up := up) (rts := rts) phase] at hf
  rw [effOptical, if_neg (by rw [h, hc]; decide)]
  extract_lets seen u _ w
  have hw : w = opticalLit up rts phase s := rfl
  rw [hw, hf]

end

/-- Both photonic dies with every link down. -/
def diesDark (s : State) : State := lightDie 6 true [] [] (lightDie 5 true [] [] s)

theorem state_diesDark (s : State) {q : Nat} (hq : q < 64) : (linkOf (diesDark s) q).state = 0 := by
  rw [diesDark, linkOf_lightDie _ _ _ _ _ hq]
  rcases linkDie_eq q with h | h
  · rw [h, if_neg (by decide), linkOf_lightDie _ _ _ _ _ hq, if_pos h]
    exact linkLit_down (List.not_mem_nil)
  · rw [h, if_pos rfl]
    exact linkLit_down (List.not_mem_nil)

theorem linkOf_drawWord (s : State) (q : Nat) : linkOf (drawWord s).2 q = linkOf s q := rfl

/-- The record of a comb that does not lock. -/
def combRec (s : State) : RecIn :=
  { unit := unitDie 5 15 0, cls := 0x0408, outcome := 1, d1 := (drawWord s).1.setWidth 32, d2 := BitVec.ofNat 32 0xFFFF }

theorem effCombLockTimeout_eq (h : inStage s 0xA = true) (hc : s.mer.combLock = false) :
    effCombLockTimeout s = afterOptical (record (combRec (diesDark s)) (drawWord (diesDark s)).2) := by
  rw [effCombLockTimeout, if_neg (by rw [h, hc]; decide), List.foldl_cons, List.foldl_cons, List.foldl_nil, ← diesDark, fabricRec]
  simp only [combRec]

end

end Sys2Proof.Machine
end

section
/-! PROOF. Family 12 to 16: STORAGE, READY, the commit of the image, and what follows a stage that fails (R309, R523, R530, R542):
O56. -/

namespace Sys2Proof.Machine

section
variable {s : State}

/-! ### STORAGE (R308 to R310) -/

/-- The controller at one port. -/
def nvFound (used : Bool) (found : List NvFound) (s : State) (n : Nat) : State :=
  match (if used then found.find? (fun c => decide (c.port = n)) else none) with
  | some c => nvInit c s
  | none => setNvCtrl s n { nvCtrl s n with present := false, spaces := [], pairs := 0 }

/-- Only messages to the controllers and the controllers change. -/
def FindsCtrl (s t : State) : Prop := ∃ o c, t = { s with out := o, stp := { s.stp with ctrl := c } }

theorem findsCtrl_emits {α : Type} (g : α → Out) (l : List α) (s : State) : ∃ o, l.foldl (fun s x => emit (g x) s) s = { s with out := o } := by
  refine foldl_keeps (P := fun u => ∃ o, u = { s with out := o }) (fun u x hu => ?_) l s ⟨s.out, rfl⟩
  obtain ⟨o, rfl⟩ := hu
  exact ⟨_, rfl⟩

theorem nvInit_eq (c : NvFound) (s : State) : ∃ u x, nvInit c s = setNvCtrl u c.port x ∧ x.present = nvGood c ∧ ∃ o, u = { s with out := o } :=
  ⟨_, _, rfl, rfl, findsCtrl_emits (fun x : Nat × Nat => Out.nvmeAdmin c.port x.1 x.2) _ s⟩

/-- One port changes its controller alone. -/
theorem nvFound_eq (used : Bool) (found : List NvFound) (s : State) (n : Nat) : ∃ o x, nvFound used found s n = setNvCtrl { s with out := o } n x
    ∧ (x.present = true ↔ ∃ c, used = true ∧ found.find? (fun c => decide (c.port = n)) = some c ∧ nvGood c = true) := by
  cases used with
  | false => exact ⟨s.out, _, rfl, by simp⟩
  | true =>
    cases hf : found.find? (fun c => decide (c.port = n)) with
    | none =>
      refine ⟨s.out, { nvCtrl s n with present := false, spaces := [], pairs := 0 }, ?_, by simp⟩
      simp only [nvFound, if_true, hf]
    | some c =>
      have hp : c.port = n := by simpa using List.find?_some hf
      obtain ⟨_, x, h, hx, o, rfl⟩ := nvInit_eq c s
      refine ⟨o, x, ?_, by simp [hx]⟩
      simp only [nvFound, if_true, hf, h, hp]

/-- The controllers at the four ports. -/
def nvAllFound (used : Bool) (found : List NvFound) (s : State) : State := (List.range 4).foldl (nvFound used found) s

theorem findsCtrl_nvAllFound (used : Bool) (found : List NvFound) (s : State) : FindsCtrl s (nvAllFound used found s) := by
  refine foldl_keeps (P := FindsCtrl s) (fun u n hu => ?_) _ s ⟨s.out, s.stp.ctrl, rfl⟩
  obtain ⟨_, _, rfl⟩ := hu
  obtain ⟨o, x, h, -⟩ := nvFound_eq used found _ n
  exact ⟨o, _, h⟩

theorem present_nvAllFound {used : Bool} {found : List NvFound} {n : Nat} (hn : n < 4) (s : State) :
    (nvCtrl (nvAllFound used found s) n).present = true
      ↔ ∃ c, used = true ∧ found.find? (fun c => decide (c.port = n)) = some c ∧ nvGood c = true := by
  obtain ⟨l, r, hl⟩ := List.append_of_mem (List.mem_range.2 hn)
  rw [nvAllFound, hl, List.foldl_append, List.foldl_cons]
  refine foldl_keeps (P := fun u => (nvCtrl u n).present = true ↔ _) (fun u m hu => ?_) r _ ?_
  · obtain ⟨o, x, h, hx⟩ := nvFound_eq used found u m
    rw [h]
    by_cases hm : n = m
    · subst hm
      rw [nvCtrl_setNvCtrl_same]
      exact hx
    · rw [show nvCtrl (setNvCtrl { u with out := o } m x) n = nvCtrl u n from Tab.get_put_other _ _ _ hm]
      exact hu
  · obtain ⟨o, x, h, hx⟩ := nvFound_eq used found (l.foldl (nvFound used found) s) n
    rw [h, nvCtrl_setNvCtrl_same]
    exact hx

section
variable {upLink flit : Bool} {speed width : Nat} {found : List NvFound}

/-- Whether the storage link is used as it trains. -/
def stpUsed (up flit : Bool) (speed width : Nat) : Bool :=
  up && flit && decide (1 ≤ speed ∧ speed ≤ 6) && [1, 2, 4, 8].contains width

theorem stpUsed_iff : stpUsed upLink flit speed width = true
    ↔ upLink = true ∧ flit = true ∧ 1 ≤ speed ∧ speed ≤ 6 ∧ (width = 1 ∨ width = 2 ∨ width = 4 ∨ width = 8) := by
  simp [stpUsed, and_assoc]

/-- The state with the storage link trained. -/
def stpTrained (used : Bool) (speed width : Nat) (s : State) : State :=
  { s with stp := { s.stp with linkUp := used, speed := if used then speed else 0, width := if used then width else 0 } }

/-- The end of the stage, or of the work that OPTICAL overlaps. -/
def storageEnd (s : State) : State := if s.boot.stage = 0xB then setStage 0xC s else setBoot s { s.boot with stored := true }

theorem effStorage_eq (hs : s.boot.stored = false) (h : inStage s 0xA = true ∨ inStage s 0xB = true) :
    effStorage upLink flit speed width found s
      = storageEnd (nvAllFound (stpUsed upLink flit speed width) found (stpTrained (stpUsed upLink flit speed width) speed width s)) := by
  have hin : (inStage s 0xA || inStage s 0xB) = true := by simpa using h
  rw [effStorage, if_neg (by rw [hin, hs]; decide)]
  rfl

theorem storageEnd_fields (s : State) : (storageEnd s).stp = s.stp
    ∧ (storageEnd s).boot = if s.boot.stage = 0xB then { s.boot with stage := 0xC } else { s.boot with stored := true } := by
  by_cases h : s.boot.stage = 0xB
  · rw [storageEnd, if_pos h, if_pos h]
    exact ⟨rfl, rfl⟩
  · rw [storageEnd, if_neg h, if_neg h]
    exact ⟨rfl, rfl⟩

end

/-! ### READY (R530) -/

/-- What READY records. -/
def readyRec (s : State) : RecIn :=
  { unit := unitYuton, cls := 0x0702, outcome := s.boot.kind
    d1 := BitVec.ofNat 32 ((s.aoCount - s.boot.begun).toNat / 50000), d2 := BitVec.ofNat 32 s.boot.warmFails }

/-- The package in service. -/
def inService (s : State) : State :=
  let u := record (readyRec s) s
  { u with
    recs := { u.recs with inService := true }
    boot := { s.boot with ready := true, starting := false, warmFails := 0, warmHeld := none }
    encl := { u.encl with readyAt := u.aoCount } }

theorem log_inService (s : State) : (inService s).recs.log = (record (readyRec s) s).recs.log := by
  simp only [inService]

theorem effReady_free (h : inStage s 0xC = true) (hw : s.boot.warmHeld = none) :
    effReady s = goOnAll (if (inService s).encl.aliasReady then inService s else seekAlias (inService s)) := by
  rw [effReady, if_neg (not_not_inStage h)]
  simp only [hw]
  rfl

theorem effReady_held {c : Nat} (h : inStage s 0xC = true) (hw : s.boot.warmHeld = some c) :
    effReady s = requestWarm c (goOnAll (if (inService s).encl.aliasReady then inService s else seekAlias (inService s))) := by
  rw [effReady, if_neg (not_not_inStage h)]
  simp only [hw]
  rfl

/-! ### The commit of the image (R542) -/

section
variable (hr : s.boot.ready = true) (hc : s.encl.committed = false)
include hr hc

theorem commitBit_svn (hlt : s.encl.fusedSvn < hSvn s.encl.header) :
    commitBit s = setEncl s { s.encl with fusedSvn := s.encl.fusedSvn + 1, blown := true } := by
  rw [commitBit, if_neg (by rw [hr, hc]; decide), if_pos hlt]

theorem commitBit_signer {n : Nat} (hle : hSvn s.encl.header ≤ s.encl.fusedSvn) (hn : n < 16)
    (h1 : hRevoke s.encl.header / 2 ^ n % 2 = 1) (h0 : s.encl.revoked.getLsbD n = false)
    (hlt : ∀ j, j < n → hRevoke s.encl.header / 2 ^ j % 2 = 1 → s.encl.revoked.getLsbD j = true) :
    commitBit s = setEncl s { s.encl with revoked := s.encl.revoked ||| BitVec.ofNat 16 (2 ^ n), blown := true } := by
  have hf : (List.range 16).find? (fun n => decide (hRevoke s.encl.header / 2 ^ n % 2 = 1) && !(bit s.encl.revoked n)) = some n := by
    refine List.find?_range_eq_some.2 ⟨by simp [h1, bit, h0], List.mem_range.2 hn, fun j hj => ?_⟩
    by_cases h : hRevoke s.encl.header / 2 ^ j % 2 = 1
    · simp [bit, hlt j hj h]
    · simp [h]
  rw [commitBit, if_neg (by rw [hr, hc]; decide), if_neg (Nat.not_lt.2 hle), hf]

theorem commitBit_ends (hle : hSvn s.encl.header ≤ s.encl.fusedSvn)
    (hall : ∀ n, n < 16 → hRevoke s.encl.header / 2 ^ n % 2 = 1 → s.encl.revoked.getLsbD n = true) : commitBit s = endCommit s := by
  have hf : (List.range 16).find? (fun n => decide (hRevoke s.encl.header / 2 ^ n % 2 = 1) && !(bit s.encl.revoked n)) = none := by
    refine List.find?_eq_none.2 fun n hn => ?_
    have := hall n (List.mem_range.1 hn)
    simpa [bit] using this
  rw [commitBit, if_neg (by rw [hr, hc]; decide), if_neg (Nat.not_lt.2 hle), hf]

end

/-- What an issued certificate leaves of the enclave. -/
structure KeepsFuses (s t : State) : Prop where
  committed : t.encl.committed = s.encl.committed
  fusedSvn : t.encl.fusedSvn = s.encl.fusedSvn
  revoked : t.encl.revoked = s.encl.revoked

theorem KeepsFuses.trans {a b c : State} (h : KeepsFuses a b) (g : KeepsFuses b c) : KeepsFuses a c :=
  ⟨g.committed.trans h.committed, g.fusedSvn.trans h.fusedSvn, g.revoked.trans h.revoked⟩

theorem encl_msFromReady (s : State) : (msFromReady s).2.encl = s.encl := by
  unfold msFromReady
  split <;> rfl

theorem encl_aliasRec (out : Nat) (s : State) : (aliasRec out s).encl = s.encl := by
  rw [aliasRec]
  exact encl_msFromReady s

theorem keepsFuses_aliasRec (out : Nat) (s : State) : KeepsFuses s (aliasRec out s) := by
  have h := encl_aliasRec out s
  exact ⟨congrArg Encl.committed h, congrArg Encl.fusedSvn h, congrArg Encl.revoked h⟩

theorem keepsFuses_findAlias (s : State) : KeepsFuses s (findAlias s) := by
  refine KeepsFuses.trans (b := deriveAlias s) ⟨rfl, rfl, rfl⟩ (ite_of ?_ ⟨rfl, rfl, rfl⟩)
  refine KeepsFuses.trans ?_ (keepsFuses_aliasRec 2 _)
  exact ⟨rfl, rfl, rfl⟩

theorem keepsFuses_seekAlias (s : State) : KeepsFuses s (seekAlias s) :=
  (keepsFuses_findAlias s).trans (ite_of ⟨rfl, rfl, rfl⟩ ⟨rfl, rfl, rfl⟩)

/-- What a commit records that has changed a bit. -/
def commitRec (s : State) : RecIn :=
  { unit := unitEncl, cls := 0x0804, outcome := s.encl.fusedSvn, d1 := BitVec.ofNat 32 s.encl.revoked.toNat }

/-- The enclave after a commit that has changed a bit, its sessions ended. -/
def commitDone (s : State) : State :=
  setEncl s { s.encl with committed := true, blown := false, sessions := [], aliasReady := false }

theorem endCommit_blown (h : s.encl.blown = true) : endCommit s = seekAlias (record (commitRec s) (commitDone s)) := by
  rw [endCommit, if_neg (by rw [h]; decide)]
  rfl

theorem endCommit_plain (h : s.encl.blown = false) : endCommit s = setEncl s { s.encl with committed := true, blown := false } := by
  rw [endCommit, if_pos (by rw [h]; rfl)]

theorem keepsFuses_endCommit (s : State) : (endCommit s).encl.committed = true ∧ (endCommit s).encl.fusedSvn = s.encl.fusedSvn
    ∧ (endCommit s).encl.revoked = s.encl.revoked := by
  cases h : s.encl.blown with
  | false =>
    rw [endCommit_plain h]
    exact ⟨rfl, rfl, rfl⟩
  | true =>
    obtain ⟨hc, hf, hr⟩ := keepsFuses_seekAlias (record (commitRec s) (commitDone s))
    rw [endCommit_blown h]
    exact ⟨hc, hf, hr⟩

/-! ### A stage that fails (R523, R530) -/

/-- What a stage that fails records. -/
def failRec (unit : W32) (s : State) : RecIn := { unit := 0x4FFE0001#32, cls := 0x0703, outcome := s.boot.stage, d1 := unit }

/-- The state of a start with a stage failed. -/
def stageFailed (unit : W32) (s : State) : State :=
  setBoot (record (failRec unit s) s) { s.boot with failStage := s.boot.stage, failUnit := unit }

theorem startFails_cold (unit : W32) (hk : s.boot.kind = 1) : startFails unit s = enterRecovery s.boot.stage unit (stageFailed unit s) :=
  if_pos hk

/-- The state with its failed warm starts counted. -/
def warmFailed (n : Nat) (s : State) : State := setBoot s { s.boot with warmFails := n }

theorem startFails_notCold (unit : W32) (hk : s.boot.kind ≠ 1) : startFails unit s =
    if (if s.boot.stage = 4 then 3 else min 3 (s.boot.warmFails + 1)) = 3
    then coldStart 4 (warmFailed (if s.boot.stage = 4 then 3 else min 3 (s.boot.warmFails + 1)) (stageFailed unit s))
    else warmDies (beginStart 2 8 (warmFailed (if s.boot.stage = 4 then 3 else min 3 (s.boot.warmFails + 1)) (stageFailed unit s))) :=
  if_neg hk

theorem startFails_again (unit : W32) (hk : s.boot.kind ≠ 1) (hw : s.boot.warmFails < 2) (h4 : s.boot.stage ≠ 4) :
    startFails unit s = warmDies (beginStart 2 8 (warmFailed (s.boot.warmFails + 1) (stageFailed unit s))) := by
  rw [startFails_notCold unit hk, if_neg h4, if_neg (by omega), Nat.min_eq_right (by omega)]

theorem startFails_third (unit : W32) (hk : s.boot.kind ≠ 1) (hw : s.boot.stage = 4 ∨ 2 ≤ s.boot.warmFails) :
    startFails unit s = coldStart 4 (warmFailed 3 (stageFailed unit s)) := by
  have h3 : (if s.boot.stage = 4 then 3 else min 3 (s.boot.warmFails + 1)) = 3 := by
    split <;> omega
  rw [startFails_notCold unit hk, h3, if_pos rfl]

end

/-- Settles O56: each clause is the lemma about its stage, in the order of the statement. -/
theorem startStagesFollowInOrder : Obligations.StartStagesFollowInOrder := by
  refine ⟨fun s h => ⟨answers_of_eq (effAoClocks_up h), answers_of_eq (effAoClocks_down h)⟩,
    fun s h he => ⟨⟨_, answers_of_eq (effEnclaveRom_good h he), rfl, length_newChallenge s, rfl, rfl⟩, answers_of_eq (effEnclaveRom_bad h he)⟩,
    fun s h => ⟨fun r hr => ⟨_, answers_of_eq (effFetch_named h hr), rfl, rfl, rfl⟩, fun hr => answers_of_eq (effFetch_none h hr true),
      answers_of_eq (effFetch_unreadable h)⟩,
    fun s r hr => ?_, fun s h => ?_, fun s g h pk hh hpk hv => ?_,
    fun s h => ⟨⟨_, answers_of_eq (effKat_good h), rfl, rfl, rfl⟩, answers_of_eq (effKat_bad h)⟩,
    fun s ids dev dom limit pg certOk h hi => ⟨fun hr => answers_of_eq (effDiscovery_waits h hi hr), fun hp hr => ⟨?_, ?_⟩, fun hl => ?_, fun hl hp => ?_⟩,
    fun s present width speed desc h hw hs hc => ⟨fun hn => ?_, fun d hn => ?_⟩,
    fun s res bad good h hl hg => ⟨fun hall => ?_, fun k hk hb hlt => ?_⟩,
    fun s h => ⟨fun bad hk => ?_, fun hk => ?_, fun d item hk hd hm => ?_⟩,
    fun s up rts phase fs h => ⟨fun hc => ⟨fun hf => ?_, fun f n hf => ?_⟩, fun hc => ?_, rfl⟩,
    fun s up flit speed width found hs h => ?_, fun s h => ?_,
    fun s => ⟨commitBit_idle, fun hr hc => ⟨fun hlt => ?_, fun hle => ⟨fun n hn h1 h0 hlt => ?_, fun hall => ?_⟩⟩⟩,
    fun s unit => ⟨stageFailed unit s, failRec unit s, rfl, rfl, rfl, rfl, rfl, fun hk => startFails_cold unit hk,
      fun hk hw h4 => startFails_again unit hk hw h4, fun hk hw => startFails_third unit hk hw⟩⟩
  -- FETCH and VERIFY (R538, R540)
  · obtain ⟨i, hu, hri⟩ := Option.map_eq_some_iff.1 hr
    obtain ⟨hi, hv, hseq⟩ := bootUsed_spec hu
    exact ⟨i, hi, hri.symm, hv, hseq⟩
  · obtain ⟨hcls, hout, hd1⟩ := verifyRec_fields s s.encl.region
    refine ⟨verifyRec s s.encl.region, hcls, hout, hd1, fun hv => answers_of_eq (effVerify_fails h hv), fun hv => ?_⟩
    exact ⟨verified s, answers_of_eq (effVerify_passes h hv), verified_fields s⟩
  · obtain ⟨hm, hrev, hsig, hsvn, hdig⟩ := verifyImage_eq_one hh hpk hv
    obtain ⟨hbit, hroot, himg⟩ := signerChecks_eq_one hsig
    exact ⟨magic_of_wellFormed hm, hbit, by omega, hroot, himg, hsvn, hdig⟩
  -- DISCOVERY (R450, R523, R524)
  · intro d hd hlt hbad
    have hf : (List.range 7).find? (fun d => !(idGood d (ids.getD d 0))) = some d :=
      List.find?_range_eq_some.2 ⟨by rw [hbad]; rfl, List.mem_range.2 hd, fun j hj => by rw [hlt j hj]; rfl⟩
    exact ⟨_, answers_of_eq ((effDiscovery_reads h hi hp hr).trans (discoverDies_bad hf)), rfl, rfl⟩
  · intro hgood
    have hf : (List.range 7).find? (fun d => !(idGood d (ids.getD d 0))) = none :=
      List.find?_eq_none.2 fun d hd => by rw [hgood d (List.mem_range.1 hd)]; decide
    obtain ⟨hids, hpci, hflash, hencl, hdead, hboot⟩ := listsApplied_fields (s := idsRead ids (pgRead pg s)) (dev := dev) (dom := dom) (limit := limit)
    obtain ⟨ed2d, epci, eflash, epwr, eboot⟩ := discoverEncl_fields (s := listsApplied dev dom limit (idsRead ids (pgRead pg s))) certOk
    have he := (effDiscovery_reads (dev := dev) (dom := dom) (limit := limit) (certOk := certOk) h hi hp hr).trans (discoverDies_good hf)
    generalize discoverEncl certOk (listsApplied dev dom limit (idsRead ids (pgRead pg s))) = x at he ed2d epci eflash epwr eboot
    generalize listsApplied dev dom limit (idsRead ids (pgRead pg s)) = y at hids hpci hflash hencl hdead hboot ed2d epci eflash epwr eboot
    refine ⟨setStage 7 x, answers_of_eq he, rfl, ?_, ?_, fun hk => ?_, fun hk => ?_, ?_, ?_, ?_⟩
    · exact (congrArg D2d.ids ed2d).trans hids
    · refine (congrArg (fun p => p.conf.revision) epci).trans ((congrArg (fun p => p.conf.revision) hpci).trans ?_)
      exact revision_of_good hi (hgood 4 (by decide))
    · have hb := eboot.trans (hboot.trans (if_pos hk))
      exact ⟨congrArg Boot.device hb, congrArg Boot.domain hb⟩
    · have hb := eboot.trans (hboot.trans (if_neg hk))
      have hdev : x.boot.device = s.boot.device := congrArg Boot.device hb
      have hdom : x.boot.domain = s.boot.domain := congrArg Boot.domain hb
      exact ⟨hdev, hdom⟩
    · refine (congrArg Pci.ideRequired epci).trans ?_
      rw [hencl]
      rfl
    · exact eflash.trans hflash
    · exact (congrArg Power.deadRails epwr).trans hdead
  · obtain ⟨d, hd, hle, hlt, he⟩ := effRailWaitTimeout_low h hl
    exact ⟨d, hd, hle, hlt, answers_of_eq he⟩
  · exact answers_of_eq (effRailWaitTimeout_pg h hl hp)
  -- DIE_LINKS (R458, R465)
  · refine ⟨_, rfl, answers_of_eq (effDieLinks_joined h hw hs hc hn), fun hp => ?_, fun hp ha => ?_⟩
    · subst hp
      exact admitComp_absent
    · subst hp
      exact admitComp_refused ha
  · exact ⟨_, answers_of_eq (effDieLinks_cut h hw hs hc hn), rfl⟩
  -- HBM (R287, R298)
  · obtain ⟨hboot, hstack, hhbm, hflash⟩ := hbmTested_fields bad (stacksTrained res s)
    obtain ⟨st, he⟩ := stacksTrained_eq res s
    have hu := untrained_nil hg hl hall
    refine ⟨setStage 9 (hbmTested bad (stacksTrained res s)), answers_of_eq ((effHbm_eq h hl).trans (by rw [hu]; rfl)), rfl, ?_, ?_, fun k hk => ?_, ?_⟩
    · refine (congrArg Boot.hbmValid hboot).trans ?_
      rw [hu]
      rfl
    · rw [show (setStage 9 (hbmTested bad (stacksTrained res s))).hbm = (hbmTested bad (stacksTrained res s)).hbm from rfl, hhbm, he]
    · have hs : stackOf (setStage 9 (hbmTested bad (stacksTrained res s))) k = stackOf (stacksTrained res s) k :=
        congrArg (fun t => Tab.get Stack.reset t k) hstack
      rw [hs]
      exact (state_stacksTrained hg hl hk).1 (hall k hk)
    · refine hflash.trans ?_
      rw [he]
  · obtain ⟨hboot, hstack, -, -⟩ := hbmTested_fields bad (stacksTrained res s)
    obtain ⟨l, hu⟩ := untrained_cons hg hl hk hb hlt
    refine ⟨hbmTested bad (stacksTrained res s), answers_of_eq ((effHbm_eq h hl).trans (by rw [hu]; rfl)), ?_, ?_⟩
    · have hs : stackOf (hbmTested bad (stacksTrained res s)) k = stackOf (stacksTrained res s) k :=
        congrArg (fun t => Tab.get Stack.reset t k) hstack
      rw [hs]
      exact (state_stacksTrained hg hl hk).2 hb
    · rw [hboot]
      intro hm
      have hv := (List.mem_filter.1 hm).2
      rw [hu] at hv
      simp at hv
  -- SRAM (R339, R401, R525)
  · have he := effSram_eq bad h
    rw [show sramDone bad s = zeroMemories s from if_neg hk] at he
    obtain ⟨fb, hfb, hf⟩ := fibresAsked_spec (zeroMemories s)
    rw [hfb] at he
    refine ⟨_, answers_of_eq he, rfl, fun k => mem_zeroMemories s k, fun c => ?_, fun f hlt => ⟨fun h0 => ?_, fun h0 => ?_⟩⟩
    · have hc := clOf_zeroMemories s c
      exact ⟨congrArg Cluster.plates hc, congrArg Cluster.imem hc⟩
    · have hx : fibreAsked (fibreOf (zeroMemories s) f) = { fibreOf s f with enHigh := false, lowLow := false } := if_pos h0
      have hy := (hf f hlt).trans hx
      exact ⟨congrArg Fibre.enHigh hy, congrArg Fibre.lowLow hy⟩
    · exact (hf f hlt).trans (if_neg h0)
  · have he := effSram_eq [] h
    rw [show sramDone [] s = retryMovers [] s from if_pos hk] at he
    obtain ⟨fb, hfb, -⟩ := fibresAsked_spec (retryMovers [] s)
    rw [hfb] at he
    have hrecs := recs_retryMovers [] s
    have hgood := fun d hd => moverGood_retryMovers (bad := []) (d := d) hd rfl s
    generalize retryMovers [] s = x at he hrecs hgood
    exact ⟨_, answers_of_eq he, rfl, hrecs, hgood⟩
  · have he := effSram_eq [(5, d, item)] h
    rw [show sramDone [(5, d, item)] s = bistFail (5, d, item) (retryMovers [(5, d, item)] s) from if_pos hk, bistFail_mover hd] at he
    obtain ⟨fb, hfb, -⟩ := fibresAsked_spec (moverFailed d item (retryMovers [(5, d, item)] s))
    obtain ⟨hin, hst, hother⟩ := moverFailed_fields d item (retryMovers [(5, d, item)] s)
    have hrecs := recs_moverFailed d item [(5, d, item)] s
    have hgood : ∀ e, e < 4 → e ≠ d → MoverGood (moverFailed d item (retryMovers [(5, d, item)] s)) e := fun e he4 hne =>
      hother e hne (moverGood_retryMovers he4 (by simpa using fun hde => hne hde.symm) s)
    rw [hfb] at he
    generalize moverFailed d item (retryMovers [(5, d, item)] s) = x at he hin hst hgood hrecs
    exact ⟨_, moverRec d item, answers_of_eq he, rfl, hin, hgood, hst, hrecs, rfl, rfl, rfl⟩
  -- OPTICAL (R395, R526 to R528)
  · have hk := optKeeps_diesLit (up := up) (rts := rts) s
    refine ⟨_, answers_of_eq (effOptical_agrees h hc hf), rfl, fun t ht => ?_, fun q hq hm => ?_, fun q hq hm => ?_, fun d hd hr => ?_, ?_⟩
    · subst ht
      rfl
    · obtain ⟨t, full, hl⟩ := linkOf_diesLit (up := up) (rts := rts) s hq
      rw [linkOf_confirmId, linkOf_opticalLit, hl]
      exact linkLit_up hm
    · obtain ⟨t, full, hl⟩ := linkOf_diesLit (up := up) (rts := rts) s hq
      rw [linkOf_confirmId, linkOf_opticalLit, hl]
      exact linkLit_down hm
    · have hb := boot_opticalLit (up := up) (rts := rts) phase s
      have hsave := diesLit_saves (up := up) (rts := rts) hd hr
      rw [← hb] at hsave
      exact hsave
    · exact (congrArg Boot.idConflict (boot_opticalLit phase s)).trans hk.conflict
  · exact ⟨_, answers_of_eq (effOptical_conflict h hc hf), rfl⟩
  · exact ⟨combRec (diesDark s), (drawWord (diesDark s)).2, answers_of_eq (effCombLockTimeout_eq h hc), rfl, rfl, fun q hq => by
      rw [linkOf_drawWord]
      exact state_diesDark s hq⟩
  -- STORAGE (R308 to R310)
  · obtain ⟨hstp, hboot⟩ := storageEnd_fields (nvAllFound (stpUsed up flit speed width) found (stpTrained (stpUsed up flit speed width) speed width s))
    obtain ⟨o, c, hn⟩ := findsCtrl_nvAllFound (stpUsed up flit speed width) found (stpTrained (stpUsed up flit speed width) speed width s)
    refine ⟨_, stpUsed up flit speed width, answers_of_eq (effStorage_eq hs h), stpUsed_iff, ?_, ?_, ?_, ?_, fun n hlt => ?_⟩
    · rw [hstp, hn]
      rfl
    · rw [hstp, hn]
      rfl
    · rw [hstp, hn]
      rfl
    · rw [hboot, hn]
      rfl
    · rw [nvCtrl, hstp]
      exact present_nvAllFound hlt _
  -- READY (R530)
  · exact ⟨inService s, _, readyRec s, rfl, rfl, rfl, rfl, rfl, log_inService s, rfl, rfl, rfl, rfl, fun hw => answers_of_eq (effReady_free h hw),
      fun c hw => answers_of_eq (effReady_held h hw)⟩
  -- the commit of the image (R542)
  · rw [commitBit_svn hr hc hlt]
    exact ⟨rfl, rfl⟩
  · rw [commitBit_signer hr hc hle hn h1 h0 hlt]
    exact ⟨rfl, hc, rfl⟩
  · obtain ⟨kc, kf, kr⟩ := keepsFuses_endCommit s
    rw [commitBit_ends hr hc hle hall]
    refine ⟨kc, kf, kr, fun hb => ⟨commitRec s, commitDone s, endCommit_blown hb, rfl, rfl, rfl, rfl⟩, fun hb => ?_⟩
    rw [endCommit_plain hb]
    rfl

end Sys2Proof.Machine
end

section
/-! PROOF. Family 12 to 16: the boot record that an activation writes (R538). -/

namespace Sys2Proof.Machine

/-! ### Little-endian numbers and cleared bytes -/

theorem leNat_leBytes (n v : Nat) : leNat (leBytes n v) = v % 256 ^ n := by
  induction n generalizing v with
  | zero => simp [leBytes, leNat, Nat.mod_one]
  | succ n ih =>
    rw [leBytes, leNat, ih, BitVec.toNat_ofNat, show (2 : Nat) ^ 8 = 256 from rfl, Nat.pow_succ, Nat.mul_comm (256 ^ n), Nat.mod_mul]

/-- A listed byte outside a range. -/
def Mem.outside (lo hi : Nat) (c : Host.Cell) : Bool := decide (c.1 < lo) || decide (hi ≤ c.1)

theorem Mem.clear_eq (m : Mem) (lo hi : Nat) : m.clear lo hi = m.filter (Mem.outside lo hi) := rfl

theorem Mem.read_clear (m : Mem) (lo hi a : Nat) : (m.clear lo hi).read a = if lo ≤ a ∧ a < hi then 0 else m.read a := by
  induction m with
  | nil =>
    rw [show Mem.clear [] lo hi = [] from rfl, Mem.read, Mem.unlisted, ite_self]
  | cons c m ih =>
    rw [Mem.clear_eq] at ih
    by_cases hc : Mem.outside lo hi c = true
    · rw [Mem.clear_eq, List.filter_cons_of_pos (p := Mem.outside lo hi) hc, Mem.read, Mem.read, ih]
      simp only [Mem.outside, Bool.or_eq_true, decide_eq_true_eq] at hc
      by_cases ha : a = c.1
      · rw [if_pos ha, if_pos ha, if_neg (by omega)]
      · rw [if_neg ha, if_neg ha]
    · rw [Mem.clear_eq, List.filter_cons_of_neg (p := Mem.outside lo hi) hc, ih, Mem.read]
      simp only [Mem.outside, Bool.or_eq_true, decide_eq_true_eq] at hc
      by_cases ha : a = c.1
      · rw [if_pos (by omega), if_pos (by omega)]
      · rw [if_neg ha]

/-! ### A boot record read back (R538) -/

/-- "K4BR", the magic number of a boot record. -/
def bootMagic : List Byte := [0x4B, 0x34, 0x42, 0x52]

theorem length_bootMagic : bootMagic.length = 4 := rfl

/-- The record without its check. -/
def bootBody (seq active : Nat) : List Byte :=
  bootMagic ++ leBytes 4 seq ++ [BitVec.ofNat 8 active] ++ List.replicate 51 0

theorem bootRecord_eq (seq active : Nat) : bootRecord seq active = bootBody seq active ++ leBytes 4 (crc32c (bootBody seq active)).toNat := rfl

theorem length_bootBody (seq active : Nat) : (bootBody seq active).length = 60 := by
  simp [bootBody, bootMagic, leBytes_length]

theorem length_bootRecord (seq active : Nat) : (bootRecord seq active).length = 64 := by
  rw [bootRecord_eq, List.length_append, length_bootBody, leBytes_length]

/-- The record begins with its magic number, and SEQ follows. -/
theorem bootRecord_cons (seq active : Nat) : bootRecord seq active = bootMagic ++ (leBytes 4 seq ++ ([BitVec.ofNat 8 active]
    ++ (List.replicate 51 0 ++ leBytes 4 (crc32c (bootBody seq active)).toNat))) := by
  rw [bootRecord_eq, bootBody]
  simp only [List.append_assoc]

theorem bootSeq_bootRecord (seq active : Nat) : bootSeq (bootRecord seq active) = seq % 2 ^ 32 := by
  have h : ((bootRecord seq active).drop 4).take 4 = leBytes 4 seq := by
    rw [bootRecord_cons, List.drop_left' length_bootMagic, List.take_left' (leBytes_length 4 seq)]
  rw [bootSeq, h, leNat_leBytes, show (256 : Nat) ^ 4 = 2 ^ 32 from rfl]

theorem drop8_bootRecord (seq active : Nat) : (bootRecord seq active).drop 8 = [BitVec.ofNat 8 active]
    ++ (List.replicate 51 0 ++ leBytes 4 (crc32c (bootBody seq active)).toNat) := by
  rw [bootRecord_cons, ← List.append_assoc, List.drop_left' (by simp [bootMagic, leBytes_length])]

theorem region_bootRecord {seq active : Nat} (h : active < 2) : ((bootRecord seq active).getD 8 0).toNat = active := by
  have hd : (bootRecord seq active).getD 8 0 = ((bootRecord seq active).drop 8).getD 0 0 := by
    simp [List.getD_eq_getElem?_getD, List.getElem?_drop]
  rw [hd, drop8_bootRecord]
  simp only [List.cons_append, List.getD_cons_zero, BitVec.toNat_ofNat]
  omega

theorem bootValid_bootRecord {seq active : Nat} (h : active < 2) : bootValid (bootRecord seq active) = true := by
  have hmagic : (bootRecord seq active).take 4 = [0x4B, 0x34, 0x42, 0x52] := by
    exact (congrArg (List.take 4) (bootRecord_cons seq active)).trans (List.take_left' rfl)
  have hzero : ((bootRecord seq active).drop 9).take 51 = List.replicate 51 0 := by
    rw [show (9 : Nat) = 8 + 1 from rfl, ← List.drop_drop, drop8_bootRecord, List.drop_left' (List.length_singleton (a := BitVec.ofNat 8 active)), List.take_left' (List.length_replicate ..)]
  have hbody : (bootRecord seq active).take 60 = bootBody seq active := by
    rw [bootRecord_eq, List.take_left' (length_bootBody seq active)]
  have hcrc : ((bootRecord seq active).drop 60).take 4 = leBytes 4 (crc32c (bootBody seq active)).toNat := by
    rw [bootRecord_eq, List.drop_left' (length_bootBody seq active), List.take_of_length_le (Nat.le_of_eq (leBytes_length _ _))]
  have hck : BitVec.ofNat 32 (leNat (leBytes 4 (crc32c (bootBody seq active)).toNat)) = crc32c (bootBody seq active) := by
    rw [leNat_leBytes, show (256 : Nat) ^ 4 = 2 ^ 32 from rfl, Nat.mod_eq_of_lt (BitVec.isLt _), BitVec.ofNat_toNat, BitVec.setWidth_eq]
  rw [bootValid, hmagic, region_bootRecord h, hzero, hcrc, hbody, hck]
  simp [h]

/-! ### The region that an activation names (R538) -/

section
variable {s : State}

theorem region_lt_two {i : Nat} (h : bootValid (bootCopy s i) = true) : ((bootCopy s i).getD 8 0).toNat < 2 := by
  simp only [bootValid, Bool.and_eq_true, decide_eq_true_eq] at h
  exact h.1.1.2

theorem otherRegion_lt_two (s : State) : otherRegion s < 2 := by
  unfold otherRegion
  split <;> omega

/-- The bytes of a copy that a new record has overwritten, and of the other. -/
theorem bytes_writes_same {m : Mem} (hm : m.wf = true) (a : Nat) (bs : List Byte) : (m.writes a bs).bytes a bs.length = bs := by
  apply List.ext_getElem
  · simp [Mem.bytes]
  · intro n h1 h2
    simp only [Mem.bytes, List.getElem_map, List.getElem_range, Mem.read_writes hm]
    rw [if_pos (by omega), Nat.add_sub_cancel_left, List.getD_eq_getElem?_getD, List.getElem?_eq_getElem h2, Option.getD_some]

theorem bytes_writes_other {m : Mem} (hm : m.wf = true) {a b n : Nat} {bs : List Byte} (h : b + n ≤ a ∨ a + bs.length ≤ b) :
    (m.writes a bs).bytes b n = m.bytes b n := by
  refine List.map_congr_left fun i hi => ?_
  have := List.mem_range.1 hi
  rw [Mem.read_writes hm, if_neg (by omega)]

/-- After a new record the copy that it overwrote is in use. -/
theorem bootUsed_of_newer {t : State} {i : Nat} (hi : i < 2) (hv : bootValid (bootCopy t i) = true)
    (h : bootValid (bootCopy t (1 - i)) = true → bootSeq (bootCopy t (1 - i)) < bootSeq (bootCopy t i)) : bootUsed t = some i := by
  obtain rfl | rfl : i = 0 ∨ i = 1 := by omega
  · refine if_pos ?_
    simp only [Bool.and_eq_true, Bool.or_eq_true, Bool.not_eq_true', decide_eq_true_eq]
    refine ⟨hv, ?_⟩
    cases hb : bootValid (bootCopy t 1) with
    | false => exact .inl rfl
    | true => exact .inr (Nat.le_of_lt (h hb))
  · refine (if_neg ?_).trans (if_pos hv)
    simp only [Bool.and_eq_true, Bool.or_eq_true, Bool.not_eq_true', decide_eq_true_eq]
    rintro ⟨h0, hn | hle⟩
    · exact Bool.false_ne_true (hn.symm.trans hv)
    · exact absurd (h h0) (Nat.not_lt.2 hle)

theorem bootTarget_of_used {i : Nat} (hi : i < 2) (h : bootUsed s = some i) : bootTarget s = 1 - i := by
  rw [bootTarget, h]
  obtain rfl | rfl : i = 0 ∨ i = 1 := by omega
  all_goals rfl

/-- A new boot record names its region to the next start. -/
theorem bootRegion_writeBoot {i g : Nat} (h : bootUsed s = some i) (hseq : bootSeq (bootCopy s i) + 1 < 2 ^ 32) (hm : s.flash.bytes.wf = true)
    (hg : g < 2) : bootRegion (writeBoot g s) = some g := by
  obtain ⟨hi, hv, -⟩ := bootUsed_spec h
  have hbytes : (writeBoot g s).flash.bytes = s.flash.bytes.writes (0x1000 * (1 - i)) (bootRecord (bootSeq (bootCopy s i) + 1) g) := by
    simp only [writeBoot, h, bootTarget_of_used hi h, Nat.mod_eq_of_lt hseq]
  have hnew : bootCopy (writeBoot g s) (1 - i) = bootRecord (bootSeq (bootCopy s i) + 1) g := by
    have hb := bytes_writes_same hm (0x1000 * (1 - i)) (bootRecord (bootSeq (bootCopy s i) + 1) g)
    rw [length_bootRecord] at hb
    rw [bootCopy, hbytes, hb]
  have hold : bootCopy (writeBoot g s) i = bootCopy s i := by
    rw [bootCopy, hbytes, bytes_writes_other hm (by rw [length_bootRecord]; omega)]
    rfl
  have hu : bootUsed (writeBoot g s) = some (1 - i) := by
    refine bootUsed_of_newer (by omega) (by rw [hnew]; exact bootValid_bootRecord hg) fun _ => ?_
    rw [hnew, show 1 - (1 - i) = i by omega, hold, bootSeq_bootRecord, Nat.mod_eq_of_lt hseq]
    exact Nat.lt_succ_self _
  rw [bootRegion, hu, Option.map_some, hnew, region_bootRecord hg]

end

end Sys2Proof.Machine
end

section
/-! PROOF. Family 12 to 16: firmware updates, sensors, events and bindings (R544 to R546, R560 to R563): O58. -/

namespace Sys2Proof.Machine

section
variable {s : State} {b : Nat} (h : reaches s b = true)
include h

omit h in
theorem fst_fwVerify (g : Nat) (s : State) : (fwVerify g s).1 = verifyImage s g := by
  rw [fwVerify]

omit h in
theorem snd_fwVerify (g : Nat) (s : State) : (fwVerify g s).2 = record (verifyRec s g) s := by
  rw [fwVerify, verifyRec]

theorem onBinding_of_reaches (f : State → State) : onBinding b f s = f s := if_pos h

theorem halted_of_reaches : s.mgt.halted = false := by
  simp only [reaches, Bool.and_eq_true, Bool.not_eq_true'] at h
  exact h.1.2

/-! ### A firmware update (R544 to R546) -/

theorem effRequestUpdate_pcie (maxLen : Nat) (version : W32) (hb : b = 3) :
    effRequestUpdate b maxLen version s = answer b .unableToInitiate s :=
  (onBinding_of_reaches h _).trans (if_pos hb)

theorem effRequestUpdate_starting (maxLen : Nat) (version : W32) (hb : b ≠ 3) (hs : s.boot.starting = true) :
    effRequestUpdate b maxLen version s = answer b .retryUpdate s :=
  (onBinding_of_reaches h _).trans ((if_neg hb).trans (if_pos hs))

/-- What is recorded of a step of an update. -/
def fwRec (out d1 d2 : Nat) : RecIn :=
  { unit := 0x4FFE0001#32, cls := 0x0803, outcome := out, d1 := BitVec.ofNat 32 d1, d2 := BitVec.ofNat 32 d2 }

theorem effRequestUpdate_begins {maxLen : Nat} (version : W32) (hb : b ≠ 3) (hs : s.boot.starting = false) (hu : s.mgt.upd = none) (hl : 0 < maxLen) :
    effRequestUpdate b maxLen version s = answer b (.done []) (record (fwRec 1 version.toNat 0)
      (setMgt s { s.mgt with update := 1, upd := some ⟨b, 0, min 4096 maxLen, 0, version, false, false⟩ })) := by
  rw [effRequestUpdate, onBinding_of_reaches h, if_neg hb, if_neg (by rw [hs]; decide), if_neg (by rw [hu]; simp; omega)]
  rfl

section
variable {x : Upd} (hx : s.mgt.upd = some x)
include hx

/-- The state with the region erased that the boot record does not name. -/
def regionErased (x : Upd) (s : State) : State :=
  let base := 0x100000 + 0x1000000 * otherRegion s
  setMgt { s with flash := { s.flash with bytes := s.flash.bytes.clear base (base + 0x1000000) } } { s.mgt with upd := some x }

theorem effUpdateComponent_begins {size : Nat} (hb : x.binding = b) (hc : x.component = false) (h0 : 0 < size) (hs : size ≤ 0x1000000) :
    effUpdateComponent b size s = askPiece { x with size := size, component := true }
      (answer b (.done []) (regionErased { x with size := size, component := true } s)) := by
  rw [effUpdateComponent, onBinding_of_reaches h]
  simp only [hx]
  rw [if_neg (by rw [hb, hc]; simp; omega)]
  rfl

theorem effUpdateComponent_large {size : Nat} (hs : 0x1000000 < size) : effUpdateComponent b size s = answer b .refused s := by
  rw [effUpdateComponent, onBinding_of_reaches h]
  simp only [hx]
  rw [if_pos (.inr (.inr (.inr hs)))]

/-- The state with a piece written. -/
def pieceWritten (x : Upd) (data : List Byte) (s : State) : State :=
  { s with flash := { s.flash with bytes := s.flash.bytes.writes (0x100000 + 0x1000000 * otherRegion s + x.got) data } }

theorem effFirmwareData_eq {data : List Byte} (hb : x.binding = b) (hc : x.component = true) (hg : x.got < x.size)
    (hl : data.length = min x.piece (x.size - x.got)) : effFirmwareData b data s =
      if x.got + data.length = x.size then emit (.fwStep b 1 0)
        (setMgt (pieceWritten x data s) { s.mgt with update := 2, upd := some { x with got := x.got + data.length } })
      else askPiece { x with got := x.got + data.length }
        (setMgt (pieceWritten x data s) { s.mgt with upd := some { x with got := x.got + data.length } }) := by
  rw [effFirmwareData, onBinding_of_reaches h]
  simp only [hx]
  rw [if_neg (by rw [hb, hc, hl]; simp; omega)]
  rfl

/-- A verification reported to the update agent. -/
theorem effUpdateVerifyDone_eq (hc : x.component = true) (hg : x.got = x.size) (hv : x.verified = false) : effUpdateVerifyDone s =
    if (fwVerify (otherRegion s) s).1 = 1 then
      emit (.fwStep x.binding 3 0) (emit (.fwStep x.binding 2 1) (fwUpdate 2 (hVersion (imageBytes s (otherRegion s) 0 512)) 1
        (setMgt (fwVerify (otherRegion s) s).2 { s.mgt with upd := some { x with verified := true } })))
    else emit (.fwStep x.binding 2 (fwVerify (otherRegion s) s).1) (fwUpdate 5 (hVersion (imageBytes s (otherRegion s) 0 512))
        (fwVerify (otherRegion s) s).1 (setMgt (fwVerify (otherRegion s) s).2 { s.mgt with update := 0, upd := none })) := by
  have hh := halted_of_reaches h
  rw [effUpdateVerifyDone, hx]
  simp only []
  rw [if_neg (by rw [hc, hv, hh]; simp [hg])]

theorem effActivateFirmware_unverified (hv : x.verified = false) : effActivateFirmware b s = answer b .refused s := by
  rw [effActivateFirmware, onBinding_of_reaches h]
  simp only [hx]
  rw [if_pos (.inr (by rw [hv]; rfl))]

/-- The state with a new boot record, its activation answered and recorded. -/
def activated (b : Nat) (s : State) : State :=
  fwUpdate 3 (hVersion (imageBytes s (otherRegion s) 0 512)) 1
    (answer b (.done []) (writeBoot (otherRegion s) (setMgt s { s.mgt with update := 3, upd := none })))

omit h hx in
/-- A new boot record changes the boot flash alone. -/
theorem writeBoot_eq (g : Nat) (s : State) : ∃ m, writeBoot g s = { s with flash := { s.flash with bytes := m } } := ⟨_, rfl⟩

omit h hx in
theorem activated_fields (b : Nat) (s : State) : (activated b s).boot = s.boot ∧ (activated b s).mgt = { s.mgt with update := 3, upd := none }
    ∧ (activated b s).out = .answer b (.done []) :: s.out
    ∧ (activated b s).flash = (writeBoot (otherRegion s) (setMgt s { s.mgt with update := 3, upd := none })).flash := by
  obtain ⟨m, hm⟩ := writeBoot_eq (otherRegion s) (setMgt s { s.mgt with update := 3, upd := none })
  rw [activated, hm]
  exact ⟨rfl, rfl, rfl, rfl⟩

omit h hx in
theorem bootRegion_congr {s t : State} (h : t.flash = s.flash) : bootRegion t = bootRegion s := by
  have hc : bootCopy t = bootCopy s := by
    funext i
    rw [bootCopy, bootCopy, h]
  rw [bootRegion, bootRegion, bootUsed, bootUsed, hc]

theorem effActivateFirmware_verified (hb : x.binding = b) (hv : x.verified = true) : effActivateFirmware b s =
    if (activated b s).boot.recovery then coldStart 7 (record { unit := unitYuton, cls := 0x0705, outcome := 1 } (activated b s)) else activated b s := by
  rw [effActivateFirmware, onBinding_of_reaches h]
  simp only [hx]
  rw [if_neg (by rw [hb, hv]; simp)]
  rfl

end

/-! ### What the agent asks (R544, R562) -/

theorem effGetFirmwareParameters_eq {g : Nat} (hb : b ≠ 3) (hg : bootRegion s = some g) : effGetFirmwareParameters b s
    = answer b (.done (leBytes 4 (hVersion (imageBytes s g 0 512))
        ++ (if s.mgt.update = 3 then leBytes 4 (hVersion (imageBytes s (1 - g) 0 512)) else []))) s := by
  rw [effGetFirmwareParameters, onBinding_of_reaches h, if_neg hb]
  simp only [hg, Option.getD_some]

theorem effQueryDeviceIdentifiers_eq (hb : b ≠ 3) (hv : s.pci.conf.vendor = 0x1F6A) (hd : s.pci.conf.device = 0x4864) :
    effQueryDeviceIdentifiers b s = answer b (.done ([0x6A, 0x1F, 0x64, 0x48] ++ leBytes 8 (fld (s.d2d.ids.get 0 4) 0 64))) s := by
  rw [effQueryDeviceIdentifiers, onBinding_of_reaches h, if_neg hb, hv, hd]
  rfl

theorem effGetPdrRepositoryInfo_eq : effGetPdrRepositoryInfo b s = answer b (.done [34, 0]) s := by
  rw [effGetPdrRepositoryInfo, onBinding_of_reaches h]
  have hl : (sensors s).length = 34 := by simp [sensors]
  rw [hl]
  rfl

theorem effGetPdr_eq {n : Nat} {x : Sensor} (hx : (sensors s)[n]? = some x) : effGetPdr b (n + 1) s
    = answer b (.done (leBytes 2 x.1 ++ [BitVec.ofNat 8 (b2n x.2.1)] ++ (x.2.2.map (fun t => leBytes 2 (BitVec.ofInt 16 t).toNat)).flatten)) s := by
  rw [effGetPdr, onBinding_of_reaches h, if_neg (Nat.succ_ne_zero n), Nat.add_sub_cancel, hx]

omit h in
theorem readSensor_eq {id : Nat} {state : Bool} {th : List Int} (hx : (id, state, th) ∈ sensors s) :
    readSensor b id state s = answer b (.done (leBytes 4 (BitVec.ofInt 32 (s.mgt.readings.get 0 id)).toNat)) s :=
  if_pos (List.any_eq_true.2 ⟨_, hx, by simp⟩)

omit h in
theorem length_thresholds (l : List Int) : ((l.map (fun t => leBytes 2 (BitVec.ofInt 16 t).toNat)).flatten).length = 2 * l.length := by
  induction l with
  | nil => rfl
  | cons t l ih =>
    rw [List.map_cons, List.flatten_cons, List.length_append, ih, leBytes_length, List.length_cons]
    omega

/-! ### Events (R563) -/

section
variable {r : Rec} {rest : List Rec} (hr : s.recs.bmc = r :: rest)
include hr

omit h in
/-- With delivery under way and none in flight the oldest record is sent. -/
theorem pushEvent_sends (ha : s.mgt.async = true) (hh : s.mgt.halted = false) (hi : s.mgt.inFlight = none) :
    pushEvent s = sendEvent r (setMgt s { s.mgt with inFlight := some r.seq, tries := 0 }) := by
  rw [pushEvent, if_neg (by rw [ha, hh, hi]; decide), hr]

theorem effSetEventReceiver_eq : effSetEventReceiver b s = sendEvent r (setMgt
      (answer b (.done []) (setMgt s { s.mgt with async := true, events := b, inFlight := none, tries := 0 }))
      { s.mgt with async := true, events := b, inFlight := some r.seq, tries := 0 }) := by
  rw [effSetEventReceiver, onBinding_of_reaches h]
  exact pushEvent_sends hr rfl (halted_of_reaches h) rfl

theorem effPlatformEventResponse_last (hl : rest = []) (hi : s.mgt.inFlight = some r.seq) (he : s.mgt.events = b) :
    effPlatformEventResponse b s = takeBmc r.seq (setMgt s { s.mgt with inFlight := none, tries := 0 })
    ∧ (takeBmc r.seq (setMgt s { s.mgt with inFlight := none, tries := 0 })).recs.bmc = [] := by
  have hb : (takeBmc r.seq (setMgt s { s.mgt with inFlight := none, tries := 0 })).recs.bmc = [] := by
    have he : (takeBmc r.seq (setMgt s { s.mgt with inFlight := none, tries := 0 })).recs.bmc = s.recs.bmc.filter (fun x => decide (x.seq ≠ r.seq)) := rfl
    rw [he, hr, hl]
    simp
  refine ⟨?_, hb⟩
  rw [effPlatformEventResponse, hi]
  have hc : (reaches s b && decide (b = s.mgt.events)) = true := by
    rw [h, he]
    simp
  simp only [hc, if_true]
  generalize takeBmc r.seq _ = u at hb
  rw [pushEvent, hb]
  exact ite_self _

theorem effPollForPlatformEventMessage_eq (ha : s.mgt.async = false) (he : s.mgt.events = 0 ∨ s.mgt.events = b) :
    effPollForPlatformEventMessage b s = answer b (.done (0xFA#8 :: recBytes r)) { s with recs := { s.recs with bmc := rest } } := by
  rw [effPollForPlatformEventMessage, onBinding_of_reaches h, if_neg (by rw [ha]; simp; omega), hr]

omit h in
theorem effPlatformEventTimeout_again (hi : s.mgt.inFlight = some r.seq) (ht : s.mgt.tries ≠ 3) :
    effPlatformEventTimeout s = sendEvent r (setMgt s { s.mgt with tries := s.mgt.tries + 1 }) := by
  have hf : s.recs.bmc.find? (fun x => decide (x.seq = r.seq)) = some r := by
    rw [hr]
    simp
  rw [effPlatformEventTimeout, hi]
  simp only [ht, if_false, hf]

end

end

/-- What is recorded of a binding. -/
def bindRec (out eid : Nat) : RecIn := { unit := unitYuton, cls := 0x0808, outcome := out, d1 := BitVec.ofNat 32 eid }

section
variable {s : State}

theorem effPlatformEventTimeout_polls {q : W32} (hi : s.mgt.inFlight = some q) (ht : s.mgt.tries = 3) :
    effPlatformEventTimeout s = record (bindRec 3 (if s.mgt.events = 3 then s.mgt.eidPcie else s.mgt.eid))
      (setMgt s { s.mgt with async := false, inFlight := none, tries := 0 }) := by
  rw [effPlatformEventTimeout, hi]
  simp only [ht, if_true]
  rfl

/-! ### Readings (R562) -/

/-- A list of readings gives each sensor its own. -/
theorem Tab.get_map_key {α : Type} (g : Nat → Int) (key : α → Nat) (l : List α) {x : α} (hx : x ∈ l) :
    Tab.get (0 : Int) (l.map (fun y => (key y, g (key y)))) (key x) = g (key x) := by
  induction l with
  | nil => cases hx
  | cons y l ih =>
    rw [List.map_cons, Tab.get]
    split
    next he => rw [he]
    next hn => exact ih ((List.mem_cons.1 hx).resolve_left fun he => hn (by rw [he]))

/-- Only the reading of die 7 is free. -/
theorem readingNow_free {n : Nat} {v : Int} {id : Nat} (h : id ≠ 0x17) : readingNow { s with free := n } v id = readingNow s 0 id := by
  rw [readingNow, readingNow, if_neg h, if_neg h]
  rfl

/-- The state with the sensors refreshed. -/
def refreshed (s : State) : State :=
  setMgt (drawWord s).2 { s.mgt with
    readings := (sensors s).map (fun x => (x.1, readingNow { s with free := s.free + 1 } (signedOf 8 (drawWord s).1.toNat) x.1)) }

theorem effSensorRefresh_eq (hp : s.pwr.aoPwrGd = true) (hh : s.mgt.halted = false) : effSensorRefresh s = refreshed s := by
  rw [effSensorRefresh, if_neg (by rw [hp, hh]; decide)]
  rfl

theorem reading_refreshed {x : Sensor} (hx : x ∈ sensors s) (hn : x.1 ≠ 0x17) : (refreshed s).mgt.readings.get 0 x.1 = readingNow s 0 x.1 :=
  (Tab.get_map_key (fun id => readingNow { s with free := s.free + 1 } (signedOf 8 (drawWord s).1.toNat) id) (fun y : Sensor => y.1) _ hx).trans
    (readingNow_free hn)

theorem sensor_power (s : State) : (0x30, false, [(profileWatts s.pwr.profile : Int)]) ∈ sensors s := by
  simp [sensors]

theorem sensor_sag (s : State) : (0x41, true, []) ∈ sensors s := by
  simp only [sensors, List.mem_append, List.mem_map, List.mem_range]
  exact .inl (.inr ⟨1, by decide, rfl⟩)

/-! ### Bindings (R560) -/

theorem effI3cAddressAssign_new {a : Nat} (hp : s.pwr.aoPwrGd = true) (hb : s.mgt.binding ≠ 1) :
    effI3cAddressAssign a s = record (bindRec 1 0) (setMgt s { s.mgt with i3c := true, addr := a % 128, binding := 1, eid := 0 }) := by
  have hn : (setMgt s { s.mgt with i3c := true, addr := a % 128 }).mgt.binding ≠ 1 := hb
  rw [effI3cAddressAssign, if_neg (by rw [hp]; decide), setBinding, if_neg hn]
  rfl

theorem effI3cBusReset_eq (hp : s.pwr.aoPwrGd = true) (hi : s.mgt.i3c = true) (hb : s.mgt.binding = 1) :
    effI3cBusReset s = record (bindRec 2 0) (setMgt s { s.mgt with i3c := false, addr := 0, binding := 2, eid := 0 }) := by
  have hn : (setMgt s { s.mgt with i3c := false, addr := 0 }).mgt.binding ≠ 2 := by
    rw [show (setMgt s { s.mgt with i3c := false, addr := 0 }).mgt.binding = s.mgt.binding from rfl, hb]
    decide
  rw [effI3cBusReset, if_neg (by rw [hp, hi]; decide), setBinding, if_neg hn]
  rfl

theorem effSetEndpointId_pcie {eid : Nat} (h : reaches s 3 = true) :
    effSetEndpointId 3 eid s = answer 3 (.done []) (setMgt s { s.mgt with vdm := true, eidPcie := eid % 256 }) :=
  onBinding_of_reaches h _

theorem effSetEndpointId_i3c {eid : Nat} (h : reaches s 1 = true) (hb : s.mgt.binding = 1) :
    effSetEndpointId 1 eid s = answer 1 (.done []) (setMgt s { s.mgt with eid := eid % 256 }) := by
  rw [effSetEndpointId, onBinding_of_reaches h, if_neg (by decide), setBinding, if_pos hb]

end

/-- Settles O58: each clause is the lemma about its message, in the order of the statement. -/
theorem updatesSensorsAndEventsAnswer : Obligations.UpdatesSensorsAndEventsAnswer := by
  refine ⟨fun s b maxLen version h => ⟨fun hb => answers_of_eq (effRequestUpdate_pcie h maxLen version hb),
      fun hb hs => answers_of_eq (effRequestUpdate_starting h maxLen version hb hs), fun hb hs hu hl => ?_⟩,
    fun s b size base x h hx hb hbase => ⟨fun hc h0 hs => ?_, fun hs => answers_of_eq (effUpdateComponent_large h hx hs),
      fun data hc hg hl => ?_, fun hc hg hv => ?_, fun hv => answers_of_eq (effActivateFirmware_unverified h hx hv), fun hv hr => ?_, fun hv hr => ?_⟩,
    fun s b g h hb => ⟨fun hg => answers_of_eq (effGetFirmwareParameters_eq h hb hg),
      fun hv hd => answers_of_eq (effQueryDeviceIdentifiers_eq h hb hv hd)⟩,
    fun s b h => ⟨answers_of_eq (effGetPdrRepositoryInfo_eq h), fun n x hx => ⟨_, answers_of_eq (effGetPdr_eq h hx), length_thresholds _⟩,
      fun id th hx => answers_of_eq ((onBinding_of_reaches h _).trans (readSensor_eq hx)),
      fun id th hx => answers_of_eq ((onBinding_of_reaches h _).trans (readSensor_eq hx)),
      answers_of_eq (onBinding_of_reaches h _), ?_⟩,
    fun s hp hh => ⟨refreshed s, answers_of_eq (effSensorRefresh_eq hp hh), rfl, fun x hx hn => reading_refreshed hx hn,
      reading_refreshed (sensor_power s) (show (0x30 : Nat) ≠ 0x17 by decide), reading_refreshed (sensor_sag s) (show (0x41 : Nat) ≠ 0x17 by decide)⟩,
    fun s b r rest h hr => ⟨⟨_, answers_of_eq (effSetEventReceiver_eq h hr), rfl, rfl, rfl⟩, fun hl hi he => ?_,
      fun ha he => ⟨_, answers_of_eq (effPollForPlatformEventMessage_eq h hr ha he), rfl, rfl⟩,
      fun hi ht => ⟨_, answers_of_eq (effPlatformEventTimeout_again hr hi ht), rfl, rfl⟩,
      fun hi ht => ⟨_, _, answers_of_eq (effPlatformEventTimeout_polls hi ht), rfl, rfl, rfl, rfl⟩⟩,
    fun s a eid hp hh => ⟨fun hb => ⟨bindRec 1 0, _, answers_of_eq (effI3cAddressAssign_new hp hb), rfl, rfl, rfl, rfl⟩,
      fun hi hb => ⟨bindRec 2 0, _, answers_of_eq (effI3cBusReset_eq hp hi hb), rfl, rfl, rfl, rfl⟩,
      fun hl => answers_of_eq (effSetEndpointId_pcie (by simp [reaches, hp, hh, hl])),
      fun hi hb => answers_of_eq (effSetEndpointId_i3c (by simp [reaches, hp, hh, hi]) hb)⟩⟩
  -- a request for an update, and its component
  · exact ⟨fwRec 1 version.toNat 0, _, answers_of_eq (effRequestUpdate_begins h version hb hs hu hl), rfl, rfl, rfl, rfl, by simp [fwRec]⟩
  · subst hbase hb
    refine ⟨_, answers_of_eq (effUpdateComponent_begins h hx rfl hc h0 hs), rfl, rfl, fun a h1 h2 => ?_, fun a ha => ?_⟩
    · exact (Mem.read_clear _ _ _ _).trans (if_pos ⟨h1, h2⟩)
    · exact (Mem.read_clear _ _ _ _).trans (if_neg (by omega))
  -- a piece of it
  · subst hbase hb
    have he := effFirmwareData_eq h hx rfl hc hg hl
    by_cases hd : x.got + data.length = x.size
    · rw [if_pos hd] at he
      exact ⟨_, answers_of_eq he, rfl, fun _ => ⟨rfl, rfl⟩, fun hn => absurd hd hn⟩
    · rw [if_neg hd] at he
      exact ⟨_, answers_of_eq he, rfl, fun hn => absurd hn hd, fun _ => rfl⟩
  -- its verification
  · subst hb
    have he := effUpdateVerifyDone_eq h hx hc hg hv
    rw [fst_fwVerify, snd_fwVerify] at he
    by_cases h1 : verifyImage s (otherRegion s) = 1
    · rw [if_pos h1] at he
      exact ⟨_, answers_of_eq he, rfl, fun _ => ⟨rfl, rfl⟩, fun hn => absurd h1 hn⟩
    · rw [if_neg h1] at he
      exact ⟨_, answers_of_eq he, rfl, fun hn => absurd hn h1, fun _ => ⟨rfl, rfl, rfl⟩⟩
  -- its activation
  · have he := effActivateFirmware_verified h hx hb hv
    obtain ⟨hboot, hmgt, hout, hflash⟩ := activated_fields b s
    rw [hboot, hr, if_neg Bool.false_ne_true] at he
    refine ⟨activated b s, answers_of_eq he, by rw [hmgt], by rw [hmgt], hboot, hout, fun i hu hseq hm => ?_⟩
    rw [bootRegion_congr hflash]
    exact bootRegion_writeBoot (s := setMgt s { s.mgt with update := 3, upd := none }) hu hseq hm (otherRegion_lt_two s)
  · have he := effActivateFirmware_verified h hx hb hv
    obtain ⟨hboot, hmgt, -, -⟩ := activated_fields b s
    rw [hboot, hr, if_pos rfl] at he
    exact ⟨activated b s, _, answers_of_eq he, rfl, rfl, by rw [hmgt]⟩
  -- the size of a message, and a response
  · exact ⟨(drawBytes 2 s).1, _, answers_of_eq (onBinding_of_reaches h _), rfl, rfl, rfl⟩
  · obtain ⟨he', hnil⟩ := effPlatformEventResponse_last h hr hl hi he
    exact ⟨_, answers_of_eq he', hnil, rfl, rfl, rfl⟩

end Sys2Proof.Machine
end

section
/-! PROOF. Family 12 to 16: attestation, key management of the link, tokens, zeroisation, tests, the ALIAS_CERT_ISSUE certificate and the debug
port (R487, R549 to R561): O59. -/

namespace Sys2Proof.Machine

section
variable {s : State} {b : Nat}

/-! ### SPDM (R549 to R551, R554, R555) -/

section
variable (h : reaches s b = true)
include h

theorem spdm_error (f : State → State) (he : s.encl.state = 3) : spdm b f s = answer b .unspecified s :=
  (onBinding_of_reaches h _).trans (if_pos he)

theorem spdm_runs (f : State → State) (he : s.encl.state ≠ 3) : spdm b f s = f s :=
  (onBinding_of_reaches h _).trans (if_neg he)

theorem spdmCert_error (f : State → State) (he : s.encl.state = 3) : spdmCert b f s = answer b .unspecified s := spdm_error h _ he

omit h in
theorem effChallenge_eq (b : Nat) (s : State) : effChallenge b s = spdmSigned b (fun s => answer b (.signed []) s) s := rfl

omit h in
/-- Signed measurements need what a signed answer needs. -/
theorem effGetMeasurements_eq (b idx : Nat) (s : State) : ∃ f, effGetMeasurements b idx true s = spdmSigned b f s := by
  rw [effGetMeasurements]
  exact ⟨_, if_pos rfl⟩

section
variable (he : s.encl.state ≠ 3)
include he


theorem spdmCert_debug (f : State → State) (hd : s.encl.debug = 2) : spdmCert b f s = answer b .unspecified s :=
  (spdm_runs h _ he).trans (if_pos hd)

theorem spdmSigned_debug (f : State → State) (hd : s.encl.debug = 2) : spdmSigned b f s = answer b .unspecified s :=
  spdmCert_debug h he _ hd

section
variable (hd : s.encl.debug ≠ 2) (hu : s.encl.udsBlown = false) (hi : s.encl.identityBad = false)
include hd hu hi

theorem spdmCert_keyed (f : State → State) : spdmCert b f s = if !s.encl.aliasReady then answer b .busy s else f s :=
  (spdm_runs h _ he).trans ((if_neg hd).trans (if_neg (by rw [hu, hi]; decide)))

theorem spdmCert_busy (f : State → State) (ha : s.encl.aliasReady = false) : spdmCert b f s = answer b .busy s :=
  (spdmCert_keyed h he hd hu hi f).trans (if_pos (by rw [ha]; rfl))

theorem spdmCert_runs (f : State → State) (ha : s.encl.aliasReady = true) : spdmCert b f s = f s :=
  (spdmCert_keyed h he hd hu hi f).trans (if_neg (by rw [ha]; decide))

theorem spdmSigned_unready (f : State → State) (ha : s.encl.aliasReady = false) : spdmSigned b f s = answer b .busy s :=
  spdmCert_busy h he hd hu hi _ ha

theorem spdmSigned_busy (f : State → State) (ha : s.encl.aliasReady = true) (hk : s.encl.aliasKey = false) :
    spdmSigned b f s = answer b .busy s :=
  (spdmCert_runs h he hd hu hi _ ha).trans (if_pos (by rw [hk]; rfl))

theorem spdmSigned_runs (f : State → State) (ha : s.encl.aliasReady = true) (hk : s.encl.aliasKey = true) : spdmSigned b f s = f s :=
  (spdmCert_runs h he hd hu hi _ ha).trans (if_neg (by rw [hk]; decide))

end

theorem effGetMeasurements_plain {idx : Nat} (h1 : 1 ≤ idx) (h7 : idx ≤ 7) :
    effGetMeasurements b idx false s = answer b (.done (measurement s idx)) s := by
  rw [effGetMeasurements, if_neg Bool.false_ne_true, spdm_runs h _ he]
  simp only [if_neg (show idx ≠ 0 by omega), if_pos (show idx < 8 by omega), Bool.false_eq_true, if_false]

theorem effGetMeasurements_signed {idx : Nat} (hd : s.encl.debug ≠ 2) (hu : s.encl.udsBlown = false) (hi : s.encl.identityBad = false)
    (ha : s.encl.aliasReady = true) (hk : s.encl.aliasKey = true) (h1 : 1 ≤ idx) (h7 : idx ≤ 7) :
    effGetMeasurements b idx true s = answer b (.signed (measurement s idx)) s := by
  rw [effGetMeasurements, if_pos rfl, spdmSigned_runs h he hd hu hi _ ha hk]
  simp only [if_neg (show idx ≠ 0 by omega), if_pos (show idx < 8 by omega), if_true]

theorem effKeyExchange_full (sid : Nat) (hl : 4 ≤ s.encl.sessions.length) : effKeyExchange b sid s = answer b .busy s :=
  (spdm_runs h _ he).trans (if_pos (.inl hl))

theorem effKeyExchange_opens {sid : Nat} (hl : s.encl.sessions.length < 4) (hk : s.encl.aliasKey = true) (hs : ∀ y ∈ s.encl.sessions, y.1 ≠ sid) :
    effKeyExchange b sid s = answer b (.signed []) (setEncl s { s.encl with sessions := s.encl.sessions ++ [(sid, b)] }) := by
  have ha : s.encl.sessions.any (fun x => decide (x.1 = sid)) = false := List.any_eq_false.2 fun y hy => by simpa using hs y hy
  refine (spdm_runs h _ he).trans (if_neg ?_)
  rw [ha, hk]
  simp
  omega

theorem effEndSession_ends {sid : Nat} (hm : (sid, b) ∈ s.encl.sessions) :
    effEndSession b sid s = answer b (.done []) (setEncl s { s.encl with sessions := s.encl.sessions.erase (sid, b) }) :=
  (spdm_runs h _ he).trans (if_pos (List.contains_iff_mem.2 hm))

end

end

/-- The certificate of the chain is of the present measurements when they are cached, and a cached one when one is. -/
theorem certNow_spec (s : State) : (measNow s ∈ s.encl.certs → certNow s = measNow s) ∧ (s.encl.certs ≠ [] → certNow s ∈ s.encl.certs) := by
  refine ⟨fun hm => if_pos (List.contains_iff_mem.2 hm), fun hn => ?_⟩
  rw [certNow]
  split
  next hc => exact List.contains_iff_mem.1 hc
  next => rw [List.getLastD_eq_getLast?, List.getLast?_eq_some_getLast hn]; exact List.getLast_mem hn

/-! ### The keys of the link (R551) -/

section
variable {sid : Nat} (h : reaches s 3 = true) (he : s.encl.state ≠ 3) (hu : s.encl.udsBlown = false)
include h he

theorem ideKm_refused (f : State → State) (hm : (sid, 3) ∉ s.encl.sessions) : ideKm sid f s = answer 3 .refused s :=
  (spdm_runs h _ he).trans (if_neg fun hc => hm (List.contains_iff_mem.1 hc.1))

include hu

theorem ideKm_runs (f : State → State) (hm : (sid, 3) ∈ s.encl.sessions) : ideKm sid f s = f s :=
  (spdm_runs h _ he).trans (if_pos ⟨List.contains_iff_mem.2 hm, by rw [hu]; rfl⟩)

/-- The state with a key set installed. -/
def keyInstalled (strm set : Nat) (s : State) : State :=
  let u := setEncl s { s.encl with ideSets := if s.encl.ideSets.contains set then s.encl.ideSets else s.encl.ideSets ++ [set] }
  { u with pci := { u.pci with ideStream := strm % 256, ideState := if u.pci.ideState = 0 then 1 else u.pci.ideState } }

theorem effKeyProg_eq {strm set : Nat} (hm : (sid, 3) ∈ s.encl.sessions) (hs : set < 2) :
    effKeyProg sid strm set s = answer 3 (.done []) (keyInstalled strm set s) :=
  (ideKm_runs h he hu _ hm).trans (if_neg (by omega))

omit h he hu in
theorem mem_keyInstalled (strm set : Nat) (s : State) : set ∈ (keyInstalled strm set s).encl.ideSets := by
  have hi : (keyInstalled strm set s).encl.ideSets = if s.encl.ideSets.contains set then s.encl.ideSets else s.encl.ideSets ++ [set] := rfl
  rw [hi]
  split
  next hc => exact List.contains_iff_mem.1 hc
  next => exact List.mem_append_right _ (List.mem_singleton.2 rfl)

/-- What is recorded of the security of the link. -/
def ideRec (out : Nat) (s : State) : RecIn :=
  { unit := 0x4FFC0000#32, cls := 0x0801, outcome := out, d1 := BitVec.ofNat 32 s.pci.ideStream }

theorem effKSetGo_eq {set : Nat} (hm : (sid, 3) ∈ s.encl.sessions) (hs : set ∈ s.encl.ideSets) : effKSetGo sid set s
    = answer 3 (.done []) (resumeHost (record (ideRec 2 s) { s with pci := { s.pci with ideState := 2, ideBlocked := false } })) :=
  (ideKm_runs h he hu _ hm).trans (if_neg (by rw [List.contains_iff_mem.2 hs]; decide))

theorem effKSetStop_eq (hm : (sid, 3) ∈ s.encl.sessions) (hs : s.pci.ideState = 2) : effKSetStop sid s
    = answer 3 (.done []) (record (ideRec 3 s) { s with pci := { s.pci with ideState := 1 } }) :=
  (ideKm_runs h he hu _ hm).trans (if_neg (not_not_intro hs))

end

/-! ### Tokens (R557 to R559) -/

section
variable {t : List Byte}

/-- The checks of a signer never answer 0. -/
theorem signerChecks_ne_zero (revoked : W16) (id : Nat) (pk sig1 msg sig2 : List Byte) : signerChecks revoked id pk sig1 msg sig2 ≠ 0 := by
  rw [signerChecks]
  refine ite_of (P := (· ≠ 0)) (by decide) (ite_of (P := (· ≠ 0)) (by decide) (ite_of (P := (· ≠ 0)) (by decide) (by decide)))

/-- A token that passes has passed every check. -/
theorem tokenCheck_eq_zero (h0 : tokenCheck s b t = 0) : t.length = 0xE980
    ∧ signerChecks s.encl.revoked (hField (t.take 128) 6 1) ((t.drop 0x80).take 64) ((t.drop 0xC0).take 29792) (t.take 128)
        ((t.drop 0x7520).take 29792) = 1
    ∧ hField (t.take 128) 8 8 = fld (s.d2d.ids.get 0 4) 0 64 ∧ ((t.take 128).drop 16).take 32 = s.encl.challenge
    ∧ (hField (t.take 128) 4 1 = 1 → hField (t.take 128) 5 1 ≤ hDebugMax s.encl.header) ∧ (hField (t.take 128) 4 1 = 2 → b ≠ 3) := by
  simp only [tokenCheck] at h0
  split at h0
  · cases h0
  next h1 =>
    obtain ⟨hlen, -⟩ := not_or.1 h1
    split at h0
    next h2 => exact absurd h0 (signerChecks_ne_zero _ _ _ _ _ _)
    next h2 =>
      split at h0
      · cases h0
      next h3 =>
        obtain ⟨hser, hch⟩ := not_or.1 h3
        split at h0
        · cases h0
        next h4 =>
          split at h0
          · cases h0
          next h5 =>
            exact ⟨Decidable.not_not.1 hlen, Decidable.not_not.1 h2, Decidable.not_not.1 hser, Decidable.not_not.1 hch,
              fun hk => Nat.le_of_not_lt fun hlt => h4 ⟨hk, .inl hlt⟩, fun hk hb => h5 ⟨hk, hb⟩⟩

theorem effSubmitToken_refused (h : reaches s b = true) (h0 : tokenCheck s b t ≠ 0) :
    effSubmitToken b t s = answer b (.code (tokenCheck s b t)) (newChallenge (debugRec 0xF (tokenCheck s b t) s)) := by
  rw [effSubmitToken, onBinding_of_reaches h]
  simp only [h0, ne_eq, not_false_eq_true, if_true]

/-- What an accepted token does. -/
def tokenDone (t : List Byte) (s : State) : State :=
  if hField t 4 1 = 1 then debugRec (raiseDebug (hField t 5 1) s).encl.debug 0 (raiseDebug (hField t 5 1) s) else decommission s

theorem effSubmitToken_accepted (h : reaches s b = true) (h0 : tokenCheck s b t = 0) :
    effSubmitToken b t s = answer b (.code 0) (newChallenge (tokenDone t s)) := by
  rw [effSubmitToken, onBinding_of_reaches h]
  simp only [h0, ne_eq, not_true_eq_false, if_false, tokenDone]

end

/-- A search for a certificate leaves the debug level. -/
theorem debug_seekAlias (s : State) : (seekAlias s).encl.debug = s.encl.debug := by
  have hf : (findAlias s).encl.debug = s.encl.debug := by
    rw [findAlias]
    exact ite_of (P := fun v : State => v.encl.debug = s.encl.debug) ((congrArg Encl.debug (encl_aliasRec 2 _)).trans rfl) rfl
  rw [seekAlias]
  exact ite_of (P := fun v : State => v.encl.debug = s.encl.debug) hf hf

/-! ### Zeroisation and tests (R553, R554, R557) -/

/-- What is recorded of a zeroisation. -/
def zeroRec (trigger : Nat) : RecIn := { unit := 0x4FFE0000#32, cls := 0x0806, outcome := 1, d1 := BitVec.ofNat 32 trigger }

theorem zeroise_eq (n : Nat) (s : State) : zeroise n s = record (zeroRec n) (dropKeys (decide (n = 3 ∨ n = 4)) s) := rfl

/-- The state with every key dropped. -/
def keysDropped (insecure : Bool) (s : State) : State :=
  { s with
    encl := { s.encl with idKey := false, aliasKey := false, idSeed := [], aliasSeed := [], sessions := [], ideSets := [], signing := [] }
    pci := { s.pci with ideState := if s.pci.ideState = 0 then 0 else if insecure || decide (s.pci.ideState = 3) then 3 else 0 } }

theorem dropKeys_eq (insecure : Bool) (s : State) :
    dropKeys insecure s = if s.pci.ideState = 2 then linkSecurity 3 (keysDropped insecure s) else keysDropped insecure s := rfl

theorem dropKeys_fields (insecure : Bool) (s : State) : (dropKeys insecure s).encl = (keysDropped insecure s).encl
    ∧ (dropKeys insecure s).pci = (keysDropped insecure s).pci := by
  rw [dropKeys_eq]
  split <;> exact ⟨rfl, rfl⟩

theorem encl_zeroise (n : Nat) (s : State) : (zeroise n s).encl = { s.encl with
    idKey := false, aliasKey := false, idSeed := [], aliasSeed := [], sessions := [], ideSets := [], signing := [] } :=
  (dropKeys_fields (decide (n = 3 ∨ n = 4)) s).1

theorem ideState_zeroise (n : Nat) (s : State) :
    (zeroise n s).pci.ideState = if s.pci.ideState = 0 then 0 else if n = 3 ∨ n = 4 ∨ s.pci.ideState = 3 then 3 else 0 := by
  refine (congrArg Pci.ideState (dropKeys_fields (decide (n = 3 ∨ n = 4)) s).2).trans ?_
  simp only [keysDropped, Bool.or_eq_true, decide_eq_true_eq, or_assoc]

theorem recs_zeroise (n : Nat) (h : s.pci.ideState ≠ 2) : (zeroise n s).recs = (record (zeroRec n) s).recs := by
  rw [zeroise_eq, dropKeys_eq, if_neg h]
  rfl

/-- The debug level after a token: it rises, and never falls. -/
theorem debug_raiseDebug (level : Nat) (s : State) : (raiseDebug level s).encl.debug = max s.encl.debug level := by
  rw [raiseDebug]
  split
  next hle => exact (Nat.max_eq_left hle).symm
  next hlt =>
    rw [Nat.max_eq_right (Nat.le_of_not_le hlt)]
    extract_lets _ u
    refine ite_of (P := fun v : State => v.encl.debug = level) ?_ ?_
    · rw [encl_zeroise]
      rfl
    · rw [debug_seekAlias]
      rfl

theorem decommission_fields (s : State) : (decommission s).encl.state = 4 ∧ (decommission s).encl.udsBlown = true
    ∧ (decommission s).encl.uds = List.replicate 32 0xFF := by
  rw [decommission]
  exact ⟨rfl, rfl, rfl⟩

/-- What a test that fails records. -/
def testRec (out : Nat) (s : State) : RecIn :=
  { unit := 0x4FFE0000#32, cls := 0x0805, outcome := out, d1 := BitVec.ofNat 32 (fld (drawWord s).1 0 8) }

/-- The enclave in its error state, before its keys are dropped. -/
def testFailed (out : Nat) (s : State) : State :=
  let u := record (testRec out s) (drawWord s).2
  { u with encl := { u.encl with state := if u.encl.udsBlown then 4 else 3, failedTest := fld (drawWord s).1 0 8 } }

theorem enclaveError_eq (out : Nat) (s : State) : enclaveError out s = zeroise 3 (testFailed out s) := rfl

theorem effConditionalTestFailure_service (hp : s.pwr.aoPwrGd = true) (he : s.encl.state ≠ 3) (hs : s.boot.starting = false) :
    effConditionalTestFailure s = enclaveError 2 s := by
  have hb : (enclaveError 2 s).boot.starting = s.boot.starting := by
    rw [enclaveError_eq, zeroise_eq, dropKeys_eq]
    split <;> rfl
  rw [effConditionalTestFailure, if_neg (by rw [hp]; simpa using he), if_neg (by rw [hb, hs]; simp)]

theorem effConditionalTestFailure_start (hp : s.pwr.aoPwrGd = true) (he : s.encl.state ≠ 3) (hs : s.boot.starting = true)
    (hw : s.boot.stopWarm = none) : effConditionalTestFailure s = startFails 0x4FFE0000#32 (enclaveError 2 s) := by
  have hb : (enclaveError 2 s).boot = s.boot := by
    rw [enclaveError_eq, zeroise_eq, dropKeys_eq]
    split <;> rfl
  rw [effConditionalTestFailure, if_neg (by rw [hp]; simpa using he), if_pos (by rw [hb, hs, hw]; exact ⟨rfl, rfl⟩)]
  rfl

/-! ### ALIAS_CERT_ISSUE (R549) -/

theorem mem_newest_append {α : Type} {n : Nat} (hn : 0 < n) (l : List α) (a : α) : a ∈ newest n (l ++ [a]) := by
  rw [newest, List.length_append, List.length_singleton, List.drop_append_of_le_length (by omega)]
  exact List.mem_append_right _ (List.mem_singleton.2 rfl)

/-- What the issue of a certificate records. -/
def aliasRecIn (s : State) : RecIn :=
  { unit := unitEncl, cls := 0x0809, outcome := 1, d1 := BitVec.ofNat 32 ((s.aoCount - s.encl.readyAt).toNat / 50000) }

/-- The state with the certificate of the present measurements ready. -/
def certIssued (rest : List Meas) (s : State) : State :=
  setEncl s { s.encl with
    signing := rest, certs := newest 2 (s.encl.certs.erase (measNow s) ++ [measNow s])
    aliasReady := s.encl.aliasReady || decide (measNow s = measNow s) }

theorem effAliasCertIssue_eq {rest : List Meas} (hm : mayAttest s = true) (hr : s.boot.ready = true)
    (hs : s.encl.signing = measNow s :: rest) : effAliasCertIssue s = record (aliasRecIn s) (certIssued rest s) := by
  have ha : aliasRec 1 (certIssued rest s) = record (aliasRecIn s) (certIssued rest s) := by
    rw [aliasRec, msFromReady, if_pos (show (certIssued rest s).boot.ready = true from hr)]
    rfl
  rw [effAliasCertIssue, hs]
  exact (if_neg (by rw [hm]; decide)).trans ha

/-! ### The debug port (R487) -/

/-- Reading a register changes the latches of the counters alone. -/
theorem readReg_eq (off size : Nat) (s : State) : ∃ p, (readReg off size s).2 = { s with pci := p } := by
  unfold readReg
  split
  · exact ⟨s.pci, rfl⟩
  · split
    · unfold readHalf
      split
      · exact ⟨s.pci, rfl⟩
      · split
        · exact ⟨s.pci, rfl⟩
        · split
          · dsimp only
            split
            · exact ⟨_, rfl⟩
            · exact ⟨s.pci, rfl⟩
          · split
            · exact ⟨_, rfl⟩
            · exact ⟨s.pci, rfl⟩
    · split
      · exact ⟨s.pci, rfl⟩
      · exact ⟨s.pci, rfl⟩

section
variable (kind unit addr size : Nat) (v : W64) (data : List Byte)

theorem effDebugPortAccess_other (hk : kind ≠ 1) (hd : s.encl.debug ≠ 2) : effDebugPortAccess kind unit addr size v data s = s :=
  (if_neg hk).trans (if_pos hd)

theorem effDebugPortAccess_read : effDebugPortAccess 1 unit addr size v data s
    = if 1 ≤ s.encl.debug ∧ debugReg addr size = true then
        (if 0x300000 ≤ addr ∧ addr < 0x400000 ∧ compReads s (addr - 0x300000) = true then compAsk ⟨false, addr - 0x300000, size, 0, true⟩ s
         else emit (.debugData (readReg addr size s).1) (readReg addr size s).2)
      else s := by
  rw [effDebugPortAccess, if_pos rfl]

theorem effDebugPortAccess_write (hd : s.encl.debug = 2) : effDebugPortAccess 2 unit addr size v data s
    = if debugReg addr size then
        setMgt (effRegisterWrite addr size v (setMgt s { s.mgt with viaDebug := true }))
          { (effRegisterWrite addr size v (setMgt s { s.mgt with viaDebug := true })).mgt with viaDebug := false }
      else s := by
  rw [effDebugPortAccess, if_neg (by decide), if_neg (not_not_intro hd), if_pos rfl]
  rfl

/-- The enclave's window is not served. -/
theorem debugReg_enclave (h1 : 0x60000 ≤ addr) (h2 : addr < 0x70000) : debugReg addr size = false := by
  rw [debugReg, decide_eq_false_iff_not]
  exact fun h => h.2.2.2 ⟨h1, h2⟩

end

/-- Bytes written one by one into a scratchpad stand in its memory in a row. -/
theorem mem_foldl_spadWrite (addr : Nat) (data : List Byte) (n : Nat) (k : Core) :
    ((data.zipIdx n).foldl (fun k x => spadWrite k { line := (addr + x.2) / 64, tag := spadTag k ((addr + x.2) / 64), upd := [((addr + x.2) % 64, x.1)] }) k).mem
      = k.mem.writes (addr + n) data := by
  induction data generalizing n k with
  | nil => rfl
  | cons d data ih =>
    rw [List.zipIdx_cons, List.foldl_cons, ih, Mem.writes]
    have hm : (spadWrite k { line := (addr + n) / 64, tag := spadTag k ((addr + n) / 64), upd := [((addr + n) % 64, d)] }).mem
        = k.mem.write (64 * ((addr + n) / 64) + (addr + n) % 64) d := rfl
    rw [hm, Nat.div_add_mod, Nat.add_assoc]

/-- The state with a scratchpad poked. -/
theorem pokeCore_mem {core addr : Nat} {data : List Byte} (hc : core < 288) (ha : addr + data.length ≤ 0x300000) :
    (coreOf (pokeCore core addr data s) core).mem = (coreOf s core).mem.writes addr data ∧ (pokeCore core addr data s).cl = s.cl := by
  have he : pokeCore core addr data s = setCore s core (data.zipIdx.foldl (fun k x =>
      spadWrite k { line := (addr + x.2) / 64, tag := spadTag k ((addr + x.2) / 64), upd := [((addr + x.2) % 64, x.1)] }) (coreOf s core)) :=
    if_neg (by omega)
  rw [he, coreOf_setCore_same]
  exact ⟨mem_foldl_spadWrite addr data 0 (coreOf s core), rfl⟩

end

/-- Settles O59: each clause is the lemma about its message, in the order of the statement. -/
theorem theEnclaveAttestsUnlocksAndZeroises : Obligations.TheEnclaveAttestsUnlocksAndZeroises := by
  refine ⟨fun s b idx sid x sign h he => ?_, fun s b idx h he => ⟨answers_of_eq (spdm_runs h _ he), answers_of_eq (spdm_runs h _ he),
      fun h1 h7 => answers_of_eq (effGetMeasurements_plain h he h1 h7),
      fun hd => ⟨answers_of_eq (spdmCert_debug h he _ hd), answers_of_eq ((effChallenge_eq b s).trans (spdmSigned_debug h he _ hd))⟩, fun hd hu hi => ⟨fun ha => ?_, fun ha => ?_,
        fun ha hk => ?_, fun ha hk => ?_⟩⟩,
    fun s b sid h he => ⟨fun hl => answers_of_eq (effKeyExchange_full h he sid hl), fun hl hk hs => answers_of_eq (effKeyExchange_opens h he hl hk hs),
      fun hm => answers_of_eq (effEndSession_ends h he hm)⟩,
    fun s sid strm set h he hu => ⟨fun hm => ?_, fun hm => ⟨fun hs => ?_, fun hs => ?_, fun hs => ?_⟩⟩,
    fun s b t h => ⟨answers_of_eq (onBinding_of_reaches h _), fun h0 => ?_, fun h0 => ?_, fun h0 => ?_⟩,
    fun s n => ⟨encl_zeroise n s, ideState_zeroise n s, fun hi => ⟨zeroRec n, recs_zeroise n hi, rfl, rfl, rfl⟩⟩,
    fun s n => ⟨testRec n s, testFailed n s, enclaveError_eq n s, rfl, rfl, rfl, rfl⟩,
    fun s b => ⟨fun h => answers_of_eq (onBinding_of_reaches h _), fun h => ⟨answers_of_eq (hostAccess_of_reaches h _),
        answers_of_eq ((hostAccess_of_reaches h _).trans (if_pos (.inl rfl))),
        fun he => answers_of_eq ((hostAccess_of_reaches h _).trans (if_neg (by simpa using he)))⟩,
      fun hp he => ⟨fun hs => answers_of_eq (effConditionalTestFailure_service hp he hs),
        fun hs hw => answers_of_eq (effConditionalTestFailure_start hp he hs hw)⟩⟩,
    fun s rest hm hr hs => ⟨aliasRecIn s, certIssued rest s, answers_of_eq (effAliasCertIssue_eq hm hr hs), rfl, rfl, rfl, ?_, rfl,
      mem_newest_append (by decide) _ _, newest_length 2 _, rfl⟩,
    fun s kind unit addr size v data => ⟨fun hd => ?_, fun hd hk => ?_, fun h1 h2 hk => ?_, fun hd hr hc => ?_, fun hd hr h1 h2 hc => ?_, fun hd =>
      ⟨fun hr => ⟨_, _, rfl, rfl, ?_⟩, fun hu ha => ?_, fun hu => ⟨?_, ?_⟩, fun hu ha hle hl hm => ?_⟩⟩⟩
  -- SPDM (R549 to R551, R554, R555)
  · intro c hc
    simp only [List.mem_cons, List.not_mem_nil, or_false] at hc
    rcases hc with rfl | rfl | rfl | rfl | rfl | rfl
    · exact answers_of_eq (spdm_error h _ he)
    · exact answers_of_eq (spdmCert_error h _ he)
    · refine answers_of_eq (?_ : effGetMeasurements b idx sign s = _)
      rw [effGetMeasurements]
      exact ite_of (P := fun u => u = answer b .unspecified s) (spdmCert_error h _ he) (spdm_error h _ he)
    · exact answers_of_eq ((effChallenge_eq b s).trans (spdmCert_error h _ he))
    · exact answers_of_eq (spdm_error h _ he)
    · exact answers_of_eq (spdm_error h _ he)
  · exact ⟨answers_of_eq (spdmCert_busy h he hd hu hi _ ha),
      answers_of_eq ((effChallenge_eq b s).trans (spdmSigned_unready h he hd hu hi _ ha)), by
        obtain ⟨f, hf⟩ := effGetMeasurements_eq b idx s
        exact answers_of_eq (hf.trans (spdmSigned_unready h he hd hu hi f ha))⟩
  · exact ⟨certNow s, answers_of_eq (spdmCert_runs h he hd hu hi _ ha), certNow_spec s⟩
  · exact ⟨answers_of_eq ((effChallenge_eq b s).trans (spdmSigned_busy h he hd hu hi _ ha hk)), by
        obtain ⟨f, hf⟩ := effGetMeasurements_eq b idx s
        exact answers_of_eq (hf.trans (spdmSigned_busy h he hd hu hi f ha hk))⟩
  · exact ⟨answers_of_eq ((effChallenge_eq b s).trans (spdmSigned_runs h he hd hu hi _ ha hk)),
      fun h1 h7 => answers_of_eq (effGetMeasurements_signed h he hd hu hi ha hk h1 h7)⟩
  -- the keys of the link (R551)
  · intro c hc
    simp only [List.mem_cons, List.not_mem_nil, or_false] at hc
    rcases hc with rfl | rfl | rfl <;> exact answers_of_eq (ideKm_refused h he _ hm)
  · exact ⟨keyInstalled strm set s, answers_of_eq (effKeyProg_eq h he hu hm hs), mem_keyInstalled strm set s, rfl, rfl, rfl⟩
  · exact ⟨ideRec 2 s, _, answers_of_eq (effKSetGo_eq h he hu hm hs), rfl, rfl, rfl, rfl⟩
  · exact ⟨ideRec 3 s, _, answers_of_eq (effKSetStop_eq h he hu hm hs), rfl, rfl, rfl⟩
  -- tokens (R557 to R559)
  · exact ⟨_, answers_of_eq (effSubmitToken_refused h h0), rfl, rfl, rfl⟩
  · refine ⟨tokenDone t s, answers_of_eq (effSubmitToken_accepted h h0), fun h1 => ?_, fun h2 => ?_⟩
    · rw [tokenDone, if_pos h1]
      exact debug_raiseDebug (hField t 5 1) s
    · rw [tokenDone, if_neg (by omega)]
      exact decommission_fields s
  · obtain ⟨hlen, hsig, hser, hch, hlev, hpcie⟩ := tokenCheck_eq_zero h0
    obtain ⟨-, hroot, hmsg⟩ := signerChecks_eq_one hsig
    exact ⟨hlen, hser, hch, hroot, hmsg, hlev, hpcie⟩
  -- ALIAS_CERT_ISSUE (R549)
  · exact (congrArg (s.encl.aliasReady || ·) (decide_eq_true rfl)).trans (Bool.or_true _)
  -- the debug port (R487)
  · by_cases hk : kind = 1
    · subst hk
      exact answers_of_eq ((effDebugPortAccess_read unit addr size v data).trans (if_neg (by rw [hd]; simp)))
    · exact answers_of_eq (effDebugPortAccess_other kind unit addr size v data hk (by omega))
  · exact answers_of_eq (effDebugPortAccess_other kind unit addr size v data hk (by omega))
  · have hr := debugReg_enclave (size := size) addr h1 h2
    rcases hk with rfl | rfl
    · exact answers_of_eq ((effDebugPortAccess_read unit addr size v data).trans (if_neg (by rw [hr]; simp)))
    · by_cases hd : s.encl.debug = 2
      · exact answers_of_eq ((effDebugPortAccess_write unit addr size v data hd).trans (if_neg (by rw [hr]; simp)))
      · exact answers_of_eq (effDebugPortAccess_other 2 unit addr size v data (by decide) hd)
  · have hn : ¬ (0x300000 ≤ addr ∧ addr < 0x400000 ∧ compReads s (addr - 0x300000) = true) := by
      rintro ⟨h1, h2, h3⟩
      rcases hc with hc | hc | hc
      · omega
      · omega
      · exact Bool.false_ne_true (hc.symm.trans h3)
    obtain ⟨p, hp⟩ := readReg_eq addr size s
    refine ⟨_, answers_of_eq ((effDebugPortAccess_read unit addr size v data).trans ((if_pos ⟨hd, hr⟩).trans (if_neg hn))), ?_, ?_, ?_⟩ <;>
      rw [hp] <;> rfl
  · exact answers_of_eq ((effDebugPortAccess_read unit addr size v data).trans ((if_pos ⟨hd, hr⟩).trans (if_pos ⟨h1, h2, hc⟩)))
  · exact answers_of_eq ((effDebugPortAccess_write unit addr size v data hd).trans (if_pos hr))
  · refine answers_of_eq (?_ : effDebugPortAccess 5 unit addr size v data s = _)
    rw [effDebugPortAccess, if_neg (by decide), if_neg (not_not_intro hd)]
    simp only [Nat.reduceEqDiff, if_false, if_true]
    rw [pokeImem, if_neg (by omega)]
  · refine answers_of_eq (?_ : effDebugPortAccess 7 unit addr size v data s = _)
    rw [effDebugPortAccess, if_neg (by decide), if_neg (not_not_intro hd)]
    exact if_pos hu
  · refine answers_of_eq (?_ : effDebugPortAccess 9 unit addr size v data s = _)
    rw [effDebugPortAccess, if_neg (by decide), if_neg (not_not_intro hd)]
    exact if_pos hu
  · have he : effDebugPortAccess 3 unit addr size v data s = pokeCore unit addr data s := by
      rw [effDebugPortAccess, if_neg (by decide), if_neg (not_not_intro hd)]
      rfl
    obtain ⟨hmem, hcl⟩ := pokeCore_mem (s := s) hu (show addr + data.length ≤ 0x300000 by omega)
    refine ⟨_, answers_of_eq he, ?_, hcl⟩
    rw [hmem, ← hl]
    exact bytes_writes_same hm addr data

end Sys2Proof.Machine
end

section
/-! PROOF. Family 12 to 16: a cluster's reset ends the fabric runs that its program has joined, and the lines that such a run has landed
in the cluster's plates become free bytes (R433, R434, R534), so that the plates are not kept: O57 does not hold. -/

namespace Sys2Proof.Machine

/-! ### What the end of a run leaves of the plates -/

/-- The plates of every cluster, and the number of free values drawn, are kept. -/
structure KeepsPlates (s t : State) : Prop where
  free : t.free = s.free
  plates : ∀ j, (clOf t j).plates = (clOf s j).plates

theorem KeepsPlates.refl (s : State) : KeepsPlates s s := ⟨rfl, fun _ => rfl⟩

theorem KeepsPlates.trans {a b c : State} (h : KeepsPlates a b) (g : KeepsPlates b c) : KeepsPlates a c :=
  ⟨g.free.trans h.free, fun j => (g.plates j).trans (h.plates j)⟩

theorem keepsPlates_of_cl {s t : State} (hf : t.free = s.free) (hc : t.cl = s.cl) : KeepsPlates s t :=
  ⟨hf, fun j => by rw [clOf, clOf, hc]⟩

theorem keepsPlates_of_posts {s t : State} (h : Posts s t) : KeepsPlates s t := by
  refine ⟨?_, fun j => ?_⟩
  · obtain ⟨_, _, _, _, _, _, _, _, rfl⟩ := h.rest
    rfl
  · obtain ⟨_, _, hj⟩ := h.cl j
    rw [hj]

theorem keepsPlates_setCl (s : State) (j : Nat) {x : Cluster} (h : x.plates = (clOf s j).plates) : KeepsPlates s (setCl s j x) := by
  refine ⟨rfl, fun i => ?_⟩
  rw [clOf_setCl]
  split
  next hi => rw [hi, h]
  next => rfl

theorem keepsPlates_foldl {α : Type} {f : State → α → State} (hf : ∀ u x, KeepsPlates u (f u x)) (l : List α) (s : State) :
    KeepsPlates s (l.foldl f s) :=
  foldl_keeps (P := KeepsPlates s) (fun u x h => h.trans (hf u x)) l s (.refl s)

theorem keepsPlates_laneCut (cl iid lane : Nat) (s : State) : KeepsPlates s (laneCut cl iid lane s) := by
  rw [laneCut]
  split
  · exact .refl s
  next i _ =>
    extract_lets owed u
    have hu : KeepsPlates s u := ite_of (keepsPlates_setCl s cl rfl) (keepsPlates_setCl s cl rfl)
    cases i.tok with
    | none => exact hu
    | some t => exact hu.trans (keepsPlates_of_posts (posts_postTok _ _ _))

theorem keepsPlates_freeFab (cl iid : Nat) (s : State) : KeepsPlates s (freeFab cl iid s) := keepsPlates_setCl s cl rfl

theorem keepsPlates_setPhot (d : Nat) (p : Phot) (s : State) : KeepsPlates s (setPhot s d p) := keepsPlates_of_cl rfl rfl

theorem keepsPlates_cutFabric (cl iid : Nat) (s : State) : KeepsPlates s (cutFabric cl iid s) :=
  ((keepsPlates_freeFab cl iid s).trans (keepsPlates_laneCut cl iid 8 (freeFab cl iid s))).trans
    (keepsPlates_setCl (laneCut cl iid 8 (freeFab cl iid s)) cl rfl)

theorem keepsPlates_cutRun (r : FRun) (s : State) : KeepsPlates s (cutRun r s) :=
  keepsPlates_foldl (f := fun u (p : Nat × Nat × Nat) => cutFabric p.1 p.2.1 u) (fun u p => keepsPlates_cutFabric p.1 p.2.1 u) _ s

theorem keepsPlates_delRun (id : Nat) (s : State) : KeepsPlates s (delRun id s) := keepsPlates_of_cl rfl rfl

theorem keepsPlates_dropFlow (id : Nat) (s : State) : KeepsPlates s (dropFlow id s) := keepsPlates_of_cl rfl rfl

theorem keepsPlates_quietCtx (id : Nat) (s : State) : KeepsPlates s (quietCtx id s) := by
  rw [quietCtx]
  cases ctxOf s id with
  | none => exact .refl s
  | some c => exact keepsPlates_of_cl rfl rfl

theorem keepsPlates_collAbortRec (id : Nat) (a : AbortInfo) (s : State) : KeepsPlates s (collAbortRec id a s) := keepsPlates_of_cl rfl rfl

theorem keepsPlates_rebuildRec (id out n : Nat) (s : State) : KeepsPlates s (rebuildRec id out n s) := by
  rw [rebuildRec]
  cases ctxOf s id with
  | none => exact .refl s
  | some c => exact ite_of (keepsPlates_of_cl rfl rfl) (.refl s)

theorem keepsPlates_abortPuts (a : AbortInfo) (id : Nat) (s : State) : KeepsPlates s (abortPuts a id s) := by
  refine ite_of (.refl s) ?_
  refine KeepsPlates.trans ?_ (keepsPlates_foldl (f := fun u (p : FPut) => cutFabric p.cl p.iid u) (fun u p => keepsPlates_cutFabric p.cl p.iid u) _ _)
  refine KeepsPlates.trans ?_ (keepsPlates_collAbortRec id a _)
  refine KeepsPlates.trans ?_ (keepsPlates_quietCtx id _)
  exact (keepsPlates_setPhot _ _ s).trans (keepsPlates_dropFlow id _)

theorem keepsPlates_abortRebl (a : AbortInfo) (s : State) : KeepsPlates s (abortRebl a s) := by
  rw [abortRebl]
  cases s.mer.rebl with
  | none => exact .refl s
  | some b =>
    refine ite_of (P := KeepsPlates s) ?_ (.refl s)
    have h := (keepsPlates_foldl (f := fun u f => quietCtx (b.base + f) (dropFlow (b.base + f) u))
      (fun u f => (keepsPlates_dropFlow _ u).trans (keepsPlates_quietCtx _ _)) (List.range b.count) s).trans
      (keepsPlates_collAbortRec b.base a _)
    exact h.trans (keepsPlates_of_cl rfl rfl)

/-! ### A run that has landed a line in the plates of cluster 0 -/

/-- Its context: one that lands in plates, at the start of the array of cluster 0. -/
def platesCtx : Ctx := Ctx.fresh [0, 0x100]

/-- The run: cluster 0 takes part, and line 0 has landed. -/
def platesRun : FRun where
  ctx := 0
  parts := [(0, 0, 0)]
  st := 1
  ver := 0
  epoch := 0
  sums := []
  left := 0
  landed := [0]
  win := 0
  folding := false
  fold := []
  shards := []
  q := 0
  zPart := []
  stats := 0
  chainIn := none
  round := 0
  sentRound := 0
  early := []

/-- The photonic die that holds them. -/
def platesPhot : Phot := { Phot.reset with ctx := [(0, platesCtx)], runs := [platesRun] }

/-- A package in which the run is in progress. -/
def platesState (m : Mem) : State :=
  { State.reset with
    mer := { Mer.reset with phot := [(5, platesPhot)] }
    cl := [(0, { Cluster.reset with plates := m })] }

section
variable {x : State} (h5 : photOf x 5 = platesPhot) (h6 : photOf x 6 = Phot.reset)

include h5

theorem ctxOf_plates : ctxOf x 0 = some platesCtx := by
  rw [ctxOf, show ctxDie 0 = 5 from rfl, h5]
  rfl

theorem runOf_plates : runOf x 0 = some platesRun := by
  rw [runOf, show ctxDie 0 = 5 from rfl, h5]
  rfl

theorem busyCtxs_plates (h6 : photOf x 6 = Phot.reset) : busyCtxs x = [0] := by
  rw [busyCtxs]
  simp only [List.map_cons, List.map_nil, h5, h6]
  rfl

/-- The state in which the abort has its serial number. -/
def abortRaised (x : State) : State :=
  { x with mer := { x.mer with serial := x.mer.serial + 1, aborts := (ownGid x, x.mer.serial) :: x.mer.aborts } }

/-- The abort. -/
def platesAbort (x : State) : AbortInfo := { group := 0, cause := 7, serial := x.mer.serial, origin := ownGid x }

theorem stopRuns_plates (h6 : photOf x 6 = Phot.reset) : stopRuns 0 x = raiseOn 0 7 x := by
  rw [stopRuns]
  simp only [List.map_cons, List.map_nil, h5, h6]
  have hm : ([platesPhot.runs.filter (fun r => decide (r.st < 3) && r.parts.any (fun p => decide (p.1 = 0))),
      Phot.reset.runs.filter (fun r => decide (r.st < 3) && r.parts.any (fun p => decide (p.1 = 0)))]).flatten = [platesRun] := by decide
  rw [hm, List.foldl_cons, List.foldl_nil, if_pos (by rw [show platesRun.ctx = 0 from rfl, runOf_plates h5]; rfl)]
  rfl

theorem raiseOn_plates : raiseOn 0 7 x = abortGroup (platesAbort x) (abortRaised x) := by
  have hp : permitSet (abortRaised x) 5 = [] := by
    rw [permitSet, show photOf (abortRaised x) 5 = photOf x 5 from rfl, h5]
    rfl
  have hs : spreadAbort (platesAbort x) 0 x.mer.epoch (abortRaised x) = abortRaised x := by rw [spreadAbort, hp, List.foldl_nil]
  rw [raiseOn, ctxOf_plates h5]
  exact congrArg (abortGroup (platesAbort x)) hs

theorem abortGroup_plates (h6 : photOf x 6 = Phot.reset) : abortGroup (platesAbort x) (abortRaised x)
    = abortRebl (platesAbort x) (abortCtx (platesAbort x) 0 (abortRaised x)) := by
  rw [abortGroup, busyCtxs_plates (x := abortRaised x) h5 h6]
  have hf : [0].filter (fun id => decide (((ctxOf (abortRaised x) id).map cGroup).getD 0xFFFF = (platesAbort x).group)) = [0] := by
    rw [List.filter_cons_of_pos, List.filter_nil]
    rw [ctxOf_plates (x := abortRaised x) h5]
    rfl
  rw [hf]
  rfl

/-- The state in which the run's bytes are about to become free. -/
def abortNoted (x : State) : State :=
  rebuildRec 0 2 1 (collAbortRec 0 (platesAbort x) (quietCtx 0 (dropFlow 0 (abortRaised x))))

theorem abortRun_plates : abortRun (platesAbort x) platesRun (abortRaised x)
    = cutRun platesRun (delRun 0 (blurLine platesCtx 0 (abortNoted x))) := by
  rw [abortRun, show platesRun.ctx = 0 from rfl, ctxOf_plates (x := abortRaised x) h5]
  rfl

end

theorem keepsPlates_abortNoted (x : State) : KeepsPlates x (abortNoted x) := by
  refine KeepsPlates.trans ?_ (keepsPlates_rebuildRec _ _ _ _)
  refine KeepsPlates.trans ?_ (keepsPlates_collAbortRec _ _ _)
  refine KeepsPlates.trans ?_ (keepsPlates_quietCtx _ _)
  exact (keepsPlates_of_cl rfl rfl : KeepsPlates x (abortRaised x)).trans (keepsPlates_dropFlow 0 (abortRaised x))

/-! ### The first byte of the line becomes a free byte -/

theorem blurLine_plates (s : State) : (clOf (blurLine platesCtx 0 s) 0).plates
    = (clOf s 0).plates.writes 0 ((List.range 64).map (fun i => Config.freeByte (s.free + i))) := by
  have hl : ((List.range 64).map (fun i => Config.freeByte (s.free + i))).length = 64 := by rw [List.length_map, List.length_range]
  rw [blurLine, if_pos (by decide : cDstTier platesCtx = 1), show cCluster platesCtx = 0 by decide, show cDst platesCtx / 64 + 0 = 0 by decide]
  simp only [drawBytes, clOf_setCl_same, plateWrite, List.foldl_map]
  have h := Mem.foldl_write_range (clOf s 0).plates 0 ((List.range 64).map (fun i => Config.freeByte (s.free + i)))
  rw [hl] at h
  exact h

/-- After the run's abort the first byte of the plates is the next free byte. -/
theorem stopRuns_plates_read {x : State} (h5 : photOf x 5 = platesPhot) (h6 : photOf x 6 = Phot.reset) (hm : (clOf x 0).plates.wf = true) :
    (clOf (stopRuns 0 x) 0).plates.read 0 = Config.freeByte x.free := by
  have hn := keepsPlates_abortNoted x
  rw [stopRuns_plates h5 h6, raiseOn_plates h5, abortGroup_plates h5 h6, (keepsPlates_abortRebl _ _).plates, abortCtx,
    runOf_plates (x := abortRaised x) h5, (keepsPlates_abortPuts _ _ _).plates]
  show (clOf (abortRun (platesAbort x) platesRun (abortRaised x)) 0).plates.read 0 = _
  rw [abortRun_plates h5, (keepsPlates_cutRun _ _).plates, (keepsPlates_delRun _ _).plates, blurLine_plates, hn.free, hn.plates,
    Mem.read_writes hm, if_pos (by rw [List.length_map, List.length_range]; omega)]
  rfl

/-- The state in which a cluster's reset has reached its tile moves and its cores. -/
def cutMoves (cl : Nat) (s : State) : State :=
  let d := dieOf s (cl / 8)
  let s := setDie s (cl / 8) { d with
    tmoves := d.tmoves.filterMap (fun t => if t.cl = cl then
        (if t.left = t.todo.length then none else some { t with todo := [], left := t.left - t.todo.length }) else some t) }
  (List.range 9).foldl (fun s n => setCore s (9 * cl + n) (quitCore (coreOf s (9 * cl + n)))) s

/-- The state in which it ends the runs. -/
def cutHeld (cl : Nat) (s : State) : State :=
  let u := abortTokens (cluIds (cutMoves cl s) cl) (cutMoves cl s)
  dropPuts ((clOf u cl).fabQ.map (fun u => u.iid)) u

theorem cutCluster_plates {s : State} {cl : Nat} (h : (clOf s cl).prog = none) :
    (clOf (cutCluster cl s) cl).plates = (clOf (stopRuns cl (cutHeld cl s)) cl).plates := by
  unfold cutCluster
  extract_lets p d u v w x y
  have hp : p = none := h
  have hv : v = cutMoves cl s := rfl
  have hw : w = abortTokens (cluIds v cl) v := rfl
  have hx : x = stopRuns cl (cutHeld cl s) := by
    show stopRuns cl (dropPuts ((clOf w cl).fabQ.map (fun u => u.iid)) w) = _
    rw [hw, hv, cutHeld]
  have hy : y = setCl x cl (quitCluster (clOf x cl)) := rfl
  clear_value p x y
  rw [hp, hy, ← hx]
  show (clOf (setCl x cl (quitCluster (clOf x cl))) cl).plates = _
  rw [clOf_setCl_same]
  rfl

/-- Fabric state, clusters and the number of free values drawn are the same. -/
structure SameFabric (s t : State) : Prop where
  mer : t.mer = s.mer
  cl : t.cl = s.cl
  free : t.free = s.free

theorem SameFabric.setCore {s t : State} (h : SameFabric s t) (k : Nat) (x : Core) : SameFabric s (setCore t k x) := ⟨h.mer, h.cl, h.free⟩

theorem sameFabric_cutMoves (cl : Nat) (s : State) : SameFabric s (cutMoves cl s) := by
  unfold cutMoves
  extract_lets d u
  have hu : SameFabric s u := ⟨rfl, rfl, rfl⟩
  clear_value u
  exact foldl_keeps (P := SameFabric s) (fun x n h => h.setCore (9 * cl + n) (quitCore (coreOf x (9 * cl + n)))) (List.range 9) u hu

theorem cutHeld_platesState (m : Mem) : cutHeld 0 (platesState m) = dropPuts [] (cutMoves 0 (platesState m)) := by
  have h := (sameFabric_cutMoves 0 (platesState m)).cl
  rw [cutHeld]
  generalize cutMoves 0 (platesState m) = v at h
  have hc : clOf v 0 = { Cluster.reset with plates := m } := by rw [clOf, h]; rfl
  have hi : cluIds v 0 = [] := by rw [cluIds, hc]; rfl
  simp only [hi, abortTokens, List.foldl_nil]
  rw [hc]
  rfl

theorem photOf_setPhot_other (s : State) {d e : Nat} (p : Phot) (h : e ≠ d) : photOf (setPhot s d p) e = photOf s e :=
  Tab.get_put_other _ _ _ h

theorem dropPuts_none {v : State} (h5 : photOf v 5 = platesPhot) (h6 : photOf v 6 = Phot.reset) :
    photOf (dropPuts [] v) 5 = platesPhot ∧ photOf (dropPuts [] v) 6 = Phot.reset := by
  rw [dropPuts]
  simp only [List.foldl_cons, List.foldl_nil, h5]
  simp only [photOf_setPhot_other _ _ (show (6 : Nat) ≠ 5 by decide), h6]
  constructor
  · rw [photOf_setPhot_other _ _ (by decide), photOf_setPhot_same]
    rfl
  · rw [photOf_setPhot_same]
    rfl

/-- In `platesState` the runs end in a state that has its fabric state and its plates. -/
theorem platesState_cutHeld (m : Mem) : photOf (cutHeld 0 (platesState m)) 5 = platesPhot ∧ photOf (cutHeld 0 (platesState m)) 6 = Phot.reset
    ∧ (clOf (cutHeld 0 (platesState m)) 0).plates = m ∧ (cutHeld 0 (platesState m)).free = 0 := by
  obtain ⟨hmer, hcl, hfree⟩ := sameFabric_cutMoves 0 (platesState m)
  rw [cutHeld_platesState]
  generalize cutMoves 0 (platesState m) = v at *
  obtain ⟨h5, h6⟩ := dropPuts_none (v := v) (by rw [photOf, hmer]; rfl) (by rw [photOf, hmer]; rfl)
  refine ⟨h5, h6, ?_, hfree⟩
  show (clOf v 0).plates = m
  rw [clOf, hcl]
  rfl

theorem cutCluster_plates_read {m : Mem} (hm : m.wf = true) :
    (clOf (cutCluster 0 (platesState m)) 0).plates.read 0 = Config.freeByte 0 := by
  obtain ⟨h5, h6, hp, hf⟩ := platesState_cutHeld m
  rw [cutCluster_plates rfl, stopRuns_plates_read h5 h6 (by rw [hp]; exact hm), hf]

/-- Refutes O57: its last clause says that the reset of a cluster keeps the bytes of its plates in every state, yet it ends the fabric runs
that the cluster's program has joined, and a line that such a run has landed in the plates then holds free bytes (R433, R434). In
`platesState []` and in `platesState [(0, 1)]` the first byte of the plates becomes the same free byte, which cannot be both 0 and 1. -/
theorem not_resetsRestartWhatTheyReach : ¬ Obligations.ResetsRestartWhatTheyReach := by
  unfold Obligations.ResetsRestartWhatTheyReach
  rintro ⟨_, _, _, _, _, _, _, _, _, _, _, _, _, _, _, hcut⟩
  have keeps (m : Mem) (hm : m.wf = true) : Config.freeByte 0 = m.read 0 := by
    obtain ⟨_, _, _, hp, _⟩ := hcut (platesState m) 0
    rw [← cutCluster_plates_read hm, hp]
    rfl
  have h0 := keeps [] (by decide)
  have h1 := keeps [(0, 1)] (by decide)
  rw [h0] at h1
  exact absurd h1 (by decide)

end Sys2Proof.Machine
end

section
/-! PROOF. Family 12 to 16: what the end of streams, commands, programs and fabric runs leaves alone when the package stops
(R142, R413, R433, R478, R534). -/

namespace Sys2Proof.Machine

/-! ### Work that ends -/

/-- Nothing of a stream is enabled, occupied or counted: the state that its reset leaves (R66). -/
def StrmIdle (x : Stream) : Prop := x.enable = false ∧ x.occ = [] ∧ x.e = 1

/-- From `s` to `t` work only ends: no command begins, no stream is enabled and no idle one takes one up, no program begins and one that
changes stops; the configuration, the job, the stacks and the transfer tag stay. -/
structure Ends (s t : State) : Prop where
  boot : t.boot = s.boot
  pci : ∃ msix watch, t.pci = { s.pci with msix := msix, watch := watch }
  job : t.job = s.job
  stack : t.stack = s.stack
  xferVtag : t.xferVtag = s.xferVtag
  cmds : s.cmds = [] → t.cmds = []
  off : ∀ i, (strmOf s i).enable = false → (strmOf t i).enable = false
  strm : ∀ i, StrmIdle (strmOf s i) → StrmIdle (strmOf t i)
  prog : ∀ j p, (clOf t j).prog = some p → (clOf s j).prog = some p ∨ (p.ending = 2 ∧ (clOf s j).prog.isSome)

theorem Ends.refl (s : State) : Ends s s :=
  ⟨rfl, ⟨_, _, rfl⟩, rfl, rfl, rfl, id, fun _ => id, fun _ => id, fun _ _ => .inl⟩

theorem Ends.trans {a b c : State} (h : Ends a b) (g : Ends b c) : Ends a c := by
  refine ⟨g.boot.trans h.boot, ?_, g.job.trans h.job, g.stack.trans h.stack, g.xferVtag.trans h.xferVtag, g.cmds ∘ h.cmds,
    fun i => g.off i ∘ h.off i, fun i => g.strm i ∘ h.strm i, fun j p hp => ?_⟩
  · obtain ⟨_, _, hb⟩ := h.pci
    obtain ⟨_, _, hc⟩ := g.pci
    exact ⟨_, _, by rw [hc, hb]⟩
  · rcases g.prog j p hp with hb | ⟨he, hb⟩
    · exact h.prog j p hb
    · obtain ⟨q, hq⟩ := Option.isSome_iff_exists.mp hb
      rcases h.prog j q hq with ha | ⟨_, ha⟩
      · exact .inr ⟨he, by rw [ha]; rfl⟩
      · exact .inr ⟨he, ha⟩

theorem ends_foldl {α : Type} {f : State → α → State} (hf : ∀ u x, Ends u (f u x)) (l : List α) (s : State) : Ends s (l.foldl f s) :=
  foldl_keeps (P := Ends s) (fun u x h => h.trans (hf u x)) l s (.refl s)

/-- What changes nothing that `Ends` speaks of. -/
theorem Ends.of_same {s t : State} (hb : t.boot = s.boot) (hp : t.pci = s.pci) (hj : t.job = s.job) (hk : t.stack = s.stack)
    (hx : t.xferVtag = s.xferVtag) (hc : t.cmds = s.cmds) (hs : t.strm = s.strm) (hl : t.cl = s.cl) : Ends s t :=
  ⟨hb, ⟨_, _, hp⟩, hj, hk, hx, fun h => hc.trans h, fun i h => by rwa [strmOf, hs], fun i h => by rwa [strmOf, hs], fun j p h => .inl (by rwa [clOf, ← hl])⟩

theorem ends_setCore (s : State) (k : Nat) (x : Core) : Ends s (setCore s k x) := .of_same rfl rfl rfl rfl rfl rfl rfl rfl

theorem ends_setDie (s : State) (d : Nat) (x : Die) : Ends s (setDie s d x) := .of_same rfl rfl rfl rfl rfl rfl rfl rfl

theorem ends_setPhot (s : State) (d : Nat) (x : Phot) : Ends s (setPhot s d x) := .of_same rfl rfl rfl rfl rfl rfl rfl rfl

theorem ends_setMer (s : State) (m : Mer) : Ends s { s with mer := m } := .of_same rfl rfl rfl rfl rfl rfl rfl rfl

/-- A cluster written: its program stays, ends, or is one that stops. -/
theorem ends_setCl (s : State) (j : Nat) {x : Cluster}
    (h : ∀ p, x.prog = some p → (clOf s j).prog = some p ∨ (p.ending = 2 ∧ (clOf s j).prog.isSome)) : Ends s (setCl s j x) := by
  refine ⟨rfl, ⟨_, _, rfl⟩, rfl, rfl, rfl, id, fun _ => id, fun _ => id, fun i p hp => ?_⟩
  rw [clOf_setCl] at hp
  split at hp
  next hi => exact hi ▸ h p hp
  next => exact .inl hp

/-- A cluster written whose program stays. -/
theorem ends_setCl_prog (s : State) (j : Nat) {x : Cluster} (h : x.prog = (clOf s j).prog) : Ends s (setCl s j x) :=
  ends_setCl s j (fun _ hp => .inl (h ▸ hp))

theorem ends_of_posts {s t : State} (h : Posts s t) (hc : s.cmds = [] → t.cmds = []) : Ends s t := by
  obtain ⟨_, _, _, _, _, _, _, _, ht⟩ := h.rest
  refine ⟨by rw [ht], ⟨_, _, by rw [ht]⟩, by rw [ht], by rw [ht], by rw [ht], hc, fun i hi => ?_, fun i hi => ?_, fun j p hp => ?_⟩
  · obtain ⟨_, hs⟩ := h.strm i
    rw [hs]
    exact hi
  · obtain ⟨_, hs⟩ := h.strm i
    rw [hs]
    exact hi
  · obtain ⟨_, _, hl⟩ := h.cl j
    rw [hl] at hp
    exact .inl hp

/-! ### Tokens, records and commands -/

theorem ends_record (r : RecIn) (s : State) : Ends s (record r s) := ends_of_posts (posts_record r s) id

theorem ends_setTokW (i : Nat) (t : TokEntry) (w : Option W32) (s : State) : Ends s (setTokW i t w s) :=
  ends_of_posts (posts_setTokW i t w s) (fun h => by rw [(tokFrame_setTokW i t w s).cmds, h])

theorem ends_postTok (i : Nat) (x : Tok) (s : State) : Ends s (postTok i x s) := ite_of (ends_setTokW _ _ _ s) (.refl s)

theorem ends_abortTokens (ids : List Nat) (s : State) : Ends s (abortTokens ids s) := ends_foldl (fun u i => ends_postTok i .aborted u) ids s

theorem ends_postDone (w : W512) (t : Tok) (s : State) : Ends s (postDone w t s) := ite_of (ends_setTokW _ _ _ s) (.refl s)

theorem ends_completionRec (st : Nat) (w : W512) (o : Nat) (s : State) : Ends s (completionRec st w o s) := ite_of (ends_record _ s) (.refl s)

theorem postDone_cmds (w : W512) (t : Tok) (s : State) : (postDone w t s).cmds = s.cmds :=
  ite_of (P := fun (u : State) => u.cmds = s.cmds) (tokFrame_setTokW _ _ _ s).cmds rfl

theorem completionRec_cmds (st : Nat) (w : W512) (o : Nat) (s : State) : (completionRec st w o s).cmds = s.cmds :=
  ite_of (P := fun (u : State) => u.cmds = s.cmds) rfl rfl

/-- The commands that stay when one completes are those of another number. -/
theorem completeCmd_cmds {no : Nat} {t : Tok} {s : State} {c : CmdRec} (h : c ∈ (completeCmd no t s).cmds) : c ∈ s.cmds ∧ c.no ≠ no := by
  cases hf : findCmd s no with
  | none =>
    have hc : completeCmd no t s = s := by simp only [completeCmd, hf]
    rw [hc] at h
    exact ⟨h, by simpa using List.find?_eq_none.mp hf c h⟩
  | some x =>
    rw [completeCmd_of_find t hf, completionRec_cmds, postDone_cmds] at h
    obtain ⟨hm, hn⟩ := List.mem_filter.mp h
    exact ⟨hm, of_decide_eq_true hn⟩

theorem ends_completeCmd (no : Nat) (t : Tok) (s : State) : Ends s (completeCmd no t s) :=
  ends_of_posts (posts_completeCmd no t s) (fun h => List.eq_nil_iff_forall_not_mem.mpr fun c hc => by
    have := (completeCmd_cmds hc).1
    rw [h] at this
    exact List.not_mem_nil this)

theorem foldl_completeCmd_cmds {t : Tok} (l : List CmdRec) {s : State} {c : CmdRec}
    (h : c ∈ (l.foldl (fun u x => completeCmd x.no t u) s).cmds) : c ∈ s.cmds ∧ ∀ x ∈ l, c.no ≠ x.no := by
  induction l generalizing s with
  | nil => exact ⟨h, fun _ hx => absurd hx List.not_mem_nil⟩
  | cons a l ih =>
    obtain ⟨hm, hl⟩ := ih h
    obtain ⟨hs, ha⟩ := completeCmd_cmds hm
    exact ⟨hs, fun x hx => (List.mem_cons.mp hx).elim (fun e => e ▸ ha) (hl x)⟩

/-- When every command completes, none is left. -/
theorem foldl_completeCmd_all (t : Tok) (s : State) : (s.cmds.foldl (fun u x => completeCmd x.no t u) s).cmds = [] :=
  List.eq_nil_iff_forall_not_mem.mpr fun c hc => by
    obtain ⟨hm, hn⟩ := foldl_completeCmd_cmds _ hc
    exact hn c hm rfl

theorem ends_setWork (no : Nat) (w : Work) (s : State) : Ends s (setWork no w s) :=
  ends_of_posts (posts_setWork no w s) (fun h => by rw [setWork, h]; rfl)

/-! ### Streams -/

/-- A stream written that is off and idle where it was. -/
theorem ends_setStrm (s : State) (i : Nat) {x : Stream} (ho : (strmOf s i).enable = false → x.enable = false)
    (h : StrmIdle (strmOf s i) → StrmIdle x) : Ends s (setStrm s i x) := by
  refine ⟨rfl, ⟨_, _, rfl⟩, rfl, rfl, rfl, id, fun j hj => ?_, fun j hj => ?_, fun _ _ => .inl⟩
  all_goals
    rw [strmOf_setStrm]
    split
  next he => exact ho (he ▸ hj)
  next => exact hj
  next he => exact h (he ▸ hj)
  next => exact hj

theorem ends_logSkip (st : Nat) (e : SkipEntry) (s : State) : Ends s (logSkip st e s) := ends_setStrm s st id id

theorem ends_skipCommand (st : Nat) (w : W512) (k : Skip) (s : State) : Ends s (skipCommand st w k s) := by
  unfold skipCommand
  extract_lets u v x
  have hu : Ends s u := ends_logSkip st _ s
  have hv : Ends u v := ite_of (.refl u) (ends_record _ u)
  have hx : Ends v x := ite_of (.refl v) (ends_postDone w .skipped v)
  exact ((hu.trans hv).trans hx).trans (ends_completionRec st w 3 x)

end Sys2Proof.Machine
end

section
/-! PROOF. Family 12 to 16: the same of aborted fabric runs, of programs that stop and of clusters that are cut (R142, R413, R433,
R534). -/

namespace Sys2Proof.Machine

/-! ### Instructions and runs that are cut -/

theorem ends_laneCut (cl iid lane : Nat) (s : State) : Ends s (laneCut cl iid lane s) := by
  rw [laneCut]
  split
  · exact .refl s
  next i _ =>
    extract_lets owed u
    have hu : Ends s u := ite_of (ends_setCl_prog s cl rfl) (ends_setCl_prog s cl rfl)
    cases i.tok with
    | none => exact hu
    | some t => exact hu.trans (ends_postTok _ _ _)

theorem ends_freeFab (cl iid : Nat) (s : State) : Ends s (freeFab cl iid s) := ends_setCl_prog s cl rfl

theorem ends_cutFabric (cl iid : Nat) (s : State) : Ends s (cutFabric cl iid s) :=
  ((ends_freeFab cl iid s).trans (ends_laneCut cl iid 8 (freeFab cl iid s))).trans
    (ends_setCl_prog (laneCut cl iid 8 (freeFab cl iid s)) cl rfl)

theorem ends_cutRun (r : FRun) (s : State) : Ends s (cutRun r s) :=
  ends_foldl (f := fun u (p : Nat × Nat × Nat) => cutFabric p.1 p.2.1 u) (fun u p => ends_cutFabric p.1 p.2.1 u) _ s

theorem ends_drawBytes (n : Nat) (s : State) : Ends s (drawBytes n s).2 := .of_same rfl rfl rfl rfl rfl rfl rfl rfl

theorem ends_of_drawBytes {n : Nat} {s u : State} {bs : List Byte} (h : drawBytes n s = (bs, u)) : Ends s u := by
  have hd := ends_drawBytes n s
  rwa [h] at hd

theorem plateWrite_prog (c : Cluster) (line tag : Nat) (upd : List (Nat × Byte)) : (plateWrite c line tag upd).prog = c.prog := rfl

theorem ends_blurLine (c : Ctx) (o : Nat) (s : State) : Ends s (blurLine c o s) := by
  unfold blurLine
  extract_lets free n m
  refine ite_of ?_ (ends_foldl (fun u l => ?_) _ s)
  · cases h : drawBytes 64 s with
    | mk bs u => exact (ends_of_drawBytes h).trans (ends_setCl_prog u (cCluster c) (plateWrite_prog _ _ _ _))
  · cases laneCore (clOf u (cCluster c)) (cCluster c) l with
    | none => exact .refl u
    | some k =>
      cases h : drawBytes 64 u with
      | mk bs v => exact (ends_of_drawBytes h).trans (ends_setCore v _ _)

theorem ends_setRun (r : FRun) (s : State) : Ends s (setRun r s) := ends_setPhot s _ _

theorem ends_delRun (id : Nat) (s : State) : Ends s (delRun id s) := ends_setPhot s _ _

theorem ends_dropFlow (id : Nat) (s : State) : Ends s (dropFlow id s) := .of_same rfl rfl rfl rfl rfl rfl rfl rfl

theorem ends_quietCtx (id : Nat) (s : State) : Ends s (quietCtx id s) := by
  rw [quietCtx]
  cases ctxOf s id with
  | none => exact .refl s
  | some c => exact ends_setPhot s _ _

theorem ends_collAbortRec (id : Nat) (a : AbortInfo) (s : State) : Ends s (collAbortRec id a s) := ends_record _ s

theorem ends_rebuildRec (id out n : Nat) (s : State) : Ends s (rebuildRec id out n s) := by
  rw [rebuildRec]
  cases ctxOf s id with
  | none => exact .refl s
  | some c => exact ite_of (ends_record _ s) (.refl s)

theorem ends_abortRun (a : AbortInfo) (r : FRun) (s : State) : Ends s (abortRun a r s) := by
  rw [abortRun]
  cases ctxOf s r.ctx with
  | none => exact .refl s
  | some c =>
    refine ite_of (.refl s) ?_
    extract_lets os u
    have hu : Ends s u := (((ends_dropFlow r.ctx s).trans (ends_quietCtx r.ctx _)).trans (ends_collAbortRec r.ctx a _)).trans
      (ends_rebuildRec r.ctx 2 r.landed.length _)
    clear_value u
    refine hu.trans (ite_of (ends_setRun _ u) ?_)
    exact ((ends_foldl (fun x o => ends_blurLine c o x) os u).trans (ends_delRun r.ctx _)).trans (ends_cutRun r _)

theorem ends_abortPuts (a : AbortInfo) (id : Nat) (s : State) : Ends s (abortPuts a id s) := by
  refine ite_of (.refl s) ?_
  refine Ends.trans ?_ (ends_foldl (f := fun u (p : FPut) => cutFabric p.cl p.iid u) (fun u p => ends_cutFabric p.cl p.iid u) _ _)
  refine Ends.trans ?_ (ends_collAbortRec id a _)
  refine Ends.trans ?_ (ends_quietCtx id _)
  exact (ends_setPhot s _ _).trans (ends_dropFlow id _)

theorem ends_abortCtx (a : AbortInfo) (id : Nat) (s : State) : Ends s (abortCtx a id s) := by
  rw [abortCtx]
  cases runOf s id with
  | none => exact ends_abortPuts a id s
  | some r => exact (ends_abortRun a r s).trans (ends_abortPuts a id _)

theorem ends_abortRebl (a : AbortInfo) (s : State) : Ends s (abortRebl a s) := by
  rw [abortRebl]
  cases s.mer.rebl with
  | none => exact .refl s
  | some b =>
    refine ite_of (P := Ends s) ?_ (.refl s)
    have h := (ends_foldl (f := fun u f => quietCtx (b.base + f) (dropFlow (b.base + f) u))
      (fun u f => (ends_dropFlow _ u).trans (ends_quietCtx _ _)) (List.range b.count) s).trans
      (ends_collAbortRec b.base a _)
    exact h.trans (ends_setMer _ _)

theorem ends_abortGroup (a : AbortInfo) (s : State) : Ends s (abortGroup a s) :=
  (ends_foldl (fun u id => ends_abortCtx a id u) _ s).trans (ends_abortRebl a _)

theorem ends_queueCell (cls : Nat) (c : Cell) (s : State) : Ends s (queueCell cls c s) := ends_setMer s _

theorem ends_spreadAbort (a : AbortInfo) (flow epoch : Nat) (s : State) : Ends s (spreadAbort a flow epoch s) :=
  ends_foldl (f := fun u g => queueCell 1 (shortCell u g 4 0 0 (abortBytes a flow epoch)) u) (fun u _ => ends_queueCell 1 _ u) _ s

theorem ends_raiseAbort (group cause flow : Nat) (s : State) : Ends s (raiseAbort group cause flow s) :=
  ((ends_setMer s _).trans (ends_spreadAbort _ flow _ _)).trans (ends_abortGroup _ _)

theorem ends_raiseOn (id cause : Nat) (s : State) : Ends s (raiseOn id cause s) := by
  rw [raiseOn]
  cases ctxOf s id with
  | none => exact .refl s
  | some c => exact ends_raiseAbort _ cause id s

theorem ends_stopRuns (cl : Nat) (s : State) : Ends s (stopRuns cl s) :=
  ends_foldl (f := fun u (r : FRun) => if (runOf u r.ctx).isSome then raiseOn r.ctx 7 u else u)
    (fun u r => ite_of (ends_raiseOn r.ctx 7 u) (.refl u)) _ s

/-! ### Programs that stop -/

theorem ends_dropPuts (iids : List Nat) (s : State) : Ends s (dropPuts iids s) :=
  ends_foldl (fun u d => ends_setPhot u d _) [5, 6] s

theorem ends_dropCore (cl lane core : Nat) (s : State) : Ends s (dropCore cl lane core s) :=
  (ends_setCore s core _).trans (ends_foldl (fun u i => ends_laneCut cl i lane u) _ _)

theorem ends_dropUnits (cl : Nat) (keep : List Nat) (s : State) : Ends s (dropUnits cl keep s) := by
  refine Ends.trans ?_ (ends_foldl (fun u i => ends_laneCut cl i 8 u) _ _)
  refine Ends.trans ?_ (ends_dropPuts _ _)
  exact ends_setCl_prog s cl rfl

theorem ends_dropAll (cl : Nat) (s : State) : Ends s (dropAll cl s) := by
  unfold dropAll
  extract_lets u d cut v
  have hu : Ends s u := ends_foldl (fun x l => by
    cases laneCore (clOf x cl) cl l with
    | none => exact .refl x
    | some k => exact ends_dropCore cl l k x) _ s
  have hv : Ends u v := ends_dropUnits cl _ u
  clear_value u v
  exact ((hu.trans hv).trans (ends_setDie v _ _)).trans (ends_stopRuns cl _)

theorem ends_trapRec (cl code : Nat) (t : TrapInfo) (s : State) : Ends s (trapRec cl code t s) := ends_record _ s

/-- The program of a cluster that traps stops. -/
def trapped (code : Nat) (t : TrapInfo) (p : Prog) (c : Cluster) : Cluster :=
  { c with
    seq := 5
    trapped := true
    trapCode := code
    heldOn := []
    seen := []
    prog := some { p with
      ending := 2, failed := true, trapPc := t.pc, trapLane := t.lane, trapOp := BitVec.ofNat 16 t.op
      trapTile := t.tile, trapD1 := t.d1, trapD2 := t.d2, trapD3 := t.d3 } }

section
variable {s : State} {cl : Nat} (code : Nat) (t : TrapInfo)

theorem trap_none (h : (clOf s cl).prog = none) : trap cl code t s = s := by rw [trap, h]

theorem trap_stopping {p : Prog} (h : (clOf s cl).prog = some p) (he : p.ending = 2) :
    trap cl code t s = if code < 5 then trapRec cl code t s else s := by
  rw [trap, h]
  exact if_pos he

theorem trap_running {p : Prog} (h : (clOf s cl).prog = some p) (he : p.ending ≠ 2) :
    trap cl code t s = dropAll cl (setCl s cl (trapped code t p (clOf s cl))) := by
  rw [trap, h]
  exact if_neg he

theorem trapped_ending {p q : Prog} {c : Cluster} (h : (trapped code t p c).prog = some q) : q.ending = 2 := by
  obtain rfl := Option.some.inj h
  rfl

theorem ends_trapped {p : Prog} (h : (clOf s cl).prog = some p) : Ends s (setCl s cl (trapped code t p (clOf s cl))) :=
  ends_setCl s cl fun _ hq => .inr ⟨trapped_ending code t hq, by rw [h]; rfl⟩

end

theorem ends_trap (cl code : Nat) (t : TrapInfo) (s : State) : Ends s (trap cl code t s) := by
  cases h : (clOf s cl).prog with
  | none =>
    rw [trap_none code t h]
    exact .refl s
  | some p =>
    by_cases he : p.ending = 2
    · rw [trap_stopping code t h he]
      exact ite_of (ends_trapRec cl code t s) (.refl s)
    · rw [trap_running code t h he]
      exact (ends_trapped code t h).trans (ends_dropAll cl _)

/-- Every program of a cluster is one that stops. -/
def Stopping (s : State) (j : Nat) : Prop := ∀ p, (clOf s j).prog = some p → p.ending = 2

theorem Ends.stopping {s t : State} (h : Ends s t) {j : Nat} (hs : Stopping s j) : Stopping t j :=
  fun p hp => (h.prog j p hp).elim (hs p) And.left

theorem trap_stops (cl code : Nat) (t : TrapInfo) (s : State) : Stopping (trap cl code t s) cl := by
  cases h : (clOf s cl).prog with
  | none =>
    rw [trap_none code t h]
    intro p hp
    rw [h] at hp
    cases hp
  | some p =>
    by_cases he : p.ending = 2
    · refine (ends_trap cl code t s).stopping fun q hq => ?_
      rw [h] at hq
      exact Option.some.inj hq ▸ he
    · rw [trap_running code t h he]
      refine (ends_dropAll cl _).stopping fun q hq => ?_
      rw [clOf_setCl_same] at hq
      exact trapped_ending code t hq

/-! ### Clusters that are cut -/

theorem ends_memberEnded (cl start : Nat) (ok : Bool) (s : State) : Ends s (memberEnded cl start ok s) := by
  refine ends_foldl (fun u x => ?_) _ s
  cases x.work with
  | start left o => exact ite_of (ite_of (ends_completeCmd _ _ u) (ends_setWork _ _ u)) (.refl u)
  | stop left => exact ite_of (ite_of (ends_completeCmd _ _ u) (ends_setWork _ _ u)) (.refl u)
  | _ => exact .refl u

end Sys2Proof.Machine
end

section
/-! PROOF. Family 12 to 16: what the package is left in when it has stopped, when its programs are cut and when its job is closed
(R74, R82, R381, R478, R534). -/

namespace Sys2Proof.Machine

/-! ### Clusters that are cut -/

theorem ends_cutMoves (cl : Nat) (s : State) : Ends s (cutMoves cl s) := by
  unfold cutMoves
  extract_lets d u
  exact (ends_setDie s _ _).trans (ends_foldl (fun u n => ends_setCore u _ _) (List.range 9) u)

theorem ends_cutHeld (cl : Nat) (s : State) : Ends s (cutHeld cl s) :=
  ((ends_cutMoves cl s).trans (ends_abortTokens _ _)).trans (ends_dropPuts _ _)

/-- The state in which the program of a cluster that is cut is gone. -/
def cutQuit (cl : Nat) (s : State) : State :=
  setCl (stopRuns cl (cutHeld cl s)) cl (quitCluster (clOf (stopRuns cl (cutHeld cl s)) cl))

theorem cutCluster_eq (cl : Nat) (s : State) : cutCluster cl s = match (clOf s cl).prog with
    | some p => memberEnded cl p.cmd false (cutQuit cl s)
    | none => cutQuit cl s := by
  unfold cutCluster
  extract_lets p d u v w x y
  have hv : v = cutMoves cl s := rfl
  have hx : x = stopRuns cl (cutHeld cl s) := by
    show stopRuns cl (dropPuts ((clOf w cl).fabQ.map (fun u => u.iid)) w) = _
    rw [show w = abortTokens (cluIds v cl) v from rfl, hv, cutHeld]
  have hy : y = cutQuit cl s := by
    rw [cutQuit, ← hx]
  exact congrArg (fun z => match p with
    | some q => memberEnded cl q.cmd false z
    | none => z) hy

theorem ends_cutQuit (cl : Nat) (s : State) : Ends s (cutQuit cl s) :=
  ((ends_cutHeld cl s).trans (ends_stopRuns cl _)).trans (ends_setCl _ cl fun _ h => nomatch h)

theorem ends_cutCluster (cl : Nat) (s : State) : Ends s (cutCluster cl s) := by
  rw [cutCluster_eq]
  cases (clOf s cl).prog with
  | none => exact ends_cutQuit cl s
  | some p => exact (ends_cutQuit cl s).trans (ends_memberEnded cl p.cmd false _)

theorem Ends.ended {s t : State} (h : Ends s t) {j : Nat} (hs : (clOf s j).prog = none) : (clOf t j).prog = none := by
  rw [Option.eq_none_iff_forall_ne_some]
  intro p hp
  rcases h.prog j p hp with hj | ⟨_, hj⟩
  · rw [hs] at hj
    cases hj
  · rw [hs] at hj
    cases hj

theorem cutQuit_prog (cl : Nat) (s : State) : (clOf (cutQuit cl s) cl).prog = none := by
  rw [cutQuit, clOf_setCl_same]
  rfl

theorem cutCluster_prog (cl : Nat) (s : State) : (clOf (cutCluster cl s) cl).prog = none := by
  rw [cutCluster_eq]
  cases (clOf s cl).prog with
  | none => exact cutQuit_prog cl s
  | some p => exact (ends_memberEnded cl p.cmd false _).ended (cutQuit_prog cl s)

/-- What a step settles of each item, and later steps keep, holds of every item at the end. -/
theorem foldl_settles {α : Type} {P : State → α → Prop} {f : State → α → State} (hf : ∀ u x, Ends u (f u x)) (hx : ∀ u x, P (f u x) x)
    (hk : ∀ s t x, Ends s t → P s x → P t x) (l : List α) (s : State) : ∀ x ∈ l, P (l.foldl f s) x := by
  induction l generalizing s with
  | nil => exact fun _ h => absurd h List.not_mem_nil
  | cons a l ih =>
    intro x hm
    rcases List.mem_cons.mp hm with rfl | hm
    · exact hk _ _ _ (ends_foldl hf l _) (hx s x)
    · exact ih _ x hm

theorem mem_runningCls {s : State} {c : Nat} : c ∈ runningCls s ↔ c < 32 ∧ (clOf s c).prog.isSome = true := by
  rw [runningCls, upto, List.mem_filter, List.mem_range]

/-- The package after the cluster resets of every program. -/
def programsCut (s : State) : State := (runningCls s).foldl (fun u c => cutCluster c u) s

theorem ends_programsCut (s : State) : Ends s (programsCut s) := ends_foldl (fun u c => ends_cutCluster c u) _ s

theorem runningCls_programsCut (s : State) : runningCls (programsCut s) = [] := by
  rw [List.eq_nil_iff_forall_not_mem]
  intro c hc
  obtain ⟨hlt, hp⟩ := mem_runningCls.mp hc
  have hnone : (clOf (programsCut s) c).prog = none := by
    cases h : (clOf s c).prog with
    | none => exact (ends_programsCut s).ended h
    | some p =>
      exact foldl_settles (P := fun u j => (clOf u j).prog = none) (fun u j => ends_cutCluster j u) (fun u j => cutCluster_prog j u)
        (fun _ _ _ he hs => he.ended hs) (runningCls s) s c (mem_runningCls.mpr ⟨hlt, by rw [h]; rfl⟩)
  rw [hnone] at hp
  cases hp

/-! ### The package that has stopped -/

theorem ends_resetStream (st : Nat) (s : State) : Ends s (resetStream st s) :=
  (ends_foldl (fun u w => ends_skipCommand st w { code := 0x13 } u) (strmOf s st).queue s).trans
    (ends_setStrm _ st id (fun h => ⟨h.1, rfl, rfl⟩))

/-- A stream is disabled and reset. -/
def closeStream (st : Nat) (s : State) : State := resetStream st (setStrm s st { strmOf s st with enable := false })

theorem ends_disable (st : Nat) (s : State) : Ends s (setStrm s st { strmOf s st with enable := false }) :=
  ends_setStrm s st (fun _ => rfl) (fun h => ⟨rfl, h.2.1, h.2.2⟩)

theorem ends_closeStream (st : Nat) (s : State) : Ends s (closeStream st s) := (ends_disable st s).trans (ends_resetStream st _)

theorem closeStream_idle (st : Nat) (s : State) : StrmIdle (strmOf (closeStream st s) st) := by
  have ho : (strmOf (setStrm s st { strmOf s st with enable := false }) st).enable = false := by rw [strmOf_setStrm_same]
  rw [closeStream]
  generalize setStrm s st { strmOf s st with enable := false } = u at ho
  rw [resetStream, strmOf_setStrm_same]
  exact ⟨(ends_foldl (fun u w => ends_skipCommand st w { code := 0x13 } u) (strmOf u st).queue u).off st ho, rfl, rfl⟩

/-- A unit that a table does not list has its default state. -/
theorem Tab.get_of_unlisted {α : Type} {d : α} {t : Tab α} {i : Nat} (h : ∀ x ∈ t, x.1 ≠ i) : t.get d i = d := by
  induction t with
  | nil => rfl
  | cons a t ih =>
    rw [Tab.get, if_neg (fun e => h a List.mem_cons_self e.symm)]
    exact ih fun x hx => h x (List.mem_cons_of_mem a hx)

/-- The package with every stream disabled and reset. -/
def streamsClosed (s : State) : State := s.strm.foldl (fun u x => closeStream x.1 u) s

theorem ends_streamsClosed (s : State) : Ends s (streamsClosed s) :=
  ends_foldl (f := fun u (x : Nat × Stream) => closeStream x.1 u) (fun u x => ends_closeStream x.1 u) s.strm s

theorem streamsClosed_idle (s : State) (i : Nat) : StrmIdle (strmOf (streamsClosed s) i) := by
  by_cases h : ∃ x ∈ s.strm, x.1 = i
  · obtain ⟨x, hm, rfl⟩ := h
    exact foldl_settles (P := fun u (x : Nat × Stream) => StrmIdle (strmOf u x.1)) (fun u x => ends_closeStream x.1 u)
      (fun u x => closeStream_idle x.1 u) (fun _ _ _ he => he.strm _) s.strm s x hm
  · refine (ends_streamsClosed s).strm i ?_
    rw [strmOf, Tab.get_of_unlisted (fun x hx e => h ⟨x, hx, e⟩)]
    exact ⟨rfl, rfl, rfl⟩

/-- The package with every program stopped. -/
def programsStopped (s : State) : State := (runningCls s).foldl (fun u c => trap c 5 { pc := (clOf u c).pc } u) s

theorem ends_programsStopped (s : State) : Ends s (programsStopped s) := ends_foldl (fun u c => ends_trap c 5 _ u) _ s

theorem programsStopped_stopping (s : State) {c : Nat} (hc : c < 32) : Stopping (programsStopped s) c := by
  cases h : (clOf s c).prog with
  | none =>
    intro p hp
    rw [(ends_programsStopped s).ended h] at hp
    cases hp
  | some p =>
    exact foldl_settles (P := Stopping) (fun u j => ends_trap j 5 _ u) (fun u j => trap_stops j 5 _ u) (fun _ _ _ he hs => he.stopping hs)
      (runningCls s) s c (mem_runningCls.mpr ⟨hc, by rw [h]; rfl⟩)

/-- The package with every command completed ABORTED. -/
def commandsAborted (s : State) : State := s.cmds.foldl (fun u c => completeCmd c.no .aborted u) s

theorem ends_commandsAborted (s : State) : Ends s (commandsAborted s) :=
  ends_foldl (f := fun u (c : CmdRec) => completeCmd c.no .aborted u) (fun u c => ends_completeCmd c.no .aborted u) s.cmds s

/-- The abort that a stop of the package raises on a group: cause HOST (R478). -/
def stopAbort (s : State) (g : Nat) : AbortInfo := { group := g, cause := 8, serial := s.mer.serial, origin := ownGid s }

/-- The package with the run and the FPUTs of every context aborted. -/
def ctxsAborted (s : State) : State :=
  (busyCtxs s).foldl (fun u id => abortCtx (stopAbort s (((ctxOf u id).map cGroup).getD 0xFFFF)) id u) s

/-- The package with every fabric run aborted locally. -/
def runsAborted (s : State) : State :=
  match (ctxsAborted s).mer.rebl with
  | some b =>
    if b.permute then abortRebl (stopAbort s (((ctxOf (ctxsAborted s) b.base).map cGroup).getD 0xFFFF)) (ctxsAborted s)
    else { ctxsAborted s with mer := { (ctxsAborted s).mer with rebl := none } }
  | none => ctxsAborted s

theorem ends_ctxsAborted (s : State) : Ends s (ctxsAborted s) :=
  ends_foldl (f := fun u id => abortCtx (stopAbort s (((ctxOf u id).map cGroup).getD 0xFFFF)) id u) (fun u id => ends_abortCtx _ id u) _ s

theorem ends_runsAborted (s : State) : Ends s (runsAborted s) := by
  have hu := ends_ctxsAborted s
  rw [runsAborted]
  generalize ctxsAborted s = u at hu
  cases u.mer.rebl with
  | none => exact hu
  | some b => exact hu.trans (ite_of (ends_abortRebl _ u) (ends_setMer u _))

/-- The package with streams closed, programs stopped, and no command nor host request left. -/
def hostQuiet (s : State) : State := { commandsAborted (programsStopped (streamsClosed s)) with hreq := [] }

theorem stopPackage_eq (s : State) : stopPackage s = runsAborted (hostQuiet s) := by
  unfold stopPackage
  extract_lets u v w x a y
  have hw : w = commandsAborted (programsStopped (streamsClosed s)) := rfl
  have hx : x = hostQuiet s := by rw [hostQuiet, ← hw]
  have hy : y = ctxsAborted x := rfl
  have ha (g : Nat) : a g = stopAbort x g := rfl
  rw [← hx, runsAborted, ← hy]
  clear_value a x y
  cases y.mer.rebl with
  | none => rfl
  | some b =>
    show (if b.permute = true then abortRebl (a _) y else _) = _
    rw [ha]

/-- A stopped package has no command, only idle streams, and programs that stop. -/
theorem stopPackage_stops (s : State) : Ends s (stopPackage s) ∧ (stopPackage s).cmds = []
    ∧ (∀ i, StrmIdle (strmOf (stopPackage s) i)) ∧ (∀ c, c < 32 → Stopping (stopPackage s) c) := by
  rw [stopPackage_eq, hostQuiet]
  have h1 := ends_streamsClosed s
  have h2 := ends_programsStopped (streamsClosed s)
  have h3 := ends_commandsAborted (programsStopped (streamsClosed s))
  have hc : (commandsAborted (programsStopped (streamsClosed s))).cmds = [] := foldl_completeCmd_all _ _
  have hs := fun c => programsStopped_stopping (streamsClosed s) (c := c)
  have hi := streamsClosed_idle s
  generalize streamsClosed s = a at *
  generalize programsStopped a = b at *
  generalize commandsAborted b = c at *
  have h4 : Ends c { c with hreq := [] } := .of_same rfl rfl rfl rfl rfl rfl rfl rfl
  have h5 := h4.trans (ends_runsAborted { c with hreq := [] })
  exact ⟨((h1.trans h2).trans h3).trans h5, h5.cmds hc, fun i => ((h2.trans h3).trans h5).strm i (hi i),
    fun j hj => (h3.trans h5).stopping (hs j hj)⟩

/-! ### The job that is closed -/

theorem ends_cutTileMoves (d : Nat) (s : State) : Ends s (cutTileMoves d s) := by
  refine ends_foldl (fun u c => ?_) _ s
  cases c.work with
  | tileMove e _ _ _ => exact ite_of (ends_completeCmd _ _ u) (.refl u)
  | _ => exact .refl u

theorem ends_dropEph (d : Nat) (s : State) : Ends s (dropEph d s) := by
  unfold dropEph
  extract_lets u x
  have hu : Ends s u := ends_foldl (f := fun u (p : Eph × Nat) => completeCmd p.2 .aborted u) (fun u p => ends_completeCmd p.2 .aborted u) _ s
  clear_value u
  exact hu.trans (ends_setDie u d _)

theorem ends_delEntry (d i : Nat) (s : State) : Ends s (delEntry d i s) := .of_same rfl rfl rfl rfl rfl rfl rfl rfl

theorem ends_dropLedger (d : Nat) (s : State) : Ends s (dropLedger d s) := by
  unfold dropLedger
  extract_lets u v w
  have hu : Ends s u := ends_cutTileMoves d s
  have hv : Ends u v := ends_foldl (f := fun x (e : LEntry) => delEntry d e.idx x) (fun x e => ends_delEntry d e.idx x) _ u
  have hw : Ends v w := .of_same rfl rfl rfl rfl rfl rfl rfl rfl
  exact ((hu.trans hv).trans hw).trans (ends_setDie w d _)

theorem ends_releaseTokens (keep : Nat) (s : State) : Ends s (releaseTokens keep s) :=
  ends_foldl (fun u i => ends_setTokW i _ none u) _ s

theorem ends_endLease (p : Nat) (s : State) : Ends s (endLease p s) := by
  unfold endLease
  extract_lets k u
  have hu : Ends s u := ite_of (ends_queueCell _ _ s) (.refl s)
  exact ite_of (hu.trans (ends_setMer u _)) (.refl s)

theorem ends_dropPlan (dies : List Nat) (s : State) : Ends s (dropPlan dies s) := by
  unfold dropPlan
  extract_lets u v
  have hu : Ends s u := ends_foldl (fun x p => ends_endLease p x) _ s
  have hv : Ends u v := ends_foldl (fun x d => ends_setPhot x d _) dies u
  exact ite_of ((hu.trans hv).trans (ends_setMer v _)) (hu.trans hv)

theorem ends_cutLoads (s : State) : Ends s (cutLoads s) := by
  refine ends_foldl (fun u c => ?_) _ s
  cases c.work with
  | lease => exact ends_completeCmd _ _ u
  | leaseHeld _ => exact ends_completeCmd _ _ u
  | flow _ => exact ends_completeCmd _ _ u
  | epoch => exact ends_completeCmd _ _ u
  | waiting => exact ends_completeCmd _ _ u
  | _ => exact .refl u

/-- The closing of a job ends work and forgets the recipe. -/
theorem closeJob_ends (keep : Nat) (s : State) : ∃ u, Ends s u ∧ closeJob keep s = { u with recipe := [] } := by
  unfold closeJob
  extract_lets u v w x
  have hu : Ends s u := ends_foldl (fun y d => (ends_dropEph d y).trans (ends_dropLedger d _)) [0, 1, 2, 3] s
  have hv : Ends u v := ends_releaseTokens keep u
  have hw : Ends v w := ends_foldl (fun y d => (ends_setPhot y d _).trans (ends_setPhot _ d _)) [5, 6] v
  have hx : Ends w x := (ends_cutLoads w).trans (ends_dropPlan [5, 6] _)
  exact ⟨x, ((hu.trans hv).trans hw).trans hx, rfl⟩

end Sys2Proof.Machine
end

section
/-! PROOF. Family 12 to 16: the host port's resets and configuration (R470, R473, R476 to R478, R488, R490). -/

namespace Sys2Proof.Machine

/-! ### Function-level reset -/

section
variable {s : State}

theorem flrLike_outside (h : s.boot.ready = false ∨ s.boot.starting = true) : flrLike s = resetHostRegs s := by
  have hc : (s.boot.ready && !s.boot.starting) = false := by rcases h with h | h <;> simp [h]
  rw [flrLike, if_neg (by rw [hc]; exact Bool.false_ne_true)]

theorem flrLike_service (hr : s.boot.ready = true) (hs : s.boot.starting = false) : flrLike s
    = if runningCls (stopPackage s) = [] then finishFlr (stopPackage s)
      else setPci (stopPackage s) { (stopPackage s).pci with flr := true } := by
  rw [flrLike, if_pos (by rw [hr, hs]; rfl)]
  rfl

theorem Ends.bar2Log2 {t : State} (h : Ends s t) : t.pci.bar2Log2 = s.pci.bar2Log2 := by
  obtain ⟨_, _, hp⟩ := h.pci
  rw [hp]

theorem Ends.flr {t : State} (h : Ends s t) : t.pci.flr = s.pci.flr := by
  obtain ⟨_, _, hp⟩ := h.pci
  rw [hp]

/-- The package in service stops; where no program runs, the reset finishes at once. -/
theorem flrLike_stops (hr : s.boot.ready = true) (hs : s.boot.starting = false) :
    ∃ u, u.cmds = [] ∧ (∀ i, (strmOf u i).enable = false ∧ (strmOf u i).occ = [] ∧ (strmOf u i).e = 1) ∧ u.boot = s.boot
      ∧ u.pci.bar2Log2 = s.pci.bar2Log2 ∧ (∀ c p, c < 32 → (clOf u c).prog = some p → p.ending = 2)
      ∧ (runningCls u = [] → flrLike s = finishFlr u) ∧ (runningCls u ≠ [] → flrLike s = setPci u { u.pci with flr := true }) := by
  obtain ⟨he, hc, hi, hp⟩ := stopPackage_stops s
  rw [flrLike_service hr hs]
  exact ⟨stopPackage s, hc, hi, he.boot, he.bar2Log2, fun c p hlt => hp c hlt p, fun h => if_pos h, fun h => if_neg h⟩

/-- The state that a finished reset leaves before what waits goes on. -/
def flrReset (s : State) : State :=
  let u := zeroMemories (closeJob 0xFFFF { s with job := { s.job with opened := false } })
  resetHostRegs { u with pci := { u.pci with flr := false } }

theorem finishFlr_eq (s : State) : finishFlr s = goOnAll (flrReset s) := rfl

/-- The host-side registers are reset, the job is closed, and the port, the start and the stacks are as before. -/
theorem flrReset_resets (s : State) : (flrReset s).evr = Evr.reset ∧ (flrReset s).pci.msix = [] ∧ (flrReset s).pci.watch = []
    ∧ (flrReset s).pci.winBase = 0 ∧ (flrReset s).pci.winLimit = 0 ∧ (flrReset s).pci.mse = false ∧ (flrReset s).pci.bme = false
    ∧ (flrReset s).pci.d3hot = false ∧ (flrReset s).pci.flr = false ∧ (flrReset s).job.opened = false ∧ (flrReset s).recipe = []
    ∧ (flrReset s).pci.bar2Log2 = s.pci.bar2Log2 ∧ (flrReset s).pci.linkUp = s.pci.linkUp ∧ (flrReset s).boot = s.boot
    ∧ (flrReset s).stack = s.stack ∧ (flrReset s).xferVtag = s.xferVtag := by
  obtain ⟨u, hu, hclose⟩ := closeJob_ends 0xFFFF { s with job := { s.job with opened := false } }
  obtain ⟨_, _, hp⟩ := hu.pci
  have hjob : u.job.opened = false := by rw [hu.job]
  rw [flrReset, hclose]
  refine ⟨rfl, rfl, rfl, rfl, rfl, rfl, rfl, rfl, rfl, hjob, rfl, ?_, ?_, hu.boot, hu.stack, hu.xferVtag⟩
  · show u.pci.bar2Log2 = s.pci.bar2Log2
    rw [hp]
  · show u.pci.linkUp = s.pci.linkUp
    rw [hp]

/-- A reset that is not finished in time cuts what still runs, and then finishes. -/
theorem effFlrStopTimeout_cuts (hf : s.pci.flr = true) (hw : s.boot.stopWarm = none) :
    effFlrStopTimeout s = finishFlr (programsCut s) := by
  have he := ends_programsCut s
  have hgone := runningCls_programsCut s
  rw [effFlrStopTimeout, if_pos hf, cutGroups]
  show stopSettled (programsCut s) = _
  generalize programsCut s = u at he hgone
  rw [stopSettled, if_neg (not_not_intro hgone), if_neg (by rw [he.boot, hw]; exact Bool.false_ne_true),
    if_pos (by rw [he.flr, hf])]

/-! ### Link and configuration -/

theorem configWrite_ready {f : State → State} (hl : s.pci.linkUp = true) (hr : s.pci.ready = true) : configWrite f s = f s := by
  simp [configWrite, hl, hr]

theorem configWrite_retry {f : State → State} (hl : s.pci.linkUp = true) (hr : s.pci.ready = false) :
    configWrite f s = emit .retryStatus s := by
  simp [configWrite, hl, hr]

/-- The port has power, its reset is released and its link is down. -/
structure MayTrain (s : State) : Prop where
  ao : s.pwr.aoPwrGd = true
  shdn : s.pwr.shdnHigh = true
  perst : s.pci.perstHigh = true
  down : s.pci.linkUp = false

theorem effLinkTrained_noFlit (speed width : Nat) : effLinkTrained false speed width s = s :=
  if_pos (.inr (.inr (.inr rfl)))

theorem effLinkTrained_flit (h : MayTrain s) {speed width : Nat} (hs : speed < 8) (hw : width < 16) : effLinkTrained true speed width s
    = if s.pci.ready then setPci s { s.pci with linkUp := true, ready := true, speed := speed, width := width }
      else emit (.deviceReady s.pci.conf) (setPci s { s.pci with linkUp := true, ready := true, speed := speed, width := width }) := by
  rw [effLinkTrained, if_neg (by simp [portPowered, h.ao, h.shdn, h.perst, h.down]), Nat.mod_eq_of_lt hs, Nat.mod_eq_of_lt hw]

/-- A link that trains in flit mode makes the port ready, and says so once. -/
theorem effLinkTrained_trains (h : MayTrain s) {speed width : Nat} (hs : speed < 8) (hw : width < 16) :
    ∃ t, Answers (exec (.linkTrained true speed width) s) t ∧ t.pci = { s.pci with linkUp := true, ready := true, speed := speed, width := width }
      ∧ t.out = (if s.pci.ready then [] else [.deviceReady s.pci.conf]) ++ s.out := by
  refine ⟨_, answers_of_eq (effLinkTrained_flit h hs hw), ?_, ?_⟩
  all_goals
    cases s.pci.ready <;> rfl

theorem effBar2Resize_eq (hl : s.pci.linkUp = true) (hr : s.pci.ready = true) (n : Nat) :
    effBar2Resize n s = if s.pci.mse = false ∧ 30 ≤ n ∧ n ≤ 40 then setPci s { s.pci with bar2Log2 := n } else s := by
  rw [effBar2Resize, configWrite_ready hl hr]
  by_cases h : s.pci.mse = true ∨ n < 30 ∨ 40 < n
  · rw [if_pos h, if_neg (fun hn => ?_)]
    obtain ⟨hm, hlo, hhi⟩ := hn
    rw [hm] at h
    exact h.elim Bool.false_ne_true (by omega)
  · obtain ⟨hm, hn⟩ := not_or.mp h
    rw [if_neg h, if_pos ⟨Bool.not_eq_true _ ▸ hm, by omega, by omega⟩]

/-! ### Messages that wait -/

theorem hostPump_none (h : s.cmds = []) : hostPump s = s := by rw [hostPump, h, List.foldl_nil]

theorem resumeHost_barred (hm : mayRequest s = false) (hc : s.cmds = []) : resumeHost s = s := by
  unfold resumeHost
  rw [hostPump_none hc]
  exact foldl_keeps (P := (· = s)) (fun u m hu => (if_neg (by simp [hu, hm])).trans hu) _ s rfl

theorem resumeHost_sends {v : Nat} {m : Msix} (hm : mayRequest s = true) (hc : s.cmds = []) (hx : s.pci.msix = [(v, m)]) (hp : m.pend = true)
    (hk : m.masked = false) :
    resumeHost s = emit (.msix v m.addr m.data) (setPci s { s.pci with msix := [(v, { m with pend := false })] }) := by
  unfold resumeHost
  rw [hostPump_none hc]
  show s.pci.msix.foldl _ s = _
  rw [hx, List.foldl_cons, List.foldl_nil, if_pos (by simp [hm, hp, hk]), setMsix, hx]
  simp [Tab.put, setPci]

/-! ### IDE -/

theorem effIdeCheckFail_eq (h : s.pci.ideState = 2) : effIdeCheckFail s = linkSecurity 1 { s with
    pci := { s.pci with ideState := 3, ideFailures := satInc 0xFFFFFFFF s.pci.ideFailures, ideBlocked := true }
    encl := { s.encl with ideSets := [] } } := by
  rw [effIdeCheckFail, if_neg (not_not_intro h)]

end

/-- Settles O52, from the state in which the package stops (`stopPackage_stops`) and the one that a finished reset leaves
(`flrReset_resets`). -/
theorem theHostPortResetsAndConfigures : Obligations.TheHostPortResetsAndConfigures := by
  unfold Obligations.TheHostPortResetsAndConfigures
  refine ⟨fun s hl hr => ⟨?_, ?_, _, rfl, ?_⟩, fun s hp => ⟨_, rfl, ?_⟩, fun s h => flrLike_outside h, fun s hr hs => flrLike_stops hr hs,
    fun s => ⟨flrReset s, finishFlr_eq s, flrReset_resets s⟩,
    fun s hf hw => ⟨programsCut s, runningCls_programsCut s, (ends_programsCut s).boot, answers_of_eq (effFlrStopTimeout_cuts hf hw)⟩,
    fun s => rfl, fun s speed width ha hd hp hl hs hw => ⟨answers_of_eq (effLinkTrained_noFlit speed width),
      effLinkTrained_trains ⟨ha, hd, hp, hl⟩ hs hw⟩,
    fun s on n hl => ⟨fun hr => ⟨answers_of_eq (configWrite_ready hl hr), answers_of_eq (configWrite_ready hl hr),
      answers_of_eq (configWrite_ready hl hr), answers_of_eq (effBar2Resize_eq hl hr n)⟩,
      fun hr => ⟨answers_of_eq (configWrite_retry hl hr), answers_of_eq (configWrite_retry hl hr)⟩⟩,
    fun s hm hc => resumeHost_barred hm hc, fun s v m hm hc hx hp hk => resumeHost_sends hm hc hx hp hk,
    fun s h => ⟨_, answers_of_eq (effIdeCheckFail_eq h), rfl, rfl, rfl⟩⟩
  · exact answers_of_eq (configWrite_ready hl hr)
  · exact answers_of_eq (if_pos hl)
  · exact answers_of_eq (if_pos hl)
  · exact answers_of_eq (if_neg (by rw [hp]; exact Bool.false_ne_true))

end Sys2Proof.Machine
end
